-- ==== Sys2Proof/Word.lean ====
section
/-! DEFINITION. The word types of the machine and the names by which steps refer to packs and teams. -/

namespace Sys2Proof

/-- One byte of memory (R3: multi-byte values are little-endian). -/
abbrev Byte := BitVec 8
/-- A 32-bit word: an instruction word (R39) or one lane of a vector register (R43). -/
abbrev Word := BitVec 32
/-- A 64-bit scalar register (R43), also a predicate or the execution mask, bit l for thread l. -/
abbrev DWord := BitVec 64
/-- A vector register: 256 bytes, lane l in bits 32l+31:32l (R20: 64 threads × 32 bits). -/
abbrev Lanes := BitVec 2048
/-- One 128-byte line of memory (R20), byte i in bits 8i+7:8i. -/
abbrev Line := BitVec 1024

/-- A table of values by number, sorted by key, listing no entry equal to the value of an unlisted key. -/
abbrev Tab (α : Type) := List (Nat × α)

/-- A pack by its logical numbers (R23, R37): grid, TEAMID, ROLE, PACKINROLE. -/
structure PackId where
  grid : Nat
  team : Nat
  role : Nat
  pir  : Nat
deriving DecidableEq, Repr

/-- A team by its logical numbers (R344): grid and TEAMID. -/
structure TeamId where
  grid : Nat
  team : Nat
deriving DecidableEq, Repr

/-- The team of a pack. -/
def PackId.teamId (p : PackId) : TeamId := { grid := p.grid, team := p.team }

end Sys2Proof
end

