-- ==== Sys2Proof/Config.lean ====
section
/-! DEFINITION. What an implementation fixes (R2), and the free values: constants with no body, of which nothing can
be proved but what holds of every value. -/

namespace Sys2Proof.Config

/-- Device memory of the 64-core part, in bytes: 768 GiB (R17). -/
def capacity64 : Nat := 768 * 2 ^ 30
/-- Device memory of the 48-core part, in bytes: 576 GiB (R17). -/
def capacity48 : Nat := 576 * 2 ^ 30

/-- The deduplication hash of a block (R286: internal, with no architectural definition). FREE VALUE, log 8. -/
opaque dedupHash : List Byte → BitVec 64

/-- The answer of the boot ROM's signature and version check (R437) on an image. FREE VALUE, log 9: the key hash and
the rollback count fused at manufacture are not in the spec. -/
opaque imageAccepted : List Byte → Bool

/-- The current that a core island draws at an operating point, in steps of 125 MHz (R441). FREE VALUE, log 10. -/
opaque islandCurrent : Nat → Nat

/-- The L2 slice that is the home of a virtual line: its address is hashed over the 64 slices (R16). FREE VALUE, log 60: the
hash is not in the spec. -/
opaque homeSlice : Nat → BitVec 6

/-- The bank and the row of a physical line (R17, R440). FREE VALUE, log 61: the channel hash is not in the spec. -/
opaque dramRow : Nat → Nat × Nat

/-- The downstream branch of the switches behind which a device lies (R417). FREE VALUE, log 33: the spec does not lay out the switches. -/
opaque branchOf : Nat → Nat

/-- The CRC-32 of training results (R439). FREE VALUE, log 61: its polynomial is not in the spec. -/
opaque trainingCrc : List (Nat × BitVec 64 × BitVec 64 × BitVec 64) → BitVec 32

/-- A value the spec leaves open, by the number of its use. FREE VALUE, log 11. -/
opaque freeValue : Nat → BitVec 64

end Sys2Proof.Config
end

