-- ==== Sys2Proof/Syntax.lean ====
section
/-! DEFINITION. Syntax: the operands of events, and Instr, one constructor per row of spec/opcode_table.json
(205 instruction words with exactly the fields the table names, and 108 events with what each is about). -/

namespace Sys2Proof

/-- Where a storage error is met (R368). -/
inductive EccSite where
  /-- an L2 or HBM4E line, by its physical line number -/
  | memory (pline : Nat)
  /-- a 32-byte line of a tile: team, handle, tile byte offset ÷ 32 -/
  | tile (t : TeamId) (h : Nat) (unit : Nat)
  /-- a vector register of a pack, in the lanes of the mask -/
  | vreg (p : PackId) (reg : Nat) (mask : DWord)
  /-- a scalar register of a pack -/
  | sreg (p : PackId) (reg : Nat)
  /-- a line of a core's L1 -/
  | l1 (core : Nat) (ctx : Nat) (line : Nat)
  /-- a single matrix operation (accumulator, weight buffer or A path) -/
  | array (p : PackId) (op : Nat)
deriving DecidableEq, Repr

/-- How a storage error ends (R368, R369). -/
inductive EccOutcome where
  | corrected
  | transient
  | uncorrectable
deriving DecidableEq, Repr

/-- The error record of a lift queue (R300, R302, R305). -/
structure LiftErr where
  code  : Nat
  rsn   : Nat
  addr  : Nat
  coord : DWord
  bit   : Nat
deriving DecidableEq, Repr

/-- What a fabric packet asks or answers (R407, R412, R413, R415). Addresses are virtual at the owner. -/
inductive PacketBody where
  /-- lc: the lease class that the requester can use, 0 for none -/
  | load (ctx : Nat) (va : Nat) (lc : Nat)
  | store (ctx : Nat) (va : Nat) (bytes : List (Nat × Byte))
  /-- early: only its WCT returns, at once (ATOMS) -/
  | atomic (ctx : Nat) (va : Nat) (fn : Nat) (ty : Nat) (lanes : List (Nat × Nat × Nat × Nat)) (early : Bool)
  | loadDone (bytes : List Byte) (leaseEnd : Nat)
  | storeDone (wct : Nat)
  | atomicDone (olds : List (Nat × Nat)) (wct : Nat)
  | error (prot : Bool) (refused : Bool) (poison : Bool)
  /-- collective data (R407, R423): of collective seq of group g, bytes from off on of what a rank contributes -/
  | data (ctx : Nat) (g : Nat) (seq : Nat) (rank : Nat) (off : Nat) (bytes : List Byte)
  /-- a member's report to an agreement unit (R424): completion 0, an ABORTED reason, or acceptance 256; form: what the members'
  descriptors or records have to agree on (R422, R430) -/
  | report (ctx : Nat) (g : Nat) (seq : Nat) (rank : Nat) (rsn : Nat) (form : List Nat)
  /-- a decision of the agreement units (R424), or of a peer that was asked for one -/
  | decision (ctx : Nat) (g : Nat) (seq : Nat) (status : DWord)
  /-- a member that reaches no unit asks for the decision of collective seq, or, for 2^16, of the formation (R425) -/
  | ask (ctx : Nat) (g : Nat) (seq : Nat)
  /-- a packet that no response answers has been accepted (R410) -/
  | ack
deriving DecidableEq, Repr

/-- A fabric packet (R407): source and destination device, virtual lane, table-select, source slot,
end-to-end sequence number, deadline and body; prior: the number and the deadline of the request of the same source slot and line before
it, where that has not been answered (R410, log 49). -/
structure Packet where
  src      : Nat
  dst      : Nat
  vl       : Nat
  select   : Nat
  slot     : Nat
  seq      : Nat
  deadline : Nat
  body     : PacketBody
  prior    : Option (Nat × Nat) := none
deriving DecidableEq, Repr

/-- A report at an agreement unit: the unit, the reason, 256 for an acceptance (R424), and what the members' descriptors or records
have to agree on, where it names that (R422, R430). -/
structure UnitReport where
  unit : Nat
  rsn : Nat
  form : List Nat := []
deriving DecidableEq, Repr

/-- A completion record written on a connection: back records before the latest one (R436). -/
structure RecordRef where
  conn : Nat
  back : Nat
deriving DecidableEq, Repr

/-- One constructor per row of spec/opcode_table.json. -/
inductive Instr where
  /-- R102: Scalar 64-bit wrapping add of two scalar registers. -/
  | sadd (e : Bool) (d : BitVec 6) (a : BitVec 6) (b : BitVec 6)
  /-- R102: Scalar 64-bit wrapping subtract. -/
  | ssub (e : Bool) (d : BitVec 6) (a : BitVec 6) (b : BitVec 6)
  /-- R102: Scalar 64-bit wrapping multiply, low half. -/
  | smul (e : Bool) (d : BitVec 6) (a : BitVec 6) (b : BitVec 6)
  /-- R102: Scalar signed multiply, returns bits 127:64 of the product. -/
  | smulh (e : Bool) (d : BitVec 6) (a : BitVec 6) (b : BitVec 6)
  /-- R102: Scalar bitwise AND. -/
  | sand (e : Bool) (d : BitVec 6) (a : BitVec 6) (b : BitVec 6)
  /-- R102: Scalar bitwise OR. -/
  | sor (e : Bool) (d : BitVec 6) (a : BitVec 6) (b : BitVec 6)
  /-- R102: Scalar bitwise XOR. -/
  | sxor (e : Bool) (d : BitVec 6) (a : BitVec 6) (b : BitVec 6)
  /-- R102: Scalar AND with the complement of the second operand. -/
  | sandn (e : Bool) (d : BitVec 6) (a : BitVec 6) (b : BitVec 6)
  /-- R102: Scalar logical shift left by a register count. -/
  | sshl (e : Bool) (d : BitVec 6) (a : BitVec 6) (b : BitVec 6)
  /-- R102: Scalar logical shift right by a register count. -/
  | sshr (e : Bool) (d : BitVec 6) (a : BitVec 6) (b : BitVec 6)
  /-- R102: Scalar arithmetic shift right by a register count. -/
  | ssar (e : Bool) (d : BitVec 6) (a : BitVec 6) (b : BitVec 6)
  /-- R102: Scalar signed minimum. -/
  | smin (e : Bool) (d : BitVec 6) (a : BitVec 6) (b : BitVec 6)
  /-- R102: Scalar signed maximum. -/
  | smax (e : Bool) (d : BitVec 6) (a : BitVec 6) (b : BitVec 6)
  /-- R102: Scalar count of leading zero bits. -/
  | sclz (e : Bool) (d : BitVec 6) (a : BitVec 6)
  /-- R102: Scalar population count. -/
  | spopc (e : Bool) (d : BitVec 6) (a : BitVec 6)
  /-- R102: Scalar select between s[a] and s[b] by whether s[d] is non-zero. -/
  | ssel (e : Bool) (d : BitVec 6) (a : BitVec 6) (b : BitVec 6)
  /-- R102: Scalar register move. -/
  | smov (e : Bool) (d : BitVec 6) (a : BitVec 6)
  /-- R102: Scalar compare under a condition sub-code, writing 1 or 0. -/
  | scmp (e : Bool) (d : BitVec 6) (a : BitVec 6) (b : BitVec 6) (c : BitVec 3)
  /-- R101: Scalar add of a sign-extended 10-bit immediate. -/
  | saddImm (e : Bool) (d : BitVec 6) (a : BitVec 6) (i : BitVec 10)
  /-- R101: Scalar multiply by a sign-extended 10-bit immediate. -/
  | smulImm (e : Bool) (d : BitVec 6) (a : BitVec 6) (i : BitVec 10)
  /-- R101: Scalar AND with a sign-extended immediate. -/
  | sandImm (e : Bool) (d : BitVec 6) (a : BitVec 6) (i : BitVec 10)
  /-- R101: Scalar OR with a sign-extended immediate. -/
  | sorImm (e : Bool) (d : BitVec 6) (a : BitVec 6) (i : BitVec 10)
  /-- R101: Scalar XOR with a sign-extended immediate. -/
  | sxorImm (e : Bool) (d : BitVec 6) (a : BitVec 6) (i : BitVec 10)
  /-- R101: Scalar shift left by a 6-bit immediate count. -/
  | sshlImm (e : Bool) (d : BitVec 6) (a : BitVec 6) (i : BitVec 6)
  /-- R101: Scalar logical shift right by a 6-bit immediate count. -/
  | sshrImm (e : Bool) (d : BitVec 6) (a : BitVec 6) (i : BitVec 6)
  /-- R101: Scalar arithmetic shift right by a 6-bit immediate count. -/
  | ssarImm (e : Bool) (d : BitVec 6) (a : BitVec 6) (i : BitVec 6)
  /-- R103: Load a sign-extended 19-bit constant into a scalar register. -/
  | sli (e : Bool) (d : BitVec 6) (i : BitVec 19)
  /-- R103: Write a 16-bit constant into quarter q of a scalar register. -/
  | shi (e : Bool) (d : BitVec 6) (q : BitVec 2) (i : BitVec 16)
  /-- R104: Save em and narrow it to the lanes whose predicate is 1. -/
  | mskp (e : Bool) (d : BitVec 6) (a : BitVec 5)
  /-- R104: Save em and narrow it to the lanes whose predicate is 0. -/
  | mskn (e : Bool) (d : BitVec 6) (a : BitVec 5)
  /-- R104: Restore em from a scalar register. -/
  | msks (e : Bool) (a : BitVec 6)
  /-- R104: Copy em into a scalar register. -/
  | mskg (e : Bool) (d : BitVec 6)
  /-- R104: Count the lanes set in em AND a predicate. -/
  | mskpop (e : Bool) (d : BitVec 6) (a : BitVec 5)
  /-- R104: Index of the lowest lane set in em AND a predicate, or 64. -/
  | mskff (e : Bool) (d : BitVec 6) (a : BitVec 5)
  /-- R46: Copy the mode register into a scalar register. -/
  | modeg (e : Bool) (d : BitVec 6)
  /-- R46: Write the mode register from a scalar register, faulting on reserved codes. -/
  | modes (e : Bool) (a : BitVec 6)
  /-- R105: Read a status register by code into a scalar register. -/
  | srd (e : Bool) (d : BitVec 6) (a : BitVec 6)
  /-- R106: No operation. -/
  | nop (e : Bool)
  /-- R107: Reset the pack's arbitration age to 0. -/
  | yield (e : Bool)
  /-- R109: Jump to the address in a scalar register, marked as a return. -/
  | ret (a : BitVec 6)
  /-- R109: Jump to the address in a scalar register. -/
  | jmp (a : BitVec 6)
  /-- R111: Set all fields of the mode register from the word. -/
  | mode (e : Bool) (t : BitVec 4) (r : BitVec 3) (g : BitVec 1) (s : BitVec 1) (p : BitVec 5) (u : BitVec 1)
  /-- R113: End the run and wait until the wait counters fall to the given thresholds. -/
  | hold (e : Bool) (l : BitVec 5) (s : BitVec 5) (t : BitVec 5) (m : BitVec 5) (c : BitVec 5)
  /-- R115: Unconditional relative branch. -/
  | bra (o : BitVec 22)
  /-- R115: Relative call writing the return address into s63. -/
  | call (o : BitVec 22)
  /-- R115: Branch when em is zero. -/
  | bemz (o : BitVec 22)
  /-- R115: Branch when em is all ones. -/
  | bemf (o : BitVec 22)
  /-- R115: Branch when a scalar register is zero. -/
  | bz (s : BitVec 6) (o : BitVec 18)
  /-- R115: Branch when a scalar register is non-zero. -/
  | bnz (s : BitVec 6) (o : BitVec 18)
  /-- R122: Vector integer add, saturating under SAT. -/
  | vadd (e : Bool) (d : BitVec 6) (a : BitVec 6) (b : BitVec 6) (x : Bool) (y : Bool)
  /-- R123: Vector carry-out of an unsigned add. -/
  | vaddc (e : Bool) (d : BitVec 6) (a : BitVec 6) (b : BitVec 6) (x : Bool) (y : Bool)
  /-- R122: Vector integer subtract, saturating under SAT. -/
  | vsub (e : Bool) (d : BitVec 6) (a : BitVec 6) (b : BitVec 6) (x : Bool) (y : Bool)
  /-- R123: Vector borrow of an unsigned subtract. -/
  | vsubb (e : Bool) (d : BitVec 6) (a : BitVec 6) (b : BitVec 6) (x : Bool) (y : Bool)
  /-- R122: Vector integer multiply, saturating under SAT. -/
  | vmul (e : Bool) (d : BitVec 6) (a : BitVec 6) (b : BitVec 6) (x : Bool) (y : Bool)
  /-- R122: Vector high half of an integer product. -/
  | vmulh (e : Bool) (d : BitVec 6) (a : BitVec 6) (b : BitVec 6) (x : Bool) (y : Bool)
  /-- R122: Vector integer multiply-add into the destination. -/
  | vmad (e : Bool) (d : BitVec 6) (a : BitVec 6) (b : BitVec 6) (x : Bool) (y : Bool)
  /-- R122: Vector integer minimum. -/
  | vmin (e : Bool) (d : BitVec 6) (a : BitVec 6) (b : BitVec 6) (x : Bool) (y : Bool)
  /-- R122: Vector integer maximum. -/
  | vmax (e : Bool) (d : BitVec 6) (a : BitVec 6) (b : BitVec 6) (x : Bool) (y : Bool)
  /-- R122: Vector integer absolute value. -/
  | vabs (e : Bool) (d : BitVec 6) (a : BitVec 6) (x : Bool)
  /-- R122: Vector integer negate. -/
  | vneg (e : Bool) (d : BitVec 6) (a : BitVec 6) (x : Bool)
  /-- R122: Vector bitwise AND. -/
  | vand (e : Bool) (d : BitVec 6) (a : BitVec 6) (b : BitVec 6) (x : Bool) (y : Bool)
  /-- R122: Vector bitwise OR. -/
  | vor (e : Bool) (d : BitVec 6) (a : BitVec 6) (b : BitVec 6) (x : Bool) (y : Bool)
  /-- R122: Vector bitwise XOR. -/
  | vxor (e : Bool) (d : BitVec 6) (a : BitVec 6) (b : BitVec 6) (x : Bool) (y : Bool)
  /-- R122: Vector bitwise NOT. -/
  | vnot (e : Bool) (d : BitVec 6) (a : BitVec 6) (x : Bool)
  /-- R122: Vector AND with complement. -/
  | vandn (e : Bool) (d : BitVec 6) (a : BitVec 6) (b : BitVec 6) (x : Bool) (y : Bool)
  /-- R124: Vector logical shift left per element. -/
  | vshl (e : Bool) (d : BitVec 6) (a : BitVec 6) (b : BitVec 6) (x : Bool) (y : Bool)
  /-- R124: Vector logical shift right per element. -/
  | vshr (e : Bool) (d : BitVec 6) (a : BitVec 6) (b : BitVec 6) (x : Bool) (y : Bool)
  /-- R124: Vector arithmetic shift right per element. -/
  | vsar (e : Bool) (d : BitVec 6) (a : BitVec 6) (b : BitVec 6) (x : Bool) (y : Bool)
  /-- R124: Vector rotate left per element. -/
  | vrot (e : Bool) (d : BitVec 6) (a : BitVec 6) (b : BitVec 6) (x : Bool) (y : Bool)
  /-- R125: Vector count of leading zeros per element. -/
  | vclz (e : Bool) (d : BitVec 6) (a : BitVec 6) (x : Bool)
  /-- R125: Vector index of lowest set bit per element. -/
  | vffs (e : Bool) (d : BitVec 6) (a : BitVec 6) (x : Bool)
  /-- R125: Vector population count per element. -/
  | vpopc (e : Bool) (d : BitVec 6) (a : BitVec 6) (x : Bool)
  /-- R125: Vector bit reversal within each element. -/
  | vbrev (e : Bool) (d : BitVec 6) (a : BitVec 6) (x : Bool)
  /-- R126: Vector select between two registers by the guard predicate. -/
  | vsel (e : Bool) (d : BitVec 6) (a : BitVec 6) (b : BitVec 6) (x : Bool) (y : Bool)
  /-- R122: Vector register move. -/
  | vmov (e : Bool) (d : BitVec 6) (a : BitVec 6) (x : Bool)
  /-- R127: Vector add of a sign-extended immediate. -/
  | vaddImm (e : Bool) (d : BitVec 6) (a : BitVec 6) (i : BitVec 10)
  /-- R127: Vector multiply by a sign-extended immediate. -/
  | vmulImm (e : Bool) (d : BitVec 6) (a : BitVec 6) (i : BitVec 10)
  /-- R127: Vector AND with an immediate. -/
  | vandImm (e : Bool) (d : BitVec 6) (a : BitVec 6) (i : BitVec 10)
  /-- R127: Vector OR with an immediate. -/
  | vorImm (e : Bool) (d : BitVec 6) (a : BitVec 6) (i : BitVec 10)
  /-- R127: Vector XOR with an immediate. -/
  | vxorImm (e : Bool) (d : BitVec 6) (a : BitVec 6) (i : BitVec 10)
  /-- R127: Vector shift left by an immediate count. -/
  | vshlImm (e : Bool) (d : BitVec 6) (a : BitVec 6) (i : BitVec 6)
  /-- R127: Vector logical shift right by an immediate count. -/
  | vshrImm (e : Bool) (d : BitVec 6) (a : BitVec 6) (i : BitVec 6)
  /-- R127: Vector arithmetic shift right by an immediate count. -/
  | vsarImm (e : Bool) (d : BitVec 6) (a : BitVec 6) (i : BitVec 6)
  /-- R128: Load a sign-extended 19-bit constant into the active lanes of a vector register. -/
  | vli (e : Bool) (d : BitVec 6) (i : BitVec 19)
  /-- R131: Write each active lane's index. -/
  | vlane (e : Bool) (d : BitVec 6)
  /-- R131: Vector shuffle by per-lane source indices. -/
  | vshf (e : Bool) (d : BitVec 6) (a : BitVec 6) (b : BitVec 6) (x : Bool) (y : Bool)
  /-- R131: Vector rotation across lanes by a scalar step. -/
  | vstep (e : Bool) (d : BitVec 6) (a : BitVec 6) (b : BitVec 6) (x : Bool)
  /-- R131: Broadcast one lane of a vector register to the active lanes. -/
  | vbcast (e : Bool) (d : BitVec 6) (a : BitVec 6) (b : BitVec 6) (x : Bool)
  /-- R131: Copy one lane of a vector register into a scalar register. -/
  | vget (e : Bool) (d : BitVec 6) (a : BitVec 6) (b : BitVec 6) (x : Bool)
  /-- R133: Vector bit-field extract. -/
  | vbfx (e : Bool) (d : BitVec 6) (a : BitVec 6) (b : BitVec 6) (x : Bool) (y : Bool)
  /-- R133: Vector bit-field insert. -/
  | vbfi (e : Bool) (d : BitVec 6) (a : BitVec 6) (b : BitVec 6) (x : Bool) (y : Bool)
  /-- R129: Vector integer compare writing a predicate. -/
  | vcmp (e : Bool) (d : BitVec 5) (a : BitVec 6) (b : BitVec 6) (x : Bool) (y : Bool) (c : BitVec 3)
  /-- R130: Predicate logic operation per active lane. -/
  | plog (e : Bool) (d : BitVec 5) (a : BitVec 5) (b : BitVec 5) (o : BitVec 3)
  /-- R140: Floating-point add. -/
  | fadd (e : Bool) (d : BitVec 6) (a : BitVec 6) (b : BitVec 6) (x : Bool) (y : Bool)
  /-- R140: Floating-point subtract. -/
  | fsub (e : Bool) (d : BitVec 6) (a : BitVec 6) (b : BitVec 6) (x : Bool) (y : Bool)
  /-- R140: Floating-point multiply. -/
  | fmul (e : Bool) (d : BitVec 6) (a : BitVec 6) (b : BitVec 6) (x : Bool) (y : Bool)
  /-- R141: Floating-point minimumNumber. -/
  | fmin (e : Bool) (d : BitVec 6) (a : BitVec 6) (b : BitVec 6) (x : Bool) (y : Bool)
  /-- R141: Floating-point maximumNumber. -/
  | fmax (e : Bool) (d : BitVec 6) (a : BitVec 6) (b : BitVec 6) (x : Bool) (y : Bool)
  /-- R140: Clear the sign bit of each element. -/
  | fabs (e : Bool) (d : BitVec 6) (a : BitVec 6) (x : Bool)
  /-- R140: Invert the sign bit of each element. -/
  | fneg (e : Bool) (d : BitVec 6) (a : BitVec 6) (x : Bool)
  /-- R143: Write a class mask for each element. -/
  | fclass (e : Bool) (d : BitVec 6) (a : BitVec 6) (x : Bool)
  /-- R142: Round each element to an integral value. -/
  | frint (e : Bool) (d : BitVec 6) (a : BitVec 6) (x : Bool)
  /-- R144: Correctly rounded floating-point division. -/
  | fdiv (e : Bool) (d : BitVec 6) (a : BitVec 6) (b : BitVec 6) (x : Bool) (y : Bool)
  /-- R145: Floating-point compare writing a predicate. -/
  | fcmp (e : Bool) (d : BitVec 5) (a : BitVec 6) (b : BitVec 6) (x : Bool) (y : Bool) (c : BitVec 3)
  /-- R147: Correctly rounded reciprocal. -/
  | frcp (e : Bool) (d : BitVec 6) (a : BitVec 6) (x : Bool)
  /-- R147: Correctly rounded reciprocal square root. -/
  | frsq (e : Bool) (d : BitVec 6) (a : BitVec 6) (x : Bool)
  /-- R147: Correctly rounded square root. -/
  | fsqrt (e : Bool) (d : BitVec 6) (a : BitVec 6) (x : Bool)
  /-- R147: Correctly rounded base-2 exponential. -/
  | fexp2 (e : Bool) (d : BitVec 6) (a : BitVec 6) (x : Bool)
  /-- R147: Correctly rounded base-2 logarithm. -/
  | flog2 (e : Bool) (d : BitVec 6) (a : BitVec 6) (x : Bool)
  /-- R147: Correctly rounded sine. -/
  | fsin (e : Bool) (d : BitVec 6) (a : BitVec 6) (x : Bool)
  /-- R147: Correctly rounded cosine. -/
  | fcos (e : Bool) (d : BitVec 6) (a : BitVec 6) (x : Bool)
  /-- R147: Correctly rounded hyperbolic tangent. -/
  | ftanh (e : Bool) (d : BitVec 6) (a : BitVec 6) (x : Bool)
  /-- R146: Fused multiply-add into the destination with one rounding. -/
  | ffma (e : Bool) (d : BitVec 6) (a : BitVec 6) (b : BitVec 6) (x : Bool) (y : Bool) (o : BitVec 2)
  /-- R148: Return and set or clear the sticky floating-point flags. -/
  | fflags (e : Bool) (d : BitVec 6) (a : BitVec 6) (b : BitVec 6)
  /-- R155: Convert elements from the mode type to the destination type. -/
  | cvt (e : Bool) (d : BitVec 6) (a : BitVec 6) (t : BitVec 6) (x : Bool)
  /-- R156: Widen one packed stored-format element to FP32. -/
  | unpk (e : Bool) (d : BitVec 6) (a : BitVec 6) (t : BitVec 6) (x : Bool) (p : BitVec 3)
  /-- R157: Narrow two FP32 values to BF16 and pack them. -/
  | pack2Bf16 (e : Bool) (d : BitVec 6) (a : BitVec 6) (b : BitVec 6) (x : Bool) (y : Bool)
  /-- R157: Narrow two FP32 values to FP16 and pack them. -/
  | pack2F16 (e : Bool) (d : BitVec 6) (a : BitVec 6) (b : BitVec 6) (x : Bool) (y : Bool)
  /-- R157: Narrow four FP32 values to E4M3 and pack them. -/
  | pack4E4m3 (e : Bool) (d : BitVec 6) (a : BitVec 5) (b : BitVec 5) (x : Bool) (y : Bool)
  /-- R157: Narrow four FP32 values to E5M2 and pack them. -/
  | pack4E5m2 (e : Bool) (d : BitVec 6) (a : BitVec 5) (b : BitVec 5) (x : Bool) (y : Bool)
  /-- R157: Quantise four FP32 values to E2M1X into the low half. -/
  | pack4hLo (e : Bool) (d : BitVec 6) (a : BitVec 5) (b : BitVec 5) (x : Bool) (y : Bool)
  /-- R157: Quantise four FP32 values to E2M1X into the high half. -/
  | pack4hHi (e : Bool) (d : BitVec 6) (a : BitVec 5) (b : BitVec 5) (x : Bool) (y : Bool)
  /-- R160: Choose the smallest E8M0 scale per 32-lane group. -/
  | bscale (e : Bool) (d : BitVec 6) (a : BitVec 6) (t : BitVec 6) (x : Bool)
  /-- R162: Quantise each lane group to a CB4 codebook. -/
  | qcb (e : Bool) (d : BitVec 6) (a : BitVec 6) (k : BitVec 2) (x : Bool)
  /-- R161: Set the X register and quantise one value to E2M1X under it. -/
  | xset (e : Bool) (d : BitVec 6) (a : BitVec 6) (b : BitVec 6) (x : Bool) (y : Bool)
  /-- R163: Load a 16-entry codebook from lanes 0 to 7 of a register. -/
  | cbld (e : Bool) (k : BitVec 2) (a : BitVec 6) (x : Bool)
  /-- R176: Quantise one eight-element point per lane to a LAT8 code. -/
  | qlat (e : Bool) (d : BitVec 6) (a : BitVec 3) (b : BitVec 6) (x : Bool) (y : Bool)
  /-- R177: Decode one LAT8 code per lane into a block of eight registers. -/
  | dlat (e : Bool) (d : BitVec 3) (a : BitVec 6) (b : BitVec 6) (x : Bool) (y : Bool)
  /-- R178: Replace one element of a LAT8 point and requantise it. -/
  | lput (e : Bool) (d : BitVec 6) (a : BitVec 6) (b : BitVec 6) (x : Bool) (y : Bool)
  /-- R179: Raise a control word's scale until the point fits the radius. -/
  | lscale (e : Bool) (d : BitVec 6) (a : BitVec 3) (b : BitVec 6) (x : Bool) (y : Bool)
  /-- R180: Return the shell and coset bit of a LAT8 code. -/
  | lshell (e : Bool) (d : BitVec 6) (a : BitVec 6) (b : BitVec 6) (x : Bool) (y : Bool)
  /-- R180: Decode one element of a LAT8 code. -/
  | lget (e : Bool) (d : BitVec 6) (a : BitVec 6) (b : BitVec 6) (x : Bool) (y : Bool)
  /-- R181: Rank a point given in doubled coordinates. -/
  | lpack (e : Bool) (d : BitVec 6) (a : BitVec 6) (b : BitVec 6) (x : Bool) (y : Bool)
  /-- R180: Set a predicate when the selected halves hold valid LAT8 codes. -/
  | lchk (e : Bool) (d : BitVec 5) (a : BitVec 6) (s : BitVec 2) (x : Bool)
  /-- R198: Load 4 bytes per active lane from a tile at per-lane coordinates. -/
  | tld (e : Bool) (v : BitVec 6) (h : BitVec 6) (c : BitVec 6) (l : Bool)
  /-- R198: Store 4 bytes per active lane into a tile at per-lane coordinates. -/
  | tst (e : Bool) (v : BitVec 6) (h : BitVec 6) (c : BitVec 6) (l : Bool)
  /-- R199: Load 4 bytes from a tile into a scalar register. -/
  | tlds (e : Bool) (v : BitVec 6) (h : BitVec 6) (c : BitVec 6)
  /-- R194: Allocate or bind a tile handle and return a status. -/
  | talloc (e : Bool) (v : BitVec 6) (h : BitVec 6) (c : BitVec 6)
  /-- R196: Release a tile handle and return a status. -/
  | tfree (e : Bool) (v : BitVec 6) (h : BitVec 6)
  /-- R197: Return a handle's shape descriptor. -/
  | tinfo (e : Bool) (v : BitVec 6) (h : BitVec 6)
  /-- R200: Fill every element of a tile with a scalar pattern. -/
  | tfill (e : Bool) (v : BitVec 6) (h : BitVec 6)
  /-- R204: Return a tile's write pointer, as an acquire for the reported bytes. -/
  | twptr (e : Bool) (v : BitVec 6) (h : BitVec 6)
  /-- R228: Global vector load of the given width. -/
  | ld (e : Bool) (v : BitVec 6) (b : BitVec 6) (o : BitVec 6) (l : Bool) (w : BitVec 3)
  /-- R228: Global vector store of the given width. -/
  | st (e : Bool) (v : BitVec 6) (b : BitVec 6) (o : BitVec 6) (l : Bool) (w : BitVec 2)
  /-- R229: Private-memory vector load. -/
  | ldp (e : Bool) (v : BitVec 6) (b : BitVec 6) (o : BitVec 6) (l : Bool) (w : BitVec 3)
  /-- R229: Private-memory vector store. -/
  | stp (e : Bool) (v : BitVec 6) (b : BitVec 6) (o : BitVec 6) (l : Bool) (w : BitVec 2)
  /-- R230: Scalar load from global memory. -/
  | lds (e : Bool) (v : BitVec 6) (b : BitVec 6) (n : BitVec 6) (w : BitVec 3)
  /-- R230: Scalar store to global memory. -/
  | sts (e : Bool) (v : BitVec 6) (b : BitVec 6) (n : BitVec 6) (w : BitVec 2)
  /-- R231: Prefetch the active lanes' lines into the L2 or L1. -/
  | pref (e : Bool) (p : BitVec 1) (b : BitVec 6) (o : BitVec 6) (l : Bool)
  /-- R232: Write back every dirty private line of the pack. -/
  | pflush (e : Bool)
  /-- R251: Integer atomic returning the old value. -/
  | atom (e : Bool) (v : BitVec 6) (b : BitVec 6) (o : BitVec 6) (l : Bool) (f : BitVec 6)
  /-- R252: Floating-point atomic returning the old value. -/
  | atomf (e : Bool) (v : BitVec 6) (b : BitVec 6) (o : BitVec 6) (l : Bool) (f : BitVec 6)
  /-- R253: 32-bit compare and swap. -/
  | cas (e : Bool) (v : BitVec 5) (b : BitVec 6) (o : BitVec 6) (l : Bool) (s : BitVec 3)
  /-- R253: 64-bit compare and swap. -/
  | cas64 (e : Bool) (v : BitVec 4) (b : BitVec 6) (o : BitVec 6) (l : Bool) (s : BitVec 3)
  /-- R254: Load with acquire semantics. -/
  | ldaq (e : Bool) (v : BitVec 6) (b : BitVec 6) (o : BitVec 6) (l : Bool) (w : BitVec 1) (s : BitVec 3)
  /-- R255: Release followed by a store. -/
  | strl (e : Bool) (v : BitVec 6) (b : BitVec 6) (o : BitVec 6) (l : Bool) (w : BitVec 1) (s : BitVec 3)
  /-- R256: Wait for the release conditions of a scope, then acquire. -/
  | fence (e : Bool) (s : BitVec 3)
  /-- R251: Integer atomic without a returned old value, counted as a store. -/
  | atoms (e : Bool) (v : BitVec 6) (b : BitVec 6) (o : BitVec 6) (l : Bool) (f : BitVec 6)
  /-- R277: Validate a code table in tile memory and load it into a slot. -/
  | ctld (e : Bool) (n : BitVec 4) (h : BitVec 6) (c : BitVec 6)
  /-- R277: Empty a code-table slot. -/
  | ctinv (e : Bool) (n : BitVec 4)
  /-- R278: Read and check a block index entry for a tile coordinate. -/
  | bixq (e : Bool) (v : BitVec 6) (h : BitVec 6) (c : BitVec 6)
  /-- R284: Check and submit a block in tile memory for append to a tensor. -/
  | kvapp (e : Bool) (v : BitVec 6) (h : BitVec 6) (c : BitVec 5)
  /-- R279: Read the scale section of a stream into a vector register. -/
  | dech (e : Bool) (v : BitVec 6) (h : BitVec 6) (c : BitVec 5)
  /-- R280: Decode 256 elements of a stream into four vector registers. -/
  | dec (e : Bool) (v : BitVec 4) (h : BitVec 6) (c : BitVec 5)
  /-- R281: Encode whole groups from four vector registers into a stream. -/
  | enc (e : Bool) (v : BitVec 4) (h : BitVec 6) (c : BitVec 5) (l : Bool)
  /-- R282: Write the stream header and padding and return the length. -/
  | encf (e : Bool) (v : BitVec 6) (h : BitVec 6) (c : BitVec 5)
  /-- R304: Submit a lift command block to a channel queue and return a ticket. -/
  | lift (e : Bool) (d : BitVec 6) (a : BitVec 6)
  /-- R305: Return status or error details of a lift queue. -/
  | lqry (e : Bool) (d : BitVec 6) (a : BitVec 6)
  /-- R306: Cancel the commands of a lift queue and restart it. -/
  | lcan (e : Bool) (d : BitVec 6) (a : BitVec 6)
  /-- R311: Initialise a gate. -/
  | ginit (e : Bool) (v : BitVec 6) (h : BitVec 6) (c : BitVec 6)
  /-- R311: Add to a gate's expected count. -/
  | gexp (e : Bool) (v : BitVec 6) (h : BitVec 6) (c : BitVec 6)
  /-- R311: Release at team scope, then arrive on a gate. -/
  | garr (e : Bool) (v : BitVec 6) (h : BitVec 6) (c : BitVec 6)
  /-- R312: Block until a gate's phase flips or it records an error. -/
  | gwait (e : Bool) (v : BitVec 6) (h : BitVec 6) (c : BitVec 6)
  /-- R311: Read a gate's state as an acquire. -/
  | gtry (e : Bool) (v : BitVec 6) (h : BitVec 6) (c : BitVec 6)
  /-- R326: Stream 64 A rows through the active weight buffer into accumulator tiles. -/
  | mma (e : Bool) (n : BitVec 4) (g : BitVec 1) (k : BitVec 1) (s : BitVec 6) (p : BitVec 1) (f : BitVec 6)
  /-- R327: Decode a stored block through the weight port into the shadow buffer. -/
  | mwld (e : Bool) (v : BitVec 6) (h : BitVec 6) (c : BitVec 5)
  /-- R328: Exchange the active and shadow weight buffers. -/
  | mswap (e : Bool)
  /-- R329: Zero accumulator tiles and make them valid. -/
  | mzero (e : Bool) (n : BitVec 4) (x : BitVec 4)
  /-- R330: Read accumulator tile elements into a vector register. -/
  | mrd (e : Bool) (n : BitVec 4) (d : BitVec 6) (x : BitVec 6)
  /-- R330: Write vector lanes into accumulator tile elements. -/
  | mwr (e : Bool) (n : BitVec 4) (s : BitVec 6) (x : BitVec 6)
  /-- R331: Free the pack's A latch. -/
  | mrel (e : Bool)
  /-- R332: Free the A latch and record the live set of accumulator tiles. -/
  | ppt (e : Bool) (m : BitVec 16)
  /-- R353: Submit a child grid from a launch record. -/
  | launch (e : Bool) (d : BitVec 6) (a : BitVec 6)
  /-- R354: Release, arrive at and wait on a team barrier. -/
  | tbar (e : Bool) (a : BitVec 6)
  /-- R354: Release, arrive at and wait on a gang barrier. -/
  | gbar (e : Bool) (a : BitVec 6)
  /-- R355: Release at system scope, then atomically add to an event word. -/
  | evsig (e : Bool) (d : BitVec 6) (a : BitVec 6) (b : BitVec 6)
  /-- R356: Block until an event word reaches a value. -/
  | evwait (e : Bool) (a : BitVec 6) (b : BitVec 6)
  /-- R428: Release, read a collective descriptor and start the collective. -/
  | coll (e : Bool) (d : BitVec 6) (a : BitVec 6)
  /-- R429: Block until a collective or group status word reports DONE. -/
  | cwait (e : Bool) (d : BitVec 6) (a : BitVec 6)
  /-- R430: Release and start forming a communication group. -/
  | grpf (e : Bool) (d : BitVec 6) (a : BitVec 6)
  /-- R431: Return and clear bits of the fabric status register. -/
  | fstat (e : Bool) (d : BitVec 6) (a : BitVec 6)
  /-- R381: Raise SWTRAP precisely with a number. -/
  | trap (e : Bool) (n : BitVec 6)
  /-- R382: Leave the trap handler, restoring the frame. -/
  | rte (a : BitVec 6)
  /-- R383: Read a privileged register. -/
  | ssrd (e : Bool) (d : BitVec 6) (a : BitVec 6) (b : BitVec 6)
  /-- R383: Write a privileged register. -/
  | sswr (e : Bool) (a : BitVec 6) (b : BitVec 6)
  /-- R381: Raise BREAK precisely at the word. -/
  | bkpt (e : Bool) (n : BitVec 6)
  /-- R384: Halt the team, gang or grid. -/
  | halt (e : Bool) (a : BitVec 6)
  /-- R385: Read a hardware counter. -/
  | cntrd (e : Bool) (d : BitVec 6) (a : BitVec 6)
  /-- R402: Return the dirty-log state of a context as an acquire. -/
  | dlogStat (e : Bool) (d : BitVec 6) (a : BitVec 6)
  /-- R402: Enable a context's dirty log on the issuer's ring. -/
  | dlogStart (e : Bool) (d : BitVec 6) (a : BitVec 6)
  /-- R402: Disable a context's dirty log. -/
  | dlogStop (e : Bool) (d : BitVec 6) (a : BitVec 6)
  /-- R402: Advance the dirty-log consumer index. -/
  | dlogAck (e : Bool) (d : BitVec 6) (a : BitVec 6)
  /-- R402: Return the dirty-log consumer index. -/
  | dlogCons (e : Bool) (d : BitVec 6) (a : BitVec 6)
  /-- R403: Read a freeze descriptor and accept a freeze or resume. -/
  | frz (e : Bool) (d : BitVec 6) (a : BitVec 6)
  /-- R116: A branch target arrives in the instruction cache and pack p becomes ready. -/
  | icacheFill (p : PackId)
  /-- R96: The destination lanes of load or atomic op are written; ld falls. -/
  | loadLaneReturn (p : PackId) (op : Nat)
  /-- R211: The home returns the WCT of store op; LWCT is updated and st falls. -/
  | storeWctReturn (p : PackId) (op : Nat)
  /-- R96: Tile access op retires and tl falls. -/
  | tileAccessRetire (p : PackId) (op : Nat)
  /-- R96: Matrix operation op retires, posts its flags, and mx falls. -/
  | matrixOpRetire (p : PackId) (op : Nat)
  /-- R276: The decode or encode unit writes the result of op and dc falls. -/
  | decodeUnitRetire (p : PackId) (op : Nat)
  /-- R220: A page-fault report has reached the core and p parks. -/
  | pageFaultPark (p : PackId)
  /-- R360: After the counters drain, p enters its handler or halts its team. -/
  | trapEntry (p : PackId)
  /-- R364: The halt broadcast reaches p's core. -/
  | haltBroadcastArrive (p : PackId)
  /-- R336: The stall of array word op ends and it reaches the array. -/
  | mmaArrayStart (p : PackId) (op : Nat)
  /-- R327: MWLD op writes the shadow buffer. -/
  | mwldBufferWrite (p : PackId) (op : Nat)
  /-- R323: Pair operation op slaves the follow array. -/
  | pairSlave (p : PackId) (op : Nat)
  /-- R96: Pack p, with all counters 0, is saved. -/
  | packSave (p : PackId)
  /-- R108: Exiting or halted pack p retires. -/
  | packRetire (p : PackId)
  /-- R356: p, waiting in EVWAIT, reads its event word again. -/
  | evwaitReread (p : PackId)
  /-- R429: p, waiting in CWAIT, reads its status word again. -/
  | cwaitReread (p : PackId)
  /-- R189: Clearing of the freed granules from start on the core is done. -/
  | granuleClearDone (core : Nat) (start : Nat)
  /-- R346: The launch unit places the next single team of grid g. -/
  | teamPlace (g : Nat)
  /-- R347: The launch unit places the next gang of grid g. -/
  | gangPlace (g : Nat)
  /-- R348: Lower-priority work is evicted to make room for grid g. -/
  | evict (g : Nat)
  /-- R350: Team t, its packs retired and work drained, exits. -/
  | teamExit (t : TeamId)
  /-- R351: Grid g, all teams exited and children retired, retires. -/
  | gridRetire (g : Nat)
  /-- R338: The queue unit reads record HEAD of queue q. -/
  | launchRecordRead (q : Nat)
  /-- R339: The queue unit reads the wait word of q's waiting grid. -/
  | waitConditionRead (q : Nat)
  /-- R210: The load of line by op of p reaches its home. -/
  | homeLoad (p : PackId) (op : Nat) (line : Nat)
  /-- R237: The write of line by op of p reaches its home. -/
  | homeWrite (p : PackId) (op : Nat) (line : Nat)
  /-- R236: The GTC reaches the WCT of the oldest pending write of the line. -/
  | homeWritePerform (ctx : Nat) (line : Nat)
  /-- R248: The lanes of atomic op in line are performed as one write. -/
  | homeAtomic (p : PackId) (op : Nat) (line : Nat)
  /-- R285: The controller performs or refuses the append of KVAPP op. -/
  | kvappAppend (p : PackId) (op : Nat)
  /-- R296: Channel ch checks and starts the next command of t's queue. -/
  | liftCommandStart (t : TeamId) (ch : Nat)
  /-- R295: Channel ch copies one block into a tile. -/
  | liftCopy (t : TeamId) (ch : Nat)
  /-- R295: Channel ch decodes one block and commits the tile. -/
  | liftDecodeCopy (t : TeamId) (ch : Nat)
  /-- R295: Channel ch encodes one tile and appends it. -/
  | liftEncodeStore (t : TeamId) (ch : Nat)
  /-- R295: Channel ch loads one block into accumulator tiles. -/
  | liftAccumulatorLoad (t : TeamId) (ch : Nat)
  /-- R298: Every delivered byte of the active command is counted. -/
  | liftCommandComplete (t : TeamId) (ch : Nat)
  /-- R387: An accepted freeze closes the queues and takes the packs of ctx. -/
  | freeze (ctx : Nat)
  /-- R389: Fulling of ctx ends and the felt is written. -/
  | fullingComplete (ctx : Nat)
  /-- R404: The device stores the completion value of ctx's freeze or resume. -/
  | frzCompletion (ctx : Nat)
  /-- R396: A resume checks the felt and loads queues and grids. -/
  | resume (ctx : Nat)
  /-- R440: A row's count reaches the threshold and the bank backs off. -/
  | rowActivationAlert (bank : Nat)
  /-- R108: End the pack, or take a pending deferred trap. -/
  | exit
  /-- R98: Ready pack p, not chosen for 4,096 cc, is promoted. -/
  | packPromote (p : PackId)
  /-- R324: An uncorrectable error aborts pair operation op. -/
  | pairAbort (p : PackId) (op : Nat)
  /-- R332: p has reached no PPT point within 50,000 ticks. -/
  | pptTimeout (p : PackId)
  /-- R342: The time slice of queue q expires. -/
  | sliceExpire (q : Nat)
  /-- R436: Held records of connection conn are resent. -/
  | completionRecordResend (conn : Nat)
  /-- R337: The host writes queue q's TAIL. -/
  | tailDoorbell (q : Nat) (tail : Word)
  /-- R435: The host writes queue q's EN to 1. -/
  | queueEnable (q : Nat)
  /-- R340: The host writes queue q's EN to 0. -/
  | queueDisable (q : Nat)
  /-- R9: A host write to a control-region field with no row of its own. -/
  | registerWrite (off : Nat) (data : List Byte)
  /-- R338: 1,024 ticks passed on enabled queue q. -/
  | queuePollTimer (q : Nat)
  /-- R208: A request for va reaches the channel and is translated. -/
  | channelTranslate (ctx : Nat) (va : Nat) (write : Bool)
  /-- R212: A TLB miss walks the tables for va. -/
  | tableWalk (ctx : Nat) (va : Nat)
  /-- R225: A dirty private line is evicted and written back. -/
  | privateWriteback (core : Nat) (ctx : Nat) (line : Nat)
  /-- R369: An access at the site meets a storage error with that outcome. -/
  | eccRetry (site : EccSite) (out : EccOutcome)
  /-- R302: An error halts the queue and sets ERR in the gate. -/
  | liftError (t : TeamId) (ch : Nat) (err : LiftErr)
  /-- R300: A source page fault at va parks the queue. -/
  | liftSourcePark (t : TeamId) (ch : Nat) (va : Nat)
  /-- R299: A restored member receives the held rest of a block. -/
  | multicastHeldDelivery (t : TeamId) (ch : Nat) (rank : Nat)
  /-- R391: Unended collectives of ctx have its members withdrawn. -/
  | collectiveWithdraw (ctx : Nat)
  /-- R408: A flit failing its CRC is resent. -/
  | flitCrcRetry (link : Nat)
  /-- R408: A lane of the link fails. -/
  | linkLaneFail (link : Nat)
  /-- R408: The link loses its last lane. -/
  | linkDown (link : Nat)
  /-- R409: The receiver pauses or releases a virtual lane. -/
  | vlPause (link : Nat) (vl : Nat) (paused : Bool)
  /-- R410: A packet arrives and is accepted once or discarded. -/
  | packetAccept (pkt : Packet)
  /-- R410: A packet not acknowledged within T_fab ÷ 8 is retransmitted. -/
  | packetRetransmit (seq : Nat)
  /-- R415: Remote request seq reaches its deadline at the requester. -/
  | requestDeadline (seq : Nat)
  /-- R411: The fabric manager installs a routing table. -/
  | routeTableInstall (table : Nat)
  /-- R411: Every switch has acknowledged the table and sources switch to it. -/
  | routeTableSwitchover (table : Nat)
  /-- R411: The old table is retired. -/
  | routeTableRetire (table : Nat)
  /-- R417: A switch sends a held copy down one branch. -/
  | multicastBranchSend (copy : Nat) (branch : Nat)
  /-- R414: A switch writes a fabric-shared line back to its owner. -/
  | switchWriteback (ctx : Nat) (va : Nat) (data : List Byte)
  /-- R373: The device measures GTC skew against a peer. -/
  | skewMeasure (peer : Nat) (skew : Nat)
  /-- R420: The collective engine runs a barrier. -/
  | collBarrier (ctx : Nat) (g : Nat) (seq : Nat)
  /-- R420: The engine runs a broadcast. -/
  | collBroadcast (ctx : Nat) (g : Nat) (seq : Nat) (contrib : List (List Nat))
  /-- R421: The engine runs an allreduce. -/
  | collAllreduce (ctx : Nat) (g : Nat) (seq : Nat) (contrib : List (List Nat))
  /-- R421: The engine runs a reduce-scatter. -/
  | collReduceScatter (ctx : Nat) (g : Nat) (seq : Nat) (contrib : List (List Nat))
  /-- R420: The engine runs an allgather. -/
  | collAllgather (ctx : Nat) (g : Nat) (seq : Nat) (contrib : List (List Nat))
  /-- R424: An agreement unit receives a member's report. -/
  | agreementReport (ctx : Nat) (g : Nat) (seq : Nat) (rank : Nat) (rep : UnitReport)
  /-- R424: TCOLL has passed and TIMEOUT is decided. -/
  | collDeadline (ctx : Nat) (g : Nat) (seq : Nat)
  /-- R425: A member that reaches no unit asks the peers it reaches. -/
  | agreementFallback (ctx : Nat) (g : Nat) (seq : Nat) (peers : Nat) (heard : Option DWord)
  /-- R426: The member writes its final status word. -/
  | collStatusWrite (ctx : Nat) (g : Nat) (seq : Nat)
  /-- R433: A host RDMA WRITE. -/
  | rdmaWrite (conn : Nat) (key : Word) (addr : Nat) (data : List Byte)
  /-- R433: A host RDMA READ. -/
  | rdmaRead (conn : Nat) (key : Word) (addr : Nat) (len : Nat)
  /-- R432: An unsupported RoCEv2 opcode is answered with a NAK. -/
  | invalidRequestNak (conn : Nat)
  /-- R379: A resolve command. -/
  | fqResolve (ctx : Nat) (tag : Word) (seq : Nat)
  /-- R379: A decline command. -/
  | fqDecline (ctx : Nat) (tag : Word) (seq : Nat)
  /-- R217: An invalidate command. -/
  | fqInvalidate (ctx : Nat) (tag : Word) (va : Nat) (len : Nat)
  /-- R375: A key-invalidation command. -/
  | fqKeyInvalidate (ctx : Nat) (tag : Word) (first : Nat) (count : Nat)
  /-- R379: A scrub command. -/
  | fqScrub (ctx : Nat) (tag : Word) (pa : Nat)
  /-- R377: A waiting report is written once the ring has room. -/
  | faultReportPost
  /-- R438: Power-up resets all state. -/
  | coldReset
  /-- R437: The boot ROM receives and authenticates an image. -/
  | bootImageReceive (image : List Byte)
  /-- R439: The controllers recalibrate. -/
  | hbmRecalibrate
  /-- R397: Once GTC reaches GTCF + ε the resumed teams are placed. -/
  | resumePlace (ctx : Nat)
  /-- R440: A bank's back-off ends. -/
  | backoffEnd (bank : Nat)
  /-- R441: The arbiter sets every island's current grant. -/
  | powerArbiterGrant (bases : List Nat) (demand : List Nat)
  /-- R442: A junction reaches 105 °C. -/
  | thermalThrottle (core : Nat)
  /-- R442: The junction falls to 100 °C. -/
  | thermalRelease (core : Nat)
  /-- R442: A junction reaches 115 °C. -/
  | thermalTrip
  /-- R443: The management controller reads status. -/
  | mgmtReadStatus
  /-- R443: The management controller reads the module cap. -/
  | mgmtReadCap
  /-- R442: The management controller sets the module cap. -/
  | mgmtWriteCap (watts : Nat)
  /-- R443: The management controller reads the row threshold. -/
  | mgmtReadRowThreshold
  /-- R440: The management controller sets the row threshold. -/
  | mgmtWriteRowThreshold (n : Nat)
  /-- R438: A warm reset. -/
  | mgmtWarmReset
  /-- R40: A pack issues a word that no encoding accepts. -/
  | unassignedWord (w : Word)
  /-- R436: The host responder NAKs a record written on a connection. -/
  | completionRecordNak (which : RecordRef)
  /-- R436: A RoCEv2 connection fails. -/
  | connectionFailure (conn : Nat)
  /-- R442: Module power is removed. -/
  | modulePowerOff
deriving DecidableEq, Repr

end Sys2Proof
end

