-- ==== Sys2Proof/WellFormed.lean ====
section
/-! DEFINITION. Which instructions are well formed: every sub-code a field holds is one the spec assigns (R55, R56,
R67), and no field holds a value the spec reserves (R46, R130, R319). An event is well formed when what it names exists. -/

namespace Sys2Proof

/-- The elements per register of UNPK's source formats (R156); other codes have none. -/
def unpkCount (t : BitVec 6) : Nat :=
  match t.toNat with
  | 1 | 2 => 4
  | 3 => 8
  | 6 | 7 => 2
  | _ => 0

/-- UNPK names a format of R56 and a part below its element count. -/
def unpkOk (t : BitVec 6) (p : BitVec 3) : Bool := decide (p.toNat < unpkCount t)

/-- BSCALE's format codes (R158). -/
def bscaleOk (t : BitVec 6) : Bool := t.toNat == 1 || t.toNat == 2 || t.toNat == 3 || t.toNat == 5

/-- MMA's A formats (R55). -/
def mmaFmtOk (f : BitVec 6) : Bool :=
  f.toNat == 1 || f.toNat == 2 || f.toNat == 3 || f.toNat == 5 || f.toNat == 6 || f.toNat == 7

/-- S is 63, unit scales, for the formats that take no scale register (R319, reason 4). -/
def mmaScaleOk (f s : BitVec 6) : Bool :=
  s == 63#6 || f.toNat == 1 || f.toNat == 2 || f.toNat == 3

/-- PLOG's unused fields are 0 (R130). -/
def plogOk (o : BitVec 3) (a b : BitVec 5) : Bool :=
  (decide (o.toNat < 4) || b == 0#5) && (decide (o.toNat < 6) || a == 0#5)

/-- Well-formedness of an instruction or event. -/
def wellFormed (i : Instr) : Bool :=
  match i with
  | .srd _ _ a => decide (a.toNat < 16)
  | .mode _ t r _ _ _ _ => decide (t.toNat < 12) && decide (r.toNat < 5)
  | .vcmp _ _ _ _ _ _ c => decide (c.toNat < 6)
  | .plog _ _ a b o => plogOk o a b
  | .cvt _ _ _ t _ => decide (t.toNat < 12)
  | .unpk _ _ _ t _ p => unpkOk t p
  | .bscale _ _ _ t _ => bscaleOk t
  | .lchk _ _ _ s _ => decide (s.toNat < 3)
  | .ld _ _ _ _ _ w => decide (w.toNat < 6)
  | .ldp _ _ _ _ _ w => decide (w.toNat < 6)
  | .lds _ _ _ _ w => decide (w.toNat < 6)
  | .atom _ _ _ _ _ f => decide (f.toNat < 40)
  | .atomf _ _ _ _ _ f => decide (40 ≤ f.toNat) && decide (f.toNat < 55)
  | .cas _ _ _ _ _ s => decide (s.toNat < 5)
  | .cas64 _ _ _ _ _ s => decide (s.toNat < 5)
  | .ldaq _ _ _ _ _ _ s => decide (s.toNat < 5)
  | .strl _ _ _ _ _ _ s => decide (s.toNat < 5)
  | .fence _ s => decide (s.toNat < 5)
  | .atoms _ _ _ _ _ f => decide (8 ≤ f.toNat) && decide (f.toNat < 48)
  | .ctld _ n _ _ => n != 15#4
  | .ctinv _ n => n != 15#4
  | .mma _ _ _ _ s _ f => mmaFmtOk f && mmaScaleOk f s
  | .ssrd _ _ a _ => decide (a.toNat < 8)
  | .sswr _ a _ => decide (a.toNat < 8)
  | .sliceExpire q => decide (q < 64)
  | .completionRecordResend conn => decide (conn < 256)
  | .tailDoorbell q _ => decide (q < 64)
  | .queueEnable q => decide (q < 64)
  | .queueDisable q => decide (q < 64)
  | .queuePollTimer q => decide (q < 64)
  | .launchRecordRead q => decide (q < 64)
  | .waitConditionRead q => decide (q < 64)
  | .liftCommandStart _ ch => decide (ch < 8)
  | .liftCopy _ ch => decide (ch < 8)
  | .liftDecodeCopy _ ch => decide (ch < 8)
  | .liftEncodeStore _ ch => decide (ch < 8)
  | .liftAccumulatorLoad _ ch => decide (ch < 8)
  | .liftCommandComplete _ ch => decide (ch < 8)
  | .liftError _ ch _ => decide (ch < 8)
  | .liftSourcePark _ ch _ => decide (ch < 8)
  | .multicastHeldDelivery _ ch rank => decide (ch < 8) && decide (rank < 12)
  | .flitCrcRetry link => decide (link < 24)
  | .linkLaneFail link => decide (link < 24)
  | .linkDown link => decide (link < 24) || decide (2 ^ 17 ≤ link)
  | .vlPause link vl _ => decide (link < 24) && decide (vl < 4)
  | .collBarrier _ g _ => decide (g < 64)
  | .collBroadcast _ g _ _ => decide (g < 64)
  | .collAllreduce _ g _ _ => decide (g < 64)
  | .collReduceScatter _ g _ _ => decide (g < 64)
  | .collAllgather _ g _ _ => decide (g < 64)
  | .agreementReport _ g _ _ r => decide (g < 64) && decide (r.unit < 2)
  | .collDeadline _ g _ => decide (g < 64)
  | .agreementFallback _ g _ _ _ => decide (g < 64)
  | .collStatusWrite _ g _ => decide (g < 64)
  | .thermalThrottle core => decide (core < 72)
  | .thermalRelease core => decide (core < 72)
  | .mgmtWriteCap watts => decide (800 ≤ watts)
  | .mgmtWriteRowThreshold n => decide (256 ≤ n) && decide (n ≤ 65535)
  | .completionRecordNak r => decide (r.conn < 256)
  | .connectionFailure conn => decide (conn < 256)
  | .sadd .. | .ssub .. | .smul .. | .smulh .. | .sand .. | .sor .. | .sxor .. | .sandn .. | .sshl .. | .sshr .. | .ssar .. | .smin .. | .smax .. | .sclz .. | .spopc .. | .ssel .. | .smov .. | .scmp .. | .saddImm .. | .smulImm .. | .sandImm .. | .sorImm .. | .sxorImm .. | .sshlImm .. | .sshrImm .. | .ssarImm .. | .sli .. | .shi .. | .mskp .. | .mskn .. | .msks .. | .mskg .. | .mskpop .. | .mskff .. | .modeg .. | .modes .. | .nop .. | .yield .. | .exit | .ret .. | .jmp .. | .hold .. | .bra .. | .call .. | .bemz .. | .bemf .. | .bz .. | .bnz .. | .vadd .. | .vaddc .. | .vsub .. | .vsubb .. | .vmul .. | .vmulh .. | .vmad .. | .vmin .. | .vmax .. | .vabs .. | .vneg .. | .vand .. | .vor .. | .vxor .. | .vnot .. | .vandn .. | .vshl .. | .vshr .. | .vsar .. | .vrot .. | .vclz .. | .vffs .. | .vpopc .. | .vbrev .. | .vsel .. | .vmov .. | .vaddImm .. | .vmulImm .. | .vandImm .. | .vorImm .. | .vxorImm .. | .vshlImm .. | .vshrImm .. | .vsarImm .. | .vli .. | .vlane .. | .vshf .. | .vstep .. | .vbcast .. | .vget .. | .vbfx .. | .vbfi .. | .fadd .. | .fsub .. | .fmul .. | .fmin .. | .fmax .. | .fabs .. | .fneg .. | .fclass .. | .frint .. | .fdiv .. | .fcmp .. | .frcp .. | .frsq .. | .fsqrt .. | .fexp2 .. | .flog2 .. | .fsin .. | .fcos .. | .ftanh .. | .ffma .. | .fflags .. | .pack2Bf16 .. | .pack2F16 .. | .pack4E4m3 .. | .pack4E5m2 .. | .pack4hLo .. | .pack4hHi .. | .qcb .. | .xset .. | .cbld .. | .qlat .. | .dlat .. | .lput .. | .lscale .. | .lshell .. | .lget .. | .lpack .. | .tld .. | .tst .. | .tlds .. | .talloc .. | .tfree .. | .tinfo .. | .tfill .. | .twptr .. | .st .. | .stp .. | .sts .. | .pref .. | .pflush .. | .bixq .. | .kvapp .. | .dech .. | .dec .. | .enc .. | .encf .. | .lift .. | .lqry .. | .lcan .. | .ginit .. | .gexp .. | .garr .. | .gwait .. | .gtry .. | .mwld .. | .mswap .. | .mzero .. | .mrd .. | .mwr .. | .mrel .. | .ppt .. | .launch .. | .tbar .. | .gbar .. | .evsig .. | .evwait .. | .coll .. | .cwait .. | .grpf .. | .fstat .. | .trap .. | .rte .. | .bkpt .. | .halt .. | .cntrd .. | .dlogStat .. | .dlogStart .. | .dlogStop .. | .dlogAck .. | .dlogCons .. | .frz .. => true
  | .icacheFill .. | .packPromote .. | .loadLaneReturn .. | .storeWctReturn .. | .tileAccessRetire .. | .matrixOpRetire .. | .decodeUnitRetire .. | .pageFaultPark .. | .trapEntry .. | .haltBroadcastArrive .. | .pairSlave .. | .pairAbort .. | .mmaArrayStart .. | .mwldBufferWrite .. | .pptTimeout .. | .packSave .. | .packRetire .. | .evwaitReread .. | .cwaitReread .. | .granuleClearDone .. | .teamPlace .. | .gangPlace .. | .evict .. | .teamExit .. | .gridRetire .. | .registerWrite .. | .homeLoad .. | .homeWrite .. | .homeWritePerform .. | .homeAtomic .. | .channelTranslate .. | .tableWalk .. | .privateWriteback .. | .eccRetry .. | .kvappAppend .. | .freeze .. | .collectiveWithdraw .. | .fullingComplete .. | .frzCompletion .. | .resume .. | .resumePlace .. | .packetAccept .. | .packetRetransmit .. | .requestDeadline .. | .routeTableInstall .. | .routeTableSwitchover .. | .routeTableRetire .. | .multicastBranchSend .. | .switchWriteback .. | .skewMeasure .. | .rdmaWrite .. | .rdmaRead .. | .invalidRequestNak .. | .fqResolve .. | .fqDecline .. | .fqInvalidate .. | .fqKeyInvalidate .. | .fqScrub .. | .faultReportPost | .coldReset | .bootImageReceive .. | .hbmRecalibrate | .rowActivationAlert .. | .backoffEnd .. | .powerArbiterGrant .. | .thermalTrip | .mgmtReadStatus | .mgmtReadCap | .mgmtReadRowThreshold | .mgmtWarmReset | .unassignedWord .. | .modulePowerOff => true

end Sys2Proof
end

