-- ==== Sys2Proof/Decode.lean ====
section
/-! DEFINITION. The decoder (R39-R59, R101-R431: the encoding of every word), total on any 32-bit word, and after it
the encoder. A word that no encoding accepts is rejected with the ILLEGAL reason of R59's table. -/

namespace Sys2Proof

/-- What the decoder finds (R59): an instruction; the reason of a static defect; or an instruction with a
last-use bit on a field that is no vector source, which is reason 7 only after the register-name checks. -/
inductive Decoded where
  | ok (i : Instr)
  | illegal (reason : Nat)
  | lastUse (i : Instr)
deriving DecidableEq, Repr

/-- The field of n bits whose lowest bit is lo (R3). -/
def fld (w : Word) (lo n : Nat) : BitVec n := w.extractLsb' lo n

/-- Bit k of a word. -/
def bit (w : Word) (k : Nat) : Bool := w.getLsbD k

/-- The static checks of orders 4, 6 and 7 of R59, in that order. -/
def checked (reserved name lastUse : Bool) (i : Instr) : Decoded :=
  if reserved then .illegal 4 else if name then .illegal 6 else if lastUse then .lastUse i else .ok i

/-- A control transfer: order 4, then order 5, the missing E bit (R50). -/
def control (w : Word) (reserved : Bool) (i : Instr) : Decoded :=
  if reserved then .illegal 4 else if bit w 31 then .ok i else .illegal 5

/-- PLOG's unused fields, by operation, are 0 in all six bits (R130). -/
def plogUnused (w : Word) : Bool :=
  (decide (4 ≤ (fld w 0 3).toNat) && fld w 7 6 != 0#6) || (decide (6 ≤ (fld w 0 3).toNat) && fld w 13 6 != 0#6)

/-- Major 0x00, format SS (R55). -/
def decode00 (w : Word) : Decoded :=
  match (fld w 0 7).toNat with
  | 1 => .ok (.sadd (bit w 31) (fld w 19 6) (fld w 13 6) (fld w 7 6))
  | 2 => .ok (.ssub (bit w 31) (fld w 19 6) (fld w 13 6) (fld w 7 6))
  | 3 => .ok (.smul (bit w 31) (fld w 19 6) (fld w 13 6) (fld w 7 6))
  | 4 => .ok (.smulh (bit w 31) (fld w 19 6) (fld w 13 6) (fld w 7 6))
  | 5 => .ok (.sand (bit w 31) (fld w 19 6) (fld w 13 6) (fld w 7 6))
  | 6 => .ok (.sor (bit w 31) (fld w 19 6) (fld w 13 6) (fld w 7 6))
  | 7 => .ok (.sxor (bit w 31) (fld w 19 6) (fld w 13 6) (fld w 7 6))
  | 8 => .ok (.sandn (bit w 31) (fld w 19 6) (fld w 13 6) (fld w 7 6))
  | 9 => .ok (.sshl (bit w 31) (fld w 19 6) (fld w 13 6) (fld w 7 6))
  | 10 => .ok (.sshr (bit w 31) (fld w 19 6) (fld w 13 6) (fld w 7 6))
  | 11 => .ok (.ssar (bit w 31) (fld w 19 6) (fld w 13 6) (fld w 7 6))
  | 12 => .ok (.smin (bit w 31) (fld w 19 6) (fld w 13 6) (fld w 7 6))
  | 13 => .ok (.smax (bit w 31) (fld w 19 6) (fld w 13 6) (fld w 7 6))
  | 14 => checked (fld w 7 6 != 0#6) (false) (false) (.sclz (bit w 31) (fld w 19 6) (fld w 13 6))
  | 15 => checked (fld w 7 6 != 0#6) (false) (false) (.spopc (bit w 31) (fld w 19 6) (fld w 13 6))
  | 16 => .ok (.ssel (bit w 31) (fld w 19 6) (fld w 13 6) (fld w 7 6))
  | 17 => checked (fld w 7 6 != 0#6) (false) (false) (.smov (bit w 31) (fld w 19 6) (fld w 13 6))
  | 24 | 25 | 26 | 27 | 28 | 29 | 30 | 31 => .ok (.scmp (bit w 31) (fld w 19 6) (fld w 13 6) (fld w 7 6) (fld w 0 3))
  | _ => .illegal 2

/-- Major 0x01, format SI (R55). -/
def decode01 (w : Word) : Decoded :=
  match (fld w 10 3).toNat with
  | 0 => .ok (.saddImm (bit w 31) (fld w 19 6) (fld w 13 6) (fld w 0 10))
  | 1 => .ok (.smulImm (bit w 31) (fld w 19 6) (fld w 13 6) (fld w 0 10))
  | 2 => .ok (.sandImm (bit w 31) (fld w 19 6) (fld w 13 6) (fld w 0 10))
  | 3 => .ok (.sorImm (bit w 31) (fld w 19 6) (fld w 13 6) (fld w 0 10))
  | 4 => .ok (.sxorImm (bit w 31) (fld w 19 6) (fld w 13 6) (fld w 0 10))
  | 5 => checked (fld w 6 4 != 0#4) (false) (false) (.sshlImm (bit w 31) (fld w 19 6) (fld w 13 6) (fld w 0 6))
  | 6 => checked (fld w 6 4 != 0#4) (false) (false) (.sshrImm (bit w 31) (fld w 19 6) (fld w 13 6) (fld w 0 6))
  | 7 => checked (fld w 6 4 != 0#4) (false) (false) (.ssarImm (bit w 31) (fld w 19 6) (fld w 13 6) (fld w 0 6))
  | _ => .illegal 2

/-- Major 0x02, format SL (R55). -/
def decode02 (w : Word) : Decoded :=
  .ok (.sli (bit w 31) (fld w 19 6) (fld w 0 19))

/-- Major 0x03, format SH (R55). -/
def decode03 (w : Word) : Decoded :=
  checked (bit w 16) (false) (false) (.shi (bit w 31) (fld w 19 6) (fld w 17 2) (fld w 0 16))

/-- Major 0x04, format SS (R55). -/
def decode04 (w : Word) : Decoded :=
  match (fld w 0 7).toNat with
  | 0 => checked (fld w 7 6 != 0#6) (bit w 18) (false) (.mskp (bit w 31) (fld w 19 6) (fld w 13 5))
  | 1 => checked (fld w 7 6 != 0#6) (bit w 18) (false) (.mskn (bit w 31) (fld w 19 6) (fld w 13 5))
  | 2 => checked (fld w 7 6 != 0#6 || fld w 19 6 != 0#6) (false) (false) (.msks (bit w 31) (fld w 13 6))
  | 3 => checked (fld w 7 12 != 0#12) (false) (false) (.mskg (bit w 31) (fld w 19 6))
  | 4 => checked (fld w 7 6 != 0#6) (bit w 18) (false) (.mskpop (bit w 31) (fld w 19 6) (fld w 13 5))
  | 5 => checked (fld w 7 6 != 0#6) (bit w 18) (false) (.mskff (bit w 31) (fld w 19 6) (fld w 13 5))
  | 6 => checked (fld w 7 12 != 0#12) (false) (false) (.modeg (bit w 31) (fld w 19 6))
  | 7 => checked (fld w 7 6 != 0#6 || fld w 19 6 != 0#6) (false) (false) (.modes (bit w 31) (fld w 13 6))
  | 8 => if 16 ≤ (fld w 13 6).toNat then .illegal 2 else checked (fld w 7 6 != 0#6) (false) (false) (.srd (bit w 31) (fld w 19 6) (fld w 13 6))
  | 9 => checked (fld w 7 18 != 0#18) (false) (false) (.nop (bit w 31))
  | 10 => checked (fld w 7 18 != 0#18) (false) (false) (.yield (bit w 31))
  | 11 => control w (fld w 7 18 != 0#18) (.exit)
  | 12 => control w (fld w 7 6 != 0#6 || fld w 19 6 != 0#6) (.ret (fld w 13 6))
  | 13 => control w (fld w 7 6 != 0#6 || fld w 19 6 != 0#6) (.jmp (fld w 13 6))
  | _ => .illegal 2

/-- Major 0x05, format MD (R55). -/
def decode05 (w : Word) : Decoded :=
  checked (fld w 0 10 != 0#10 || 12 ≤ (fld w 21 4).toNat || 5 ≤ (fld w 18 3).toNat) (false) (false) (.mode (bit w 31) (fld w 21 4) (fld w 18 3) (fld w 17 1) (fld w 16 1) (fld w 11 5) (fld w 10 1))

/-- Major 0x06, format HD (R55). -/
def decode06 (w : Word) : Decoded :=
  .ok (.hold (bit w 31) (fld w 20 5) (fld w 15 5) (fld w 10 5) (fld w 5 5) (fld w 0 5))

/-- Major 0x07, format BR (R55). -/
def decode07 (w : Word) : Decoded :=
  match (fld w 22 3).toNat with
  | 0 => control w (false) (.bra (fld w 0 22))
  | 1 => control w (false) (.call (fld w 0 22))
  | 2 => control w (false) (.bemz (fld w 0 22))
  | 3 => control w (false) (.bemf (fld w 0 22))
  | _ => .illegal 2

/-- Major 0x08, format BS (R55). -/
def decode08 (w : Word) : Decoded :=
  match (fld w 18 1).toNat with
  | 0 => control w (false) (.bz (fld w 19 6) (fld w 0 18))
  | 1 => control w (false) (.bnz (fld w 19 6) (fld w 0 18))
  | _ => .illegal 2

/-- Major 0x09, format VV (R55). -/
def decode09 (w : Word) : Decoded :=
  match (fld w 0 5).toNat with
  | 0 => .ok (.vadd (bit w 31) (fld w 19 6) (fld w 13 6) (fld w 7 6) (bit w 6) (bit w 5))
  | 1 => .ok (.vaddc (bit w 31) (fld w 19 6) (fld w 13 6) (fld w 7 6) (bit w 6) (bit w 5))
  | 2 => .ok (.vsub (bit w 31) (fld w 19 6) (fld w 13 6) (fld w 7 6) (bit w 6) (bit w 5))
  | 3 => .ok (.vsubb (bit w 31) (fld w 19 6) (fld w 13 6) (fld w 7 6) (bit w 6) (bit w 5))
  | 4 => .ok (.vmul (bit w 31) (fld w 19 6) (fld w 13 6) (fld w 7 6) (bit w 6) (bit w 5))
  | 5 => .ok (.vmulh (bit w 31) (fld w 19 6) (fld w 13 6) (fld w 7 6) (bit w 6) (bit w 5))
  | 6 => .ok (.vmad (bit w 31) (fld w 19 6) (fld w 13 6) (fld w 7 6) (bit w 6) (bit w 5))
  | 7 => .ok (.vmin (bit w 31) (fld w 19 6) (fld w 13 6) (fld w 7 6) (bit w 6) (bit w 5))
  | 8 => .ok (.vmax (bit w 31) (fld w 19 6) (fld w 13 6) (fld w 7 6) (bit w 6) (bit w 5))
  | 9 => checked (fld w 7 6 != 0#6) (false) (bit w 5) (.vabs (bit w 31) (fld w 19 6) (fld w 13 6) (bit w 6))
  | 10 => checked (fld w 7 6 != 0#6) (false) (bit w 5) (.vneg (bit w 31) (fld w 19 6) (fld w 13 6) (bit w 6))
  | 11 => .ok (.vand (bit w 31) (fld w 19 6) (fld w 13 6) (fld w 7 6) (bit w 6) (bit w 5))
  | 12 => .ok (.vor (bit w 31) (fld w 19 6) (fld w 13 6) (fld w 7 6) (bit w 6) (bit w 5))
  | 13 => .ok (.vxor (bit w 31) (fld w 19 6) (fld w 13 6) (fld w 7 6) (bit w 6) (bit w 5))
  | 14 => checked (fld w 7 6 != 0#6) (false) (bit w 5) (.vnot (bit w 31) (fld w 19 6) (fld w 13 6) (bit w 6))
  | 15 => .ok (.vandn (bit w 31) (fld w 19 6) (fld w 13 6) (fld w 7 6) (bit w 6) (bit w 5))
  | 16 => .ok (.vshl (bit w 31) (fld w 19 6) (fld w 13 6) (fld w 7 6) (bit w 6) (bit w 5))
  | 17 => .ok (.vshr (bit w 31) (fld w 19 6) (fld w 13 6) (fld w 7 6) (bit w 6) (bit w 5))
  | 18 => .ok (.vsar (bit w 31) (fld w 19 6) (fld w 13 6) (fld w 7 6) (bit w 6) (bit w 5))
  | 19 => .ok (.vrot (bit w 31) (fld w 19 6) (fld w 13 6) (fld w 7 6) (bit w 6) (bit w 5))
  | 20 => checked (fld w 7 6 != 0#6) (false) (bit w 5) (.vclz (bit w 31) (fld w 19 6) (fld w 13 6) (bit w 6))
  | 21 => checked (fld w 7 6 != 0#6) (false) (bit w 5) (.vffs (bit w 31) (fld w 19 6) (fld w 13 6) (bit w 6))
  | 22 => checked (fld w 7 6 != 0#6) (false) (bit w 5) (.vpopc (bit w 31) (fld w 19 6) (fld w 13 6) (bit w 6))
  | 23 => checked (fld w 7 6 != 0#6) (false) (bit w 5) (.vbrev (bit w 31) (fld w 19 6) (fld w 13 6) (bit w 6))
  | 24 => .ok (.vsel (bit w 31) (fld w 19 6) (fld w 13 6) (fld w 7 6) (bit w 6) (bit w 5))
  | 25 => checked (fld w 7 6 != 0#6) (false) (bit w 5) (.vmov (bit w 31) (fld w 19 6) (fld w 13 6) (bit w 6))
  | _ => .illegal 2

/-- Major 0x0A, format VI (R55). -/
def decode0A (w : Word) : Decoded :=
  match (fld w 10 3).toNat with
  | 0 => .ok (.vaddImm (bit w 31) (fld w 19 6) (fld w 13 6) (fld w 0 10))
  | 1 => .ok (.vmulImm (bit w 31) (fld w 19 6) (fld w 13 6) (fld w 0 10))
  | 2 => .ok (.vandImm (bit w 31) (fld w 19 6) (fld w 13 6) (fld w 0 10))
  | 3 => .ok (.vorImm (bit w 31) (fld w 19 6) (fld w 13 6) (fld w 0 10))
  | 4 => .ok (.vxorImm (bit w 31) (fld w 19 6) (fld w 13 6) (fld w 0 10))
  | 5 => checked (fld w 6 4 != 0#4) (false) (false) (.vshlImm (bit w 31) (fld w 19 6) (fld w 13 6) (fld w 0 6))
  | 6 => checked (fld w 6 4 != 0#4) (false) (false) (.vshrImm (bit w 31) (fld w 19 6) (fld w 13 6) (fld w 0 6))
  | 7 => checked (fld w 6 4 != 0#4) (false) (false) (.vsarImm (bit w 31) (fld w 19 6) (fld w 13 6) (fld w 0 6))
  | _ => .illegal 2

/-- Major 0x0B, format VL (R55). -/
def decode0B (w : Word) : Decoded :=
  .ok (.vli (bit w 31) (fld w 19 6) (fld w 0 19))

/-- Major 0x0C, format VV (R55). -/
def decode0C (w : Word) : Decoded :=
  match (fld w 0 5).toNat with
  | 0 => checked (fld w 7 12 != 0#12) (false) (fld w 5 2 != 0#2) (.vlane (bit w 31) (fld w 19 6))
  | 1 => .ok (.vshf (bit w 31) (fld w 19 6) (fld w 13 6) (fld w 7 6) (bit w 6) (bit w 5))
  | 2 => checked (false) (false) (bit w 5) (.vstep (bit w 31) (fld w 19 6) (fld w 13 6) (fld w 7 6) (bit w 6))
  | 3 => checked (false) (false) (bit w 5) (.vbcast (bit w 31) (fld w 19 6) (fld w 13 6) (fld w 7 6) (bit w 6))
  | 4 => checked (false) (false) (bit w 5) (.vget (bit w 31) (fld w 19 6) (fld w 13 6) (fld w 7 6) (bit w 6))
  | 5 => .ok (.vbfx (bit w 31) (fld w 19 6) (fld w 13 6) (fld w 7 6) (bit w 6) (bit w 5))
  | 6 => .ok (.vbfi (bit w 31) (fld w 19 6) (fld w 13 6) (fld w 7 6) (bit w 6) (bit w 5))
  | _ => .illegal 2

/-- Major 0x0D, format VV (R55). -/
def decode0D (w : Word) : Decoded :=
  match (fld w 0 5).toNat with
  | 0 | 1 | 2 | 3 | 4 | 5 => checked (false) (bit w 24) (false) (.vcmp (bit w 31) (fld w 19 5) (fld w 13 6) (fld w 7 6) (bit w 6) (bit w 5) (fld w 0 3))
  | 8 | 9 | 10 | 11 | 12 | 13 | 14 | 15 => checked (plogUnused w) (bit w 24 || bit w 18 || bit w 12) (fld w 5 2 != 0#2) (.plog (bit w 31) (fld w 19 5) (fld w 13 5) (fld w 7 5) (fld w 0 3))
  | _ => .illegal 2

/-- Major 0x10, format VV (R55). -/
def decode10 (w : Word) : Decoded :=
  match (fld w 0 5).toNat with
  | 0 => .ok (.fadd (bit w 31) (fld w 19 6) (fld w 13 6) (fld w 7 6) (bit w 6) (bit w 5))
  | 1 => .ok (.fsub (bit w 31) (fld w 19 6) (fld w 13 6) (fld w 7 6) (bit w 6) (bit w 5))
  | 2 => .ok (.fmul (bit w 31) (fld w 19 6) (fld w 13 6) (fld w 7 6) (bit w 6) (bit w 5))
  | 3 => .ok (.fmin (bit w 31) (fld w 19 6) (fld w 13 6) (fld w 7 6) (bit w 6) (bit w 5))
  | 4 => .ok (.fmax (bit w 31) (fld w 19 6) (fld w 13 6) (fld w 7 6) (bit w 6) (bit w 5))
  | 5 => checked (fld w 7 6 != 0#6) (false) (bit w 5) (.fabs (bit w 31) (fld w 19 6) (fld w 13 6) (bit w 6))
  | 6 => checked (fld w 7 6 != 0#6) (false) (bit w 5) (.fneg (bit w 31) (fld w 19 6) (fld w 13 6) (bit w 6))
  | 7 => checked (fld w 7 6 != 0#6) (false) (bit w 5) (.fclass (bit w 31) (fld w 19 6) (fld w 13 6) (bit w 6))
  | 8 => checked (fld w 7 6 != 0#6) (false) (bit w 5) (.frint (bit w 31) (fld w 19 6) (fld w 13 6) (bit w 6))
  | 9 => .ok (.fdiv (bit w 31) (fld w 19 6) (fld w 13 6) (fld w 7 6) (bit w 6) (bit w 5))
  | 16 | 17 | 18 | 19 | 20 | 21 | 22 | 23 => checked (false) (bit w 24) (false) (.fcmp (bit w 31) (fld w 19 5) (fld w 13 6) (fld w 7 6) (bit w 6) (bit w 5) (fld w 0 3))
  | _ => .illegal 2

/-- Major 0x11, format VV (R55). -/
def decode11 (w : Word) : Decoded :=
  match (fld w 0 5).toNat with
  | 0 => checked (fld w 7 6 != 0#6) (false) (bit w 5) (.frcp (bit w 31) (fld w 19 6) (fld w 13 6) (bit w 6))
  | 1 => checked (fld w 7 6 != 0#6) (false) (bit w 5) (.frsq (bit w 31) (fld w 19 6) (fld w 13 6) (bit w 6))
  | 2 => checked (fld w 7 6 != 0#6) (false) (bit w 5) (.fsqrt (bit w 31) (fld w 19 6) (fld w 13 6) (bit w 6))
  | 3 => checked (fld w 7 6 != 0#6) (false) (bit w 5) (.fexp2 (bit w 31) (fld w 19 6) (fld w 13 6) (bit w 6))
  | 4 => checked (fld w 7 6 != 0#6) (false) (bit w 5) (.flog2 (bit w 31) (fld w 19 6) (fld w 13 6) (bit w 6))
  | 5 => checked (fld w 7 6 != 0#6) (false) (bit w 5) (.fsin (bit w 31) (fld w 19 6) (fld w 13 6) (bit w 6))
  | 6 => checked (fld w 7 6 != 0#6) (false) (bit w 5) (.fcos (bit w 31) (fld w 19 6) (fld w 13 6) (bit w 6))
  | 7 => checked (fld w 7 6 != 0#6) (false) (bit w 5) (.ftanh (bit w 31) (fld w 19 6) (fld w 13 6) (bit w 6))
  | _ => .illegal 2

/-- Major 0x12, format VV (R55). -/
def decode12 (w : Word) : Decoded :=
  match (fld w 0 5).toNat with
  | 0 | 1 | 2 | 3 => .ok (.ffma (bit w 31) (fld w 19 6) (fld w 13 6) (fld w 7 6) (bit w 6) (bit w 5) (fld w 0 2))
  | _ => .illegal 2

/-- Major 0x13, format SS (R55). -/
def decode13 (w : Word) : Decoded :=
  match (fld w 0 7).toNat with
  | 0 => .ok (.fflags (bit w 31) (fld w 19 6) (fld w 13 6) (fld w 7 6))
  | _ => .illegal 2

/-- Major 0x18, format VV (R55). -/
def decode18 (w : Word) : Decoded :=
  match (fld w 0 5).toNat with
  | 0 => if 12 ≤ (fld w 7 6).toNat then .illegal 2 else checked (false) (false) (bit w 5) (.cvt (bit w 31) (fld w 19 6) (fld w 13 6) (fld w 7 6) (bit w 6))
  | 8 | 9 | 10 | 11 | 12 | 13 | 14 | 15 => if !unpkOk (fld w 7 6) (fld w 0 3) then .illegal 2 else checked (false) (false) (bit w 5) (.unpk (bit w 31) (fld w 19 6) (fld w 13 6) (fld w 7 6) (bit w 6) (fld w 0 3))
  | _ => .illegal 2

/-- Major 0x19, format VV (R55). -/
def decode19 (w : Word) : Decoded :=
  match (fld w 0 5).toNat with
  | 6 => .ok (.pack2Bf16 (bit w 31) (fld w 19 6) (fld w 13 6) (fld w 7 6) (bit w 6) (bit w 5))
  | 7 => .ok (.pack2F16 (bit w 31) (fld w 19 6) (fld w 13 6) (fld w 7 6) (bit w 6) (bit w 5))
  | 9 => checked (false) (bit w 7 || bit w 13) (false) (.pack4E4m3 (bit w 31) (fld w 19 6) (fld w 14 5) (fld w 8 5) (bit w 6) (bit w 5))
  | 10 => checked (false) (bit w 7 || bit w 13) (false) (.pack4E5m2 (bit w 31) (fld w 19 6) (fld w 14 5) (fld w 8 5) (bit w 6) (bit w 5))
  | 16 => checked (false) (bit w 7 || bit w 13) (false) (.pack4hLo (bit w 31) (fld w 19 6) (fld w 14 5) (fld w 8 5) (bit w 6) (bit w 5))
  | 17 => checked (false) (bit w 7 || bit w 13) (false) (.pack4hHi (bit w 31) (fld w 19 6) (fld w 14 5) (fld w 8 5) (bit w 6) (bit w 5))
  | _ => .illegal 2

/-- Major 0x1A, format VV (R55). -/
def decode1A (w : Word) : Decoded :=
  match (fld w 0 5).toNat with
  | 0 => if !bscaleOk (fld w 7 6) then .illegal 2 else checked (false) (false) (bit w 5) (.bscale (bit w 31) (fld w 19 6) (fld w 13 6) (fld w 7 6) (bit w 6))
  | 1 => checked (fld w 9 4 != 0#4) (false) (bit w 5) (.qcb (bit w 31) (fld w 19 6) (fld w 13 6) (fld w 7 2) (bit w 6))
  | 2 => .ok (.xset (bit w 31) (fld w 19 6) (fld w 13 6) (fld w 7 6) (bit w 6) (bit w 5))
  | _ => .illegal 2

/-- Major 0x1B, format VV (R55). -/
def decode1B (w : Word) : Decoded :=
  match (fld w 0 5).toNat with
  | 0 => checked (fld w 7 6 != 0#6 || fld w 21 4 != 0#4) (false) (bit w 5) (.cbld (bit w 31) (fld w 19 2) (fld w 13 6) (bit w 6))
  | _ => .illegal 2

/-- Major 0x1C, format VV (R55). -/
def decode1C (w : Word) : Decoded :=
  match (fld w 0 5).toNat with
  | 0 => checked (false) (fld w 13 3 != 0#3) (false) (.qlat (bit w 31) (fld w 19 6) (fld w 16 3) (fld w 7 6) (bit w 6) (bit w 5))
  | 1 => checked (false) (fld w 19 3 != 0#3) (false) (.dlat (bit w 31) (fld w 22 3) (fld w 13 6) (fld w 7 6) (bit w 6) (bit w 5))
  | 2 => .ok (.lput (bit w 31) (fld w 19 6) (fld w 13 6) (fld w 7 6) (bit w 6) (bit w 5))
  | _ => .illegal 2

/-- Major 0x1D, format VV (R55). -/
def decode1D (w : Word) : Decoded :=
  match (fld w 0 5).toNat with
  | 0 => checked (false) (fld w 13 3 != 0#3) (false) (.lscale (bit w 31) (fld w 19 6) (fld w 16 3) (fld w 7 6) (bit w 6) (bit w 5))
  | 1 => .ok (.lshell (bit w 31) (fld w 19 6) (fld w 13 6) (fld w 7 6) (bit w 6) (bit w 5))
  | 2 => .ok (.lget (bit w 31) (fld w 19 6) (fld w 13 6) (fld w 7 6) (bit w 6) (bit w 5))
  | 3 => .ok (.lpack (bit w 31) (fld w 19 6) (fld w 13 6) (fld w 7 6) (bit w 6) (bit w 5))
  | 4 => checked (fld w 9 4 != 0#4 || (fld w 7 2) == 3#2) (bit w 24) (bit w 5) (.lchk (bit w 31) (fld w 19 5) (fld w 13 6) (fld w 7 2) (bit w 6))
  | _ => .illegal 2

/-- Major 0x1E, format T (R55). -/
def decode1E (w : Word) : Decoded :=
  match (fld w 0 6).toNat with
  | 0 => .ok (.tld (bit w 31) (fld w 19 6) (fld w 13 6) (fld w 7 6) (bit w 6))
  | 1 => .ok (.tst (bit w 31) (fld w 19 6) (fld w 13 6) (fld w 7 6) (bit w 6))
  | 2 => checked (false) (false) (bit w 6) (.tlds (bit w 31) (fld w 19 6) (fld w 13 6) (fld w 7 6))
  | _ => .illegal 2

/-- Major 0x1F, format T (R55). -/
def decode1F (w : Word) : Decoded :=
  match (fld w 0 6).toNat with
  | 0 => checked (false) (false) (bit w 6) (.talloc (bit w 31) (fld w 19 6) (fld w 13 6) (fld w 7 6))
  | 1 => checked (fld w 7 6 != 0#6) (false) (bit w 6) (.tfree (bit w 31) (fld w 19 6) (fld w 13 6))
  | 2 => checked (fld w 7 6 != 0#6) (false) (bit w 6) (.tinfo (bit w 31) (fld w 19 6) (fld w 13 6))
  | 3 => checked (fld w 7 6 != 0#6) (false) (bit w 6) (.tfill (bit w 31) (fld w 19 6) (fld w 13 6))
  | 4 => checked (fld w 7 6 != 0#6) (false) (bit w 6) (.twptr (bit w 31) (fld w 19 6) (fld w 13 6))
  | _ => .illegal 2

/-- Major 0x22, format M (R55). -/
def decode22 (w : Word) : Decoded :=
  match (fld w 0 6).toNat with
  | 0 | 1 | 2 | 3 | 4 | 5 => .ok (.ld (bit w 31) (fld w 19 6) (fld w 13 6) (fld w 7 6) (bit w 6) (fld w 0 3))
  | 8 | 9 | 10 | 11 => .ok (.st (bit w 31) (fld w 19 6) (fld w 13 6) (fld w 7 6) (bit w 6) (fld w 0 2))
  | _ => .illegal 2

/-- Major 0x23, format M (R55). -/
def decode23 (w : Word) : Decoded :=
  match (fld w 0 6).toNat with
  | 0 | 1 | 2 | 3 | 4 | 5 => .ok (.ldp (bit w 31) (fld w 19 6) (fld w 13 6) (fld w 7 6) (bit w 6) (fld w 0 3))
  | 8 | 9 | 10 | 11 => .ok (.stp (bit w 31) (fld w 19 6) (fld w 13 6) (fld w 7 6) (bit w 6) (fld w 0 2))
  | _ => .illegal 2

/-- Major 0x24, format M (R55). -/
def decode24 (w : Word) : Decoded :=
  match (fld w 0 6).toNat with
  | 0 | 1 | 2 | 3 | 4 | 5 => checked (false) (false) (bit w 6) (.lds (bit w 31) (fld w 19 6) (fld w 13 6) (fld w 7 6) (fld w 0 3))
  | 8 | 9 | 10 | 11 => checked (false) (false) (bit w 6) (.sts (bit w 31) (fld w 19 6) (fld w 13 6) (fld w 7 6) (fld w 0 2))
  | 16 => checked (fld w 20 5 != 0#5) (false) (false) (.pref (bit w 31) (fld w 19 1) (fld w 13 6) (fld w 7 6) (bit w 6))
  | 17 => checked (fld w 7 18 != 0#18) (false) (bit w 6) (.pflush (bit w 31))
  | _ => .illegal 2

/-- Major 0x26, format M (R55). -/
def decode26 (w : Word) : Decoded :=
  if (fld w 0 6).toNat < 40 then .ok (.atom (bit w 31) (fld w 19 6) (fld w 13 6) (fld w 7 6) (bit w 6) (fld w 0 6))
  else if (fld w 0 6).toNat < 55 then .ok (.atomf (bit w 31) (fld w 19 6) (fld w 13 6) (fld w 7 6) (bit w 6) (fld w 0 6))
  else .illegal 2

/-- Major 0x27, format M (R55). -/
def decode27 (w : Word) : Decoded :=
  match (fld w 0 6).toNat with
  | 0 | 1 | 2 | 3 | 4 => checked (false) (bit w 19) (false) (.cas (bit w 31) (fld w 20 5) (fld w 13 6) (fld w 7 6) (bit w 6) (fld w 0 3))
  | 8 | 9 | 10 | 11 | 12 => checked (false) (fld w 19 2 != 0#2) (false) (.cas64 (bit w 31) (fld w 21 4) (fld w 13 6) (fld w 7 6) (bit w 6) (fld w 0 3))
  | _ => .illegal 2

/-- Major 0x28, format M (R55). -/
def decode28 (w : Word) : Decoded :=
  match (fld w 0 6).toNat with
  | 0 | 1 | 2 | 3 | 4 | 8 | 9 | 10 | 11 | 12 => .ok (.ldaq (bit w 31) (fld w 19 6) (fld w 13 6) (fld w 7 6) (bit w 6) (fld w 3 1) (fld w 0 3))
  | 16 | 17 | 18 | 19 | 20 | 24 | 25 | 26 | 27 | 28 => .ok (.strl (bit w 31) (fld w 19 6) (fld w 13 6) (fld w 7 6) (bit w 6) (fld w 3 1) (fld w 0 3))
  | _ => .illegal 2

/-- Major 0x29, format M (R55). -/
def decode29 (w : Word) : Decoded :=
  if (fld w 0 6).toNat < 5 then checked (fld w 7 18 != 0#18) (false) (bit w 6) (.fence (bit w 31) (fld w 0 3))
  else if 8 ≤ (fld w 0 6).toNat ∧ (fld w 0 6).toNat < 48 then .ok (.atoms (bit w 31) (fld w 19 6) (fld w 13 6) (fld w 7 6) (bit w 6) (fld w 0 6))
  else .illegal 2

/-- Major 0x2A, format T (R55). -/
def decode2A (w : Word) : Decoded :=
  match (fld w 0 6).toNat with
  | 0 => checked (fld w 23 2 != 0#2 || (fld w 19 4) == 15#4) (false) (bit w 6) (.ctld (bit w 31) (fld w 19 4) (fld w 13 6) (fld w 7 6))
  | 1 => checked (fld w 7 12 != 0#12 || fld w 23 2 != 0#2 || (fld w 19 4) == 15#4) (false) (bit w 6) (.ctinv (bit w 31) (fld w 19 4))
  | 2 => checked (false) (false) (bit w 6) (.bixq (bit w 31) (fld w 19 6) (fld w 13 6) (fld w 7 6))
  | 3 => checked (bit w 7) (false) (bit w 6) (.kvapp (bit w 31) (fld w 19 6) (fld w 13 6) (fld w 8 5))
  | _ => .illegal 2

/-- Major 0x2B, format T (R55). -/
def decode2B (w : Word) : Decoded :=
  match (fld w 0 6).toNat with
  | 0 => checked (bit w 7) (false) (bit w 6) (.dech (bit w 31) (fld w 19 6) (fld w 13 6) (fld w 8 5))
  | 1 => checked (bit w 7) (fld w 19 2 != 0#2) (bit w 6) (.dec (bit w 31) (fld w 21 4) (fld w 13 6) (fld w 8 5))
  | 2 => checked (bit w 7) (fld w 19 2 != 0#2) (false) (.enc (bit w 31) (fld w 21 4) (fld w 13 6) (fld w 8 5) (bit w 6))
  | 3 => checked (bit w 7) (false) (bit w 6) (.encf (bit w 31) (fld w 19 6) (fld w 13 6) (fld w 8 5))
  | _ => .illegal 2

/-- Major 0x2C, format SS (R55). -/
def decode2C (w : Word) : Decoded :=
  match (fld w 0 7).toNat with
  | 0 => checked (fld w 7 6 != 0#6) (false) (false) (.lift (bit w 31) (fld w 19 6) (fld w 13 6))
  | 1 => checked (fld w 7 6 != 0#6) (false) (false) (.lqry (bit w 31) (fld w 19 6) (fld w 13 6))
  | 2 => checked (fld w 7 6 != 0#6) (false) (false) (.lcan (bit w 31) (fld w 19 6) (fld w 13 6))
  | _ => .illegal 2

/-- Major 0x2D, format T (R55). -/
def decode2D (w : Word) : Decoded :=
  match (fld w 0 6).toNat with
  | 0 => checked (false) (false) (bit w 6) (.ginit (bit w 31) (fld w 19 6) (fld w 13 6) (fld w 7 6))
  | 1 => checked (false) (false) (bit w 6) (.gexp (bit w 31) (fld w 19 6) (fld w 13 6) (fld w 7 6))
  | 2 => checked (false) (false) (bit w 6) (.garr (bit w 31) (fld w 19 6) (fld w 13 6) (fld w 7 6))
  | 3 => checked (false) (false) (bit w 6) (.gwait (bit w 31) (fld w 19 6) (fld w 13 6) (fld w 7 6))
  | 4 => checked (false) (false) (bit w 6) (.gtry (bit w 31) (fld w 19 6) (fld w 13 6) (fld w 7 6))
  | _ => .illegal 2

/-- Major 0x30, format MX (R55). -/
def decode30 (w : Word) : Decoded :=
  if mmaFmtOk (fld w 0 6) then checked (bit w 7 || fld w 15 5 != 0#5 || !mmaScaleOk (fld w 0 6) (fld w 8 6)) (false) (false) (.mma (bit w 31) (fld w 21 4) (fld w 20 1) (fld w 14 1) (fld w 8 6) (fld w 6 1) (fld w 0 6)) else .illegal 2

/-- Major 0x31, format T (R55). -/
def decode31 (w : Word) : Decoded :=
  match (fld w 0 6).toNat with
  | 0 => checked (bit w 7) (false) (bit w 6) (.mwld (bit w 31) (fld w 19 6) (fld w 13 6) (fld w 8 5))
  | 1 => checked (fld w 7 18 != 0#18) (false) (bit w 6) (.mswap (bit w 31))
  | _ => .illegal 2

/-- Major 0x32, format MA (R55). -/
def decode32 (w : Word) : Decoded :=
  match (fld w 0 9).toNat with
  | 0 => checked (fld w 13 8 != 0#8) (false) (false) (.mzero (bit w 31) (fld w 21 4) (fld w 9 4))
  | 1 => .ok (.mrd (bit w 31) (fld w 21 4) (fld w 15 6) (fld w 9 6))
  | 2 => .ok (.mwr (bit w 31) (fld w 21 4) (fld w 15 6) (fld w 9 6))
  | 3 => checked (fld w 9 16 != 0#16) (false) (false) (.mrel (bit w 31))
  | 4 => .ok (.ppt (bit w 31) (fld w 9 16))
  | _ => .illegal 2

/-- Major 0x34, format SS (R55). -/
def decode34 (w : Word) : Decoded :=
  match (fld w 0 7).toNat with
  | 0 => checked (fld w 7 6 != 0#6) (false) (false) (.launch (bit w 31) (fld w 19 6) (fld w 13 6))
  | 1 => checked (fld w 7 6 != 0#6 || fld w 19 6 != 0#6) (false) (false) (.tbar (bit w 31) (fld w 13 6))
  | 2 => checked (fld w 7 6 != 0#6 || fld w 19 6 != 0#6) (false) (false) (.gbar (bit w 31) (fld w 13 6))
  | 3 => .ok (.evsig (bit w 31) (fld w 19 6) (fld w 13 6) (fld w 7 6))
  | 4 => checked (fld w 19 6 != 0#6) (false) (false) (.evwait (bit w 31) (fld w 13 6) (fld w 7 6))
  | _ => .illegal 2

/-- Major 0x38, format SS (R55). -/
def decode38 (w : Word) : Decoded :=
  match (fld w 0 7).toNat with
  | 0 => checked (fld w 7 6 != 0#6) (false) (false) (.coll (bit w 31) (fld w 19 6) (fld w 13 6))
  | 1 => checked (fld w 7 6 != 0#6) (false) (false) (.cwait (bit w 31) (fld w 19 6) (fld w 13 6))
  | 2 => checked (fld w 7 6 != 0#6) (false) (false) (.grpf (bit w 31) (fld w 19 6) (fld w 13 6))
  | 3 => checked (fld w 7 6 != 0#6) (false) (false) (.fstat (bit w 31) (fld w 19 6) (fld w 13 6))
  | _ => .illegal 2

/-- Major 0x3C, format SS (R55). -/
def decode3C (w : Word) : Decoded :=
  match (fld w 0 7).toNat with
  | 0 => checked (fld w 7 6 != 0#6 || fld w 19 6 != 0#6) (false) (false) (.trap (bit w 31) (fld w 13 6))
  | 1 => control w (fld w 7 6 != 0#6 || fld w 19 6 != 0#6) (.rte (fld w 13 6))
  | 2 => if 8 ≤ (fld w 13 6).toNat then .illegal 2 else .ok (.ssrd (bit w 31) (fld w 19 6) (fld w 13 6) (fld w 7 6))
  | 3 => if 8 ≤ (fld w 13 6).toNat then .illegal 2 else checked (fld w 19 6 != 0#6) (false) (false) (.sswr (bit w 31) (fld w 13 6) (fld w 7 6))
  | 4 => checked (fld w 7 6 != 0#6 || fld w 19 6 != 0#6) (false) (false) (.bkpt (bit w 31) (fld w 13 6))
  | 5 => checked (fld w 7 6 != 0#6 || fld w 19 6 != 0#6) (false) (false) (.halt (bit w 31) (fld w 13 6))
  | 6 => checked (fld w 7 6 != 0#6) (false) (false) (.cntrd (bit w 31) (fld w 19 6) (fld w 13 6))
  | _ => .illegal 2

/-- Major 0x3D, format SS (R55). -/
def decode3D (w : Word) : Decoded :=
  match (fld w 0 7).toNat with
  | 0 =>
    match (fld w 7 6).toNat with
    | 0 => .ok (.dlogStat (bit w 31) (fld w 19 6) (fld w 13 6))
    | 1 => .ok (.dlogStart (bit w 31) (fld w 19 6) (fld w 13 6))
    | 2 => .ok (.dlogStop (bit w 31) (fld w 19 6) (fld w 13 6))
    | 3 => .ok (.dlogAck (bit w 31) (fld w 19 6) (fld w 13 6))
    | 4 => .ok (.dlogCons (bit w 31) (fld w 19 6) (fld w 13 6))
    | _ => .illegal 2
  | 1 => checked (fld w 7 6 != 0#6) (false) (false) (.frz (bit w 31) (fld w 19 6) (fld w 13 6))
  | _ => .illegal 2

/-- The decoder: the major opcode selects the format (R55); a reserved major is reason 3. -/
def decode (w : Word) : Decoded :=
  match (fld w 25 6).toNat with
  | 0 => decode00 w
  | 1 => decode01 w
  | 2 => decode02 w
  | 3 => decode03 w
  | 4 => decode04 w
  | 5 => decode05 w
  | 6 => decode06 w
  | 7 => decode07 w
  | 8 => decode08 w
  | 9 => decode09 w
  | 10 => decode0A w
  | 11 => decode0B w
  | 12 => decode0C w
  | 13 => decode0D w
  | 16 => decode10 w
  | 17 => decode11 w
  | 18 => decode12 w
  | 19 => decode13 w
  | 24 => decode18 w
  | 25 => decode19 w
  | 26 => decode1A w
  | 27 => decode1B w
  | 28 => decode1C w
  | 29 => decode1D w
  | 30 => decode1E w
  | 31 => decode1F w
  | 34 => decode22 w
  | 35 => decode23 w
  | 36 => decode24 w
  | 38 => decode26 w
  | 39 => decode27 w
  | 40 => decode28 w
  | 41 => decode29 w
  | 42 => decode2A w
  | 43 => decode2B w
  | 44 => decode2C w
  | 45 => decode2D w
  | 48 => decode30 w
  | 49 => decode31 w
  | 50 => decode32 w
  | 52 => decode34 w
  | 56 => decode38 w
  | 60 => decode3C w
  | 61 => decode3D w
  | _ => .illegal 3

/-- The encoder: the word of an instruction, fields from bit 31 down (R41, and each chapter's encoding rule).
An event has no word; it encodes as the all-zero word, which decodes to nothing (R40). -/
def encode (i : Instr) : Word :=
  match i with
  | .sadd e d a b => BitVec.ofBool e ++ 0b000000#6 ++ d ++ a ++ b ++ 0b0000001#7
  | .ssub e d a b => BitVec.ofBool e ++ 0b000000#6 ++ d ++ a ++ b ++ 0b0000010#7
  | .smul e d a b => BitVec.ofBool e ++ 0b000000#6 ++ d ++ a ++ b ++ 0b0000011#7
  | .smulh e d a b => BitVec.ofBool e ++ 0b000000#6 ++ d ++ a ++ b ++ 0b0000100#7
  | .sand e d a b => BitVec.ofBool e ++ 0b000000#6 ++ d ++ a ++ b ++ 0b0000101#7
  | .sor e d a b => BitVec.ofBool e ++ 0b000000#6 ++ d ++ a ++ b ++ 0b0000110#7
  | .sxor e d a b => BitVec.ofBool e ++ 0b000000#6 ++ d ++ a ++ b ++ 0b0000111#7
  | .sandn e d a b => BitVec.ofBool e ++ 0b000000#6 ++ d ++ a ++ b ++ 0b0001000#7
  | .sshl e d a b => BitVec.ofBool e ++ 0b000000#6 ++ d ++ a ++ b ++ 0b0001001#7
  | .sshr e d a b => BitVec.ofBool e ++ 0b000000#6 ++ d ++ a ++ b ++ 0b0001010#7
  | .ssar e d a b => BitVec.ofBool e ++ 0b000000#6 ++ d ++ a ++ b ++ 0b0001011#7
  | .smin e d a b => BitVec.ofBool e ++ 0b000000#6 ++ d ++ a ++ b ++ 0b0001100#7
  | .smax e d a b => BitVec.ofBool e ++ 0b000000#6 ++ d ++ a ++ b ++ 0b0001101#7
  | .sclz e d a => BitVec.ofBool e ++ 0b000000#6 ++ d ++ a ++ 0b0000000001110#13
  | .spopc e d a => BitVec.ofBool e ++ 0b000000#6 ++ d ++ a ++ 0b0000000001111#13
  | .ssel e d a b => BitVec.ofBool e ++ 0b000000#6 ++ d ++ a ++ b ++ 0b0010000#7
  | .smov e d a => BitVec.ofBool e ++ 0b000000#6 ++ d ++ a ++ 0b0000000010001#13
  | .scmp e d a b c => BitVec.ofBool e ++ 0b000000#6 ++ d ++ a ++ b ++ 0b0011#4 ++ c
  | .saddImm e d a i => BitVec.ofBool e ++ 0b000001#6 ++ d ++ a ++ 0b000#3 ++ i
  | .smulImm e d a i => BitVec.ofBool e ++ 0b000001#6 ++ d ++ a ++ 0b001#3 ++ i
  | .sandImm e d a i => BitVec.ofBool e ++ 0b000001#6 ++ d ++ a ++ 0b010#3 ++ i
  | .sorImm e d a i => BitVec.ofBool e ++ 0b000001#6 ++ d ++ a ++ 0b011#3 ++ i
  | .sxorImm e d a i => BitVec.ofBool e ++ 0b000001#6 ++ d ++ a ++ 0b100#3 ++ i
  | .sshlImm e d a i => BitVec.ofBool e ++ 0b000001#6 ++ d ++ a ++ 0b1010000#7 ++ i
  | .sshrImm e d a i => BitVec.ofBool e ++ 0b000001#6 ++ d ++ a ++ 0b1100000#7 ++ i
  | .ssarImm e d a i => BitVec.ofBool e ++ 0b000001#6 ++ d ++ a ++ 0b1110000#7 ++ i
  | .sli e d i => BitVec.ofBool e ++ 0b000010#6 ++ d ++ i
  | .shi e d q i => BitVec.ofBool e ++ 0b000011#6 ++ d ++ q ++ 0b0#1 ++ i
  | .mskp e d a => BitVec.ofBool e ++ 0b000100#6 ++ d ++ 0b0#1 ++ a ++ 0b0000000000000#13
  | .mskn e d a => BitVec.ofBool e ++ 0b000100#6 ++ d ++ 0b0#1 ++ a ++ 0b0000000000001#13
  | .msks e a => BitVec.ofBool e ++ 0b000100000000#12 ++ a ++ 0b0000000000010#13
  | .mskg e d => BitVec.ofBool e ++ 0b000100#6 ++ d ++ 0b0000000000000000011#19
  | .mskpop e d a => BitVec.ofBool e ++ 0b000100#6 ++ d ++ 0b0#1 ++ a ++ 0b0000000000100#13
  | .mskff e d a => BitVec.ofBool e ++ 0b000100#6 ++ d ++ 0b0#1 ++ a ++ 0b0000000000101#13
  | .modeg e d => BitVec.ofBool e ++ 0b000100#6 ++ d ++ 0b0000000000000000110#19
  | .modes e a => BitVec.ofBool e ++ 0b000100000000#12 ++ a ++ 0b0000000000111#13
  | .srd e d a => BitVec.ofBool e ++ 0b000100#6 ++ d ++ a ++ 0b0000000001000#13
  | .nop e => BitVec.ofBool e ++ 0b0001000000000000000000000001001#31
  | .yield e => BitVec.ofBool e ++ 0b0001000000000000000000000001010#31
  | .exit => 0b10001000000000000000000000001011#32
  | .ret a => 0b1000100000000#13 ++ a ++ 0b0000000001100#13
  | .jmp a => 0b1000100000000#13 ++ a ++ 0b0000000001101#13
  | .mode e t r g s p u => BitVec.ofBool e ++ 0b000101#6 ++ t ++ r ++ g ++ s ++ p ++ u ++ 0b0000000000#10
  | .hold e l s t m c => BitVec.ofBool e ++ 0b000110#6 ++ l ++ s ++ t ++ m ++ c
  | .bra o => 0b1000111000#10 ++ o
  | .call o => 0b1000111001#10 ++ o
  | .bemz o => 0b1000111010#10 ++ o
  | .bemf o => 0b1000111011#10 ++ o
  | .bz s o => 0b1001000#7 ++ s ++ 0b0#1 ++ o
  | .bnz s o => 0b1001000#7 ++ s ++ 0b1#1 ++ o
  | .vadd e d a b x y => BitVec.ofBool e ++ 0b001001#6 ++ d ++ a ++ b ++ BitVec.ofBool x ++ BitVec.ofBool y ++ 0b00000#5
  | .vaddc e d a b x y => BitVec.ofBool e ++ 0b001001#6 ++ d ++ a ++ b ++ BitVec.ofBool x ++ BitVec.ofBool y ++ 0b00001#5
  | .vsub e d a b x y => BitVec.ofBool e ++ 0b001001#6 ++ d ++ a ++ b ++ BitVec.ofBool x ++ BitVec.ofBool y ++ 0b00010#5
  | .vsubb e d a b x y => BitVec.ofBool e ++ 0b001001#6 ++ d ++ a ++ b ++ BitVec.ofBool x ++ BitVec.ofBool y ++ 0b00011#5
  | .vmul e d a b x y => BitVec.ofBool e ++ 0b001001#6 ++ d ++ a ++ b ++ BitVec.ofBool x ++ BitVec.ofBool y ++ 0b00100#5
  | .vmulh e d a b x y => BitVec.ofBool e ++ 0b001001#6 ++ d ++ a ++ b ++ BitVec.ofBool x ++ BitVec.ofBool y ++ 0b00101#5
  | .vmad e d a b x y => BitVec.ofBool e ++ 0b001001#6 ++ d ++ a ++ b ++ BitVec.ofBool x ++ BitVec.ofBool y ++ 0b00110#5
  | .vmin e d a b x y => BitVec.ofBool e ++ 0b001001#6 ++ d ++ a ++ b ++ BitVec.ofBool x ++ BitVec.ofBool y ++ 0b00111#5
  | .vmax e d a b x y => BitVec.ofBool e ++ 0b001001#6 ++ d ++ a ++ b ++ BitVec.ofBool x ++ BitVec.ofBool y ++ 0b01000#5
  | .vabs e d a x => BitVec.ofBool e ++ 0b001001#6 ++ d ++ a ++ 0b000000#6 ++ BitVec.ofBool x ++ 0b001001#6
  | .vneg e d a x => BitVec.ofBool e ++ 0b001001#6 ++ d ++ a ++ 0b000000#6 ++ BitVec.ofBool x ++ 0b001010#6
  | .vand e d a b x y => BitVec.ofBool e ++ 0b001001#6 ++ d ++ a ++ b ++ BitVec.ofBool x ++ BitVec.ofBool y ++ 0b01011#5
  | .vor e d a b x y => BitVec.ofBool e ++ 0b001001#6 ++ d ++ a ++ b ++ BitVec.ofBool x ++ BitVec.ofBool y ++ 0b01100#5
  | .vxor e d a b x y => BitVec.ofBool e ++ 0b001001#6 ++ d ++ a ++ b ++ BitVec.ofBool x ++ BitVec.ofBool y ++ 0b01101#5
  | .vnot e d a x => BitVec.ofBool e ++ 0b001001#6 ++ d ++ a ++ 0b000000#6 ++ BitVec.ofBool x ++ 0b001110#6
  | .vandn e d a b x y => BitVec.ofBool e ++ 0b001001#6 ++ d ++ a ++ b ++ BitVec.ofBool x ++ BitVec.ofBool y ++ 0b01111#5
  | .vshl e d a b x y => BitVec.ofBool e ++ 0b001001#6 ++ d ++ a ++ b ++ BitVec.ofBool x ++ BitVec.ofBool y ++ 0b10000#5
  | .vshr e d a b x y => BitVec.ofBool e ++ 0b001001#6 ++ d ++ a ++ b ++ BitVec.ofBool x ++ BitVec.ofBool y ++ 0b10001#5
  | .vsar e d a b x y => BitVec.ofBool e ++ 0b001001#6 ++ d ++ a ++ b ++ BitVec.ofBool x ++ BitVec.ofBool y ++ 0b10010#5
  | .vrot e d a b x y => BitVec.ofBool e ++ 0b001001#6 ++ d ++ a ++ b ++ BitVec.ofBool x ++ BitVec.ofBool y ++ 0b10011#5
  | .vclz e d a x => BitVec.ofBool e ++ 0b001001#6 ++ d ++ a ++ 0b000000#6 ++ BitVec.ofBool x ++ 0b010100#6
  | .vffs e d a x => BitVec.ofBool e ++ 0b001001#6 ++ d ++ a ++ 0b000000#6 ++ BitVec.ofBool x ++ 0b010101#6
  | .vpopc e d a x => BitVec.ofBool e ++ 0b001001#6 ++ d ++ a ++ 0b000000#6 ++ BitVec.ofBool x ++ 0b010110#6
  | .vbrev e d a x => BitVec.ofBool e ++ 0b001001#6 ++ d ++ a ++ 0b000000#6 ++ BitVec.ofBool x ++ 0b010111#6
  | .vsel e d a b x y => BitVec.ofBool e ++ 0b001001#6 ++ d ++ a ++ b ++ BitVec.ofBool x ++ BitVec.ofBool y ++ 0b11000#5
  | .vmov e d a x => BitVec.ofBool e ++ 0b001001#6 ++ d ++ a ++ 0b000000#6 ++ BitVec.ofBool x ++ 0b011001#6
  | .vaddImm e d a i => BitVec.ofBool e ++ 0b001010#6 ++ d ++ a ++ 0b000#3 ++ i
  | .vmulImm e d a i => BitVec.ofBool e ++ 0b001010#6 ++ d ++ a ++ 0b001#3 ++ i
  | .vandImm e d a i => BitVec.ofBool e ++ 0b001010#6 ++ d ++ a ++ 0b010#3 ++ i
  | .vorImm e d a i => BitVec.ofBool e ++ 0b001010#6 ++ d ++ a ++ 0b011#3 ++ i
  | .vxorImm e d a i => BitVec.ofBool e ++ 0b001010#6 ++ d ++ a ++ 0b100#3 ++ i
  | .vshlImm e d a i => BitVec.ofBool e ++ 0b001010#6 ++ d ++ a ++ 0b1010000#7 ++ i
  | .vshrImm e d a i => BitVec.ofBool e ++ 0b001010#6 ++ d ++ a ++ 0b1100000#7 ++ i
  | .vsarImm e d a i => BitVec.ofBool e ++ 0b001010#6 ++ d ++ a ++ 0b1110000#7 ++ i
  | .vli e d i => BitVec.ofBool e ++ 0b001011#6 ++ d ++ i
  | .vlane e d => BitVec.ofBool e ++ 0b001100#6 ++ d ++ 0b0000000000000000000#19
  | .vshf e d a b x y => BitVec.ofBool e ++ 0b001100#6 ++ d ++ a ++ b ++ BitVec.ofBool x ++ BitVec.ofBool y ++ 0b00001#5
  | .vstep e d a b x => BitVec.ofBool e ++ 0b001100#6 ++ d ++ a ++ b ++ BitVec.ofBool x ++ 0b000010#6
  | .vbcast e d a b x => BitVec.ofBool e ++ 0b001100#6 ++ d ++ a ++ b ++ BitVec.ofBool x ++ 0b000011#6
  | .vget e d a b x => BitVec.ofBool e ++ 0b001100#6 ++ d ++ a ++ b ++ BitVec.ofBool x ++ 0b000100#6
  | .vbfx e d a b x y => BitVec.ofBool e ++ 0b001100#6 ++ d ++ a ++ b ++ BitVec.ofBool x ++ BitVec.ofBool y ++ 0b00101#5
  | .vbfi e d a b x y => BitVec.ofBool e ++ 0b001100#6 ++ d ++ a ++ b ++ BitVec.ofBool x ++ BitVec.ofBool y ++ 0b00110#5
  | .vcmp e d a b x y c => BitVec.ofBool e ++ 0b0011010#7 ++ d ++ a ++ b ++ BitVec.ofBool x ++ BitVec.ofBool y ++ 0b00#2 ++ c
  | .plog e d a b o => BitVec.ofBool e ++ 0b0011010#7 ++ d ++ 0b0#1 ++ a ++ 0b0#1 ++ b ++ 0b0001#4 ++ o
  | .fadd e d a b x y => BitVec.ofBool e ++ 0b010000#6 ++ d ++ a ++ b ++ BitVec.ofBool x ++ BitVec.ofBool y ++ 0b00000#5
  | .fsub e d a b x y => BitVec.ofBool e ++ 0b010000#6 ++ d ++ a ++ b ++ BitVec.ofBool x ++ BitVec.ofBool y ++ 0b00001#5
  | .fmul e d a b x y => BitVec.ofBool e ++ 0b010000#6 ++ d ++ a ++ b ++ BitVec.ofBool x ++ BitVec.ofBool y ++ 0b00010#5
  | .fmin e d a b x y => BitVec.ofBool e ++ 0b010000#6 ++ d ++ a ++ b ++ BitVec.ofBool x ++ BitVec.ofBool y ++ 0b00011#5
  | .fmax e d a b x y => BitVec.ofBool e ++ 0b010000#6 ++ d ++ a ++ b ++ BitVec.ofBool x ++ BitVec.ofBool y ++ 0b00100#5
  | .fabs e d a x => BitVec.ofBool e ++ 0b010000#6 ++ d ++ a ++ 0b000000#6 ++ BitVec.ofBool x ++ 0b000101#6
  | .fneg e d a x => BitVec.ofBool e ++ 0b010000#6 ++ d ++ a ++ 0b000000#6 ++ BitVec.ofBool x ++ 0b000110#6
  | .fclass e d a x => BitVec.ofBool e ++ 0b010000#6 ++ d ++ a ++ 0b000000#6 ++ BitVec.ofBool x ++ 0b000111#6
  | .frint e d a x => BitVec.ofBool e ++ 0b010000#6 ++ d ++ a ++ 0b000000#6 ++ BitVec.ofBool x ++ 0b001000#6
  | .fdiv e d a b x y => BitVec.ofBool e ++ 0b010000#6 ++ d ++ a ++ b ++ BitVec.ofBool x ++ BitVec.ofBool y ++ 0b01001#5
  | .fcmp e d a b x y c => BitVec.ofBool e ++ 0b0100000#7 ++ d ++ a ++ b ++ BitVec.ofBool x ++ BitVec.ofBool y ++ 0b10#2 ++ c
  | .frcp e d a x => BitVec.ofBool e ++ 0b010001#6 ++ d ++ a ++ 0b000000#6 ++ BitVec.ofBool x ++ 0b000000#6
  | .frsq e d a x => BitVec.ofBool e ++ 0b010001#6 ++ d ++ a ++ 0b000000#6 ++ BitVec.ofBool x ++ 0b000001#6
  | .fsqrt e d a x => BitVec.ofBool e ++ 0b010001#6 ++ d ++ a ++ 0b000000#6 ++ BitVec.ofBool x ++ 0b000010#6
  | .fexp2 e d a x => BitVec.ofBool e ++ 0b010001#6 ++ d ++ a ++ 0b000000#6 ++ BitVec.ofBool x ++ 0b000011#6
  | .flog2 e d a x => BitVec.ofBool e ++ 0b010001#6 ++ d ++ a ++ 0b000000#6 ++ BitVec.ofBool x ++ 0b000100#6
  | .fsin e d a x => BitVec.ofBool e ++ 0b010001#6 ++ d ++ a ++ 0b000000#6 ++ BitVec.ofBool x ++ 0b000101#6
  | .fcos e d a x => BitVec.ofBool e ++ 0b010001#6 ++ d ++ a ++ 0b000000#6 ++ BitVec.ofBool x ++ 0b000110#6
  | .ftanh e d a x => BitVec.ofBool e ++ 0b010001#6 ++ d ++ a ++ 0b000000#6 ++ BitVec.ofBool x ++ 0b000111#6
  | .ffma e d a b x y o => BitVec.ofBool e ++ 0b010010#6 ++ d ++ a ++ b ++ BitVec.ofBool x ++ BitVec.ofBool y ++ 0b000#3 ++ o
  | .fflags e d a b => BitVec.ofBool e ++ 0b010011#6 ++ d ++ a ++ b ++ 0b0000000#7
  | .cvt e d a t x => BitVec.ofBool e ++ 0b011000#6 ++ d ++ a ++ t ++ BitVec.ofBool x ++ 0b000000#6
  | .unpk e d a t x p => BitVec.ofBool e ++ 0b011000#6 ++ d ++ a ++ t ++ BitVec.ofBool x ++ 0b001#3 ++ p
  | .pack2Bf16 e d a b x y => BitVec.ofBool e ++ 0b011001#6 ++ d ++ a ++ b ++ BitVec.ofBool x ++ BitVec.ofBool y ++ 0b00110#5
  | .pack2F16 e d a b x y => BitVec.ofBool e ++ 0b011001#6 ++ d ++ a ++ b ++ BitVec.ofBool x ++ BitVec.ofBool y ++ 0b00111#5
  | .pack4E4m3 e d a b x y => BitVec.ofBool e ++ 0b011001#6 ++ d ++ a ++ 0b0#1 ++ b ++ 0b0#1 ++ BitVec.ofBool x ++ BitVec.ofBool y ++ 0b01001#5
  | .pack4E5m2 e d a b x y => BitVec.ofBool e ++ 0b011001#6 ++ d ++ a ++ 0b0#1 ++ b ++ 0b0#1 ++ BitVec.ofBool x ++ BitVec.ofBool y ++ 0b01010#5
  | .pack4hLo e d a b x y => BitVec.ofBool e ++ 0b011001#6 ++ d ++ a ++ 0b0#1 ++ b ++ 0b0#1 ++ BitVec.ofBool x ++ BitVec.ofBool y ++ 0b10000#5
  | .pack4hHi e d a b x y => BitVec.ofBool e ++ 0b011001#6 ++ d ++ a ++ 0b0#1 ++ b ++ 0b0#1 ++ BitVec.ofBool x ++ BitVec.ofBool y ++ 0b10001#5
  | .bscale e d a t x => BitVec.ofBool e ++ 0b011010#6 ++ d ++ a ++ t ++ BitVec.ofBool x ++ 0b000000#6
  | .qcb e d a k x => BitVec.ofBool e ++ 0b011010#6 ++ d ++ a ++ 0b0000#4 ++ k ++ BitVec.ofBool x ++ 0b000001#6
  | .xset e d a b x y => BitVec.ofBool e ++ 0b011010#6 ++ d ++ a ++ b ++ BitVec.ofBool x ++ BitVec.ofBool y ++ 0b00010#5
  | .cbld e k a x => BitVec.ofBool e ++ 0b0110110000#10 ++ k ++ a ++ 0b000000#6 ++ BitVec.ofBool x ++ 0b000000#6
  | .qlat e d a b x y => BitVec.ofBool e ++ 0b011100#6 ++ d ++ a ++ 0b000#3 ++ b ++ BitVec.ofBool x ++ BitVec.ofBool y ++ 0b00000#5
  | .dlat e d a b x y => BitVec.ofBool e ++ 0b011100#6 ++ d ++ 0b000#3 ++ a ++ b ++ BitVec.ofBool x ++ BitVec.ofBool y ++ 0b00001#5
  | .lput e d a b x y => BitVec.ofBool e ++ 0b011100#6 ++ d ++ a ++ b ++ BitVec.ofBool x ++ BitVec.ofBool y ++ 0b00010#5
  | .lscale e d a b x y => BitVec.ofBool e ++ 0b011101#6 ++ d ++ a ++ 0b000#3 ++ b ++ BitVec.ofBool x ++ BitVec.ofBool y ++ 0b00000#5
  | .lshell e d a b x y => BitVec.ofBool e ++ 0b011101#6 ++ d ++ a ++ b ++ BitVec.ofBool x ++ BitVec.ofBool y ++ 0b00001#5
  | .lget e d a b x y => BitVec.ofBool e ++ 0b011101#6 ++ d ++ a ++ b ++ BitVec.ofBool x ++ BitVec.ofBool y ++ 0b00010#5
  | .lpack e d a b x y => BitVec.ofBool e ++ 0b011101#6 ++ d ++ a ++ b ++ BitVec.ofBool x ++ BitVec.ofBool y ++ 0b00011#5
  | .lchk e d a s x => BitVec.ofBool e ++ 0b0111010#7 ++ d ++ a ++ 0b0000#4 ++ s ++ BitVec.ofBool x ++ 0b000100#6
  | .tld e v h c l => BitVec.ofBool e ++ 0b011110#6 ++ v ++ h ++ c ++ BitVec.ofBool l ++ 0b000000#6
  | .tst e v h c l => BitVec.ofBool e ++ 0b011110#6 ++ v ++ h ++ c ++ BitVec.ofBool l ++ 0b000001#6
  | .tlds e v h c => BitVec.ofBool e ++ 0b011110#6 ++ v ++ h ++ c ++ 0b0000010#7
  | .talloc e v h c => BitVec.ofBool e ++ 0b011111#6 ++ v ++ h ++ c ++ 0b0000000#7
  | .tfree e v h => BitVec.ofBool e ++ 0b011111#6 ++ v ++ h ++ 0b0000000000001#13
  | .tinfo e v h => BitVec.ofBool e ++ 0b011111#6 ++ v ++ h ++ 0b0000000000010#13
  | .tfill e v h => BitVec.ofBool e ++ 0b011111#6 ++ v ++ h ++ 0b0000000000011#13
  | .twptr e v h => BitVec.ofBool e ++ 0b011111#6 ++ v ++ h ++ 0b0000000000100#13
  | .ld e v b o l w => BitVec.ofBool e ++ 0b100010#6 ++ v ++ b ++ o ++ BitVec.ofBool l ++ 0b000#3 ++ w
  | .st e v b o l w => BitVec.ofBool e ++ 0b100010#6 ++ v ++ b ++ o ++ BitVec.ofBool l ++ 0b0010#4 ++ w
  | .ldp e v b o l w => BitVec.ofBool e ++ 0b100011#6 ++ v ++ b ++ o ++ BitVec.ofBool l ++ 0b000#3 ++ w
  | .stp e v b o l w => BitVec.ofBool e ++ 0b100011#6 ++ v ++ b ++ o ++ BitVec.ofBool l ++ 0b0010#4 ++ w
  | .lds e v b n w => BitVec.ofBool e ++ 0b100100#6 ++ v ++ b ++ n ++ 0b0000#4 ++ w
  | .sts e v b n w => BitVec.ofBool e ++ 0b100100#6 ++ v ++ b ++ n ++ 0b00010#5 ++ w
  | .pref e p b o l => BitVec.ofBool e ++ 0b10010000000#11 ++ p ++ b ++ o ++ BitVec.ofBool l ++ 0b010000#6
  | .pflush e => BitVec.ofBool e ++ 0b1001000000000000000000000010001#31
  | .atom e v b o l f => BitVec.ofBool e ++ 0b100110#6 ++ v ++ b ++ o ++ BitVec.ofBool l ++ f
  | .atomf e v b o l f => BitVec.ofBool e ++ 0b100110#6 ++ v ++ b ++ o ++ BitVec.ofBool l ++ f
  | .cas e v b o l s => BitVec.ofBool e ++ 0b100111#6 ++ v ++ 0b0#1 ++ b ++ o ++ BitVec.ofBool l ++ 0b000#3 ++ s
  | .cas64 e v b o l s => BitVec.ofBool e ++ 0b100111#6 ++ v ++ 0b00#2 ++ b ++ o ++ BitVec.ofBool l ++ 0b001#3 ++ s
  | .ldaq e v b o l w s => BitVec.ofBool e ++ 0b101000#6 ++ v ++ b ++ o ++ BitVec.ofBool l ++ 0b00#2 ++ w ++ s
  | .strl e v b o l w s => BitVec.ofBool e ++ 0b101000#6 ++ v ++ b ++ o ++ BitVec.ofBool l ++ 0b01#2 ++ w ++ s
  | .fence e s => BitVec.ofBool e ++ 0b1010010000000000000000000000#28 ++ s
  | .atoms e v b o l f => BitVec.ofBool e ++ 0b101001#6 ++ v ++ b ++ o ++ BitVec.ofBool l ++ f
  | .ctld e n h c => BitVec.ofBool e ++ 0b10101000#8 ++ n ++ h ++ c ++ 0b0000000#7
  | .ctinv e n => BitVec.ofBool e ++ 0b10101000#8 ++ n ++ 0b0000000000000000001#19
  | .bixq e v h c => BitVec.ofBool e ++ 0b101010#6 ++ v ++ h ++ c ++ 0b0000010#7
  | .kvapp e v h c => BitVec.ofBool e ++ 0b101010#6 ++ v ++ h ++ c ++ 0b00000011#8
  | .dech e v h c => BitVec.ofBool e ++ 0b101011#6 ++ v ++ h ++ c ++ 0b00000000#8
  | .dec e v h c => BitVec.ofBool e ++ 0b101011#6 ++ v ++ 0b00#2 ++ h ++ c ++ 0b00000001#8
  | .enc e v h c l => BitVec.ofBool e ++ 0b101011#6 ++ v ++ 0b00#2 ++ h ++ c ++ 0b0#1 ++ BitVec.ofBool l ++ 0b000010#6
  | .encf e v h c => BitVec.ofBool e ++ 0b101011#6 ++ v ++ h ++ c ++ 0b00000011#8
  | .lift e d a => BitVec.ofBool e ++ 0b101100#6 ++ d ++ a ++ 0b0000000000000#13
  | .lqry e d a => BitVec.ofBool e ++ 0b101100#6 ++ d ++ a ++ 0b0000000000001#13
  | .lcan e d a => BitVec.ofBool e ++ 0b101100#6 ++ d ++ a ++ 0b0000000000010#13
  | .ginit e v h c => BitVec.ofBool e ++ 0b101101#6 ++ v ++ h ++ c ++ 0b0000000#7
  | .gexp e v h c => BitVec.ofBool e ++ 0b101101#6 ++ v ++ h ++ c ++ 0b0000001#7
  | .garr e v h c => BitVec.ofBool e ++ 0b101101#6 ++ v ++ h ++ c ++ 0b0000010#7
  | .gwait e v h c => BitVec.ofBool e ++ 0b101101#6 ++ v ++ h ++ c ++ 0b0000011#7
  | .gtry e v h c => BitVec.ofBool e ++ 0b101101#6 ++ v ++ h ++ c ++ 0b0000100#7
  | .mma e n g k s p f => BitVec.ofBool e ++ 0b110000#6 ++ n ++ g ++ 0b00000#5 ++ k ++ s ++ 0b0#1 ++ p ++ f
  | .mwld e v h c => BitVec.ofBool e ++ 0b110001#6 ++ v ++ h ++ c ++ 0b00000000#8
  | .mswap e => BitVec.ofBool e ++ 0b1100010000000000000000000000001#31
  | .mzero e n x => BitVec.ofBool e ++ 0b110010#6 ++ n ++ 0b00000000#8 ++ x ++ 0b000000000#9
  | .mrd e n d x => BitVec.ofBool e ++ 0b110010#6 ++ n ++ d ++ x ++ 0b000000001#9
  | .mwr e n s x => BitVec.ofBool e ++ 0b110010#6 ++ n ++ s ++ x ++ 0b000000010#9
  | .mrel e => BitVec.ofBool e ++ 0b1100100000000000000000000000011#31
  | .ppt e m => BitVec.ofBool e ++ 0b110010#6 ++ m ++ 0b000000100#9
  | .launch e d a => BitVec.ofBool e ++ 0b110100#6 ++ d ++ a ++ 0b0000000000000#13
  | .tbar e a => BitVec.ofBool e ++ 0b110100000000#12 ++ a ++ 0b0000000000001#13
  | .gbar e a => BitVec.ofBool e ++ 0b110100000000#12 ++ a ++ 0b0000000000010#13
  | .evsig e d a b => BitVec.ofBool e ++ 0b110100#6 ++ d ++ a ++ b ++ 0b0000011#7
  | .evwait e a b => BitVec.ofBool e ++ 0b110100000000#12 ++ a ++ b ++ 0b0000100#7
  | .coll e d a => BitVec.ofBool e ++ 0b111000#6 ++ d ++ a ++ 0b0000000000000#13
  | .cwait e d a => BitVec.ofBool e ++ 0b111000#6 ++ d ++ a ++ 0b0000000000001#13
  | .grpf e d a => BitVec.ofBool e ++ 0b111000#6 ++ d ++ a ++ 0b0000000000010#13
  | .fstat e d a => BitVec.ofBool e ++ 0b111000#6 ++ d ++ a ++ 0b0000000000011#13
  | .trap e n => BitVec.ofBool e ++ 0b111100000000#12 ++ n ++ 0b0000000000000#13
  | .rte a => 0b1111100000000#13 ++ a ++ 0b0000000000001#13
  | .ssrd e d a b => BitVec.ofBool e ++ 0b111100#6 ++ d ++ a ++ b ++ 0b0000010#7
  | .sswr e a b => BitVec.ofBool e ++ 0b111100000000#12 ++ a ++ b ++ 0b0000011#7
  | .bkpt e n => BitVec.ofBool e ++ 0b111100000000#12 ++ n ++ 0b0000000000100#13
  | .halt e a => BitVec.ofBool e ++ 0b111100000000#12 ++ a ++ 0b0000000000101#13
  | .cntrd e d a => BitVec.ofBool e ++ 0b111100#6 ++ d ++ a ++ 0b0000000000110#13
  | .dlogStat e d a => BitVec.ofBool e ++ 0b111101#6 ++ d ++ a ++ 0b0000000000000#13
  | .dlogStart e d a => BitVec.ofBool e ++ 0b111101#6 ++ d ++ a ++ 0b0000010000000#13
  | .dlogStop e d a => BitVec.ofBool e ++ 0b111101#6 ++ d ++ a ++ 0b0000100000000#13
  | .dlogAck e d a => BitVec.ofBool e ++ 0b111101#6 ++ d ++ a ++ 0b0000110000000#13
  | .dlogCons e d a => BitVec.ofBool e ++ 0b111101#6 ++ d ++ a ++ 0b0001000000000#13
  | .frz e d a => BitVec.ofBool e ++ 0b111101#6 ++ d ++ a ++ 0b0000000000001#13
  | .icacheFill .. | .packPromote .. | .loadLaneReturn .. | .storeWctReturn .. | .tileAccessRetire .. | .matrixOpRetire .. | .decodeUnitRetire .. | .pageFaultPark .. | .trapEntry .. | .haltBroadcastArrive .. | .pairSlave .. | .pairAbort .. | .mmaArrayStart .. | .mwldBufferWrite .. | .pptTimeout .. | .packSave .. | .packRetire .. | .evwaitReread .. | .cwaitReread .. | .granuleClearDone .. | .teamPlace .. | .gangPlace .. | .evict .. | .sliceExpire .. | .teamExit .. | .gridRetire .. | .completionRecordResend .. | .tailDoorbell .. | .queueEnable .. | .queueDisable .. | .registerWrite .. | .queuePollTimer .. | .launchRecordRead .. | .waitConditionRead .. | .homeLoad .. | .homeWrite .. | .homeWritePerform .. | .homeAtomic .. | .channelTranslate .. | .tableWalk .. | .privateWriteback .. | .eccRetry .. | .kvappAppend .. | .liftCommandStart .. | .liftCopy .. | .liftDecodeCopy .. | .liftEncodeStore .. | .liftAccumulatorLoad .. | .liftCommandComplete .. | .liftError .. | .liftSourcePark .. | .multicastHeldDelivery .. | .freeze .. | .collectiveWithdraw .. | .fullingComplete .. | .frzCompletion .. | .resume .. | .resumePlace .. | .flitCrcRetry .. | .linkLaneFail .. | .linkDown .. | .vlPause .. | .packetAccept .. | .packetRetransmit .. | .requestDeadline .. | .routeTableInstall .. | .routeTableSwitchover .. | .routeTableRetire .. | .multicastBranchSend .. | .switchWriteback .. | .skewMeasure .. | .collBarrier .. | .collBroadcast .. | .collAllreduce .. | .collReduceScatter .. | .collAllgather .. | .agreementReport .. | .collDeadline .. | .agreementFallback .. | .collStatusWrite .. | .rdmaWrite .. | .rdmaRead .. | .invalidRequestNak .. | .fqResolve .. | .fqDecline .. | .fqInvalidate .. | .fqKeyInvalidate .. | .fqScrub .. | .faultReportPost | .coldReset | .bootImageReceive .. | .hbmRecalibrate | .rowActivationAlert .. | .backoffEnd .. | .powerArbiterGrant .. | .thermalThrottle .. | .thermalRelease .. | .thermalTrip | .mgmtReadStatus | .mgmtReadCap | .mgmtWriteCap .. | .mgmtReadRowThreshold | .mgmtWriteRowThreshold .. | .mgmtWarmReset | .completionRecordNak .. | .connectionFailure .. | .modulePowerOff => 0#32
  | .unassignedWord w => w

/-- A row of the table that is an instruction word, not an event. -/
def isWord (i : Instr) : Bool :=
  match i with
  | .icacheFill .. | .loadLaneReturn .. | .storeWctReturn .. | .tileAccessRetire .. | .matrixOpRetire .. | .decodeUnitRetire .. | .pageFaultPark .. | .trapEntry .. | .haltBroadcastArrive .. | .mmaArrayStart .. | .mwldBufferWrite .. | .pairSlave .. | .packSave .. | .packRetire .. | .evwaitReread .. | .cwaitReread .. | .granuleClearDone .. | .teamPlace .. | .gangPlace .. | .evict .. | .teamExit .. | .gridRetire .. | .launchRecordRead .. | .waitConditionRead .. | .homeLoad .. | .homeWrite .. | .homeWritePerform .. | .homeAtomic .. | .kvappAppend .. | .liftCommandStart .. | .liftCopy .. | .liftDecodeCopy .. | .liftEncodeStore .. | .liftAccumulatorLoad .. | .liftCommandComplete .. | .freeze .. | .fullingComplete .. | .frzCompletion .. | .resume .. | .resumePlace .. | .packPromote .. | .pairAbort .. | .pptTimeout .. | .sliceExpire .. | .completionRecordResend .. | .tailDoorbell .. | .queueEnable .. | .queueDisable .. | .registerWrite .. | .queuePollTimer .. | .channelTranslate .. | .tableWalk .. | .privateWriteback .. | .eccRetry .. | .liftError .. | .liftSourcePark .. | .multicastHeldDelivery .. | .collectiveWithdraw .. | .flitCrcRetry .. | .linkLaneFail .. | .linkDown .. | .vlPause .. | .packetAccept .. | .packetRetransmit .. | .requestDeadline .. | .routeTableInstall .. | .routeTableSwitchover .. | .routeTableRetire .. | .multicastBranchSend .. | .switchWriteback .. | .skewMeasure .. | .collBarrier .. | .collBroadcast .. | .collAllreduce .. | .collReduceScatter .. | .collAllgather .. | .agreementReport .. | .collDeadline .. | .agreementFallback .. | .collStatusWrite .. | .rdmaWrite .. | .rdmaRead .. | .invalidRequestNak .. | .fqResolve .. | .fqDecline .. | .fqInvalidate .. | .fqKeyInvalidate .. | .fqScrub .. | .faultReportPost | .coldReset | .bootImageReceive .. | .hbmRecalibrate | .rowActivationAlert .. | .backoffEnd .. | .powerArbiterGrant .. | .thermalThrottle .. | .thermalRelease .. | .thermalTrip | .mgmtReadStatus | .mgmtReadCap | .mgmtWriteCap .. | .mgmtReadRowThreshold | .mgmtWriteRowThreshold .. | .mgmtWarmReset | .unassignedWord .. | .completionRecordNak .. | .connectionFailure .. | .modulePowerOff => false
  | _ => true

/-- The instruction the decoder reads from a table row's word of nbits bits (R39: one 32-bit word, little-endian);
none where it rejects. -/
def decodeTableWord (nbits w : Nat) : Option Instr :=
  match decode (BitVec.ofNat 32 (w % 2 ^ nbits)) with
  | .ok i => some i
  | .illegal _ => none
  | .lastUse _ => none

end Sys2Proof
end

