-- ==== Sys2Proof/Machine/Tab.lean ====
section
/-! DEFINITION. Tables of values by number (registers, lines, bytes of memory) in one canonical form: keys strictly
rising, and no entry equal to what an unlisted key reads as. -/

namespace Sys2Proof

/-- The value at key k; z where the table lists none. -/
def Tab.get (z : α) : Tab α → Nat → α
  | [], _ => z
  | (j, v) :: t, k => if j = k then v else Tab.get z t k

/-- The table with an entry for k, in its place. -/
def Tab.put (k : Nat) (v : α) : Tab α → Tab α
  | [] => [(k, v)]
  | (j, w) :: t =>
    if k < j then (k, v) :: (j, w) :: t
    else if k = j then (k, v) :: t
    else (j, w) :: Tab.put k v t

/-- The table without an entry for k. -/
def Tab.del (k : Nat) (t : Tab α) : Tab α := t.filter fun e => e.1 != k

/-- The table whose key k reads as v and every other key as before: an entry only where v is not the default. -/
def Tab.set [DecidableEq α] (z : α) (t : Tab α) (k : Nat) (v : α) : Tab α :=
  if v = z then Tab.del k t else Tab.put k v t

/-- Keys strictly rise from above lo, and no entry holds the default. -/
def Tab.wfFrom [DecidableEq α] (z : α) : Nat → Tab α → Bool
  | _, [] => true
  | lo, (j, v) :: t => decide (lo ≤ j) && decide (v ≠ z) && Tab.wfFrom z (j + 1) t

/-- The canonical form. -/
def Tab.wf [DecidableEq α] (z : α) (t : Tab α) : Bool := Tab.wfFrom z 0 t

end Sys2Proof
end

