-- ==== Sys2Proof/Machine/Bits.lean ====
section
/-! DEFINITION. Bit fields, sign extension, lanes and bytes (R3, R7, R20). -/

namespace Sys2Proof.Machine

/-- The n bits of x from bit lo, as a number (R3). -/
def bitsAt (x lo n : Nat) : Nat := (x >>> lo) % 2 ^ n

/-- The value of the low w bits of x in two's complement. -/
def signed (x w : Nat) : Int :=
  let m := x % 2 ^ w
  if 2 * m < 2 ^ w then (m : Int) else (m : Int) - (2 ^ w : Nat)

/-- x modulo 2^w, as a w-bit pattern: the helper `wrap` of R7. -/
def wrapNat (x : Int) (w : Nat) : Nat := (x % (2 ^ w : Nat)).toNat

/-- Number of 1 bits among the low w bits of x. -/
def popcount : Nat → Nat → Nat
  | 0, _ => 0
  | w + 1, x => popcount w x + (if x.testBit w then 1 else 0)

/-- Number of leading zero bits of the w-bit x; w when x is 0. -/
def leadingZeros : Nat → Nat → Nat
  | 0, _ => 0
  | w + 1, x => if x.testBit w then 0 else leadingZeros w x + 1

/-- Index of the lowest 1 bit among bits k to k + w − 1 of x; k + w when there is none. -/
def lowestSetFrom (x k : Nat) : Nat → Nat
  | 0 => k
  | w + 1 => if x.testBit k then k else lowestSetFrom x (k + 1) w

/-- Index of the lowest 1 bit of the w-bit x; w when x is 0. -/
def lowestSet (w x : Nat) : Nat := lowestSetFrom x 0 w

/-- The low w bits of x in reverse order. -/
def reverseBits : Nat → Nat → Nat
  | 0, _ => 0
  | w + 1, x => (if x.testBit 0 then 2 ^ w else 0) + reverseBits w (x / 2)

/-- Lane l of a vector register (R43). -/
def lane (v : Lanes) (l : Nat) : Word := v.extractLsb' (32 * l) 32

/-- The number made of the words f k, f (k+1), … of n lanes, lowest first. -/
def lanesNat (f : Nat → Word) (k : Nat) : Nat → Nat
  | 0 => 0
  | n + 1 => (f k).toNat + 2 ^ 32 * lanesNat f (k + 1) n

/-- The vector register whose lane l is f l. -/
def ofLanes (f : Nat → Word) : Lanes := BitVec.ofNat 2048 (lanesNat f 0 64)

/-- The lanes of new where m is 1, of old elsewhere (R8). -/
def mergeLanes (m : DWord) (new old : Lanes) : Lanes :=
  ofLanes fun l => if m.getLsbD l then lane new l else lane old l

/-- The lanes of a mask, ascending. -/
def lanesOf (m : DWord) : List Nat := (List.range 64).filter fun l => m.getLsbD l

/-- The mask of a list of lanes. -/
def maskOf (ls : List Nat) : DWord := ls.foldl (fun m l => m ||| BitVec.ofNat 64 (2 ^ l)) 0

/-- The mask whose bit l is f l. -/
def maskBits (f : Nat → Bool) (k : Nat) : Nat → Nat
  | 0 => 0
  | n + 1 => (if f k then 1 else 0) + 2 * maskBits f (k + 1) n

/-- The 64-bit mask whose bit l is f l. -/
def ofMask (f : Nat → Bool) : DWord := BitVec.ofNat 64 (maskBits f 0 64)

/-- Byte i of a number (R3). -/
def byteAt (x i : Nat) : Byte := BitVec.ofNat 8 (x >>> (8 * i))

/-- n bytes of a number, lowest first. -/
def toBytes (x n : Nat) : List Byte := (List.range n).map (byteAt x)

/-- The number of a list of bytes, lowest first. -/
def ofBytes : List Byte → Nat
  | [] => 0
  | b :: bs => b.toNat + 256 * ofBytes bs

/-- Byte i of a line. -/
def lineByte (d : Line) (i : Nat) : Byte := d.extractLsb' (8 * i) 8

/-- A line with byte i replaced. -/
def setLineByte (d : Line) (i : Nat) (b : Byte) : Line :=
  (d &&& ~~~(BitVec.ofNat 1024 (255 * 2 ^ (8 * i)))) ||| BitVec.ofNat 1024 (b.toNat * 2 ^ (8 * i))

/-- A line with the listed bytes replaced, in order. -/
def setLineBytes (d : Line) (bs : List (Nat × Byte)) : Line := bs.foldl (fun d e => setLineByte d e.1 e.2) d

/-- n bytes of a line from offset o, as a number. -/
def lineNat (d : Line) (o n : Nat) : Nat := bitsAt d.toNat (8 * o) (8 * n)

/-- Bits h down to l of a register, as a number. -/
def bitsOf (x : BitVec n) (h l : Nat) : Nat := bitsAt x.toNat l (h + 1 - l)

/-- x with bits h down to l replaced by v. -/
def setBitsOf (x : BitVec n) (h l : Nat) (v : Nat) : BitVec n :=
  (x &&& ~~~(BitVec.ofNat n ((2 ^ (h + 1 - l) - 1) * 2 ^ l))) ||| BitVec.ofNat n ((v % 2 ^ (h + 1 - l)) * 2 ^ l)

/-- The element after x of a list where f holds, replaced by g of it; the first such one. -/
def replaceFirst (p : α → Bool) (g : α → α) : List α → List α
  | [] => []
  | a :: as => if p a then g a :: as else a :: replaceFirst p g as

/-- Every element where p holds replaced by g of it. -/
def replaceAll (p : α → Bool) (g : α → α) (l : List α) : List α := l.map fun a => if p a then g a else a

/-- The first element where p holds, put in place or at the end. -/
def upsert (p : α → Bool) (a : α) (l : List α) : List α :=
  if l.any p then replaceFirst p (fun _ => a) l else l ++ [a]

/-- Insert in ascending order of a key. -/
def insertBy (key : α → Nat) (a : α) : List α → List α
  | [] => [a]
  | b :: bs => if key a < key b then a :: b :: bs else b :: insertBy key a bs

/-- A list in ascending order of a key, equal keys in their order. -/
def sortBy (key : α → Nat) (l : List α) : List α := l.foldl (fun acc a => insertBy key a acc) []

/-- A list without repeats, first occurrences kept. -/
def nubNat (l : List Nat) : List Nat := l.foldl (fun acc a => if acc.contains a then acc else acc ++ [a]) []

end Sys2Proof.Machine
end

