-- ==== Sys2Proof/Machine/State.lean ====
section
/-! DEFINITION. The state of the machine: every register, memory, queue and engine record that the spec names, as
plain data. Registers whose reset value the spec does not give reset to 0 (DESIGN CHOICE, log 2). -/

namespace Sys2Proof.Machine

/-- Why the machine itself stops. The spec gives every fault of a program an effect (R357), so these are only raised
where a step names what the device does not have. -/
inductive Fault where
  /-- An event names a context, queue or connection number that its field cannot hold: no such unit exists.
  Raised by nothing that a decoded word can do. Safe: the machine stops where the hardware has nothing to do. -/
  | noSuchUnit
deriving DecidableEq, Repr

/-- Why a step is refused. -/
inductive Refusal where
  /-- The instruction has no meaning in this model yet. Safe: nothing can be proved about its effect. -/
  | notModelled (mnemonic : String)
deriving DecidableEq, Repr

/-! ## Packs -/

/-- The fields of a fault record (R359, R361, R372). Cause 0 is never raised (R357) and marks an empty record. -/
structure FaultRec where
  cause  : Nat := 0
  reason : Nat := 0
  lane   : Nat := 0
  addr   : DWord := 0
  aux    : DWord := 0
  detail : Nat := 0
  dcause : Nat := 0
  tpc    : DWord := 0
  fpc    : DWord := 0
  amask  : DWord := 0
  count  : Nat := 0
  lanes  : Tab DWord := []
deriving DecidableEq, Repr

/-- The trap frame (R360). -/
structure Frame where
  s59  : DWord := 0
  s60  : DWord := 0
  s61  : DWord := 0
  s62  : DWord := 0
  s63  : DWord := 0
  em   : DWord := 0
  mode : BitVec 15 := 0
deriving DecidableEq, Repr

/-- The wait counters (R96). -/
inductive Counter where
  | ld | st | tl | mx | dc
deriving DecidableEq, Repr

/-- An outstanding operation of a wait counter (R96), with what the word read at issue (R112, R220). -/
structure Op where
  /-- the operation's number, by which events name it -/
  id    : Nat
  ctr   : Counter
  word  : Instr
  fpc   : DWord
  /-- the active set recorded at issue -/
  mask  : DWord
  /-- TY of the mode register at issue -/
  ty    : Nat := 0
  /-- lane and address of each lane still to be performed (LDP, STP: the offset x of R223; PFLUSH: the line's address) -/
  addrs : List (Nat × Nat) := []
  /-- lane and operand: store data, atomic operand, or compare value and new value joined; MRD, MWR: lane and element;
  MWLD: number and scale entry -/
  vals  : List (Nat × Nat) := []
  /-- lane and result, of the lanes performed; 64 × (part + 1) + lane for one part of a private access; MWR: lane and
  data; MWLD: number and cell -/
  got   : List (Nat × Nat) := []
  /-- the largest WCT assigned so far -/
  wct   : Nat := 0
  /-- lane, cause, reason and address of each lane that has met a fault at its home (R219, R415) -/
  bad    : List (Nat × Nat × Nat × Nat) := []
  /-- some line's WCT was marked failed (R96, R34) -/
  failed : Bool := false
  /-- the captured operands of an engine operation -/
  regs  : List Lanes := []
  args  : List Nat := []
  /-- lanes that have passed translation and wait for another device (R220, R412) -/
  away  : List Nat := []
  /-- registers whose write is pending: vector, scalar (R95) -/
  vdst  : List Nat := []
  sdst  : List Nat := []
  /-- the word is a replay of lanes listed after a page fault (R220) -/
  replay : Bool := false
deriving DecidableEq, Repr

/-- An entry of the replay list (R220): the operation with only the listed lanes, and the report that must be
answered before it replays. -/
structure Replay where
  op     : Op
  report : Nat
deriving DecidableEq, Repr

/-- What a waiting pack waits for (R113, R312, R354, R356, R429). -/
inductive Wait where
  | none
  /-- the five thresholds of HOLD -/
  | hold (l s t m c : Nat)
  /-- a gate: handle, byte offset and the phase waited on -/
  | gate (h : Nat) (off : Nat) (phase : Nat)
  | teamBarrier (b : Nat)
  | gangBarrier (b : Nat)
  /-- an event word: address, value -/
  | event (va : Nat) (val : Nat)
  /-- a collective's or group's status word: address and destination register -/
  | status (va : Nat) (d : Nat)
deriving DecidableEq, Repr

/-- What a pack is doing (R48, R97, R108, R220, R360, R364). -/
inductive PStatus where
  /-- no pack stands here -/
  | vacant
  /-- issues the words of its current run -/
  | running
  /-- at a run boundary and ready -/
  | ready
  /-- its next word is not in the instruction cache (R116) -/
  | fetching
  /-- in a blocking word -/
  | waiting
  /-- parked on a page fault (R220) -/
  | parked
  /-- a trap is due; the wait counters drain (R360) -/
  | trapping
  /-- EXIT has issued; the counters drain (R108) -/
  | exiting
  /-- stopped by a team halt (R364) -/
  | halted
  /-- stopped at a run boundary to be saved; the counters drain (R96) -/
  | saving
  /-- saved for pre-emption or freeze (R96, R206) -/
  | saved
  /-- retired -/
  | retired
deriving DecidableEq, Repr

/-- One pack (R43, R94-R98, R360, R220). -/
structure Pack where
  id      : PackId := { grid := 0, team := 0, role := 0, pir := 0 }
  status  : PStatus := .vacant
  wait    : Wait := .none
  /-- the issue slot, 0 to 3 (R94) -/
  slot    : Nat := 0
  /-- the tick at which it last became ready (R97: its age) -/
  since   : Nat := 0
  /-- the tick at which it was promoted (R98) -/
  promoted : Option Nat := none
  /-- a trap has been entered, and its handler's first run is not yet chosen (R97, R360) -/
  urgent  : Bool := false
  /-- PRV of its root queue: may issue privileged words (R344) -/
  priv    : Bool := false
  pc      : DWord := 0
  sregs   : Tab DWord := []
  vregs   : Tab Lanes := []
  /-- bit r: v[r] is live (R51) -/
  live    : DWord := 0
  preds   : Tab DWord := []
  em      : DWord := 0
  mode    : BitVec 15 := 0
  fflags  : BitVec 8 := 0
  /-- STALE's COUNT, FIRST and S (R53) -/
  staleCount : BitVec 16 := 0
  staleFirst : BitVec 6 := 0
  staleSeen  : Bool := false
  /-- the X byte of each lane (R152) -/
  xv      : Tab (BitVec 8) := []
  lwct    : Nat := 0
  /-- FSTAT (R416) -/
  fstat   : DWord := 0
  /-- words issued in the current run (R49) -/
  runpos  : Nat := 0
  /-- the handler bit (R360) -/
  h       : Bool := false
  frame   : Frame := {}
  /-- the pending record of deferred faults (R359) -/
  pend    : FaultRec := {}
  /-- FAULTREC: the record of the current trap entry (R372) -/
  frec    : FaultRec := {}
  /-- the fault of a trap that is due (R358, R359); TPC stands in it -/
  due     : FaultRec := {}
  /-- outstanding operations, in issue order (R96) -/
  ops     : List Op := []
  /-- the replay list (R220) -/
  replay  : List Replay := []
  /-- the report of the page fault that keeps the pack parked, if it is the pack's own word (R220, R221, R356) -/
  parkOn  : Option Nat := none
  /-- a page-fault report has reached the core: the pack parks at the next word it tries to issue (R220) -/
  parkDue : Bool := false
  /-- an acquire whose access has not completed: its operation number (R244) -/
  acquire : Option Nat := none
  /-- the A latch: tag and captured registers (R317) -/
  latchTag : Option Nat := none
  latch   : List Lanes := []
  /-- the live set of PPT; a PPT has issued and no matrix word since, and the pack is in the run of the PPT or stands at the
  boundary that ended it: a PPT point (R332) -/
  liveSet : BitVec 16 := 0
  atPpt   : Bool := false
  /-- a team halt has reached its core: it stops at the next run boundary (R364) -/
  haltDue : Bool := false
  /-- words issued since the halt reached the core (R365) -/
  skid    : Nat := 0
  /-- it is to be saved at its next run boundary (R348, R388) -/
  saveDue : Bool := false
  /-- the tick at which its save was asked for (R332) -/
  asked   : Nat := 0
  /-- a page fault of its own word that was declined and is not yet taken: access kind and address (R220, R221, R356) -/
  declined : Option (Nat × Nat) := none
  /-- the command block of a LIFT that stalls on a full queue (R304) -/
  lifting : Option (BitVec 512) := none
  /-- a vector register whose lanes of the mask meet an uncorrectable error at the next word that reads it (R368) -/
  ecc     : Option (Nat × DWord) := none
  /-- a scalar register that meets one (R368) -/
  eccS    : Option Nat := none
deriving DecidableEq, Repr

/-- The kinds of role (R25). -/
inductive RoleKind where
  | general | copy | matrix | epilogue
deriving DecidableEq, Repr

/-- A role of a launch record (R343). -/
structure Role where
  kind  : RoleKind := .general
  packs : Nat := 0
  vregs : Nat := 0
  plim  : Nat := 0
  entry : DWord := 0
deriving DecidableEq, Repr

/-! ## Memory -/

/-- The page bits that a line or a translation carries (R208, R213). -/
structure Perm where
  r  : Bool := false
  w  : Bool := false
  x  : Bool := false
  lc : Nat := 0
  au : Bool := false
deriving DecidableEq, Repr

/-- A cached translation of one page (R213, R218). -/
structure Xlate where
  ctx   : Nat
  /-- virtual base and size of the page, in bytes -/
  base  : Nat
  size  : Nat
  perm  : Perm
  /-- the base die whose TLB holds it (R218) -/
  die   : Nat := 0
  pw    : Bool := false
  fs    : Bool := false
  peer  : Nat := 0
  /-- physical address of the page; the owner's virtual address when PW = 1 -/
  frame : Nat := 0
  /-- copies of A and D, and the physical address of the leaf entry -/
  acc   : Bool := false
  dirty : Bool := false
  pte   : Nat := 0
deriving DecidableEq, Repr

/-- A write accepted by a home and not yet performed (R237). -/
structure PendWrite where
  wct   : Nat
  /-- offset in the line, and byte -/
  bytes : List (Nat × Byte)
  /-- the lift engine wrote it: loads wait for it (R257) -/
  lift  : Bool := false
  /-- the pack that wrote it, whose own loads wait for it (R211) -/
  by_   : Option PackId := none
  /-- a poisoned private line is written back: the mark goes with it (R368, R369) -/
  poison : Bool := false
deriving DecidableEq, Repr

/-- A line at its L2 home (R208, R210, R237). -/
structure HomeLine where
  ctx   : Nat
  /-- virtual address ÷ 128 -/
  line  : Nat
  data  : Line
  perm  : Perm
  /-- physical address of the line -/
  phys  : Nat
  dcopy : Bool := false
  dirty : Bool := false
  poison : Bool := false
  leaseEnd : Nat := 0
  lastWct : Nat := 0
  pend  : List PendWrite := []
deriving DecidableEq, Repr

/-- A line in a core's L1 (R210, R225). -/
structure L1Line where
  core  : Nat
  ctx   : Nat
  line  : Nat
  data  : Line
  perm  : Perm
  leaseEnd : Nat := 0
  /-- homed on another device or in a switch: usable ε ticks less (R241) -/
  remote : Bool := false
  /-- the pack whose private line it is (R225) -/
  owner : Option PackId := none
  dirty : Bool := false
  /-- physical address of the line, kept from its allocation -/
  phys  : Nat := 0
  poison : Bool := false
deriving DecidableEq, Repr

/-! ## Teams -/

/-- An allocation of tile storage (R189): its identity, its granules in the budget of the team that holds it, its
write pointer (R204), and the team it belongs to. -/
structure Alloc where
  sid   : Nat
  start : Nat
  len   : Nat
  wp    : Nat := 0
  owner : TeamId
  /-- 32-byte lines of the tile that are poisoned (R369) -/
  poison : List Nat := []
deriving DecidableEq, Repr

/-- An allocated tile handle (R191, R194, R195). -/
structure Handle where
  desc  : DWord
  /-- the team whose budget holds the storage, and the allocation there -/
  store : TeamId
  sid   : Nat
  rows  : Nat
  cols  : Nat
  /-- bytes per element: 1, 2 or 4 -/
  eb    : Nat
deriving DecidableEq, Repr

/-- A weight buffer (R315). -/
structure WBuf where
  /-- latched format code; 0 for an empty buffer -/
  fmt   : Nat := 0
  /-- latched codebook of CB4 -/
  book  : List (BitVec 16) := []
  /-- 1 + the scale entry of (group, column) at 384 × group + column; an unlisted one is the unit scale -/
  scale : Tab Nat := []
  /-- 1 + the code of weight (K row, column) at 384 × row + column; 0: +0 without a held code -/
  cell  : Tab Nat := []
deriving DecidableEq, Repr

/-- A queued lift command (R290, R293). -/
structure LiftCmd where
  seq : Nat
  blk : BitVec 512
deriving DecidableEq, Repr

/-- What a channel holds for a multicast member whose team is saved (R299). -/
structure Held where
  rank  : Nat
  off   : Nat
  bytes : List Byte
deriving DecidableEq, Repr

/-- One team's queue on one channel (R290, R291, R305). -/
structure LiftQueue where
  halted : Bool := false
  parked : Bool := false
  /-- the next sequence number (R291) -/
  next   : Nat := 1
  done   : Nat := 0
  err    : LiftErr := { code := 0, rsn := 0, addr := 0, coord := 0, bit := 0 }
  errSeq : Nat := 0
  cmds   : List LiftCmd := []
  /-- the head command has started -/
  active : Bool := false
  /-- next item of the walk of a layout record -/
  item   : Nat := 0
  /-- the layout record read at the start -/
  rec_   : Nat := 0
  /-- bytes delivered so far by the active command -/
  sent   : Nat := 0
  /-- the code-table slots and the codebook copied at the start (R272) -/
  table  : Tab (List Word) := []
  book   : List (BitVec 16) := []
  /-- every block has been delivered; the command waits to complete, until this tick (R298) -/
  drain  : Option Nat := none
  /-- the page-fault report that parks the queue -/
  report : Option Nat := none
  held   : List Held := []
  /-- the bytes of the present block that are yet to be delivered; it is the last of its command (R290, R297) -/
  rest   : List Byte := []
  last   : Bool := false
  /-- an LCAN or a halt waits for the present block, and no other starts (R306, R364) -/
  stop   : Bool := false
  /-- the head command had started in a felt, and is yet to go on (R314) -/
  resumed : Bool := false
  /-- an error met while a block was being delivered, which ends the command at the end of that block (R301) -/
  failing : Option LiftErr := none
deriving DecidableEq, Repr

/-- Where a team stands (R346, R348, R350); leaving: its resources are released and its completion increment is not yet
performed. -/
inductive TStatus where
  | resident | evicted | leaving | exited
deriving DecidableEq, Repr

/-- One team (R23, R43, R187, R316, R344, R349, R354). -/
structure Team where
  id      : TeamId := { grid := 0, team := 0 }
  status  : TStatus := .exited
  ctx     : Nat := 0
  prio    : Nat := 0
  depth   : Nat := 0
  /-- gang size, 0 in no gang (R344) -/
  gang    : Nat := 0
  roles   : List Role := []
  trap    : DWord := 0
  parea   : Nat := 0
  /-- number of teams of the grid -/
  total   : Nat := 0
  lcore   : Nat := 0
  core    : Nat := 0
  /-- placement order (R348) -/
  order   : Nat := 0
  /-- tile budget: granules, and the first granule on the core (R187) -/
  granules : Nat := 0
  gbase   : Nat := 0
  /-- bytes of the budget by offset -/
  tmem    : Tab Byte := []
  allocs  : List Alloc := []
  /-- granule runs being cleared: start, length (R189) -/
  clearing : List (Nat × Nat) := []
  handles : Tab (Option Handle) := []
  /-- code-table slots: the record CTLD accepted, header first; empty list for an empty slot (R272) -/
  ct      : Tab (List Word) := []
  /-- codebooks cb0-cb3 (R151) -/
  cb      : Tab (List (BitVec 16)) := []
  /-- accumulator tiles: count m, elements at 128 × row + column, invalid marks -/
  accs    : Nat := 0
  acc     : Tab (Tab Word) := []
  accBad  : BitVec 16 := 0
  active  : WBuf := {}
  shadow  : WBuf := {}
  lift    : Tab LiftQueue := []
  /-- arrivals at team barriers 0-3; at gang barriers 0-1, held by rank 0 or a team in no gang (R354) -/
  tbar    : Tab Nat := []
  gbar    : Tab Nat := []
  /-- arrivals among them that a felt brought, whose packs have yet to come to their word again (R354, R397) -/
  tkept   : Tab Nat := []
  gkept   : Tab Nat := []
  /-- contributions of retired matrix packs to the tiles a save keeps (R333) -/
  keep    : BitVec 16 := 0
  /-- the first halting fault, and the pack that raised it (R364, R367) -/
  halt    : Option FaultRec := none
  /-- largest LWCT of its retired packs (R350) -/
  lwct    : Nat := 0
  /-- the report that its completion increment waits on (R350) -/
  exitOn  : Option Nat := none
deriving DecidableEq, Repr

/-! ## Grids, queues, contexts -/

/-- A unit of work that the launch unit places (R341): the evicted packs of a team that stands on its core, an evicted
team or gang, or the next team or gang of a grid; by its grid and its lowest TEAMID. -/
inductive WorkUnit where
  | packs (t : TeamId)
  | teams (t : TeamId)
  | fresh (t : TeamId)
deriving DecidableEq, Repr

/-- What work takes of one core (R346): teams, packs, vector registers, granules, accumulator tiles. -/
structure Demand where
  teams : Nat := 0
  packs : Nat := 0
  vregs : Nat := 0
  grans : Nat := 0
  accs  : Nat := 0
deriving DecidableEq, Repr

/-- Room that an eviction in progress keeps for the incoming unit (R348): core, first granule, demand. -/
structure Incoming where
  unit  : WorkUnit
  parts : List (Nat × Nat × Demand)
deriving DecidableEq, Repr

/-- A grid (R23, R343-R345, R350, R351, R392). -/
structure Grid where
  idx     : Nat
  ctx     : Nat
  /-- the queue at its root, its ring index there, its parent (R392) -/
  queue   : Nat
  index   : Nat := 0
  parent  : Option Nat := none
  depth   : Nat := 1
  priv    : Bool := false
  /-- the launch record as accepted (R343) -/
  record  : BitVec 2048
  /-- the slots that CTPRE fills (R345) -/
  preload : Tab (List Word) := []
  admitted : Bool := false
  /-- order of acceptance (R341), and of admission (R348) -/
  order   : Nat := 0
  entry   : Nat := 0
  /-- it came with a felt: its teams still to be placed rank as evicted work (R397); its code-table preload is yet to be read
  (R345), and the open report on which that waits -/
  resumed : Bool := false
  preDue  : Bool := false
  preOn   : Option Nat := none
  /-- the largest WCT of its completion increments (R259) -/
  wct     : Nat := 0
  nextT   : Nat := 0
  texit   : Nat := 0
  /-- teams beyond NEXTT cancelled by HALT (R384) -/
  cancelled : Bool := false
  /-- FCAUSE and FTEAM of the first halting fault (R351) -/
  fail    : Option (Nat × Nat) := none
  /-- its wait condition has held (R339) -/
  go      : Bool := false
  retired : Bool := false
  /-- the tick before which no team of a resumed grid is placed (R397) -/
  notBefore : Nat := 0
deriving DecidableEq, Repr

/-- A host queue: its descriptor and the queue unit's state (R337, R338, R342). -/
structure HQueue where
  desc  : BitVec 512 := 0
  /-- the waiting grid -/
  wait  : Option Nat := none
  /-- ticks of the current slice, below 0 where a resume left it more than SLICE (R397), and the tick up to which they are
  counted -/
  slice : Int := 0
  since : Nat := 0
  /-- ring indices taken from the ring whose completion record is not yet written, in order, and the records that wait for
  an earlier one (R436) -/
  order : List Nat := []
  ready : List (Nat × BitVec 256) := []
deriving DecidableEq, Repr

/-- What stands of an agreement (R424): what the members have to agree on as each unit first heard it, the reports that the units
have recorded (unit, rank, and 0 for completion or the ABORTED reason), the first unit's decision with that unit, and the decision
delivered: code, reason and LOST. -/
structure Agreement where
  forms   : List (Nat × List Nat) := []
  reports : List (Nat × Nat × Nat) := []
  ruled   : Option (Nat × Nat × Nat × Nat) := none
  verdict : Option (Nat × Nat × Nat) := none
deriving DecidableEq, Repr

/-- A collective that a device has accepted (R420-R426). -/
structure Coll where
  seq     : Nat
  desc    : BitVec 512
  addr    : Nat
  issuer  : PackId
  /-- the tick of the first member's report of acceptance -/
  start   : Nat
  agree   : Agreement := {}
  /-- the largest WCT of its writes to DST -/
  wct     : Nat := 0
  /-- its own data has been pushed to the others (R423) -/
  pushed  : Bool := false
  /-- this member's own part has ended and is reported -/
  ended   : Bool := false
  /-- its peers have been asked for a decision (R425) -/
  asked   : Bool := false
deriving DecidableEq, Repr

/-- A group slot (R418, R419, R430). -/
structure Group where
  /-- 0 empty, 1 forming, 2 formed -/
  state   : Nat := 0
  members : List Nat := []
  epoch   : DWord := 0
  /-- the two agreement units: addresses of tier-2 switches (R424, log 33) -/
  units   : Nat × Nat := (0, 0)
  tcoll   : Nat := 0
  addr    : Nat := 0
  issuer  : PackId := { grid := 0, team := 0, role := 0, pir := 0 }
  start   : Nat := 0
  /-- the member words of its record are being read (R430) -/
  reading : Bool := false
  /-- the agreement on its formation, and whether its peers have been asked for the decision (R425) -/
  agree   : Agreement := {}
  asked   : Bool := false
  /-- the tick since which neither of its units can be reached (R425) -/
  lone    : Option Nat := none
  /-- what the units have recorded of collectives, or of a formation, not yet accepted here: first reports of acceptance with their
  ticks, and all reports, each with its collective and rank -/
  accepts : List (Nat × Nat) := []
  early   : List (Nat × Nat × UnitReport) := []
  /-- data that other ranks have pushed: collective, rank, offset, bytes -/
  inbox   : List (Nat × Nat × Nat × List Byte) := []
  /-- status words decided, by collective, 2^16 for the formation, and the devices that have asked for one not yet decided (R425) -/
  decided : Tab Nat := []
  askers  : List (Nat × Nat) := []
  /-- collectives accepted so far, and those not ended; the engine has something to do for the first of them (R423) -/
  count   : Nat := 0
  go      : Bool := false
  colls   : List Coll := []
deriving DecidableEq, Repr

/-- A freeze or resume in progress (R386, R387, R396, R403-R405). -/
structure FrzWork where
  isResume : Bool
  issuer  : PackId
  /-- the issuer's context, where FELT and EVT lie -/
  ictx    : Nat
  felt    : Nat
  limit   : Nat
  evt     : Nat
  isSelf  : Bool := false
  /-- the issuer's DLOGBASE (R398), and the register it names for its result -/
  dlogbase : DWord := 0
  dreg    : Nat := 0
  /-- 0 accepted, 1 taking packs or placing, 2 fulling, 3 writing, 4 the completion value is to be stored -/
  phase   : Nat := 0
  /-- the tick at which fulling began -/
  since   : Nat := 0
  /-- queues closed: number, EN before (R387) -/
  queues  : List (Nat × Bool) := []
  gtcf    : Nat := 0
  /-- the largest WCT of its writes; one of them failed -/
  wct     : Nat := 0
  failed  : Bool := false
  /-- the completion value, once known (R404) -/
  value   : Nat := 0
deriving DecidableEq, Repr

/-- One context (R207, R376, R399, R418). -/
structure Ctx where
  ptbase   : DWord := 0
  dlogbase : DWord := 0
  dlogEn   : Bool := false
  dlogOvf  : Bool := false
  dlogP    : BitVec 32 := 0
  dlogC    : BitVec 32 := 0
  /-- the ring taken at start: physical base, log2 of its bytes -/
  dlogRing : Nat := 0
  dlogSize : Nat := 0
  /-- closed to inbound fabric requests (R390) -/
  closed   : Bool := false
  /-- the tick before which none of its teams is placed after a resume (R397) -/
  notBefore : Nat := 0
  /-- counter 17 (R370) -/
  stale    : BitVec 64 := 0
  groups   : Tab Group := []
  frz      : Option FrzWork := none
deriving DecidableEq, Repr

/-- What a core holds for all its teams (R20, R370, R441, R442). -/
structure CoreSt where
  /-- instruction-cache lines present: context, virtual address ÷ 128 -/
  icache  : List (Nat × Nat) := []
  /-- counters 0-9 (R370) -/
  count   : Tab (BitVec 64) := []
  /-- the team whose weight buffers the array holds (R315) -/
  array   : Option TeamId := none
  /-- the pair operation that slaves the array: pack, operation (R323) -/
  slaved  : Option (PackId × Nat) := none
  /-- island clock in steps of 125 MHz, and held at 1.0 GHz (R441, R442) -/
  clock   : Nat := 32
  hot     : Bool := false
  /-- the clocks before it, oldest first: the tick at which each ended, and the clock -/
  clocks  : List (Nat × Nat) := []
  /-- for each lift channel, the team whose block it delivered last (R290) -/
  lifts   : Tab (Option TeamId) := []
  /-- the channel that the stream decoder, and the stream encoder, of the lift engine served last (R292) -/
  decoder : Nat := 7
  encoder : Nat := 7
deriving DecidableEq, Repr

/-! ## Device -/

/-- A remote request outstanding at its requester (R410, R415). -/
structure Request where
  seq      : Nat
  pack     : PackId
  op       : Nat
  line     : Nat
  deadline : Nat
  pkt      : Packet
  /-- when it was sent last -/
  sent     : Nat := 0
  /-- the bits of the window's page (R208) -/
  perm     : Perm := {}
deriving DecidableEq, Repr

/-- A line that another device returned for a word that stalls on a record read, or the fault it ended with. -/
structure RemoteLine where
  pack  : PackId
  ctx   : Nat
  line  : Nat
  data  : Line
  fault : Option (Nat × Nat) := none
deriving DecidableEq, Repr

/-- A packet accepted from another device, with the response kept until its deadline (R410). -/
structure Accepted where
  src   : Nat
  vl    : Nat
  seq   : Nat
  until_ : Nat
  reply : Option Packet
  /-- its source slot and line; the packet, while an earlier one of that slot and line is served -/
  slot  : Nat := 0
  line  : Option Nat := none
  held  : Option Packet := none
deriving DecidableEq, Repr

/-- A fabric link (R407-R409). -/
structure Link where
  lanes  : Nat := 4
  paused : List Nat := []
  /-- flits resent from the replay buffer -/
  resent : Nat := 0
deriving DecidableEq, Repr

/-- A multicast packet that a switch holds (R417): whose collective it serves, and the branches still to be sent. -/
structure McCopy where
  id      : Nat
  pkt     : Packet
  ctx     : Nat
  group   : Nat
  seq     : Nat
  pending : List Nat
  /-- its source has injected it (R409) -/
  injected : Bool := true
deriving DecidableEq, Repr

/-- A packet that no response answers, until every destination of it has acknowledged it (R410), and when it was sent last. -/
structure Unacked where
  pkt  : Packet
  due  : List Nat
  sent : Nat
deriving DecidableEq, Repr

/-- An entry of the report ring, or one waiting for room (R377, R378). -/
structure Report where
  seq   : Nat
  kind  : Nat
  cause : Nat := 0
  ctx   : Nat := 0
  addr  : Nat := 0
  mask  : DWord := 0
  /-- access kind of R378 -/
  acc   : Nat := 0
  lcore : Nat := 0
  pir   : Nat := 0
  role  : Nat := 0
  team  : Nat := 0
  pc    : DWord := 0
  d5    : Nat := 0
  d6    : Nat := 0
deriving DecidableEq, Repr

/-- Who waits for the answer to a page-fault report (R220, R300, R350). -/
inductive Asker where
  | pack (p : PackId)
  | lift (t : TeamId) (ch : Nat)
  | exit (t : TeamId)
  /-- a grid whose code-table preload is read after a resume (R345, R396) -/
  | preload (g : Nat)
  /-- a collective on a group of a context (R423) -/
  | coll (ctx : Nat) (g : Nat) (seq : Nat)
  /-- a request of another device (R412) -/
  | inbound (pkt : Packet)
  | nobody
deriving DecidableEq, Repr

/-- A completion record for a connection (R351, R435, R436). -/
structure CompRec where
  conn  : Nat
  queue : Nat
  /-- host virtual address and record -/
  hva   : Nat
  key   : Nat
  rec_  : BitVec 256
deriving DecidableEq, Repr

/-- What the device has sent to the world outside it, oldest first: the model's own record of its outputs. -/
inductive Out where
  | packet (p : Packet)
  | readReply (conn : Nat) (data : List Byte)
  | ack (conn : Nat)
  | nakAccess (conn : Nat)
  | nakInvalid (conn : Nat)
  | record (r : CompRec)
  /-- boot status, clocks of the working cores, clocks of the 16 other islands, junction temperatures of the working cores, module
  power (R443) -/
  | status (boot : Nat) (clocks bases temps : List Nat) (power : Nat)
  | value (n : Nat)
  | trip
  /-- a row of a bank has reached the threshold (R440) -/
  | rowAlert (bank : Nat)
  | multicast (pkt : Packet) (branch : Nat)
deriving DecidableEq, Repr

/-- What training a stack found: its site and serial number, its per-lane delays and its reference voltages (R439). -/
structure Training where
  site   : Nat
  serial : DWord
  delays : DWord
  refs   : DWord
deriving DecidableEq, Repr

/-- The boot ROM's state (R437). -/
inductive Boot where
  | off | waiting | refused | running
deriving DecidableEq, Repr

/-- The routing tables of the domain's switches, as the device's injections see them (R411). -/
structure Routing where
  /-- the select value of new packets -/
  select   : Nat := 0
  /-- a table that is installed and not yet acknowledged by every switch -/
  incoming : Option Nat := none
  /-- the old table and the tick of the switch-over -/
  old      : Option (Nat × Nat) := none
  retired  : List Nat := []
deriving DecidableEq, Repr

/-- What moves next, as a schedule says it (log 3): the current pack, the slot of a number, or the event at a place of agenda. -/
inductive Turn where
  | issue
  | slot (k : Nat)
  | event (k : Nat)
deriving DecidableEq, Repr

/-- The ordering code (R2). -/
inductive Part where
  | a64 | a48
deriving DecidableEq, Repr

/-- The machine. -/
structure State where
  /-- the pack that moved last, and its team; in every slot the pack that is running is the slot's current pack (R20, R94) -/
  pk      : Pack
  tm      : Team
  packs   : List Pack
  teams   : List Team
  cores   : Tab CoreSt
  ctxs    : Tab Ctx
  grids   : List Grid
  queues  : Tab HQueue
  /-- memory (R17): listed bytes by physical address -/
  hbm     : List Host.Cell
  /-- poisoned 128-byte lines of physical memory (R369) -/
  poison  : List Nat
  l2      : List HomeLine
  /-- lines that have left their home while a lease or a write of them was outstanding: context, line, lease end, last WCT (R237) -/
  leases  : List (Nat × Nat × Nat × Nat)
  /-- writes that the homes have yet to report to those that wait on their lines: WCT, context, line (R339) -/
  reports : List (Nat × Nat × Nat)
  l1      : List L1Line
  tlb     : List Xlate
  /-- key handles cached per base die (R375): handle and entry -/
  keys    : List (Nat × BitVec 1024)
  /-- the global time counter (R240) -/
  gtc     : Nat
  sysskew : DWord
  leasecfg : DWord
  tfab    : DWord
  keytab  : DWord
  /-- counters 10-16 (R370) -/
  count   : Tab (BitVec 64)
  /-- the device fault queue locator (R377), the next report number, reports that wait for room, open page faults -/
  fq      : BitVec 512
  nextReport : Nat
  waiting : List Report
  open_   : List (Report × Asker)
  /-- connection table (R434), failed connections, records held (R436) -/
  conns   : Tab (BitVec 256)
  down    : List Nat
  heldRecs : List CompRec
  /-- evictions in progress (R348) -/
  incoming : List Incoming
  /-- the round robin of R341: the queue last placed -/
  lastQueue : Nat
  /-- fabric (R406-R417) -/
  device  : Nat
  links   : Tab Link
  routing : Routing
  requests : List Request
  accepted : List Accepted
  /-- lines returned for stalled record reads -/
  fetched : List RemoteLine
  /-- sequence numbers given so far (R410) -/
  nextSeq : Nat
  copies  : List McCopy
  /-- packets sent that have yet to be acknowledged (R410) -/
  unacked : List Unacked
  /-- number of tier-2 switches configured (R414), and those that cannot be reached (R424) -/
  switches : Nat
  cutOff   : List Nat
  /-- packets that wait for a link whose lane of them is not paused (R409) -/
  outbound : List Packet
  /-- HBM4E row activation (R440): the lines whose accesses the rows' counts count; banks in back-off with their end, and those
  that reached the threshold again; threshold -/
  acts    : List Nat
  backoff : List (Nat × Nat)
  again   : List Nat
  rowThreshold : Nat
  /-- power and cooling (R441, R442) -/
  cap     : Nat
  /-- the current grants of the islands (R441): core c at c, the 16 others from 72 on -/
  grants  : Tab Nat
  tripped : Bool
  boot    : Boot
  /-- serial numbers of the stacks by site; the training in force; the module flash: results and their CRC-32 (R439) -/
  serials : Tab DWord
  training : List Training
  flash   : Option (List Training × Word)
  /-- ordering code and disabled pairs, die × 9 + pair (R2, R14) -/
  part    : Part
  fused   : List Nat
  /-- outputs (the model's own record), and their number at the last reset -/
  out     : List Out
  past    : Nat
  /-- the tick of the last round of polls (R338, R339) -/
  polled  : Nat
  /-- the next numbers of storage, operations, grids and orders (the model's own) -/
  serial  : Nat
  /-- ticks that one step takes, and counters of the model's free values (log 4) -/
  pace    : Nat
  free    : Nat
  /-- events and inputs that come next, and the schedule that says which agent moves (log 3) -/
  agenda  : List Instr
  turns   : List Turn
deriving DecidableEq, Repr

/-- The machine right after a cold reset (R438): boot-wait, no pack, no team, every queue and table empty. -/
def State.reset : State where
  pk := {}
  tm := {}
  packs := []
  teams := []
  cores := []
  ctxs := []
  grids := []
  queues := []
  hbm := []
  poison := []
  l2 := []
  leases := []
  reports := []
  l1 := []
  tlb := []
  keys := []
  gtc := 0
  sysskew := 32
  leasecfg := 3
  tfab := 20000
  keytab := 0
  count := []
  fq := 0
  nextReport := 0
  waiting := []
  open_ := []
  conns := []
  down := []
  heldRecs := []
  incoming := []
  lastQueue := 63
  device := 0
  links := []
  routing := {}
  requests := []
  accepted := []
  fetched := []
  nextSeq := 0
  copies := []
  unacked := []
  switches := 2
  cutOff := []
  outbound := []
  acts := []
  backoff := []
  again := []
  rowThreshold := 2048
  cap := 2800
  grants := []
  tripped := false
  boot := .waiting
  serials := []
  training := []
  flash := none
  part := .a64
  fused := [8, 17, 26, 35]
  out := []
  past := 0
  polled := 0
  serial := 3
  pace := 1
  free := 0
  agenda := []
  turns := []

/-- The pairs of a part that do not work, die × 9 + pair: one of a die's nine on the 64-core part, three on the other (R14); which
ones, the module says (log 22). -/
def Part.fused : Part → List Nat
  | .a64 => [8, 17, 26, 35]
  | .a48 => [6, 7, 8, 15, 16, 17, 24, 25, 26, 33, 34, 35]

/-- TDP of the part, in watts (R2). -/
def Part.tdp : Part → Nat
  | .a64 => 2800
  | .a48 => 2200

/-- A part right after a cold reset (R2, R14, R438). -/
def State.resetOf (p : Part) : State := { State.reset with part := p, fused := p.fused, cap := p.tdp }

end Sys2Proof.Machine
end

