-- ==== Sys2Proof/Machine/Ops.lean ====
section
/-! DEFINITION. The named operations over registers, packs, teams and physical memory, the fault records, and taking an
exception (R358-R364) with the return from one (R382) beside it. -/

namespace Sys2Proof.Machine

/-- The 64-bit word with every bit 1. -/
def allOnes : DWord := BitVec.ofNat 64 (2 ^ 64 - 1)

/-- A 64-bit register value of a number. -/
def dw (n : Nat) : DWord := BitVec.ofNat 64 n

/-! ## Physical memory -/

/-- A byte of physical memory; one that nothing has written reads 0 (log 1). -/
def memByte (m : List Host.Cell) (a : Nat) : Byte := Tab.get 0 m a

/-- n bytes of physical memory from a. -/
def memBytes (m : List Host.Cell) (a n : Nat) : List Byte := (List.range n).map fun i => memByte m (a + i)

/-- n bytes of physical memory from a, as a number (R3). -/
def memNat (m : List Host.Cell) (a n : Nat) : Nat := ofBytes (memBytes m a n)

/-- Memory with the bytes bs from a. -/
def memWrite (m : List Host.Cell) : Nat → List Byte → List Host.Cell
  | _, [] => m
  | a, b :: bs => memWrite (Tab.set 0 m a b) (a + 1) bs

/-- A 128-byte line of physical memory. -/
def memLine (m : List Host.Cell) (a : Nat) : Line := BitVec.ofNat 1024 (memNat m a 128)

/-- The canonical form of memory: addresses strictly rising, no entry equal to an unlisted byte. -/
def Memory.wf (m : List Host.Cell) : Bool := Tab.wf 0 m

/-- Populated memory, in bytes (R17). -/
def State.capacity (s : State) : Nat :=
  match s.part with
  | .a64 => Config.capacity64
  | .a48 => Config.capacity48

/-! ## Registers of a pack -/

/-- s[r] (R43). -/
def Pack.s (p : Pack) (r : Nat) : DWord := Tab.get 0 p.sregs r
/-- s[r] := v. -/
def Pack.setS (p : Pack) (r : Nat) (v : DWord) : Pack := { p with sregs := Tab.set 0 p.sregs r v }
/-- v[r]; a freed register holds zero in every lane (R52). -/
def Pack.v (p : Pack) (r : Nat) : Lanes := Tab.get 0 p.vregs r
/-- Whether v[r] is live (R51). -/
def Pack.isLive (p : Pack) (r : Nat) : Bool := p.live.getLsbD r
/-- v[r] := x, which makes it live (R51). -/
def Pack.setV (p : Pack) (r : Nat) (x : Lanes) : Pack :=
  { p with vregs := Tab.set 0 p.vregs r x, live := p.live ||| dw (2 ^ r) }
/-- The lanes of m of v[r] receive x; with m empty no register is written (R52). -/
def Pack.writeV (p : Pack) (m : DWord) (r : Nat) (x : Lanes) : Pack :=
  if m = 0 then p else p.setV r (mergeLanes m x (p.v r))
/-- v[r] is freed, in all 64 lanes (R51). -/
def Pack.freeV (p : Pack) (r : Nat) : Pack :=
  { p with vregs := Tab.set 0 p.vregs r 0, live := p.live &&& ~~~(dw (2 ^ r)) }
/-- p[r] (R43). -/
def Pack.p (k : Pack) (r : Nat) : DWord := Tab.get 0 k.preds r
/-- p[r] := v. -/
def Pack.setP (k : Pack) (r : Nat) (v : DWord) : Pack := { k with preds := Tab.set 0 k.preds r v }
/-- The X byte of lane l; 0x80 at reset (R152). -/
def Pack.x (k : Pack) (l : Nat) : BitVec 8 := Tab.get 0x80 k.xv l
/-- The X byte of lane l := b. -/
def Pack.setX (k : Pack) (l : Nat) (b : BitVec 8) : Pack := { k with xv := Tab.set 0x80 k.xv l b }

/-- TY of the mode register (R46). -/
def Pack.ty (p : Pack) : Nat := bitsOf p.mode 14 11
/-- RM. -/
def Pack.rm (p : Pack) : Nat := bitsOf p.mode 10 8
/-- GE. -/
def Pack.ge (p : Pack) : Bool := p.mode.getLsbD 7
/-- GS. -/
def Pack.gs (p : Pack) : Bool := p.mode.getLsbD 6
/-- GP. -/
def Pack.gp (p : Pack) : Nat := bitsOf p.mode 5 1
/-- SAT. -/
def Pack.sat (p : Pack) : Bool := p.mode.getLsbD 0

/-- The lanes whose guard passes (R8): all when GE is 0. -/
def Pack.guard (p : Pack) : DWord :=
  if p.ge then (if p.gs then ~~~(p.p p.gp) else p.p p.gp) else allOnes
/-- The active set: the lanes of em whose guard passes (R8, R100). -/
def Pack.active (p : Pack) : DWord := p.em &&& p.guard

/-- A 64-bit lane value of the pair v[r], v[r+1] (R43). -/
def Pack.pair (p : Pack) (r l : Nat) : Nat := (lane (p.v r) l).toNat + 2 ^ 32 * (lane (p.v (r + 1)) l).toNat

/-- The sticky flags with those of f set (R91, R92). -/
def Pack.raiseFlags (p : Pack) (f : BitVec 8) : Pack := { p with fflags := p.fflags ||| f }

/-- A word reads the registers rs: one stale read when any of them is freed (R53, R464). -/
def Pack.noteReads (p : Pack) (rs : List Nat) : Pack :=
  match sortBy (fun r => r) (rs.filter fun r => !p.isLive r) with
  | [] => p
  | r :: _ =>
    { p with
      staleCount := if p.staleCount = 0xFFFF then 0xFFFF else p.staleCount + 1
      staleFirst := if p.staleSeen then p.staleFirst else BitVec.ofNat 6 r
      staleSeen := true }
/-- The registers rs are freed (R51). -/
def Pack.freeAll (p : Pack) (rs : List Nat) : Pack := rs.foldl Pack.freeV p

/-- STALE as SRD reads it (R53). -/
def Pack.stale (p : Pack) : DWord :=
  dw (p.staleCount.toNat * 2 ^ 16 + p.staleFirst.toNat * 2 ^ 8 + (if p.staleSeen then 1 else 0))

/-- The number of outstanding operations of a wait counter (R96). -/
def Pack.counter (p : Pack) (c : Counter) : Nat := (p.ops.filter fun o => o.ctr == c).length

/-- The five wait counters are 0 (R96). -/
def Pack.drained (p : Pack) : Bool := p.ops.isEmpty

/-! ## Packs, teams, grids, contexts and cores of the machine -/

/-- The pack named p. -/
def State.pack? (s : State) (p : PackId) : Option Pack :=
  if s.pk.id = p then some s.pk else s.packs.find? fun k => k.id == p
/-- The pack named p, changed by f. -/
def State.onPack (s : State) (p : PackId) (f : Pack → Pack) : State :=
  if s.pk.id = p then { s with pk := f s.pk } else { s with packs := replaceFirst (fun k => k.id == p) f s.packs }
/-- Every pack, changed by f. -/
def State.onPacks (s : State) (f : Pack → Pack) : State := { s with pk := f s.pk, packs := s.packs.map f }
/-- The packs of the machine. -/
def State.allPacks (s : State) : List Pack := s.pk :: s.packs
/-- The team named t. -/
def State.team? (s : State) (t : TeamId) : Option Team :=
  if s.tm.id = t then some s.tm else s.teams.find? fun k => k.id == t
/-- The team named t, changed by f. -/
def State.onTeam (s : State) (t : TeamId) (f : Team → Team) : State :=
  if s.tm.id = t then { s with tm := f s.tm } else { s with teams := replaceFirst (fun k => k.id == t) f s.teams }
/-- The teams of the machine. -/
def State.allTeams (s : State) : List Team := s.tm :: s.teams
/-- The packs of team t, current one first. -/
def State.packsOf (s : State) (t : TeamId) : List Pack := s.allPacks.filter fun k => k.id.teamId == t
/-- The team of the pack that issues. -/
def State.teamOf (s : State) (p : Pack) : Team := (s.team? p.id.teamId).getD s.tm
/-- The grid numbered g. -/
def State.grid? (s : State) (g : Nat) : Option Grid := s.grids.find? fun r => r.idx == g
/-- The grid numbered g, changed by f. -/
def State.onGrid (s : State) (g : Nat) (f : Grid → Grid) : State :=
  { s with grids := replaceFirst (fun r => r.idx == g) f s.grids }
/-- A write of grid g has a WCT, which its completion record waits for (R259). -/
def State.gridWrote (s : State) (g wct : Nat) : State := s.onGrid g fun k => { k with wct := max k.wct wct }
/-- The context numbered c. -/
def State.ctx (s : State) (c : Nat) : Ctx := Tab.get {} s.ctxs c
/-- The context numbered c, changed by f. -/
def State.onCtx (s : State) (c : Nat) (f : Ctx → Ctx) : State :=
  { s with ctxs := Tab.set {} s.ctxs c (f (s.ctx c)) }
/-- The core numbered c. -/
def State.core (s : State) (c : Nat) : CoreSt := Tab.get {} s.cores c
/-- The core numbered c, changed by f. -/
def State.onCore (s : State) (c : Nat) (f : CoreSt → CoreSt) : State :=
  { s with cores := Tab.set {} s.cores c (f (s.core c)) }
/-- Counter n of core c, one more (R370). -/
def State.bumpCore (s : State) (c n : Nat) : State :=
  s.onCore c fun k => { k with count := Tab.set 0 k.count n (Tab.get 0 k.count n + 1) }
/-- Device counter n, one more (R370). -/
def State.bump (s : State) (n : Nat) : State :=
  { s with count := Tab.set 0 s.count n (Tab.get 0 s.count n + 1) }
/-- Events that come next, after those already due. -/
def State.push (s : State) (is : List Instr) : State := { s with agenda := s.agenda ++ is }
/-- An output to the world outside. -/
def State.emit (s : State) (o : Out) : State := { s with out := s.out ++ [o] }
/-- The GTC is at least t: waiting on time lets it pass (log 4). -/
def State.waitUntil (s : State) (t : Nat) : State := { s with gtc := max s.gtc t }
/-- A free value, and the state that has used it up (log 11). -/
def State.takeFree (s : State) : BitVec 64 × State := (Config.freeValue s.free, { s with free := s.free + 1 })
/-- A new number for storage, operations, grids and orders. -/
def State.fresh (s : State) : Nat × State := (s.serial, { s with serial := s.serial + 1 })

/-- The role of a pack in its team (R25). -/
def roleOf (t : Team) (p : Pack) : Role := (t.roles[p.id.role]?).getD {}
/-- A pack at a run boundary may be saved now: one of a matrix role at a PPT point, or 50,000 ticks after the request
(R332). -/
def Pack.maySave (p : Pack) (t : Team) (now : Nat) : Bool :=
  p.saveDue && ((roleOf t p).kind != .matrix || p.atPpt || decide (p.asked + 50000 ≤ now))

/-- The pack's index in its team, counting across roles in role order (R223). -/
def packIndex (t : Team) (p : Pack) : Nat :=
  ((t.roles.take p.id.role).map (·.packs)).foldl (· + ·) 0 + p.id.pir
/-- PMAX: the largest PLIM of the roles (R223). -/
def Team.pmax (t : Team) : Nat := (t.roles.map (·.plim)).foldl max 0
/-- GANGID as SRD reads it (R105, R344). -/
def Team.gangId (t : Team) : Nat := if t.gang = 0 then 0xFFFFFFFF else t.id.team / t.gang
/-- GANGRANK (R344). -/
def Team.gangRank (t : Team) : Nat := if t.gang = 0 then 0 else t.id.team % t.gang
/-- The member of rank r of the team's gang. -/
def Team.member (t : Team) (r : Nat) : TeamId := { grid := t.id.grid, team := t.id.team / t.gang * t.gang + r }
/-- The teams of the team's gang; the team alone when it is in none. -/
def Team.gangTeams (t : Team) : List TeamId :=
  if t.gang = 0 then [t.id] else (List.range t.gang).map t.member

/-- ε in ticks (R373). -/
def State.eps (s : State) : Nat := bitsOf s.sysskew 15 0
/-- T_fab in ticks; values below 1,000 act as 1,000 (R374). -/
def State.tfabTicks (s : State) : Nat := max 1000 (bitsOf s.tfab 31 0)
/-- The highest lease class granted (R374). -/
def State.leaseCap (s : State) : Nat := bitsOf s.leasecfg 1 0
/-- The lease class of a page's lines in an L1: 0, so none is held there, with AU (R210). -/
def Perm.leaseClass (p : Perm) : Nat := if p.au then 0 else p.lc
/-- D(LC): the lease of a class, in ticks (R210). -/
def leaseTicks (lc : Nat) : Nat := if lc = 0 then 0 else if lc = 1 then 128 else if lc = 2 then 1024 else 8192

/-! ## Faults -/

/-- The causes of R357, by code. -/
def cILLEGAL : Nat := 0x01
def cPRIV : Nat := 0x02
def cALIGN : Nat := 0x03
def cPAGE : Nat := 0x04
def cPROT : Nat := 0x05
def cSTACK : Nat := 0x06
def cTILE : Nat := 0x07
def cDECODE : Nat := 0x08
def cCODETABLE : Nat := 0x09
def cLATTICE : Nat := 0x0A
def cACC : Nat := 0x0B
def cLIFT : Nat := 0x0C
def cTIMEOUT : Nat := 0x0D
def cPOISON : Nat := 0x0E
def cECC : Nat := 0x0F
def cGANG : Nat := 0x10
def cDEPTH : Nat := 0x11
def cKEY : Nat := 0x12
def cSPACE : Nat := 0x13
def cBREAK : Nat := 0x14
def cSWTRAP : Nat := 0x15

/-- A precise fault: pack-wide, LANE 0xFF (R361). -/
def precise (cause reason : Nat) : FaultRec := { cause := cause, reason := reason, lane := 0xFF }

/-- ILLEGAL with a reason; AUX is the faulting word (R362). The reason stands in REASON and DETAIL is 0. DEDUCED, log 64: R59 names the
detail field, R361 and R362 give the reason to REASON. -/
def illegal (w : Word) (reason : Nat) : FaultRec := { precise cILLEGAL reason with aux := dw w.toNat }

/-- The cause word (R361). -/
def FaultRec.causeWord (r : FaultRec) : DWord :=
  dw (r.detail % 2 ^ 32 * 2 ^ 32 + r.dcause % 256 * 2 ^ 24 + r.lane % 256 * 2 ^ 16 + r.reason % 256 * 2 ^ 8
    + r.cause % 256)

/-- A deferred fault against the lanes, each with its address, joins the pending record (R359): the first fixes the
record's fields, a later one adds its lanes, its count and its cause. LANE is 0xFF when it stands against all 64 lanes
(R361). -/
def Pack.defer (p : Pack) (fpc : DWord) (cause reason lane : Nat) (addr aux : DWord) (detail : Nat)
    (lanes : List (Nat × DWord)) : Pack :=
  let m := maskOf (lanes.map (·.1))
  let fresh := lanes.filter fun l => !p.pend.amask.getLsbD l.1
  let tab := fresh.foldl (fun t l => Tab.set 0 t l.1 l.2) p.pend.lanes
  if p.pend.count = 0 then
    { p with pend :=
        { cause := cause, reason := reason, lane := if m = allOnes then 0xFF else lane, addr := addr, aux := aux, detail := detail,
          dcause := cause, fpc := fpc, amask := m, count := 1, lanes := tab } }
  else
    { p with pend :=
        { p.pend with amask := p.pend.amask ||| m, count := min 0xFFFF (p.pend.count + 1), dcause := cause,
                      lanes := tab } }

/-- A deferred fault recorded against all 64 lanes (R199, R230, R276). -/
def Pack.deferAll (p : Pack) (fpc : DWord) (cause reason : Nat) (addr aux : DWord) (detail : Nat) : Pack :=
  p.defer fpc cause reason 0xFF addr aux detail ((List.range 64).map fun l => (l, addr))

/-- The lane faults of one word, grouped by cause and reason, the group of the lowest lane first. AUX is the mask of
the word's faulting lanes (R362). -/
def Pack.deferLanes (p : Pack) (fpc : DWord) (fs : List (Nat × Nat × Nat × Nat)) : Pack :=
  -- each: lane, cause, reason, address
  let sorted := sortBy (fun f => f.1) fs
  let aux := maskOf (sorted.map (·.1))
  let kinds := sorted.foldl (fun acc f => if acc.contains (f.2.1, f.2.2.1) then acc else acc ++ [(f.2.1, f.2.2.1)]) []
  kinds.foldl (fun p k =>
    let g := sorted.filter fun f => f.2.1 == k.1 && f.2.2.1 == k.2
    match g with
    | [] => p
    | f :: _ => p.defer fpc k.1 k.2 f.1 (dw f.2.2.2) aux 0 (g.map fun f => (f.1, dw f.2.2.2))) p

/-! ## Reports to the device fault queue (R377, R378) -/

/-- The 64 bytes of a report entry. -/
def Report.bytes (r : Report) : List Byte :=
  toBytes (r.kind % 256 + r.cause % 256 * 2 ^ 8 + r.ctx % 2 ^ 16 * 2 ^ 16 + r.seq % 2 ^ 32 * 2 ^ 32) 8
  ++ toBytes r.addr 8 ++ toBytes r.mask.toNat 8
  ++ toBytes (r.acc % 256 + r.lcore % 256 * 2 ^ 8 + r.pir % 32 * 2 ^ 16 + r.role % 4 * 2 ^ 21
      + r.team % 2 ^ 32 * 2 ^ 32) 8
  ++ toBytes r.pc.toNat 8 ++ toBytes r.d5 8 ++ toBytes r.d6 8 ++ toBytes 0 8

/-- log2 of the report ring's entries, when it is set up (4 to 15). -/
def State.reportLog (s : State) : Option Nat :=
  let l := bitsOf s.fq 115 112
  if 4 ≤ l then some l else none

/-- The report ring has room. -/
def State.reportRoom (s : State) : Bool :=
  match s.reportLog with
  | none => false
  | some l => decide ((bitsOf s.fq 191 160 + 2 ^ 32 - bitsOf s.fq 159 128) % 2 ^ 32 < 2 ^ l)

/-- The report is written at RTAIL, which advances: at the address it has, populated or not (R17, log 31). -/
def State.writeReport (s : State) (r : Report) : State :=
  let l := bitsOf s.fq 115 112
  let tail := bitsOf s.fq 191 160
  { s with
    hbm := memWrite s.hbm (bitsOf s.fq 47 0 + 64 * (tail % 2 ^ l)) r.bytes
    fq := setBitsOf s.fq 191 160 (tail + 1) }

/-- Post a report: with room it is written; without, page-fault and halt reports and command completions wait, and
notices (kinds 3, 4, 6, 8) are dropped and counted in counter 16. Its sequence number is the answer's name. -/
def State.post (s : State) (r : Report) : State :=
  let r := { r with seq := s.nextReport }
  let s := { s with nextReport := s.nextReport + 1 }
  if s.reportRoom && s.waiting.isEmpty then s.writeReport r
  else if r.kind = 1 || r.kind = 5 || r.kind = 7 then { s with waiting := s.waiting ++ [r] }
  else s.bump 16

/-- Post a page-fault report that is to be answered (R220, R300, R350); it is the one numbered nextReport. -/
def State.postFault (s : State) (r : Report) (who : Asker) : State :=
  let r := { r with kind := 1, seq := s.nextReport }
  { s.post r with open_ := s.open_ ++ [(r, who)] }

/-- The fields of a report that name a pack. -/
def packReport (t : Team) (p : Pack) : Report :=
  { seq := 0, kind := 0, ctx := t.ctx, lcore := t.lcore, pir := p.id.pir, role := p.id.role, team := t.id.team,
    pc := p.pc }

/-! ## Taking an exception, and the return from one -/

/-- The record that a trap entry delivers: the precise fault that is due, with the lanes and the last cause of the
pending record; or the pending record itself (R359, R360). -/
def Pack.trapRecord (p : Pack) : FaultRec :=
  if p.due.cause = 0 then { p.pend with tpc := p.due.tpc }
  else { p.due with dcause := p.pend.dcause, amask := p.pend.amask, count := p.pend.count, lanes := p.pend.lanes }

/-- A boundary ends the run of a pack: it is a PPT point still if it is the first one after the PPT, so not if the pack stood
at that point when the run began (R332). -/
def Pack.pptKept (p : Pack) : Bool := p.atPpt && p.runpos != 0

/-- Trap entry into the handler at trap (R360). -/
def Pack.enterTrap (p : Pack) (trap : DWord) : Pack :=
  let r := p.trapRecord
  { p with
    frame := { s59 := p.s 59, s60 := p.s 60, s61 := p.s 61, s62 := p.s 62, s63 := p.s 63, em := p.em, mode := p.mode }
    h := true
    sregs := ((((p.setS 59 r.fpc).setS 60 r.causeWord).setS 61 r.addr).setS 62 r.aux |>.setS 63 r.tpc).sregs
    frec := r
    pend := {}
    due := {}
    declined := none
    em := allOnes
    mode := 0
    pc := trap
    runpos := 0
    atPpt := p.pptKept
    wait := .none
    urgent := true
    status := .ready }

/-- The return from a trap: the frame is restored and H cleared (R382). -/
def Pack.leaveTrap (p : Pack) (target : DWord) : Pack :=
  { p with
    sregs := ((((p.setS 59 p.frame.s59).setS 60 p.frame.s60).setS 61 p.frame.s61).setS 62 p.frame.s62
      |>.setS 63 p.frame.s63).sregs
    em := p.frame.em
    mode := p.frame.mode
    h := false
    pc := target
    runpos := 0
    atPpt := p.pptKept
    status := if p.status = .running then .ready else p.status }

/-- A trap halts the team when it is raised in a handler, without a trap entry, or by a cause of kind halt (R360). -/
def haltsTeam (t : Team) (p : Pack) : Bool := p.h || t.trap == 0 || p.trapRecord.cause == cGANG

/-- No block of the queue is being delivered, or held for a member that has been saved. -/
def LiftQueue.settled (q : LiftQueue) : Bool := q.rest.isEmpty && q.held.isEmpty

/-- A lift queue stopped as LCAN stops it (R306): its commands removed, H, P and the error record cleared. A block that is being
delivered commits first, in every member that it names. -/
def LiftQueue.cancel (q : LiftQueue) : LiftQueue :=
  if q.settled then
    { q with halted := false, parked := false, err := { code := 0, rsn := 0, addr := 0, coord := 0, bit := 0 },
             errSeq := 0, cmds := [], active := false, item := 0, rec_ := 0, sent := 0, table := [], book := [],
             drain := none, report := none, stop := false, resumed := false, failing := none }
  else { q with stop := true }

/-- The commands that LCAN removes (R306). -/
def LiftQueue.removed (q : LiftQueue) : Nat := q.cmds.length

/-- The accumulator tiles of an accumulator-load that has started (R293, R297). -/
def LiftQueue.accTiles (q : LiftQueue) : BitVec 16 :=
  match q.cmds with
  | [] => 0
  | c :: _ =>
    if (q.active || q.resumed) && bitsOf c.blk 55 52 == 3 then
      BitVec.ofNat 16 ((2 ^ (bitsOf c.blk 169 166 + 1) - 1) * 2 ^ bitsOf c.blk 173 170)
    else 0

/-- Stop queue ch of a team as LCAN does; tiles of a stopped accumulator-load become invalid (R306, R316). -/
def Team.cancelLift (t : Team) (ch : Nat) : Team :=
  let q := Tab.get {} t.lift ch
  { t with lift := Tab.set {} t.lift ch q.cancel, accBad := t.accBad ||| if q.settled then q.accTiles else 0 }

/-- Every lift queue of a team stopped (R364). -/
def Team.cancelLifts (t : Team) : Team := (List.range 8).foldl Team.cancelLift t

/-- A team halt by pack p with fault r (R364): the pack stops; the halt is broadcast to its siblings; the lift queues
stop; the first halting fault stands in FCAUSE and FTEAM. A team already halting keeps its first fault (R367). -/
def State.haltTeam (s : State) (t : TeamId) (by_ : Option PackId) (r : FaultRec) : State :=
  let siblings := ((s.packsOf t).filter fun k => some k.id != by_ && k.status != .retired && k.status != .vacant).map (·.id)
  let s := match by_ with
    | none => s
    | some p => s.onPack p fun k => { k with status := .halted, haltDue := false, wait := .none }
  let s := s.onTeam t fun m => { m.cancelLifts with halt := m.halt.orElse fun _ => some r }
  let s := { s with requests := s.requests.filter fun q => !(q.pack.role == 4 && q.pack.teamId == t) }
  let s := s.onGrid t.grid fun g => { g with fail := g.fail.orElse fun _ => some (r.cause, t.team) }
  s.push (siblings.map Instr.haltBroadcastArrive ++ (by_.map Instr.packRetire).toList)

/-- Deliver the trap that is due in pack p, whose counters are 0: the handler or a team halt (R360). -/
def State.deliver (s : State) (p : Pack) : State :=
  let t := s.teamOf p
  if haltsTeam t p then s.haltTeam t.id (some p.id) p.trapRecord
  else s.onPack p.id fun k => { k.enterTrap t.trap with since := s.gtc }

/-- The trap of the issuing pack becomes due: with its counters at 0 it is entered now, else when they have drained
(R360). -/
def State.trapDue (s : State) (due : FaultRec) : State :=
  let p := { s.pk with due := due, status := .trapping }
  let s := { s with pk := p }
  if p.drained then s.deliver p else s.push [.trapEntry p.id]

/-- A precise fault at the word being issued (R358): FPC and TPC are the word. -/
def State.raise (s : State) (f : FaultRec) : State :=
  s.trapDue { f with fpc := s.pk.pc, tpc := s.pk.pc }

/-- The trap of the pending record is taken at the word being issued (R359): TPC is that word. -/
def State.takePending (s : State) : State := s.trapDue { tpc := s.pk.pc }

/-- A deferred fault is pending, so EXIT and blocking words take the trap (R359). -/
def Pack.hasPending (p : Pack) : Bool := p.pend.count != 0

/-! ## Finishing a word -/

/-- The address of the next word. -/
def Pack.next (p : Pack) : DWord := p.pc + 4

/-- The pack ends its run and competes for the slot with age 0 (R48, R97). -/
def Pack.endRun (p : Pack) (now : Nat) : Pack :=
  { p with runpos := 0, since := now, status := if p.status = .running then .ready else p.status }

/-- The word completes and the pack goes to pc; e: the word ends the run (R49). -/
def State.goto (s : State) (e : Bool) (pc : DWord) : State :=
  let p := { s.pk with pc := pc, runpos := s.pk.runpos + 1, declined := none, atPpt := s.pk.pptKept }
  { s with pk := if e then p.endRun s.gtc else p }

/-- The word completes (R49). -/
def State.finish (s : State) (e : Bool) : State := s.goto e s.pk.next

/-- The pack blocks at its word, which ends the run (R48, R113); the PC stays at the word. The position in the run stays until
the wait is over, when it says whether this boundary is a PPT point. -/
def State.block (s : State) (w : Wait) : State :=
  { s with pk := { s.pk with status := .waiting, wait := w } }

/-- The wait of a pack is over: it is ready at the next word (R113). -/
def Pack.wake (p : Pack) (now : Nat) : Pack :=
  { p with status := .ready, wait := .none, pc := p.next, since := now, declined := none, runpos := 0, atPpt := p.pptKept }

/-- The slot stalls in place (R95): nothing changes but counts of cc, which read as free values (log 11). -/
def State.stall (s : State) : State := s

/-- The outcome of a meaning. -/
abbrev Result := Host.Outcome State Fault Refusal

/-- What the meaning of a word does once the checks of R59 have passed. -/
inductive Res where
  /-- the word completes -/
  | done (s : State)
  /-- the word completes and control goes to pc -/
  | jump (s : State) (pc : DWord)
  /-- the word has set the pack's PC and status itself -/
  | own (s : State)
  /-- the word stalls in place (R95) -/
  | stall
  /-- the word stalls in place and has sent a request for what it waits for -/
  | wait (s : State)
  /-- the word has not issued, and the machine is as given: its pack has parked on a page fault (R220) -/
  | held (s : State)
  /-- a precise fault (R358) -/
  | trap (f : FaultRec)

end Sys2Proof.Machine
end

