-- ==== Sys2Proof/Machine/Operands.lean ====
section
/-! DEFINITION. The operand forms of every word: which registers it reads, writes and frees (R42-R45, R51-R53, R120), the
checks that come before its effect (R49, R50, R58, R59), the interlocks (R95, R96, R244), and the issue of a word. -/

namespace Sys2Proof.Machine

/-- A vector operand: count registers from base, whose first must be a multiple of align (R44). -/
structure VRef where
  base  : Nat
  count : Nat
  align : Nat
deriving DecidableEq, Repr

/-- The registers of a vector operand. -/
def VRef.regs (v : VRef) : List Nat := (List.range v.count).map (v.base + ·)

/-- What a word names: vector operands read, written, named only, and freed as last use; scalar registers read and
written; accumulator tiles (first, count). -/
structure Uses where
  vr : List VRef := []
  vw : List VRef := []
  nm : List VRef := []
  fr : List VRef := []
  sr : List Nat := []
  sw : List Nat := []
  ac : List (Nat × Nat) := []
deriving DecidableEq, Repr

/-- A single vector register. -/
def v1 (r : Nat) : VRef := ⟨r, 1, 1⟩
/-- Block number r of n registers, aligned to n. -/
def blk (n r : Nat) : VRef := ⟨n * r, n, n⟩
/-- A pair when wide, else a single register. -/
def vw (wide : Bool) (r : Nat) : VRef := if wide then ⟨r, 2, 2⟩ else v1 r
/-- TY codes that name pairs (R120). -/
def pairTy (ty : Nat) : Bool := ty == 6 || ty == 7
/-- A pair under TY 6 and 7, else a single register (R120). -/
def vp (ty : Nat) (r : BitVec 6) : VRef := vw (pairTy ty) r.toNat
/-- A last-use source (R51). -/
def lastUse (mark : Bool) (r : VRef) : List VRef := if mark then [r] else []
/-- MMA's scale registers: none for S = 63; an even pair for E2M1X; one register otherwise (R319). -/
def mmaScale (f s : Nat) : VRef := if s = 63 then ⟨0, 0, 1⟩ else if f = 3 then ⟨s, 2, 2⟩ else ⟨s, 1, 1⟩

/-- The operands of each word under TY; an event names none. -/
def uses (ty : Nat) (i : Instr) : Uses :=
  match i with
  | .sadd _ d a b => { sr := [a.toNat, b.toNat], sw := [d.toNat] }
  | .ssub _ d a b => { sr := [a.toNat, b.toNat], sw := [d.toNat] }
  | .smul _ d a b => { sr := [a.toNat, b.toNat], sw := [d.toNat] }
  | .smulh _ d a b => { sr := [a.toNat, b.toNat], sw := [d.toNat] }
  | .sand _ d a b => { sr := [a.toNat, b.toNat], sw := [d.toNat] }
  | .sor _ d a b => { sr := [a.toNat, b.toNat], sw := [d.toNat] }
  | .sxor _ d a b => { sr := [a.toNat, b.toNat], sw := [d.toNat] }
  | .sandn _ d a b => { sr := [a.toNat, b.toNat], sw := [d.toNat] }
  | .sshl _ d a b => { sr := [a.toNat, b.toNat], sw := [d.toNat] }
  | .sshr _ d a b => { sr := [a.toNat, b.toNat], sw := [d.toNat] }
  | .ssar _ d a b => { sr := [a.toNat, b.toNat], sw := [d.toNat] }
  | .smin _ d a b => { sr := [a.toNat, b.toNat], sw := [d.toNat] }
  | .smax _ d a b => { sr := [a.toNat, b.toNat], sw := [d.toNat] }
  | .sclz _ d a => { sr := [a.toNat], sw := [d.toNat] }
  | .spopc _ d a => { sr := [a.toNat], sw := [d.toNat] }
  | .ssel _ d a b => { sr := [a.toNat, b.toNat, d.toNat], sw := [d.toNat] }
  | .smov _ d a => { sr := [a.toNat], sw := [d.toNat] }
  | .scmp _ d a b _ => { sr := [a.toNat, b.toNat], sw := [d.toNat] }
  | .saddImm _ d a _ => { sr := [a.toNat], sw := [d.toNat] }
  | .smulImm _ d a _ => { sr := [a.toNat], sw := [d.toNat] }
  | .sandImm _ d a _ => { sr := [a.toNat], sw := [d.toNat] }
  | .sorImm _ d a _ => { sr := [a.toNat], sw := [d.toNat] }
  | .sxorImm _ d a _ => { sr := [a.toNat], sw := [d.toNat] }
  | .sshlImm _ d a _ => { sr := [a.toNat], sw := [d.toNat] }
  | .sshrImm _ d a _ => { sr := [a.toNat], sw := [d.toNat] }
  | .ssarImm _ d a _ => { sr := [a.toNat], sw := [d.toNat] }
  | .sli _ d _ => { sw := [d.toNat] }
  | .shi _ d _ _ => { sr := [d.toNat], sw := [d.toNat] }
  | .mskp _ d _ => { sw := [d.toNat] }
  | .mskn _ d _ => { sw := [d.toNat] }
  | .msks _ a => { sr := [a.toNat] }
  | .mskg _ d => { sw := [d.toNat] }
  | .mskpop _ d _ => { sw := [d.toNat] }
  | .mskff _ d _ => { sw := [d.toNat] }
  | .modeg _ d => { sw := [d.toNat] }
  | .modes _ a => { sr := [a.toNat] }
  | .srd _ d _ => { sw := [d.toNat] }
  | .ret a => { sr := [a.toNat] }
  | .jmp a => { sr := [a.toNat] }
  | .call _ => { sw := [63] }
  | .bz s _ => { sr := [s.toNat] }
  | .bnz s _ => { sr := [s.toNat] }
  | .vadd _ d a b x y => { vr := [vp ty a, vp ty b], vw := [vp ty d], fr := lastUse x (vp ty a) ++ lastUse y (vp ty b) }
  | .vaddc _ d a b x y => { vr := [vp ty a, vp ty b], vw := [vp ty d], fr := lastUse x (vp ty a) ++ lastUse y (vp ty b) }
  | .vsub _ d a b x y => { vr := [vp ty a, vp ty b], vw := [vp ty d], fr := lastUse x (vp ty a) ++ lastUse y (vp ty b) }
  | .vsubb _ d a b x y => { vr := [vp ty a, vp ty b], vw := [vp ty d], fr := lastUse x (vp ty a) ++ lastUse y (vp ty b) }
  | .vmul _ d a b x y => { vr := [vp ty a, vp ty b], vw := [vp ty d], fr := lastUse x (vp ty a) ++ lastUse y (vp ty b) }
  | .vmulh _ d a b x y => { vr := [vp ty a, vp ty b], vw := [vp ty d], fr := lastUse x (vp ty a) ++ lastUse y (vp ty b) }
  | .vmad _ d a b x y => { vr := [vp ty a, vp ty b, vp ty d], vw := [vp ty d], fr := lastUse x (vp ty a) ++ lastUse y (vp ty b) }
  | .vmin _ d a b x y => { vr := [vp ty a, vp ty b], vw := [vp ty d], fr := lastUse x (vp ty a) ++ lastUse y (vp ty b) }
  | .vmax _ d a b x y => { vr := [vp ty a, vp ty b], vw := [vp ty d], fr := lastUse x (vp ty a) ++ lastUse y (vp ty b) }
  | .vabs _ d a x => { vr := [vp ty a], vw := [vp ty d], fr := lastUse x (vp ty a) }
  | .vneg _ d a x => { vr := [vp ty a], vw := [vp ty d], fr := lastUse x (vp ty a) }
  | .vand _ d a b x y => { vr := [vp ty a, vp ty b], vw := [vp ty d], fr := lastUse x (vp ty a) ++ lastUse y (vp ty b) }
  | .vor _ d a b x y => { vr := [vp ty a, vp ty b], vw := [vp ty d], fr := lastUse x (vp ty a) ++ lastUse y (vp ty b) }
  | .vxor _ d a b x y => { vr := [vp ty a, vp ty b], vw := [vp ty d], fr := lastUse x (vp ty a) ++ lastUse y (vp ty b) }
  | .vnot _ d a x => { vr := [vp ty a], vw := [vp ty d], fr := lastUse x (vp ty a) }
  | .vandn _ d a b x y => { vr := [vp ty a, vp ty b], vw := [vp ty d], fr := lastUse x (vp ty a) ++ lastUse y (vp ty b) }
  | .vshl _ d a b x y => { vr := [vp ty a, vp ty b], vw := [vp ty d], fr := lastUse x (vp ty a) ++ lastUse y (vp ty b) }
  | .vshr _ d a b x y => { vr := [vp ty a, vp ty b], vw := [vp ty d], fr := lastUse x (vp ty a) ++ lastUse y (vp ty b) }
  | .vsar _ d a b x y => { vr := [vp ty a, vp ty b], vw := [vp ty d], fr := lastUse x (vp ty a) ++ lastUse y (vp ty b) }
  | .vrot _ d a b x y => { vr := [vp ty a, vp ty b], vw := [vp ty d], fr := lastUse x (vp ty a) ++ lastUse y (vp ty b) }
  | .vclz _ d a x => { vr := [vp ty a], vw := [vp ty d], fr := lastUse x (vp ty a) }
  | .vffs _ d a x => { vr := [vp ty a], vw := [vp ty d], fr := lastUse x (vp ty a) }
  | .vpopc _ d a x => { vr := [vp ty a], vw := [vp ty d], fr := lastUse x (vp ty a) }
  | .vbrev _ d a x => { vr := [vp ty a], vw := [vp ty d], fr := lastUse x (vp ty a) }
  | .vsel _ d a b x y => { vr := [vp ty a, vp ty b], vw := [vp ty d], fr := lastUse x (vp ty a) ++ lastUse y (vp ty b) }
  | .vmov _ d a x => { vr := [vp ty a], vw := [vp ty d], fr := lastUse x (vp ty a) }
  | .vaddImm _ d a _ => { vr := [vp ty a], vw := [vp ty d] }
  | .vmulImm _ d a _ => { vr := [vp ty a], vw := [vp ty d] }
  | .vandImm _ d a _ => { vr := [vp ty a], vw := [vp ty d] }
  | .vorImm _ d a _ => { vr := [vp ty a], vw := [vp ty d] }
  | .vxorImm _ d a _ => { vr := [vp ty a], vw := [vp ty d] }
  | .vshlImm _ d a _ => { vr := [vp ty a], vw := [vp ty d] }
  | .vshrImm _ d a _ => { vr := [vp ty a], vw := [vp ty d] }
  | .vsarImm _ d a _ => { vr := [vp ty a], vw := [vp ty d] }
  | .vli _ d _ => { vw := [v1 d.toNat] }
  | .vlane _ d => { vw := [v1 d.toNat] }
  | .vshf _ d a b x y => { vr := [v1 a.toNat, v1 b.toNat], vw := [v1 d.toNat], fr := lastUse x (v1 a.toNat) ++ lastUse y (v1 b.toNat) }
  | .vstep _ d a b x => { vr := [v1 a.toNat], vw := [v1 d.toNat], sr := [b.toNat], fr := lastUse x (v1 a.toNat) }
  | .vbcast _ d a b x => { vr := [v1 a.toNat], vw := [v1 d.toNat], sr := [b.toNat], fr := lastUse x (v1 a.toNat) }
  | .vget _ d a b x => { vr := [v1 a.toNat], sr := [b.toNat], sw := [d.toNat], fr := lastUse x (v1 a.toNat) }
  | .vbfx _ d a b x y => { vr := [v1 a.toNat, v1 b.toNat], vw := [v1 d.toNat], fr := lastUse x (v1 a.toNat) ++ lastUse y (v1 b.toNat) }
  | .vbfi _ d a b x y => { vr := [v1 a.toNat, v1 b.toNat, v1 d.toNat], vw := [v1 d.toNat], fr := lastUse x (v1 a.toNat) ++ lastUse y (v1 b.toNat) }
  | .vcmp _ _ a b x y _ => { vr := [vp ty a, vp ty b], fr := lastUse x (vp ty a) ++ lastUse y (vp ty b) }
  | .fadd _ d a b x y => { vr := [v1 a.toNat, v1 b.toNat], vw := [v1 d.toNat], fr := lastUse x (v1 a.toNat) ++ lastUse y (v1 b.toNat) }
  | .fsub _ d a b x y => { vr := [v1 a.toNat, v1 b.toNat], vw := [v1 d.toNat], fr := lastUse x (v1 a.toNat) ++ lastUse y (v1 b.toNat) }
  | .fmul _ d a b x y => { vr := [v1 a.toNat, v1 b.toNat], vw := [v1 d.toNat], fr := lastUse x (v1 a.toNat) ++ lastUse y (v1 b.toNat) }
  | .fmin _ d a b x y => { vr := [v1 a.toNat, v1 b.toNat], vw := [v1 d.toNat], fr := lastUse x (v1 a.toNat) ++ lastUse y (v1 b.toNat) }
  | .fmax _ d a b x y => { vr := [v1 a.toNat, v1 b.toNat], vw := [v1 d.toNat], fr := lastUse x (v1 a.toNat) ++ lastUse y (v1 b.toNat) }
  | .fabs _ d a x => { vr := [v1 a.toNat], vw := [v1 d.toNat], fr := lastUse x (v1 a.toNat) }
  | .fneg _ d a x => { vr := [v1 a.toNat], vw := [v1 d.toNat], fr := lastUse x (v1 a.toNat) }
  | .fclass _ d a x => { vr := [v1 a.toNat], vw := [v1 d.toNat], fr := lastUse x (v1 a.toNat) }
  | .frint _ d a x => { vr := [v1 a.toNat], vw := [v1 d.toNat], fr := lastUse x (v1 a.toNat) }
  | .fdiv _ d a b x y => { vr := [v1 a.toNat, v1 b.toNat], vw := [v1 d.toNat], fr := lastUse x (v1 a.toNat) ++ lastUse y (v1 b.toNat) }
  | .fcmp _ _ a b x y _ => { vr := [v1 a.toNat, v1 b.toNat], fr := lastUse x (v1 a.toNat) ++ lastUse y (v1 b.toNat) }
  | .frcp _ d a x => { vr := [v1 a.toNat], vw := [v1 d.toNat], fr := lastUse x (v1 a.toNat) }
  | .frsq _ d a x => { vr := [v1 a.toNat], vw := [v1 d.toNat], fr := lastUse x (v1 a.toNat) }
  | .fsqrt _ d a x => { vr := [v1 a.toNat], vw := [v1 d.toNat], fr := lastUse x (v1 a.toNat) }
  | .fexp2 _ d a x => { vr := [v1 a.toNat], vw := [v1 d.toNat], fr := lastUse x (v1 a.toNat) }
  | .flog2 _ d a x => { vr := [v1 a.toNat], vw := [v1 d.toNat], fr := lastUse x (v1 a.toNat) }
  | .fsin _ d a x => { vr := [v1 a.toNat], vw := [v1 d.toNat], fr := lastUse x (v1 a.toNat) }
  | .fcos _ d a x => { vr := [v1 a.toNat], vw := [v1 d.toNat], fr := lastUse x (v1 a.toNat) }
  | .ftanh _ d a x => { vr := [v1 a.toNat], vw := [v1 d.toNat], fr := lastUse x (v1 a.toNat) }
  | .ffma _ d a b x y _ => { vr := [v1 a.toNat, v1 b.toNat, v1 d.toNat], vw := [v1 d.toNat], fr := lastUse x (v1 a.toNat) ++ lastUse y (v1 b.toNat) }
  | .fflags _ d a b => { sr := [a.toNat, b.toNat], sw := [d.toNat] }
  | .cvt _ d a t x => { vr := [vp ty a], vw := [vp t.toNat d], fr := lastUse x (vp ty a) }
  | .unpk _ d a _ x _ => { vr := [v1 a.toNat], vw := [v1 d.toNat], fr := lastUse x (v1 a.toNat) }
  | .pack2Bf16 _ d a b x y => { vr := [v1 a.toNat, v1 b.toNat], vw := [v1 d.toNat], fr := lastUse x (v1 a.toNat) ++ lastUse y (v1 b.toNat) }
  | .pack2F16 _ d a b x y => { vr := [v1 a.toNat, v1 b.toNat], vw := [v1 d.toNat], fr := lastUse x (v1 a.toNat) ++ lastUse y (v1 b.toNat) }
  | .pack4E4m3 _ d a b x y => { vr := [blk 2 a.toNat, blk 2 b.toNat], vw := [v1 d.toNat], fr := lastUse x (blk 2 a.toNat) ++ lastUse y (blk 2 b.toNat) }
  | .pack4E5m2 _ d a b x y => { vr := [blk 2 a.toNat, blk 2 b.toNat], vw := [v1 d.toNat], fr := lastUse x (blk 2 a.toNat) ++ lastUse y (blk 2 b.toNat) }
  | .pack4hLo _ d a b x y => { vr := [blk 2 a.toNat, blk 2 b.toNat, v1 d.toNat], vw := [v1 d.toNat], fr := lastUse x (blk 2 a.toNat) ++ lastUse y (blk 2 b.toNat) }
  | .pack4hHi _ d a b x y => { vr := [blk 2 a.toNat, blk 2 b.toNat, v1 d.toNat], vw := [v1 d.toNat], fr := lastUse x (blk 2 a.toNat) ++ lastUse y (blk 2 b.toNat) }
  | .bscale _ d a _ x => { vr := [v1 a.toNat], vw := [v1 d.toNat], fr := lastUse x (v1 a.toNat) }
  | .qcb _ d a _ x => { vr := [v1 a.toNat], vw := [v1 d.toNat], fr := lastUse x (v1 a.toNat) }
  | .xset _ d a b x y => { vr := [v1 a.toNat, v1 b.toNat], vw := [v1 d.toNat], fr := lastUse x (v1 a.toNat) ++ lastUse y (v1 b.toNat) }
  | .cbld _ _ a x => { vr := [v1 a.toNat], fr := lastUse x (v1 a.toNat) }
  | .qlat _ d a b x y => { vr := [blk 8 a.toNat, v1 b.toNat, v1 d.toNat], vw := [v1 d.toNat], fr := lastUse x (blk 8 a.toNat) ++ lastUse y (v1 b.toNat) }
  | .dlat _ d a b x y => { vr := [v1 a.toNat, v1 b.toNat], vw := [blk 8 d.toNat], fr := lastUse x (v1 a.toNat) ++ lastUse y (v1 b.toNat) }
  | .lput _ d a b x y => { vr := [v1 a.toNat, v1 b.toNat, v1 d.toNat], vw := [v1 d.toNat], fr := lastUse x (v1 a.toNat) ++ lastUse y (v1 b.toNat) }
  | .lscale _ d a b x y => { vr := [blk 8 a.toNat, v1 b.toNat], vw := [v1 d.toNat], fr := lastUse x (blk 8 a.toNat) ++ lastUse y (v1 b.toNat) }
  | .lshell _ d a b x y => { vr := [v1 a.toNat, v1 b.toNat], vw := [v1 d.toNat], fr := lastUse x (v1 a.toNat) ++ lastUse y (v1 b.toNat) }
  | .lget _ d a b x y => { vr := [v1 a.toNat, v1 b.toNat], vw := [v1 d.toNat], fr := lastUse x (v1 a.toNat) ++ lastUse y (v1 b.toNat) }
  | .lpack _ d a b x y => { vr := [v1 a.toNat, v1 b.toNat], vw := [v1 d.toNat], fr := lastUse x (v1 a.toNat) ++ lastUse y (v1 b.toNat) }
  | .lchk _ _ a _ x => { vr := [v1 a.toNat], fr := lastUse x (v1 a.toNat) }
  | .tld _ v _ c l => { vr := [v1 c.toNat], vw := [v1 v.toNat], fr := lastUse l (v1 c.toNat) }
  | .tst _ v _ c l => { vr := [v1 v.toNat, v1 c.toNat], fr := lastUse l (v1 v.toNat) }
  | .tlds _ v _ c => { sr := [c.toNat], sw := [v.toNat] }
  | .talloc _ v _ c => { sr := [c.toNat], sw := [v.toNat] }
  | .tfree _ v _ => { sw := [v.toNat] }
  | .tinfo _ v _ => { sw := [v.toNat] }
  | .tfill _ v _ => { sr := [v.toNat] }
  | .twptr _ v _ => { sw := [v.toNat] }
  | .ld _ v b o l w => { vr := [v1 o.toNat], vw := [vw (w.toNat == 3) v.toNat], sr := [b.toNat], fr := lastUse l (v1 o.toNat) }
  | .st _ v b o l w => { vr := [vw (w.toNat == 3) v.toNat, v1 o.toNat], sr := [b.toNat], fr := lastUse l (vw (w.toNat == 3) v.toNat) }
  | .ldp _ v b o l w => { vr := [v1 o.toNat], vw := [vw (w.toNat == 3) v.toNat], sr := [b.toNat], fr := lastUse l (v1 o.toNat) }
  | .stp _ v b o l w => { vr := [vw (w.toNat == 3) v.toNat, v1 o.toNat], sr := [b.toNat], fr := lastUse l (vw (w.toNat == 3) v.toNat) }
  | .lds _ v b _ _ => { sr := [b.toNat], sw := [v.toNat] }
  | .sts _ v b _ _ => { sr := [b.toNat, v.toNat] }
  | .pref _ _ b o l => { vr := [v1 o.toNat], sr := [b.toNat], fr := lastUse l (v1 o.toNat) }
  | .atom _ v b o l _ => { vr := [vp ty v, v1 o.toNat], vw := [vp ty v], sr := [b.toNat], fr := lastUse l (v1 o.toNat) }
  | .atomf _ v b o l _ => { vr := [v1 v.toNat, v1 o.toNat], vw := [v1 v.toNat], sr := [b.toNat], fr := lastUse l (v1 o.toNat) }
  | .cas _ v b o l _ => { vr := [blk 2 v.toNat, v1 o.toNat], vw := [v1 (2 * v.toNat)], sr := [b.toNat], fr := lastUse l (v1 o.toNat) }
  | .cas64 _ v b o l _ => { vr := [blk 4 v.toNat, v1 o.toNat], vw := [⟨4 * v.toNat, 2, 2⟩], sr := [b.toNat], fr := lastUse l (v1 o.toNat) }
  | .ldaq _ v b o l w _ => { vr := [v1 o.toNat], vw := [vw (w.toNat == 1) v.toNat], sr := [b.toNat], fr := lastUse l (v1 o.toNat) }
  | .strl _ v b o l w _ => { vr := [vw (w.toNat == 1) v.toNat, v1 o.toNat], sr := [b.toNat], fr := lastUse l (vw (w.toNat == 1) v.toNat) }
  | .atoms _ v b o l _ => { vr := [vp ty v, v1 o.toNat], sr := [b.toNat], fr := lastUse l (vp ty v) }
  | .ctld _ _ _ c => { sr := [c.toNat] }
  | .bixq _ v h c => { sr := [h.toNat, c.toNat], sw := [v.toNat] }
  | .kvapp _ v _ c => { sr := [2 * c.toNat, 2 * c.toNat + 1], sw := [v.toNat] }
  | .dech _ v _ c => { vw := [v1 v.toNat], sr := [2 * c.toNat, 2 * c.toNat + 1] }
  | .dec _ v _ c => { vw := [blk 4 v.toNat], sr := [2 * c.toNat, 2 * c.toNat + 1] }
  | .enc _ v _ c l => { vr := [blk 4 v.toNat], sr := [2 * c.toNat, 2 * c.toNat + 1], sw := [2 * c.toNat + 1], fr := lastUse l (blk 4 v.toNat) }
  | .encf _ v _ c => { sr := [2 * c.toNat, 2 * c.toNat + 1], sw := [v.toNat] }
  | .lift _ d a => { sr := [a.toNat], sw := [d.toNat] }
  | .lqry _ d a => { sr := [a.toNat], sw := [d.toNat] }
  | .lcan _ d a => { sr := [a.toNat], sw := [d.toNat] }
  | .ginit _ v _ c => { sr := [v.toNat, c.toNat] }
  | .gexp _ v _ c => { sr := [v.toNat, c.toNat] }
  | .garr _ v _ c => { sr := [v.toNat, c.toNat] }
  | .gwait _ v _ c => { sr := [v.toNat, c.toNat] }
  | .gtry _ v _ c => { sr := [c.toNat], sw := [v.toNat] }
  | .mma _ n g _ s _ f => { nm := [⟨32 * g.toNat, 32, 1⟩, mmaScale f.toNat s.toNat], ac := [(n.toNat, 3)] }
  | .mwld _ v _ c => { sr := [v.toNat, 2 * c.toNat, 2 * c.toNat + 1] }
  | .mzero _ n x => { ac := [(n.toNat, x.toNat + 1)] }
  | .mrd _ n d x => { vr := [v1 x.toNat], vw := [v1 d.toNat], ac := [(n.toNat, 1)] }
  | .mwr _ n s x => { vr := [v1 s.toNat, v1 x.toNat], ac := [(n.toNat, 1)] }
  | .ppt _ m => { ac := [(0, 16 - leadingZeros 16 m.toNat)] }
  | .launch _ d a => { sr := [a.toNat], sw := [d.toNat] }
  | .tbar _ a => { sr := [a.toNat] }
  | .gbar _ a => { sr := [a.toNat] }
  | .evsig _ d a b => { sr := [a.toNat, b.toNat], sw := [d.toNat] }
  | .evwait _ a b => { sr := [a.toNat, b.toNat] }
  | .coll _ d a => { sr := [a.toNat], sw := [d.toNat] }
  | .cwait _ d a => { sr := [a.toNat], sw := [d.toNat] }
  | .grpf _ d a => { sr := [a.toNat], sw := [d.toNat] }
  | .fstat _ d a => { sr := [a.toNat], sw := [d.toNat] }
  | .rte a => { sr := [a.toNat] }
  | .ssrd _ d _ b => { sr := [b.toNat], sw := [d.toNat] }
  | .sswr _ _ b => { sr := [b.toNat] }
  | .halt _ a => { sr := [a.toNat] }
  | .cntrd _ d a => { sr := [a.toNat], sw := [d.toNat] }
  | .dlogStat _ d a => { sr := [a.toNat], sw := [d.toNat] }
  | .dlogStart _ d a => { sr := [a.toNat], sw := [d.toNat] }
  | .dlogStop _ d a => { sr := [a.toNat], sw := [d.toNat] }
  | .dlogAck _ d a => { sr := [a.toNat], sw := [d.toNat] }
  | .dlogCons _ d a => { sr := [a.toNat], sw := [d.toNat] }
  | .frz _ d a => { sr := [a.toNat], sw := [d.toNat] }
  | .nop .. | .yield .. | .exit | .mode .. | .hold .. | .bra .. | .bemz .. | .bemf .. | .plog .. | .pflush .. | .fence .. | .ctinv .. | .mswap .. | .mrel .. | .trap .. | .bkpt .. => {}
  | .icacheFill .. | .packPromote .. | .loadLaneReturn .. | .storeWctReturn .. | .tileAccessRetire .. | .matrixOpRetire .. | .decodeUnitRetire .. | .pageFaultPark .. | .trapEntry .. | .haltBroadcastArrive .. | .pairSlave .. | .pairAbort .. | .mmaArrayStart .. | .mwldBufferWrite .. | .pptTimeout .. | .packSave .. | .packRetire .. | .evwaitReread .. | .cwaitReread .. | .granuleClearDone .. | .teamPlace .. | .gangPlace .. | .evict .. | .sliceExpire .. | .teamExit .. | .gridRetire .. | .completionRecordResend .. | .tailDoorbell .. | .queueEnable .. | .queueDisable .. | .registerWrite .. | .queuePollTimer .. | .launchRecordRead .. | .waitConditionRead .. | .homeLoad .. | .homeWrite .. | .homeWritePerform .. | .homeAtomic .. | .channelTranslate .. | .tableWalk .. | .privateWriteback .. | .eccRetry .. | .kvappAppend .. | .liftCommandStart .. | .liftCopy .. | .liftDecodeCopy .. | .liftEncodeStore .. | .liftAccumulatorLoad .. | .liftCommandComplete .. | .liftError .. | .liftSourcePark .. | .multicastHeldDelivery .. | .freeze .. | .collectiveWithdraw .. | .fullingComplete .. | .frzCompletion .. | .resume .. | .resumePlace .. | .flitCrcRetry .. | .linkLaneFail .. | .linkDown .. | .vlPause .. | .packetAccept .. | .packetRetransmit .. | .requestDeadline .. | .routeTableInstall .. | .routeTableSwitchover .. | .routeTableRetire .. | .multicastBranchSend .. | .switchWriteback .. | .skewMeasure .. | .collBarrier .. | .collBroadcast .. | .collAllreduce .. | .collReduceScatter .. | .collAllgather .. | .agreementReport .. | .collDeadline .. | .agreementFallback .. | .collStatusWrite .. | .rdmaWrite .. | .rdmaRead .. | .invalidRequestNak .. | .fqResolve .. | .fqDecline .. | .fqInvalidate .. | .fqKeyInvalidate .. | .fqScrub .. | .faultReportPost | .coldReset | .bootImageReceive .. | .hbmRecalibrate | .rowActivationAlert .. | .backoffEnd .. | .powerArbiterGrant .. | .thermalThrottle .. | .thermalRelease .. | .thermalTrip | .mgmtReadStatus | .mgmtReadCap | .mgmtWriteCap .. | .mgmtReadRowThreshold | .mgmtWriteRowThreshold .. | .mgmtWarmReset | .unassignedWord .. | .completionRecordNak .. | .connectionFailure .. | .modulePowerOff => {}

/-- The major opcode of a word (R55). -/
def majorOf (i : Instr) : Nat := (fld (encode i) 25 6).toNat

/-- The E bit of a word (R39): its run ends after it. -/
def endsRun (i : Instr) : Bool := bit (encode i) 31

/-- The words of majors 0x30 to 0x32 (R58). -/
def isMatrixWord (i : Instr) : Bool := majorOf i == 0x30 || majorOf i == 0x31 || majorOf i == 0x32

/-- The role kinds in which a word may issue (R58). -/
def roleOk (k : RoleKind) (i : Instr) : Bool :=
  !isMatrixWord i || k == .matrix ||
    (k == .epilogue && match i with
      | .mrd .. => true
      | _ => false)

/-- The privileged words: SSRD, SSWR, HALT, DLOG and FRZ (R58). -/
def isPrivileged (i : Instr) : Bool :=
  majorOf i == 0x3D || match i with
    | .ssrd .. | .sswr .. | .halt .. => true
    | _ => false

/-- A vector operand lies within the n registers of the role and starts where it must (R44). -/
def VRef.ok (n : Nat) (v : VRef) : Bool :=
  v.count == 0 || (v.base % v.align == 0 && decide (v.base + v.count ≤ n))

/-- No register-name violation (R44) with n vector registers and m accumulator tiles. -/
def namesOk (n m ty : Nat) (i : Instr) : Bool :=
  let u := uses ty i
  (u.vr ++ u.vw ++ u.nm).all (·.ok n) && u.ac.all fun a => decide (a.1 + a.2 ≤ m)

/-- JMP and RET whose target is not word-aligned (R50). -/
def badTarget (p : Pack) (i : Instr) : Bool :=
  match i with
  | .jmp a => (p.s a.toNat) &&& 3 != 0
  | .ret a => (p.s a.toNat) &&& 3 != 0
  | _ => false

/-- The checks of R59 that a decoded word can fail, in its order: 1, 5, 6, 8, 9. -/
def checkWord (t : Team) (p : Pack) (i : Instr) : Option FaultRec :=
  if p.runpos = 24 then some (illegal (encode i) 1)
  else if badTarget p i then some (illegal (encode i) 5)
  else if !namesOk (roleOf t p).vregs t.accs p.ty i then some (illegal (encode i) 6)
  else if !roleOk (roleOf t p).kind i then some (illegal (encode i) 8)
  else if isPrivileged i && !p.priv then some { precise cPRIV 0 with aux := dw (encode i).toNat }
  else none

/-- The largest value of a wait counter (R96). -/
def Counter.max : Counter → Nat
  | .ld => 63
  | .st => 63
  | .tl => 31
  | .mx => 7
  | .dc => 15

/-- The counter that a word counts in (R96). -/
def counterOf (i : Instr) : Option Counter :=
  match i with
  | .ld .. | .ldp .. | .lds .. | .ldaq .. | .atom .. | .atomf .. | .cas .. | .cas64 .. | .evsig .. => some .ld
  | .st .. | .stp .. | .sts .. | .strl .. | .atoms .. | .pflush .. => some .st
  | .tld .. | .tst .. | .tlds .. | .tfill .. => some .tl
  | .mma .. | .mwld .. | .mswap .. | .mzero .. | .mrd .. | .mwr .. => some .mx
  | .ctld .. | .bixq .. | .kvapp .. | .dech .. | .dec .. | .enc .. | .encf .. => some .dc
  | _ => none

/-- The words that see the flags of every earlier word, and wait for them: SRD of FFLAGS (R105). FFLAGS does not wait (R149). DEDUCED,
log 37. -/
def readsFlags (i : Instr) : Bool :=
  match i with
  | .srd _ _ c => c == 12
  | _ => false

/-- An outstanding operation that raises its flags with its result: a DEC (R93). -/
def Op.flagsDue (o : Op) : Bool :=
  match o.word with
  | .dec .. => true
  | _ => false

/-- A register that the word reads or writes has a pending write of a counted operation, or SRD reads FFLAGS before one has raised its
flags (R93, R95, R105). -/
def hazard (p : Pack) (i : Instr) : Bool :=
  let u := uses p.ty i
  let vs := ((u.vr ++ u.vw ++ u.nm).map VRef.regs).flatten
  let ss := u.sr ++ u.sw
  p.ops.any fun o => o.vdst.any vs.contains || o.sdst.any ss.contains || (readsFlags i && o.flagsDue)

/-- The words that wait while an acquire has not completed: majors 0x1E, 0x1F, 0x22 to 0x2D, 0x31, 0x34, 0x38 (R244). -/
def isOrdered (i : Instr) : Bool :=
  let m := majorOf i
  m == 0x1E || m == 0x1F || (decide (0x22 ≤ m) && decide (m ≤ 0x2D)) || m == 0x31 || m == 0x34 || m == 0x38

/-- The words that can take a page fault, which reserve an entry of the replay list (R220). -/
def takesReplay (i : Instr) : Bool :=
  let m := majorOf i
  (decide (0x22 ≤ m) && decide (m ≤ 0x24)) || (decide (0x26 ≤ m) && decide (m ≤ 0x29))
    || match i with
      | .launch .. | .evsig .. | .evwait .. | .coll .. | .cwait .. | .grpf .. | .bixq .. | .kvapp .. | .mwld .. | .frz .. => true
      | _ => false

/-- A lane of the operation has yet to pass translation (R220). -/
def Op.untranslated (o : Op) : Bool := o.addrs.any fun q => !o.away.contains q.1

/-- Entries of the replay list in use or reserved (R220): one for each word that is listed or not yet translated. -/
def Pack.replayUse (p : Pack) : Nat :=
  (nubNat (p.replay.map (·.op.id) ++ (p.ops.filter Op.untranslated).map (·.id))).length

/-- The word stalls in place (R95, R96, R220, R244). -/
def mustStall (p : Pack) (i : Instr) : Bool :=
  hazard p i || (isOrdered i && p.acquire.isSome)
    || (takesReplay i && decide (128 ≤ p.replayUse))
    || match counterOf i with
      | some c => decide (c.max ≤ p.counter c)
      | none => false

/-- The word's reads note a stale read, and its last-use sources are freed (R51-R53). -/
def Pack.consume (p : Pack) (i : Instr) : Pack :=
  let u := uses p.ty i
  (p.noteReads (u.vr.map VRef.regs).flatten).freeAll (u.fr.map VRef.regs).flatten

/-- Counter 6 counts the words issued (R370). -/
def State.countWord (s : State) : State := s.bumpCore s.tm.core 6

/-- The issue of word i: the checks of R59 (a defect raises its fault and has no effect, R40), the interlocks of R95, then
the word's meaning, which is given the state before the word and the same state with its sources consumed. -/
def issueWord (i : Instr) (s : State) (body : State → State → Res) : State :=
  match checkWord s.tm s.pk i with
  | some f => s.raise f
  | none =>
    if mustStall s.pk i then s.stall
    else
      match body s { s with pk := s.pk.consume i } with
      | .done t => t.countWord.finish (endsRun i)
      | .jump t pc => t.countWord.goto true pc
      | .own t => t.countWord
      | .stall => s.stall
      | .wait t => t.stall
      | .held t => t
      | .trap f => s.raise f

/-- A word whose effect is on the pack alone, given the pack before it and with its sources consumed. -/
def packWord (i : Instr) (s : State) (f : Pack → Pack → Pack) : State :=
  issueWord i s fun s t => .done { t with pk := f s.pk t.pk }

end Sys2Proof.Machine
end

