-- ==== Sys2Proof/Machine/Flags.lean ====
section
/-! DEFINITION. The sticky flags (R91), saturation (R7, R79), and the shape of a vector word: what it writes in the active
lanes and which flags those lanes raise (R8, R121). -/

namespace Sys2Proof.Machine

/-- IV of FFLAGS (R91). -/
def flagIV : BitVec 8 := 0x01
/-- DZ. -/
def flagDZ : BitVec 8 := 0x02
/-- OF. -/
def flagOF : BitVec 8 := 0x04
/-- UF. -/
def flagUF : BitVec 8 := 0x08
/-- NX. -/
def flagNX : BitVec 8 := 0x10
/-- LATOVF. -/
def flagLATOVF : BitVec 8 := 0x20
/-- SAT. -/
def flagSAT : BitVec 8 := 0x40
/-- MOVF. -/
def flagMOVF : BitVec 8 := 0x80

/-- A flag where c holds. -/
def flagIf (c : Bool) (f : BitVec 8) : BitVec 8 := if c then f else 0

/-- A value and the flags that computing it raises. -/
abbrev Flagged := Nat × BitVec 8

/-- sat(r, lo, hi) of R7: clamped to the range, raising SAT when it was outside. -/
def satInt (r lo hi : Int) : Int × BitVec 8 :=
  if r < lo then (lo, flagSAT) else if hi < r then (hi, flagSAT) else (r, 0)

/-- The smallest value of a w-bit type (R79). -/
def intMin (w : Nat) (sg : Bool) : Int := if sg then -(2 ^ (w - 1) : Nat) else 0
/-- The largest value of a w-bit type (R79). -/
def intMax (w : Nat) (sg : Bool) : Int := if sg then (2 ^ (w - 1) : Nat) - 1 else (2 ^ w : Nat) - 1

/-- The flags of the lanes of m, joined. -/
def flagsOver (m : DWord) (f : Nat → BitVec 8) : BitVec 8 := (lanesOf m).foldl (fun acc l => acc ||| f l) 0

/-- Lane l of v[r], or of the pair v[r], v[r+1] when wide (R43, R120). -/
def Pack.laneVal (p : Pack) (wide : Bool) (r l : Nat) : Nat := if wide then p.pair r l else (lane (p.v r) l).toNat

/-- The lanes of m of v[d], or of the pair, receive f (R8, R120). -/
def Pack.writeLanes (t : Pack) (wide : Bool) (m : DWord) (d : Nat) (f : Nat → Nat) : Pack :=
  let u := t.writeV m d (ofLanes fun l => BitVec.ofNat 32 (f l))
  if wide then u.writeV m (d + 1) (ofLanes fun l => BitVec.ofNat 32 (f l / 2 ^ 32)) else u

/-- A predicate or mask with the lanes of m replaced by those of new. -/
def mergeMask (m new old : DWord) : DWord := (new &&& m) ||| (old &&& ~~~m)

/-- A vector word: each active lane of its destination receives f, and the flags of the active lanes are raised. -/
def vecWord (i : Instr) (wide : Pack → Bool) (d : Nat) (s : State) (f : Pack → Nat → Flagged) : Result :=
  .next (packWord i s fun p t =>
    (t.writeLanes (wide p) p.active d fun l => (f p l).1).raiseFlags (flagsOver p.active fun l => (f p l).2))

/-- A vector word whose one destination register receives f, without flags. -/
def vecWord32 (i : Instr) (d : Nat) (s : State) (f : Pack → Nat → Nat) : Result :=
  vecWord i (fun _ => false) d s fun p l => (f p l, 0)

/-- The results of elements i, i + 1, … of n elements of w bits, lowest first, with their flags joined. -/
def joinElems (f : Nat → Flagged) (w i : Nat) : Nat → Flagged
  | 0 => (0, 0)
  | n + 1 => ((f i).1 + 2 ^ w * (joinElems f w (i + 1) n).1, (f i).2 ||| (joinElems f w (i + 1) n).2)

end Sys2Proof.Machine
end

