-- ==== Sys2Proof/Machine/Fp.lean ====
section
/-! DEFINITION. Floating-point formats and exact arithmetic (R67-R91): values as exact dyadic numbers, and one rounding for
every format and direction. -/

namespace Sys2Proof.Machine

/-- A floating-point layout (R70): explicit mantissa bits, exponent bits, bias, the largest finite magnitude code, and the
magnitude code that an overflow to the top gives (Inf; in E4M3 the NaN). fp8: every NaN is quiet and canonical (R71). -/
structure Fmt where
  mant : Nat
  exp  : Nat
  bias : Nat
  maxF : Nat
  top  : Nat
  cnan : Nat
  fp8  : Bool
deriving DecidableEq, Repr

/-- FP32. -/
def fp32 : Fmt := ⟨23, 8, 127, 0x7F7FFFFF, 0x7F800000, 0x7FC00000, false⟩
/-- FP16. -/
def fp16 : Fmt := ⟨10, 5, 15, 0x7BFF, 0x7C00, 0x7E00, false⟩
/-- BF16. -/
def bf16 : Fmt := ⟨7, 8, 127, 0x7F7F, 0x7F80, 0x7FC0, false⟩
/-- E5M2. -/
def e5m2 : Fmt := ⟨2, 5, 15, 0x7B, 0x7C, 0x7E, true⟩
/-- E4M3. -/
def e4m3 : Fmt := ⟨3, 4, 7, 0x7E, 0x7F, 0x7F, true⟩

/-- The bits of a format without its sign. -/
def Fmt.magBits (f : Fmt) : Nat := f.exp + f.mant
/-- The sign bit of an encoding. -/
def Fmt.sign (f : Fmt) (c : Nat) : Bool := c.testBit f.magBits
/-- The magnitude field of an encoding. -/
def Fmt.mag (f : Fmt) (c : Nat) : Nat := c % 2 ^ f.magBits
/-- The sign as the sign bit. -/
def Fmt.signed (f : Fmt) (s : Bool) (mag : Nat) : Nat := (if s then 2 ^ f.magBits else 0) + mag
/-- The exponent of the last place of subnormals. -/
def Fmt.qmin (f : Fmt) : Int := 1 - (f.bias : Int) - f.mant
/-- NaN (R70): in E4M3 only the magnitude 0x7F. -/
def Fmt.isNaN (f : Fmt) (c : Nat) : Bool := if f.maxF + 1 = f.cnan then f.mag c == f.cnan else decide (f.top < f.mag c)
/-- ±Inf; E4M3 has none. -/
def Fmt.isInf (f : Fmt) (c : Nat) : Bool := if f.maxF + 1 = f.cnan then false else f.mag c == f.top
/-- A signalling NaN (R71). -/
def Fmt.isSNaN (f : Fmt) (c : Nat) : Bool := f.isNaN c && !f.fp8 && !c.testBit (f.mant - 1)
/-- A NaN with its quiet bit set (R137). -/
def Fmt.quiet (f : Fmt) (c : Nat) : Nat := c ||| 2 ^ (f.mant - 1)
/-- A subnormal encoding. -/
def Fmt.isSub (f : Fmt) (c : Nat) : Bool := f.mag c != 0 && f.mag c >>> f.mant == 0

/-- The number (−1)^neg × (m + δ) × 2^e, with 0 < δ < 1 when sticky and δ = 0 otherwise. -/
structure Num where
  neg    : Bool
  m      : Nat
  e      : Int
  sticky : Bool := false
deriving DecidableEq, Repr

/-- exact() of a finite encoding (R7, R70). -/
def Fmt.num (f : Fmt) (c : Nat) : Num :=
  let ex := f.mag c >>> f.mant
  let m := c % 2 ^ f.mant
  if ex = 0 then ⟨f.sign c, m, f.qmin, false⟩ else ⟨f.sign c, 2 ^ f.mant + m, f.qmin + (ex - 1), false⟩

/-- The rounding directions (R46). -/
def rmRNE : Nat := 0
/-- Toward zero. -/
def rmRTZ : Nat := 1
/-- Toward +Inf. -/
def rmRUP : Nat := 2
/-- Toward −Inf. -/
def rmRDN : Nat := 3
/-- To nearest, ties away from zero. -/
def rmRNA : Nat := 4

/-- Bits in the binary form of m. -/
def bitLen (m : Nat) : Nat := if m = 0 then 0 else Nat.log2 m + 1

/-- m ÷ 2^k rounded to an integer in direction rm, and whether that is inexact (R81). A sticky number needs k ≥ 2. -/
def roundShift (rm : Nat) (neg : Bool) (m k : Nat) (sticky : Bool) : Nat × Bool :=
  let q := m >>> k
  let r := m % 2 ^ k
  let inexact := r != 0 || sticky
  let half := 2 ^ k / 2
  let up :=
    if rm = rmRNE then k != 0 && (decide (half < r) || (r == half && (sticky || q % 2 == 1)))
    else if rm = rmRTZ then false
    else if rm = rmRUP then !neg && inexact
    else if rm = rmRDN then neg && inexact
    else k != 0 && decide (half ≤ r)
  (if up then q + 1 else q, inexact)

/-- m × 2^(−k) for k of either sign, rounded as roundShift. -/
def roundScale (rm : Nat) (neg : Bool) (m : Nat) (k : Int) (sticky : Bool) : Nat × Bool :=
  if k < 0 then (m <<< (-k).toNat, sticky) else roundShift rm neg m k.toNat sticky

/-- The magnitude that a result above the largest finite one takes, by destination and direction (R86). -/
def overflowMag (f : Fmt) (rm : Nat) (neg : Bool) : Nat :=
  if f.fp8 || rm = rmRNE || rm = rmRNA then f.top
  else if rm = rmRTZ then f.maxF
  else if rm = rmRUP then (if neg then f.maxF else f.top)
  else (if neg then f.top else f.maxF)

/-- A number far below every encoding, brought to just below a quarter of the smallest one: no rounding differs. -/
def Num.clamp (x : Num) (f : Fmt) : Num :=
  if x.e + bitLen x.m < f.qmin - 8 then { x with m := 1, e := f.qmin - 8, sticky := true } else x

/-- Rounding of a non-zero number to format f (R81, R86): tiny is judged after rounding with the exponent range unbounded;
flush: a tiny result becomes zero with UF and NX (R84). -/
def roundNum (f : Fmt) (rm : Nat) (flush : Bool) (x0 : Num) : Flagged :=
  let x := x0.clamp f
  let p := f.mant + 1
  let len := bitLen x.m
  let top : Int := x.e + len                -- the value lies below 2^top and not below 2^(top − 1)
  -- step 1 with unbounded exponent
  let ku : Int := len - p
  let u := roundScale rm x.neg x.m ku x.sticky
  let utop : Int := if u.1 = 2 ^ p then top + 1 else top
  let tiny : Bool := decide (utop < f.qmin + p)
  if tiny && flush then (f.signed x.neg 0, flagUF ||| flagNX)
  else
    let q : Int := max (top - p) f.qmin
    let r := roundScale rm x.neg x.m (q - x.e) x.sticky
    let mag := (q - f.qmin).toNat * 2 ^ f.mant + r.1
    if f.maxF < mag then (f.signed x.neg (overflowMag f rm x.neg), flagOF ||| flagNX)
    else (f.signed x.neg mag, flagIf r.2 flagNX ||| flagIf (tiny && r.2) flagUF)

/-- Rounding of a number, zero included: a zero keeps its sign. -/
def roundTo (f : Fmt) (rm : Nat) (flush : Bool) (x : Num) : Flagged :=
  if x.m = 0 && !x.sticky then (f.signed x.neg 0, 0) else roundNum f rm flush x

/-- The exact sum; an exact zero of opposite signs is −0 under RDN and +0 otherwise (R138). Neither is sticky. -/
def addNum (rm : Nat) (x y : Num) : Num :=
  let e := min x.e y.e
  let a := x.m <<< (x.e - e).toNat
  let b := y.m <<< (y.e - e).toNat
  if x.neg = y.neg then ⟨x.neg, a + b, e, false⟩
  else if b < a then ⟨x.neg, a - b, e, false⟩
  else if a < b then ⟨y.neg, b - a, e, false⟩
  else ⟨rm == rmRDN, 0, e, false⟩

/-- The exact product. -/
def mulNum (x y : Num) : Num := ⟨x.neg != y.neg, x.m * y.m, x.e + y.e, false⟩

/-- The quotient by a non-zero number, with at least 39 bits and a sticky rest. -/
def divNum (x y : Num) : Num :=
  let n := x.m <<< 64
  ⟨x.neg != y.neg, n / y.m, x.e - y.e - 64, n % y.m != 0⟩

/-- ⌊√n⌋ below 2^k, bit by bit. -/
def isqrtFrom (n acc : Nat) : Nat → Nat
  | 0 => acc
  | k + 1 => if (acc + 2 ^ k) * (acc + 2 ^ k) ≤ n then isqrtFrom n (acc + 2 ^ k) k else isqrtFrom n acc k

/-- ⌊√n⌋. -/
def isqrt (n : Nat) : Nat := isqrtFrom n 0 (bitLen n / 2 + 1)

/-- A positive number with an even exponent. -/
def Num.even (x : Num) : Num := if x.e % 2 = 0 then x else { x with m := 2 * x.m, e := x.e - 1 }

/-- √x of a positive number. -/
def sqrtNum (x : Num) : Num :=
  let y := x.even
  let n := y.m <<< 64
  let r := isqrt n
  ⟨false, r, y.e / 2 - 32, r * r != n⟩

/-- 1 ÷ √x of a positive number. -/
def rsqrtNum (x : Num) : Num :=
  let y := x.even
  let r := isqrt (2 ^ 128 / y.m)
  ⟨false, r, -(y.e / 2) - 64, r * r * y.m != 2 ^ 128⟩

/-- −1, 0 or 1 as x is below, equal to or above y; +0 and −0 are equal. -/
def cmpNum (x y : Num) : Int :=
  let e := min x.e y.e
  let a : Int := (x.m <<< (x.e - e).toNat : Nat)
  let b : Int := (y.m <<< (y.e - e).toNat : Nat)
  let u := if x.neg then -a else a
  let v := if y.neg then -b else b
  if u < v then -1 else if v < u then 1 else 0

/-! ## Operations on encodings (R137-R146) -/

/-- A subnormal input becomes zero of its sign under flushing (R84). -/
def Fmt.flushIn (f : Fmt) (flush : Bool) (c : Nat) : Nat := if flush && f.isSub c then f.signed (f.sign c) 0 else c

/-- IV with the canonical NaN (R137). -/
def invalid (f : Fmt) : Flagged := (f.cnan, flagIV)

/-- The first NaN of the operands, quieted, with IV when any is signalling; k when none is NaN (R137). -/
def withNaN (f : Fmt) (ops : List Nat) (k : Flagged) : Flagged :=
  match ops.find? f.isNaN with
  | some c => (f.quiet c, flagIf (ops.any f.isSNaN) flagIV)
  | none => k

/-- x + y, or x − y, with one rounding (R140). -/
def fpAdd (f : Fmt) (rm : Nat) (fl sub : Bool) (a b : Nat) : Flagged :=
  withNaN f [a, b]
    (let x := f.flushIn fl a
     let y := f.flushIn fl b
     let sy := f.sign y != sub
     if f.isInf x then (if f.isInf y && f.sign x != sy then invalid f else (x, 0))
     else if f.isInf y then (f.signed sy f.top, 0)
     else roundTo f rm fl (addNum rm (f.num x) { f.num y with neg := sy }))

/-- x × y (R140). -/
def fpMul (f : Fmt) (rm : Nat) (fl : Bool) (a b : Nat) : Flagged :=
  withNaN f [a, b]
    (let x := f.flushIn fl a
     let y := f.flushIn fl b
     let s := f.sign x != f.sign y
     if f.isInf x || f.isInf y then
       (if f.mag x = 0 || f.mag y = 0 then invalid f else (f.signed s f.top, 0))
     else roundTo f rm fl (mulNum (f.num x) (f.num y)))

/-- x ÷ y (R144). -/
def fpDiv (f : Fmt) (rm : Nat) (fl : Bool) (a b : Nat) : Flagged :=
  withNaN f [a, b]
    (let x := f.flushIn fl a
     let y := f.flushIn fl b
     let s := f.sign x != f.sign y
     if f.isInf x then (if f.isInf y then invalid f else (f.signed s f.top, 0))
     else if f.isInf y then (f.signed s 0, 0)
     else if f.mag y = 0 then (if f.mag x = 0 then invalid f else (f.signed s f.top, flagDZ))
     else if f.mag x = 0 then (f.signed s 0, 0)
     else roundTo f rm fl (divNum (f.num x) (f.num y)))

/-- sp·x·y + sz·z with one rounding; np, nz: the sign of the product and of the addend is inverted (R146). -/
def fpFma (f : Fmt) (rm : Nat) (fl np nz : Bool) (a b c : Nat) : Flagged :=
  withNaN f [a, b, c]
    (let x := f.flushIn fl a
     let y := f.flushIn fl b
     let z := f.flushIn fl c
     let sp := (f.sign x != f.sign y) != np
     let sz := f.sign z != nz
     if f.isInf x || f.isInf y then
       (if f.mag x = 0 || f.mag y = 0 then invalid f
        else if f.isInf z && sz != sp then invalid f
        else (f.signed sp f.top, 0))
     else if f.isInf z then (f.signed sz f.top, 0)
     else roundTo f rm fl (addNum rm { mulNum (f.num x) (f.num y) with neg := sp } { f.num z with neg := sz }))

/-- The order of FMIN and FMAX: x below y, −0 below +0 (R141). -/
def fpBelow (f : Fmt) (x y : Nat) : Bool :=
  if f.mag x = 0 && f.mag y = 0 then f.sign x && !f.sign y
  else if f.sign x != f.sign y then f.sign x
  else if f.sign x then decide (f.mag y < f.mag x)
  else decide (f.mag x < f.mag y)

/-- FMIN, or FMAX with big (R141). -/
def fpMinMax (f : Fmt) (fl big : Bool) (a b : Nat) : Flagged :=
  let iv := flagIf (f.isSNaN a || f.isSNaN b) flagIV
  let x := f.flushIn fl a
  let y := f.flushIn fl b
  if f.isNaN a then (if f.isNaN b then f.cnan else y, iv)
  else if f.isNaN b then (x, iv)
  else (if fpBelow f x y == big then y else x, 0)

/-- FRINT (R142): an integral value of the same format; its one flag is IV. -/
def fpRint (f : Fmt) (rm : Nat) (fl : Bool) (a : Nat) : Flagged :=
  withNaN f [a]
    (let x := f.flushIn fl a
     let n := f.num x
     if f.isInf x || decide (0 ≤ n.e) then (x, 0)
     else
       let r := roundScale rm n.neg n.m (-n.e) false
       ((roundTo f rm false ⟨n.neg, r.1, 0, false⟩).1, 0))

/-- The class bit of FCLASS (R143). -/
def fpClass (f : Fmt) (c : Nat) : Nat :=
  let s := f.sign c
  if f.isNaN c then (if f.isSNaN c then 8 else 9)
  else if f.isInf c then (if s then 0 else 7)
  else if f.mag c = 0 then (if s then 3 else 4)
  else if f.isSub c then (if s then 2 else 5)
  else if s then 1 else 6

/-- The relation of FCMP and its IV (R145). -/
def fpCmp (f : Fmt) (fl : Bool) (c : Nat) (a b : Nat) : Bool × BitVec 8 :=
  let un := f.isNaN a || f.isNaN b
  let sn := f.isSNaN a || f.isSNaN b
  let iv := flagIf (sn || (un && decide (2 ≤ c) && decide (c ≤ 5))) flagIV
  if c = 6 then (un, iv)
  else if c = 7 then (!un, iv)
  else if un then (c == 1, iv)
  else
    let x := f.flushIn fl a
    let y := f.flushIn fl b
    -- infinities order as the magnitude codes do
    let key := fun z : Nat => if f.sign z then -(f.mag z : Int) else (f.mag z : Int)
    ((match c with
      | 0 => decide (key x = key y)
      | 1 => decide (key x ≠ key y)
      | 2 => decide (key x < key y)
      | 3 => decide (key x ≤ key y)
      | 4 => decide (key y < key x)
      | _ => decide (key y ≤ key x)), iv)

/-! ## Conversions between formats (R72, R85-R89) -/

/-- A NaN of format f in format g (R72). -/
def nanTo (f g : Fmt) (c : Nat) : Nat :=
  let s := f.sign c
  if g.fp8 then g.signed s g.cnan
  else if f.fp8 then g.signed s g.cnan
  else
    let m := c % 2 ^ f.mant
    let k := if f.mant ≤ g.mant then m <<< (g.mant - f.mant) else m >>> (f.mant - g.mant)
    g.signed s (g.top ||| k ||| 2 ^ (g.mant - 1))

/-- Conversion of a float to a float: never flushed (R85); special inputs as R72, R87. -/
def fpConv (f g : Fmt) (rm : Nat) (c : Nat) : Flagged :=
  if f.isNaN c then (nanTo f g c, flagIf (f.isSNaN c) flagIV)
  else if f.isInf c then (g.signed (f.sign c) g.top, flagIf (g.maxF + 1 = g.cnan) flagIV)
  else roundTo g rm false (f.num c)

/-- Widening to FP32, exact (R85); the flag is IV for a signalling NaN (R72). -/
def widen (f : Fmt) (c : Nat) : Flagged := fpConv f fp32 rmRNE c

/-- An integer in a float format (R155). -/
def intToFp (g : Fmt) (rm : Nat) (v : Int) : Flagged := roundTo g rm false ⟨decide (v < 0), v.natAbs, 0, false⟩

/-- A float in an integer type of w bits (R82, R155): the value, IV outside the range and for NaN, NX when it changed. -/
def fpToInt (f : Fmt) (rm w : Nat) (sg : Bool) (c : Nat) : Int × BitVec 8 :=
  let lo := intMin w sg
  let hi := intMax w sg
  if f.isNaN c then (0, flagIV)
  else if f.isInf c then (if f.sign c then lo else hi, flagIV)
  else
    let n := f.num c
    let r := roundScale rm n.neg n.m (-n.e) false
    let v : Int := if n.neg then -(r.1 : Int) else r.1
    if v < lo then (lo, flagIV) else if hi < v then (hi, flagIV) else (v, flagIf r.2 flagNX)

/-! ## E2M1X, scales and codebooks (R73-R78, R89) -/

/-- Twice the value of an ordinary E2M1X code (R74). -/
def e2m1Twice (q : Nat) : Int :=
  let m : Int := match q % 8 with
    | 0 => 0 | 1 => 1 | 2 => 2 | 3 => 3 | 4 => 4 | 5 => 6 | 6 => 8 | _ => 12
  if q % 16 < 8 then m else -m

/-- exact() of an E2M1X code with the group's X byte, as a number; none for NaN (R74, R75). -/
def e2m1Num (q x : Nat) : Option Num :=
  if q % 16 = 8 then (if e4m3.isNaN x then none else some (e4m3.num x))
  else some ⟨decide (e2m1Twice q < 0), (e2m1Twice q).natAbs, -1, false⟩

/-- A finite number in units of 2^-149. -/
def Num.units (x : Num) : Int :=
  let a : Int := (x.m <<< (x.e + 149).toNat : Nat)
  if x.neg then -a else a

/-- The members of cand (R76): code and value in units of 2^-149, ordinary codes first. -/
def e2m1Cands (x : Nat) : List (Nat × Int) :=
  let ord := ((List.range 16).filter fun q => q != 8).map fun q => (q, e2m1Twice q * (2 ^ 148 : Nat))
  if e4m3.isNaN x then ord else ord ++ [(8, (e4m3.num x).units)]

/-- The member of a list nearest to v: a tie goes to the larger magnitude, equal magnitudes to the first (R76). -/
def nearestCode (v : Int) (best : Nat × Int) : List (Nat × Int) → Nat × Int
  | [] => best
  | c :: cs =>
    let d := (v - c.2).natAbs
    let b := (v - best.2).natAbs
    nearestCode v (if d < b || (d == b && decide (best.2.natAbs < c.2.natAbs)) then c else best) cs

/-- Quantising the value v, in units of 2^-(149 + k), to E2M1X under the X byte x (R76). -/
def quantE2m1At (v : Int) (k x : Nat) : Flagged :=
  let cand := (e2m1Cands x).map fun (c : Nat × Int) => (c.1, c.2 * (2 ^ k : Nat))
  let y := nearestCode v (0, 0) cand
  let out := cand.all (fun e => decide (e.2 < v)) || cand.all (fun e => decide (v < e.2))
  (y.1, flagIf out flagSAT ||| flagIf (y.2 != v) flagNX
    ||| flagIf (decide (v ≠ 0) && decide (v.natAbs < 2 ^ (149 + k)) && y.2 != v) flagUF)

/-- Quantising an FP32 encoding to E2M1X under the X byte x (R76). An infinite input counts as a value beyond every
member. -/
def quantE2m1 (c x : Nat) : Flagged :=
  if fp32.isNaN c then (0, flagIV)
  else
    quantE2m1At (if fp32.isInf c then (if fp32.sign c then -(2 ^ 400 : Nat) else (2 ^ 400 : Nat)) else (fp32.num c).units) 0 x

/-- A number times 2^k. -/
def Num.scale (x : Num) (k : Int) : Num := { x with e := x.e + k }

/-- Scaled decode of a finite number under E8M0 scale e to FP32 (R89). -/
def decodeScaled (x : Num) (e : Nat) : Flagged :=
  if e = 0xFF then (fp32.cnan, 0) else roundTo fp32 rmRNE false (x.scale ((e : Int) - 127))

/-- Decode of a stored element to FP32 (R85, R89): format code, element code, E8M0 scale, X byte. CB4 and LAT8 have their
own decoders. -/
def decodeElem (fmt q e x : Nat) : Flagged :=
  match fmt with
  | 1 => if e = 0xFF then (fp32.cnan, 0) else if e4m3.isNaN q then (nanTo e4m3 fp32 q, 0) else decodeScaled (e4m3.num q) e
  | 2 =>
    if e = 0xFF then (fp32.cnan, 0)
    else if e5m2.isNaN q then (nanTo e5m2 fp32 q, 0)
    else if e5m2.isInf q then (fp32.signed (e5m2.sign q) fp32.top, 0)
    else decodeScaled (e5m2.num q) e
  | 3 =>
    if e = 0xFF then (fp32.cnan, 0)
    else match e2m1Num q x with
      | none => (fp32.signed (e4m3.sign x) fp32.cnan, 0)
      | some n => decodeScaled n e
  | 5 => decodeScaled ⟨decide (signed q 8 < 0), (signed q 8).natAbs, 0, false⟩ e
  | 6 => ((widen bf16 q).1, 0)
  | 7 => ((widen fp16 q).1, 0)
  | _ => (q, 0)

/-- A CB4 element (R77): codebook entry (FP16) and group scale m (BF16), both finite. -/
def decodeCB4 (entry m : Nat) : Flagged := roundTo fp32 rmRNE false (mulNum (fp16.num entry) (bf16.num m))


end Sys2Proof.Machine
end

