-- ==== Sys2Proof/Machine/Trans.lean ====
section
/-! DEFINITION. Translation (R212-R218), lines at their home and in the L1 (R208-R211, R225, R237), the D bit and the dirty
log (R215, R399), and reads and writes of virtual memory in one place. -/

namespace Sys2Proof.Machine

/-! ## Page tables -/

/-- The VA bits that index level k, lowest bit and width (R212). -/
def levelIndex (k va : Nat) : Nat :=
  match k with
  | 0 => bitsAt va 34 11
  | 1 => bitsAt va 25 9
  | 2 => bitsAt va 21 4
  | _ => bitsAt va 16 5

/-- log2 of the page size of a leaf at level k (R212). -/
def levelShift (k : Nat) : Nat := if k = 1 then 25 else if k = 2 then 21 else 16

/-- A leaf entry of level k that is not malformed (R213, R214). -/
def leafOf (s : State) (ctx k va e pte : Nat) : Option Xlate :=
  let sh := levelShift k
  let pw := e.testBit 63
  let fs := e.testBit 62
  let peer := bitsAt e 45 17
  let frame := bitsAt e 16 29 * 2 ^ 16
  let r := e.testBit 8
  let w := e.testBit 9
  if k = 0 || bitsAt e 2 6 != 0 || frame % 2 ^ sh != 0 || (w && !r) || (fs && !pw) || (!pw && peer != 0)
      || (!pw && decide (s.capacity < frame + 2 ^ sh)) then none
  else some { ctx := ctx, base := va / 2 ^ sh * 2 ^ sh, size := 2 ^ sh,
              perm := { r := r, w := w, x := e.testBit 10, lc := bitsAt e 14 2, au := e.testBit 13 },
              pw := pw, fs := fs, peer := peer, frame := frame, acc := e.testBit 11, dirty := e.testBit 12, pte := pte }

/-- The bytes (offset in the line, byte) cover the whole line. -/
def wholeLine (bs : List (Nat × Byte)) : Bool := (List.range 128).all fun i => bs.any fun e => e.1 == i

/-- The mark of a line after a write of it (R369): a write of all its bytes removes it, the write-back of a poisoned private
line sets it. -/
def PendWrite.mark (old : Bool) (w : PendWrite) : Bool := w.poison || (old && !wholeLine w.bytes)

/-- The line with every pending write whose WCT is at most now performed (R237). -/
def HomeLine.settle (h : HomeLine) (now : Nat) : HomeLine :=
  let ready := h.pend.filter fun w => decide (w.wct ≤ now)
  { h with
    data := ready.foldl (fun d w => setLineBytes d w.bytes) h.data
    pend := h.pend.filter fun w => decide (now < w.wct)
    dirty := h.dirty || !ready.isEmpty
    poison := ready.foldl PendWrite.mark h.poison }

/-- The L2 lines that hold newer bytes of a physical line than memory does. -/
def State.newerLine (s : State) (phys : Nat) : Option HomeLine :=
  s.l2.find? fun h => h.phys == phys && (h.settle s.gtc).dirty

/-- A page-table entry, read through the L2 (R218): where a line there holds newer bytes than memory, those (log 23). -/
def State.tableEntry (s : State) (pte : Nat) : Nat :=
  match s.newerLine (pte / 128 * 128) with
  | some h => lineNat (h.settle s.gtc).data (pte % 128) 8
  | none => memNat s.hbm pte 8

/-! ## Row activation (R440) -/

/-- Ticks of a back-off. -/
def backoffTicks : Nat := 350

/-- The count of a row's activations. -/
def State.rowCount (s : State) (row : Nat × Nat) : Nat := (s.acts.filter fun a => Config.dramRow a == row).length

/-- A back-off of the bank begins at a tick, which counter 14 counts. -/
def State.beginBackoff (s : State) (bank at_ : Nat) : State :=
  ({ s with backoff := s.backoff ++ [(bank, at_ + backoffTicks)] } : State).bump 14

/-- A bank whose back-off has ended leaves it; one that reached its threshold again begins a second one when the first ends. -/
def State.endBackoff (s : State) (bank : Nat) : State :=
  match s.backoff.find? fun b => b.1 == bank with
  | none => s
  | some b =>
    if s.gtc < b.2 then s
    else
      let s : State := { s with backoff := s.backoff.filter fun b => b.1 != bank }
      if s.again.contains bank then ({ s with again := s.again.filter (· != bank) } : State).beginBackoff bank b.2 else s

/-- Every back-off that has ended by now, and the second ones that have ended too, are over. -/
def State.endBackoffs (s : State) : State := (s.backoff ++ s.backoff).foldl (fun s b => s.endBackoff b.1) s

/-- A request for a bank waits for its back-off, and for a second one that follows it. -/
def State.awaitBank (s : State) (bank : Nat) : State :=
  (List.range 2).foldl (fun (s : State) _ => match s.backoff.find? fun b => b.1 == bank with
    | none => s
    | some b => (s.waitUntil b.2).endBackoff bank) s

/-- An access to the physical line at phys opens its row: it waits for the bank's back-off, and is counted; a count at the threshold,
or above one that was lowered, raises the controller's alert (log 61: which accesses open a row). -/
def State.activate (s : State) (phys : Nat) : State :=
  let row := Config.dramRow (phys / 128)
  let s := s.awaitBank row.1
  let s := { s with acts := s.acts ++ [phys / 128] }
  if s.acts.length < s.rowThreshold || s.agenda.contains (.rowActivationAlert row.1) then s
  else if s.rowThreshold ≤ s.rowCount row then s.push [.rowActivationAlert row.1] else s

/-! ## The walk and the channel's TLB -/

/-- The walk from the table at physical address tbl of level k, n levels to go; none for V = 0 or a malformed entry. The index
is added to the table's address as it stands, aligned or not (log 23). -/
def walkFrom (s : State) (ctx va : Nat) : Nat → Nat → Nat → Option Xlate
  | 0, _, _ => none
  | n + 1, k, tbl =>
    let pte := tbl + 8 * levelIndex k va
    let e := s.tableEntry pte
    if !e.testBit 0 then none
    else if e.testBit 1 then leafOf s ctx k va e pte
    else if k = 3 || bitsAt e 45 19 != 0 || bitsAt e 2 5 != 0 then none
    else walkFrom s ctx va n (k + 1) (bitsAt e 7 38 * 2 ^ 7)

/-- The table walk of a virtual address (R212). -/
def State.walk (s : State) (ctx va : Nat) : Option Xlate :=
  walkFrom s ctx va 4 0 (bitsOf (s.ctx ctx).ptbase 44 14 * 2 ^ 14)

/-- The entries that a walk reads, by address. -/
def walkReads (s : State) (va : Nat) : Nat → Nat → Nat → List Nat
  | 0, _, _ => []
  | n + 1, k, tbl =>
    let pte := tbl + 8 * levelIndex k va
    let e := s.tableEntry pte
    if !e.testBit 0 || e.testBit 1 || k = 3 || bitsAt e 45 19 != 0 || bitsAt e 2 5 != 0 then [pte]
    else pte :: walkReads s va n (k + 1) (bitsAt e 7 38 * 2 ^ 7)

/-- A walk opens the rows of the entries that no home holds (R440). -/
def State.walkRows (s : State) (ctx va : Nat) : State :=
  let ptes := walkReads s va 4 0 (bitsOf (s.ctx ctx).ptbase 44 14 * 2 ^ 14)
  (ptes.filter fun p => !s.l2.any fun h => h.phys == p / 128 * 128).foldl State.activate s

/-- A translation covers va in context ctx. -/
def Xlate.covers (x : Xlate) (ctx va : Nat) : Bool := x.ctx == ctx && decide (x.base ≤ va) && decide (va < x.base + x.size)

/-- Bit b of the page-table entry at pte set to 1, in memory and in what the L2 holds of its line. -/
def State.setPteBit (s : State) (pte b : Nat) : State :=
  let bytes := toBytes (s.tableEntry pte ||| 2 ^ b) 8
  { s with
    hbm := memWrite s.hbm pte bytes
    l2 := replaceAll (fun (h : HomeLine) => h.phys == pte / 128 * 128)
      (fun h =>
        let h := h.settle s.gtc
        { h with data := setLineBytes h.data (bytes.zipIdx.map fun e => (pte % 128 + e.2, e.1)) }) s.l2 }

/-- The base die whose channel translation unit serves a line: that of its home slice (R16, R208). -/
def dieOf (line : Nat) : Nat := (Config.homeSlice line).toNat / 16

/-- Entries of a base die's TLB (R218). -/
def tlbEntries : Nat := 24576

/-- Lines of an L2 slice of 7 MiB, of a core's L1 of 1,024 KiB and of its instruction cache of 128 KiB (R16, R20). -/
def sliceLines : Nat := 57344
def l1Lines : Nat := 8192
def icacheLines : Nat := 1024

/-- One of a list: which, is a free value. -/
def State.pickFree (s : State) (l : List α) : Option α × State :=
  let f := s.takeFree
  (l[f.1.toNat % l.length]?, f.2)

/-- Room for one entry more in a die's TLB: full, it gives up one, which is free (log 60). -/
def State.tlbRoom (s : State) (die : Nat) : State :=
  if s.tlb.length < tlbEntries then s
  else
    let mine := s.tlb.filter fun x => x.die == die
    if mine.length < tlbEntries then s
    else match s.pickFree mine with
      | (some x, s) => { s with tlb := s.tlb.filter (· != x) }
      | (none, s) => s

/-- Translate va at its channel: an entry of that die's TLB, or the walk, which fills one (R218); A is set where it is 0
(R215). -/
def State.translate (s : State) (ctx va : Nat) : Option Xlate × State :=
  let here := fun (x : Xlate) => x.covers ctx va && x.die == dieOf (va / 128)
  match s.tlb.find? here with
  | some x =>
    if x.acc then (some x, s)
    else (some { x with acc := true }, { s.setPteBit x.pte 11 with tlb := replaceFirst here (fun t => { t with acc := true }) s.tlb })
  | none =>
    match s.walk ctx va with
    | none => (none, s.walkRows ctx va)
    | some x =>
      let s := s.walkRows ctx va
      let y := { x with acc := true, die := dieOf (va / 128) }
      let s := (if x.acc then s else s.setPteBit x.pte 11).tlbRoom y.die
      (some y, { s with tlb := s.tlb ++ [y] })

/-- The physical address of va on a page of this device. -/
def Xlate.phys (x : Xlate) (va : Nat) : Nat := x.frame + (va - x.base)

/-! ## The dirty log -/

/-- Entries of the dirty-log ring (R399). -/
def Ctx.dlogEntries (c : Ctx) : Nat := 2 ^ c.dlogSize / 8

/-- Record a page whose D went from 0 to 1 (R399): the entry is written at the address it has, populated or not (log 31). -/
def State.logDirty (s : State) (x : Xlate) : State :=
  let c := s.ctx x.ctx
  if !c.dlogEn || c.dlogOvf then s
  else if (c.dlogP - c.dlogC).toNat = c.dlogEntries then s.onCtx x.ctx fun c => { c with dlogOvf := true }
  else
    let sz := if x.size = 2 ^ 25 then 2 else if x.size = 2 ^ 21 then 1 else 0
    let entry := bitsAt x.base 16 29 * 2 ^ 16 + sz * 4 + 1
    let s := { s with hbm := memWrite s.hbm (c.dlogRing + 8 * (c.dlogP.toNat % c.dlogEntries)) (toBytes entry 8) }
    s.onCtx x.ctx fun c => { c with dlogP := c.dlogP + 1 }

/-- The channel sets D of a page where it is 0, and logs the page (R215, R399). -/
def State.setDirty (s : State) (x : Xlate) : State :=
  if x.dirty then s
  else
    let s := s.setPteBit x.pte 12
    let s := { s with tlb := replaceAll (fun t => t.ctx == x.ctx && t.base == x.base) (fun t => { t with dirty := true }) s.tlb }
    s.logDirty x

/-- D of the page of va in context ctx is set, at the channel (R215). -/
def State.dirtyPage (s : State) (ctx va : Nat) : State :=
  match s.translate ctx va with
  | (some x, s) => s.setDirty x
  | (none, s) => s

/-! ## Lines at their home -/

/-- The value at the end of the coherence order, pending writes included (R248). -/
def HomeLine.latest (h : HomeLine) : Line := h.pend.foldl (fun d w => setLineBytes d w.bytes) h.data

/-- Where a line's accesses are performed (R208, R216, R246). -/
inductive LineRef where
  | home (h : HomeLine)
  /-- an AU page: at the channel, at this physical line -/
  | channel (x : Xlate) (phys : Nat)
  /-- a peer window (R412) -/
  | window (x : Xlate)
  /-- the walk met V = 0 or a malformed entry (R219 check 4) -/
  | absent

/-- Find a line: at its home, where a miss fills it through the channel with a copy of the page's bits (R208). Leases and writes
of its last stay there still bind (R237). -/
def State.findLine (s : State) (ctx line : Nat) : LineRef × State :=
  match s.l2.find? fun h => h.ctx == ctx && h.line == line with
  | some h => (.home (h.settle s.gtc), s)
  | none =>
    match s.translate ctx (128 * line) with
    | (none, s) => (.absent, s)
    | (some x, s) =>
      if x.pw then (.window x, s)
      else
        let phys := x.phys (128 * line)
        let s := s.activate phys
        if x.perm.au then (.channel x phys, s)
        else
          let old := (s.leases.find? fun e => e.1 == ctx && e.2.1 == line).map (·.2.2)
          (.home { ctx := ctx, line := line, data := memLine s.hbm phys, perm := x.perm, phys := phys,
                   dcopy := x.dirty, poison := s.poison.contains phys,
                   leaseEnd := (old.map (·.1)).getD 0, lastWct := (old.map (·.2)).getD 0 }, s)

/-- The entry in force for va, if it is a valid leaf that names the frame of phys. -/
def State.sameFrame (s : State) (ctx va phys : Nat) : Option Xlate :=
  ((s.tlb.find? fun x => x.covers ctx va).orElse fun _ => s.walk ctx va).filter fun x => !x.pw && x.phys va == phys

/-- A line h of the L2 as it stands after its page's entry may have changed in it. -/
def State.refreshed (s : State) (h : HomeLine) : HomeLine :=
  match s.l2.find? fun k => k.ctx == h.ctx && k.line == h.line with
  | some k => { h with data := (k.settle s.gtc).data }
  | none => { h with data := memLine s.hbm h.phys }

/-- Give a line back to memory: pending writes performed at their WCTs, a dirty line written back (R217) through the channel, which
translates for it (R208, R215), to the frame that it was filled from (log 70). A lease that has not ended is kept for the line's next
stay. -/
def State.writeBack (s : State) (h : HomeLine) : State :=
  let s := h.pend.foldl (fun s w => s.waitUntil w.wct) s
  let h := h.settle s.gtc
  let seen := h.dirty && (s.sameFrame h.ctx (128 * h.line) h.phys).isSome
  let s := if seen then (s.translate h.ctx (128 * h.line)).2 else s
  let h := if seen then s.refreshed h else h
  let live := s.leases.filter fun e => decide (s.gtc < e.2.2.1) && !(e.1 == h.ctx && e.2.1 == h.line)
  let s := { s with
    l2 := s.l2.filter fun k => !(k.ctx == h.ctx && k.line == h.line)
    leases := if s.gtc < h.leaseEnd then live ++ [(h.ctx, h.line, h.leaseEnd, h.lastWct)] else live }
  if h.dirty then
    let s := s.activate h.phys
    { s with hbm := memWrite s.hbm h.phys (toBytes h.data.toNat 128),
             poison := if h.poison then (if s.poison.contains h.phys then s.poison else h.phys :: s.poison)
                       else s.poison.filter (· != h.phys) }
  else s

/-- Room for a line in its home slice: full, it gives up a line, which is free (R16, log 60). -/
def State.homeRoom (s : State) (ctx line : Nat) : State :=
  if s.l2.length < sliceLines then s
  else
    let slice := s.l2.filter fun k => Config.homeSlice k.line == Config.homeSlice line
    if slice.length < sliceLines || slice.any (fun k => k.ctx == ctx && k.line == line) then s
    else match s.pickFree slice with
      | (some k, s) => s.writeBack k
      | (none, s) => s

/-- The line at its home becomes h. -/
def State.putHome (s : State) (h : HomeLine) : State :=
  let s := s.homeRoom h.ctx h.line
  { s with l2 := upsert (fun k => k.ctx == h.ctx && k.line == h.line) h s.l2 }

/-- The home will report a write of a line once its WCT is reached (R339). -/
def State.noteWrite (s : State) (wct ctx line : Nat) : State := { s with reports := s.reports ++ [(wct, ctx, line)] }

/-- A write w reaches the home of a line (R237): its WCT, which stands in place of w's, and its place in coherence order. -/
def State.homeWrite (s : State) (h : HomeLine) (w : PendWrite) : Nat × State :=
  let first := !h.dcopy
  let s := if first then s.dirtyPage h.ctx (128 * h.line) else s
  let h := if first then s.refreshed h else h
  let wct := max s.gtc (max h.leaseEnd h.lastWct)
  let h := { h with dcopy := true, lastWct := wct, pend := h.pend ++ [{ w with wct := wct }] }
  (wct, (s.putHome h).noteWrite wct h.ctx h.line)

/-- A write of bytes (offset in the line, byte) reaches the home. -/
def State.homeStore (s : State) (h : HomeLine) (bytes : List (Nat × Byte)) (lift : Bool) (who : Option PackId) : Nat × State :=
  s.homeWrite h { wct := 0, bytes := bytes, lift := lift, by_ := who }

/-- Write bytes (offset in the 128-byte line at phys, byte) at the channel (R216, R485). -/
def State.channelStore (s : State) (phys : Nat) (bytes : List (Nat × Byte)) : State :=
  { s with
    hbm := bytes.foldl (fun m e => Tab.set 0 m (phys + e.1) e.2) s.hbm
    poison := if wholeLine bytes then s.poison.filter (· != phys) else s.poison }

/-- The lease granted on a line at time now (R210): capped by CAP (R374) and by the first pending write. -/
def State.leaseFor (s : State) (h : HomeLine) : Nat :=
  let d := s.gtc + leaseTicks (min h.perm.lc s.leaseCap)
  match h.pend with
  | [] => d
  | w :: _ => min d w.wct

/-! ## The L1 -/

/-- An L1 line of global data is usable at time now (R210, R241). -/
def L1Line.usable (l : L1Line) (now eps : Nat) : Bool :=
  l.owner == none && decide (now + (if l.remote then eps else 0) < l.leaseEnd)

/-- The usable global line of a core's L1, if any. -/
def State.l1Hit (s : State) (core ctx line : Nat) : Option L1Line :=
  s.l1.find? fun l => l.core == core && l.ctx == ctx && l.line == line && l.usable s.gtc s.eps

/-- A global store or an atomic takes its line out of the core's L1 (R211, R246). -/
def State.l1Drop (s : State) (core ctx line : Nat) : State :=
  { s with l1 := s.l1.filter fun l => !(l.core == core && l.ctx == ctx && l.line == line && l.owner == none) }

/-- A line stands in a core's L1, in place of the same line there. -/
def State.l1Put (s : State) (l : L1Line) : State :=
  { s with l1 := upsert (fun k => k.core == l.core && k.ctx == l.ctx && k.line == l.line && k.owner == l.owner) l s.l1 }

/-- D of the page of va is set, if the entry in force is a valid leaf that names the same frame (R225). -/
def State.dirtyIfSame (s : State) (ctx va phys : Nat) : State :=
  match s.sameFrame ctx va phys with
  | none => s
  | some x => s.setDirty x

/-- A physical line of memory is marked as poisoned. -/
def State.markPoison (s : State) (phys : Nat) : State :=
  { s with poison := if s.poison.contains phys then s.poison else phys :: s.poison }

/-- A whole line is written at the channel of its frame; poisoned, with its mark. -/
def State.channelLine (s : State) (phys : Nat) (bytes : List (Nat × Byte)) (poison : Bool) : State :=
  let s := (s.activate phys).channelStore phys bytes
  if poison then s.markPoison phys else s

/-- A whole line is written at the channel of its frame, for a line that the L2 does not hold: at the end of what leases its last stay
there left (R237). -/
def State.channelWrite (s : State) (l : L1Line) (bytes : List (Nat × Byte)) : Nat × State :=
  let wct := match s.leases.find? fun e => e.1 == l.ctx && e.2.1 == l.line with
    | some e => max s.gtc (max e.2.2.1 e.2.2.2)
    | none => s.gtc
  (wct, ((s.waitUntil wct).channelLine l.phys bytes l.poison).noteWrite wct l.ctx l.line)

/-- Write back a dirty private line: the whole line at its home, through the frame it was fetched from (R225), with its mark when
it is poisoned (R368, R369). The WCT, and the state; the line stays, clean. -/
def State.privWriteBack (s : State) (l : L1Line) : Nat × State :=
  let s := s.dirtyIfSame l.ctx (128 * l.line) l.phys
  let s := s.l1Put { l with dirty := false }
  let bytes := (List.range 128).map fun i => (i, lineByte l.data i)
  match s.l2.find? fun h => h.ctx == l.ctx && h.line == l.line with
  | some h =>
    if h.phys = l.phys then s.homeWrite { h.settle s.gtc with dcopy := true } { wct := 0, bytes := bytes, by_ := l.owner, poison := l.poison }
    else s.channelWrite l bytes
  | none => s.channelWrite l bytes

/-- A WCT returns to a pack (R242). -/
def Pack.returnWct (p : Pack) (w : Nat) : Pack := { p with lwct := max p.lwct w }

/-- A line leaves a core's L1: a dirty private one is written back, and its WCT returns (R225). -/
def State.l1Evict (s : State) (l : L1Line) : State :=
  let gone := fun (k : L1Line) => k.core == l.core && k.ctx == l.ctx && k.line == l.line && k.owner == l.owner
  if l.owner.isSome && l.dirty then
    let r := s.privWriteBack l
    let s := { r.2 with l1 := r.2.l1.filter fun k => !gone k }
    match l.owner with
    | some p => s.onPack p fun k => k.returnWct r.1
    | none => s
  else { s with l1 := s.l1.filter fun k => !gone k }

/-- Room for a line in a core's L1: full, it gives up a line, which is free (R20, log 60). -/
def State.l1Room (s : State) (l : L1Line) : State :=
  if s.l1.length < l1Lines then s
  else
    let mine := s.l1.filter fun k => k.core == l.core
    if mine.length < l1Lines || mine.any (fun k => k.ctx == l.ctx && k.line == l.line && k.owner == l.owner) then s
    else match s.pickFree mine with
      | (some k, s) => s.l1Evict k
      | (none, s) => s

/-- A line enters a core's L1. -/
def State.l1Fill (s : State) (l : L1Line) : State := (s.l1Room l).l1Put l

/-! ## Loads and stores of one line -/

/-- What a load or store of a line meets: data; the faults of R219; or a window to another device. -/
inductive Access where
  | data (d : Line)
  | fault (cause reason : Nat)
  | pageFault
  | window (x : Xlate)

/-- The largest WCT returned for a pack's writes, those of operations that are not complete among them. -/
def State.ownWct (s : State) (who : Option PackId) : Nat :=
  match who.bind s.pack? with
  | none => 0
  | some k => (k.ops.map (·.wct)).foldl max k.lwct

/-- A pack's own writes to a line have reached their WCTs (R211): those at the home; for a line that another device homes and an
L1 holds, every WCT returned so far (log 4). -/
def State.awaitOwn (s : State) (who : Option PackId) (ctx line : Nat) : State :=
  match s.l2.find? fun h => h.ctx == ctx && h.line == line with
  | none => if s.l1.any fun l => l.ctx == ctx && l.line == line && l.remote then s.waitUntil (s.ownWct who) else s
  | some h => (h.pend.filter fun w => w.by_.isSome && w.by_ == who).foldl (fun s w => s.waitUntil w.wct) s

/-- A load of a line by core (R208, R210): from a usable L1 line, else from its home, where it takes a lease. It waits there
for writes of the lift engine that hold the line, and for the issuing pack's own (R211, R257). -/
def State.loadLine (s : State) (who : Option PackId) (core ctx line : Nat) : Access × State :=
  let s := s.awaitOwn who ctx line
  match s.l1Hit core ctx line with
  | some l => (if !l.perm.r then .fault cPROT 2 else if l.poison then .fault cECC 1 else .data l.data, s)
  | none =>
    match s.findLine ctx line with
    | (.absent, s) => (.pageFault, s)
    | (.window x, s) => (if x.perm.r then .window x else .fault cPROT 2, s)
    | (.channel x phys, s) =>
      (if !x.perm.r then .fault cPROT 2 else if s.poison.contains phys then .fault cECC 1 else .data (memLine s.hbm phys), s)
    | (.home h, s) =>
      if !h.perm.r then (.fault cPROT 2, s.putHome h)
      else if h.poison then (.fault cECC 1, s.putHome h)
      else
        let s := (h.pend.filter (·.lift)).foldl (fun s w => s.waitUntil w.wct) s
        let h := h.settle s.gtc
        let lease := s.leaseFor h
        if min h.perm.lc s.leaseCap = 0 then (.data h.data, s.putHome h)
        else
          let s := s.putHome { h with leaseEnd := max h.leaseEnd lease }
          (.data h.data, s.l1Fill { core := core, ctx := ctx, line := line, data := h.data, perm := h.perm,
                                    leaseEnd := lease, phys := h.phys })

/-- A store of bytes to a line, as a global write of core (R211, R237): its WCT, where the write is accepted. -/
def State.storeLine (s : State) (ctx line : Nat) (bytes : List (Nat × Byte)) (lift : Bool) (who : Option PackId) :
    (Except Access Nat) × State :=
  match s.findLine ctx line with
  | (.absent, s) => (.error .pageFault, s)
  | (.window x, s) => (.error (if x.perm.w then .window x else .fault cPROT 2), s)
  | (.channel x phys, s) =>
    if !x.perm.w then (.error (.fault cPROT 2), s)
    else (.ok s.gtc, ((s.setDirty x).channelStore phys bytes).noteWrite s.gtc ctx line)
  | (.home h, s) =>
    if !h.perm.w then (.error (.fault cPROT 2), s.putHome h)
    else
      let r := s.homeStore h bytes lift who
      (.ok r.1, r.2)

/-! ## Reads of records, as LDS reads -/

/-- The outcome of a read. -/
inductive Read where
  | ok (v : Nat)
  | fault (cause reason : Nat) (va : Nat)
  | pageFault (va : Nat)
  /-- a window line that has been asked for -/
  | waiting

/-- Read the lines from the one numbered line on, n of them, and join them. -/
def readLines (s : State) (who : PackId) (core ctx : Nat) : Nat → Nat → Read × List Line × State × Option (Xlate × Nat)
  | _, 0 => (.ok 0, [], s, none)
  | line, n + 1 =>
    match s.fetched.find? fun f => f.pack == who && f.ctx == ctx && f.line == line with
    | some f =>
      match f.fault with
      | some (c, r) => (.fault c r (128 * line), [], s, none)
      | none =>
        let r := readLines s who core ctx (line + 1) n
        (r.1, f.data :: r.2.1, r.2.2.1, r.2.2.2)
    | none =>
      match s.loadLine (some who) core ctx line with
      | (.data d, s) =>
        let r := readLines s who core ctx (line + 1) n
        (r.1, d :: r.2.1, r.2.2.1, r.2.2.2)
      | (.fault c r, s) => (.fault c r (128 * line), [], s, none)
      | (.pageFault, s) => (.pageFault (128 * line), [], s, none)
      | (.window x, s) => (.waiting, [], s, some (x, line))

/-- The lines that n bytes from va touch. -/
def lineSpan (va n : Nat) : List Nat := (List.range (if n = 0 then 0 else (va % 128 + n + 127) / 128)).map (va / 128 + ·)

/-- n bytes at va of a list of lines that starts at the line of va. -/
def joinLines (ls : List Line) (va n : Nat) : Nat :=
  bitsAt ((ls.reverse).foldl (fun acc l => acc * 2 ^ 1024 + l.toNat) 0) (8 * (va % 128)) (8 * n)

/-- Read n bytes at va as LDS reads (R230): checked by R219 as one lane. A window line is asked for, and the read waits. -/
def State.readVirt (s : State) (who : PackId) (core ctx va n align : Nat) : Read × State × Option (Xlate × Nat) :=
  if 2 ^ 45 < va + n then (.fault cPROT 1 va, s, none)
  else if va % align != 0 then (.fault cALIGN 0 va, s, none)
  else
    let r := readLines s who core ctx (va / 128) ((va % 128 + n + 127) / 128)
    match r.1 with
    | .ok _ => (.ok (joinLines r.2.1 va n), { r.2.2.1 with fetched := r.2.2.1.fetched.filter fun f => f.pack != who }, none)
    | .fault c k _ => (.fault c k va, { r.2.2.1 with fetched := r.2.2.1.fetched.filter fun f => f.pack != who }, none)
    | .pageFault a => (.pageFault (max a va), r.2.2.1, none)
    | .waiting => (.waiting, r.2.2.1, r.2.2.2)

end Sys2Proof.Machine
end

