-- ==== Sys2Proof/Machine/Fetch.lean ====
section
/-! DEFINITION. Instruction fetch (R221), parking on a page fault (R220), and the choice of the next pack at a run boundary
(R48, R94, R97, R98). -/

namespace Sys2Proof.Machine

/-- What a fetch gives (R221). -/
inductive Fetched where
  | word (w : Word)
  | fault (cause reason : Nat)
  | pageFault

/-- The line of the PC, from its home or its channel (R221); only the device's own memory holds instructions. -/
def State.fetchLine (s : State) (ctx line : Nat) : Access × State :=
  match s.findLine ctx line with
  | (.absent, s) => (.pageFault, s)
  | (.window _, s) => (.fault cPROT 3, s)
  | (.channel x phys, s) =>
    (if !x.perm.x then .fault cPROT 3 else if s.poison.contains phys then .fault cECC 1 else .data (memLine s.hbm phys), s)
  | (.home h, s) =>
    (if !h.perm.x then .fault cPROT 3 else if h.poison then .fault cECC 1 else .data h.data, s.putHome h)

/-- Fetch the word at the issuing pack's PC: an address from 2^45 on raises PROT with reason 1; one whose page fault was declined
meets it still (R221). -/
def State.fetch (s : State) : Fetched × State :=
  let a := s.pk.pc.toNat
  if 2 ^ 45 ≤ a then (.fault cPROT 1, s)
  else if s.pk.declined = some (3, a) then (.pageFault, s)
  else
    match s.fetchLine s.tm.ctx (a / 128) with
    | (.data d, s) => (.word (BitVec.ofNat 32 (lineNat d (a % 128 / 4 * 4) 4)), s)
    | (.fault c r, s) => (.fault c r, s)
    | (_, s) => (.pageFault, s)

/-- A fetch fault is precise, with the PC at the word; ADDR is the fetch address (R221, R362). -/
def fetchFault (p : Pack) (cause reason : Nat) : FaultRec :=
  { precise cause reason with addr := p.pc, aux := allOnes }

/-- A page fault of the word at the PC, with its own report: the pack parks there, the word not issued (R220, R221).
acc: the access kind of R378; lane: the report's lane mask. -/
def State.parkAtWord (s : State) (acc va : Nat) (mask : DWord) : State :=
  let n := s.nextReport
  let s := s.postFault { packReport s.tm s.pk with addr := va, mask := mask, acc := acc } (.pack s.pk.id)
  { s with pk := { s.pk with status := .parked, parkOn := some n, runpos := 0 } }

/-- A page fault of the fetch: the pack parks at the word; once declined, it takes PAGE_UNRESOLVED precisely (R221). -/
def State.fetchMiss (s : State) : State :=
  if s.pk.declined = some (3, s.pk.pc.toNat) then s.raise (fetchFault s.pk cPAGE 0) else s.parkAtWord 3 s.pk.pc.toNat allOnes

/-- The 25th word of a run, which could not be fetched, raises ILLEGAL 1 all the same: that check comes first (R49). Its AUX, the
faulting word, reads as a free value. DESIGN CHOICE, log 65. -/
def State.runOver (s : State) : State :=
  let f := s.takeFree
  f.2.raise (illegal (f.1.truncate 32) 1)

/-! ## Run boundaries and arbitration -/

/-- A slot of the device. -/
def slotKey (core slot : Nat) : Nat := 4 * core + slot

/-- The slot of a pack (R94). -/
def State.slotOf (s : State) (p : Pack) : Nat := slotKey (s.teamOf p).core p.slot

/-- How far slot k lies after slot cur in the round of all slots (log 3: the order in which slots move). -/
def slotDistance (cur k : Nat) : Nat := (k + 288 - cur - 1) % 288

/-- The rank of a ready pack among those of its slot: urgent first, then promoted, then by priority (R26, R97); smaller is
chosen first, the older of equals. -/
def rankOf (t : Team) (p : Pack) : Nat × Nat :=
  if p.haltDue || p.urgent then (0, p.since)
  else match p.promoted with
    | some k => (1, k)
    | none => (2 + (7 - t.prio), p.since)

/-- The better of two candidates by the rank of R97. -/
def better (a b : (Nat × Nat) × PackId) : Bool :=
  decide (a.1.1 < b.1.1) || (a.1.1 == b.1.1 && decide (a.1.2 < b.1.2))

/-- The best of a list of candidates, the first of equals (log 59). -/
def bestOf : List ((Nat × Nat) × PackId) → Option ((Nat × Nat) × PackId)
  | [] => none
  | a :: as =>
    match bestOf as with
    | none => some a
    | some b => if better b a then some b else some a

/-- The current pack of slot k, whose run goes on (R20, R94). -/
def State.runner (s : State) (k : Nat) : Option Pack :=
  s.allPacks.find? fun p => p.status == .running && s.slotOf p == k

/-- The slot after the current pack's in the round that has a pack to move; the current one's is the last of the round. -/
def State.nextSlot (s : State) : Nat :=
  let cur := s.slotOf s.pk
  let busy := (s.allPacks.filter fun p => p.status == .running || p.status == .ready).map s.slotOf
  busy.foldl (fun b k => if slotDistance cur k < slotDistance cur b then k else b) cur

/-- Team t becomes the current team. -/
def State.switchTeam (s : State) (t : TeamId) : State :=
  if s.tm.id = t then s
  else match s.teams.find? fun k => k.id == t with
    | none => s
    | some m =>
      let rest := s.teams.filter fun k => k.id != t
      { s with tm := m, teams := if s.tm.status == TStatus.exited && s.tm.clearing.isEmpty then rest else rest ++ [s.tm] }

/-- Pack p takes the issue slot, and its team becomes the current team. -/
def State.switchTo (s : State) (p : PackId) : State :=
  if s.pk.id = p then s
  else match s.packs.find? fun k => k.id == p with
    | none => s
    | some k =>
      let rest := s.packs.filter fun q => q.id != p
      ({ s with pk := k, packs := if s.pk.status == PStatus.vacant then rest else rest ++ [s.pk] }).switchTeam p.teamId

/-- The line of a pack's next word is in its core's instruction cache (R97). -/
def State.lineCached (s : State) (t : Team) (p : Pack) : Bool :=
  (s.core t.core).icache.contains (t.ctx, p.pc.toNat / 128)

/-- The ready packs of slot k (R97), each with its rank. -/
def State.candidates (s : State) (k : Nat) : List ((Nat × Nat) × PackId) :=
  ((s.packs ++ [s.pk]).filter fun p => p.status == .ready && s.lineCached (s.teamOf p) p && s.slotOf p == k).map fun p =>
    (rankOf (s.teamOf p) p, p.id)

/-- A pack at a run boundary whose save is due stops there (R48, R348); its save follows when its counters are 0. -/
def State.stopSaves (s : State) : State :=
  let due := fun (p : Pack) => p.status == .ready && p.maySave (s.teamOf p) s.gtc
  (s.onPacks fun p => if due p then { p with status := .saving } else p).push ((s.allPacks.filter due).map fun p => .packSave p.id)

/-- Packs at a run boundary without their next line in the instruction cache are not ready, and the lines are asked for (R97, R116). -/
def State.askLines (s : State) : State :=
  let out := fun (p : Pack) => p.status == .ready && !s.lineCached (s.teamOf p) p
  (s.onPacks fun p => if out p then { p with status := .fetching } else p).push ((s.allPacks.filter out).map fun p => .icacheFill p.id)

/-- Slot k chooses at its run boundary (R97): the chosen pack starts its run. -/
def State.arbitrate (s : State) (k : Nat) : State :=
  match bestOf (s.candidates k) with
  | none => s
  | some (_, p) =>
    let s := s.switchTo p
    { s with pk := { s.pk with status := .running, promoted := none, urgent := false } }

/-! ## Promotion (R26, R98) -/

/-- Eighths of a cc from tick a to tick b, when the clock was each of a list until its tick, and has been c since: a clock is
counted in steps of 125 MHz, and a tick is 1 ns (R5). -/
def eighths (c : Nat) : List (Nat × Nat) → Nat → Nat → Nat
  | [], a, b => (b - a) * c
  | (e, k) :: past, a, b => (min e b - a) * k + eighths c past (max a e) b

/-- cc of a core's island clock from tick a to now (R5, R98). -/
def State.ccSince (s : State) (core a : Nat) : Nat := eighths (s.core core).clock (s.core core).clocks a s.gtc / 8

/-- The first tick by which n eighths of a cc have passed since tick a, under the same clocks; none if the clock stands still. -/
def tickAfter (c : Nat) : List (Nat × Nat) → Nat → Nat → Option Nat
  | [], a, n => if n = 0 then some a else if c = 0 then none else some (a + (n + c - 1) / c)
  | (e, k) :: past, a, n =>
    if n ≤ (e - a) * k then some (a + (n + k - 1) / k) else tickAfter c past (max a e) (n - (e - a) * k)

/-- The tick at which a ready pack has not been chosen for 4,096 cc of its core's island clock (R98). -/
def State.promotesAt (s : State) (k : Pack) : Option Nat :=
  let t := s.teamOf k
  if k.status = .ready && s.lineCached t k && k.promoted.isNone then
    tickAfter (s.core t.core).clock (s.core t.core).clocks k.since (8 * 4096)
  else none

/-- A ready pack that has not been chosen for 4,096 cc is promoted, from the tick at which they had passed (R26, R98). -/
def State.promoteDue (s : State) (k : Pack) : Pack :=
  match s.promotesAt k with
  | none => k
  | some t => if t ≤ s.gtc then { k with promoted := some t } else k

/-- The pack parks at the word it would issue, because a page-fault report has reached the core (R220), unless every report
has been answered since. -/
def State.parkNow (s : State) : State :=
  if s.pk.replay.isEmpty then { s with pk := { s.pk with parkDue := false } }
  else { s with pk := { s.pk with status := .parked, parkDue := false, runpos := 0 } }

/-- After an attempt to issue a word from old: with a team halt at the core, a word that issued (counter 6) adds to the pack's
skid, and a pack whose run has ended stops where it stands (R364, R365). -/
def State.haltStop (old new : State) : State :=
  if !new.pk.haltDue then new
  else
    let n := fun (s : State) => Tab.get 0 (s.core old.tm.core).count 6
    let p := if n new = n old then new.pk else { new.pk with skid := new.pk.skid + 1 }
    if p.status = .running then { new with pk := p }
    else ({ new with pk := { p with status := .halted, wait := .none, due := {}, haltDue := false } } : State).push [.packRetire p.id]

end Sys2Proof.Machine
end

