-- ==== Sys2Proof/Machine/Special.lean ====
section
/-! DEFINITION. The special functions of R147, correctly rounded: each value is enclosed between two fixed-point numbers of
F fraction bits, and the rounding is taken when both ends round alike. -/

namespace Sys2Proof.Machine

/-- t₀ ± t₁ + t₂ ± …: n terms from term k t, where next k t is the state that follows t; alt: the signs alternate. -/
def series (next term : Nat → Nat → Nat) (alt : Bool) (k t : Nat) : Nat → Int
  | 0 => 0
  | n + 1 =>
    let r := series next term alt (k + 1) (next k t) n
    (term k t : Int) + (if alt then -r else r)

/-- The number of terms that F fraction bits need: the terms below fall at least as fast as 9^−k. -/
def seriesTerms (F : Nat) : Nat := F / 3 + 16

/-- atanh z for 0 ≤ z ≤ 2^F/3. -/
def fixAtanh (F z : Nat) : Int :=
  series (fun _ t => (t * ((z * z) >>> F)) >>> F) (fun k t => t / (2 * k + 1)) false 0 z (seriesTerms F)

/-- atan (1/n) with F fraction bits. -/
def fixAtanInv (F n : Nat) : Int :=
  series (fun _ t => t / (n * n)) (fun k t => t / (2 * k + 1)) true 0 (2 ^ F / n) (seriesTerms F)

/-- ln 2 = 2 atanh (1/3). -/
def fixLn2 (F : Nat) : Nat := 2 * (fixAtanh F (2 ^ F / 3)).toNat

/-- π/2 = 8 atan (1/5) − 2 atan (1/239). -/
def fixHalfPi (F : Nat) : Nat := (8 * fixAtanInv F 5 - 2 * fixAtanInv F 239).toNat

/-- e^y, or e^−y with inv, for 0 ≤ y < 2^F. -/
def fixExp (F : Nat) (inv : Bool) (y : Nat) : Nat :=
  (series (fun k t => ((t * y) >>> F) / (k + 1)) (fun _ t => t) inv 0 (2 ^ F) (seriesTerms F)).toNat

/-- sin r for 0 ≤ r < 2 × 2^F. -/
def fixSin (F r : Nat) : Int :=
  series (fun k t => ((t * ((r * r) >>> F)) >>> F) / ((2 * k + 2) * (2 * k + 3))) (fun _ t => t) true 0 r (seriesTerms F)

/-- cos r for 0 ≤ r < 2 × 2^F. -/
def fixCos (F r : Nat) : Int :=
  series (fun k t => ((t * ((r * r) >>> F)) >>> F) / ((2 * k + 1) * (2 * k + 2))) (fun _ t => t) true 0 (2 ^ F)
    (seriesTerms F)

/-- The margin on each side of a computed value: far above the sum of the truncations of its terms. -/
def margin : Nat := 2 ^ 40

/-- |x| with F fraction bits, rounded down. -/
def Num.fixed (x : Num) (F : Nat) : Nat := if 0 ≤ x.e + F then x.m <<< (x.e + F).toNat else x.m >>> (-(x.e + F)).toNat

/-- 2^x as an exponent and a fixed-point number in [1, 2]: x is not an integer. -/
def enclExp2 (F : Nat) (x : Num) : Int × Nat :=
  let k := (-x.e).toNat                     -- x.e < 0 here
  let v : Int := if x.neg then -(x.m : Int) else x.m
  let n := v / (2 ^ k : Nat)
  let frac := (v % (2 ^ k : Nat)).toNat     -- over 2^k
  let f := if k ≤ F then frac <<< (F - k) else frac >>> (k - F)
  (n, fixExp F false ((f * fixLn2 F) >>> F))

/-- log₂ x of a positive number as a signed fixed-point number. -/
def enclLog2 (F : Nat) (x : Num) : Int :=
  let k := bitLen x.m - 1
  let m := x.m <<< (F - k)                  -- [1, 2)
  let z := ((m - 2 ^ F) <<< F) / (m + 2 ^ F)
  (x.e + k) * (2 ^ F : Nat) + fixAtanh F z * (2 ^ F : Nat) / fixAtanh F (2 ^ F / 3)

/-- The quadrant of |x| and its rest below π/2, with F fraction bits. -/
def reduceAngle (F : Nat) (x : Num) : Nat × Nat :=
  let G := F + 192
  let h := fixHalfPi G
  let v := x.fixed G
  (v / h % 4, (v % h) >>> 192)

/-- sin, or cos with shift 1, of |x|. -/
def enclSin (F shift : Nat) (x : Num) : Int :=
  let r := reduceAngle F x
  match (r.1 + shift) % 4 with
  | 0 => fixSin F r.2
  | 1 => fixCos F r.2
  | 2 => -fixSin F r.2
  | _ => -fixCos F r.2

/-- tanh |x|. -/
def enclTanh (F : Nat) (x : Num) : Int :=
  if 512 * 2 ^ F ≤ x.fixed F then (2 ^ F : Nat)
  else
    let y := 2 * x.fixed F
    let l := fixLn2 F
    let q := fixExp F true (y % l) >>> (y / l)
    (((2 ^ F : Int) - q) * (2 ^ F : Nat)) / ((2 ^ F : Nat) + q)

/-- Rounding of an irrational value within margin of v × 2^(e − F): the result when every such value has it. -/
def roundEncl (f : Fmt) (fl : Bool) (F : Nat) (v : Int) (e : Int) : Option Flagged :=
  let neg := decide (v < 0)
  let a := v.natAbs
  if a ≤ 2 * margin then none
  else
    let lo := roundNum f rmRNE fl ⟨neg, a - margin, e - F, true⟩
    let hi := roundNum f rmRNE fl ⟨neg, a + margin - 1, e - F, true⟩
    if lo = hi then some lo else none

/-- The functions FEXP2 to FTANH (R147). -/
inductive SpecialFn where
  | exp2 | log2 | sin | cos | tanh
deriving DecidableEq, Repr

/-- An irrational f(x) rounded once from an enclosure of F fraction bits. -/
def specialAt (f : Fmt) (fl : Bool) (g : SpecialFn) (x : Num) (F : Nat) : Option Flagged :=
  match g with
  | .exp2 =>
    let r := enclExp2 F x
    roundEncl f fl F r.2 r.1
  | .log2 => roundEncl f fl F (enclLog2 F x) 0
  | .sin => roundEncl f fl F (if x.neg then -enclSin F 0 x else enclSin F 0 x) 0
  | .cos => roundEncl f fl F (enclSin F 1 x) 0
  | .tanh => roundEncl f fl F (if x.neg then -enclTanh F x else enclTanh F x) 0

/-- An irrational f(x) correctly rounded (R147): a wider enclosure where the narrow one does not decide; v where none
does (log 12). -/
def specialRound (f : Fmt) (fl : Bool) (g : SpecialFn) (x : Num) (v : Nat) : Flagged :=
  match specialAt f fl g x 288 with
  | some r => r
  | none =>
    match specialAt f fl g x 576 with
    | some r => r
    | none =>
      match specialAt f fl g x 1152 with
      | some r => r
      | none => (v % 2 ^ (f.magBits + 1), flagNX)

/-- x is an integer. -/
def Num.isInt (x : Num) : Bool := decide (0 ≤ x.e) || x.m % 2 ^ (-x.e).toNat == 0

/-- FRCP (R147). -/
def fpRcp (f : Fmt) (fl : Bool) (a : Nat) : Flagged :=
  withNaN f [a]
    (let x := f.flushIn fl a
     let s := f.sign x
     if f.isInf x then (f.signed s 0, 0)
     else if f.mag x = 0 then (f.signed s f.top, flagDZ)
     else roundTo f rmRNE fl (divNum ⟨false, 1, 0, false⟩ (f.num x)))

/-- FRSQ (R147). -/
def fpRsq (f : Fmt) (fl : Bool) (a : Nat) : Flagged :=
  withNaN f [a]
    (let x := f.flushIn fl a
     if f.mag x = 0 then (f.signed (f.sign x) f.top, flagDZ)
     else if f.sign x then invalid f
     else if f.isInf x then (0, 0)
     else roundTo f rmRNE fl (rsqrtNum (f.num x)))

/-- FSQRT (R147). -/
def fpSqrt (f : Fmt) (fl : Bool) (a : Nat) : Flagged :=
  withNaN f [a]
    (let x := f.flushIn fl a
     if f.mag x = 0 then (x, 0)
     else if f.sign x then invalid f
     else if f.isInf x then (x, 0)
     else roundTo f rmRNE fl (sqrtNum (f.num x)))

/-- FEXP2 (R147): an integer has an exact power. -/
def fpExp2 (f : Fmt) (fl : Bool) (v : Nat) (a : Nat) : Flagged :=
  withNaN f [a]
    (let x := f.flushIn fl a
     let n := f.num x
     if f.isInf x then (if f.sign x then 0 else f.top, 0)
     else if f.mag x = 0 then ((roundTo f rmRNE fl ⟨false, 1, 0, false⟩).1, 0)
     else if n.isInt then
       let k : Int := n.m <<< n.e.toNat >>> (-n.e).toNat
       roundTo f rmRNE fl ⟨false, 1, if n.neg then -k else k, false⟩
     else specialRound f fl .exp2 n v)

/-- FLOG2 (R147): a power of two has an exact logarithm. -/
def fpLog2 (f : Fmt) (fl : Bool) (v : Nat) (a : Nat) : Flagged :=
  withNaN f [a]
    (let x := f.flushIn fl a
     let n := f.num x
     if f.mag x = 0 then (f.signed true f.top, flagDZ)
     else if f.sign x then invalid f
     else if f.isInf x then (x, 0)
     else if n.m = 2 ^ (bitLen n.m - 1) then
       let k : Int := n.e + (bitLen n.m - 1 : Nat)
       roundTo f rmRNE fl ⟨decide (k < 0), k.natAbs, 0, false⟩
     else specialRound f fl .log2 n v)

/-- FSIN, or FCOS (R147). -/
def fpSinCos (f : Fmt) (fl cos : Bool) (v : Nat) (a : Nat) : Flagged :=
  withNaN f [a]
    (let x := f.flushIn fl a
     if f.isInf x then invalid f
     else if f.mag x = 0 then
       (if cos then roundTo f rmRNE fl ⟨false, 1, 0, false⟩ else (x, 0))
     else specialRound f fl (if cos then .cos else .sin) (f.num x) v)

/-- FTANH (R147). -/
def fpTanh (f : Fmt) (fl : Bool) (v : Nat) (a : Nat) : Flagged :=
  withNaN f [a]
    (let x := f.flushIn fl a
     if f.isInf x then ((roundTo f rmRNE fl ⟨f.sign x, 1, 0, false⟩).1, 0)
     else if f.mag x = 0 then (x, 0)
     else specialRound f fl .tanh (f.num x) v)

end Sys2Proof.Machine
end

