-- ==== Sys2Proof/Machine/Scalar.lean ====
section
/-! DEFINITION. Scalar arithmetic, logic and constants (R101-R103). -/

namespace Sys2Proof.Machine

/-- Logical shift left by the unsigned y: 0 from 64 on (R102). -/
def shl64 (x y : DWord) : DWord := if y.toNat < 64 then x <<< y.toNat else 0
/-- Logical shift right by the unsigned y: 0 from 64 on (R102). -/
def shr64 (x y : DWord) : DWord := if y.toNat < 64 then x >>> y.toNat else 0
/-- Arithmetic shift right by min(y, 63) (R102). -/
def sar64 (x y : DWord) : DWord := x.sshiftRight (min y.toNat 63)
/-- Bits 127:64 of the signed product (R102). -/
def mulHigh64 (x y : DWord) : DWord := BitVec.ofInt 64 (x.toInt * y.toInt / (2 ^ 64 : Nat))
/-- Signed minimum. -/
def smin64 (x y : DWord) : DWord := if y.toInt < x.toInt then y else x
/-- Signed maximum. -/
def smax64 (x y : DWord) : DWord := if x.toInt < y.toInt then y else x
/-- The comparison of SCMP (R56): eq ne lt le gt ge signed, ltn gen unsigned. -/
def scmp64 (c : BitVec 3) (x y : DWord) : Bool :=
  match c.toNat with
  | 0 => x == y
  | 1 => x != y
  | 2 => decide (x.toInt < y.toInt)
  | 3 => decide (x.toInt ≤ y.toInt)
  | 4 => decide (y.toInt < x.toInt)
  | 5 => decide (y.toInt ≤ x.toInt)
  | 6 => decide (x.toNat < y.toNat)
  | _ => decide (y.toNat ≤ x.toNat)

/-- The sign-extended immediate (R101). -/
def imm10 (i : BitVec 10) : DWord := i.signExtend 64

/-- A scalar word that writes s[d] with a value of the pack before it. -/
def scalarWord (i : Instr) (d : BitVec 6) (s : State) (f : Pack → DWord) : Result :=
  .next (packWord i s fun p t => t.setS d.toNat (f p))

/-- SADD (R102). -/
def execSadd (e : Bool) (d a b : BitVec 6) (s : State) : Result :=
  scalarWord (.sadd e d a b) d s fun p => p.s a.toNat + p.s b.toNat
/-- SSUB (R102). -/
def execSsub (e : Bool) (d a b : BitVec 6) (s : State) : Result :=
  scalarWord (.ssub e d a b) d s fun p => p.s a.toNat - p.s b.toNat
/-- SMUL (R102). -/
def execSmul (e : Bool) (d a b : BitVec 6) (s : State) : Result :=
  scalarWord (.smul e d a b) d s fun p => p.s a.toNat * p.s b.toNat
/-- SMULH (R102). -/
def execSmulh (e : Bool) (d a b : BitVec 6) (s : State) : Result :=
  scalarWord (.smulh e d a b) d s fun p => mulHigh64 (p.s a.toNat) (p.s b.toNat)
/-- SAND (R102). -/
def execSand (e : Bool) (d a b : BitVec 6) (s : State) : Result :=
  scalarWord (.sand e d a b) d s fun p => p.s a.toNat &&& p.s b.toNat
/-- SOR (R102). -/
def execSor (e : Bool) (d a b : BitVec 6) (s : State) : Result :=
  scalarWord (.sor e d a b) d s fun p => p.s a.toNat ||| p.s b.toNat
/-- SXOR (R102). -/
def execSxor (e : Bool) (d a b : BitVec 6) (s : State) : Result :=
  scalarWord (.sxor e d a b) d s fun p => p.s a.toNat ^^^ p.s b.toNat
/-- SANDN (R102). -/
def execSandn (e : Bool) (d a b : BitVec 6) (s : State) : Result :=
  scalarWord (.sandn e d a b) d s fun p => p.s a.toNat &&& ~~~(p.s b.toNat)
/-- SSHL (R102). -/
def execSshl (e : Bool) (d a b : BitVec 6) (s : State) : Result :=
  scalarWord (.sshl e d a b) d s fun p => shl64 (p.s a.toNat) (p.s b.toNat)
/-- SSHR (R102). -/
def execSshr (e : Bool) (d a b : BitVec 6) (s : State) : Result :=
  scalarWord (.sshr e d a b) d s fun p => shr64 (p.s a.toNat) (p.s b.toNat)
/-- SSAR (R102). -/
def execSsar (e : Bool) (d a b : BitVec 6) (s : State) : Result :=
  scalarWord (.ssar e d a b) d s fun p => sar64 (p.s a.toNat) (p.s b.toNat)
/-- SMIN (R102). -/
def execSmin (e : Bool) (d a b : BitVec 6) (s : State) : Result :=
  scalarWord (.smin e d a b) d s fun p => smin64 (p.s a.toNat) (p.s b.toNat)
/-- SMAX (R102). -/
def execSmax (e : Bool) (d a b : BitVec 6) (s : State) : Result :=
  scalarWord (.smax e d a b) d s fun p => smax64 (p.s a.toNat) (p.s b.toNat)
/-- SCLZ (R102). -/
def execSclz (e : Bool) (d a : BitVec 6) (s : State) : Result :=
  scalarWord (.sclz e d a) d s fun p => dw (leadingZeros 64 (p.s a.toNat).toNat)
/-- SPOPC (R102). -/
def execSpopc (e : Bool) (d a : BitVec 6) (s : State) : Result :=
  scalarWord (.spopc e d a) d s fun p => dw (popcount 64 (p.s a.toNat).toNat)
/-- SSEL (R102): reads s[d] first. -/
def execSsel (e : Bool) (d a b : BitVec 6) (s : State) : Result :=
  scalarWord (.ssel e d a b) d s fun p => if p.s d.toNat ≠ 0 then p.s a.toNat else p.s b.toNat
/-- SMOV (R102). -/
def execSmov (e : Bool) (d a : BitVec 6) (s : State) : Result :=
  scalarWord (.smov e d a) d s fun p => p.s a.toNat
/-- SCMP (R102, R56). -/
def execScmp (e : Bool) (d a b : BitVec 6) (c : BitVec 3) (s : State) : Result :=
  scalarWord (.scmp e d a b c) d s fun p => if scmp64 c (p.s a.toNat) (p.s b.toNat) then 1 else 0

/-- SADD, immediate form (R101). -/
def execSaddImm (e : Bool) (d a : BitVec 6) (i : BitVec 10) (s : State) : Result :=
  scalarWord (.saddImm e d a i) d s fun p => p.s a.toNat + imm10 i
/-- SMUL, immediate form (R101). -/
def execSmulImm (e : Bool) (d a : BitVec 6) (i : BitVec 10) (s : State) : Result :=
  scalarWord (.smulImm e d a i) d s fun p => p.s a.toNat * imm10 i
/-- SAND, immediate form (R101). -/
def execSandImm (e : Bool) (d a : BitVec 6) (i : BitVec 10) (s : State) : Result :=
  scalarWord (.sandImm e d a i) d s fun p => p.s a.toNat &&& imm10 i
/-- SOR, immediate form (R101). -/
def execSorImm (e : Bool) (d a : BitVec 6) (i : BitVec 10) (s : State) : Result :=
  scalarWord (.sorImm e d a i) d s fun p => p.s a.toNat ||| imm10 i
/-- SXOR, immediate form (R101). -/
def execSxorImm (e : Bool) (d a : BitVec 6) (i : BitVec 10) (s : State) : Result :=
  scalarWord (.sxorImm e d a i) d s fun p => p.s a.toNat ^^^ imm10 i
/-- SSHL, immediate form (R101). -/
def execSshlImm (e : Bool) (d a : BitVec 6) (i : BitVec 6) (s : State) : Result :=
  scalarWord (.sshlImm e d a i) d s fun p => shl64 (p.s a.toNat) (dw i.toNat)
/-- SSHR, immediate form (R101). -/
def execSshrImm (e : Bool) (d a : BitVec 6) (i : BitVec 6) (s : State) : Result :=
  scalarWord (.sshrImm e d a i) d s fun p => shr64 (p.s a.toNat) (dw i.toNat)
/-- SSAR, immediate form (R101). -/
def execSsarImm (e : Bool) (d a : BitVec 6) (i : BitVec 6) (s : State) : Result :=
  scalarWord (.ssarImm e d a i) d s fun p => sar64 (p.s a.toNat) (dw i.toNat)

/-- SLI: s[d] := sx(imm19) (R103). -/
def execSli (e : Bool) (d : BitVec 6) (i : BitVec 19) (s : State) : Result :=
  scalarWord (.sli e d i) d s fun _ => i.signExtend 64
/-- SHI: imm16 into quarter q of s[d] (R103). -/
def execShi (e : Bool) (d : BitVec 6) (q : BitVec 2) (i : BitVec 16) (s : State) : Result :=
  scalarWord (.shi e d q i) d s fun p => setBitsOf (p.s d.toNat) (16 * q.toNat + 15) (16 * q.toNat) i.toNat

end Sys2Proof.Machine
end

