-- ==== Sys2Proof/Machine/Control.lean ====
section
/-! DEFINITION. Masks, mode, status, control flow and waiting (R46-R50, R104-R117), and words that no encoding accepts
(R40, R59). -/

namespace Sys2Proof.Machine

/-- A word that no encoding accepts: the first defect of R59 in its order. A word whose one defect is a last-use bit on
a field that is no vector source raises reason 7 after its register names (reason 6) have been checked. -/
def execUnassignedWord (w : Word) (s : State) : Host.Outcome State Fault Refusal :=
  if s.pk.runpos = 24 then .next (s.raise (illegal w 1))
  else match decode w with
    | .ok _ => .next s
    | .illegal r => .next (s.raise (illegal w r))
    | .lastUse i =>
      .next (s.raise (illegal w (if namesOk (roleOf s.tm s.pk).vregs s.tm.accs s.pk.ty i then 7 else 6)))

/-- MSKP: s[d] := em; em := em AND P (R104). -/
def execMskp (e : Bool) (d : BitVec 6) (a : BitVec 5) (s : State) : Result :=
  .next (packWord (.mskp e d a) s fun p t => { t.setS d.toNat p.em with em := p.em &&& p.p a.toNat })
/-- MSKN: s[d] := em; em := em AND NOT P (R104). -/
def execMskn (e : Bool) (d : BitVec 6) (a : BitVec 5) (s : State) : Result :=
  .next (packWord (.mskn e d a) s fun p t => { t.setS d.toNat p.em with em := p.em &&& ~~~(p.p a.toNat) })
/-- MSKS: em := s[a] (R104). -/
def execMsks (e : Bool) (a : BitVec 6) (s : State) : Result :=
  .next (packWord (.msks e a) s fun p t => { t with em := p.s a.toNat })
/-- MSKG: s[d] := em (R104). -/
def execMskg (e : Bool) (d : BitVec 6) (s : State) : Result :=
  scalarWord (.mskg e d) d s fun p => p.em
/-- MSKPOP: s[d] := popcount(em AND P) (R104). -/
def execMskpop (e : Bool) (d : BitVec 6) (a : BitVec 5) (s : State) : Result :=
  scalarWord (.mskpop e d a) d s fun p => dw (popcount 64 (p.em &&& p.p a.toNat).toNat)
/-- MSKFF: s[d] := index of the lowest 1 bit of em AND P; 64 if none (R104). -/
def execMskff (e : Bool) (d : BitVec 6) (a : BitVec 5) (s : State) : Result :=
  scalarWord (.mskff e d a) d s fun p => dw (lowestSet 64 (p.em &&& p.p a.toNat).toNat)
/-- MODEG: mode into bits 14:0 of s[d], the rest cleared (R46). -/
def execModeg (e : Bool) (d : BitVec 6) (s : State) : Result :=
  scalarWord (.modeg e d) d s fun p => p.mode.zeroExtend 64

/-- A value MODES accepts: bits 63:15 zero, TY and RM not reserved (R46). -/
def modeOk (x : DWord) : Bool := bitsOf x 63 15 == 0 && decide (bitsOf x 14 11 < 12) && decide (bitsOf x 10 8 < 5)

/-- MODES: mode := s[a][14:0]; ILLEGAL for a value that mode cannot hold, with mode unchanged (R46).
A value with bits above 14 has reason 4, as one with a reserved code. DEDUCED, log 66: R59 names the reserved code alone. -/
def execModes (e : Bool) (a : BitVec 6) (s : State) : Result :=
  .next (issueWord (.modes e a) s fun s t =>
    if modeOk (s.pk.s a.toNat) then .done { t with pk := { t.pk with mode := (s.pk.s a.toNat).truncate 15 } }
    else .trap (illegal (encode (.modes e a)) 4))

/-- The value of status register a (R57, R105). -/
def statusReg (s : State) (a : Nat) : DWord :=
  match a with
  | 0 => 64
  | 1 => 16
  | 2 => 4
  | 3 => dw (s.tm.lcore % 256)
  | 4 => dw s.tm.id.team
  | 5 => dw s.tm.gangId
  | 6 => dw s.tm.gangRank
  | 7 => dw s.pk.id.role
  | 8 => dw s.pk.id.pir
  | 9 => dw s.tm.depth
  | 10 => dw s.gtc
  | 11 => dw s.pk.lwct
  | 12 => s.pk.fflags.zeroExtend 64
  | 13 => s.pk.fstat
  | 14 => dw s.tm.ctx
  | _ => s.pk.stale

/-- SRD: s[d] := status register a (R105). -/
def execSrd (e : Bool) (d a : BitVec 6) (s : State) : Result :=
  .next (issueWord (.srd e d a) s fun s t =>
    .done { t with pk := t.pk.setS d.toNat (statusReg s a.toNat) })

/-- NOP: no effect (R106). -/
def execNop (e : Bool) (s : State) : Result := .next (packWord (.nop e) s fun _ t => t)
/-- YIELD: the pack's age becomes 0 (R107). -/
def execYield (e : Bool) (s : State) : Result :=
  .next (issueWord (.yield e) s fun s t => .done { t with pk := { t.pk with since := s.gtc } })

/-- EXIT (R108): a pending record takes its trap instead; else the pack issues no more and retires once drained. Each
event that its operations still need brings PACK_RETIRE about.
An EXIT that begins a run stands at no PPT point, though the run before it ended with a PPT. DEDUCED, log 66. -/
def execExit (s : State) : Result :=
  .next (issueWord .exit s fun s t =>
    if s.pk.hasPending then .own s.takePending
    else .own ({ t with pk := { t.pk with status := .exiting, runpos := 0, atPpt := t.pk.pptKept } }.push [.packRetire t.pk.id]))

/-- RET: PC := s[a] (R109). -/
def execRet (a : BitVec 6) (s : State) : Result :=
  .next (issueWord (.ret a) s fun s t => .jump t (s.pk.s a.toNat))
/-- JMP: PC := s[a] (R109). -/
def execJmp (a : BitVec 6) (s : State) : Result :=
  .next (issueWord (.jmp a) s fun s t => .jump t (s.pk.s a.toNat))

/-- The mode register of a MODE word (R111). -/
def modeWord (t : BitVec 4) (r : BitVec 3) (g s : BitVec 1) (p : BitVec 5) (u : BitVec 1) : BitVec 15 :=
  t ++ r ++ g ++ s ++ p ++ u

/-- MODE: mode[14:0] := word[24:10] (R111). -/
def execMode (e : Bool) (t : BitVec 4) (r : BitVec 3) (g s : BitVec 1) (p : BitVec 5) (u : BitVec 1) (st : State) : Result :=
  .next (packWord (.mode e t r g s p u) st fun _ k => { k with mode := modeWord t r g s p u })

/-- A counter at or below its threshold; 31 leaves it out (R113). -/
def thresholdMet (n : Nat) (f : BitVec 5) : Bool := f == 31#5 || decide (n ≤ f.toNat)

/-- The condition of HOLD (R113). -/
def holdMet (p : Pack) (l s t m c : BitVec 5) : Bool :=
  thresholdMet (p.counter .ld) l && thresholdMet (p.counter .st) s && thresholdMet (p.counter .tl) t &&
    thresholdMet (p.counter .mx) m && thresholdMet (p.counter .dc) c

/-- A blocking word (R48): a pending record takes its trap first (R359); with its condition met the run ends and the pack
is ready at the next word; else the pack waits at the word. -/
def blockWord (s t : State) (met : Bool) (w : Wait) : Res :=
  if s.pk.hasPending then .own s.takePending
  else if met then .own (t.goto true t.pk.next)
  else .own (t.block w)

/-- HOLD (R113). -/
def execHold (e : Bool) (l s t m c : BitVec 5) (st : State) : Result :=
  .next (issueWord (.hold e l s t m c) st fun u v =>
    blockWord u v (holdMet u.pk l s t m c) (.hold l.toNat s.toNat t.toNat m.toNat c.toNat))

/-- The target of a branch: its address + 4 × sx(offset) (R115). -/
def branchTarget (pc : DWord) (o : BitVec n) : DWord := pc + (o.signExtend 64 <<< 2)

/-- A branch taken when c holds of the pack (R115). -/
def branchWord (i : Instr) (s : State) (o : BitVec n) (c : Pack → Bool) : Result :=
  .next (issueWord i s fun s t => .jump t (if c s.pk then branchTarget s.pk.pc o else s.pk.next))

/-- BRA (R115). -/
def execBra (o : BitVec 22) (s : State) : Result := branchWord (.bra o) s o fun _ => true
/-- CALL: s63 := the address after it, before the PC changes (R115). -/
def execCall (o : BitVec 22) (s : State) : Result :=
  .next (issueWord (.call o) s fun s t =>
    .jump { t with pk := t.pk.setS 63 s.pk.next } (branchTarget s.pk.pc o))
/-- BEMZ (R115). -/
def execBemz (o : BitVec 22) (s : State) : Result := branchWord (.bemz o) s o fun p => p.em == 0
/-- BEMF (R115). -/
def execBemf (o : BitVec 22) (s : State) : Result := branchWord (.bemf o) s o fun p => p.em == allOnes
/-- BZ (R115). -/
def execBz (r : BitVec 6) (o : BitVec 18) (s : State) : Result := branchWord (.bz r o) s o fun p => p.s r.toNat == 0
/-- BNZ (R115). -/
def execBnz (r : BitVec 6) (o : BitVec 18) (s : State) : Result := branchWord (.bnz r o) s o fun p => p.s r.toNat != 0

end Sys2Proof.Machine
end

