-- ==== Sys2Proof/Machine/VInt.lean ====
section
/-! DEFINITION. Integer, logical, lane and predicate words (R118-R134). -/

namespace Sys2Proof.Machine

/-- An element type as the integer words read TY (R120): width, elements per register or pair, signedness, pairs. -/
structure Elem where
  w    : Nat
  n    : Nat
  sg   : Bool
  wide : Bool
deriving DecidableEq, Repr

/-- TY as seen by integer words (R120). -/
def elemTy (ty : Nat) : Elem :=
  match ty with
  | 0 => ⟨32, 1, true, false⟩
  | 2 => ⟨16, 2, true, false⟩
  | 3 | 9 | 10 => ⟨16, 2, false, false⟩
  | 4 => ⟨8, 4, true, false⟩
  | 5 => ⟨8, 4, false, false⟩
  | 6 => ⟨64, 1, true, true⟩
  | 7 => ⟨64, 1, false, true⟩
  | _ => ⟨32, 1, false, false⟩

/-- val() of an element (R120). -/
def Elem.val (t : Elem) (x : Nat) : Int := if t.sg then signed x t.w else ((x % 2 ^ t.w : Nat) : Int)

/-- Element i of a lane of v[r] or of its pair. -/
def Pack.elem (p : Pack) (t : Elem) (r l i : Nat) : Nat := bitsAt (p.laneVal t.wide r l) (t.w * i) t.w

/-- A result that wraps (R121). -/
def wrapped (t : Elem) (r : Int) : Flagged := (wrapNat r t.w, 0)

/-- A result that saturates under SAT and else wraps (R121). -/
def saturated (t : Elem) (sat : Bool) (r : Int) : Flagged :=
  if sat then
    let q := satInt r (intMin t.w t.sg) (intMax t.w t.sg)
    (wrapNat q.1 t.w, q.2)
  else wrapped t r

/-- An element-wise word (R121): element i of lane l of d receives g of the elements x of a, y and the old d. -/
def elemWord (i : Instr) (d a : BitVec 6) (y : Pack → Elem → Nat → Nat → Nat) (s : State)
    (g : Elem → Bool → Nat → Nat → Nat → Flagged) : Result :=
  vecWord i (fun p => pairTy p.ty) d.toNat s fun p l =>
    let t := elemTy p.ty
    joinElems (fun j => g t p.sat (p.elem t a.toNat l j) (y p t l j) (p.elem t d.toNat l j)) t.w 0 t.n

/-- y from register b. -/
def regElem (b : BitVec 6) : Pack → Elem → Nat → Nat → Nat := fun p t l j => p.elem t b.toNat l j
/-- No y. -/
def noElem : Pack → Elem → Nat → Nat → Nat := fun _ _ _ _ => 0
/-- y := wrap(sx(imm10, 10), w) (R127). -/
def immElem (i : BitVec 10) : Pack → Elem → Nat → Nat → Nat := fun _ t _ _ => wrapNat i.toInt t.w
/-- The shift count of the VI forms (R124). -/
def countElem (i : BitVec 6) : Pack → Elem → Nat → Nat → Nat := fun _ _ _ _ => i.toNat

/-! ## The functions f(x, y) of R122 to R125 -/

/-- VADD. -/
def fVadd (t : Elem) (sat : Bool) (x y _d : Nat) : Flagged := saturated t sat (t.val x + t.val y)
/-- VADDC (R123). -/
def fVaddc (t : Elem) (_ : Bool) (x y _d : Nat) : Flagged := (if 2 ^ t.w ≤ x + y then 1 else 0, 0)
/-- VSUB. -/
def fVsub (t : Elem) (sat : Bool) (x y _d : Nat) : Flagged := saturated t sat (t.val x - t.val y)
/-- VSUBB (R123). -/
def fVsubb (_ : Elem) (_ : Bool) (x y _d : Nat) : Flagged := (if x < y then 1 else 0, 0)
/-- VMUL. -/
def fVmul (t : Elem) (sat : Bool) (x y _d : Nat) : Flagged := saturated t sat (t.val x * t.val y)
/-- VMULH. -/
def fVmulh (t : Elem) (_ : Bool) (x y _d : Nat) : Flagged := wrapped t (t.val x * t.val y / (2 ^ t.w : Nat))
/-- VMAD. -/
def fVmad (t : Elem) (sat : Bool) (x y d : Nat) : Flagged := saturated t sat (t.val x * t.val y + t.val d)
/-- VMIN. -/
def fVmin (t : Elem) (_ : Bool) (x y _d : Nat) : Flagged := (if t.val y < t.val x then y else x, 0)
/-- VMAX. -/
def fVmax (t : Elem) (_ : Bool) (x y _d : Nat) : Flagged := (if t.val x < t.val y then y else x, 0)
/-- VABS. -/
def fVabs (t : Elem) (sat : Bool) (x _y _d : Nat) : Flagged := saturated t sat (if t.val x < 0 then -t.val x else t.val x)
/-- VNEG. -/
def fVneg (t : Elem) (sat : Bool) (x _y _d : Nat) : Flagged := saturated t sat (-t.val x)
/-- VAND. -/
def fVand (_ : Elem) (_ : Bool) (x y _d : Nat) : Flagged := (x &&& y, 0)
/-- VOR. -/
def fVor (_ : Elem) (_ : Bool) (x y _d : Nat) : Flagged := (x ||| y, 0)
/-- VXOR. -/
def fVxor (_ : Elem) (_ : Bool) (x y _d : Nat) : Flagged := (x ^^^ y, 0)
/-- VNOT. -/
def fVnot (t : Elem) (_ : Bool) (x _y _d : Nat) : Flagged := (x ^^^ (2 ^ t.w - 1), 0)
/-- VANDN. -/
def fVandn (t : Elem) (_ : Bool) (x y _d : Nat) : Flagged := (x &&& (y ^^^ (2 ^ t.w - 1)), 0)
/-- VSHL (R124). -/
def fVshl (t : Elem) (_ : Bool) (x y _d : Nat) : Flagged := (if y < t.w then x * 2 ^ y % 2 ^ t.w else 0, 0)
/-- VSHR (R124). -/
def fVshr (t : Elem) (_ : Bool) (x y _d : Nat) : Flagged := (if y < t.w then x / 2 ^ y else 0, 0)
/-- VSAR (R124): always of the signed value. -/
def fVsar (t : Elem) (_ : Bool) (x y _d : Nat) : Flagged := wrapped t (signed x t.w / (2 ^ min y (t.w - 1) : Nat))
/-- VROT (R124). -/
def fVrot (t : Elem) (_ : Bool) (x y _d : Nat) : Flagged :=
  (x * 2 ^ (y % t.w) % 2 ^ t.w + x / 2 ^ (t.w - y % t.w), 0)
/-- VCLZ (R125). -/
def fVclz (t : Elem) (_ : Bool) (x _y _d : Nat) : Flagged := (leadingZeros t.w x, 0)
/-- VFFS (R125). -/
def fVffs (t : Elem) (_ : Bool) (x _y _d : Nat) : Flagged := (lowestSet t.w x, 0)
/-- VPOPC (R125). -/
def fVpopc (t : Elem) (_ : Bool) (x _y _d : Nat) : Flagged := (popcount t.w x, 0)
/-- VBREV (R125). -/
def fVbrev (t : Elem) (_ : Bool) (x _y _d : Nat) : Flagged := (reverseBits t.w x, 0)
/-- VMOV. -/
def fVmov (_ : Elem) (_ : Bool) (x _y _d : Nat) : Flagged := (x, 0)

/-! ## Major 0x09 -/

/-- VADD (R122). -/
def execVadd (e : Bool) (d a b : BitVec 6) (x y : Bool) (s : State) : Result :=
  elemWord (.vadd e d a b x y) d a (regElem b) s fVadd
/-- VADDC (R123). -/
def execVaddc (e : Bool) (d a b : BitVec 6) (x y : Bool) (s : State) : Result :=
  elemWord (.vaddc e d a b x y) d a (regElem b) s fVaddc
/-- VSUB (R122). -/
def execVsub (e : Bool) (d a b : BitVec 6) (x y : Bool) (s : State) : Result :=
  elemWord (.vsub e d a b x y) d a (regElem b) s fVsub
/-- VSUBB (R123). -/
def execVsubb (e : Bool) (d a b : BitVec 6) (x y : Bool) (s : State) : Result :=
  elemWord (.vsubb e d a b x y) d a (regElem b) s fVsubb
/-- VMUL (R122). -/
def execVmul (e : Bool) (d a b : BitVec 6) (x y : Bool) (s : State) : Result :=
  elemWord (.vmul e d a b x y) d a (regElem b) s fVmul
/-- VMULH (R122). -/
def execVmulh (e : Bool) (d a b : BitVec 6) (x y : Bool) (s : State) : Result :=
  elemWord (.vmulh e d a b x y) d a (regElem b) s fVmulh
/-- VMAD (R122). -/
def execVmad (e : Bool) (d a b : BitVec 6) (x y : Bool) (s : State) : Result :=
  elemWord (.vmad e d a b x y) d a (regElem b) s fVmad
/-- VMIN (R122). -/
def execVmin (e : Bool) (d a b : BitVec 6) (x y : Bool) (s : State) : Result :=
  elemWord (.vmin e d a b x y) d a (regElem b) s fVmin
/-- VMAX (R122). -/
def execVmax (e : Bool) (d a b : BitVec 6) (x y : Bool) (s : State) : Result :=
  elemWord (.vmax e d a b x y) d a (regElem b) s fVmax
/-- VAND (R122). -/
def execVand (e : Bool) (d a b : BitVec 6) (x y : Bool) (s : State) : Result :=
  elemWord (.vand e d a b x y) d a (regElem b) s fVand
/-- VOR (R122). -/
def execVor (e : Bool) (d a b : BitVec 6) (x y : Bool) (s : State) : Result :=
  elemWord (.vor e d a b x y) d a (regElem b) s fVor
/-- VXOR (R122). -/
def execVxor (e : Bool) (d a b : BitVec 6) (x y : Bool) (s : State) : Result :=
  elemWord (.vxor e d a b x y) d a (regElem b) s fVxor
/-- VANDN (R122). -/
def execVandn (e : Bool) (d a b : BitVec 6) (x y : Bool) (s : State) : Result :=
  elemWord (.vandn e d a b x y) d a (regElem b) s fVandn
/-- VSHL (R124). -/
def execVshl (e : Bool) (d a b : BitVec 6) (x y : Bool) (s : State) : Result :=
  elemWord (.vshl e d a b x y) d a (regElem b) s fVshl
/-- VSHR (R124). -/
def execVshr (e : Bool) (d a b : BitVec 6) (x y : Bool) (s : State) : Result :=
  elemWord (.vshr e d a b x y) d a (regElem b) s fVshr
/-- VSAR (R124). -/
def execVsar (e : Bool) (d a b : BitVec 6) (x y : Bool) (s : State) : Result :=
  elemWord (.vsar e d a b x y) d a (regElem b) s fVsar
/-- VROT (R124). -/
def execVrot (e : Bool) (d a b : BitVec 6) (x y : Bool) (s : State) : Result :=
  elemWord (.vrot e d a b x y) d a (regElem b) s fVrot
/-- VABS (R122). -/
def execVabs (e : Bool) (d a : BitVec 6) (x : Bool) (s : State) : Result :=
  elemWord (.vabs e d a x) d a noElem s fVabs
/-- VNEG (R122). -/
def execVneg (e : Bool) (d a : BitVec 6) (x : Bool) (s : State) : Result :=
  elemWord (.vneg e d a x) d a noElem s fVneg
/-- VNOT (R122). -/
def execVnot (e : Bool) (d a : BitVec 6) (x : Bool) (s : State) : Result :=
  elemWord (.vnot e d a x) d a noElem s fVnot
/-- VCLZ (R125). -/
def execVclz (e : Bool) (d a : BitVec 6) (x : Bool) (s : State) : Result :=
  elemWord (.vclz e d a x) d a noElem s fVclz
/-- VFFS (R125). -/
def execVffs (e : Bool) (d a : BitVec 6) (x : Bool) (s : State) : Result :=
  elemWord (.vffs e d a x) d a noElem s fVffs
/-- VPOPC (R125). -/
def execVpopc (e : Bool) (d a : BitVec 6) (x : Bool) (s : State) : Result :=
  elemWord (.vpopc e d a x) d a noElem s fVpopc
/-- VBREV (R125). -/
def execVbrev (e : Bool) (d a : BitVec 6) (x : Bool) (s : State) : Result :=
  elemWord (.vbrev e d a x) d a noElem s fVbrev
/-- VMOV (R122). -/
def execVmov (e : Bool) (d a : BitVec 6) (x : Bool) (s : State) : Result :=
  elemWord (.vmov e d a x) d a noElem s fVmov
/-- VSEL (R126): the guard selects; the lanes of em are written. -/
def execVsel (e : Bool) (d a b : BitVec 6) (x y : Bool) (s : State) : Result :=
  .next (packWord (.vsel e d a b x y) s fun p t =>
    t.writeLanes (pairTy p.ty) p.em d.toNat fun l =>
      p.laneVal (pairTy p.ty) (if p.guard.getLsbD l then a.toNat else b.toNat) l)

/-! ## Immediates: majors 0x0A and 0x0B -/

/-- VADD, VI form (R127). -/
def execVaddImm (e : Bool) (d a : BitVec 6) (i : BitVec 10) (s : State) : Result :=
  elemWord (.vaddImm e d a i) d a (immElem i) s fVadd
/-- VMUL, VI form (R127). -/
def execVmulImm (e : Bool) (d a : BitVec 6) (i : BitVec 10) (s : State) : Result :=
  elemWord (.vmulImm e d a i) d a (immElem i) s fVmul
/-- VAND, VI form (R127). -/
def execVandImm (e : Bool) (d a : BitVec 6) (i : BitVec 10) (s : State) : Result :=
  elemWord (.vandImm e d a i) d a (immElem i) s fVand
/-- VOR, VI form (R127). -/
def execVorImm (e : Bool) (d a : BitVec 6) (i : BitVec 10) (s : State) : Result :=
  elemWord (.vorImm e d a i) d a (immElem i) s fVor
/-- VXOR, VI form (R127). -/
def execVxorImm (e : Bool) (d a : BitVec 6) (i : BitVec 10) (s : State) : Result :=
  elemWord (.vxorImm e d a i) d a (immElem i) s fVxor
/-- VSHL, VI form (R124, R127). -/
def execVshlImm (e : Bool) (d a : BitVec 6) (i : BitVec 6) (s : State) : Result :=
  elemWord (.vshlImm e d a i) d a (countElem i) s fVshl
/-- VSHR, VI form (R124, R127). -/
def execVshrImm (e : Bool) (d a : BitVec 6) (i : BitVec 6) (s : State) : Result :=
  elemWord (.vshrImm e d a i) d a (countElem i) s fVshr
/-- VSAR, VI form (R124, R127). -/
def execVsarImm (e : Bool) (d a : BitVec 6) (i : BitVec 6) (s : State) : Result :=
  elemWord (.vsarImm e d a i) d a (countElem i) s fVsar
/-- VLI (R128). -/
def execVli (e : Bool) (d : BitVec 6) (i : BitVec 19) (s : State) : Result :=
  vecWord32 (.vli e d i) d.toNat s fun _ _ => wrapNat i.toInt 32

/-! ## Lanes and bit fields: major 0x0C -/

/-- VLANE (R131). -/
def execVlane (e : Bool) (d : BitVec 6) (s : State) : Result :=
  vecWord32 (.vlane e d) d.toNat s fun _ l => l
/-- VSHF (R131). -/
def execVshf (e : Bool) (d a b : BitVec 6) (x y : Bool) (s : State) : Result :=
  vecWord32 (.vshf e d a b x y) d.toNat s fun p l =>
    (lane (p.v a.toNat) ((lane (p.v b.toNat) l).toNat % 64)).toNat
/-- VSTEP (R131). -/
def execVstep (e : Bool) (d a b : BitVec 6) (x : Bool) (s : State) : Result :=
  vecWord32 (.vstep e d a b x) d.toNat s fun p l => (lane (p.v a.toNat) ((l + (p.s b.toNat).toNat) % 64)).toNat
/-- VBCAST (R131). -/
def execVbcast (e : Bool) (d a b : BitVec 6) (x : Bool) (s : State) : Result :=
  vecWord32 (.vbcast e d a b x) d.toNat s fun p _ => (lane (p.v a.toNat) ((p.s b.toNat).toNat % 64)).toNat
/-- VGET (R131): writes s[d] whatever em and the guard hold (R132). -/
def execVget (e : Bool) (d a b : BitVec 6) (x : Bool) (s : State) : Result :=
  scalarWord (.vget e d a b x) d s fun p => (lane (p.v a.toNat) ((p.s b.toNat).toNat % 64)).zeroExtend 64

/-- pos of a bit-field operand (R133). -/
def fieldPos (y : Nat) : Nat := bitsAt y 0 5
/-- len of a bit-field operand. -/
def fieldLen (y : Nat) : Nat := min (bitsAt y 8 6) 32

/-- VBFX of x under y; sg: the field is sign-extended from bit len − 1 (R133). -/
def bitFieldExtract (sg : Bool) (x y : Nat) : Nat :=
  let len := fieldLen y
  let f := bitsAt x (fieldPos y) len
  if len = 0 then 0 else if sg then wrapNat (signed f len) 32 else f

/-- VBFI of x into d under y (R133). -/
def bitFieldInsert (x y d : Nat) : Nat :=
  let pos := fieldPos y
  let m := min (fieldLen y) (32 - pos)
  d % 2 ^ pos + x % 2 ^ m * 2 ^ pos + d / 2 ^ (pos + m) * 2 ^ (pos + m)

/-- VBFX (R133). -/
def execVbfx (e : Bool) (d a b : BitVec 6) (x y : Bool) (s : State) : Result :=
  vecWord32 (.vbfx e d a b x y) d.toNat s fun p l =>
    bitFieldExtract (elemTy p.ty).sg (lane (p.v a.toNat) l).toNat (lane (p.v b.toNat) l).toNat
/-- VBFI (R133). -/
def execVbfi (e : Bool) (d a b : BitVec 6) (x y : Bool) (s : State) : Result :=
  vecWord32 (.vbfi e d a b x y) d.toNat s fun p l =>
    bitFieldInsert (lane (p.v a.toNat) l).toNat (lane (p.v b.toNat) l).toNat (lane (p.v d.toNat) l).toNat

/-! ## Predicates: major 0x0D -/

/-- A predicate word: the active lanes of p[d] receive f (R129, R130). -/
def predWord (i : Instr) (d : BitVec 5) (s : State) (f : Pack → Nat → Bool) : Result :=
  .next (packWord i s fun p t => t.setP d.toNat (mergeMask p.active (ofMask (f p)) (p.p d.toNat)))

/-- The conditions eq ne lt le gt ge on values (R56). -/
def condInt (c : Nat) (x y : Int) : Bool :=
  match c with
  | 0 => decide (x = y)
  | 1 => decide (x ≠ y)
  | 2 => decide (x < y)
  | 3 => decide (x ≤ y)
  | 4 => decide (y < x)
  | _ => decide (y ≤ x)

/-- VCMP: the condition holds of every element (R129). -/
def execVcmp (e : Bool) (d : BitVec 5) (a b : BitVec 6) (x y : Bool) (c : BitVec 3) (s : State) : Result :=
  predWord (.vcmp e d a b x y c) d s fun p l =>
    let t := elemTy p.ty
    (List.range t.n).all fun j =>
      condInt c.toNat (t.val (p.elem t a.toNat l j)) (t.val (p.elem t b.toNat l j))

/-- The operations of PLOG (R130). -/
def plogOp (o : Nat) (x y : Bool) : Bool :=
  match o with
  | 0 => x && y
  | 1 => x || y
  | 2 => x != y
  | 3 => x && !y
  | 4 => !x
  | 5 => x
  | 6 => true
  | _ => false

/-- PLOG (R130). -/
def execPlog (e : Bool) (d a b : BitVec 5) (o : BitVec 3) (s : State) : Result :=
  predWord (.plog e d a b o) d s fun p l =>
    plogOp o.toNat ((p.p a.toNat).getLsbD l) ((p.p b.toNat).getLsbD l)

end Sys2Proof.Machine
end

