-- ==== Sys2Proof/Machine/VFloat.lean ====
section
/-! DEFINITION. Floating-point vector words, special functions and FFLAGS (R135-R150). -/

namespace Sys2Proof.Machine

/-- The element format of a floating-point word (R135): TY 9 FP16, TY 10 BF16, every other TY FP32. -/
def fpFmt (ty : Nat) : Fmt := if ty = 9 then fp16 else if ty = 10 then bf16 else fp32
/-- Elements per register. -/
def fpCount (ty : Nat) : Nat := if ty = 9 || ty = 10 then 2 else 1
/-- The packed types flush (R84, R136). -/
def fpFlush (ty : Nat) : Bool := ty == 9 || ty == 10
/-- The rounding direction: RM for .f32, RNE for the packed types (R136). -/
def Pack.fpRm (p : Pack) : Nat := if fpFlush p.ty then rmRNE else p.rm

/-- Element j of lane l of v[r] in the format of TY. -/
def Pack.fpElem (p : Pack) (r l j : Nat) : Nat :=
  let w := (fpFmt p.ty).magBits + 1
  bitsAt (lane (p.v r) l).toNat (w * j) w

/-- A floating-point word (R140): element j of lane l of d receives g of the pack, the lane and the element. -/
def fpWord (i : Instr) (d : BitVec 6) (s : State) (g : Pack → Nat → Nat → Flagged) : Result :=
  vecWord i (fun _ => false) d.toNat s fun p l =>
    joinElems (g p l) ((fpFmt p.ty).magBits + 1) 0 (fpCount p.ty)

/-- A binary word of format, direction and flushing. -/
def fpWord2 (i : Instr) (d a b : BitVec 6) (s : State) (g : Fmt → Nat → Bool → Nat → Nat → Flagged) : Result :=
  fpWord i d s fun p l j =>
    g (fpFmt p.ty) p.fpRm (fpFlush p.ty) (p.fpElem a.toNat l j) (p.fpElem b.toNat l j)

/-- A unary word. -/
def fpWord1 (i : Instr) (d a : BitVec 6) (s : State) (g : Fmt → Nat → Bool → Nat → Flagged) : Result :=
  fpWord i d s fun p l j => g (fpFmt p.ty) p.fpRm (fpFlush p.ty) (p.fpElem a.toNat l j)

/-- FADD (R140). -/
def execFadd (e : Bool) (d a b : BitVec 6) (x y : Bool) (s : State) : Result :=
  fpWord2 (.fadd e d a b x y) d a b s (fun f rm fl => fpAdd f rm fl false)
/-- FSUB (R140). -/
def execFsub (e : Bool) (d a b : BitVec 6) (x y : Bool) (s : State) : Result :=
  fpWord2 (.fsub e d a b x y) d a b s (fun f rm fl => fpAdd f rm fl true)
/-- FMUL (R140). -/
def execFmul (e : Bool) (d a b : BitVec 6) (x y : Bool) (s : State) : Result :=
  fpWord2 (.fmul e d a b x y) d a b s (fpMul)
/-- FMIN (R141). -/
def execFmin (e : Bool) (d a b : BitVec 6) (x y : Bool) (s : State) : Result :=
  fpWord2 (.fmin e d a b x y) d a b s (fun f _ fl => fpMinMax f fl false)
/-- FMAX (R141). -/
def execFmax (e : Bool) (d a b : BitVec 6) (x y : Bool) (s : State) : Result :=
  fpWord2 (.fmax e d a b x y) d a b s (fun f _ fl => fpMinMax f fl true)
/-- FDIV (R144). -/
def execFdiv (e : Bool) (d a b : BitVec 6) (x y : Bool) (s : State) : Result :=
  fpWord2 (.fdiv e d a b x y) d a b s (fpDiv)
/-- FABS (R140). -/
def execFabs (e : Bool) (d a : BitVec 6) (x : Bool) (s : State) : Result :=
  fpWord1 (.fabs e d a x) d a s (fun f _ _ c => (f.mag c, 0))
/-- FNEG (R140). -/
def execFneg (e : Bool) (d a : BitVec 6) (x : Bool) (s : State) : Result :=
  fpWord1 (.fneg e d a x) d a s (fun f _ _ c => (f.signed (!f.sign c) (f.mag c), 0))
/-- FCLASS (R143). -/
def execFclass (e : Bool) (d a : BitVec 6) (x : Bool) (s : State) : Result :=
  fpWord1 (.fclass e d a x) d a s (fun f _ _ c => (2 ^ fpClass f c, 0))
/-- FRINT (R142). -/
def execFrint (e : Bool) (d a : BitVec 6) (x : Bool) (s : State) : Result :=
  fpWord1 (.frint e d a x) d a s (fpRint)
/-- FRCP (R147). -/
def execFrcp (e : Bool) (d a : BitVec 6) (x : Bool) (s : State) : Result :=
  fpWord1 (.frcp e d a x) d a s (fun f _ => fpRcp f)
/-- FRSQ (R147). -/
def execFrsq (e : Bool) (d a : BitVec 6) (x : Bool) (s : State) : Result :=
  fpWord1 (.frsq e d a x) d a s (fun f _ => fpRsq f)
/-- FSQRT (R147). -/
def execFsqrt (e : Bool) (d a : BitVec 6) (x : Bool) (s : State) : Result :=
  fpWord1 (.fsqrt e d a x) d a s (fun f _ => fpSqrt f)

/-- FCMP (R145): the relation holds of every element; each active element raises its own IV. -/
def execFcmp (e : Bool) (d : BitVec 5) (a b : BitVec 6) (x y : Bool) (c : BitVec 3) (s : State) : Result :=
  .next (packWord (.fcmp e d a b x y c) s fun p t =>
    let r := fun l j => fpCmp (fpFmt p.ty) (fpFlush p.ty) c.toNat (p.fpElem a.toNat l j) (p.fpElem b.toNat l j)
    let js := List.range (fpCount p.ty)
    (t.setP d.toNat (mergeMask p.active (ofMask fun l => js.all fun j => (r l j).1) (p.p d.toNat))).raiseFlags
      (flagsOver p.active fun l => js.foldl (fun acc j => acc ||| (r l j).2) 0))

/-- FFMA (R146): .fma, .fms, .fnma, .fnms. -/
def execFfma (e : Bool) (d a b : BitVec 6) (x y : Bool) (o : BitVec 2) (s : State) : Result :=
  fpWord (.ffma e d a b x y o) d s fun p l j =>
    fpFma (fpFmt p.ty) p.fpRm (fpFlush p.ty) (decide (2 ≤ o.toNat)) (o.toNat % 2 == 1)
      (p.fpElem a.toNat l j) (p.fpElem b.toNat l j) (p.fpElem d.toNat l j)

/-- A special function (R147); the free values of the word stand in for a rounding that no enclosure decides (log 12). -/
def specialWord (i : Instr) (d a : BitVec 6) (s : State) (g : Fmt → Bool → Nat → Nat → Flagged) : Result :=
  .next (issueWord i s fun u t =>
    let p := u.pk
    let r := fun l => joinElems
      (fun j => g (fpFmt p.ty) (fpFlush p.ty) (Config.freeValue (u.free + 2 * l + j)).toNat (p.fpElem a.toNat l j))
      ((fpFmt p.ty).magBits + 1) 0 (fpCount p.ty)
    .done { t with
      pk := (t.pk.writeLanes false p.active d.toNat fun l => (r l).1).raiseFlags (flagsOver p.active fun l => (r l).2)
      free := u.free + 128 })

/-- FEXP2 (R147). -/
def execFexp2 (e : Bool) (d a : BitVec 6) (x : Bool) (s : State) : Result :=
  specialWord (.fexp2 e d a x) d a s (fpExp2)
/-- FLOG2 (R147). -/
def execFlog2 (e : Bool) (d a : BitVec 6) (x : Bool) (s : State) : Result :=
  specialWord (.flog2 e d a x) d a s (fpLog2)
/-- FSIN (R147). -/
def execFsin (e : Bool) (d a : BitVec 6) (x : Bool) (s : State) : Result :=
  specialWord (.fsin e d a x) d a s (fun f fl => fpSinCos f fl false)
/-- FCOS (R147). -/
def execFcos (e : Bool) (d a : BitVec 6) (x : Bool) (s : State) : Result :=
  specialWord (.fcos e d a x) d a s (fun f fl => fpSinCos f fl true)
/-- FTANH (R147). -/
def execFtanh (e : Bool) (d a : BitVec 6) (x : Bool) (s : State) : Result :=
  specialWord (.ftanh e d a x) d a s (fpTanh)

/-- FFLAGS (R148): returns the flags, clears those of s[b] and sets those of s[a]. -/
def execFflags (e : Bool) (d a b : BitVec 6) (s : State) : Result :=
  .next (packWord (.fflags e d a b) s fun p t =>
    { t.setS d.toNat (p.fflags.zeroExtend 64) with
      fflags := (p.fflags &&& ~~~((p.s b.toNat).truncate 8)) ||| (p.s a.toNat).truncate 8 })

end Sys2Proof.Machine
end

