-- ==== Sys2Proof/Machine/Conv.lean ====
section
/-! DEFINITION. Conversion, packing and quantisation words (R151-R165). -/

namespace Sys2Proof.Machine

/-- A float type code (R46). -/
def isFloatTy (ty : Nat) : Bool := ty == 8 || ty == 9 || ty == 10

/-- conv(x) of CVT from type a to type d under RM and SAT (R155). -/
def cvtElem (a d rm : Nat) (sat : Bool) (x : Nat) : Flagged :=
  let ta := elemTy a
  let td := elemTy d
  if isFloatTy a then
    if isFloatTy d then fpConv (fpFmt a) (fpFmt d) rm x
    else
      let r := fpToInt (fpFmt a) rm td.w td.sg x
      (wrapNat r.1 td.w, r.2)
  else if isFloatTy d then intToFp (fpFmt d) rm (ta.val x)
  else saturated td sat (ta.val x)

/-- CVT (R154, R155): elements beyond those of the source become 0. -/
def execCvt (e : Bool) (d a t : BitVec 6) (x : Bool) (s : State) : Result :=
  vecWord (.cvt e d a t x) (fun _ => pairTy t.toNat) d.toNat s fun p l =>
    let ta := elemTy p.ty
    let td := elemTy t.toNat
    joinElems (fun j => if j < ta.n then cvtElem p.ty t.toNat p.rm p.sat (p.elem ta a.toNat l j) else (0, 0)) td.w 0 td.n

/-- Element part of a register lane in a stored format, as FP32 (R156). -/
def unpkElem (fmt part x : Nat) : Flagged :=
  match fmt with
  | 1 => widen e4m3 (bitsAt x (8 * part) 8)
  | 2 => widen e5m2 (bitsAt x (8 * part) 8)
  | 3 => decodeElem 3 (bitsAt x (4 * part) 4) 127 0x80
  | 6 => widen bf16 (bitsAt x (16 * part) 16)
  | _ => widen fp16 (bitsAt x (16 * part) 16)

/-- UNPK (R156). -/
def execUnpk (e : Bool) (d a t : BitVec 6) (x : Bool) (q : BitVec 3) (s : State) : Result :=
  vecWord (.unpk e d a t x q) (fun _ => false) d.toNat s fun p l =>
    unpkElem t.toNat q.toNat (lane (p.v a.toNat) l).toNat

/-- Lane l of the inputs x0 to x3 of PACK4 and PACK4H (R157). -/
def pack4In (p : Pack) (a b : BitVec 5) (l j : Nat) : Nat :=
  (lane (p.v (if j < 2 then 2 * a.toNat + j else 2 * b.toNat + (j - 2))) l).toNat

/-- PACK2 to format f (R157). -/
def pack2Word (i : Instr) (d a b : BitVec 6) (f : Fmt) (s : State) : Result :=
  vecWord i (fun _ => false) d.toNat s fun p l =>
    joinElems (fun j => fpConv fp32 f p.rm (lane (p.v (if j = 0 then a.toNat else b.toNat)) l).toNat) 16 0 2
/-- PACK4 to format f (R157). -/
def pack4Word (i : Instr) (d : BitVec 6) (a b : BitVec 5) (f : Fmt) (s : State) : Result :=
  vecWord i (fun _ => false) d.toNat s fun p l =>
    joinElems (fun j => fpConv fp32 f rmRNA (pack4In p a b l j)) 8 0 4
/-- PACK4H into the low or the high half (R157); the other half is kept. -/
def pack4hWord (i : Instr) (d : BitVec 6) (a b : BitVec 5) (hi : Bool) (s : State) : Result :=
  vecWord i (fun _ => false) d.toNat s fun p l =>
    let old := (lane (p.v d.toNat) l).toNat
    let r := joinElems (fun j => quantE2m1 (pack4In p a b l j) (p.x l).toNat) 4 0 4
    (if hi then old % 2 ^ 16 + r.1 * 2 ^ 16 else old / 2 ^ 16 * 2 ^ 16 + r.1, r.2)

/-- PACK2.BF16 (R157). -/
def execPack2Bf16 (e : Bool) (d a b : BitVec 6) (x y : Bool) (s : State) : Result :=
  pack2Word (.pack2Bf16 e d a b x y) d a b bf16 s
/-- PACK2.F16 (R157). -/
def execPack2F16 (e : Bool) (d a b : BitVec 6) (x y : Bool) (s : State) : Result :=
  pack2Word (.pack2F16 e d a b x y) d a b fp16 s
/-- PACK4.E4M3 (R157). -/
def execPack4E4m3 (e : Bool) (d : BitVec 6) (a b : BitVec 5) (x y : Bool) (s : State) : Result :=
  pack4Word (.pack4E4m3 e d a b x y) d a b e4m3 s
/-- PACK4.E5M2 (R157). -/
def execPack4E5m2 (e : Bool) (d : BitVec 6) (a b : BitVec 5) (x y : Bool) (s : State) : Result :=
  pack4Word (.pack4E5m2 e d a b x y) d a b e5m2 s
/-- PACK4H.LO (R157). -/
def execPack4hLo (e : Bool) (d : BitVec 6) (a b : BitVec 5) (x y : Bool) (s : State) : Result :=
  pack4hWord (.pack4hLo e d a b x y) d a b false s
/-- PACK4H.HI (R157). -/
def execPack4hHi (e : Bool) (d : BitVec 6) (a b : BitVec 5) (x y : Bool) (s : State) : Result :=
  pack4hWord (.pack4hHi e d a b x y) d a b true s

/-! ## Scales and X -/

/-- The active lanes of lane group g (R159). -/
def groupLanes (m : DWord) (g : Nat) : List Nat := (lanesOf m).filter fun l => l / 32 == g

/-- The magnitude of a finite FP32 encoding in units of 2^-149. -/
def mag149 (c : Nat) : Nat := (fp32.num c).units.natAbs

/-- The largest finite magnitude of a BSCALE format (R160). -/
def bscaleMax (fmt : Nat) : Nat := match fmt with
  | 1 => 448
  | 2 => 57344
  | 3 => 6
  | _ => 127

/-- The smallest scale s ≥ k, of n tried, with amax ≤ M × 2^(s − 127); amax in units of 2^-149. -/
def smallestScale (amax M k : Nat) : Nat → Nat
  | 0 => k
  | n + 1 => if amax ≤ M * 2 ^ (k + 22) then k else smallestScale amax M (k + 1) n

/-- NaN or ±Inf. -/
def notFinite (c : Nat) : Bool := fp32.isNaN c || fp32.isInf c

/-- The scale of a group of FP32 values (R160). -/
def bscaleGroup (fmt : Nat) (xs : List Nat) : Nat :=
  if xs.any notFinite then 0xFF
  else
    let amax := (xs.map mag149).foldl max 0
    if amax = 0 then 127 else smallestScale amax (bscaleMax fmt) 0 254

/-- BSCALE (R160). -/
def execBscale (e : Bool) (d a t : BitVec 6) (x : Bool) (s : State) : Result :=
  vecWord (.bscale e d a t x) (fun _ => false) d.toNat s fun p l =>
    let val := fun l => (lane (p.v a.toNat) l).toNat
    (bscaleGroup t.toNat ((groupLanes p.active (l / 32)).map val),
      flagIf (fp32.isInf (val l) || fp32.isSNaN (val l)) flagIV)

/-- A number in units of 2^-160. -/
def Num.units160 (x : Num) : Int :=
  let a : Int := (x.m <<< (x.e + 160).toNat : Nat)
  if x.neg then -a else a

/-- Lowest index of C, from i, whose entry times m is nearest to x; best so far b at distance k (R162). -/
def qcbNearest (x : Int) (m : Num) (i b k : Nat) : List Nat → Nat
  | [] => b
  | c :: cs =>
    let d := (x - (mulNum (fp16.num c) m).units160).natAbs
    if d < k then qcbNearest x m (i + 1) i d cs else qcbNearest x m (i + 1) b k cs

/-- The index of a value under scale m (BF16 code): for m = 0 it is that of t = 0 (R162). -/
def qcbIndex (C : List Nat) (m x : Nat) : Nat :=
  if m = 0 then qcbNearest 0 ⟨false, 1, 0, false⟩ 0 0 (2 ^ 600) C
  else qcbNearest (fp32.num x).units160 (bf16.num m) 0 0 (2 ^ 600) C

/-- m := rup(amax, BF16), before the clamp (R162). -/
def qcbScale (amax : Nat) : Nat := (roundTo bf16 rmRUP false ⟨false, amax, -149, false⟩).1

/-- A lane of QCB: its group's values and its own (R162). -/
def qcbLane (C xs : List Nat) (x : Nat) : Flagged :=
  if xs.any notFinite then (0x7FC00000, flagIf (notFinite x) flagIV)
  else
    let m0 := qcbScale ((xs.map mag149).foldl max 0)
    let past := m0 == 0x7F80
    let m := if past then 0x7F7F else m0
    let i := qcbIndex C m x
    let v := (mulNum (fp16.num (C[i]?.getD 0)) (bf16.num m)).units160
    (m * 2 ^ 16 + i,
      flagIf (v != (fp32.num x).units160) flagNX ||| flagIf (past && decide (mag149 0x7F7F0000 < mag149 x)) flagSAT)

/-- CODETABLE: AUX the codebook, DETAIL the offending entry (R362). -/
def codeTable (reason k detail : Nat) : FaultRec := { precise cCODETABLE reason with aux := dw k, detail := detail }

/-- The codebook k of a team; empty list when it is empty (R151). -/
def Team.book (t : Team) (k : Nat) : List Nat := (Tab.get [] t.cb k).map (·.toNat)

/-- QCB (R162): an empty codebook raises CODETABLE with reason 3, unless no lane is active (R100). -/
def execQcb (e : Bool) (d a : BitVec 6) (k : BitVec 2) (x : Bool) (s : State) : Result :=
  .next (issueWord (.qcb e d a k x) s fun u t =>
    let C := u.tm.book k.toNat
    if C.isEmpty && u.pk.active != 0 then .trap (codeTable 3 k.toNat 0xFF)
    else
      let p := u.pk
      let val := fun l => (lane (p.v a.toNat) l).toNat
      let f := fun l => qcbLane C ((groupLanes p.active (l / 32)).map val) (val l)
      .done { t with pk :=
        (t.pk.writeLanes false p.active d.toNat fun l => (f l).1).raiseFlags (flagsOver p.active fun l => (f l).2) })

/-- XSET (R161). -/
def execXset (e : Bool) (d a b : BitVec 6) (x y : Bool) (s : State) : Result :=
  .next (packWord (.xset e d a b x y) s fun p t =>
    let xb := fun l => fpConv fp32 e4m3 rmRNA (lane (p.v b.toNat) l).toNat
    let f := fun l =>
      let c := quantE2m1 (lane (p.v a.toNat) l).toNat (xb l).1
      (((xb l).1 * 2 ^ 8 + c.1, (xb l).2 ||| c.2) : Flagged)
    let u := (t.writeLanes false p.active d.toNat fun l => (f l).1).raiseFlags (flagsOver p.active fun l => (f l).2)
    (lanesOf p.active).foldl (fun q l => q.setX l (BitVec.ofNat 8 (xb l).1)) u)

/-- The lowest offending entry of a codebook, from i (R163, R270): no finite entry lies below −Inf. -/
def badEntry (i : Nat) : List Nat → Option Nat
  | [] => none
  | c :: cs =>
    if fp16.isNaN c || fp16.isInf c then some i
    else match cs with
      | [] => none
      | c' :: _ =>
        if fp16.isNaN c' || fp16.isInf c' then some (if fp16.isInf c' && fp16.sign c' then i else i + 1)
        else if cmpNum (fp16.num c) (fp16.num c') == -1 then badEntry (i + 1) cs else some i

/-- CBLD (R163): reads lanes 0 to 7 whatever em and the guard hold. -/
def execCbld (e : Bool) (k : BitVec 2) (a : BitVec 6) (x : Bool) (s : State) : Result :=
  .next (issueWord (.cbld e k a x) s fun u t =>
    let c := (List.range 16).map fun j => bitsAt (lane (u.pk.v a.toNat) (j / 2)).toNat (16 * (j % 2)) 16
    match badEntry 0 c with
    | some i => .trap (codeTable 2 k.toNat i)
    | none => .done { t with tm := { t.tm with cb := Tab.set [] t.tm.cb k.toNat (c.map (BitVec.ofNat 16)) } })

end Sys2Proof.Machine
end

