-- ==== Sys2Proof/Machine/Lattice.lean ====
section
/-! DEFINITION. The LAT8 lattice: ranking, the nearest-point rule, and the lattice words (R166-R185). -/

namespace Sys2Proof.Machine

/-! ## Ranking (R167-R169), in doubled coordinates -/

/-- The values of a doubled coordinate, ascending. -/
def zValues : List Int := [-6, -5, -4, -3, -2, -1, 0, 1, 2, 3, 4, 5, 6]

/-- z mod 2. -/
def zParity (z : Int) : Nat := (z % 2).toNat
/-- z². -/
def zSq (z : Int) : Nat := z.natAbs * z.natAbs

/-- The counts of one more coordinate of parity p: the list holds, for s = 0 to 3, the polynomial whose coefficient m is
count(·, m, s, p) in 24 bits. -/
def countStep (p : Nat) (t : List Nat) : List Nat :=
  (List.range 4).map fun (s : Nat) =>
    ((zValues.filter fun z => zParity z == p).foldl
      (fun (acc : Nat) z => acc + ((t[(((s : Int) + z) % 4).toNat]?.getD 0) <<< (24 * zSq z) : Nat)) 0) % 2 ^ (24 * 41)

/-- The counts for n remaining coordinates of parity p. -/
def countLevel (p : Nat) : Nat → List Nat
  | 0 => [1, 0, 0, 0]
  | n + 1 => countStep p (countLevel p n)

/-- The counts for 0 to 7 remaining coordinates. -/
def countTable (p : Nat) : List (List Nat) := (List.range 8).map (countLevel p)
/-- Even coordinates. -/
def countEven : List (List Nat) := countTable 0
/-- Odd coordinates. -/
def countOdd : List (List Nat) := countTable 1

/-- count(8 − n, m, s, p) of R169. -/
def latCount (n m : Nat) (s : Int) (p : Nat) : Nat :=
  let t := (if p = 0 then countEven else countOdd)[n]?.getD []
  bitsAt (t[(s % 4).toNat]?.getD 0) (24 * m) 24

/-- The values that coordinate k may take (R169). -/
def zAllowed (m : Nat) (p : Option Nat) : List Int :=
  zValues.filter fun z => decide (zSq z ≤ m) && (match p with
    | none => true
    | some q => zParity z == q)

/-- The value chosen in order, and the rest of r, with n coordinates to follow. -/
def pickCoord (n m : Nat) (s : Int) : List Int → Nat → Int × Nat
  | [], r => (0, r)
  | z :: zs, r =>
    let t := latCount n (m - zSq z) (s + z) (zParity z)
    if r < t then (z, r) else pickCoord n m s zs (r - t)

/-- The coordinates of rank r, n of them. -/
def unrankFrom : Nat → Nat → Int → Option Nat → Nat → List Int
  | 0, _, _, _, _ => []
  | n + 1, m, s, p, r =>
    let q := pickCoord n m s (zAllowed m p) r
    q.1 :: unrankFrom n (m - zSq q.1) (s + q.1) (some (zParity q.1)) q.2

/-- The shells (R167): squared norm ÷ 2 and first code. -/
def shellFirst : List Nat := [0, 1, 241, 2401, 9121, 26641]

/-- The index of the shell whose range holds a code. -/
def shellOf (code : Nat) : Nat := ((shellFirst.drop 1).filter fun f => decide (f ≤ code)).length

/-- unrank of R169, doubled: z = 2y. -/
def unrank (code : Nat) : List Int :=
  unrankFrom 8 (8 * shellOf code) 0 none (code - shellFirst[shellOf code]?.getD 0)

/-- Points before coordinates z among those that share what precedes them (R169). -/
def rankFrom : Nat → Int → Option Nat → List Int → Nat
  | _, _, _, [] => 0
  | m, s, p, z :: zs =>
    ((zAllowed m p).filter fun z' => decide (z' < z)).foldl
      (fun acc z' => acc + latCount zs.length (m - zSq z') (s + z') (zParity z')) 0
    + rankFrom (m - zSq z) (s + z) (some (zParity z)) zs

/-- Σ z_i². -/
def sumSq (z : List Int) : Nat := (z.map zSq).foldl (· + ·) 0

/-- rank of R169, of doubled coordinates. -/
def rankPoint (z : List Int) : Nat := shellFirst[sumSq z / 8]?.getD 0 + rankFrom (sumSq z) 0 none z

/-- A reserved code (R90). -/
def latReserved (code : Nat) : Bool := decide (0xDE31 ≤ code) && decide (code ≤ 0xFFFE)
/-- NaL. -/
def codeNaL : Nat := 0xFFFF

/-! ## The nearest-point rule (R171), over integers: x_i is X_i ÷ D, D even -/

/-- x rounded to an integer, ties away from zero. -/
def roundAway (X : Int) (D : Nat) : Int :=
  let r : Int := ((2 * X.natAbs + D) / (2 * D) : Nat)
  if X < 0 then -r else r

/-- The lowest index from i whose distance is maximal: best so far b at distance k. -/
def farthest (i b k : Nat) : List Nat → Nat
  | [] => b
  | d :: ds => if k < d then farthest (i + 1) i d ds else farthest (i + 1) b k ds

/-- d8near of R171. -/
def d8near (X : List Int) (D : Nat) : List Int :=
  let f := X.map fun x => roundAway x D
  if f.foldl (· + ·) 0 % 2 = 0 then f
  else
    let err := (X.zip f).map fun (q : Int × Int) => (q.1 - q.2 * (D : Int)).natAbs
    let j := farthest 1 0 (err[0]?.getD 0) (err.drop 1)
    f.mapIdx fun i v => if i = j then (if v * (D : Int) ≤ X[j]?.getD 0 then v + 1 else v - 1) else v

/-- 4 D² dist2 of the point with doubled coordinates z. -/
def dist2 (z X : List Int) (D : Nat) : Nat := ((z.zip X).map fun (q : Int × Int) => (q.1 * (D : Int) - 2 * q.2).natAbs ^ 2).foldl (· + ·) 0

/-- nearest of R171, doubled. -/
def nearestPoint (X : List Int) (D : Nat) : List Int :=
  let a := (d8near X D).map (2 * ·)
  let b := (d8near (X.map fun x => x - (D / 2 : Nat)) D).map (2 * · + 1)
  if dist2 a X D ≤ dist2 b X D then a else b

/-- The smallest k, of n tried, with |x|² × 4^(−k) ≤ 9/2; N is 2 Σ X_i². -/
def shrinkFrom (N D k : Nat) : Nat → Nat
  | 0 => k
  | n + 1 => if N ≤ 9 * (D * D) * 4 ^ k then k else shrinkFrom N D (k + 1) n

/-- The unit of the exact coordinates: 2^-276, below which no FP32 value times 2^(127 − e) has bits. -/
def latUnit : Nat := 2 ^ 276

/-- quantise of R171: X in units of latUnit, with pads already 0. -/
def quantise (X : List Int) (pm : Nat) : Flagged :=
  let y := nearestPoint X latUnit
  let past := decide (40 < sumSq y)
  let k := if past then shrinkFrom (2 * (X.map fun x => x.natAbs ^ 2).foldl (· + ·) 0) latUnit 1 600 else 0
  let z := if past then nearestPoint X (latUnit * 2 ^ k) else y
  let nx := ((z.zip X).mapIdx fun i (q : Int × Int) => !pm.testBit i && q.1 * (latUnit : Int) != 2 * q.2).any id
  (rankPoint z, flagIf past flagLATOVF ||| flagIf nx flagNX)

/-- A finite FP32 value × 2^(127 − e), in units of latUnit. -/
def latScaled (c e : Nat) : Int :=
  let n := fp32.num c
  let a : Int := (n.m <<< (n.e + 127 - e + 276).toNat : Nat)
  if n.neg then -a else a

/-- Quantising eight FP32 values under scale e and pad mask pm (R176): NaN, Inf and a scale of 0xFF give NaL. -/
def latQuantise (us : List Nat) (e pm : Nat) : Flagged :=
  let live := (us.mapIdx fun i u => (i, u)).filter fun q => !pm.testBit q.1
  if e = 0xFF || live.any fun q => notFinite q.2 then
    (codeNaL, flagIf (e == 0xFF || live.any fun q => fp32.isInf q.2 || fp32.isSNaN q.2) flagIV)
  else quantise (us.mapIdx fun i u => if pm.testBit i then 0 else latScaled u e) pm

/-- decode(y_i, e) of R89 for a doubled coordinate. -/
def latDecode (z : Int) (e : Nat) : Flagged := decodeScaled ⟨decide (z < 0), z.natAbs, -1, false⟩ e

/-- Coordinate i of a code under scale e and pad mask pm, as DLAT writes it (R177). -/
def latElem (code e pm i : Nat) : Flagged :=
  if pm.testBit i then (0, 0)
  else if code = codeNaL then (fp32.cnan, 0)
  else latDecode ((unrank code)[i]?.getD 0) e

/-! ## The words -/

/-- E of a control word (R173). -/
def ctlE (c : Nat) : Nat := bitsAt c 0 8
/-- PM. -/
def ctlPM (c : Nat) : Nat := bitsAt c 8 8
/-- H. -/
def ctlH (c : Nat) : Nat := bitsAt c 16 1
/-- K. -/
def ctlK (c : Nat) : Nat := bitsAt c 17 3

/-- Half h of a code register's lane. -/
def halfOf (x h : Nat) : Nat := bitsAt x (16 * h) 16
/-- x with half h replaced. -/
def withHalf (x h v : Nat) : Nat := if h = 0 then x / 2 ^ 16 * 2 ^ 16 + v else x % 2 ^ 16 + v * 2 ^ 16

/-- Lane l of v[r] as a number. -/
def Pack.vl (p : Pack) (r l : Nat) : Nat := (lane (p.v r) l).toNat
/-- Lane l of the block of eight registers number a (R174). -/
def Pack.block8 (p : Pack) (a : BitVec 3) (l : Nat) : List Nat := (List.range 8).map fun i => p.vl (8 * a.toNat + i) l

/-- LATTICE_CODE with reason 1 for the lowest active lane whose code is reserved (R182). -/
def latFault (m : DWord) (code : Nat → Option Nat) : Option FaultRec :=
  (lanesOf m).findSome? fun l =>
    match code l with
    | some c => if latReserved c then some { precise cLATTICE 1 with lane := l, detail := c } else none
    | none => none

/-- A lattice word that reads a code in the lanes where code answers one (R182), then has its effect. -/
def latWord (i : Instr) (s : State) (code : Pack → Nat → Option Nat) (f : Pack → Pack → Pack) : Result :=
  .next (issueWord i s fun u t =>
    match latFault u.pk.active (code u.pk) with
    | some r => .trap r
    | none => .done { t with pk := f u.pk t.pk })

/-- Each active lane of v[d] receives f, with its flags. -/
def Pack.putLanes (t : Pack) (m : DWord) (d : Nat) (f : Nat → Flagged) : Pack :=
  (t.writeLanes false m d fun l => (f l).1).raiseFlags (flagsOver m fun l => (f l).2)

/-- QLAT (R176). -/
def execQlat (e : Bool) (d : BitVec 6) (a : BitVec 3) (b : BitVec 6) (x y : Bool) (s : State) : Result :=
  .next (packWord (.qlat e d a b x y) s fun p t =>
    t.putLanes p.active d.toNat fun l =>
      let c := p.vl b.toNat l
      let r := latQuantise (p.block8 a l) (ctlE c) (ctlPM c)
      (withHalf (p.vl d.toNat l) (ctlH c) r.1, r.2))

/-- The code that a control word selects in lane l of v[a]. -/
def Pack.codeAt (p : Pack) (a b l : Nat) : Nat := halfOf (p.vl a l) (ctlH (p.vl b l))

/-- DLAT (R177). -/
def execDlat (e : Bool) (d : BitVec 3) (a b : BitVec 6) (x y : Bool) (s : State) : Result :=
  latWord (.dlat e d a b x y) s (fun p l => some (p.codeAt a.toNat b.toNat l)) fun p t =>
    (List.range 8).foldl
      (fun t i => t.putLanes p.active (8 * d.toNat + i) fun l =>
        latElem (p.codeAt a.toNat b.toNat l) (ctlE (p.vl b.toNat l)) (ctlPM (p.vl b.toNat l)) i) t

/-- A lane of LPUT (R178): the new code register and flags. -/
def lputLane (old c w : Nat) : Flagged :=
  let e := ctlE c
  let pm := ctlPM c
  let k := ctlK c
  let code := halfOf old (ctlH c)
  if pm.testBit k || code = codeNaL then (old, 0)
  else
    let r : Flagged :=
      if e = 0xFF || notFinite w then (codeNaL, flagIf (e == 0xFF || fp32.isInf w || fp32.isSNaN w) flagIV)
      else
        quantise ((unrank code).mapIdx fun i z =>
          if pm.testBit i then 0 else if i = k then latScaled w e else z * (2 ^ 275 : Nat)) pm
    (withHalf old (ctlH c) r.1, r.2)

/-- A lane that LPUT leaves unchanged: element K is a pad, or the old code is NaL. -/
def lputSkips (old c : Nat) : Bool := (ctlPM c).testBit (ctlK c) || halfOf old (ctlH c) == codeNaL

/-- LPUT (R178). A register none of whose lanes is written stays as it is, freed ones included (log 15). -/
def execLput (e : Bool) (d a b : BitVec 6) (x y : Bool) (s : State) : Result :=
  latWord (.lput e d a b x y) s
    (fun p l =>
      let c := p.vl b.toNat l
      if (ctlPM c).testBit (ctlK c) then none else some (p.codeAt d.toNat b.toNat l))
    fun p t => t.putLanes (maskOf ((lanesOf p.active).filter fun l => !lputSkips (p.vl d.toNat l) (p.vl b.toNat l))) d.toNat
      fun l => lputLane (p.vl d.toNat l) (p.vl b.toNat l) (p.vl a.toNat l)

/-- The smallest e from k, of n tried, with q × 4^(127 − e) ≤ 9/2; Q is q in units of 2^-298 (R179). -/
def lscaleFrom (Q k : Nat) : Nat → Option Nat
  | 0 => none
  | n + 1 => if 2 * Q ≤ 9 * 2 ^ 44 * 4 ^ k then some k else lscaleFrom Q (k + 1) n

/-- A lane of LSCALE (R179). -/
def lscaleLane (us : List Nat) (c : Nat) : Flagged :=
  let Q := ((us.mapIdx fun i u => if (ctlPM c).testBit i || notFinite u then 0 else mag149 u ^ 2)).foldl (· + ·) 0
  let need := if Q = 0 then (0, 0) else match lscaleFrom Q 0 255 with
    | some k => (k, 0)
    | none => (254, flagSAT)
  (c / 2 ^ 8 * 2 ^ 8 + max (ctlE c) need.1, need.2)

/-- LSCALE (R179). -/
def execLscale (e : Bool) (d : BitVec 6) (a : BitVec 3) (b : BitVec 6) (x y : Bool) (s : State) : Result :=
  .next (packWord (.lscale e d a b x y) s fun p t =>
    t.putLanes p.active d.toNat fun l => lscaleLane (p.block8 a l) (p.vl b.toNat l))

/-- The result of LSHELL for a code (R180). -/
def lshellCode (code : Nat) : Nat :=
  if code = codeNaL then 0xFFFFFFFF
  else
    let z := unrank code
    sumSq z / 4 + 2 ^ 8 * zParity (z[0]?.getD 0)

/-- LSHELL (R180). -/
def execLshell (e : Bool) (d a b : BitVec 6) (x y : Bool) (s : State) : Result :=
  latWord (.lshell e d a b x y) s (fun p l => some (p.codeAt a.toNat b.toNat l)) fun p t =>
    t.putLanes p.active d.toNat fun l => (lshellCode (p.codeAt a.toNat b.toNat l), 0)

/-- LGET (R180): a pad coordinate reads +0.0 whatever the code holds. -/
def execLget (e : Bool) (d a b : BitVec 6) (x y : Bool) (s : State) : Result :=
  latWord (.lget e d a b x y) s
    (fun p l =>
      let c := p.vl b.toNat l
      if (ctlPM c).testBit (ctlK c) then none else some (p.codeAt a.toNat b.toNat l))
    fun p t => t.putLanes p.active d.toNat fun l =>
      let c := p.vl b.toNat l
      latElem (p.codeAt a.toNat b.toNat l) (ctlE c) (ctlPM c) (ctlK c)

/-- LPACK's code for doubled coordinates (R181). -/
def lpackCode (z : List Int) : Flagged :=
  if z.all (fun v => zParity v == zParity (z[0]?.getD 0)) && z.foldl (· + ·) 0 % 4 == 0 && decide (sumSq z ≤ 40) then
    (rankPoint z, 0)
  else (codeNaL, flagIV)

/-- LPACK (R181). -/
def execLpack (e : Bool) (d a b : BitVec 6) (x y : Bool) (s : State) : Result :=
  .next (packWord (.lpack e d a b x y) s fun p t =>
    t.putLanes p.active d.toNat fun l =>
      lpackCode ((List.range 8).map fun i => signed (bitsAt (p.vl (if i < 4 then a.toNat else b.toNat) l) (8 * (i % 4)) 8) 8))

/-- The halves that LCHK selects hold valid codes (R180). -/
def lchkLane (sel x : Nat) : Bool :=
  (sel == 1 || decide (halfOf x 0 ≤ 0xDE30)) && (sel == 0 || decide (halfOf x 1 ≤ 0xDE30))

/-- LCHK (R180). -/
def execLchk (e : Bool) (d : BitVec 5) (a : BitVec 6) (q : BitVec 2) (x : Bool) (s : State) : Result :=
  predWord (.lchk e d a q x) d s fun p l => lchkLane q.toNat (p.vl a.toNat l)

end Sys2Proof.Machine
end

