-- ==== Sys2Proof/Machine/Pending.lean ====
section
/-! DEFINITION. Operations of the wait counters (R96): how they start, how their results land, how they end, and the packs
that HOLD releases (R113). -/

namespace Sys2Proof.Machine

/-- A threshold of HOLD is met (R113). -/
def underThreshold (n f : Nat) : Bool := f == 31 || decide (n ≤ f)

/-- A pack waiting in HOLD whose condition holds is ready at the next word (R113). -/
def Pack.wakeHold (p : Pack) (now : Nat) : Pack :=
  match p.wait with
  | .hold l s t m c =>
    if p.status = .waiting && underThreshold (p.counter .ld) l && underThreshold (p.counter .st) s
        && underThreshold (p.counter .tl) t && underThreshold (p.counter .mx) m && underThreshold (p.counter .dc) c
    then p.wake now else p
  | _ => p

/-- The issuing pack starts a counted operation; ev: the events that it needs, by its number. -/
def State.startOp (s : State) (mk : Nat → Op) (ev : Nat → List Instr) : State :=
  { s with
    pk := { s.pk with ops := s.pk.ops ++ [mk s.serial] }
    serial := s.serial + 1
    agenda := s.agenda ++ ev s.serial }

/-- Operation op of a pack. -/
def Pack.op? (p : Pack) (op : Nat) : Option Op := p.ops.find? fun o => o.id == op

/-- Operation op of pack p, changed by f. -/
def State.onOp (s : State) (p : PackId) (op : Nat) (f : Op → Op) : State :=
  s.onPack p fun k => { k with ops := replaceFirst (fun o => o.id == op) f k.ops }

/-- Operation op of pack p ends: the pack takes its result, the counter falls, and HOLD may be met (R96, R113). A pack that is to be
saved stays at its HOLD, which it evaluates again once resumed (R114). -/
def State.endOp (s : State) (p : PackId) (op : Nat) (f : Op → Pack → Pack) : State :=
  s.onPack p fun k =>
    match k.op? op with
    | none => k
    | some o =>
      let q : Pack := { f o k with ops := k.ops.filter fun q => q.id != op }
      if k.maySave (s.teamOf k) s.gtc then q else q.wakeHold s.gtc

/-- What follows the end of an operation of a pack that waits for its counters: EXIT, a trap, a save (R96, R108, R360). -/
def State.afterOp (s : State) (p : PackId) : State :=
  match s.pack? p with
  | none => s
  | some k =>
    if !k.drained then s
    else if k.status = .trapping then s.push [.trapEntry p]
    else if k.status = .exiting || k.status = .halted then s.push [.packRetire p]
    else if k.status = .saving || k.saveDue then s.push [.packSave p]
    else s

/-- The lanes of ok of v[d] receive x. A faulting lane keeps its old value, or reads zero in a register that was freed (R52,
R198, R219); a register none of whose lanes is written stays as it is, freed ones included (log 15). -/
def Pack.landV (p : Pack) (ok : DWord) (d : Nat) (x : Lanes) : Pack := p.writeV ok d x

/-- A register of the lane values of a list, 0 elsewhere. -/
def lanesFrom (vs : List (Nat × Nat)) (shift : Nat) : Lanes :=
  ofLanes fun l => match vs.find? fun e => e.1 == l with
    | some e => BitVec.ofNat 32 (e.2 >>> shift)
    | none => 0

/-- The lane results of an operation land in its vector destinations, the second one of a pair taking bits 63:32. -/
def Pack.landOp (p : Pack) (o : Op) : Pack :=
  let ok := maskOf (o.got.map (·.1))
  match o.vdst with
  | [] => p
  | [d] => p.landV ok d (lanesFrom o.got 0)
  | d :: e :: _ => (p.landV ok d (lanesFrom o.got 0)).landV ok e (lanesFrom o.got 32)

/-- The scalar result of an operation lands. -/
def Pack.landS (p : Pack) (o : Op) : Pack :=
  match o.sdst, o.got with
  | d :: _, (_, v) :: _ => p.setS d (dw v)
  | _, _ => p

/-- A team whose packs have all retired may exit now (R350). -/
def State.exitCheck (s : State) (t : TeamId) : State :=
  let ps := s.packsOf t
  if !ps.isEmpty && ps.all (fun p => p.status == .retired) then s.push [.teamExit t] else s

/-- Packs of a team that have stopped to be saved try again (R96, R324). -/
def State.saveCheck (s : State) (t : TeamId) : State :=
  let gang := ((s.team? t).map Team.gangTeams).getD []
  s.push (((gang.map s.packsOf).flatten.filter fun p => p.status == .saving || p.status == .saved).map fun p => .packSave p.id)

end Sys2Proof.Machine
end

