-- ==== Sys2Proof/Machine/Gate.lean ====
section
/-! DEFINITION. Tile storage as its users reach it (R189-R191, R198, R201), and gates: 16 bytes of tile memory on which packs
wait (R307-R312). -/

namespace Sys2Proof.Machine

/-! ## Handles and storage -/

/-- Handle n of a team. -/
def Team.handle (t : Team) (n : Nat) : Option Handle := Tab.get none t.handles n

/-- The storage of a handle, if it has not been released (R201). -/
def State.storage (s : State) (h : Handle) : Option Alloc :=
  (s.team? h.store).bind fun t => t.allocs.find? fun a => a.sid == h.sid

/-- What handle n of a team names: its storage, or the reason of TILE_HANDLE, 1 not allocated, 3 released (R198). -/
def State.tileOf (s : State) (t : Team) (n : Nat) : Except Nat (Handle × Alloc) :=
  match t.handle n with
  | none => .error 1
  | some h => match s.storage h with
    | none => .error 3
    | some a => .ok (h, a)

/-- The bytes of a tile. -/
def Handle.bytes (h : Handle) : Nat := h.rows * h.cols * h.eb

/-- n bytes of a tile from tile byte o. -/
def State.tileBytes (s : State) (h : Handle) (a : Alloc) (o n : Nat) : List Byte :=
  match s.team? h.store with
  | none => []
  | some t => (List.range n).map fun i => Tab.get 0 t.tmem (1024 * a.start + o + i)

/-- Bytes written into a tile from tile byte o. -/
def State.tileWrite (s : State) (h : Handle) (a : Alloc) (o : Nat) (bs : List Byte) : State :=
  s.onTeam h.store fun t => { t with tmem := memWrite t.tmem (1024 * a.start + o) bs }

/-- The storage record of a handle, changed by f. -/
def State.onAlloc (s : State) (h : Handle) (f : Alloc → Alloc) : State :=
  s.onTeam h.store fun t => { t with allocs := replaceFirst (fun a => a.sid == h.sid) f t.allocs }

/-- The row of a coordinate (R190). -/
def coordRow (c : Nat) : Nat := bitsAt c 16 16
/-- The column. -/
def coordCol (c : Nat) : Nat := bitsAt c 0 16

/-- The tile byte of the 4 bytes at a coordinate, if they lie in the shape (R198). -/
def Handle.offset (h : Handle) (c : Nat) : Option Nat :=
  if h.rows ≤ coordRow c || h.cols < coordCol c + 4 / h.eb then none
  else some ((coordRow c * h.cols + coordCol c) * h.eb)

/-- A 4-byte access touches a poisoned 32-byte line (R369). -/
def Alloc.poisoned (a : Alloc) (o : Nat) : Bool := a.poison.contains (o / 32) || a.poison.contains ((o + 3) / 32)

/-- AUX of TILE_HANDLE: the handle, and the coordinate of the lowest faulting lane (R362). -/
def tileAux (n c : Nat) : DWord := dw (n * 2 ^ 58 + c % 2 ^ 32)

/-- TILE_HANDLE against the lanes listed, lowest first; nothing when there is none. -/
def Pack.deferTile (p : Pack) (reason n : Nat) (lanes : List (Nat × Nat)) : Pack :=
  match lanes with
  | [] => p
  | (l, c) :: _ => p.defer p.pc cTILE reason l 0 (tileAux n c) 0 (lanes.map fun q => (q.1, 0))

/-- ECC_UNCORR 3 against the lanes listed (R362, R369). -/
def Pack.deferTileEcc (p : Pack) (n : Nat) (lanes : List Nat) : Pack :=
  match lanes with
  | [] => p
  | l :: _ => p.defer p.pc cECC 3 l 0 (maskOf lanes) n (lanes.map fun q => (q, 0))

/-- TILE_HANDLE against all 64 lanes (R199, R200, R204). -/
def Pack.deferTileAll (p : Pack) (reason n c : Nat) : Pack := p.deferAll p.pc cTILE reason 0 (tileAux n c) 0

/-! ## Gates (R307, R308): a gate is the number of its 16 bytes -/

/-- EXP. -/
def gEXP (g : Nat) : Nat := bitsAt g 0 32
/-- ARR. -/
def gARR (g : Nat) : Nat := bitsAt g 32 32
/-- EXP0. -/
def gEXP0 (g : Nat) : Nat := bitsAt g 64 32
/-- PH. -/
def gPH (g : Nat) : Nat := bitsAt g 96 1
/-- ERR. -/
def gERR (g : Nat) : Bool := g.testBit 97
/-- KIND: 0 bytes, 1 arrivals. -/
def gKIND (g : Nat) : Nat := bitsAt g 98 1
/-- ECH. -/
def gECH (g : Nat) : Nat := bitsAt g 99 3
/-- RSN. -/
def gRSN (g : Nat) : Nat := bitsAt g 102 8
/-- ERRC. -/
def gERRC (g : Nat) : Nat := bitsAt g 110 8
/-- A usable gate. -/
def gateOk (g : Nat) : Bool := bitsAt g 120 8 == 0x6A && bitsAt g 118 2 == 0

/-- A gate with its counts and phase replaced. -/
def gateWith (g exp arr ph : Nat) : Nat := g / 2 ^ 97 * 2 ^ 97 + ph * 2 ^ 96 + gEXP0 g * 2 ^ 64 + arr * 2 ^ 32 + exp

/-- One event (R258, R308); none when a count would pass 2^32 − 1 (R310). -/
def gateEvent (g n : Nat) (isexp : Bool) : Option Nat :=
  let exp := if isexp then gEXP g + n else gEXP g
  let arr := if isexp then gARR g else gARR g + n
  if 2 ^ 32 ≤ exp || 2 ^ 32 ≤ arr then none
  else if 1 ≤ exp && decide (exp ≤ arr) then some (gateWith g (gEXP0 g) (arr - exp) (1 - gPH g))
  else some (gateWith g exp arr (gPH g))

/-- The gate that GINIT writes from s[v] (R311). -/
def gateInit (v : Nat) : Nat :=
  0x6A * 2 ^ 120 + bitsAt v 32 1 * 2 ^ 98 + bitsAt v 0 32 * 2 ^ 64 + bitsAt v 0 32

/-- A gate marked by an error of channel ch (R302). -/
def gateError (g ch code rsn : Nat) : Nat :=
  bitsAt g 118 10 * 2 ^ 118 + code % 256 * 2 ^ 110 + rsn % 256 * 2 ^ 102 + ch % 8 * 2 ^ 99 + gKIND g * 2 ^ 98 + 2 ^ 97
    + g % 2 ^ 97

/-- The gate at offset off of handle h of a team, or the reason of R310: its handle, its storage and its 16 bytes. -/
def State.gateAt (s : State) (t : Team) (h off : Nat) : Except Nat (Handle × Alloc × Nat) :=
  match t.handle h with
  | none => .error 1
  | some hd =>
    if off % 16 ≠ 0 || hd.bytes < off + 16 then .error 2
    else match s.storage hd with
      | none => .error 3
      | some a => .ok (hd, a, ofBytes (s.tileBytes hd a off 16))

/-- The gate at offset off of handle h, which must be usable. -/
def State.liveGate (s : State) (t : Team) (h off : Nat) : Except Nat (Handle × Alloc × Nat) :=
  match s.gateAt t h off with
  | .error r => .error r
  | .ok q => if gateOk q.2.2 then .ok q else .error 4

/-- A waiting pack takes the trap of its pending record at the word where it waits (R312, R356). -/
def State.trapWaiting (s : State) (p : PackId) (f : Pack → Pack) : State :=
  (s.onPack p fun k =>
    let k := f k
    { k with status := .trapping, wait := .none, due := { tpc := k.pc } }).push [.trapEntry p]

/-- What a gate says to a pack that waits on phase ph: it waits on, goes on, or takes a trap (R312). -/
inductive GateTest where
  | wait
  | go
  | trap (f : Pack → Pack)

/-- The LIFT_CMD record of a gate (R312, R362). -/
def Pack.deferLift (p : Pack) (h off g : Nat) : Pack :=
  p.deferAll p.pc cLIFT (gRSN g) 0 (tileAux h off) (gERRC g * 2 ^ 8 + gECH g)

/-- The test that GWAIT makes of its gate. -/
def State.testGate (s : State) (t : Team) (h off ph : Nat) : GateTest :=
  match s.liveGate t h off with
  | .error r => .trap fun k => k.deferTileAll r h off
  | .ok (_, _, g) => if gERR g then .trap fun k => k.deferLift h off g else if gPH g = ph then .wait else .go

/-- Every pack that waits on a gate tests it again (R258, R312). -/
def State.testGates (s : State) : State :=
  s.allPacks.foldl (fun s k =>
    match k.status, k.wait with
    | .waiting, .gate h off ph =>
      (match s.testGate (s.teamOf k) h off ph with
        | .wait => s
        | .go => s.onPack k.id fun k => k.wake s.gtc
        | .trap f => s.trapWaiting k.id f)
    | _, _ => s) s

end Sys2Proof.Machine
end

