-- ==== Sys2Proof/Machine/Tile.lean ====
section
/-! DEFINITION. Tile memory: allocation and the tile words (R186-R206). TFREE stands with the lift words, whose commands it
looks at. -/

namespace Sys2Proof.Machine

/-! ## Budgets and the tile table -/

/-- The granules that n bytes take (R189). -/
def granulesFor (n : Nat) : Nat := (n + 1023) / 1024

/-- The runs of granules of a team that are not free. -/
def Team.busyRuns (t : Team) : List (Nat × Nat) := t.allocs.map (fun a => (a.start, a.len)) ++ t.clearing

/-- The lowest granule from k, of n tried, where len granules are free in a budget of b (R189: first-fit). -/
def firstFit (busy : List (Nat × Nat)) (b len k : Nat) : Nat → Option Nat
  | 0 => none
  | n + 1 =>
    if b < k + len then none
    else if busy.all fun r => decide (k + len ≤ r.1) || decide (r.1 + r.2 ≤ k) then some k
    else firstFit busy b len (k + 1) n

/-- Entries of a core's tile table in use (R188): one for each handle whose storage lies on the core, and one more on its
own core for each level-1 handle. -/
def State.tableUse (s : State) (core : Nat) : Nat :=
  ((s.allTeams.filter fun t => t.status == .resident).map fun t =>
    (t.handles.map fun e => match e.2 with
      | none => 0
      | some h =>
        (if (s.storage h).isSome && (s.team? h.store).any (fun m => m.core == core) then 1 else 0)
          + (if h.store ≠ t.id && t.core == core then 1 else 0)).foldl (· + ·) 0).foldl (· + ·) 0

/-! ## Allocation (R191-R197) -/

/-- LV of a shape descriptor. -/
def descLV (x : Nat) : Nat := bitsAt x 48 2
/-- M. -/
def descM (x : Nat) : Nat := bitsAt x 52 4
/-- B. -/
def descB (x : Nat) : Bool := x.testBit 50
/-- K. -/
def descK (x : Nat) : Nat := bitsAt x 56 6
/-- EB, as bytes. -/
def descEb (x : Nat) : Nat := 2 ^ bitsAt x 32 2
/-- ROWS. -/
def descRows (x : Nat) : Nat := bitsAt x 16 16
/-- COLS. -/
def descCols (x : Nat) : Nat := bitsAt x 0 16

/-- A malformed descriptor: status 4 (R194). -/
def descMalformed (x : Nat) : Bool :=
  bitsAt x 62 2 != 0 || x.testBit 51 || bitsAt x 34 14 != 0 || decide (2 ≤ descLV x) || bitsAt x 32 2 == 3
    || (!descB x && (descRows x == 0 || descCols x == 0 || decide (393216 < descRows x * descCols x * descEb x)
        || descK x != 0))
    || (descB x && (bitsAt x 0 34 != 0 || descLV x == 0))
    || (descLV x == 0 && descM x != 0)

/-- The member whose storage a descriptor names: the team itself at level 0 and for its own rank (R195). -/
def Team.storeOf (t : Team) (x : Nat) : TeamId := if descLV x = 0 || descM x = t.gangRank then t.id else t.member (descM x)

/-- A handle that is allocated at level 0 in its own team (R194 status 6). -/
def Handle.level0 (h : Handle) (t : TeamId) : Bool := h.store == t && !descB h.desc.toNat

/-- The table entries are free: one on the core of the storage, and for level 1 one on the team's own (R188). -/
def State.tableRoom (s : State) (t : Team) (m : Team) : Bool :=
  if m.id = t.id then decide (s.tableUse t.core < 256)
  else if m.core = t.core then decide (s.tableUse t.core + 2 ≤ 256)
  else decide (s.tableUse m.core < 256) && decide (s.tableUse t.core < 256)

/-- TALLOC of handle n by the current team with descriptor x: the status, and the state (R194). A member that has exited holds no
budget and no handle (R187, R201). -/
def State.talloc (s : State) (n x : Nat) : Nat × State :=
  let t := s.tm
  if (t.handle n).isSome then (1, s)
  else if descMalformed x then (4, s)
  else if descLV x = 1 && (t.gang == 0 || decide (t.gang ≤ descM x)) then (5, s)
  else
    match (s.team? (t.storeOf x)).filter fun m => m.status == .resident || m.status == .evicted with
    | none => (if descB x then 6 else if s.tableUse t.core < 256 then 3 else 2, s)
    | some m =>
      if descB x then
        match m.handle (descK x) with
        | none => (6, s)
        | some k =>
          if !k.level0 m.id then (6, s)
          else if !s.tableRoom t m then (2, s)
          else
            let d := dw (x % 2 ^ 63 + 2 ^ 63 + bitsAt k.desc.toNat 0 34)
            let h : Handle := { desc := d, store := m.id, sid := k.sid, rows := k.rows, cols := k.cols, eb := k.eb }
            (0, s.onTeam t.id fun t => { t with handles := Tab.set none t.handles n (some h) })
      else
        let len := granulesFor (descRows x * descCols x * descEb x)
        if !s.tableRoom t m then (2, s)
        else match firstFit m.busyRuns m.granules len 0 (m.granules + 1) with
          | none => (3, s)
          | some k =>
            let sid := s.serial
            let h : Handle := { desc := dw (x + 2 ^ 63), store := m.id, sid := sid, rows := descRows x, cols := descCols x, eb := descEb x }
            let s := { s with serial := s.serial + 1 }
            let s := s.onTeam m.id fun m => { m with allocs := m.allocs ++ [{ sid := sid, start := k, len := len, owner := t.id }] }
            (0, s.onTeam t.id fun t => { t with handles := Tab.set none t.handles n (some h) })

/-- Bytes of a budget with len granules from granule k cleared. -/
def clearGranules (m : Tab Byte) (k len : Nat) : Tab Byte :=
  m.filter fun e => decide (e.1 < 1024 * k) || decide (1024 * (k + len) ≤ e.1)

/-- Storage is released: its granules are cleared, and free once they are (R189, R201). A saved member's have been left behind with its
core: they are free at once. -/
def State.releaseStorage (s : State) (h : Handle) : State :=
  match s.storage h, s.team? h.store with
  | some a, some m =>
    let s := s.onTeam h.store fun m => { m with allocs := m.allocs.filter fun b => b.sid != a.sid }
    (if m.status = .evicted then s.onTeam h.store fun m => { m with tmem := clearGranules m.tmem a.start a.len }
      else (s.onTeam h.store fun m => { m with clearing := m.clearing ++ [(a.start, a.len)] }).push
        [.granuleClearDone m.core (m.gbase + a.start)]).testGates
  | _, _ => s

/-- Handle n of team t is released; its own storage, unless it is a binding, with it (R196, R201). -/
def State.releaseHandle (s : State) (t : Team) (n : Nat) : State :=
  match t.handle n with
  | none => s
  | some h =>
    let s := if descB h.desc.toNat then s else s.releaseStorage h
    s.onTeam t.id fun t => { t with handles := Tab.set none t.handles n none }

/-- A scalar word that also changes the machine: the value written to s[d], and the state. -/
def tileScalar (i : Instr) (d : BitVec 6) (s : State) (f : State → State → DWord × State) : Result :=
  .next (issueWord i s fun u t =>
    let r := f u t
    .done { r.2 with pk := r.2.pk.setS d.toNat r.1 })

/-! The accesses of a tile word are performed when it issues: a store or fill is seen by others at once, and accesses to tiles of two
cores keep the order of issue. DESIGN CHOICE, log 63. -/

/-- TALLOC (R194). -/
def execTalloc (e : Bool) (v h c : BitVec 6) (s : State) : Result :=
  tileScalar (.talloc e v h c) v s fun u t =>
    let r := t.talloc h.toNat (u.pk.s c.toNat).toNat
    (dw r.1, r.2)

/-- TINFO (R197): 0 for a handle that is not allocated. -/
def execTinfo (e : Bool) (v h : BitVec 6) (s : State) : Result :=
  tileScalar (.tinfo e v h) v s fun u t =>
    (match u.tm.handle h.toNat with
      | none => 0
      | some k => k.desc, t)

/-- TWPTR (R204). -/
def execTwptr (e : Bool) (v h : BitVec 6) (s : State) : Result :=
  .next (issueWord (.twptr e v h) s fun u t =>
    match u.tileOf u.tm h.toNat with
    | .error r => .done { t with pk := t.pk.deferTileAll r h.toNat 0 }
    | .ok (_, a) => .done { t with pk := t.pk.setS v.toNat (dw a.wp) })

/-! ## Access (R198-R200): performed when issued, retired by TILE_ACCESS_RETIRE -/

/-- The lanes of a coordinate register, active ones, with their coordinates. -/
def Pack.coords (p : Pack) (c : Nat) : List (Nat × Nat) := (lanesOf p.active).map fun l => (l, p.vl c l)

/-- TLD (R198). -/
def execTld (e : Bool) (v h c : BitVec 6) (l : Bool) (s : State) : Result :=
  .next (issueWord (.tld e v h c l) s fun u t =>
    let cs := u.pk.coords c.toNat
    let start := fun (t : State) (got : List (Nat × Nat)) =>
      t.startOp (fun id => { id := id, ctr := .tl, word := .tld e v h c l, fpc := u.pk.pc, mask := u.pk.active,
                             got := got, vdst := [v.toNat] })
        fun id => [.tileAccessRetire u.pk.id id]
    match u.tileOf u.tm h.toNat with
    | .error r => .done (start { t with pk := t.pk.deferTile r h.toNat cs } [])
    | .ok (hd, a) =>
      let ok := cs.filterMap fun q => (hd.offset q.2).map fun o => (q.1, o)
      let bad := cs.filter fun q => (hd.offset q.2).isNone
      let ecc := (ok.filter fun q => a.poisoned q.2).map (·.1)
      let got := (ok.filter fun q => !a.poisoned q.2).map fun q => (q.1, ofBytes (u.tileBytes hd a q.2 4))
      .done (start { t with pk := (t.pk.deferTile 2 h.toNat bad).deferTileEcc h.toNat ecc } got))

/-- TST (R198): lanes in ascending order. -/
def execTst (e : Bool) (v h c : BitVec 6) (l : Bool) (s : State) : Result :=
  .next (issueWord (.tst e v h c l) s fun u t =>
    let cs := u.pk.coords c.toNat
    let start := fun (t : State) =>
      t.startOp (fun id => { id := id, ctr := .tl, word := .tst e v h c l, fpc := u.pk.pc, mask := u.pk.active })
        fun id => [.tileAccessRetire u.pk.id id]
    match u.tileOf u.tm h.toNat with
    | .error r => .done (start { t with pk := t.pk.deferTile r h.toNat cs })
    | .ok (hd, a) =>
      let bad := cs.filter fun q => (hd.offset q.2).isNone
      let t := { t with pk := t.pk.deferTile 2 h.toNat bad }
      .done (start (cs.foldl (fun t q => match hd.offset q.2 with
        | none => t
        | some o => t.tileWrite hd a o (toBytes (u.pk.vl v.toNat q.1) 4)) t).testGates))

/-- TLDS (R199). -/
def execTlds (e : Bool) (v h c : BitVec 6) (s : State) : Result :=
  .next (issueWord (.tlds e v h c) s fun u t =>
    let co := (u.pk.s c.toNat).toNat % 2 ^ 32
    let start := fun (t : State) (got : List (Nat × Nat)) =>
      t.startOp (fun id => { id := id, ctr := .tl, word := .tlds e v h c, fpc := u.pk.pc, mask := u.pk.active,
                             got := got, sdst := [v.toNat] })
        fun id => [.tileAccessRetire u.pk.id id]
    match u.tileOf u.tm h.toNat with
    | .error r => .done (start { t with pk := t.pk.deferTileAll r h.toNat co } [])
    | .ok (hd, a) =>
      match hd.offset co with
      | none => .done (start { t with pk := t.pk.deferTileAll 2 h.toNat co } [])
      | some o =>
        if a.poisoned o then
          .done (start { t with pk := t.pk.deferAll t.pk.pc cECC 3 0 allOnes h.toNat } [])
        else .done (start t [(0, ofBytes (u.tileBytes hd a o 4))]))

/-- TFILL (R200): a line of the tile that it rewrites loses its poison (R369). -/
def execTfill (e : Bool) (v h : BitVec 6) (s : State) : Result :=
  .next (issueWord (.tfill e v h) s fun u t =>
    let start := fun (t : State) =>
      t.startOp (fun id => { id := id, ctr := .tl, word := .tfill e v h, fpc := u.pk.pc, mask := u.pk.active })
        fun id => [.tileAccessRetire u.pk.id id]
    match u.tileOf u.tm h.toNat with
    | .error r => .done (start { t with pk := t.pk.deferTileAll r h.toNat 0 })
    | .ok (hd, a) =>
      let bytes := ((List.range (hd.rows * hd.cols)).map fun _ => toBytes (u.pk.s v.toNat).toNat hd.eb).flatten
      .done (start (((t.tileWrite hd a 0 bytes).onAlloc hd fun a =>
        { a with poison := a.poison.filter fun k => decide (hd.bytes < 32 * k + 32) }).testGates)))

/-- TILE_ACCESS_RETIRE: the lanes of a TLD, or the scalar of a TLDS, are written, and tl falls (R96). -/
def execTileAccessRetire (p : PackId) (op : Nat) (s : State) : Result :=
  .next ((s.endOp p op fun o k => (k.landOp o).landS o).afterOp p)

/-- GRANULE_CLEAR_DONE: the cleared granules are zero, free again, and not poisoned (R189). -/
def execGranuleClearDone (core start : Nat) (s : State) : Result :=
  .next (match s.allTeams.find? fun t =>
      t.core == core && decide (t.gbase ≤ start) && decide (start < t.gbase + t.granules) && t.clearing.any fun r => t.gbase + r.1 == start with
    | none => s
    | some t => s.onTeam t.id fun t =>
      let k := start - t.gbase
      { t with
        clearing := t.clearing.filter fun r => r.1 != k
        tmem := match t.clearing.find? fun r => r.1 == k with
          | none => t.tmem
          | some r => clearGranules t.tmem k r.2 })

end Sys2Proof.Machine
end

