-- ==== Sys2Proof/Machine/Mem.lean ====
section
/-! DEFINITION. Global and private memory words (R207-R234): the lanes of a word, their checks, the lines they ask for, page
faults and replay, and requests through peer windows (R412-R415). -/

namespace Sys2Proof.Machine

/-! ## What a word accesses -/

/-- The kinds of access, by their code in a report (R378). -/
inductive MemKind where
  | load | store | atomic
deriving DecidableEq, Repr

/-- The kind of a memory word; every other counted word reads. -/
def memKind (i : Instr) : MemKind :=
  match i with
  | .st .. | .stp .. | .sts .. | .strl .. | .pflush .. => .store
  | .atom .. | .atomf .. | .cas .. | .cas64 .. | .atoms .. | .evsig .. => .atomic
  | _ => .load

/-- The access-kind code of a report (R378). -/
def MemKind.code : MemKind → Nat
  | .load => 0
  | .store => 1
  | .atomic => 2

/-- A word of private memory. -/
def isPrivateWord (i : Instr) : Bool :=
  match i with
  | .ldp .. | .stp .. => true
  | _ => false

/-- A word that accesses memory as one lane, with its faults against all 64 (R230). -/
def isOneLane (i : Instr) : Bool :=
  match i with
  | .lds .. | .sts .. | .evsig .. => true
  | _ => false

/-- The size of a load width (R56). -/
def loadSize (w : Nat) : Nat :=
  match w with
  | 0 | 4 => 1
  | 1 | 5 => 2
  | 2 => 4
  | _ => 8

/-- The bytes that one lane accesses; ty: TY at issue. -/
def memSize (ty : Nat) (i : Instr) : Nat :=
  match i with
  | .ld _ _ _ _ _ w | .ldp _ _ _ _ _ w => loadSize w.toNat
  | .lds _ _ _ _ w => loadSize w.toNat
  | .st _ _ _ _ _ w | .stp _ _ _ _ _ w => 2 ^ w.toNat
  | .sts _ _ _ _ w => 2 ^ w.toNat
  | .ldaq _ _ _ _ _ w _ | .strl _ _ _ _ _ w _ => if w.toNat = 1 then 8 else 4
  | .atom .. | .atoms .. => if pairTy ty then 8 else 4
  | .cas64 .. | .evsig .. => 8
  | _ => 4

/-- The value that a load delivers from the bytes read: sign-extended for .s8 and .s16 (R228, R230). -/
def loadValue (i : Instr) (raw : Nat) : Nat :=
  match i with
  | .ld _ _ _ _ _ w | .ldp _ _ _ _ _ w => if 4 ≤ w.toNat then wrapNat (signed raw (8 * loadSize w.toNat)) 32 else raw
  | .lds _ _ _ _ w => if 4 ≤ w.toNat then wrapNat (signed raw (8 * loadSize w.toNat)) 64 else raw
  | _ => raw

/-- PBASE of a pack (R223). -/
def privBase (t : Team) (p : Pack) : Nat := t.parea + (t.id.team * 32 + packIndex t p) * 64 * t.pmax

/-- The virtual address of byte x of thread l (R223). -/
def privAddr (t : Team) (p : Pack) (l x : Nat) : Nat := privBase t p + (64 * (x / 4) + l) * 4 + x % 4

/-- The pieces of a lane's access: part, address, bytes; two of 4 bytes for a private access of 8 (R223). -/
def pieces (t : Team) (p : Pack) (o : Op) (l a : Nat) : List (Nat × Nat × Nat) :=
  let n := memSize o.ty o.word
  if isPrivateWord o.word then
    if n = 8 then [(0, privAddr t p l a, 4), (1, privAddr t p l (a + 4), 4)] else [(0, privAddr t p l a, n)]
  else [(0, a, n)]

/-- The lines of a lane's access. -/
def laneLines (t : Team) (p : Pack) (o : Op) (q : Nat × Nat) : List Nat :=
  nubNat ((pieces t p o q.1 q.2).map fun c => c.2.1 / 128)

/-- The lane's first line, by which its events name it. -/
def laneLine (t : Team) (p : Pack) (o : Op) (q : Nat × Nat) : Nat := (laneLines t p o q)[0]?.getD 0

/-- The lanes of an operation that line names. -/
def lineLanes (t : Team) (p : Pack) (o : Op) (line : Nat) : List (Nat × Nat) :=
  o.addrs.filter fun q => laneLine t p o q == line

/-- The event by which an operation's lanes on a line are performed. -/
def lineEvent (p : PackId) (o : Op) (line : Nat) : Instr :=
  match memKind o.word with
  | .load => .homeLoad p o.id line
  | .store => .homeWrite p o.id line
  | .atomic => .homeAtomic p o.id line

/-- The event that completes an operation all of whose lanes are performed (R96). -/
def doneEvent (p : PackId) (o : Op) : Instr :=
  if o.ctr = .st then .storeWctReturn p o.id else .loadLaneReturn p o.id

/-- The events of an operation: one for each distinct line (R209), or its completion when no lane is left. -/
def opEvents (t : Team) (p : Pack) (o : Op) : List Instr :=
  match nubNat (o.addrs.map (laneLine t p o)) with
  | [] => [doneEvent p.id o]
  | ls => ls.map (lineEvent p.id o)

/-! ## Order on a line -/

/-- An operation still has to perform an access to one of the lines. -/
def Op.touches (t : Team) (p : Pack) (o : Op) (lines : List Nat) : Bool :=
  o.addrs.any fun q => (laneLines t p o q).any lines.contains

/-- The packs of a slot. -/
def State.slotPacks (s : State) (p : Pack) : List Pack :=
  let core := (s.teamOf p).core
  s.allPacks.filter fun k => k.slot == p.slot && (s.teamOf k).core == core && k.status != .vacant

/-- An earlier operation of the slot still has to perform an access to one of the lines: the requests of one slot to one
line reach the home in issue order, and a load is held behind its pack's store (R211, R233). -/
def State.lineHeld (s : State) (p : Pack) (o : Op) (lines : List Nat) : Bool :=
  (s.slotPacks p).any fun k =>
    let t := s.teamOf k
    k.ops.any fun q => decide (q.id < o.id) && (t.ctx == (s.teamOf p).ctx) && q.touches t k lines

/-- The events of the slot's operations that may have waited for the lines. -/
def State.releaseLines (s : State) (p : Pack) (lines : List Nat) : State :=
  s.push ((s.slotPacks p).map fun k =>
    let t := s.teamOf k
    ((k.ops.filter fun q => q.touches t k lines).map fun q =>
      ((nubNat (q.addrs.map (laneLine t k q))).filter lines.contains).map (lineEvent k.id q)).flatten).flatten

/-- The issuing pack has a store or an atomic that has yet to be performed on one of the lines: its own reads of them wait (R211). -/
def State.storeHeld (s : State) (lines : List Nat) : Bool :=
  s.pk.ops.any fun o => memKind o.word != .load && o.touches s.tm s.pk lines

/-! ## Lanes that end -/

/-- An operation without the lanes listed. -/
def Op.without (o : Op) (lanes : List Nat) : Op :=
  { o with addrs := o.addrs.filter fun q => !lanes.contains q.1 }

/-- An operation with only the lanes listed still to be performed. -/
def Op.only (o : Op) (lanes : List Nat) : Op :=
  { o with addrs := o.addrs.filter fun q => lanes.contains q.1, got := [], wct := 0, bad := [], failed := false }

/-- Lanes of an operation take a deferred fault (R219); for a one-lane word it is recorded against all 64 (R230). -/
def Pack.laneFaults (p : Pack) (o : Op) (cause reason : Nat) (lanes : List (Nat × Nat)) : Pack :=
  match lanes with
  | [] => p
  | (_, a) :: _ =>
    if isOneLane o.word then p.deferAll o.fpc cause reason (dw a) allOnes 0
    else p.deferLanes o.fpc (lanes.map fun q => (q.1, cause, reason, q.2))

/-- An operation whose lanes are all performed or ended is ready to complete. -/
def State.checkDone (s : State) (p : PackId) (op : Nat) : State :=
  match (s.pack? p).bind fun k => k.op? op with
  | none => s
  | some o => if o.addrs.isEmpty then s.push [doneEvent p o] else s

/-- An operation notes a fault of lanes, which is recorded when the operation ends. -/
def Op.noteFault (o : Op) (cause reason : Nat) (lanes : List (Nat × Nat)) : Op :=
  { o with bad := o.bad ++ lanes.map fun q => (q.1, cause, reason, q.2) }

/-- The faults that the lanes of an operation have met join the pending record, each cause and reason once (R359). -/
def Pack.landFaults (o : Op) (p : Pack) : Pack :=
  match o.bad with
  | [] => p
  | (_, c, r, a) :: _ => if isOneLane o.word then p.deferAll o.fpc c r (dw a) allOnes 0 else p.deferLanes o.fpc o.bad

/-- Lanes of operation op leave it with a deferred fault. -/
def State.faultLanes (s : State) (p : PackId) (o : Op) (cause reason : Nat) (lanes : List (Nat × Nat)) : State :=
  s.onOp p o.id fun q => (q.without (lanes.map (·.1))).noteFault cause reason lanes

/-! ## Requests through peer windows (R412-R415) -/

/-- The address of tier-2 switch k of a domain: domain d's are numbered from 2^17 · (d + 1) on, which no device is (log 33). -/
def switchAt (domain k : Nat) : Nat := 2 ^ 17 * (domain + 1) + k

/-- The domain of a device, or of a switch (R406). -/
def domainOf (dst : Nat) : Nat := if dst < 2 ^ 17 then dst / 1024 else dst / 2 ^ 17 - 1

/-- The destination of a window request: the owner, or for a fabric-shared window the switch of the owner's domain that homes it
(R414). -/
def windowDst (switches : Nat) (x : Xlate) (owner : Nat) : Nat :=
  if x.fs then switchAt (domainOf x.peer) ((bitsAt owner 16 9 ^^^ (x.peer % 512)) % switches) else x.peer

/-- The owner's address of va. -/
def Xlate.ownerAddr (x : Xlate) (va : Nat) : Nat := x.frame + (va - x.base)

/-- Link n of the 24. -/
def State.link (s : State) (n : Nat) : Link := Tab.get {} s.links n

/-- A packet may be injected: it goes over Ethernet to another domain, or some link that is up has not paused its virtual lane
(R406, R408, R409). -/
def State.canInject (s : State) (pkt : Packet) : Bool :=
  domainOf pkt.dst != domainOf s.device
    || (List.range 24).any fun n => decide (0 < (s.link n).lanes) && !(s.link n).paused.contains pkt.vl

/-- A packet is injected, or waits for a link (R409). -/
def State.inject (s : State) (pkt : Packet) : State :=
  if s.canInject pkt then s.emit (.packet pkt) else { s with outbound := s.outbound ++ [pkt] }

/-- The packets that waited are injected as far as they may, multicast ones into the switch that holds their copy; one past its deadline
is dropped, for its request has ended (R415). -/
def State.flushOut (s : State) : State :=
  let s : State := { s with copies := (s.copies.filter fun c => c.injected || decide (s.gtc < c.pkt.deadline)).map fun c =>
    { c with injected := c.injected || s.canInject c.pkt } }
  s.outbound.foldl (fun s p => if p.deadline ≤ s.gtc then s else s.inject p) { s with outbound := [] }

/-- The line of a request. -/
def bodyLine (b : PacketBody) : Option Nat :=
  match b with
  | .load _ va _ => some (va / 128)
  | .store _ va _ => some (va / 128)
  | .atomic _ va .. => some (va / 128)
  | _ => none

/-- The request of the same source slot and line before a packet, not yet answered: its number and its deadline (R410, log 49). -/
def State.priorOf (s : State) (pkt : Packet) : Option (Nat × Nat) :=
  ((s.requests.filter fun r => r.pkt.dst == pkt.dst && r.pkt.slot == pkt.slot && bodyLine r.pkt.body == bodyLine pkt.body).getLast?).map
    fun r => (r.seq, r.deadline)

/-- Send a request for a line, once: a packet with its deadline. op 0 is a prefetch. The request's entry is the space that it reserves
for its response before it is injected (R409). -/
def State.sendRequest (s : State) (core slot : Nat) (p : PackId) (op line : Nat) (x : Xlate) (body : PacketBody) : State :=
  if s.requests.any fun r => r.pack == p && r.op == op && r.line == line then s
  else
    let dl := s.gtc + s.tfabTicks
    let pkt : Packet :=
      { src := s.device, dst := windowDst s.switches x (x.ownerAddr (128 * line)), vl := 0, select := s.routing.select,
        slot := 4 * core + slot, seq := s.nextSeq, deadline := dl, body := body }
    let pkt := { pkt with prior := s.priorOf pkt }
    let r : Request := { seq := s.nextSeq, pack := p, op := op, line := line, deadline := dl, pkt := pkt, sent := s.gtc, perm := x.perm }
    ({ s with nextSeq := s.nextSeq + 1, requests := s.requests ++ [r] } : State).inject pkt

/-- Lanes of an operation whose request has left for another device: they have passed translation (R220). -/
def State.sentAway (s : State) (p : PackId) (op : Nat) (lanes : List (Nat × Nat)) : State :=
  s.onOp p op fun q => { q with away := q.away ++ (lanes.map (·.1)).filter fun l => !q.away.contains l }

/-- A load request for the line of an address of a window (R412, R413). lc: the lease class that it asks for. -/
def State.sendLoad (s : State) (t : Team) (p : Pack) (op va : Nat) (x : Xlate) (lc : Nat) : State :=
  s.sendRequest t.core p.slot p.id op (va / 128) x (.load t.ctx (x.ownerAddr va) lc)

/-- The address of the lowest lane. -/
def firstAddr (lanes : List (Nat × Nat)) : Nat := ((sortBy (fun q => q.1) lanes)[0]?.map (·.2)).getD 0

/-! ## Private lines (R225) -/

/-- Where a private line is found. -/
inductive PrivRef where
  | line (l : L1Line)
  | channel (x : Xlate) (phys : Nat)
  | window (x : Xlate)
  | absent
  | fault (cause reason : Nat)

/-- The private line of a pack: in its core's L1, or allocated there by a fetch from its home; pages with AU or PW are not
cached. wr: the access stores. -/
def State.privRef (s : State) (t : Team) (p : PackId) (line : Nat) (wr : Bool) : PrivRef × State :=
  match s.l1.find? fun l => l.core == t.core && l.ctx == t.ctx && l.line == line && l.owner == some p with
  | some l => (if !(if wr then l.perm.w else l.perm.r) then .fault cPROT 2 else if l.poison then .fault cECC 1 else .line l, s)
  | none =>
    match s.findLine t.ctx line with
    | (.absent, s) => (.absent, s)
    | (.window x, s) => (if (if wr then x.perm.w else x.perm.r) then .window x else .fault cPROT 2, s)
    | (.channel x phys, s) =>
      (if !(if wr then x.perm.w else x.perm.r) then .fault cPROT 2
       else if !wr && s.poison.contains phys then .fault cECC 1 else .channel x phys, s)
    | (.home h, s) =>
      if !(if wr then h.perm.w else h.perm.r) then (.fault cPROT 2, s.putHome h)
      else if h.poison then (.fault cECC 1, s.putHome h)
      else
        let s := (h.pend.filter (·.lift)).foldl (fun s w => s.waitUntil w.wct) s
        let h := h.settle s.gtc
        let l : L1Line := { core := t.core, ctx := t.ctx, line := line, data := h.data, perm := h.perm, owner := some p,
                            phys := h.phys }
        (.line l, (s.putHome h).l1Fill l)

/-- The dirty private lines of a pack. -/
def State.privDirty (s : State) (p : PackId) : List L1Line := s.l1.filter fun l => l.owner == some p && l.dirty

/-- Every dirty private line of a pack is written back, and its WCTs return (R225). -/
def State.flushPrivate (s : State) (p : PackId) : State :=
  (s.privDirty p).foldl (fun s l =>
    let r := s.privWriteBack l
    r.2.onPack p fun k => k.returnWct r.1) s

/-- PRIVATE_WRITEBACK: a dirty private line is evicted (R225). -/
def execPrivateWriteback (core ctx line : Nat) (s : State) : Result :=
  .next (match s.l1.find? fun l => l.core == core && l.ctx == ctx && l.line == line && l.owner.isSome && l.dirty with
    | none => s
    | some l => s.l1Evict l)

/-! ## Loads reach their lines -/

/-- Lanes of a load take their values from a line of data. -/
def State.landLoad (s : State) (p : PackId) (o : Op) (lanes : List (Nat × Nat)) (d : Line) : State :=
  let n := memSize o.ty o.word
  s.onOp p o.id fun q =>
    { q.without (lanes.map (·.1)) with
      got := q.got ++ lanes.map fun a => (a.1, loadValue o.word (lineNat d (a.2 % 128) n)) }

/-- The key under which one part of a private access is noted. -/
def partKey (part l : Nat) : Nat := 64 * (part + 1) + l

/-- A private lane whose parts have all arrived is performed. -/
def Op.joinParts (t : Team) (p : Pack) (q : Op) (l a : Nat) : Op :=
  let ps := pieces t p q l a
  let val := fun part => (q.got.find? fun e => e.1 == partKey part l).map (·.2)
  if ps.all fun c => (val c.1).isSome then
    { q.without [l] with
      got := (q.got.filter fun e => !ps.any fun c => e.1 == partKey c.1 l) ++
        [(l, loadValue q.word ((val 0).getD 0 + 2 ^ 32 * (val 1).getD 0))] }
  else q

/-- Note one part of a private lane. -/
def State.notePart (s : State) (t : Team) (p : Pack) (o : Op) (l a part v : Nat) : State :=
  s.onOp p.id o.id fun q =>
    if q.got.any fun e => e.1 == partKey part l then q
    else ({ q with got := q.got ++ [(partKey part l, v)] } : Op).joinParts t p l a

/-- How a lane of a private access fares. -/
inductive PrivOut where
  | ok
  | fault (cause reason : Nat)
  | page

/-- The references of a lane's parts, in order. -/
def State.privRefs (s : State) (t : Team) (p : PackId) (wr : Bool) :
    List (Nat × Nat × Nat) → List (Nat × Nat × Nat × PrivRef) × State
  | [] => ([], s)
  | c :: cs =>
    let r := s.privRef t p (c.2.1 / 128) wr
    let q := r.2.privRefs t p wr cs
    ((c.1, c.2.1, c.2.2, r.1) :: q.1, q.2)

/-- The fault of a reference with a cause. -/
def PrivRef.faultOf (cause : Nat) : PrivRef → Option (Nat × Nat)
  | .fault c r => if c = cause then some (c, r) else none
  | _ => none

/-- What the references of a lane's parts come to, in the order of R219: a page fault, a permission failure, a data error. -/
def privOutcome (rs : List (Nat × Nat × Nat × PrivRef)) : PrivOut :=
  if rs.any fun c => match c.2.2.2 with | .absent => true | _ => false then .page
  else match (rs.findSome? fun c => c.2.2.2.faultOf cPROT).orElse fun _ => rs.findSome? fun c => c.2.2.2.faultOf cECC with
    | some (c, r) => .fault c r
    | none => .ok

/-- How a lane of a private access fares, with the references of its parts. -/
def State.privLane (s : State) (t : Team) (p : PackId) (wr : Bool) (ps : List (Nat × Nat × Nat)) :
    PrivOut × List (Nat × Nat × Nat × PrivRef) × State :=
  let r := s.privRefs t p wr ps
  (privOutcome r.1, r.1, r.2)

/-- The first part of a lane's access whose page has no translation, by its address (R219). -/
def State.absentPart (s : State) (t : Team) (p : PackId) (wr private_ : Bool) (ps : List (Nat × Nat × Nat)) : Option Nat :=
  ps.findSome? fun c =>
    if private_ then
      match (s.privRef t p (c.2.1 / 128) wr).1 with
      | .absent => some c.2.1
      | _ => none
    else
      match (s.findLine t.ctx (c.2.1 / 128)).1 with
      | .absent => some c.2.1
      | _ => none

/-- The address at which a lane of an operation meets a page fault, if it does. -/
def State.absentLane (s : State) (t : Team) (p : Pack) (o : Op) (q : Nat × Nat) : Option Nat :=
  s.absentPart t p.id (memKind o.word != .load) (isPrivateWord o.word) (pieces t p o q.1 q.2)

/-- An operation of a pack as it stands now. -/
def State.currentOp (s : State) (p : PackId) (o : Op) : Op := ((s.pack? p).bind fun k => k.op? o.id).getD o

/-- A page fault of lanes of an operation (R220): one report for every lane of the word whose page is absent now, and one
entry of the replay list, which takes the lanes out of the wait counter; the pack parks once the report has reached the
core. -/
def State.faultPages (s : State) (t : Team) (p : Pack) (o : Op) (lanes : List (Nat × Nat)) : State :=
  let o := s.currentOp p.id o
  let all := sortBy (fun q => q.1) (lanes ++ o.addrs.filter fun q => !lanes.contains q && (s.absentLane t p o q).isSome)
  match all with
  | [] => s
  | q :: _ =>
    let n := s.nextReport
    let mask := if isOneLane o.word then allOnes else maskOf (all.map (·.1))
    let va := (s.absentLane t p o q).getD q.2
    let s := s.postFault { packReport t p with addr := va, mask := mask, acc := (memKind o.word).code, pc := o.fpc } (.pack p.id)
    let s := s.onOp p.id o.id fun q => q.without (all.map (·.1))
    let s := s.onPack p.id fun k => { k with replay := k.replay ++ [{ op := o.only (all.map (·.1)), report := n }] }
    (s.releaseLines p (nubNat (all.map (laneLines t p o)).flatten)).push [.pageFaultPark p.id]

/-- A part of a private load is read, or asked for through its window. -/
def State.privRead (s : State) (t : Team) (p : Pack) (o : Op) (q : Nat × Nat) (c : Nat × Nat × Nat × PrivRef) : State :=
  match c.2.2.2 with
  | .line l => s.notePart t p o q.1 q.2 c.1 (lineNat l.data (c.2.1 % 128) c.2.2.1)
  | .channel _ phys => s.notePart t p o q.1 q.2 c.1 (memNat s.hbm (phys + c.2.1 % 128) c.2.2.1)
  | .window x =>
    if o.got.any fun e => e.1 == partKey c.1 q.1 then s else (s.sendLoad t p o.id c.2.1 x 0).sentAway p.id o.id [q]
  | _ => s

/-- A private load of one lane that the operation still holds. -/
def State.privLoad (s : State) (t : Team) (p : Pack) (o : Op) (q : Nat × Nat) : State :=
  if !(s.currentOp p.id o).addrs.contains q then s
  else
    let r := s.privLane t p.id false (pieces t p o q.1 q.2)
    match r.1 with
    | .fault c k => r.2.2.faultLanes p.id o c k [q]
    | .page => r.2.2.faultPages t p o [q]
    | .ok => r.2.1.foldl (fun s c => s.privRead t p o q c) r.2.2

/-- The operation that an event names, with its pack and team; none when it has ended or its line is held. -/
def State.lineOp (s : State) (p : PackId) (op line : Nat) : Option (Team × Pack × Op) :=
  match s.pack? p with
  | none => none
  | some k =>
    match k.op? op with
    | none => none
    | some o =>
      let t := s.teamOf k
      if (lineLanes t k o line).isEmpty then none
      else if s.lineHeld k o (nubNat ((lineLanes t k o line).map (laneLines t k o)).flatten) then none
      else some (t, k, o)

/-- What follows the performance of a line's lanes: held operations, and the completion. -/
def State.lineDone (s : State) (t : Team) (p : Pack) (o : Op) (lanes : List (Nat × Nat)) : State :=
  (s.checkDone p.id o.id).releaseLines p (nubNat (lanes.map (laneLines t p o)).flatten)

/-- HOME_LOAD: the lanes of a load on one line are performed (R208, R210, R219). -/
def execHomeLoad (p : PackId) (op line : Nat) (s : State) : Result :=
  .next (match s.lineOp p op line with
    | none => s
    | some (t, k, o) =>
      let lanes := lineLanes t k o line
      if isPrivateWord o.word then
        (lanes.foldl (fun s q => s.privLoad t k o q) s).lineDone t k o lanes
      else
        match s.loadLine (some p) t.core t.ctx line with
        | (.data d, s) => (s.landLoad p o lanes d).lineDone t k o lanes
        | (.fault c r, s) => (s.faultLanes p o c r lanes).lineDone t k o lanes
        | (.pageFault, s) => (s.faultPages t k o lanes).lineDone t k o lanes
        | (.window x, s) => ((s.waitUntil (s.ownWct (some p))).sendLoad t k op (firstAddr lanes) x x.perm.leaseClass).sentAway p op lanes)

/-! ## Stores reach their lines -/

/-- The operand of a lane. -/
def Op.val (o : Op) (l : Nat) : Nat := ((o.vals.find? fun e => e.1 == l).map (·.2)).getD 0

/-- The bytes that the lanes of a store write in a line, lanes ascending (R209). -/
def storeBytes (o : Op) (lanes : List (Nat × Nat)) : List (Nat × Byte) :=
  ((sortBy (fun q => q.1) lanes).map fun q =>
    (List.range (memSize o.ty o.word)).map fun i => (q.2 % 128 + i, byteAt (o.val q.1) i)).flatten

/-- Lanes of a store are performed, with a WCT. -/
def State.landStore (s : State) (p : PackId) (o : Op) (lanes : List (Nat × Nat)) (wct : Nat) : State :=
  s.onOp p o.id fun q => { q.without (lanes.map (·.1)) with wct := max q.wct wct }

/-- The bytes that the lanes of a private store write in a line, lanes ascending (R209). -/
def privBytes (t : Team) (p : Pack) (o : Op) (line : Nat) : List (Nat × Byte) :=
  ((sortBy (fun q => q.1) o.addrs).map fun q =>
    ((pieces t p o q.1 q.2).filter fun c => c.2.1 / 128 == line).map fun c =>
      (List.range c.2.2).map fun i => (c.2.1 % 128 + i, byteAt (o.val q.1 >>> (32 * c.1)) i)).flatten.flatten

/-- A part of a private store is written, or sent through its window with the others of its line. -/
def State.privWrite (s : State) (t : Team) (p : Pack) (o : Op) (q : Nat × Nat) (c : Nat × Nat × Nat × PrivRef) : State :=
  let line := c.2.1 / 128
  let bytes := (List.range c.2.2.1).map fun i => (c.2.1 % 128 + i, byteAt (o.val q.1 >>> (32 * c.1)) i)
  match c.2.2.2 with
  | .line l =>
    (s.l1Fill { l with data := setLineBytes l.data bytes, dirty := true }).notePart t p o q.1 q.2 c.1 0
  | .channel x phys => ((s.setDirty x).channelStore phys bytes).notePart t p o q.1 q.2 c.1 0
  | .window x =>
    if o.got.any fun e => e.1 == partKey c.1 q.1 then s
    else ((s.setDirty x).sendRequest t.core p.slot p.id o.id line x (.store t.ctx (x.ownerAddr c.2.1) (privBytes t p o line))).sentAway
      p.id o.id [q]
  | _ => s

/-- The checks of a private store's lane; a lane that fails leaves the operation, and nothing of it is written. -/
def State.privStoreCheck (s : State) (t : Team) (p : Pack) (o : Op) (q : Nat × Nat) : State :=
  if !(s.currentOp p.id o).addrs.contains q then s
  else
    let r := s.privLane t p.id true (pieces t p o q.1 q.2)
    match r.1 with
    | .fault c k => r.2.2.faultLanes p.id o c k [q]
    | .page => r.2.2.faultPages t p o [q]
    | .ok => r.2.2

/-- A private store of one lane that has passed its checks. -/
def State.privStore (s : State) (t : Team) (p : Pack) (o : Op) (q : Nat × Nat) : State :=
  let r := s.privLane t p.id true (pieces t p o q.1 q.2)
  r.2.1.foldl (fun s c => s.privWrite t p o q c) r.2.2

/-- The lanes of a private store on one line. -/
def State.privStores (s : State) (t : Team) (p : Pack) (o : Op) (line : Nat) : State :=
  let s := (lineLanes t p o line).foldl (fun s q => s.privStoreCheck t p o q) s
  match (s.pack? p.id).bind fun k => k.op? o.id with
  | none => s
  | some o => (lineLanes t p o line).foldl (fun s q => s.privStore t p o q) s

/-- A dirty private line that PFLUSH names is written back (R232). -/
def State.flushLine (s : State) (p : PackId) (o : Op) (line : Nat) : State :=
  match (s.privDirty p).find? fun l => l.line == line with
  | none => s.landStore p o [(line, 128 * line)] 0
  | some l =>
    let r := s.privWriteBack l
    r.2.landStore p o [(line, 128 * line)] r.1

/-- HOME_WRITE: the lanes of a store on one line reach the home (R211, R219, R237). -/
def execHomeWrite (p : PackId) (op line : Nat) (s : State) : Result :=
  .next (match s.lineOp p op line with
    | none => s
    | some (t, k, o) =>
      let lanes := lineLanes t k o line
      match o.word with
      | .pflush .. => (s.flushLine p o line).lineDone t k o lanes
      | _ =>
        if isPrivateWord o.word then
          (s.privStores t k o line).lineDone t k o lanes
        else
          match s.storeLine t.ctx line (storeBytes o lanes) false (some p) with
          | (.ok w, s) => (s.landStore p o lanes w).lineDone t k o lanes
          | (.error (.fault c r), s) => (s.faultLanes p o c r lanes).lineDone t k o lanes
          | (.error (.window x), s) =>
            ((s.setDirty x).sendRequest t.core k.slot p op line x (.store t.ctx (x.ownerAddr (firstAddr lanes)) (storeBytes o lanes))).sentAway
              p op lanes
          | (.error _, s) => (s.faultPages t k o lanes).lineDone t k o lanes)

/-- A pack that waits on a word reads it again: the event that does so. -/
def Pack.reread (k : Pack) : List Instr :=
  match k.status, k.wait with
  | .waiting, .event .. => [.evwaitReread k.id]
  | .waiting, .status .. => [.cwaitReread k.id]
  | _, _ => []

/-- The word that a waiting pack reads again. -/
def Pack.waitWord (k : Pack) : Option Nat :=
  match k.wait with
  | .event va _ | .status va _ => some va
  | _ => none

/-- WADDR of a launch record (R343). -/
def grWaddr (r : Nat) : Nat := bitsAt r 384 64

/-- The grid's wait condition has yet to hold (R339). -/
def Grid.waits (g : Grid) : Bool := !g.admitted && !g.go && !g.retired

/-- The home reports a performed write of a line: packs and grids that wait on a word of it read it again (R339, R356). -/
def State.wakeWatchers (s : State) (ctx line : Nat) : State :=
  let ps := s.allPacks.filter fun k => (s.teamOf k).ctx == ctx && k.waitWord.any fun va => va / 128 == line
  let gs := s.grids.filter fun g => g.waits && g.ctx == ctx && grWaddr g.record.toNat / 128 == line
  s.push ((ps.map Pack.reread).flatten ++ (nubNat (gs.map (·.queue))).map Instr.waitConditionRead)

/-- HOME_WRITE_PERFORM: the GTC reaches the WCT of the oldest pending write of a line, which is performed (R236); the home
reports it to those that wait on the line. -/
def execHomeWritePerform (ctx line : Nat) (s : State) : Result :=
  .next ((match s.l2.find? (fun (h : HomeLine) => h.ctx == ctx && h.line == line) with
    | none => s
    | some h => match h.pend with
      | [] => s
      | w :: _ =>
        let s := s.waitUntil w.wct
        s.putHome (h.settle s.gtc)).wakeWatchers ctx line)

/-! ## Completion -/

/-- An acquire has completed, unless lanes of it are listed for replay (R220, R244). -/
def Pack.acquired (p : Pack) (op : Nat) : Pack :=
  if p.acquire = some op && !(p.replay.any fun r => r.op.id == op) then { p with acquire := none } else p

/-- What a completed memory operation does to its pack: destination lanes, faults, LWCT, the acquire. -/
def Pack.landMem (o : Op) (p : Pack) : Pack := ((((p.landOp o).landS o) |> Pack.landFaults o).returnWct o.wct).acquired o.id

/-- LOAD_LANE_RETURN: every lane of a load or an atomic has its value, and ld falls (R96). An atomic's values are not seen
before the GTC reaches its WCT (R248). -/
def execLoadLaneReturn (p : PackId) (op : Nat) (s : State) : Result :=
  .next (match (s.pack? p).bind fun k => k.op? op with
    | none => s
    | some o =>
      if !o.addrs.isEmpty || o.ctr != .ld then s
      else ((s.waitUntil o.wct).endOp p op Pack.landMem).afterOp p)

/-- STORE_WCT_RETURN: the WCT of every line has returned: LWCT takes the latest, and st falls (R96, R211, R242). -/
def execStoreWctReturn (p : PackId) (op : Nat) (s : State) : Result :=
  .next (match (s.pack? p).bind fun k => k.op? op with
    | none => s
    | some o =>
      if !o.addrs.isEmpty || o.ctr != .st then s
      else (s.endOp p op Pack.landMem).afterOp p)

/-! ## Issue -/

/-- The address of a lane: u(s[b]) + sx(v[o][l], 32), exact (R228). -/
def laneAddr (p : Pack) (b o l : Nat) : Int := (p.s b).toNat + signed (p.vl o l) 32

/-- Checks 2 and 3 of a global address (R219). -/
def addrCheck (a : Int) (n : Nat) : Option (Nat × Nat) :=
  if a < 0 || (2 ^ 45 : Nat) ≤ a then some (cPROT, 1)
  else if a % (n : Int) ≠ 0 then some (cALIGN, 0)
  else none

/-- Checks 1 to 3 of a private offset (R219). -/
def privCheck (t : Team) (p : Pack) (l x n : Nat) : Option (Nat × Nat) :=
  if (roleOf t p).plim < x + n then some (cSTACK, 0)
  else if 2 ^ 45 ≤ privAddr t p l x then some (cPROT, 1)
  else if x % n ≠ 0 then some (cALIGN, 0)
  else none

/-- The lanes of a word, each with its address and what the first three checks say of it. -/
def checkedLanes (lanes : List Nat) (addr : Nat → Int) (check : Nat → Option (Nat × Nat)) :
    List (Nat × Nat) × List (Nat × Nat × Nat × Nat) :=
  (lanes.filterMap fun l => match check l with
    | none => some (l, (addr l).toNat)
    | some _ => none,
   lanes.filterMap fun l => (check l).map fun c => (l, c.1, c.2, wrapNat (addr l) 64))

/-- The issuing pack starts a memory operation on the lanes that pass; the others take their fault now; the lines of a
global store or atomic leave the core's L1 (R211, R246). -/
def State.startMem (t : State) (u : State) (i : Instr) (ctr : Counter) (ok : List (Nat × Nat))
    (bad : List (Nat × Nat × Nat × Nat)) (vals : List (Nat × Nat)) (vdst sdst : List Nat) (acq : Bool) : State :=
  let p := u.pk
  let o : Op := { id := t.serial, ctr := ctr, word := i, fpc := p.pc, mask := p.active, ty := p.ty, addrs := ok, vals := vals,
                  vdst := vdst, sdst := sdst }
  let t := { t with pk := match bad with
    | [] => t.pk
    | (_, c, r, a) :: _ =>
      if isOneLane i then t.pk.deferAll p.pc c r (dw a) allOnes 0 else t.pk.deferLanes p.pc bad }
  let t := if memKind i != .load && !isPrivateWord i then
      (nubNat (ok.map fun q => q.2 / 128)).foldl (fun t l => t.l1Drop u.tm.core u.tm.ctx l) t
    else t
  let t := { t with pk := { t.pk with acquire := if acq && !ok.isEmpty then some o.id else t.pk.acquire } }
  t.startOp (fun _ => o) fun _ => opEvents u.tm u.pk o

/-- A vector memory word on global addresses. -/
def memWord (i : Instr) (s : State) (ctr : Counter) (b o : BitVec 6) (vals : Pack → Nat → Nat) (vdst : List Nat)
    (wait : State → Bool) (acq : Bool) : Result :=
  .next (issueWord i s fun u t =>
    if wait u then .stall
    else
      let p := u.pk
      let addr := laneAddr p b.toNat o.toNat
      let r := checkedLanes (lanesOf p.active) addr fun l => addrCheck (addr l) (memSize p.ty i)
      .done (t.startMem u i ctr r.1 r.2 (r.1.map fun q => (q.1, vals p q.1)) vdst [] acq))

/-- No release condition. -/
def noWait : State → Bool := fun _ => false

/-- Destination registers of a width: a pair for 8 bytes. -/
def vdstOf (wide : Bool) (v : Nat) : List Nat := if wide then [v, v + 1] else [v]

/-- A word on private offsets (R229). -/
def privWord (i : Instr) (s : State) (ctr : Counter) (b o : BitVec 6) (vals : Pack → Nat → Nat) (vdst : List Nat) : Result :=
  .next (issueWord i s fun u t =>
    let p := u.pk
    let off := fun l => (p.s b.toNat).toNat + p.vl o.toNat l
    let r := checkedLanes (lanesOf p.active) (fun l => (off l : Int)) fun l => privCheck u.tm p l (off l) (memSize p.ty i)
    .done (t.startMem u i ctr r.1 r.2 (r.1.map fun q => (q.1, vals p q.1)) vdst [] false))

/-- A scalar memory word: one lane, recorded against all 64 (R230). -/
def scalarMem (i : Instr) (s : State) (ctr : Counter) (addr : Pack → Int) (val : Pack → Nat) (sdst : List Nat)
    (wait : State → Bool) : Result :=
  .next (issueWord i s fun u t =>
    if wait u then .stall
    else
      let p := u.pk
      let r := checkedLanes [0] (fun _ => addr p) fun _ => addrCheck (addr p) (memSize p.ty i)
      .done (t.startMem u i ctr r.1 r.2 (r.1.map fun q => (q.1, val p)) [] sdst false))

/-- LD (R228). -/
def execLd (e : Bool) (v b o : BitVec 6) (l : Bool) (w : BitVec 3) (s : State) : Result :=
  memWord (.ld e v b o l w) s .ld b o (fun _ _ => 0) (vdstOf (w.toNat == 3) v.toNat) noWait false
/-- ST (R228). -/
def execSt (e : Bool) (v b o : BitVec 6) (l : Bool) (w : BitVec 2) (s : State) : Result :=
  memWord (.st e v b o l w) s .st b o (fun p l => p.laneVal (w.toNat == 3) v.toNat l) [] noWait false
/-- LDP (R229). -/
def execLdp (e : Bool) (v b o : BitVec 6) (l : Bool) (w : BitVec 3) (s : State) : Result :=
  privWord (.ldp e v b o l w) s .ld b o (fun _ _ => 0) (vdstOf (w.toNat == 3) v.toNat)
/-- STP (R229). -/
def execStp (e : Bool) (v b o : BitVec 6) (l : Bool) (w : BitVec 2) (s : State) : Result :=
  privWord (.stp e v b o l w) s .st b o (fun p l => p.laneVal (w.toNat == 3) v.toNat l) []
/-- LDS (R230). -/
def execLds (e : Bool) (v b n : BitVec 6) (w : BitVec 3) (s : State) : Result :=
  scalarMem (.lds e v b n w) s .ld (fun p => (p.s b.toNat).toNat + n.toNat * loadSize w.toNat) (fun _ => 0) [v.toNat] noWait
/-- STS (R230). -/
def execSts (e : Bool) (v b n : BitVec 6) (w : BitVec 2) (s : State) : Result :=
  scalarMem (.sts e v b n w) s .st (fun p => (p.s b.toNat).toNat + n.toNat * 2 ^ w.toNat) (fun p => (p.s v.toNat).toNat) [] noWait

/-- One line that PREF asks for (R231): into the L2, or the L1 with a lease; what would fail a check is dropped, and for the L1 a
line with LC = 0. -/
def State.prefetch (s : State) (t : Team) (p : Pack) (l1 : Bool) (line : Nat) : State :=
  match s.findLine t.ctx line with
  | (.home h, s) =>
    if !h.perm.r || h.poison || (l1 && h.perm.lc == 0) then s
    else if l1 then (s.loadLine none t.core t.ctx line).2 else s.putHome h
  | (.window x, s) =>
    if l1 && x.perm.r && x.perm.leaseClass != 0 && (s.l1Hit t.core t.ctx line).isNone then
      s.sendLoad t p 0 (128 * line) x x.perm.leaseClass
    else s
  | (_, s) => s

/-- PREF (R231). -/
def execPref (e : Bool) (q : BitVec 1) (b o : BitVec 6) (l : Bool) (s : State) : Result :=
  .next (issueWord (.pref e q b o l) s fun u t =>
    let p := u.pk
    let addr := laneAddr p b.toNat o.toNat
    let lines := nubNat ((lanesOf p.active).filterMap fun l =>
      if addr l < 0 || (2 ^ 45 : Nat) ≤ addr l then none else some ((addr l).toNat / 128))
    .done (lines.foldl (fun t n => t.prefetch u.tm p (q == 1#1) n) t))

/-- PFLUSH (R232). -/
def execPflush (e : Bool) (s : State) : Result :=
  .next (issueWord (.pflush e) s fun u t =>
    .done (t.startMem u (.pflush e) .st ((u.privDirty u.pk.id).map fun l => (l.line, 128 * l.line)) [] [] [] [] false))

/-! ## Channel and table events -/

/-- CHANNEL_TRANSLATE: the channel translates va, and sets A, and D for a store (R208, R215). -/
def execChannelTranslate (ctx va : Nat) (write : Bool) (s : State) : Result :=
  .next (match s.translate ctx va with
    | (some x, s) => if write && x.perm.w then s.setDirty x else s
    | (none, s) => s)

/-- TABLE_WALK: a TLB miss walks the tables and fills an entry; V = 0 or a malformed entry fills none (R212, R218). -/
def execTableWalk (ctx va : Nat) (s : State) : Result := .next (s.translate ctx va).2

/-- PAGE_FAULT_PARK: the report has reached the core; the pack parks at the next word it tries to issue (R220). A pack that
waits for the slot or in a blocking word tries to issue none until then. -/
def execPageFaultPark (p : PackId) (s : State) : Result :=
  .next (s.onPack p fun k => if k.replay.isEmpty then k else { k with parkDue := true })

end Sys2Proof.Machine
end

