-- ==== Sys2Proof/Machine/Atomic.lean ====
section
/-! DEFINITION. Atomics, acquire loads, release stores and fences (R235-R256). -/

namespace Sys2Proof.Machine

/-! ## The operation of one lane -/

/-- The functions of an atomic: 0 to 7 of ATOM (R251), 8 to 10 of ATOMF (R252), 16 CAS, 17 CAS64 (R253). The bytes of a
lane. -/
def atomBytes (fn ty : Nat) : Nat :=
  if fn = 17 then 8 else if 8 ≤ fn then 4 else if pairTy ty then 8 else 4

/-- The floating-point format of ATOMF under TY (R252). -/
def atomFmt (ty : Nat) : Fmt := if ty = 9 then fp16 else if ty = 10 then bf16 else fp32

/-- The elements of ATOMF. -/
def atomCount (ty : Nat) : Nat := if ty = 9 || ty = 10 then 2 else 1

/-- One element of ATOMF (R252): gradual FP32, flushing FP16 and BF16, nearest-even; old before x. -/
def atomFloat (fn ty old x : Nat) : Nat :=
  let f := atomFmt ty
  let fl := atomCount ty == 2
  if fn = 8 then (fpAdd f rmRNE fl false old x).1 else (fpMinMax f fl (fn == 10) old x).1

/-- The value that a lane writes for the old value, its operand x and, for a compare and swap, its new value n. -/
def atomNew (fn ty old x n : Nat) : Nat :=
  let w := 8 * atomBytes fn ty
  let sg := ty == 0 || ty == 6
  let below := fun a b => if sg then decide (signed a w < signed b w) else decide (a < b)
  match fn with
  | 0 => (old + x) % 2 ^ w
  | 1 => old &&& x
  | 2 => old ||| x
  | 3 => old ^^^ x
  | 4 => if below x old then x else old
  | 5 => if below old x then x else old
  | 6 => x
  | 7 => if x ≤ old then 0 else (old + 1) % 2 ^ w
  | 8 | 9 | 10 =>
    let ew := 32 / atomCount ty
    (joinElems (fun j => (atomFloat fn ty (bitsAt old (ew * j) ew) (bitsAt x (ew * j) ew), 0)) ew 0 (atomCount ty)).1
  | _ => if old = x then n else old

/-- A lane of an atomic on a line: lane, offset in the line, operand, new value. -/
abbrev AtomLane := Nat × Nat × Nat × Nat

/-- The lanes of one atomic applied to a line, in ascending order, each on the result of those before it (R248): the
line, and the old value of each lane. -/
def atomLine (fn ty : Nat) (lanes : List AtomLane) (d : Line) : Line × List (Nat × Nat) :=
  (sortBy (fun q => q.1) lanes).foldl (fun (acc : Line × List (Nat × Nat)) q =>
    let old := lineNat acc.1 q.2.1 (atomBytes fn ty)
    let bs := (toBytes (atomNew fn ty old q.2.2.1 q.2.2.2) (atomBytes fn ty)).zipIdx.map fun e => (q.2.1 + e.2, e.1)
    (setLineBytes acc.1 bs, acc.2 ++ [(q.1, old)])) (d, [])

/-- The bytes of a line that the lanes of an atomic cover, as it leaves them. -/
def atomWritten (fn ty : Nat) (lanes : List AtomLane) (d : Line) : List (Nat × Byte) :=
  (nubNat (lanes.map fun q => (List.range (atomBytes fn ty)).map (q.2.1 + ·)).flatten).map fun i => (i, lineByte d i)

/-- The lanes of an atomic that fall in one line are performed as a single write, at the place that the page selects
(R246, R248): the old values and the WCT. A poisoned line is not written (R369). -/
def State.atomAt (s : State) (ctx line fn ty : Nat) (lanes : List AtomLane) (who : Option PackId) :
    (Except Access (List (Nat × Nat) × Nat)) × State :=
  match s.findLine ctx line with
  | (.absent, s) => (.error .pageFault, s)
  | (.window x, s) => (.error (if x.perm.w then .window x else .fault cPROT 2), s)
  | (.channel x phys, s) =>
    if !x.perm.w then (.error (.fault cPROT 2), s)
    else if s.poison.contains phys then (.error (.fault cECC 1), s)
    else
      let r := atomLine fn ty lanes (memLine s.hbm phys)
      (.ok (r.2, s.gtc),
       ((s.setDirty x).channelStore phys (atomWritten fn ty lanes r.1)).noteWrite s.gtc ctx line)
  | (.home h, s) =>
    if !h.perm.w then (.error (.fault cPROT 2), s.putHome h)
    else if h.poison then (.error (.fault cECC 1), s.putHome h)
    else
      let r := atomLine fn ty lanes h.latest
      let w := s.homeStore h (atomWritten fn ty lanes r.1) false who
      (.ok (r.2, w.1), w.2)

/-! ## The lanes of a word reach their line -/

/-- The function and type of an atomic word; EVSIG adds 64 bits (R355). -/
def atomOf (o : Op) : Nat × Nat :=
  match o.word with
  | .atom _ _ _ _ _ f => (f.toNat / 5, o.ty)
  | .atomf _ _ _ _ _ f => (8 + (f.toNat - 40) / 5, o.ty)
  | .atoms _ _ _ _ _ f => ((f.toNat - 8) / 5, o.ty)
  | .cas .. => (16, o.ty)
  | .cas64 .. => (17, o.ty)
  | _ => (0, 7)

/-- The lanes of an atomic operation, with offsets in their line; a compare value and a new value come joined. -/
def atomLanes (o : Op) (lanes : List (Nat × Nat)) : List AtomLane :=
  let k := atomOf o
  let w := 8 * atomBytes k.1 k.2
  lanes.map fun q => (q.1, q.2 % 128, o.val q.1 % 2 ^ w, o.val q.1 / 2 ^ w)

/-- Lanes of an atomic are performed: their old values, and the WCT. -/
def State.landAtom (s : State) (p : PackId) (o : Op) (olds : List (Nat × Nat)) (wct : Nat) : State :=
  s.onOp p o.id fun q => { q.without (olds.map (·.1)) with got := q.got ++ olds, wct := max q.wct wct }

/-- HOME_ATOMIC: the lanes of an atomic on one line are performed as one write (R248). -/
def execHomeAtomic (p : PackId) (op line : Nat) (s : State) : Result :=
  .next (match s.lineOp p op line with
    | none => s
    | some (t, k, o) =>
      let lanes := lineLanes t k o line
      let fn := atomOf o
      match s.atomAt t.ctx line fn.1 fn.2 (atomLanes o lanes) (some p) with
      | (.ok r, s) => (s.landAtom p o r.1 r.2).lineDone t k o lanes
      | (.error (.fault c r), s) => (s.faultLanes p o c r lanes).lineDone t k o lanes
      | (.error (.window x), s) =>
        ((s.setDirty x).sendRequest t.core k.slot p op line x
          (.atomic t.ctx (x.ownerAddr (firstAddr lanes)) fn.1 fn.2 (atomLanes o lanes) (o.ctr == .st))).sentAway p op lanes
      | (.error _, s) => (s.faultPages t k o lanes).lineDone t k o lanes)

/-! ## The words -/

/-- An address in the launch's private area, which no atomic may name (R247). -/
def inPrivateArea (t : Team) (a : Nat) : Bool := decide (t.parea ≤ a) && decide (a < t.parea + 2048 * t.pmax * t.total)

/-- Checks 2 and 3 of R219 and the private area (R247). -/
def atomCheck (t : Team) (a : Int) (n : Nat) : Option (Nat × Nat) :=
  (addrCheck a n).orElse fun _ => if inPrivateArea t a.toNat then some (cSPACE, 0) else none

/-- An atomic word (R250). -/
def atomWord (i : Instr) (s : State) (ctr : Counter) (b o : BitVec 6) (vals : Pack → Nat → Nat) (vdst : Nat → List Nat) : Result :=
  .next (issueWord i s fun u t =>
    let p := u.pk
    let addr := laneAddr p b.toNat o.toNat
    let r := checkedLanes (lanesOf p.active) addr fun l => atomCheck u.tm (addr l) (memSize p.ty i)
    .done (t.startMem u i ctr r.1 r.2 (r.1.map fun q => (q.1, vals p q.1)) (vdst p.ty) [] false))

/-- ATOM (R251). -/
def execAtom (e : Bool) (v b o : BitVec 6) (l : Bool) (f : BitVec 6) (s : State) : Result :=
  atomWord (.atom e v b o l f) s .ld b o (fun p k => p.laneVal (pairTy p.ty) v.toNat k) fun ty => vdstOf (pairTy ty) v.toNat
/-- ATOMF (R252). -/
def execAtomf (e : Bool) (v b o : BitVec 6) (l : Bool) (f : BitVec 6) (s : State) : Result :=
  atomWord (.atomf e v b o l f) s .ld b o (fun p k => p.vl v.toNat k) fun _ => [v.toNat]
/-- ATOMS (R251). -/
def execAtoms (e : Bool) (v b o : BitVec 6) (l : Bool) (f : BitVec 6) (s : State) : Result :=
  atomWord (.atoms e v b o l f) s .st b o (fun p k => p.laneVal (pairTy p.ty) v.toNat k) fun _ => []
/-- CAS (R253). -/
def execCas (e : Bool) (v : BitVec 5) (b o : BitVec 6) (l : Bool) (f : BitVec 3) (s : State) : Result :=
  atomWord (.cas e v b o l f) s .ld b o (fun p k => p.pair (2 * v.toNat) k) fun _ => [2 * v.toNat]
/-- CAS64 (R253). -/
def execCas64 (e : Bool) (v : BitVec 4) (b o : BitVec 6) (l : Bool) (f : BitVec 3) (s : State) : Result :=
  atomWord (.cas64 e v b o l f) s .ld b o
    (fun p k => p.pair (4 * v.toNat) k + 2 ^ 64 * p.pair (4 * v.toNat + 2) k) fun _ => [4 * v.toNat, 4 * v.toNat + 1]

/-! ## Release and acquire -/

/-- The release conditions of a scope do not hold yet (R243): 0 .pack, 4 .sys, the others with GTC at LWCT. Accesses listed for
replay are yet to be performed (R245). -/
def releaseWaits (scope : Nat) (s : State) : Bool :=
  let p := s.pk
  p.counter .ld != 0 || p.counter .st != 0 || !p.replay.isEmpty
    || (scope != 0 && (p.counter .tl != 0 || p.counter .dc != 0
        || decide (s.gtc < p.lwct + (if scope = 4 then s.eps else 0))))

/-- LDAQ (R254): a load that is an acquire. -/
def execLdaq (e : Bool) (v b o : BitVec 6) (l : Bool) (w : BitVec 1) (c : BitVec 3) (s : State) : Result :=
  memWord (.ldaq e v b o l w c) s .ld b o (fun _ _ => 0) (vdstOf (w.toNat == 1) v.toNat) noWait true
/-- STRL (R255): a release, and then a store. -/
def execStrl (e : Bool) (v b o : BitVec 6) (l : Bool) (w : BitVec 1) (c : BitVec 3) (s : State) : Result :=
  memWord (.strl e v b o l w c) s .st b o (fun p k => p.laneVal (w.toNat == 1) v.toNat k) [] (releaseWaits c.toNat) false
/-- FENCE (R256): a release, and an acquire that completes with it. -/
def execFence (e : Bool) (c : BitVec 3) (s : State) : Result :=
  .next (issueWord (.fence e c) s fun u t => if releaseWaits c.toNat u then .stall else .done t)

end Sys2Proof.Machine
end

