-- ==== Sys2Proof/Machine/Aes.lean ====
section
/-! DEFINITION. AES-256 (FIPS 197) and XTS (IEEE 1619), by which R287 enciphers the data area of a tensor, and the CRC-32
of a felt. A block of 16 bytes is a number, byte i in bits 8i+7:8i. -/

namespace Sys2Proof.Machine

/-- The S-box, entry x in bits 8x+7:8x. -/
def aesSbox : Nat :=
  0x16BB54B00F2D99416842E6BF0D89A18CDF2855CEE9871E9B948ED9691198F8E19E1DC186B95735610EF6034866B53E708A8BBD4B1F74DDE8C6B4A61C2E2578BA08AE7A65EAF4566CA94ED58D6D37C8E779E4959162ACD3C25C2406490A3A32E0DB0B5EDE14B8EE4688902A22DC4F816073195D643D7EA7C41744975FEC130CCDD2F3FF1021DAB6BCF5389D928F40A351A89F3C507F02F94585334D43FBAAEFD0CF584C4A39BECB6A5BB1FC20ED00D153842FE329B3D63B52A05A6E1B1A2C830975B227EBE28012079A059618C323C7041531D871F1E5A534CCF73F362693FDB7C072A49CAFA2D4ADF04759FA7DC982CA76ABD7FE2B670130C56F6BF27B777C63

/-- Its inverse. -/
def aesSboxInv : Nat :=
  0x7D0C2155631469E126D677BA7E042B17619953833CBBEBC8B0F52AAE4D3BE0A0EF9CC9939F7AE52D0D4AB519A97F51605FEC8027591012B131C7078833A8DD1FF45ACD78FEC0DB9A2079D2C64B3E56FC1BBE18AA0E62B76F89C5291D711AF1476EDF751CE837F9E28535ADE72274AC9673E6B4F0CECFF297EADC674F4111913A6B8A130103BDAFC1020F3FCA8F1E2CD00645B3B80558E4F70AD3BC8C00ABD890849D8DA75746155EDAB9EDFD5048706C92B6655DCC5CA4D41698688664F6F87225D18B6D49A25B76B224D92866A12E084EC3FA420B954CEE3D23C2A632947B54CBE9DEC444438E3487FF2F9B8239E37CFBD7F3819EA340BF38A53630D56A0952

/-- Entry x of a box. -/
def boxAt (box x : Nat) : Nat := bitsAt box (8 * (x % 256)) 8

/-- x times 2 in the field of AES. -/
def aesDouble (x : Nat) : Nat := if x < 128 then 2 * x else (2 * x) % 256 ^^^ 0x1B

/-- x times k in the field of AES, for k below 16. -/
def aesMul (x k : Nat) : Nat :=
  let x2 := aesDouble x
  let x4 := aesDouble x2
  (if k.testBit 0 then x else 0) ^^^ (if k.testBit 1 then x2 else 0) ^^^ (if k.testBit 2 then x4 else 0)
    ^^^ (if k.testBit 3 then aesDouble x4 else 0)

/-- Byte i of a block. -/
def blockByte (b i : Nat) : Nat := bitsAt b (8 * i) 8

/-- The block whose byte i is f i. -/
def mkBlock (f : Nat → Nat) : Nat := (List.range 16).foldl (fun acc i => acc + f i <<< (8 * i)) 0

/-- A column mixed with the coefficients m. -/
def mixColumn (m : List Nat) (b : Nat) : Nat :=
  mkBlock fun i => (List.range 4).foldl (fun acc j =>
    acc ^^^ aesMul (blockByte b (i / 4 * 4 + j)) (m[(j + 4 - i % 4) % 4]?.getD 0)) 0

/-- A word of four bytes through the S-box. -/
def subWord (w : Nat) : Nat := (List.range 4).foldl (fun acc i => acc + boxAt aesSbox (bitsAt w (8 * i) 8) <<< (8 * i)) 0

/-- The next n words of the key schedule of a 256-bit key: the words so far, latest first; word number i next; the round
constant. -/
def keyWords (ws : List Nat) (i rcon : Nat) : Nat → List Nat
  | 0 => ws
  | n + 1 =>
    let last := ws[0]?.getD 0
    let t := if i % 8 = 0 then subWord (last / 256 + last % 256 * 2 ^ 24) ^^^ rcon else if i % 8 = 4 then subWord last else last
    keyWords ((ws[7]?.getD 0 ^^^ t) :: ws) (i + 1) (if i % 8 = 0 then aesDouble rcon else rcon) n

/-- The 15 round keys. -/
def roundKeys (key : Nat) : List Nat :=
  let ws := (keyWords ((List.range 8).map fun i => bitsAt key (32 * i) 32).reverse 8 1 52).reverse
  (List.range 15).map fun r => (List.range 4).foldl (fun acc i => acc + (ws[4 * r + i]?.getD 0) <<< (32 * i)) 0

/-- SubBytes and ShiftRows. -/
def subShift (b : Nat) : Nat := mkBlock fun i => boxAt aesSbox (blockByte b ((i + 4 * (i % 4)) % 16))
/-- Their inverse. -/
def unsubShift (b : Nat) : Nat := mkBlock fun i => boxAt aesSboxInv (blockByte b ((i + 16 - 4 * (i % 4)) % 16))

/-- The rounds of encryption with the keys left. -/
def encRounds (b : Nat) : List Nat → Nat
  | [] => b
  | [k] => subShift b ^^^ k
  | k :: ks => encRounds (mixColumn [2, 3, 1, 1] (subShift b) ^^^ k) ks

/-- The rounds of decryption with the keys left, last key first. -/
def decRounds (b : Nat) : List Nat → Nat
  | [] => b
  | [k] => unsubShift b ^^^ k
  | k :: ks => decRounds (mixColumn [14, 11, 13, 9] (unsubShift b ^^^ k)) ks

/-- AES-256 of a block under round keys. -/
def aesEncrypt (rk : List Nat) (b : Nat) : Nat :=
  match rk with
  | [] => b
  | k :: ks => encRounds (b ^^^ k) ks

/-- Its inverse. -/
def aesDecrypt (rk : List Nat) (b : Nat) : Nat :=
  match rk.reverse with
  | [] => b
  | k :: ks => decRounds (b ^^^ k) ks

/-- The next tweak: times the primitive element. -/
def xtsNext (t : Nat) : Nat := (2 * t) % 2 ^ 128 ^^^ (if 2 ^ 127 ≤ t then 0x87 else 0)

/-- The blocks of a data unit through f, n of them from tweak t. -/
def xtsBlocks (f : Nat → Nat) (t x : Nat) : Nat → Nat
  | 0 => 0
  | n + 1 => (f (x % 2 ^ 128 ^^^ t) ^^^ t) + 2 ^ 128 * xtsBlocks f (xtsNext t) (x / 2 ^ 128) n

/-- One data unit of n blocks, encrypted or decrypted under keys k1 and k2 with a tweak (R287). -/
def xtsUnit (dec : Bool) (k1 k2 tweak x n : Nat) : Nat :=
  let rk := roundKeys k1
  xtsBlocks (if dec then aesDecrypt rk else aesEncrypt rk) (aesEncrypt (roundKeys k2) tweak) x n

/-- The tweak of data unit i of block b of tensor tid (R287). -/
def xtsTweak (tid b i : Nat) : Nat := tid % 2 ^ 64 * 2 ^ 64 + b % 2 ^ 48 * 2 ^ 16 + i % 2 ^ 16

/-- The bytes of a block, enciphered or deciphered in data units of 128 bytes from unit i (R287). n units at most. -/
def xtsBytes (dec : Bool) (k1 k2 tid b i : Nat) (bs : List Byte) : Nat → List Byte
  | 0 => []
  | n + 1 =>
    match bs with
    | [] => []
    | _ =>
      let u := bs.take 128
      toBytes (xtsUnit dec k1 k2 (xtsTweak tid b i) (ofBytes u) (u.length / 16)) u.length
        ++ xtsBytes dec k1 k2 tid b (i + 1) (bs.drop 128) n

/-- One bit of the reflected CRC-32, the polynomial of IEEE 802.3. -/
def crcBit (c : Nat) : Nat := if c.testBit 0 then c / 2 ^^^ 0xEDB88320 else c / 2

/-- CRC-32 of bytes, from register c. -/
def crcFrom (c : Nat) (bs : List Byte) : Nat :=
  bs.foldl (fun c b => (List.range 8).foldl (fun c _ => crcBit c) (c ^^^ b.toNat)) c

/-- CRC-32 of bytes (initial and final value all ones). -/
def crc32 (bs : List Byte) : Nat := crcFrom 0xFFFFFFFF bs ^^^ 0xFFFFFFFF

end Sys2Proof.Machine
end

