-- ==== Sys2Proof/Machine/Codec.lean ====
section
/-! DEFINITION. Compressed tensors: layout records, index entries, code tables, block streams, and how a block is decoded
and encoded (R260-R273, R287). -/

namespace Sys2Proof.Machine

/-! ## Formats (R67) -/

/-- A stored element format that is not reserved. -/
def fmtOk (f : Nat) : Bool := (decide (1 ≤ f) && decide (f ≤ 8)) || f == 0xA
/-- Bits of a fixed-width code; a LAT8 code is one point (R267). -/
def fmtWidth (f : Nat) : Nat :=
  match f with
  | 1 | 2 | 5 => 8
  | 3 | 4 => 4
  | 0xA => 32
  | _ => 16
/-- w_s: the bytes of a group's scale (R266). -/
def scaleBytes (f : Nat) (xp : Bool) : Nat :=
  match f with
  | 1 | 2 | 5 | 8 => 1
  | 3 => if xp then 2 else 1
  | 4 => 2
  | _ => 0
/-- A weight format of the array (R67). -/
def fmtWeight (f : Nat) : Bool := decide (1 ≤ f) && decide (f ≤ 8)

/-! ## Layout records (R260-R262): a record is the number of its 128 bytes -/

/-- FMT. -/
def layFmt (r : Nat) : Nat := bitsAt r 52 4
/-- CT. -/
def layCT (r : Nat) : Nat := bitsAt r 48 4
/-- LR. -/
def layLR (r : Nat) : Nat := bitsAt r 44 4
/-- LC. -/
def layLC (r : Nat) : Nat := bitsAt r 40 4
/-- ENCR. -/
def layENCR (r : Nat) : Bool := r.testBit 39
/-- DD. -/
def layDD (r : Nat) : Bool := r.testBit 38
/-- AO. -/
def layAO (r : Nat) : Bool := r.testBit 37
/-- CB. -/
def layCB (r : Nat) : Nat := bitsAt r 32 2
/-- KEY. -/
def layKEY (r : Nat) : Nat := bitsAt r 16 16
/-- DIM k. -/
def layDim (r k : Nat) : Nat := bitsAt r (64 + 32 * k) 32
/-- DATA. -/
def layData (r : Nat) : Nat := bitsAt r 192 64
/-- DSIZE. -/
def layDsize (r : Nat) : Nat := bitsAt r 256 34
/-- BIDX. -/
def layBidx (r : Nat) : Nat := bitsAt r 320 64
/-- APTR. -/
def layAptr (r : Nat) : Nat := bitsAt r 384 64
/-- TID. -/
def layTid (r : Nat) : Nat := bitsAt r 448 64
/-- DDBASE. -/
def layDDBase (r : Nat) : Nat := bitsAt r 512 64
/-- DDLOG. -/
def layDDLog (r : Nat) : Nat := bitsAt r 576 5

/-- A malformed record r at address a (R261). -/
def layBad (a r : Nat) : Bool :=
  bitsAt r 56 8 != 0x4C || bitsAt r 581 443 != 0 || bitsAt r 290 30 != 0 || bitsAt r 34 3 != 0 || bitsAt r 0 16 != 0
    || !fmtOk (layFmt r) || decide (layLR r < 3) || decide (8 < layLR r) || decide (layLC r < 3) || decide (8 < layLC r)
    || (List.range 4).any (fun k => layDim r k == 0)
    || (layENCR r != (layKEY r != 0)) || (layENCR r && layDD r) || (layDD r && decide (24 < layDDLog r))
    || layData r % 32 != 0 || layBidx r % 8 != 0 || layAptr r % 8 != 0 || (layDD r && layDDBase r % 16 != 0)
    || a % 128 != 0

/-- TR: tile rows. -/
def layTR (r : Nat) : Nat := (layDim r 1 + 2 ^ layLR r - 1) / 2 ^ layLR r
/-- TC: tile columns. -/
def layTC (r : Nat) : Nat := (layDim r 0 + 2 ^ layLC r - 1) / 2 ^ layLC r
/-- The number of blocks. -/
def layBlocks (r : Nat) : Nat := layDim r 3 * layDim r 2 * layTR r * layTC r

/-- The block number of a tile coordinate; none outside the tensor (R262). -/
def blockOf (r c : Nat) : Option Nat :=
  let tc := bitsAt c 0 16
  let tr := bitsAt c 16 16
  let i2 := bitsAt c 32 16
  let i3 := bitsAt c 48 16
  if layTC r ≤ tc || layTR r ≤ tr || layDim r 2 ≤ i2 || layDim r 3 ≤ i3 then none
  else some (((i3 * layDim r 2 + i2) * layTR r + tr) * layTC r + tc)

/-- ROWS of the block at a coordinate. -/
def blockRows (r c : Nat) : Nat := min (2 ^ layLR r) (layDim r 1 - bitsAt c 16 16 * 2 ^ layLR r)
/-- COLS of the block at a coordinate. -/
def blockCols (r c : Nat) : Nat := min (2 ^ layLC r) (layDim r 0 - bitsAt c 0 16 * 2 ^ layLC r)

/-! ## Index entries (R263, R264) -/

/-- OFF. -/
def entOff (e : Nat) : Nat := bitsAt e 30 34
/-- LEN. -/
def entLen (e : Nat) : Nat := bitsAt e 16 14
/-- ST: 0 empty, 1 valid, 2 raw, 3 shared. -/
def entSt (e : Nat) : Nat := bitsAt e 4 4
/-- The entry of its fields. -/
def mkEntry (off len st : Nat) : Nat := off % 2 ^ 34 * 2 ^ 30 + len % 2 ^ 14 * 2 ^ 16 + st * 2 ^ 4

/-- A malformed entry of a tensor with record r. -/
def entBad (r e : Nat) : Bool :=
  bitsAt e 8 8 != 0 || bitsAt e 0 4 != 0 || decide (3 < entSt e)
    || (entSt e != 0 && (entLen e == 0 || decide (layDsize r < entOff e + entLen e)))
    || (entSt e == 2 && layFmt r != 6 && layFmt r != 7 && layFmt r != 0xA)

/-! ## Code tables (R269-R271): the record's words, header first -/

/-- A symbol: index, base, extra bits, length. -/
structure CtSym where
  idx  : Nat
  base : Nat
  xb   : Nat
  len  : Nat
deriving DecidableEq, Repr

/-- The symbols of a table's entry words. -/
def ctSyms (ws : List Word) : List CtSym :=
  (ws.drop 1).mapIdx fun i w => { idx := i, base := bitsOf w 31 16, xb := bitsOf w 15 11, len := bitsOf w 3 0 }

/-- N of a header word. -/
def ctCount (h : Word) : Nat := bitsOf h 23 16

/-- The defect of a table (R270): DETAIL of the fault. DEDUCED, log 56: of a table with several defects, the header's MAGIC, RES and N
come first, then the lowest bad entry, then the maximum length and the sum. -/
def ctDefect (ws : List Word) : Option Nat :=
  let h := ws[0]?.getD 0
  let ss := ctSyms ws
  let here := ss.filter fun s => s.len != 0
  if bitsOf h 31 24 != 0xC7 || bitsOf h 11 0 != 0 || ctCount h == 0 || decide (64 < ctCount h) then some 0xFF
  else match (ws.drop 1).findIdx? fun w =>
      decide (12 < bitsOf w 3 0) || (bitsOf w 3 0 != 0 && (bitsOf w 10 4 != 0 || decide (16 < bitsOf w 15 11))) with
    | some i => some i
    | none =>
      if here.isEmpty || (here.map (·.len)).foldl max 0 != bitsOf h 15 12
          || decide (2 ^ 12 < (here.map fun s => 2 ^ (12 - s.len)).foldl (· + ·) 0) then some 0xFF
      else none

/-- The canonical codes (R271): symbol and code, from length L on, n lengths. -/
def ctCodesFrom (ss : List CtSym) (L next : Nat) : Nat → List (CtSym × Nat)
  | 0 => []
  | n + 1 =>
    let here := ss.filter fun s => s.len == L
    here.mapIdx (fun i s => (s, next + i)) ++ ctCodesFrom ss (L + 1) (2 * (next + here.length)) n

/-- The canonical codes of a table. -/
def ctCodes (ws : List Word) : List (CtSym × Nat) := ctCodesFrom (ctSyms ws) 1 0 12

/-! ## Bits of a stream (R267) -/

/-- The bits of bytes, bit 0 first. -/
def bitList (bs : List Byte) : List Bool := (bs.map fun b => (List.range 8).map fun i => b.getLsbD i).flatten

/-- The number of a list of bits, lowest first. -/
def ofBits : List Bool → Nat
  | [] => 0
  | b :: bs => (if b then 1 else 0) + 2 * ofBits bs

/-- n bits of a number, lowest first. -/
def toBits (x n : Nat) : List Bool := (List.range n).map x.testBit

/-- n bits of a number, highest first. -/
def toBitsHigh (x n : Nat) : List Bool := (toBits x n).reverse

/-- A field of n bits, lowest first, and what follows it. -/
def takeField (n : Nat) (bs : List Bool) : Option (Nat × List Bool) :=
  let f := bs.take n
  if f.length = n then some (ofBits f, bs.drop n) else none

/-- The defect of a stream: a fault with its bit offset, or a bit past the stream's end. -/
inductive SErr where
  | bad (cause reason off : Nat)
  | short (off : Nat)
deriving DecidableEq, Repr

/-- The symbol that the next bits spell: its value, its bits, and the rest. L bits read so far make c; n more at most. -/
def matchCode (cs : List (CtSym × Nat)) (off L c : Nat) : Nat → List Bool → Except SErr (CtSym × Nat × List Bool)
  | 0, _ => .error (.bad cDECODE 3 off)
  | _ + 1, [] => .error (.short off)
  | n + 1, b :: bs =>
    let c := 2 * c + (if b then 1 else 0)
    match cs.find? fun s => s.1.len == L + 1 && s.2 == c with
    | some s => .ok (s.1, L + 1, bs)
    | none => matchCode cs off (L + 1) c n bs

/-- One symbol at bit off: its code, the bits it takes, and the rest. Without a table, a field of the format's width. DEDUCED, log 56:
a symbol whose extra bits run past the end fails at its own first bit. -/
def readSymbol (table : Option (List (CtSym × Nat))) (fmt off : Nat) (bs : List Bool) : Except SErr (Nat × Nat × List Bool) :=
  let val : Except SErr (Nat × Nat × List Bool) := match table with
    | none => match takeField (fmtWidth fmt) bs with
      | none => .error (.short off)
      | some (v, r) => .ok (v, fmtWidth fmt, r)
    | some cs =>
      match matchCode cs off 0 0 ((cs.map fun s => s.1.len).foldl max 0) bs with
      | .error e => .error e
      | .ok (s, L, r) => match takeField s.xb r with
        | none => .error (.short off)
        | some (x, r) => .ok (s.base + x, L + s.xb, r)
  match val with
  | .error e => .error e
  | .ok (v, k, r) =>
    if 2 ^ fmtWidth fmt ≤ v then .error (.bad cDECODE 4 off)
    else if fmt = 8 && latReserved v then .error (.bad cLATTICE 2 off)
    else .ok (v, k, r)

/-- n symbols from bit off: their codes, and the bit after them. -/
def readSymbols (table : Option (List (CtSym × Nat))) (fmt off : Nat) (bs : List Bool) : Nat → Except SErr (List Nat × Nat)
  | 0 => .ok ([], off)
  | n + 1 =>
    match readSymbol table fmt off bs with
    | .error e => .error e
    | .ok (v, k, r) => match readSymbols table fmt (off + k) r n with
      | .error e => .error e
      | .ok (vs, o) => .ok (v :: vs, o)

/-! ## Blocks -/

/-- The header of a stream. -/
structure SHead where
  fmt  : Nat
  slot : Nat
  xp   : Bool
deriving DecidableEq, Repr

/-- The header word's fields; none when it is malformed (R265). -/
def parseHeader (w : Nat) : Option SHead :=
  let f := bitsAt w 24 4
  let slot := bitsAt w 20 4
  let xp := w.testBit 19
  if bitsAt w 28 4 != 0xA || bitsAt w 0 19 != 0 || !fmtOk f || (xp && f != 3) || (f == 0xA && slot != 15) then none
  else some { fmt := f, slot := slot, xp := xp }

/-- The header word of a stream. -/
def mkHeader (h : SHead) : Nat := 0xA * 2 ^ 28 + h.fmt * 2 ^ 24 + h.slot * 2 ^ 20 + (if h.xp then 2 ^ 19 else 0)

/-- A parsed block: its format and shape, the scale field of each group, and the codes read. -/
structure Block where
  fmt    : Nat
  rows   : Nat
  cols   : Nat
  xp     : Bool := false
  /-- scale byte, or m of CB4; 127 for a format without scales -/
  scales : List Nat := []
  /-- X byte of each group -/
  xs     : List Nat := []
  /-- element codes, or LAT8 points, in row-major order -/
  codes  : List Nat := []
  book   : List Nat := []
  /-- the bit after the last symbol read -/
  stop   : Nat := 0
deriving DecidableEq, Repr

/-- Groups of a row (R266). -/
def groupsOf (cols : Nat) : Nat := (cols + 31) / 32
/-- Symbols of a row (R267). -/
def symbolsOf (fmt cols : Nat) : Nat := if fmt = 8 then (cols + 7) / 8 else cols
/-- Symbols up to the first n elements in row-major order. -/
def symbolsUpTo (fmt cols n : Nat) : Nat :=
  if n = 0 then 0 else (n - 1) / cols * symbolsOf fmt cols + (if fmt = 8 then (n - 1) % cols / 8 else (n - 1) % cols) + 1

/-- A CB4 scale that no stream may hold (R77). -/
def badM (m : Nat) : Bool := m.testBit 15 || bitsAt m 7 8 == 255

/-- The scale section: n groups of ws bytes from byte k: each group's field. -/
def readScales (fmt ws : Nat) (bs : List Byte) (k : Nat) : Nat → Except SErr (List Nat)
  | 0 => .ok []
  | n + 1 =>
    let f := bs.take ws
    if f.length < ws then .error (.short (8 * k))
    else if fmt = 4 && badM (ofBytes f) then .error (.bad cDECODE 4 (8 * k))
    else match readScales fmt ws (bs.drop ws) (k + ws) n with
      | .error e => .error e
      | .ok vs => .ok (ofBytes f :: vs)

/-- What a reader of a stream expects and brings. -/
structure Expect where
  fmt  : Nat
  xp   : Option Bool := none
  slot : Option Nat := none
  rows : Nat
  cols : Nat
  /-- elements to parse, from the first on -/
  upTo : Nat
  ct   : Nat → List Word
  book : List Nat

/-- The header of a stream, checked against what its reader expects (R265, R273 reasons 1 and 2, R272). -/
def checkHeader (x : Expect) (bs : List Byte) : Except SErr SHead :=
  if bs.length < 4 then .error (.short 0)
  else match parseHeader (ofBytes (bs.take 4)) with
    | none => .error (.bad cDECODE 1 0)
    | some h =>
      if h.fmt ≠ x.fmt || x.xp.any (· != h.xp) || x.slot.any (· != h.slot) then .error (.bad cDECODE 2 0)
      else if (h.slot ≠ 15 && (x.ct h.slot).isEmpty) || (h.fmt = 4 && x.book.isEmpty) then .error (.bad cDECODE 8 0)
      else .ok h

/-- Parse a block stream up to its first upTo elements (R265-R268). -/
def parseBlock (x : Expect) (bs : List Byte) : Except SErr Block :=
  match checkHeader x bs with
  | .error e => .error e
  | .ok h =>
    let ws := scaleBytes h.fmt h.xp
    let groups := x.rows * groupsOf x.cols
    match readScales h.fmt ws (bs.drop 4) 4 groups with
    | .error e => .error e
    | .ok fs =>
      let table := if h.slot = 15 then none else some (ctCodes (x.ct h.slot))
      let start := 4 + groups * ws
      match readSymbols table h.fmt (8 * start) (bitList (bs.drop start)) (symbolsUpTo h.fmt x.cols x.upTo) with
      | .error e => .error e
      | .ok (codes, stop) =>
        .ok { fmt := h.fmt, rows := x.rows, cols := x.cols, xp := h.xp, codes := codes, book := x.book, stop := stop,
              scales := fs.map fun f => if h.fmt = 4 then f else if ws = 0 then 127 else f % 256,
              xs := fs.map fun f => if h.xp then f / 256 else 0x80 }

/-- A raw block (R264): the present elements in row-major order, without header and scales. -/
def rawBlock (fmt rows cols : Nat) (bs : List Byte) : Except SErr Block :=
  match readSymbols none fmt 0 (bitList bs) (rows * cols) with
  | .error e => .error e
  | .ok (codes, stop) => .ok { fmt := fmt, rows := rows, cols := cols, codes := codes, stop := stop }

/-- An empty block (R264): every element +0.0. -/
def emptyBlock (fmt rows cols : Nat) : Block :=
  { fmt := if fmt = 8 || fmt = 4 then 0xA else fmt, rows := rows, cols := cols }

/-- The flags that a decode raises (R93, R280). -/
def decodeFlags : BitVec 8 := flagOF ||| flagUF ||| flagNX

/-- Element (r, c) of a block as FP32, with its flags (R268). -/
def Block.elem (b : Block) (r c : Nat) : Flagged :=
  let g := r * groupsOf b.cols + c / 32
  let sc := (b.scales[g]?).getD 127
  let v : Flagged :=
    if b.fmt = 8 then latElem ((b.codes[r * symbolsOf 8 b.cols + c / 8]?).getD 0) sc 0 (c % 8)
    else
      let q := (b.codes[r * b.cols + c]?).getD 0
      if b.fmt = 4 then decodeCB4 ((b.book[q]?).getD 0) sc else decodeElem b.fmt q sc ((b.xs[g]?).getD 0x80)
  (v.1, v.2 &&& decodeFlags)

/-! ## Encoding (R281) -/

/-- The bits of a code: the lowest-index present symbol that covers it, and its extra bits; a fixed field without a
table. -/
def codeBits (table : Option (List (CtSym × Nat))) (fmt q : Nat) : Option (List Bool) :=
  match table with
  | none => some (toBits q (fmtWidth fmt))
  | some cs =>
    match (sortBy (fun s : CtSym × Nat => s.1.idx) cs).find? fun s => decide (s.1.base ≤ q) && decide (q < s.1.base + 2 ^ s.1.xb) with
    | none => none
    | some s => some (toBitsHigh s.2 s.1.len ++ toBits (q - s.1.base) s.1.xb)

/-- x ÷ 2^(s − 127) of a finite FP32 value, exactly. -/
def unscaled (x s : Nat) : Num := (fp32.num x).scale (127 - (s : Int))

/-- A NaN of the quotient x ÷ NaN: x's own, or the canonical one (R137, log 13). -/
def quotientNaN (x : Nat) : Nat := if fp32.isNaN x then x else fp32.cnan

/-- The code of a value under the scale s of its group: RNA for E4M3, E5M2 and S8, R76 for E2M1X, RNE for BF16 and FP16. -/
def encodeElem (fmt s x : Nat) : Flagged :=
  match fmt with
  | 1 => if s = 0xFF then (nanTo fp32 e4m3 (quotientNaN x), 0) else roundTo e4m3 rmRNA false (unscaled x s)
  | 2 => if s = 0xFF then (nanTo fp32 e5m2 (quotientNaN x), 0) else roundTo e5m2 rmRNA false (unscaled x s)
  | 3 => if s = 0xFF then (0, flagIV) else quantE2m1At ((fp32.num x).units * (2 ^ (254 - s) : Nat)) 127 0x80
  | 5 =>
    if s = 0xFF then (0, flagIV)
    else
      let u := unscaled x s
      let r := roundScale rmRNA u.neg u.m (-u.e) false
      let v := satInt (if u.neg then -(r.1 : Int) else (r.1 : Int)) (-128) 127
      (wrapNat v.1 8, flagIf r.2 flagNX ||| v.2)
  | 6 => fpConv fp32 bf16 rmRNE x
  | 7 => fpConv fp32 fp16 rmRNE x
  | _ => (x, 0)

/-- What encoding one group gives: its scale field, its codes in order, and the flags of each element. -/
structure GroupCodes where
  scale : Nat
  codes : List Nat
  flags : List (BitVec 8)

/-- LSCALE over the points of a group, from E = 0 (R179): the scale, and the flags of each point. -/
def latGroupScale (pts : List (List Nat × Nat)) : Nat × List (BitVec 8) :=
  let r := pts.map fun q => lscaleLane q.1 (q.2 * 2 ^ 8)
  ((r.map fun v => v.1 % 256).foldl max 0, r.map (·.2))

/-- The values of a group cut into points of eight, each with its pad mask (R170). -/
def pointsOf (xs : List Nat) : Nat → List (List Nat × Nat)
  | 0 => []
  | n + 1 =>
    let k := (xs.take 8).length
    ((List.range 8).map (fun i => if i < k then (xs[i]?).getD 0 else 0), 2 ^ 8 - 2 ^ k) :: pointsOf (xs.drop 8) n

/-- Encode the values of one group. -/
def encodeGroup (fmt : Nat) (book xs : List Nat) : GroupCodes :=
  match fmt with
  | 4 =>
    let r := xs.map fun x => qcbLane book xs x
    { scale := ((r[0]?).map fun v => v.1 / 2 ^ 16).getD 0, codes := r.map fun v => v.1 % 16, flags := r.map (·.2) }
  | 8 =>
    let pts := pointsOf xs ((xs.length + 7) / 8)
    let sc := latGroupScale pts
    let r := pts.map fun q => latQuantise q.1 sc.1 q.2
    { scale := sc.1, codes := r.map (·.1),
      flags := (List.range xs.length).map fun i => ((r[i / 8]?).map (·.2)).getD 0 ||| (sc.2[i / 8]?).getD 0 }
  | 1 | 2 | 3 | 5 =>
    let s := bscaleGroup fmt xs
    let r := xs.map fun x => encodeElem fmt s x
    { scale := s, codes := r.map (·.1),
      flags := (xs.zip r).map fun q => q.2.2 ||| flagIf (fp32.isInf q.1 || fp32.isSNaN q.1) flagIV }
  | _ =>
    let r := xs.map fun x => encodeElem fmt 127 x
    { scale := 127, codes := r.map (·.1), flags := r.map (·.2) }

/-- The bits of codes from bit off on, with a defect where no symbol covers one, where they pass 2^19 − 1 bytes, or where
they pass the end of the space (in bits). -/
def emitCodes (table : Option (List (CtSym × Nat))) (fmt space off : Nat) : List Nat → Except SErr (List Bool × Nat)
  | [] => .ok ([], off)
  | q :: qs =>
    match codeBits table fmt q with
    | none => .error (.bad cDECODE 3 off)
    | some bs =>
      let o := off + bs.length
      if 8 * (2 ^ 19 - 1) < o then .error (.bad cDECODE 5 off)
      else if space < o then .error (.short off)
      else match emitCodes table fmt space o qs with
        | .error e => .error e
        | .ok (r, stop) => .ok (bs ++ r, stop)

/-- The start and length of group g of a block in elements (R266). -/
def groupSpan (cols g : Nat) : Nat × Nat :=
  let k := g % groupsOf cols
  (g / groupsOf cols * cols + 32 * k, min 32 (cols - 32 * k))

end Sys2Proof.Machine
end

