-- ==== Sys2Proof/Machine/Stream.lean ====
section
/-! DEFINITION. The compressed-tensor and stream words, and the append controller (R272-R289). -/

namespace Sys2Proof.Machine

/-! ## Reads of records by a word, as LDS reads (R230, R276) -/

/-- The address of a declined page fault among n bytes from va (R220, R356). -/
def Pack.declinedIn (p : Pack) (va n : Nat) : Option Nat :=
  match p.declined with
  | none => none
  | some (k, a) => if k != 3 && decide (va ≤ a) && decide (a < va + n) then some a else none

/-- A word reads n bytes at va and goes on with k, once no store of its own is outstanding on their lines (R211). A fault is
recorded against all 64 lanes and ends the word; a page fault parks the pack at the word, and once declined is PAGE_UNRESOLVED; a
line of a window is asked for and awaited. -/
def readAs (u t : State) (va n align : Nat) (k : State → Nat → Res) : Res :=
  if u.storeHeld (lineSpan va n) then .stall
  else match u.pk.declinedIn va n with
  | some a => .done { t with pk := t.pk.deferAll u.pk.pc cPAGE 0 (dw a) allOnes 0 }
  | none =>
    match t.readVirt u.pk.id u.tm.core u.tm.ctx va n align with
    | (.ok v, t, _) => k t v
    | (.fault c r a, t, _) => .done { t with pk := t.pk.deferAll u.pk.pc c r (dw a) allOnes 0 }
    | (.pageFault a, t, _) => .held (t.parkAtWord 0 a allOnes)
    | (.waiting, t, some q) => .wait ((t.waitUntil (t.ownWct (some u.pk.id))).sendLoad u.tm u.pk 1 (128 * q.2) q.1 0)
    | (.waiting, _, none) => .stall

/-- A fault of a stream or of a tensor (R273, R362): address field, coordinate field, bit offset. -/
def streamFault (cause reason addr : Nat) (aux : DWord) (off : Nat) : FaultRec :=
  { precise cause reason with addr := dw addr, aux := aux, detail := off }

/-- A word reads the layout record at rec: reason 7 when it is malformed; aux: the coordinate field (R261). -/
def readLayout (u t : State) (rec : Nat) (aux : DWord) (k : State → Nat → Res) : Res :=
  if rec % 128 ≠ 0 then .trap (streamFault cDECODE 7 rec aux 0)
  else readAs u t rec 128 128 fun t r => if layBad rec r then .trap (streamFault cDECODE 7 rec aux 0) else k t r

/-! ## Code-table slots (R272, R277) -/

/-- The record that slot n holds; empty for an empty slot. -/
def Team.slotTable (t : Team) (n : Nat) : List Word := Tab.get [] t.ct n

/-- The tile bytes from o for n touch a poisoned line. -/
def Alloc.poisonedIn (a : Alloc) (o n : Nat) : Bool := a.poison.any fun k => decide (32 * k < o + n) && decide (o < 32 * k + 32)

/-- ECC_UNCORR 3 against all 64 lanes, for a word that reads a tile as a whole (R369, log 14). -/
def Pack.deferTileEccAll (p : Pack) (h : Nat) : Pack := p.deferAll p.pc cECC 3 0 allOnes h

/-- CTLD (R277). -/
def execCtld (e : Bool) (n : BitVec 4) (h c : BitVec 6) (s : State) : Result :=
  .next (issueWord (.ctld e n h c) s fun u t =>
    let o := (u.pk.s c.toNat).toNat % 2 ^ 32
    match u.tileOf u.tm h.toNat with
    | .error r => .done { t with pk := t.pk.deferTileAll r h.toNat o }
    | .ok (hd, a) =>
      let word := fun k => BitVec.ofNat 32 (ofBytes (u.tileBytes hd a (o + 4 * k) 4))
      let cnt := if ctCount (word 0) ≤ 64 then ctCount (word 0) else 0
      if o % 4 ≠ 0 || hd.bytes < o + 4 || hd.bytes < o + 4 * (cnt + 1) then
        .done { t with pk := t.pk.deferTileAll 2 h.toNat o }
      else if a.poisonedIn o (4 * (cnt + 1)) then .done { t with pk := t.pk.deferTileEccAll h.toNat }
      else
        let ws := (List.range (cnt + 1)).map word
        match ctDefect ws with
        | some d => .trap (codeTable 1 h.toNat d)
        | none => .done { t with tm := { t.tm with ct := Tab.set [] t.tm.ct n.toNat ws } })

/-- CTINV (R277). -/
def execCtinv (e : Bool) (n : BitVec 4) (s : State) : Result :=
  .next (issueWord (.ctinv e n) s fun _ t => .done { t with tm := { t.tm with ct := Tab.set [] t.tm.ct n.toNat [] } })

/-! ## BIXQ (R278) -/

/-- BIXQ. -/
def execBixq (e : Bool) (v h c : BitVec 6) (s : State) : Result :=
  .next (issueWord (.bixq e v h c) s fun u t =>
    let rec_ := (u.pk.s h.toNat).toNat
    let co := u.pk.s c.toNat
    readLayout u t rec_ co fun t r =>
      match blockOf r co.toNat with
      | none => .trap (streamFault cDECODE 9 rec_ co 0)
      | some b =>
        readAs u t (layBidx r + 8 * b) 8 8 fun t ent =>
          if entBad r ent then .trap (streamFault cDECODE 6 rec_ co 0)
          else .done { t with pk := t.pk.setS v.toNat (dw ent) })

/-! ## Stream descriptors (R274) -/

/-- A stream descriptor. -/
structure SDesc where
  fmt  : Nat
  ct   : Nat
  cb   : Nat
  xp   : Bool
  rows : Nat
  cols : Nat
  /-- tile byte of the block -/
  off  : Nat
  idx  : Nat
  bit  : Nat
deriving DecidableEq, Repr

/-- The descriptor of a pair of scalars. -/
def sdesc (x y : Nat) : SDesc :=
  { fmt := bitsAt x 60 4, ct := bitsAt x 56 4, cb := bitsAt x 54 2, xp := x.testBit 53, rows := bitsAt x 40 8 + 1,
    cols := bitsAt x 32 8 + 1, off := 32 * bitsAt x 0 14, idx := bitsAt y 32 16, bit := bitsAt y 0 32 }

/-- A malformed descriptor. -/
def sdescBad (x y : Nat) : Bool :=
  let d := sdesc x y
  bitsAt x 48 5 != 0 || bitsAt x 14 18 != 0 || bitsAt y 48 16 != 0 || !fmtOk d.fmt || (d.xp && d.fmt != 3)
    || (d.fmt == 0xA && d.ct != 15)

/-- Elements of the block. -/
def SDesc.total (d : SDesc) : Nat := d.rows * d.cols
/-- Groups of the block. -/
def SDesc.groups (d : SDesc) : Nat := d.rows * groupsOf d.cols

/-- A word on a stream in tile memory: its handle and descriptor checked, and then f, given the coordinate field of its
faults (R273, R276). -/
def streamWord (i : Instr) (h : BitVec 6) (c : BitVec 5) (s : State)
    (f : State → State → SDesc → Handle → Alloc → DWord → Res) : Result :=
  .next (issueWord i s fun u t =>
    let x := (u.pk.s (2 * c.toNat)).toNat
    let y := (u.pk.s (2 * c.toNat + 1)).toNat
    let d := sdesc x y
    match u.tileOf u.tm h.toNat with
    | .error r => .done { t with pk := t.pk.deferTileAll r h.toNat d.off }
    | .ok (hd, a) =>
      if sdescBad x y then .trap (streamFault cDECODE 10 0 (tileAux h.toNat d.off) 0)
      else f u t d hd a (tileAux h.toNat d.off))

/-- The tile bytes of a stream, to the end of the tile. -/
def streamBytes (u : State) (d : SDesc) (hd : Handle) (a : Alloc) : List Byte := u.tileBytes hd a d.off (hd.bytes - d.off)

/-- What a reader of a stream expects of it. -/
def SDesc.expect (d : SDesc) (t : Team) (upTo : Nat) : Expect :=
  { fmt := d.fmt, xp := some d.xp, slot := some d.ct, rows := d.rows, cols := d.cols, upTo := upTo, ct := t.slotTable,
    book := t.book d.cb }

/-- A stream is parsed up to its first upTo elements; its defects end the word (R273, R274), as does poison (log 14). -/
def parseStream (u t : State) (h : BitVec 6) (d : SDesc) (hd : Handle) (a : Alloc) (aux : DWord) (upTo : Nat)
    (k : Block → Res) : Res :=
  match parseBlock (d.expect u.tm upTo) (streamBytes u d hd a) with
  | .error (.bad c r o) => .trap (streamFault c r 0 aux o)
  | .error (.short _) => .done { t with pk := t.pk.deferTileAll 2 h.toNat d.off }
  | .ok b => if a.poisonedIn d.off ((b.stop + 7) / 8) then .done { t with pk := t.pk.deferTileEccAll h.toNat } else k b

/-- A decode or encode unit starts to write a result: registers, a scalar, flags; dc counts it (R276). -/
def State.startUnit (t : State) (u : State) (i : Instr) (vdst : List Nat) (regs : List Lanes) (sdst : List Nat)
    (got : List (Nat × Nat)) (flags : BitVec 8) : State :=
  t.startOp (fun id => { id := id, ctr := .dc, word := i, fpc := u.pk.pc, mask := u.pk.active, vdst := vdst, regs := regs,
                         sdst := sdst, got := got, args := [flags.toNat] })
    fun id => [.decodeUnitRetire u.pk.id id]

/-- What DECH writes for group g (R279). -/
def dechLane (b : Block) (g : Nat) : Nat :=
  if b.rows * groupsOf b.cols ≤ g then 0
  else
    let sc := (b.scales[g]?).getD 0
    2 ^ 31 + b.fmt * 2 ^ 16 +
      (match b.fmt with
        | 3 => sc + ((b.xs[g]?).getD 0x80) * 2 ^ 8
        | 6 | 7 | 0xA => 0
        | _ => sc)

/-- DECH (R279). -/
def execDech (e : Bool) (v h : BitVec 6) (c : BitVec 5) (s : State) : Result :=
  streamWord (.dech e v h c) h c s fun u t d hd a aux =>
    parseStream u t h d hd a aux 0 fun b =>
      .done (t.startUnit u (.dech e v h c) [v.toNat] [ofLanes fun l => BitVec.ofNat 32 (dechLane b (d.idx + l))] [] [] 0)

/-- Element e of a block in row-major order as DEC delivers it: +0.0 past the last (R280). -/
def decElem (b : Block) (e : Nat) : Flagged := if e < b.rows * b.cols then b.elem (e / b.cols) (e % b.cols) else (0, 0)

/-- DEC (R280). -/
def execDec (e : Bool) (v : BitVec 4) (h : BitVec 6) (c : BitVec 5) (s : State) : Result :=
  streamWord (.dec e v h c) h c s fun u t d hd a aux =>
    parseStream u t h d hd a aux (if d.idx < d.total then min (d.idx + 256) d.total else 0) fun b =>
      let el := fun j l => decElem b (d.idx + 64 * j + l)
      .done (t.startUnit u (.dec e v h c) ((List.range 4).map (4 * v.toNat + ·))
        ((List.range 4).map fun j => ofLanes fun l => BitVec.ofNat 32 (el j l).1) [] []
        (flagsOver u.pk.active fun l => (List.range 4).foldl (fun f j => f ||| (el j l).2) 0))

/-- DECODE_UNIT_RETIRE: the result of a decode or encode is written, with DEC's flags, and dc falls (R276). -/
def execDecodeUnitRetire (p : PackId) (op : Nat) (s : State) : Result :=
  .next (match (s.pack? p).bind fun k => k.op? op with
    | none => s
    | some o =>
      if o.ctr != .dc || o.regs.isEmpty && o.sdst.isEmpty then s
      else match o.word with
      | .kvapp .. => s
      | _ =>
        (s.endOp p op fun o k =>
          (((o.vdst.zip o.regs).foldl (fun k q => k.landV o.mask q.1 q.2) k).landS o).raiseFlags
            (BitVec.ofNat 8 ((o.args[0]?).getD 0))).afterOp p)

/-! ## ENC and ENCF (R281, R282) -/

/-- IDX is 0, the number of elements, or the first element of a group. -/
def encIdxOk (d : SDesc) : Bool :=
  d.idx == d.total || (List.range d.groups).any fun g => (groupSpan d.cols g).1 == d.idx

/-- The whole groups that one ENC encodes. -/
def encGroups (d : SDesc) : List Nat :=
  (List.range d.groups).filter fun g =>
    let q := groupSpan d.cols g
    decide (d.idx ≤ q.1) && decide (q.1 + q.2 ≤ min (d.idx + 256) d.total)

/-- The value of element k of an ENC, counted from IDX: an inactive lane supplies +0.0. -/
def encValue (p : Pack) (v k : Nat) : Nat := if p.active.getLsbD (k % 64) then p.vl (4 * v + k / 64) (k % 64) else 0

/-- What an ENC gives: tile bytes to write (offset in the block, byte), elements, the new BIT, flags. -/
structure EncOut where
  bytes : List (Nat × Byte)
  n     : Nat
  bit   : Nat
  flags : BitVec 8

/-- The byte at offset o of a block with the bytes bs just written over the old ones. -/
def byteOver (bs : List (Nat × Byte)) (old : List Byte) (o : Nat) : Byte :=
  match bs.find? fun q => q.1 == o with
  | some q => q.2
  | none => (old[o]?).getD 0

/-- ENC on a block of the given bytes to the end of its tile; of a byte that holds BIT the bits below stay, those of a scale that this
word writes among them. DEDUCED, log 56: an entry's flag is raised when a lane that carries it is active. -/
def encode64 (t : Team) (p : Pack) (v : Nat) (d : SDesc) (old : List Byte) : Except SErr EncOut :=
  let ws := scaleBytes d.fmt false
  let gs := encGroups d
  let bit := if d.idx = 0 then 8 * (4 + d.groups * ws) else d.bit
  let out := gs.map fun g =>
    let q := groupSpan d.cols g
    (g, q.1 - d.idx, encodeGroup d.fmt (t.book d.cb) ((List.range q.2).map fun k => encValue p v (q.1 - d.idx + k)))
  let n := (gs.map fun g => (groupSpan d.cols g).2).foldl (· + ·) 0
  let flags := (out.map fun q => (q.2.2.flags.mapIdx fun k f => if p.active.getLsbD ((q.2.1 + k) % 64) then f else 0)).flatten
  match out.find? fun q => decide (old.length < 4 + (q.1 + 1) * ws) with
  | some q => .error (.short (8 * (4 + q.1 * ws)))
  | none =>
    let table := if d.ct = 15 then none else some (ctCodes (t.slotTable d.ct))
    match emitCodes table d.fmt (8 * old.length) bit (out.map fun q => q.2.2.codes).flatten with
    | .error x => .error x
    | .ok (bs, stop) =>
      let scales := (out.map fun q => (toBytes q.2.2.scale ws).mapIdx fun i b => (4 + q.1 * ws + i, b)).flatten
      let first := byteOver scales old (bit / 8)
      let body := toBytes (ofBits (toBits first.toNat (bit % 8) ++ bs)) ((stop + 7) / 8 - bit / 8)
      .ok { bytes := scales ++ (if bs.isEmpty then [] else body.mapIdx fun i b => (bit / 8 + i, b)),
            n := n, bit := stop, flags := flags.foldl (· ||| ·) 0 }

/-- Bytes written at offsets of a block.
The bytes of ENC and ENCF are there when the word issues. DESIGN CHOICE, log 63. -/
def State.putBytes (s : State) (hd : Handle) (a : Alloc) (off : Nat) (bs : List (Nat × Byte)) : State :=
  (bs.foldl (fun s q => s.tileWrite hd a (off + q.1) [q.2]) s).testGates

/-- ENC (R281).
IDX is 16 bits: the end of a block of 65,536 elements is 0, at which ENCF does not stand. DEDUCED, log 56. -/
def execEnc (e : Bool) (v : BitVec 4) (h : BitVec 6) (c : BitVec 5) (l : Bool) (s : State) : Result :=
  streamWord (.enc e v h c l) h c s fun u t d hd a aux =>
    if d.xp || !encIdxOk d then .trap (streamFault cDECODE 10 0 aux 0)
    else if (d.ct ≠ 15 && (u.tm.slotTable d.ct).isEmpty) || (d.fmt = 4 && (u.tm.book d.cb).isEmpty) then
      .trap (streamFault cDECODE 8 0 aux 0)
    else match encode64 u.tm u.pk v.toNat d (streamBytes u d hd a) with
      | .error (.bad k r o) => .trap (streamFault k r 0 aux o)
      | .error (.short _) => .done { t with pk := t.pk.deferTileAll 2 h.toNat d.off }
      | .ok r =>
        let t := { t with pk := t.pk.raiseFlags r.flags }
        .done ((t.putBytes hd a d.off r.bytes).startUnit u (.enc e v h c l) [] [] [2 * c.toNat + 1]
          [(0, (d.idx + r.n) % 2 ^ 16 * 2 ^ 32 + r.bit % 2 ^ 32)] 0)

/-- ENCF (R282). -/
def execEncf (e : Bool) (v h : BitVec 6) (c : BitVec 5) (s : State) : Result :=
  streamWord (.encf e v h c) h c s fun u t d hd a aux =>
    let units := (d.bit + 255) / 256
    let old := streamBytes u d hd a
    if d.idx ≠ d.total then .trap (streamFault cDECODE 10 0 aux 0)
    else if old.length < max 4 (32 * units) then .done { t with pk := t.pk.deferTileAll 2 h.toNat d.off }
    else
      let header := (toBytes (mkHeader { fmt := d.fmt, slot := d.ct, xp := d.xp }) 4).mapIdx fun i b => (i, b)
      let first := BitVec.ofNat 8 ((byteOver header old (d.bit / 8)).toNat % 2 ^ (d.bit % 8))
      let pad := (List.range (32 * units - d.bit / 8)).map fun i => (d.bit / 8 + i, if i = 0 then first else 0)
      .done ((t.putBytes hd a d.off (header ++ pad)).startUnit u (.encf e v h c) [] [] [v.toNat] [(0, units)] 0)

/-! ## Keys (R287, R375) -/

/-- The entry of key handle k, from the cache or the key table. -/
def State.keyEntry (s : State) (k : Nat) : Nat × State :=
  match s.keys.find? fun e => e.1 == k with
  | some e => (e.2.toNat, s)
  | none =>
    let v := memNat s.hbm (bitsOf s.keytab 44 7 * 2 ^ 7 + 128 * k) 128
    (v, { s with keys := s.keys ++ [(k, BitVec.ofNat 1024 v)] })

/-- The keys K1 and K2 of handle k for context ctx; none where R375 raises KEY. -/
def State.keyFor (s : State) (ctx k : Nat) : Option (Nat × Nat) × State :=
  if k = 0 || bitsOf s.keytab 63 48 ≤ k then (none, s)
  else
    let r := s.keyEntry k
    (if !r.1.testBit 512 || bitsAt r.1 528 16 != ctx then none else some (bitsAt r.1 0 256, bitsAt r.1 256 256), r.2)

/-! ## The append controller (R284-R287) -/

/-- The page of va cannot be appended to: no translation, no W, or not of this device's memory. -/
def State.pageRefuses (s : State) (ctx va : Nat) : Bool × State :=
  if 2 ^ 45 ≤ va then (true, s)
  else match s.translate ctx va with
    | (none, s) => (true, s)
    | (some x, s) => (!x.perm.w || x.pw, s)

/-- The first of a list of addresses whose page refuses. -/
def State.firstRefusal (s : State) (ctx : Nat) : List Nat → Option Nat × State
  | [] => (none, s)
  | va :: vs => match s.pageRefuses ctx va with
    | (true, s) => (some va, s)
    | (false, s) => s.firstRefusal ctx vs

/-- The line at the end of the coherence order, if it is this device's, and whether it is poisoned. -/
def State.latestLine (s : State) (ctx line : Nat) : Option (Line × Bool) × State :=
  match s.findLine ctx line with
  | (.home h, s) => (some (h.latest, h.poison), s.putHome h)
  | (.channel _ phys, s) => (some (memLine s.hbm phys, s.poison.contains phys), s)
  | (_, s) => (none, s)

/-- n bytes at va at the end of the coherence order, joined from their lines; 0 in a line that is not there. -/
def State.latestBytes (s : State) (ctx va n : Nat) : List Byte × State :=
  (List.range ((va % 128 + n + 127) / 128)).foldl (fun (acc : List Byte × State) i =>
    let r := acc.2.latestLine ctx (va / 128 + i)
    let d := match r.1 with
      | some q => q.1
      | none => 0
    let lo := if i = 0 then va % 128 else 0
    let hi := min 128 (va % 128 + n - 128 * i)
    (acc.1 ++ (List.range (hi - lo)).map fun k => lineByte d (lo + k), r.2)) ([], s)

/-- Write bytes at va in their lines, as writes at their homes: the largest WCT. -/
def State.writeVirt (s : State) (ctx va : Nat) (bs : List Byte) (lift : Bool) : Nat × State :=
  (List.range ((va % 128 + bs.length + 127) / 128)).foldl (fun (acc : Nat × State) i =>
    let lo := if i = 0 then va % 128 else 0
    let hi := min 128 (va % 128 + bs.length - 128 * i)
    let part := (List.range (hi - lo)).map fun k => (lo + k, (bs[128 * i + lo + k - va % 128]?).getD 0)
    match acc.2.storeLine ctx (va / 128 + i) part lift none with
    | (.ok w, s) => (max acc.1 w, s)
    | (.error _, s) => (acc.1, s)) (0, s)

/-- What an append asks: the layout record, the block number, the length in units, and the block. -/
structure Append where
  ctx  : Nat
  rec_ : Nat
  b    : Nat
  len  : Nat
  data : List Byte
  /-- the lift engine appends: its writes own their lines (R257) -/
  lift : Bool := false

/-- How an append ends: the new index entry with its WCT, refusal 1, 2 or 3 with the failing address, or a read of a
poisoned pointer or entry. -/
inductive Appended where
  | entry (e wct : Nat)
  | refused (n va : Nat)
  | poisoned

/-- The addresses at which the pages of n bytes at va are checked: one for each 64 KiB page. -/
def pageStarts (va n : Nat) : List Nat :=
  (List.range ((va + n + 65535) / 65536 - va / 65536)).map fun i => if i = 0 then va else (va / 65536 + i) * 65536

/-- The deduplication frame of a block (R286): the number of the table entry whose hash, length and bytes agree; and
whether some entry of equal hash differs. Bytes 8 to 15 of an entry hold the hash (the model's choice, log 8). -/
def State.findFrame (s : State) (a : Append) (hash : Nat) : Option Nat × Bool × State :=
  (List.range (2 ^ layDDLog a.rec_)).foldl (fun (acc : Option Nat × Bool × State) i =>
    if acc.1.isSome then acc
    else
      let r := acc.2.2.latestBytes a.ctx (layDDBase a.rec_ + 16 * i) 16
      let e := ofBytes (r.1.take 8)
      if bitsAt e 0 16 = 0 || ofBytes (r.1.drop 8) != hash then (none, acc.2.1, r.2)
      else
        let q := r.2.latestBytes a.ctx (layData a.rec_ + 32 * entOff e) (32 * entLen e)
        if entLen e = a.len && q.1 == a.data then (some i, acc.2.1, q.2) else (none, true, q.2)) (none, false, s)

/-- The first free entry of the deduplication table.
An entry is free when its count is 0, and the lowest free one is taken. DESIGN CHOICE, log 67. -/
def State.freeFrame (s : State) (a : Append) : Option Nat × State :=
  (List.range (2 ^ layDDLog a.rec_)).foldl (fun (acc : Option Nat × State) i =>
    if acc.1.isSome then acc
    else
      let r := acc.2.latestBytes a.ctx (layDDBase a.rec_ + 16 * i) 8
      (if bitsAt (ofBytes r.1) 0 16 = 0 then some i else none, r.2)) (none, s)

/-- Write entry b of the index, once the GTC has reached the WCTs of the data: the entry and its WCT (R285). -/
def State.writeEntry (s : State) (a : Append) (e dataWct : Nat) : Appended × State :=
  let s := s.waitUntil dataWct
  let r := s.writeVirt a.ctx (layBidx a.rec_ + 8 * a.b) (toBytes e 8) a.lift
  (.entry e r.1, r.2)

/-- A new frame: the data at the append pointer, which moves on (R285, R287). enc: the block as it is stored. -/
def State.appendFrame (s : State) (a : Append) (off st : Nat) (enc : List Byte) : Appended × State :=
  let p := s.writeVirt a.ctx (layAptr a.rec_) (toBytes (off + a.len) 8) a.lift
  let d := p.2.writeVirt a.ctx (layData a.rec_ + 32 * off) enc a.lift
  d.2.writeEntry a (mkEntry off a.len st) (max p.1 d.1)

/-- The bytes of a block as they lie in the data area (R287). -/
def storedBytes (a : Append) (key : Option (Nat × Nat)) : List Byte :=
  match key with
  | none => a.data
  | some k => xtsBytes false k.1 k.2 (layTid a.rec_) a.b 0 a.data (a.data.length + 1)

/-- Append a block, or share a frame, where nothing refuses it (R284-R286). key: the keys of an encrypted tensor.
A page of the deduplication table that cannot be reached reads as empty entries and takes no write. DESIGN CHOICE, log 67. -/
def State.append (s : State) (a : Append) (key : Option (Nat × Nat)) : Appended × State :=
  match s.firstRefusal a.ctx [layAptr a.rec_, layBidx a.rec_ + 8 * a.b] with
  | (some va, s) => (.refused 3 va, s)
  | (none, s) =>
    let q := s.latestLine a.ctx (layAptr a.rec_ / 128)
    let r := q.2.latestLine a.ctx ((layBidx a.rec_ + 8 * a.b) / 128)
    let s := r.2
    if (q.1.any fun d => d.2) || (r.1.any fun d => d.2) then (.poisoned, s)
    else
      let word := fun (d : Option (Line × Bool)) va => match d with
        | some d => lineNat d.1 (va % 128) 8
        | none => 0
      let off := word q.1 (layAptr a.rec_)
      let old := word r.1 (layBidx a.rec_ + 8 * a.b)
      if layAO a.rec_ && entSt old != 0 then (.refused 1 0, s)
      else if layDsize a.rec_ < off + a.len then (.refused 2 0, s)
      else match s.firstRefusal a.ctx (pageStarts (layData a.rec_ + 32 * off) (32 * a.len)) with
      | (some va, s) => (.refused 3 va, s)
      | (none, s) =>
      if !layDD a.rec_ then s.appendFrame a off 1 (storedBytes a key)
      else
        let hash := (Config.dedupHash a.data).toNat
        match s.findFrame a hash with
        | (some i, _, s) =>
          let at_ := layDDBase a.rec_ + 16 * i
          let f := s.latestBytes a.ctx at_ 8
          let e := ofBytes f.1
          let n := bitsAt e 0 16
          let w := f.2.writeVirt a.ctx at_ (toBytes (e - n + min 0xFFFF (n + 1)) 8) a.lift
          w.2.writeEntry a (mkEntry (entOff e) (entLen e) 3) w.1
        | (none, collision, s) =>
          let s := if collision then s.bump 10 else s
          match s.appendFrame a off 3 a.data with
          | (.entry e w, s) =>
            (match s.freeFrame a with
              | (some i, s) =>
                let d := s.writeVirt a.ctx (layDDBase a.rec_ + 16 * i)
                  (toBytes (off * 2 ^ 30 + a.len * 2 ^ 16 + 1) 8 ++ toBytes hash 8) a.lift
                (.entry e w, d.2.waitUntil d.1)
              | (none, s) => (.entry e w, s))
          | r => r

/-- KVAPP (R284): the keys of an encrypted tensor are those found at issue (R287). DEDUCED, log 56: a bad s[c+1] shows before the
record is read.
The bounds of the block in its tile are checked after reasons 10, 7 and 9, and KEY after reasons 1 and 2. DESIGN CHOICE, log 67. -/
def execKvapp (e : Bool) (v h : BitVec 6) (c : BitVec 5) (s : State) : Result :=
  .next (issueWord (.kvapp e v h c) s fun u t =>
    let rec_ := (u.pk.s (2 * c.toNat)).toNat
    let y := (u.pk.s (2 * c.toNat + 1)).toNat
    let b := bitsAt y 32 32
    let len := bitsAt y 18 14
    let off := 32 * bitsAt y 0 14
    match u.tileOf u.tm h.toNat with
    | .error r => .done { t with pk := t.pk.deferTileAll r h.toNat off }
    | .ok (hd, a) =>
      if bitsAt y 14 4 != 0 || len == 0 then .trap (streamFault cDECODE 10 rec_ (dw b) 0)
      else readLayout u t rec_ (dw b) fun t r =>
        if layBlocks r ≤ b then .trap (streamFault cDECODE 9 rec_ (dw b) 0)
        else if hd.bytes < off + 32 * len then .done { t with pk := t.pk.deferTileAll 2 h.toNat off }
        else if a.poisonedIn off (32 * len) then .done { t with pk := t.pk.deferTileEccAll h.toNat }
        else
          let data := u.tileBytes hd a off (32 * len)
          match parseHeader (ofBytes (data.take 4)) with
          | none => .trap (streamFault cDECODE 1 rec_ (dw b) 0)
          | some k =>
            if k.fmt ≠ layFmt r then .trap (streamFault cDECODE 2 rec_ (dw b) 0)
            else
              let key := t.keyFor u.tm.ctx (layKEY r)
              if layENCR r && key.1.isNone then .trap { precise cKEY 0 with addr := dw rec_, detail := layKEY r }
              else
                let op := fun id : Nat =>
                  ({ id := id, ctr := .dc, word := .kvapp e v h c, fpc := u.pk.pc, mask := u.pk.active, sdst := [v.toNat],
                     args := [rec_, r, b, len, ofBytes data] ++ if layENCR r then (key.1.map fun k => [k.1, k.2]).getD [] else [] } : Op)
                .done (key.2.startOp op fun id => [.kvappAppend u.pk.id id]))

/-- KVAPP_APPEND: the controller performs or refuses the append; the word retires at the entry's WCT (R285). -/
def execKvappAppend (p : PackId) (op : Nat) (s : State) : Result :=
  .next (match s.pack? p with
    | none => s
    | some k => match k.op? op with
      | none => s
      | some o => match o.word, o.args with
        | .kvapp .., rec_ :: r :: b :: len :: x :: keys =>
          let t := s.teamOf k
          let a : Append := { ctx := t.ctx, rec_ := r, b := b, len := len, data := toBytes x (32 * len) }
          let q := s.append a (match keys with
            | [k1, k2] => some (k1, k2)
            | _ => none)
          let fin := fun (s : State) (n : Nat) =>
            ((s.onOp p op fun o => { o with got := [(0, n)] }).endOp p op fun o k => k.landS o).afterOp p
          match q.1 with
          | .entry e w => fin (q.2.waitUntil w) e
          | .refused 3 va =>
            fin (q.2.post { packReport t k with kind := 3, addr := va, acc := 5, pc := o.fpc, d5 := rec_ }) 3
          | .refused n _ => fin q.2 n
          | .poisoned =>
            ((q.2.onPack p fun k => k.deferAll o.fpc cECC 1 (dw (layAptr r)) allOnes 0).endOp p op fun _ k => k).afterOp p
        | _, _ => s)

end Sys2Proof.Machine
end

