-- ==== Sys2Proof/Machine/Lift.lean ====
section
/-! DEFINITION. The lift engine: commands, channels, delivery and errors (R290-R306, R313, R314), the gate words
(R307-R312), and TFREE (R196). -/

namespace Sys2Proof.Machine

/-! ## Command blocks (R293): a command is the number of its 64 bytes -/

/-- OP. -/
def lcOp (c : Nat) : Nat := bitsAt c 52 4
/-- CHAN. -/
def lcChan (c : Nat) : Nat := bitsAt c 45 3
/-- SRCK. -/
def lcRec (c : Nat) : Bool := c.testBit 44
/-- NDIM. -/
def lcNdim (c : Nat) : Nat := bitsAt c 40 4
/-- GH. -/
def lcGH (c : Nat) : Nat := bitsAt c 34 6
/-- GOFF. -/
def lcGoff (c : Nat) : Nat := bitsAt c 0 32
/-- SRC. -/
def lcSrc (c : Nat) : Nat := bitsAt c 64 64
/-- DOFF. -/
def lcDoff (c : Nat) : Nat := bitsAt c 128 32
/-- DFMT. -/
def lcDfmt (c : Nat) : Nat := bitsAt c 164 2
/-- NACC. -/
def lcNacc (c : Nat) : Nat := bitsAt c 166 4
/-- ACC. -/
def lcAcc (c : Nat) : Nat := bitsAt c 170 4
/-- DH. -/
def lcDH (c : Nat) : Nat := bitsAt c 174 6
/-- MCAST. -/
def lcMcast (c : Nat) : Nat := bitsAt c 180 12
/-- START of walk dimension k. -/
def lcStart (c k : Nat) : Nat := bitsAt c (192 + 64 * k + 48) 16
/-- COUNT. -/
def lcCount (c k : Nat) : Nat := bitsAt c (192 + 64 * k + 32) 16
/-- STRIDE. -/
def lcStride (c k : Nat) : Int := signed (bitsAt c (192 + 64 * k) 32) 32

/-- Bytes of an element that a command delivers. -/
def lcElem (c : Nat) : Nat := if lcOp c = 1 && (lcDfmt c == 1 || lcDfmt c == 2) then 2 else 4

/-- The product of the COUNTs of dimensions k to n − 1. -/
def countsFrom (c k n : Nat) : Nat := ((List.range n).drop k).foldl (fun a i => a * lcCount c i) 1
/-- Items of the walk: tiles, or runs of a plain-address command (R294). -/
def lcItems (c : Nat) : Nat := countsFrom c (if lcRec c then 0 else 1) (lcNdim c)

/-- The bytes of a plain-address command. -/
def lcPlainBytes (c : Nat) : Nat := lcCount c 0 * lcItems c

/-- The tiles of an accumulator-load that exist in a share of m. -/
def lcAccTiles (c m : Nat) : BitVec 16 :=
  if lcOp c = 3 then BitVec.ofNat 16 ((2 ^ (lcNacc c + 1) - 1) * 2 ^ lcAcc c) &&& BitVec.ofNat 16 (2 ^ m - 1) else 0

/-- j_k of item n, for the dimensions from k on, innermost first. -/
def walkIndex (c k n : Nat) : Nat := n / countsFrom c 0 k % lcCount c k

/-- Coordinate k of item n (R294). -/
def walkCoord (c k n : Nat) : Int :=
  if k < lcNdim c then (lcStart c k : Int) + (walkIndex c k n : Int) * lcStride c k else 0

/-- The tile coordinate of item n, as a scalar (R262). -/
def itemCoord (c n : Nat) : Nat :=
  (List.range 4).foldl (fun acc k => acc + (wrapNat (walkCoord c k n) 16) <<< (16 * k)) 0

/-- Where run n of a plain-address command starts (R294). -/
def runStart (c n : Nat) : Int :=
  (((List.range (lcNdim c)).drop 1).foldl (fun (acc : Int × Nat) k =>
    (acc.1 + (acc.2 % lcCount c k : Nat) * lcStride c k, acc.2 / lcCount c k)) ((lcSrc c : Int), n)).1

/-- The segments (address, length) of bytes lo to hi − 1 of a plain-address command. -/
def runSegments (c lo hi : Nat) : List (Int × Nat) :=
  let n := lcCount c 0
  (List.range ((hi + n - 1) / n - lo / n)).map fun i =>
    let r := lo / n + i
    let a := max lo (r * n)
    let b := min hi (r * n + n)
    (runStart c r + ((a - r * n : Nat) : Int), b - a)

/-! ## Members (R299) -/

/-- The teams that a command names: its own, or the members of MCAST. -/
def Team.namedBy (t : Team) (c : Nat) : List TeamId :=
  if lcMcast c = 0 then [t.id]
  else ((List.range t.gang).filter fun r => (lcMcast c).testBit r).map t.member

/-- The named teams as the machine holds them. -/
def State.named (s : State) (t : Team) (c : Nat) : List Team := (t.namedBy c).filterMap s.team?

/-- The issuing team is itself named. -/
def Team.namesItself (t : Team) (c : Nat) : Bool := (t.namedBy c).contains t.id

/-! ## Ill-formed commands (R296) -/

/-- Reason 1. -/
def lcBad1 (c : Nat) : Bool :=
  bitsAt c 56 8 != 0x4B || decide (4 ≤ lcOp c) || bitsAt c 448 64 != 0 || bitsAt c 160 4 != 0 || bitsAt c 48 4 != 0
    || bitsAt c 32 2 != 0 || (lcOp c != 3 && (lcNacc c != 0 || lcAcc c != 0)) || (lcOp c != 1 && lcDfmt c != 0)
    || (lcOp c == 3 && (lcDH c != 0 || lcDoff c != 0))

/-- Reason 2. -/
def lcBad2 (c : Nat) : Bool :=
  lcNdim c == 0 || decide (4 < lcNdim c)
    || (List.range 4).any (fun k => if k < lcNdim c then lcCount c k == 0 else bitsAt c (192 + 64 * k) 64 != 0)
    || (!lcRec c && ((List.range 4).any (fun k => lcStart c k != 0) || lcStride c 0 != 0 || lcSrc c % 4 != 0
        || lcCount c 0 % 4 != 0 || [1, 2, 3].any fun k => decide (1 < lcCount c k) && lcStride c k % 4 != 0))

/-- The gate of a command in a team is not one (reason 3).
Released storage (R201) holds no gate. DEDUCED, log 68. -/
def State.gateBad (s : State) (m : Team) (c : Nat) : Bool :=
  match s.liveGate m (lcGH c) (lcGoff c) with
  | .ok _ => false
  | .error _ => true

/-- Reason 3: in the issuing team, named or not (DEDUCED, log 55), and in a named member where GH is allocated. -/
def State.lcBad3 (s : State) (t : Team) (c : Nat) : Bool :=
  s.gateBad t c || (s.named t c).any fun m => (m.handle (lcGH c)).isSome && s.gateBad m c

/-- The bytes that a command delivers, or, for encode-store, the bytes of its source tiles, where they are known before it
starts: with the layout record r. A record copy's are not. -/
def lcTotal (c : Nat) (r : Option Nat) : Option Nat :=
  if !lcRec c then some (lcPlainBytes c)
  else if lcOp c = 0 then none
  else r.map fun r => lcItems c * 2 ^ (layLR r + layLC r) * lcElem c

/-- DH of a team holds no storage.
Released storage (R201) counts as not allocated. DEDUCED, log 68. -/
def State.dhBad (s : State) (m : Team) (c : Nat) : Bool := ((m.handle (lcDH c)).bind s.storage).isNone

/-- Reason 4: DH is judged in the issuing team, named or not (DEDUCED, log 55), the end of the tile where bytes are delivered. -/
def State.lcBad4 (s : State) (t : Team) (c : Nat) (r : Option Nat) : Bool :=
  lcOp c != 3 &&
    (s.dhBad t c || lcDoff c % 32 != 0 || (lcOp c == 1 && lcDfmt c == 3)
      || match lcTotal c r with
        | none => false
        | some n => (s.named t c).any fun m => (m.handle (lcDH c)).any fun h => decide (h.bytes < lcDoff c + n))

/-- Reason 5. -/
def State.lcBad5 (s : State) (t : Team) (c : Nat) : Bool :=
  lcMcast c != 0 &&
    (lcOp c == 2 || lcOp c == 3 || t.gang == 0 || decide (2 ^ t.gang ≤ lcMcast c)
      || (t.namedBy c).any fun k => match s.team? k with
        | none => true
        | some m => (m.handle (lcGH c)).isNone || (lcOp c != 3 && s.dhBad m c))

/-- Reason 6. -/
def lcBad6 (t : Team) (c : Nat) (r : Option Nat) : Bool :=
  lcOp c == 3 && (decide (t.accs ≤ lcAcc c + lcNacc c)
    || match lcTotal c r with
      | none => false
      | some n => n != (lcNacc c + 1) * 32768)

/-- Reason 7 that needs no record, or that a record well formed shows; a record is malformed at an address that is not a multiple of 128
(R261). -/
def lcBad7 (c : Nat) (r : Option Nat) : Bool :=
  ((lcOp c == 1 || lcOp c == 2) && !lcRec c) || (lcRec c && lcSrc c % 128 != 0) || (lcOp c == 3 && r.any fun r => layFmt r != 0xA)

/-- Reason 8: a walked coordinate outside the tensor, or one that no coordinate field holds. -/
def lcBad8 (c r : Nat) : Bool :=
  (List.range (lcNdim c)).any fun k =>
    let lim := min 65536 (match k with
      | 0 => layTC r
      | 1 => layTR r
      | n => layDim r n)
    let a : Int := lcStart c k
    let b : Int := a + ((lcCount c k - 1 : Nat) : Int) * lcStride c k
    decide (min a b < 0) || decide ((lim : Int) ≤ max a b)

/-- The lowest reason that applies; r: the record, when it is well formed. -/
def State.lcReason (s : State) (t : Team) (c : Nat) (r : Option Nat) : Option Nat :=
  if lcBad1 c then some 1
  else if lcBad2 c then some 2
  else if s.lcBad3 t c then some 3
  else if s.lcBad4 t c r then some 4
  else if s.lcBad5 t c then some 5
  else if lcBad6 t c r then some 6
  else if lcBad7 c r then some 7
  else if lcRec c && r.any (lcBad8 c) then some 8
  else none

/-! ## Queues -/

/-- The queue of a team on channel ch. -/
def Team.queue (t : Team) (ch : Nat) : LiftQueue := Tab.get {} t.lift ch

/-- A queue changed by f. -/
def State.onQueue (s : State) (t : TeamId) (ch : Nat) (f : LiftQueue → LiftQueue) : State :=
  s.onTeam t fun m => { m with lift := Tab.set {} m.lift ch (f (m.queue ch)) }

/-- The event that carries out the next block of the active command. -/
def blockEvent (t : TeamId) (ch c : Nat) : Instr :=
  match lcOp c with
  | 0 => .liftCopy t ch
  | 1 => .liftDecodeCopy t ch
  | 2 => .liftEncodeStore t ch
  | _ => .liftAccumulatorLoad t ch

/-- The accumulator tiles that active accumulator-loads hold (R336). -/
def Team.heldTiles (t : Team) : BitVec 16 := (List.range 8).foldl (fun m ch => m ||| (t.queue ch).accTiles) 0

/-- The gate of a command in a team, changed by f where it is usable. -/
def State.onGate (s : State) (m : Team) (c : Nat) (f : Nat → Nat) : State :=
  match s.liveGate m (lcGH c) (lcGoff c) with
  | .ok (h, a, g) => s.tileWrite h a (lcGoff c) (toBytes (f g) 16)
  | .error _ => s

/-- The identity under which channel ch of a team sends requests through windows: a role number that no pack has. -/
def liftAgent (t : TeamId) (ch : Nat) : PackId := { grid := t.grid, team := t.team, role := 4, pir := ch }

/-! ## A channel's turns (R290, R299) -/

/-- A pack that takes room on its core. -/
def Pack.takesRoom (p : Pack) : Bool := p.status != .vacant && p.status != .retired && p.status != .saved

/-- The team is being saved: its packs are off the core, and its queues stop at their block boundaries (R314). -/
def State.stopping (s : State) (t : Team) : Bool :=
  let ps := s.packsOf t.id
  !(ps.any fun p => p.takesRoom) && ps.any fun p => p.status == .saved

/-- A held block whose member stands on its core again (R299). -/
def State.heldHere (s : State) (t : Team) (q : LiftQueue) : Option (Held × Team) :=
  q.held.findSome? fun h => match s.team? (t.member h.rank) with
    | none => none
    | some m => if m.status = .resident then some (h, m) else none

/-- Queue ch of a team may start the next block of its active command: every member that it names is placed. -/
def State.mayBegin (s : State) (t : Team) (ch : Nat) : Bool :=
  let q := t.queue ch
  match q.cmds with
  | [] => false
  | c :: _ =>
    q.active && !q.halted && !q.parked && q.drain.isNone && q.held.isEmpty && q.rest.isEmpty && !q.stop && t.status == .resident
      && !s.stopping t && (s.named t c.blk.toNat).all fun m => m.status == .resident

/-- Queue ch of a team has work for the channel. -/
def State.hasBlock (s : State) (t : Team) (ch : Nat) : Bool :=
  !(t.queue ch).rest.isEmpty || (s.heldHere t (t.queue ch)).isSome || s.mayBegin t ch

/-- The team whose queue has channel ch of a core: one whose block is being delivered, or else, round robin, the next after the
team whose block came last (R290; the order of the teams is the model's, log 55). -/
def State.channelTurn (s : State) (core ch : Nat) : Option Team :=
  let ts := s.allTeams.filter fun t => t.core == core && t.status == .resident
  match ts.find? fun t => !(t.queue ch).rest.isEmpty with
  | some t => some t
  | none =>
    let n := match Tab.get none (s.core core).lifts ch with
      | none => 0
      | some l => ts.findIdx (fun t => t.id == l) + 1
    (ts.drop n ++ ts.take n).find? fun t => s.hasBlock t ch

/-- The channel goes on with the queue whose turn it is. -/
def State.channelGo (s : State) (core ch : Nat) : State :=
  match s.channelTurn core ch with
  | none => s
  | some m => match (m.queue ch).cmds with
    | [] => s
    | c :: _ =>
      let e := blockEvent m.id ch c.blk.toNat
      if s.agenda.contains e then s else s.push [e]

/-- The source reads of a channel for a team come to nothing: what has been fetched, and what is still asked for (R306, R313). -/
def State.dropReads (s : State) (t : TeamId) (ch : Nat) : State :=
  { s with
    fetched := s.fetched.filter fun f => f.pack != liftAgent t ch
    requests := s.requests.filter fun r => r.pack != liftAgent t ch }

/-- An error of the command at the head (R302): the queue halts with its record, the gates get ERR, and the tiles of an
accumulator-load become invalid. -/
def State.liftFail (s : State) (t : TeamId) (ch : Nat) (e : LiftErr) : State :=
  match s.team? t with
  | none => s
  | some m =>
    match (m.queue ch).cmds with
    | [] => s
    | c :: _ =>
      let blk := c.blk.toNat
      let who := if m.namesItself blk then m.namedBy blk else t :: m.namedBy blk
      let s := who.foldl (fun s k => match s.team? k with
        | none => s
        | some m => s.onGate m blk fun g => gateError g ch e.code e.rsn) s
      let s := s.onTeam t fun m => { m with accBad := m.accBad ||| lcAccTiles blk m.accs }
      (((s.dropReads t ch).onQueue t ch fun q =>
        { q with halted := true, parked := false, active := false, report := none, drain := none, item := 0, sent := 0,
                 rec_ := 0, table := [], book := [], rest := [], held := [], stop := false, resumed := false, failing := none, err := e,
                 errSeq := c.seq }).channelGo m.core ch).testGates.exitCheck t

/-- A page fault parks the queue (R300); acc: 4 source, 5 destination or append. -/
def State.liftPark (s : State) (t : Team) (ch va acc : Nat) : State :=
  let n := s.nextReport
  let s := s.postFault { seq := 0, kind := 1, ctx := t.ctx, addr := va, acc := acc, lcore := t.lcore, team := t.id.team } (.lift t.id ch)
  (s.onQueue t.id ch fun q => { q with parked := true, report := some n }).channelGo t.core ch

/-- The next event of a queue: the start or the completion of its next command, or a block of its channel. -/
def State.liftGo (s : State) (t : TeamId) (ch : Nat) : State :=
  match s.team? t with
  | none => s
  | some m =>
    let q := m.queue ch
    (if q.halted || q.parked || q.cmds.isEmpty then s
     else if !q.active then s.push [.liftCommandStart t ch]
     else if q.drain.isSome && q.held.isEmpty then s.push [.liftCommandComplete t ch]
     else s).channelGo m.core ch

/-- The queue is parked on page-fault report seq: an answer to the report of a command that LCAN has removed changes nothing. -/
def State.parkedOn (s : State) (t : TeamId) (ch seq : Nat) : Bool :=
  (s.team? t).any fun m => (m.queue ch).report == some seq

/-- The answer to the page fault of a parked queue is resolve: it goes on from the first bit of its block (R300). -/
def State.liftResolve (s : State) (t : TeamId) (ch seq : Nat) : State :=
  if s.parkedOn t ch seq then (s.onQueue t ch fun q => { q with parked := false, report := none }).liftGo t ch else s

/-- The tile coordinate of the block that a queue is at; 0 for a plain-address command (R305). -/
def LiftQueue.coord (q : LiftQueue) : DWord :=
  match q.cmds with
  | [] => 0
  | c :: _ => if lcRec c.blk.toNat && q.active then dw (itemCoord c.blk.toNat q.item) else 0

/-- The answer is decline: an error with code 0x04 at va. -/
def State.liftDecline (s : State) (t : TeamId) (ch seq va : Nat) : State :=
  match s.team? t with
  | none => s
  | some m => if (m.queue ch).report ≠ some seq then s else s.liftFail t ch { code := cPAGE, rsn := 0, addr := va, coord := (m.queue ch).coord, bit := 0 }

/-! ## Source reads (R300) -/

/-- What a source read gives. -/
inductive LiftRead where
  | ok (bs : List Byte)
  | err (code rsn va : Nat)
  | page (va : Nat)
  /-- a line of a window has been asked for -/
  | wait

/-- A load of a line by a channel: at its home, without the L1. -/
def State.channelLoad (s : State) (ctx line : Nat) : Access × State :=
  match s.findLine ctx line with
  | (.absent, s) => (.pageFault, s)
  | (.window x, s) => (if x.perm.r then .window x else .fault cPROT 2, s)
  | (.channel x phys, s) =>
    (if !x.perm.r then .fault cPROT 2 else if s.poison.contains phys then .fault cECC 1 else .data (memLine s.hbm phys), s)
  | (.home h, s) =>
    if !h.perm.r then (.fault cPROT 2, s.putHome h)
    else if h.poison then (.fault cECC 1, s.putHome h)
    else
      let s := (h.pend.filter (·.lift)).foldl (fun s w => s.waitUntil w.wct) s
      let h := h.settle s.gtc
      (.data h.data, s.putHome h)

/-- n bytes at va for the agent who, read at their homes; n lines at most. -/
def State.homeBytes (s : State) (who : PackId) (core ctx va n : Nat) : Nat → LiftRead × State
  | 0 => (.ok [], s)
  | k + 1 =>
    if n = 0 then (.ok [], s)
    else
      let line := va / 128
      let m := min n (128 - va % 128)
      let go := fun (s : State) (d : Line) =>
        let r := s.homeBytes who core ctx (va + m) (n - m) k
        match r.1 with
        | .ok bs => (LiftRead.ok ((List.range m).map (fun i => lineByte d (va % 128 + i)) ++ bs), r.2)
        | x => (x, r.2)
      match s.fetched.find? fun f => f.pack == who && f.ctx == ctx && f.line == line with
      | some f => (match f.fault with
        | some (c, r) => (.err c r va, s)
        | none => go s f.data)
      | none => match s.channelLoad ctx line with
        | (.data d, s) => go s d
        | (.fault c r, s) => (.err c r va, s)
        | (.pageFault, s) => (.page va, s)
        | (.window x, s) =>
          (.wait, s.sendRequest core 0 who 1 line x (.load ctx (x.ownerAddr (128 * line)) 0))

/-- The bytes of segments, in order: checked as one lane, without PLIM. -/
def State.homeRead (s : State) (who : PackId) (core ctx : Nat) : List (Int × Nat) → LiftRead × State
  | [] => (.ok [], s)
  | (va, n) :: rest =>
    if va < 0 || (2 ^ 45 : Nat) < va + n then (.err cPROT 1 (wrapNat va 64), s)
    else match s.homeBytes who core ctx va.toNat n (n / 128 + 2) with
      | (.ok bs, s) => (match s.homeRead who core ctx rest with
        | (.ok cs, s) => (.ok (bs ++ cs), s)
        | r => r)
      | r => r

/-- The bytes of segments for channel ch of a team. -/
def State.channelRead (s : State) (t : Team) (ch : Nat) (segs : List (Int × Nat)) : LiftRead × State :=
  s.homeRead (liftAgent t.id ch) t.core t.ctx segs

/-! ## Operations of the array that hold a tile (R336)

The first of an array operation's args says where it stands: 0 has reached the array, 2 has slaved the follow array, 1 has
been performed. -/

/-- Tiles k to k + n − 1. -/
def tileMask (k n : Nat) : BitVec 16 := BitVec.ofNat 16 ((2 ^ n - 1) * 2 ^ k)

/-- An operation that the array has not performed. -/
def Op.atArray (o : Op) : Bool := o.ctr == .mx && (o.args[0]?).getD 1 != 1

/-- The word of a pair operation. -/
def isPair (i : Instr) : Bool :=
  match i with
  | .mma _ _ _ _ _ p _ => p == 1
  | _ => false

/-- The partner team of a pair operation of team t with A format fn from tile a (R323). -/
def State.partner (s : State) (t : Team) : Option Team :=
  if t.core % 2 ≠ 0 || t.gang = 0 then none
  else (t.gangTeams.filterMap s.team?).find? fun m => m.id != t.id && m.status == .resident && m.core == t.core + 1

/-- The accumulator tiles of a team that operations which have reached the array name (R336). -/
def State.arrayTiles (s : State) (t : Team) : BitVec 16 :=
  s.allPacks.foldl (fun m p => (p.ops.filter Op.atArray).foldl (fun m o =>
    let own := p.id.teamId == t.id
    let other := isPair o.word && ((s.partner (s.teamOf p)).map (·.id)) == some t.id
    if own || other then (uses p.ty o.word).ac.foldl (fun m q => m ||| tileMask q.1 q.2) m else m) m) 0

/-- The queues of a team whose next command has not started check it again. -/
def State.wakeLoads (s : State) (t : TeamId) : State :=
  match s.team? t with
  | none => s
  | some m => (List.range 8).foldl (fun s ch => if (m.queue ch).active then s else s.liftGo t ch) s

/-! ## Starting a command (R296) -/

/-- The bytes delivered before item n of a command whose walk goes on from there after a resume: blocks of one size, but for a
record copy, whose count stands in the queue (R206, R314). -/
def LiftQueue.sentAt (q : LiftQueue) (c r : Nat) : Nat :=
  if lcRec c && lcOp c != 0 then q.item * (2 ^ (layLR r + layLC r) * lcElem c) else q.sent

/-- Every block of a command has been delivered. -/
def liftFinished (c item sent : Nat) : Bool :=
  if lcRec c then decide (lcItems c ≤ item) else decide (lcPlainBytes c ≤ sent)

/-- The command at the head starts: from its first item, or where a resumed felt left it (R314). DEDUCED, log 55: the felt has no
field for the copies of the code tables and the codebook (R164, R272), which a resumed command takes again. -/
def State.liftStart (s : State) (t : Team) (ch : Nat) (r : Nat) : State :=
  let c := ((t.queue ch).cmds[0]?.map fun c => c.blk.toNat).getD 0
  (s.onQueue t.id ch fun q =>
    { q with active := true, resumed := false, sent := q.sentAt c r, rec_ := r, table := t.ct,
             drain := if liftFinished c q.item (q.sentAt c r) then some s.gtc else none,
             book := (t.book (layCB r)).map (BitVec.ofNat 16) }).liftGo t.id ch

/-- An ill-formed command (R302). -/
def State.liftRefuse (s : State) (t : Team) (ch reason addr : Nat) : State :=
  s.liftFail t.id ch { code := cLIFT, rsn := reason, addr := addr, coord := 0, bit := 0 }

/-- LIFT_COMMAND_START: the channel checks and starts the next command of a queue (R296), unless its team halts (R364). LQRY's selector 1
reads 0 after reasons 1 to 3. DEDUCED, log 68. -/
def execLiftCommandStart (t : TeamId) (ch : Nat) (s : State) : Result :=
  .next (match s.team? t with
    | none => s
    | some m =>
      let q := m.queue ch
      match q.cmds with
      | [] => s
      | k :: _ =>
        let c := k.blk.toNat
        if q.halted || q.parked || q.active || m.status != .resident || m.halt.isSome then s
        else if s.arrayTiles m &&& lcAccTiles c m.accs ≠ 0 then s
        else match s.lcReason m c none with
          | some n => if n ≤ 3 || !lcRec c then s.liftRefuse m ch n 0
            else if n = 4 || lcOp c = 0 || lcSrc c % 128 ≠ 0 then s.liftRefuse m ch n (lcSrc c)
            else match s.channelRead m ch [((lcSrc c : Int), 128)] with
              | (.ok bs, s) =>
                let r := ofBytes bs
                s.liftRefuse m ch (if layBad (lcSrc c) r then n else (s.lcReason m c (some r)).getD n) (lcSrc c)
              | (.page va, s) => s.liftPark m ch va 4
              | (.wait, s) => s
              | (.err .., s) => s.liftRefuse m ch n (lcSrc c)
          | none =>
            if !lcRec c then s.liftStart m ch 0
            else match s.channelRead m ch [((lcSrc c : Int), 128)] with
              | (.err x y va, s) => s.liftFail t ch { code := x, rsn := y, addr := va, coord := 0, bit := 0 }
              | (.page va, s) => s.liftPark m ch va 4
              | (.wait, s) => s
              | (.ok bs, s) =>
                let r := ofBytes bs
                if layBad (lcSrc c) r then s.liftRefuse m ch 7 (lcSrc c)
                else match s.lcReason m c (some r) with
                  | some n => s.liftRefuse m ch n (lcSrc c)
                  | none => s.liftStart m ch r)

/-! ## Delivery (R297-R299, R308) -/

/-- The amounts by which n delivered bytes are counted: 32 at a time, or whole. -/
def countSteps (whole : Bool) (n : Nat) : List Nat :=
  if n = 0 then []
  else if whole then [n]
  else (List.range ((n + 31) / 32)).map fun i => min 32 (n - 32 * i)

/-- A gate of a kind counts amounts in turn; a gate of the other kind does not; none where R310 item 4 is met. -/
def gateCount (kind : Nat) (ns : List Nat) (g : Nat) : Option Nat :=
  if gKIND g ≠ kind then some g else ns.foldl (fun g n => g.bind fun g => gateEvent g n false) (some g)

/-- The gates of the named teams count; none where one of them cannot. -/
def State.countGates (s : State) (c kind : Nat) (ns : List Nat) : List Team → Option State
  | [] => some s
  | m :: ms =>
    match s.liveGate m (lcGH c) (lcGoff c) with
    | .error _ => none
    | .ok (h, a, g) => match gateCount kind ns g with
      | none => none
      | some g' => (s.tileWrite h a (lcGoff c) (toBytes g' 16)).testGates.countGates c kind ns ms

/-- The gates of the named teams count, those that can; whether all could. -/
def State.countEach (s : State) (c kind : Nat) (ns : List Nat) : List Team → Bool × State
  | [] => (true, s)
  | m :: ms =>
    match s.countGates c kind ns [m] with
    | some s => s.countEach c kind ns ms
    | none => (false, (s.countEach c kind ns ms).2)

/-- An error met while a block is being delivered waits for the end of that block, which has been checked and is committed whole
(R301). DEDUCED, log 55. -/
def State.liftFlaw (s : State) (t : TeamId) (ch : Nat) (e : LiftErr) : State :=
  s.onQueue t ch fun q => { q with failing := q.failing.orElse fun _ => some e }

/-- The error of a gate that cannot count (R310). LQRY's selector 1 reads 0 after it. DEDUCED, log 68. -/
def gateFlaw (coord : DWord) : LiftErr := { code := cLIFT, rsn := 3, addr := 0, coord := coord, bit := 0 }

/-- Bytes delivered into handle DH of a team from tile byte o: the write pointer moves past them, and lines wholly rewritten
lose their poison (R204, R369). -/
def State.deliverTo (s : State) (m : Team) (c o : Nat) (bs : List Byte) : State :=
  match m.handle (lcDH c) with
  | none => s
  | some h => match s.storage h with
    | none => s
    | some a =>
      (s.tileWrite h a o bs).onAlloc h fun a =>
        { a with wp := o + bs.length,
                 poison := a.poison.filter fun k => !(decide (o ≤ 32 * k) && decide (32 * k + 32 ≤ o + bs.length)) }

/-- Bytes delivered into accumulator tiles from byte o of the load (R295). -/
def Team.putAcc (t : Team) (c o : Nat) (bs : List Byte) : Team :=
  { t with acc := (List.range (bs.length / 4)).foldl (fun acc i =>
      let n := o / 4 + i
      let k := lcAcc c + n / 8192
      Tab.set [] acc k (Tab.set 0 (Tab.get [] acc k) (n % 8192) (BitVec.ofNat 32 (ofBytes ((bs.drop (4 * i)).take 4))))) t.acc }

/-- A block may have reached every member: an error that it met then ends the command (R301, R302), and the halt of its team stops the
queue (R364). -/
def State.blockEnd (s : State) (t : TeamId) (ch : Nat) : State :=
  match s.team? t with
  | none => s
  | some m =>
    let q := m.queue ch
    if !q.settled then s
    else
      let s := match q.failing with
        | some e => s.liftFail t ch e
        | none => s
      if q.stop && m.halt.isSome then (s.onTeam t fun m => m.cancelLift ch).exitCheck t else s

/-- One block has been delivered, its last n bytes now: the command goes on with its next block, waits to complete, or ends; the
channel's turn passes on. -/
def State.blockDone (s : State) (t : TeamId) (ch n : Nat) (last : Bool) : State :=
  match s.team? t with
  | none => s
  | some m =>
    let s := (s.dropReads t ch).onQueue t ch fun q =>
      { q with item := q.item + 1, sent := q.sent + n, rest := [], last := false, drain := if last then some s.gtc else none }
    let s := s.blockEnd t ch
    (((s.onCore m.core fun k => { k with lifts := Tab.set none k.lifts ch (some t) }).liftGo t ch).saveCheck t).testGates

/-- The write pointers of the named teams stand at DOFF when the delivery starts (R204). -/
def State.resetPtr (s : State) (c : Nat) (ms : List Team) : State :=
  ms.foldl (fun s m => match m.handle (lcDH c) with
    | none => s
    | some h => s.onAlloc h fun a => { a with wp := lcDoff c }) s

/-- A block of the active command, its bytes read and checked, is to be delivered; an error that shows now interrupts it before
any of it is committed (R301). -/
def State.deliverBlock (s : State) (t : Team) (ch c : Nat) (bs : List Byte) (whole last : Bool) : State :=
  let q := t.queue ch
  let ms := s.named t c
  if (s.countGates c 0 (countSteps whole bs.length) ms).isNone then
    s.liftFail t.id ch (gateFlaw q.coord)
  else
    let s := if q.sent = 0 && lcOp c != 3 then s.resetPtr c ms else s
    if bs.isEmpty then s.blockDone t.id ch 0 last
    else (s.onQueue t.id ch fun q => { q with rest := bs, last := last }).liftGo t.id ch

/-- Bytes are held for a member that has been saved (R299). -/
def LiftQueue.hold (q : LiftQueue) (rank off : Nat) (bs : List Byte) : LiftQueue :=
  if q.held.any fun h => h.rank == rank then
    { q with held := q.held.map fun h => if h.rank = rank then { h with bytes := h.bytes ++ bs } else h }
  else { q with held := q.held ++ [{ rank := rank, off := off, bytes := bs }] }

/-- The bytes of a step of a block: a decoded tile whole, else 32 at most (R297). -/
def stepBytes (c : Nat) (bs : List Byte) : List Byte := if lcOp c = 1 then bs else bs.take 32

/-- The next step of the block being delivered (R297-R299): the placed members receive and count it, those that have been saved
have it held. -/
def State.stepBlock (s : State) (t : Team) (ch c : Nat) : State :=
  let q := t.queue ch
  let bs := stepBytes c q.rest
  let here := (s.named t c).filter fun m => m.status == .resident
  let away := (s.named t c).filter fun m => m.status == .evicted
  let n := s.countEach c 0 [bs.length] here
  let s := if n.1 then n.2 else n.2.liftFlaw t.id ch (gateFlaw q.coord)
  let s := if lcOp c = 3 then s.onTeam t.id fun m => m.putAcc c q.sent bs
    else here.foldl (fun s m => s.deliverTo m c (lcDoff c + q.sent) bs) s
  let s := away.foldl (fun s m => s.onQueue t.id ch fun q => q.hold m.gangRank (lcDoff c + q.sent) bs) s
  if bs.length = q.rest.length then s.blockDone t.id ch bs.length q.last
  else ((s.onQueue t.id ch fun q => { q with rest := q.rest.drop bs.length, sent := q.sent + bs.length }).liftGo t.id ch).testGates

/-- A member receives the next n bytes of what is held for it (R299). -/
def State.heldStep (s : State) (t : Team) (ch c n : Nat) (h : Held) (m : Team) : State :=
  let bs := h.bytes.take n
  let r := s.countEach c 0 (countSteps (lcOp c == 1) bs.length) [m]
  let s := if r.1 then r.2 else r.2.liftFlaw t.id ch (gateFlaw (t.queue ch).coord)
  let left := h.bytes.drop n
  ((((s.deliverTo m c h.off bs).onQueue t.id ch fun q =>
    { q with held := (q.held.filter fun k => k.rank != h.rank)
                      ++ if left.isEmpty then [] else [{ h with off := h.off + bs.length, bytes := left }] }).blockEnd t.id ch).liftGo
    t.id ch).testGates

/-- What is held for a saved member of queue ch of a team stands in the member's saved tiles, for a felt has no other place for it
(R299, R393; DESIGN CHOICE, log 55). -/
def State.settleHeld (s : State) (t : Team) (ch : Nat) : State :=
  match (t.queue ch).cmds with
  | [] => s
  | c :: _ => (t.queue ch).held.foldl (fun s h => match s.team? t.id, s.team? (t.member h.rank) with
    | some t, some m => s.heldStep t ch c.blk.toNat h.bytes.length h m
    | _, _ => s) s

/-- The unit of the core that a command's blocks pass through: the stream decoder, or the stream encoder (true) (R292). -/
def lcUnit (c : Nat) : Option Bool :=
  match lcOp c with
  | 1 => some false
  | 2 => some true
  | 3 => if lcRec c then some false else none
  | _ => none

/-- The event of the block that channel ch of a core would start, if it passes through the unit. -/
def State.unitWants (s : State) (core : Nat) (unit_ : Bool) (ch : Nat) : Option Instr :=
  match s.channelTurn core ch with
  | none => none
  | some m => match (m.queue ch).cmds with
    | [] => none
    | k :: _ =>
      let c := k.blk.toNat
      if lcUnit c == some unit_ && (m.queue ch).rest.isEmpty && (s.heldHere m (m.queue ch)).isNone && s.mayBegin m ch then
        some (blockEvent m.id ch c)
      else none

/-- The channel whose block the unit serves next, and the event of that block: round robin, from the channel after the one that it
served last (R292). -/
def State.unitTurn (s : State) (core : Nat) (unit_ : Bool) : Option (Nat × Instr) :=
  let n := if unit_ then (s.core core).encoder else (s.core core).decoder
  ((List.range 8).map fun i => (n + 1 + i) % 8).findSome? fun ch => (s.unitWants core unit_ ch).map fun e => (ch, e)

/-- The unit has served channel ch. -/
def State.unitServed (s : State) (core : Nat) (unit_ : Bool) (ch : Nat) : State :=
  s.onCore core fun k => if unit_ then { k with encoder := ch } else { k with decoder := ch }

/-- Channel ch of a core starts a block of command c, read by begin: when the block passes through a unit that is to serve another
channel first, it waits behind that one (R292). -/
def State.beginBlock (s : State) (core ch c : Nat) (me : Instr) (begin_ : State) : State :=
  match lcUnit c with
  | none => begin_
  | some u =>
    match s.unitTurn core u with
    | none => begin_
    | some (k, e) =>
      if k = ch then begin_.unitServed core u ch
      else (if s.agenda.contains e then s else s.push [e]).push [me]

/-- A block event of channel ch for a command of operation op: the next step of the block being delivered or held, or, when it is
the queue's turn, the start of its next block, which begin reads. -/
def State.liftBlock (s : State) (t : TeamId) (ch op : Nat) (begin_ : Team → Nat → State) : State :=
  match s.team? t with
  | none => s
  | some m =>
    let q := m.queue ch
    match q.cmds with
    | [] => s
    | k :: _ =>
      let c := k.blk.toNat
      if !q.active || lcOp c != op || m.status != .resident then s
      else if !q.rest.isEmpty then s.stepBlock m ch c
      else match s.heldHere m q with
        | some (h, r) => s.heldStep m ch c (stepBytes c h.bytes).length h r
        | none =>
          if s.mayBegin m ch && ((s.channelTurn m.core ch).map (·.id)) == some t then
            s.beginBlock m.core ch c (blockEvent t ch c) (begin_ m c)
          else s

/-- The last item of a record command. -/
def lastItem (c n : Nat) : Bool := decide (lcItems c ≤ n + 1)

/-- A block of a plain-address command: 4 KiB at most (R290). -/
def State.plainBlock (s : State) (t : Team) (ch c : Nat) : State :=
  let q := t.queue ch
  let hi := min (lcPlainBytes c) (q.sent + 4096)
  match s.channelRead t ch (runSegments c q.sent hi) with
  | (.ok bs, s) => s.deliverBlock t ch c bs false (decide (lcPlainBytes c ≤ hi))
  | (.err x y va, s) => s.liftFail t.id ch { code := x, rsn := y, addr := va, coord := 0, bit := 0 }
  | (.page va, s) => s.liftPark t ch va 4
  | (.wait, s) => s

/-- The block of the current item: its index entry, and its stored bytes, deciphered (R263, R264, R287). k goes on with
them; a defect fails the command. -/
def State.readBlock (s : State) (t : Team) (ch c : Nat) (k : State → Nat → List Byte → State) : State :=
  let q := t.queue ch
  let co := itemCoord c q.item
  let fail := fun (s : State) code rsn addr => s.liftFail t.id ch { code := code, rsn := rsn, addr := addr, coord := dw co, bit := 0 }
  match blockOf q.rec_ co with
  | none => fail s cLIFT 8 (lcSrc c)
  | some b =>
    match s.channelRead t ch [((layBidx q.rec_ + 8 * b : Nat), 8)] with
    | (.err x y va, s) => fail s x y va
    | (.page va, s) => s.liftPark t ch va 4
    | (.wait, s) => s
    | (.ok eb, s) =>
      let e := ofBytes eb
      if entBad q.rec_ e then fail s cDECODE 6 (lcSrc c)
      else if entSt e = 0 then k s e []
      else
        let key := s.keyFor t.ctx (layKEY q.rec_)
        if layENCR q.rec_ && key.1.isNone then fail key.2 cKEY 0 (lcSrc c)
        else match key.2.channelRead t ch [((layData q.rec_ + 32 * entOff e : Nat), 32 * entLen e)] with
          | (.err x y va, s) => fail s x y va
          | (.page va, s) => s.liftPark t ch va 4
          | (.wait, s) => s
          | (.ok bs, s) =>
            k s e (match (if layENCR q.rec_ then key.1 else none) with
              | none => bs
              | some kk => xtsBytes true kk.1 kk.2 (layTid q.rec_) b 0 bs (bs.length + 1))

/-- LIFT_COPY: one block is copied into the tiles of the named teams (R295). -/
def execLiftCopy (t : TeamId) (ch : Nat) (s : State) : Result :=
  .next (s.liftBlock t ch 0 fun m c =>
      if !lcRec c then s.plainBlock m ch c
      else s.readBlock m ch c fun s _ bs =>
        let q := m.queue ch
        if (s.named m c).any fun k => (k.handle (lcDH c)).any fun h => decide (h.bytes < lcDoff c + q.sent + bs.length) then
          s.liftFail t ch { code := cLIFT, rsn := 4, addr := lcSrc c, coord := q.coord, bit := 0 }
        else s.deliverBlock m ch c bs false (lastItem c q.item))

/-- A stored block parsed for its decode (R264-R268). -/
def decodeStored (q : LiftQueue) (co e : Nat) (bs : List Byte) : Except SErr Block :=
  let r := q.rec_
  let rows := blockRows r co
  let cols := blockCols r co
  if entSt e = 0 then .ok (emptyBlock (layFmt r) rows cols)
  else if entSt e = 2 then rawBlock (layFmt r) rows cols bs
  else parseBlock { fmt := layFmt r, rows := rows, cols := cols, upTo := rows * cols, ct := fun n => Tab.get [] q.table n,
                    book := q.book.map (·.toNat) } bs

/-- An FP32 value as an element of DFMT (R295). -/
def dfmtBytes (dfmt v : Nat) : List Byte :=
  match dfmt with
  | 1 => toBytes (fpConv fp32 bf16 rmRNE v).1 2
  | 2 => toBytes (fpConv fp32 fp16 rmRNE v).1 2
  | _ => toBytes v 4

/-- The bytes that the decode of a block delivers: 2^LR × 2^LC elements, +0.0 past the extent (R295). -/
def decodedBytes (r c : Nat) (b : Block) : List Byte :=
  ((List.range (2 ^ layLR r)).map fun i => ((List.range (2 ^ layLC r)).map fun j =>
    dfmtBytes (lcDfmt c) (if i < b.rows && j < b.cols then (b.elem i j).1 else 0)).flatten).flatten

/-- A block that is decoded and committed whole. -/
def State.decodeBlock (s : State) (m : Team) (ch c : Nat) : State :=
  s.readBlock m ch c fun s e bs =>
    let q := m.queue ch
    match decodeStored q (itemCoord c q.item) e bs with
    | .error (.bad x y o) => s.liftFail m.id ch { code := x, rsn := y, addr := lcSrc c, coord := q.coord, bit := o }
    | .error (.short o) => s.liftFail m.id ch { code := cDECODE, rsn := 5, addr := lcSrc c, coord := q.coord, bit := o }
    | .ok b => s.deliverBlock m ch c (decodedBytes q.rec_ c b) (lcOp c == 1) (lastItem c q.item)

/-- LIFT_DECODE_COPY (R295). -/
def execLiftDecodeCopy (t : TeamId) (ch : Nat) (s : State) : Result :=
  .next (s.liftBlock t ch 1 fun m c => s.decodeBlock m ch c)

/-- LIFT_ACCUMULATOR_LOAD (R295). -/
def execLiftAccumulatorLoad (t : TeamId) (ch : Nat) (s : State) : Result :=
  .next (s.liftBlock t ch 3 fun m c => if lcRec c then s.decodeBlock m ch c else s.plainBlock m ch c)

/-! ## Encode-store (R281, R295) -/

/-- A block of values encoded as a stream: header, scales, symbols, padded to 32 bytes. -/
def encodeBlock (fmt slot : Nat) (ct : Nat → List Word) (book : List Nat) (rows cols : Nat) (val : Nat → Nat) : Except SErr (List Byte) :=
  let ws := scaleBytes fmt false
  let gs := (List.range (rows * groupsOf cols)).map fun g =>
    let q := groupSpan cols g
    encodeGroup fmt book ((List.range q.2).map fun k => val (q.1 + k))
  let start := 4 + gs.length * ws
  let table := if slot = 15 then none else some (ctCodes (ct slot))
  match emitCodes table fmt (2 ^ 40) (8 * start) (gs.map (·.codes)).flatten with
  | .error x => .error x
  | .ok (bs, stop) =>
    .ok (toBytes (mkHeader { fmt := fmt, slot := slot, xp := false }) 4 ++ (gs.map fun g => toBytes g.scale ws).flatten
      ++ toBytes (ofBits bs) (32 * ((stop + 255) / 256) - start))

/-- The bytes of a tile that an encode-store reads for its current item. -/
def sourceSpan (q : LiftQueue) (c : Nat) : Nat × Nat :=
  let n := 4 * 2 ^ (layLR q.rec_ + layLC q.rec_)
  (lcDoff c + q.item * n, n)

/-- A block has been encoded: where its gates can count it, it is appended, and counted once the GTC has reached the WCT of its entry (R285, R298). -/
def State.storeBlock (s : State) (m : Team) (ch c : Nat) (bs : List Byte) : State :=
  let q := m.queue ch
  let co := itemCoord c q.item
  let fail := fun (s : State) code rsn => s.liftFail m.id ch { code := code, rsn := rsn, addr := lcSrc c, coord := dw co, bit := 0 }
  match blockOf q.rec_ co with
  | none => fail s cLIFT 8
  | some b =>
    let key := s.keyFor m.ctx (layKEY q.rec_)
    if layENCR q.rec_ && key.1.isNone then fail key.2 cKEY 0
    else if (s.countGates c 0 (countSteps true bs.length) (s.named m c)).isNone then
      s.liftFail m.id ch (gateFlaw (dw co))
    else
      let a : Append := { ctx := m.ctx, rec_ := q.rec_, b := b, len := bs.length / 32, data := bs, lift := true }
      match key.2.append a (if layENCR q.rec_ then key.1 else none) with
      | (.entry _ w, s) =>
        let s := s.waitUntil w
        (match s.countGates c 0 (countSteps true bs.length) (s.named m c) with
          | none => s.liftFail m.id ch (gateFlaw (dw co))
          | some s => s.blockDone m.id ch bs.length (lastItem c q.item))
      | (.poisoned, s) => fail s cECC 1
      | (.refused 3 va, s) =>
        if va < 2 ^ 45 && (s.translate m.ctx va).1.isNone then s.liftPark m ch va 5 else fail s cLIFT 11
      | (.refused n _, s) => fail s cLIFT (8 + n)

/-- LIFT_ENCODE_STORE: one tile is encoded and appended (R295). -/
def execLiftEncodeStore (t : TeamId) (ch : Nat) (s : State) : Result :=
  .next (s.liftBlock t ch 2 fun m c =>
      let q := m.queue ch
      let r := q.rec_
      let co := itemCoord c q.item
      let fail := fun (s : State) code rsn bit => s.liftFail t ch { code := code, rsn := rsn, addr := lcSrc c, coord := dw co, bit := bit }
      match m.handle (lcDH c) with
      | none => fail s cLIFT 4 0
      | some h => match s.storage h with
        | none => fail s cLIFT 4 0
        | some a =>
          let sp := sourceSpan q c
          let row := fun i => a.poisonedIn (sp.1 + 4 * (i * 2 ^ layLC r)) (4 * blockCols r co)
          if (List.range (blockRows r co)).any row then fail s cECC 3 0
          else if (layCT r ≠ 15 && (Tab.get [] q.table (layCT r)).isEmpty) || (layFmt r = 4 && q.book.isEmpty) then
            fail s cDECODE 8 0
          else
            let cols := blockCols r co
            let val := fun k => ofBytes (s.tileBytes h a (sp.1 + 4 * (k / cols * 2 ^ layLC r + k % cols)) 4)
            match encodeBlock (layFmt r) (layCT r) (fun n => Tab.get [] q.table n) (q.book.map (·.toNat)) (blockRows r co) cols val with
            | .error (.bad x y o) => fail s x y o
            | .error (.short o) => fail s cDECODE 5 o
            | .ok bs => s.storeBlock m ch c bs)

/-! ## Completion and the other events -/

/-- LIFT_COMMAND_COMPLETE: every delivered byte has been counted; arrivals gates count 1 (R298). A command that LCAN stops, or the halt of
its team, does not complete (R306). -/
def execLiftCommandComplete (t : TeamId) (ch : Nat) (s : State) : Result :=
  .next (match s.team? t with
    | none => s
    | some m =>
      let q := m.queue ch
      match q.cmds, q.drain with
      | k :: rest, some d =>
        if !q.active || q.halted || q.parked || !q.held.isEmpty || q.stop then s
        else
          let c := k.blk.toNat
          let s := s.waitUntil d
          match s.countGates c 1 [1] (s.named m c) with
          | none => s.liftFail t ch (gateFlaw 0)
          | some s =>
            let s := s.onTeam t fun m => { m with accBad := m.accBad &&& ~~~(lcAccTiles c m.accs) }
            ((s.onQueue t ch fun q =>
              { q with cmds := rest, active := false, done := k.seq, item := 0, sent := 0, rec_ := 0, table := [], book := [],
                       drain := none }).liftGo t ch).testGates.exitCheck t
      | _, _ => s)

/-- LIFT_ERROR: an error, from outside the model of the channel, ends the active command (R302), after the block that is being delivered
(R301). -/
def execLiftError (t : TeamId) (ch : Nat) (err : LiftErr) (s : State) : Result :=
  .next (match s.team? t with
    | none => s
    | some m =>
      let q := m.queue ch
      if !q.active then s else if q.settled then s.liftFail t ch err else s.liftFlaw t ch err)

/-- LIFT_SOURCE_PARK: a source page fault at va parks the queue (R300). -/
def execLiftSourcePark (t : TeamId) (ch va : Nat) (s : State) : Result :=
  .next (match s.team? t with
    | none => s
    | some m =>
      let q := m.queue ch
      if q.active && !q.parked && !q.halted && q.rest.isEmpty then s.liftPark m ch va 4 else s)

/-- MULTICAST_HELD_DELIVERY: a restored member receives the next step of the rest of a block (R299). -/
def execMulticastHeldDelivery (t : TeamId) (ch rank : Nat) (s : State) : Result :=
  .next (match s.team? t with
    | none => s
    | some m =>
      let q := m.queue ch
      match q.cmds, q.held.find? fun h => h.rank == rank, s.team? (m.member rank) with
      | k :: _, some h, some r => if r.status != .resident then s else s.heldStep m ch k.blk.toNat (stepBytes k.blk.toNat h.bytes).length h r
      | _, _, _ => s)

/-! ## LIFT, LQRY, LCAN (R304-R306) -/

/-- LIFT submits block blk to its queue, stalling in place while that is full (R304): the block stays as it was read. -/
def State.submit (u t : State) (d : BitVec 6) (blk : BitVec 512) : Res :=
  let ch := lcChan blk.toNat
  let q := u.tm.queue ch
  if 16 ≤ q.cmds.length then .wait { u with pk := { u.pk with lifting := some blk } }
  else
    let t := { t with pk := { t.pk with lifting := none }.setS d.toNat (dw (ch * 2 ^ 32 + q.next)) }
    let t := t.onQueue u.tm.id ch fun q =>
      { q with next := if q.next = 0xFFFFFFFF then 1 else q.next + 1, cmds := q.cmds ++ [{ seq := q.next, blk := blk }] }
    .done (if q.cmds.isEmpty then t.push [.liftCommandStart u.tm.id ch] else t)

/-- LIFT (R304). -/
def execLift (e : Bool) (d a : BitVec 6) (s : State) : Result :=
  .next (issueWord (.lift e d a) s fun u t =>
    let x := (u.pk.s a.toNat).toNat
    let h := bitsAt x 32 6
    let o := bitsAt x 0 32
    let fault := fun r => Res.done { t with pk := t.pk.deferTileAll r h o }
    match u.pk.lifting with
    | some blk => u.submit t d blk
    | none => match u.tm.handle h with
      | none => fault 1
      | some hd =>
        if o % 64 ≠ 0 || hd.bytes < o + 64 then fault 2
        else match u.storage hd with
          | none => fault 3
          | some al =>
            if al.poisonedIn o 64 then .done { t with pk := t.pk.deferTileEccAll h }
            else
              let blk := BitVec.ofNat 512 (ofBytes (u.tileBytes hd al o 64))
              if (u.tm.queue (lcChan blk.toNat)).halted then .done { t with pk := t.pk.setS d.toNat (dw (2 ^ 63 + 1)) }
              else u.submit t d blk)

/-- What LQRY returns of a queue (R305). -/
def lqryValue (q : LiftQueue) (sel : Nat) : DWord :=
  match sel with
  | 0 =>
    dw ((if q.halted then 2 ^ 63 else 0) + (if q.parked then 2 ^ 62 else 0) + q.err.code % 256 * 2 ^ 48
      + q.err.rsn % 256 * 2 ^ 40 + q.cmds.length % 256 * 2 ^ 32 + q.done)
  | 1 => dw q.err.addr
  | 2 => q.err.coord
  | _ => dw (q.errSeq * 2 ^ 32 + q.err.bit % 2 ^ 32)

/-- LQRY (R305). -/
def execLqry (e : Bool) (d a : BitVec 6) (s : State) : Result :=
  .next (issueWord (.lqry e d a) s fun u t =>
    let x := (u.pk.s a.toNat).toNat
    .done { t with pk := t.pk.setS d.toNat (lqryValue (u.tm.queue (x % 8)) (bitsAt x 4 2)) })

/-- LCAN (R306): the current block commits first, in every member that it names; no other starts meanwhile. -/
def execLcan (e : Bool) (d a : BitVec 6) (s : State) : Result :=
  .next (issueWord (.lcan e d a) s fun u t =>
    let ch := (u.pk.s a.toNat).toNat % 8
    let q := u.tm.queue ch
    if !q.settled then .wait (u.onQueue u.tm.id ch fun q => { q with stop := true })
    else
      let t := (t.onTeam u.tm.id fun m => m.cancelLift ch).dropReads u.tm.id ch
      .done { t with pk := t.pk.setS d.toNat (dw q.removed) })

/-! ## Gate words (R309-R312) -/

/-- A gate word on a usable gate, which it changes by f; none: a count would pass 2^32 − 1. -/
def gateWord (i : Instr) (h c : BitVec 6) (s : State) (wait : State → Bool) (f : State → Nat → Option Nat) : Result :=
  .next (issueWord i s fun u t =>
    if wait u then .stall
    else
      let off := (u.pk.s c.toNat).toNat % 2 ^ 32
      let fault := fun r => Res.done { t with pk := t.pk.deferTileAll r h.toNat off }
      match u.liveGate u.tm h.toNat off with
      | .error r => fault r
      | .ok (hd, a, g) => match f u g with
        | none => fault 4
        | some g' => .done (t.tileWrite hd a off (toBytes g' 16)).testGates)

/-- GINIT (R311). -/
def execGinit (e : Bool) (v h c : BitVec 6) (s : State) : Result :=
  .next (issueWord (.ginit e v h c) s fun u t =>
    let off := (u.pk.s c.toNat).toNat % 2 ^ 32
    match u.gateAt u.tm h.toNat off with
    | .error r => .done { t with pk := t.pk.deferTileAll r h.toNat off }
    | .ok (hd, a, _) => .done (t.tileWrite hd a off (toBytes (gateInit (u.pk.s v.toNat).toNat) 16)).testGates)

/-- GEXP (R311). -/
def execGexp (e : Bool) (v h c : BitVec 6) (s : State) : Result :=
  gateWord (.gexp e v h c) h c s noWait fun u g => gateEvent g ((u.pk.s v.toNat).toNat % 2 ^ 32) true

/-- GARR (R311): a team-scope release, then an arrival. -/
def execGarr (e : Bool) (v h c : BitVec 6) (s : State) : Result :=
  gateWord (.garr e v h c) h c s (releaseWaits 1) fun u g => gateEvent g ((u.pk.s v.toNat).toNat % 2 ^ 32) false

/-- GTRY (R311). -/
def execGtry (e : Bool) (v h c : BitVec 6) (s : State) : Result :=
  .next (issueWord (.gtry e v h c) s fun u t =>
    let off := (u.pk.s c.toNat).toNat % 2 ^ 32
    match u.liveGate u.tm h.toNat off with
    | .error r => .done { t with pk := t.pk.deferTileAll r h.toNat off }
    | .ok (_, _, g) =>
      let w := gARR g * 2 ^ 32 + gECH g * 8 + gKIND g * 4 + (if gERR g then 2 else 0) + gPH g
      .done { t with pk := t.pk.setS v.toNat (dw w) })

/-- GWAIT (R312): a fault of R310 and a gate in error are recorded and trapped on at the GWAIT, which is a blocking
word (R359). DEDUCED, log 16: R312 says so of every other way a GWAIT fails. -/
def execGwait (e : Bool) (v h c : BitVec 6) (s : State) : Result :=
  .next (issueWord (.gwait e v h c) s fun u t =>
    let off := (u.pk.s c.toNat).toNat % 2 ^ 32
    let ph := (u.pk.s v.toNat).toNat % 2
    if u.pk.hasPending then .own u.takePending
    else match u.liveGate u.tm h.toNat off with
      | .error r => .own ({ u with pk := u.pk.deferTileAll r h.toNat off } : State).takePending
      | .ok (_, _, g) =>
        if gERR g then .own ({ u with pk := u.pk.deferLift h.toNat off g } : State).takePending
        else blockWord u t (gPH g != ph) (.gate h.toNat off ph))

/-! ## TFREE (R196) -/

/-- Handle k of a team reaches the storage of h, and is not a handle number n of team t itself. -/
def State.sameStorage (s : State) (m : Team) (k : Nat) (h : Handle) : Bool :=
  (m.handle k).any fun q => q.sid == h.sid && q.store == h.store && (s.storage q).isSome

/-- A lift command of team m names handle n of team t, or, for storage that is not a binding's, another name of it: its own handles,
which its checks read (R296), and those of the members it delivers to (R299). -/
def State.liftNames (s : State) (m : Team) (c : Nat) (t : TeamId) (n : Nat) (h : Handle) : Bool :=
  (m :: s.named m c).any fun k =>
    (if lcOp c = 3 then [lcGH c] else [lcGH c, lcDH c]).any fun x =>
      (k.id == t && x == n) || (!descB h.desc.toNat && s.sameStorage k x h)

/-- The tile of a handle is busy. -/
def State.tileBusy (s : State) (t : Team) (n : Nat) (h : Handle) : Bool :=
  let mine := fun (k : Nat) => k == n || (!descB h.desc.toNat && s.sameStorage t k h)
  (s.allTeams.any fun m => m.status != .exited && (List.range 8).any fun ch =>
      (m.queue ch).cmds.any fun c => s.liftNames m c.blk.toNat t.id n h)
    || (s.packsOf t.id).any (fun k =>
        (k.status == .waiting && match k.wait with
          | .gate g _ _ => mine g
          | _ => false)
        || k.ops.any fun o => match o.word with
          | .mwld _ _ g _ => mine g.toNat
          | _ => false)
    || (!descB h.desc.toNat && s.allTeams.any fun m => m.id != t.id && m.status != .exited &&
        m.handles.any fun q => q.2.any fun k => descB k.desc.toNat && k.sid == h.sid && k.store == h.store)

/-- TFREE (R196). -/
def execTfree (e : Bool) (v h : BitVec 6) (s : State) : Result :=
  tileScalar (.tfree e v h) v s fun u t =>
    match u.tm.handle h.toNat with
    | none => (1, t)
    | some hd => if u.tileBusy u.tm h.toNat hd then (8, t) else (0, t.releaseHandle u.tm h.toNat)

end Sys2Proof.Machine
end

