-- ==== Sys2Proof/Machine/Matrix.lean ====
section
/-! DEFINITION. The matrix array: weight buffers, accumulator tiles, the A latch, pairs, and the words of majors 0x30 to
0x32 (R315-R336). A matrix word reaches the array when it issues; the array then performs the operations of its core one
by one, in the order in which they reached it. -/

namespace Sys2Proof.Machine

/-! ## Elements as the array sees them -/

/-- K_W of a latched format (R315). -/
def weightRows (fmt : Nat) : Nat :=
  match fmt with
  | 6 | 7 => 64
  | 1 | 2 | 5 => 128
  | _ => 256
/-- K_A of an A format (R318). -/
def actRows (fn : Nat) : Nat :=
  match fn with
  | 6 | 7 => 64
  | 3 => 256
  | _ => 128
/-- b_A: bits of an A element (R319). -/
def actBits (fn : Nat) : Nat :=
  match fn with
  | 6 | 7 => 16
  | 3 => 4
  | _ => 8
/-- A supported combination of formats (R318); an empty buffer has format 0. -/
def mmaCombo (fn wf : Nat) : Bool := wf != 0 && (fn == 5) == (wf == 5)

/-- An element: NaN, signalling or not; an infinity; or an integer in units of 2^(unitExp of its format). -/
inductive MElem where
  | nan (sig : Bool)
  | inf (neg : Bool)
  | fin (v : Int)
deriving DecidableEq, Repr

/-- The exponent of the unit in which every finite value of a format is an integer. -/
def unitExp (fmt : Nat) : Int :=
  match fmt with
  | 1 | 3 => -9
  | 2 => -16
  | 4 | 7 => -24
  | 6 => -133
  | 8 => -1
  | _ => 0

/-- A finite number as an integer in units of 2^u. -/
def Num.inUnits (x : Num) (u : Int) : Int :=
  let a : Int := (x.m <<< (x.e - u).toNat : Nat)
  if x.neg then -a else a

/-- An element of a floating-point layout. -/
def floatElem (f : Fmt) (c : Nat) (u : Int) : MElem :=
  if f.isNaN c then .nan (f.isSNaN c) else if f.isInf c then .inf (f.sign c) else .fin ((f.num c).inUnits u)

/-- The code under which a buffer keeps a LAT8 coordinate: 8 + its double; 16 for a coordinate of NaL (R183, R184). -/
def latCell (point i : Nat) : Nat := if point = codeNaL then 16 else (8 + (unrank point)[i]?.getD 0).toNat

/-- The element of a code, with the X byte of its group and the codebook of its buffer (R67, R74, R77, R183). -/
def elemOf (fmt code x : Nat) (book : List Nat) : MElem :=
  match fmt with
  | 1 => floatElem e4m3 code (-9)
  | 2 => floatElem e5m2 code (-16)
  | 3 => match e2m1Num code x with
    | none => .nan false
    | some n => .fin (n.inUnits (-9))
  | 4 => floatElem fp16 ((book[code]?).getD 0) (-24)
  | 5 => .fin (signed code 8)
  | 6 => floatElem bf16 code (-133)
  | 7 => floatElem fp16 code (-24)
  | _ => if code = 16 then .nan false else .fin ((code : Int) - 8)

/-- 32 elements of a row or a column with their common factor, m × 2^e with its sign; or a scale that is NaN or infinite (R320,
R321). -/
structure KGroup where
  elems : List MElem
  m     : Nat := 1
  e     : Int := 0
  neg   : Bool := false
  bad   : Bool := false
  inf   : Bool := false

/-- The element k of row r of A in captured registers (R319). -/
def actElem (fn : Nat) (x : List Lanes) (r k : Nat) : MElem :=
  let b := actBits fn
  elemOf fn (bitsAt (lane ((x[k * b / 32]?).getD 0) r).toNat (k * b % 32) b) 0x80 []

/-- The activation scale of row r for group g; 127 without scale registers (R319). -/
def actScale (sc : List Lanes) (r g : Nat) : Nat :=
  match sc with
  | [] => 127
  | _ => bitsAt (lane ((sc[g / 4]?).getD 0) r).toNat (8 * (g % 4)) 8

/-- Group g of row r of A. -/
def actGroup (fn : Nat) (x sc : List Lanes) (r g : Nat) : KGroup :=
  let s := actScale sc r g
  { elems := (List.range 32).map fun i => actElem fn x r (32 * g + i), e := unitExp fn + (s : Int) - 127, bad := s == 0xFF }

/-- The scale entry of group g and column n of a buffer: E8M0 byte and X byte, or m of CB4; an unlisted one is the unit
scale (R315). -/
def WBuf.entry (b : WBuf) (g n : Nat) : Nat :=
  match Tab.get 0 b.scale (384 * g + n) with
  | 0 => if b.fmt = 4 then 0x3F80 else 0x80 * 256 + 127
  | k + 1 => k

/-- The weight at (K row k, column n) of a buffer; +0 where the buffer holds no code. -/
def WBuf.weight (b : WBuf) (k n : Nat) : MElem :=
  match Tab.get 0 b.cell (384 * k + n) with
  | 0 => .fin 0
  | c + 1 => elemOf b.fmt c (b.entry (k / 32) n / 256) (b.book.map (·.toNat))

/-- Group g of column n of a buffer, with f(g, n) of R320. A CB4 scale is never negative, infinite or NaN but where a felt brought
one (R77). -/
def WBuf.group (b : WBuf) (g n : Nat) : KGroup :=
  let ws := (List.range 32).map fun i => b.weight (32 * g + i) n
  let s := b.entry g n
  match b.fmt with
  | 4 => { elems := ws, m := (bf16.num s).m, e := unitExp 4 + (bf16.num s).e, neg := bf16.sign s, bad := bf16.isNaN s, inf := bf16.isInf s }
  | 6 => { elems := ws, e := unitExp 6 }
  | 7 => { elems := ws, e := unitExp 7 }
  | f => { elems := ws, e := unitExp f + ((s % 256 : Nat) : Int) - 127, bad := s % 256 == 0xFF }

/-! ## Group arithmetic (R320-R322) -/

/-- The sum of the products of two lists of integers. -/
def dotInt : List (MElem × MElem) → Int
  | [] => 0
  | (.fin a, .fin w) :: r => a * w + dotInt r
  | _ :: r => dotInt r

/-- An element is a NaN. -/
def MElem.isNaN : MElem → Bool
  | .nan _ => true
  | _ => false
/-- An element is a signalling NaN. -/
def MElem.isSig : MElem → Bool
  | .nan s => s
  | _ => false

/-- The infinite products of a pair: none, an invalid one (0 × ∞), or one of a sign. -/
def infProduct : MElem × MElem → Option (Option Bool)
  | (.inf a, .inf w) => some (some (a != w))
  | (.inf a, .fin w) => some (if w = 0 then none else some (a != decide (w < 0)))
  | (.fin a, .inf w) => some (if a = 0 then none else some (w != decide (a < 0)))
  | _ => none

/-- Infinite products that make P NaN: an invalid one, or two of opposite signs (R321). -/
def infClash (is : List (Option Bool)) : Bool := is.any fun i => i.isNone || is.any fun j => j != i

/-- p of a group: its products summed exactly, scaled, and rounded once to FP32. A NaN of the group goes before an
infinity; IV is raised beside it too (R320, R321).
A CB4 scale of 0 does not make an infinite product NaN, and a signalling NaN as a scale raises no IV. DEDUCED, log 69. -/
def groupTerm (a w : KGroup) : Flagged :=
  let ps := a.elems.zip w.elems
  let is := ps.filterMap infProduct
  let v := dotInt ps
  let zero := is.isEmpty && v == 0
  let iv := flagIf (infClash is || (w.inf && zero) || ps.any fun p => p.1.isSig || p.2.isSig) flagIV
  if a.bad || w.bad || infClash is || (w.inf && zero) || ps.any (fun p => p.1.isNaN || p.2.isNaN) then (fp32.cnan, iv)
  else
    match is with
    | [] =>
      if w.inf then (fp32.signed (decide (v < 0) != w.neg) fp32.top, 0)
      else roundTo fp32 rmRNE false ⟨decide (v < 0) != (v != 0 && w.neg), v.natAbs * a.m * w.m, a.e + w.e, false⟩
    | i :: _ => (fp32.signed ((i == some true) != w.neg) fp32.top, 0)

/-- x + p rounded to FP32; a NaN is written as the canonical one (R320, R321). -/
def accAdd (x p : Nat) : Flagged :=
  if fp32.isNaN x || fp32.isNaN p then (fp32.cnan, 0) else fpAdd fp32 rmRNE false false x p

/-- An element of a float MMA: the groups in ascending order. -/
def mmaFloat (x : Nat) (as ws : List KGroup) : Flagged :=
  (as.zip ws).foldl (fun (acc : Flagged) (q : KGroup × KGroup) =>
    let p := groupTerm q.1 q.2
    let y := accAdd acc.1 p.1
    (y.1, acc.2 ||| p.2 ||| y.2)) (x, 0)

/-- An element of an S8 MMA (R322). -/
def mmaInt (x : Nat) (as ws : List KGroup) : Flagged :=
  (as.zip ws).foldl (fun (acc : Flagged) (q : KGroup × KGroup) =>
    let v := signed acc.1 32 + dotInt (q.1.elems.zip q.2.elems)
    (wrapNat v 32, acc.2 ||| flagIf (decide (v < intMin 32 true) || decide (intMax 32 true < v)) flagMOVF)) (x, 0)

/-- A table of the values f k for k below n. -/
def tabOf (n : Nat) (f : Nat → Word) : Tab Word := (List.range n).filterMap fun k => if f k = 0 then none else some (k, f k)

/-- Tile k of a team. -/
def Team.tile (t : Team) (k : Nat) : Tab Word := Tab.get [] t.acc k
/-- Tile k of a team := x. -/
def Team.setTile (t : Team) (k : Nat) (x : Tab Word) : Team := { t with acc := Tab.set [] t.acc k x }
/-- The first invalid tile of k to k + n − 1. -/
def Team.firstBad (t : Team) (k n : Nat) : Option Nat := ((List.range n).map (k + ·)).find? fun i => t.accBad.getLsbD i

/-- The three tiles of an MMA on a team: A rows of captured registers against its active buffer; the flags of all. The rows of off,
whose registers met an error, take no part (R368). -/
def Team.mma (t : Team) (acc fn : Nat) (x sc : List Lanes) (off : List Nat) : Team × BitVec 8 :=
  let groups := min (actRows fn) (weightRows t.active.fmt) / 32
  let rows := (List.range 64).map fun r => (List.range groups).map fun g => actGroup fn x sc r g
  (List.range 3).foldl (fun (q : Team × BitVec 8) k =>
    let cols := (List.range 128).map fun c => (List.range groups).map fun g => t.active.group g (128 * k + c)
    let old := t.tile (acc + k)
    let new := (List.range 8192).map fun i =>
      let a := (rows[i / 128]?).getD []
      let w := (cols[i % 128]?).getD []
      let x := (Tab.get 0 old i).toNat
      if off.contains (i / 128) then (x, 0) else if fn = 5 then mmaInt x a w else mmaFloat x a w
    (q.1.setTile (acc + k) ((new.mapIdx fun i v => (i, BitVec.ofNat 32 v.1)).filter fun e => e.2 != 0),
     new.foldl (fun f v => f ||| v.2) q.2)) (t, 0)

/-! ## The array of a core (R323, R334, R336) -/

/-- An operation is to be performed on core c before any later one: it has reached the array, or slaves it. -/
def State.arrayBusy (s : State) (c : Nat) : Bool :=
  (s.core c).slaved.isSome || s.allPacks.any fun p =>
    p.ops.any fun o => o.atArray &&
      ((s.teamOf p).core == c || (isPair o.word && (s.teamOf p).core + 1 == c))

/-- The team's buffers come to the array of its core (R315): an exchange with those of another team is counted. -/
def State.claimArray (s : State) (t : Team) : State :=
  let s := if (s.core t.core).array.any (· != t.id) then s.bumpCore t.core 9 else s
  s.onCore t.core fun k => { k with array := some t.id }

/-- A matrix word (R58): no PPT point stands any longer (R332). -/
def matrixWord (i : Instr) (s : State) (body : State → State → Res) : Result :=
  .next (issueWord i s fun u t =>
    if u.arrayBusy u.tm.core then .stall else body u { t with pk := { t.pk with atPpt := false } })

/-- A matrix operation starts: it reaches the array. -/
def State.startArray (t : State) (u : State) (i : Instr) (op : Op) : State :=
  t.startOp (fun id => { op with id := id, ctr := .mx, word := i, fpc := u.pk.pc, mask := u.pk.active })
    fun id => [match i with
      | .mwld .. => .mwldBufferWrite u.pk.id id
      | _ => if isPair i then .pairSlave u.pk.id id else .mmaArrayStart u.pk.id id]

/-- An operation with nothing in it but its number of args. -/
def arrayOp : Op := { id := 0, ctr := .mx, word := .nop false, fpc := 0, mask := 0, args := [0] }

/-- ACC_INVALID for the first invalid tile, of the team or of its partner (R362). -/
def accInvalid (k : Nat) (partner : Bool) : FaultRec := { precise cACC 0 with aux := dw (k + if partner then 256 else 0) }

/-- A word that names tiles k to k + n − 1 stalls while an accumulator-load holds one of them, and then must find them valid
(R330, R336). -/
def withTiles (u : State) (k n : Nat) (go : Res) : Res :=
  if u.tm.heldTiles &&& tileMask k n ≠ 0 then .stall
  else match u.tm.firstBad k n with
    | some b => .trap (accInvalid b false)
    | none => go

/-! ## The words -/

/-- The registers that an MMA reads from its A block when its latch does not supply them (R319). -/
def mmaBlock (fn wf a : Nat) (keep : Bool) : List Nat :=
  (List.range (if keep then 32 else min (actRows fn) (weightRows wf) * actBits fn / 32)).map (a + ·)

/-- The scale registers that an MMA reads (R319). -/
def mmaScales (fn wf s : Nat) : List Nat :=
  if s = 63 then [] else if 128 < min (actRows fn) (weightRows wf) then [s, s + 1] else [s]

/-- The vector registers that MMA reads: its block, unless its latch holds it, and its scales (R319). -/
def mmaReads (t : Team) (p : Pack) (fn a sc : Nat) (keep : Bool) : List Nat :=
  (if p.latchTag == some a then [] else mmaBlock fn t.active.fmt a keep) ++ mmaScales fn t.active.fmt sc

/-- The rows of A whose registers meet an uncorrectable error (R368). -/
def Pack.badRows (p : Pack) (rs : List Nat) : List Nat :=
  match p.ecc with
  | none => []
  | some (r, m) => if rs.contains r then lanesOf m else []

/-- The conditions of R323 on a pair operation: its partner, with the same latched format and the tiles in its share. -/
def State.pairOk (s : State) (t : Team) (acc : Nat) : Option Team :=
  (s.partner t).bind fun m => if m.active.fmt = t.active.fmt && decide (acc + 2 < m.accs) then some m else none

/-- MMA once its checks have passed (R326): the latch, the captured operands, the start on the array. -/
def mmaIssue (i : Instr) (u t : State) (a : Nat) (keep : Bool) (fn sc : Nat) : Res :=
  let wf := u.tm.active.fmt
  let hit := u.pk.latchTag == some a
  let regs := if hit then [] else mmaBlock fn wf a keep
  let scales := mmaScales fn wf sc
  let x := if hit then u.pk.latch else regs.map u.pk.v
  let pk := { t.pk.noteReads (regs ++ scales) with
    latchTag := if keep then some a else none, latch := if keep then x else [] }
  .done (({ t with pk := pk } : State).startArray u i { arrayOp with
    regs := scales.map u.pk.v ++ x, args := [0, scales.length], vals := (u.pk.badRows (regs ++ scales)).map fun r => (r, 0) })

/-- MMA (R318, R319, R323, R326). -/
def execMma (e : Bool) (n : BitVec 4) (g k : BitVec 1) (sc : BitVec 6) (p : BitVec 1) (f : BitVec 6) (s : State) : Result :=
  let i := Instr.mma e n g k sc p f
  matrixWord i s fun u t =>
    let go := mmaIssue i u t (32 * g.toNat) (k == 1) f.toNat sc.toNat
    if !mmaCombo f.toNat u.tm.active.fmt then .trap (illegal (encode i) 9)
    else if p = 0 then withTiles u n.toNat 3 go
    else match u.pairOk u.tm n.toNat with
      | none => .trap (illegal (encode i) 9)
      | some m =>
        if u.arrayBusy (u.tm.core + 1) || m.heldTiles &&& tileMask n.toNat 3 ≠ 0 then .stall
        else withTiles u n.toNat 3 (match m.firstBad n.toNat 3 with
          | some b => .trap (accInvalid b true)
          | none => go)

/-- MSWAP (R328). -/
def execMswap (e : Bool) (s : State) : Result :=
  matrixWord (.mswap e) s fun u t => .done (t.startArray u (.mswap e) arrayOp)

/-- MZERO (R329). -/
def execMzero (e : Bool) (n x : BitVec 4) (s : State) : Result :=
  matrixWord (.mzero e n x) s fun u t =>
    if u.tm.heldTiles &&& tileMask n.toNat (x.toNat + 1) ≠ 0 then .stall
    else .done (t.startArray u (.mzero e n x) arrayOp)

/-- The active lanes of MRD and MWR with the number of their element (R330). -/
def tileLanes (p : Pack) (x : Nat) : List (Nat × Nat) :=
  (p.coords x).filterMap fun q => if 64 ≤ coordRow q.2 || 128 ≤ coordCol q.2 then none else some (q.1, 128 * coordRow q.2 + coordCol q.2)

/-- TILE_HANDLE 2 of the lanes of MRD and MWR whose coordinate lies outside the tile (R330, R362). -/
def Pack.deferAcc (p : Pack) (n : Nat) (cs : List (Nat × Nat)) : Pack :=
  match cs.filter fun q => decide (64 ≤ coordRow q.2) || decide (128 ≤ coordCol q.2) with
  | [] => p
  | (l, c) :: r => p.defer p.pc cTILE 2 l 0 (dw (n * 2 ^ 58 + 2 ^ 57 + c)) 0 (((l, c) :: r).map fun q => (q.1, 0))

/-- The same of one tile for a word that acts on lanes: with none active it takes no fault (R100). -/
def withLaneTile (u : State) (k : Nat) (go : Res) : Res :=
  if u.pk.active = 0 && u.tm.heldTiles &&& tileMask k 1 = 0 then go else withTiles u k 1 go

/-- MRD (R330): vals lists each lane with its element. -/
def execMrd (e : Bool) (n : BitVec 4) (d x : BitVec 6) (s : State) : Result :=
  matrixWord (.mrd e n d x) s fun u t =>
    withLaneTile u n.toNat
      (.done (({ t with pk := t.pk.deferAcc n.toNat (u.pk.coords x.toNat) } : State).startArray u (.mrd e n d x)
        { arrayOp with vals := tileLanes u.pk x.toNat, vdst := [d.toNat] }))

/-- MWR (R330): vals lists each lane with its element, got each lane with its data. -/
def execMwr (e : Bool) (n : BitVec 4) (v x : BitVec 6) (s : State) : Result :=
  matrixWord (.mwr e n v x) s fun u t =>
    withLaneTile u n.toNat
      (.done (({ t with pk := t.pk.deferAcc n.toNat (u.pk.coords x.toNat) } : State).startArray u (.mwr e n v x)
        { arrayOp with vals := tileLanes u.pk x.toNat,
                       got := (tileLanes u.pk x.toNat).map fun q => (q.1, u.pk.vl v.toNat q.1) }))

/-- MREL (R331). -/
def execMrel (e : Bool) (s : State) : Result :=
  .next (packWord (.mrel e) s fun _ t => { t with latchTag := none, latch := [], atPpt := false })

/-- PPT (R332). -/
def execPpt (e : Bool) (m : BitVec 16) (s : State) : Result :=
  .next (issueWord (.ppt e m) s fun _ t =>
    let n := t.finish (endsRun (.ppt e m))
    .own { n with pk := { n.pk with latchTag := none, latch := [], liveSet := m, atPpt := true } })

/-! ## MWLD (R327) -/

/-- A placement scalar that a load of ROWS × COLS weights of a format cannot have: DECODE 10. -/
def placeBad (x fmt rows cols : Nat) : Bool :=
  bitsAt x 49 15 != 0 || bitsAt x 41 7 != 0 || bitsAt x 25 7 != 0 || bitsAt x 14 2 != 0
    || decide (384 < bitsAt x 16 9 + rows) || bitsAt x 32 9 % 32 != 0 || decide (weightRows fmt < bitsAt x 32 9 + cols)

/-- The code of weight (r, k) of a parsed block as a buffer keeps it, plus 1; 0 past the columns. -/
def Block.cell (b : Block) (r k : Nat) : Nat :=
  if b.cols ≤ k then 0
  else if b.fmt = 8 then latCell ((b.codes[r * symbolsOf 8 b.cols + k / 8]?).getD 0) (k % 8) + 1
  else (b.codes[r * b.cols + k]?).getD 0 + 1

/-- The cells that a block fills from (K0, N0): number and value. -/
def Block.cells (b : Block) (k0 n0 : Nat) : List (Nat × Nat) :=
  ((List.range (32 * groupsOf b.cols)).map fun k =>
    (List.range b.rows).map fun r => (384 * (k0 + k) + n0 + r, b.cell r k)).flatten

/-- The scale entries that a block fills, plus 1. -/
def Block.entries (b : Block) (k0 n0 : Nat) : List (Nat × Nat) :=
  ((List.range (groupsOf b.cols)).map fun g =>
    (List.range b.rows).map fun r =>
      let i := r * groupsOf b.cols + g
      let sc := (b.scales[i]?).getD 127
      (384 * (k0 / 32 + g) + n0 + r, (if b.fmt = 4 then sc else (b.xs[i]?).getD 0x80 * 256 + sc) + 1)).flatten

/-- A buffer that a load of format fmt with a codebook goes into: emptied where CLR says so or nothing is latched. -/
def WBuf.prepare (b : WBuf) (clr : Bool) (fmt : Nat) (book : List (BitVec 16)) : WBuf :=
  if clr || b.fmt = 0 then { fmt := fmt, book := if fmt = 4 then book else [], scale := [], cell := [] } else b

/-- A buffer with the scale entries and cells of a load. -/
def WBuf.load (b : WBuf) (scales cells : List (Nat × Nat)) : WBuf :=
  { b with scale := scales.foldl (fun t q => Tab.set 0 t q.1 q.2) b.scale,
           cell := cells.foldl (fun t q => Tab.set 0 t q.1 q.2) b.cell }

/-- MWLD: every fault is found at issue; vals holds the scale entries, got the cells, args CLR, the format and the
codebook. -/
def execMwld (e : Bool) (v h : BitVec 6) (c : BitVec 5) (s : State) : Result :=
  let i := Instr.mwld e v h c
  matrixWord i s fun u t =>
    let x := (u.pk.s v.toNat).toNat
    let rec_ := (u.pk.s (2 * c.toNat)).toNat
    let co := u.pk.s (2 * c.toNat + 1)
    let off := 32 * bitsAt x 0 14
    let fault := fun cause reason o => Res.trap (streamFault cause reason rec_ co o)
    match u.tileOf u.tm h.toNat with
    | .error r => .done { t with pk := t.pk.deferTileAll r h.toNat off }
    | .ok (hd, a) =>
      readLayout u t rec_ co fun t r =>
        let fmt := layFmt r
        let clr := x.testBit 48
        let book := u.tm.book (layCB r)
        let old := u.tm.shadow
        match blockOf r co.toNat with
        | none => fault cDECODE 9 0
        | some _ =>
          let rows := blockRows r co.toNat
          let cols := blockCols r co.toNat
          if !fmtWeight fmt then fault cDECODE 2 0
          else if placeBad x fmt rows cols then fault cDECODE 10 0
          else if old.fmt ≠ 0 && !clr && old.fmt ≠ fmt then fault cDECODE 2 0
          else if fmt = 4 && old.fmt ≠ 0 && !clr && book != old.book.map (·.toNat) then fault cDECODE 2 0
          else
            match parseBlock { fmt := fmt, rows := rows, cols := cols, upTo := rows * cols, ct := u.tm.slotTable, book := book }
                (u.tileBytes hd a off (hd.bytes - off)) with
            | .error (.bad k y o) => fault k y o
            | .error (.short _) => .done { t with pk := t.pk.deferTileAll 2 h.toNat off }
            | .ok b =>
              if a.poisonedIn off ((b.stop + 7) / 8) then .done { t with pk := t.pk.deferTileEccAll h.toNat }
              else
                .done (t.startArray u i
                  { arrayOp with vals := b.entries (bitsAt x 32 9) (bitsAt x 16 9), got := b.cells (bitsAt x 32 9) (bitsAt x 16 9),
                                 args := 0 :: (if clr then 1 else 0) :: fmt :: book })

/-! ## Events of the array -/

/-- An operation of pack p that the array has not performed, with its team. -/
def State.arrayOp? (s : State) (p : PackId) (op : Nat) : Option (Team × Op) :=
  (s.pack? p).bind fun k => ((k.op? op).filter Op.atArray).map fun o => (s.teamOf k, o)

/-- The array has performed an operation: it retires next, and an accumulator-load that waited for it starts. -/
def State.performed (s : State) (p : PackId) (op : Nat) (t : TeamId) (flags : BitVec 8) (got : List (Nat × Nat)) : State :=
  let s := s.onOp p op fun o => { o with args := [1, flags.toNat], got := got, vals := [], regs := [] }
  (s.push [.matrixOpRetire p op]).wakeLoads t

/-- MMA_ARRAY_START: the array performs the operation, whole (R334). -/
def execMmaArrayStart (p : PackId) (op : Nat) (s : State) : Result :=
  .next (match s.arrayOp? p op with
    | none => s
    | some (m, o) =>
      let s := s.claimArray m
      match o.word with
      | .mma _ n _ _ _ pm f =>
        let k := (o.args[1]?).getD 0
        let run := fun (t : Team) => t.mma n.toNat f.toNat (o.regs.drop k) (o.regs.take k) (o.vals.map (·.1))
        if pm = 0 then (s.onTeam m.id fun t => (run t).1).performed p op m.id (run m).2 []
        else if (o.args[0]?).getD 0 ≠ 2 then s
        else match s.partner m with
          | none => s
          | some r =>
            let s := s.claimArray r
            ((s.onTeam m.id fun t => (run t).1).onTeam r.id fun t => (run t).1).performed p op m.id ((run m).2 ||| (run r).2) []
              |>.wakeLoads r.id
      | .mswap _ => (s.onTeam m.id fun t => { t with active := t.shadow, shadow := t.active }).performed p op m.id 0 []
      | .mzero _ n x =>
        (s.onTeam m.id fun t =>
          { (List.range (x.toNat + 1)).foldl (fun t i => t.setTile (n.toNat + i) []) t with
            accBad := t.accBad &&& ~~~(tileMask n.toNat (x.toNat + 1)) }).performed p op m.id 0 []
      | .mrd _ n _ _ => s.performed p op m.id 0 (o.vals.map fun q => (q.1, (Tab.get 0 (m.tile n.toNat) q.2).toNat))
      | .mwr _ n _ _ =>
        (s.onTeam m.id fun t => t.setTile n.toNat ((o.vals.zip o.got).foldl (fun x q =>
          Tab.set 0 x q.1.2 (BitVec.ofNat 32 q.2.2)) (t.tile n.toNat))).performed p op m.id 0 []
      | _ => s)

/-- MWLD_BUFFER_WRITE (R327). -/
def execMwldBufferWrite (p : PackId) (op : Nat) (s : State) : Result :=
  .next (match s.arrayOp? p op with
    | none => s
    | some (m, o) =>
      match o.word, o.args with
      | .mwld .., _ :: clr :: fmt :: book =>
        ((s.claimArray m).onTeam m.id fun t =>
          { t with shadow := (t.shadow.prepare (clr == 1) fmt (book.map (BitVec.ofNat 16))).load o.vals o.got }).performed
            p op m.id 0 []
      | _, _ => s)

/-- PAIR_SLAVE: the follow array is slaved; the operation is performed next (R22, R323). -/
def execPairSlave (p : PackId) (op : Nat) (s : State) : Result :=
  .next (match s.arrayOp? p op with
    | none => s
    | some (m, o) =>
      if !isPair o.word || (o.args[0]?).getD 0 ≠ 0 then s
      else
        ((s.onOp p op fun o => { o with args := 2 :: o.args.drop 1 }).onCore (m.core + 1) fun k =>
          { k with slaved := some (p, op) }).push [.mmaArrayStart p op])

/-- A pair operation leaves the follow array. -/
def State.unslave (s : State) (p : PackId) (op : Nat) : State :=
  match s.cores.find? fun e => e.2.slaved == some (p, op) with
  | none => s
  | some e => s.onCore e.1 fun k => { k with slaved := none }

/-- With the pair operation over, what of the partner team of t waited for it goes on: its saving and its exit (R324). -/
def State.releasePartner (s : State) (t : TeamId) : State :=
  match (s.team? t).bind s.partner with
  | none => s
  | some r => (s.saveCheck r.id).exitCheck r.id

/-- MATRIX_OP_RETIRE: the flags go to the pack, an MRD writes its register, and mx falls (R96, R321). -/
def execMatrixOpRetire (p : PackId) (op : Nat) (s : State) : Result :=
  .next (match (s.pack? p).bind fun k => k.op? op with
    | none => s
    | some o =>
      if o.ctr != .mx || o.atArray then s
      else
        let s := ((s.unslave p op).endOp p op fun o k => (k.landOp o).raiseFlags (BitVec.ofNat 8 ((o.args[1]?).getD 0))).afterOp p
        if isPair o.word then s.releasePartner p.teamId else s)

/-- GANG_ABORT in every team of a gang (R324, R366). -/
def State.gangAbort (s : State) (t : Team) : State :=
  t.gangTeams.foldl (fun s m => match s.team? m with
    | none => s
    | some k => if k.status = .exited || k.halt.isSome then s else s.haltTeam m none (precise cGANG 0)) s

/-- PAIR_ABORT: the tiles of the operation become invalid on both cores, no flag is raised, and the gang aborts (R324). -/
def execPairAbort (p : PackId) (op : Nat) (s : State) : Result :=
  .next (match (s.pack? p).bind fun k => (k.op? op).map fun o => (s.teamOf k, o) with
    | none => s
    | some (m, o) =>
      match o.word with
      | .mma _ n _ _ _ 1 _ =>
        let bad := fun (t : Team) => { t with accBad := t.accBad ||| tileMask n.toNat 3 }
        let s := s.onTeam m.id bad
        let s := match s.partner m with
          | none => s
          | some r => s.onTeam r.id bad
        ((((s.unslave p op).endOp p op fun _ k => k).gangAbort m).afterOp p).releasePartner m.id
      | _ => s)

/-- PPT_TIMEOUT: 50,000 ticks have passed since the request for the pack (R332). -/
def execPptTimeout (p : PackId) (s : State) : Result :=
  .next (match s.pack? p with
    | none => s
    | some k => if k.saveDue then s.waitUntil (k.asked + 50000) else s)

end Sys2Proof.Machine
end

