-- ==== Sys2Proof/Machine/Launch.lean ====
section
/-! DEFINITION. Launch and scheduling (R337-R356): host queues, launch records, the launch unit, eviction and return, exit
and retirement, and the words of major 0x34. -/

namespace Sys2Proof.Machine

/-! ## Queue descriptors (R337) -/

/-- EN. -/
def HQueue.en (q : HQueue) : Bool := q.desc.getLsbD 100
/-- HEAD. -/
def HQueue.head (q : HQueue) : Nat := bitsOf q.desc 223 192
/-- TAIL. -/
def HQueue.tail (q : HQueue) : Nat := bitsOf q.desc 159 128
/-- CTXID. -/
def HQueue.ctx (q : HQueue) : Nat := bitsOf q.desc 127 112
/-- LOGSZ. -/
def HQueue.logsz (q : HQueue) : Nat := bitsOf q.desc 111 104
/-- PRIO. -/
def HQueue.prio (q : HQueue) : Nat := bitsOf q.desc 103 101
/-- PRV. -/
def HQueue.prv (q : HQueue) : Bool := q.desc.getLsbD 99
/-- SLICE. -/
def HQueue.sliceUs (q : HQueue) : Nat := bitsOf q.desc 95 64
/-- RING. -/
def HQueue.ring (q : HQueue) : Nat := bitsOf q.desc 63 0
/-- CRING. -/
def HQueue.cring (q : HQueue) : Nat := bitsOf q.desc 319 256

/-- Queue number q. -/
def State.queue (s : State) (q : Nat) : HQueue := Tab.get {} s.queues q
/-- Queue number q, changed by f. -/
def State.onHQueue (s : State) (q : Nat) (f : HQueue → HQueue) : State :=
  { s with queues := Tab.set {} s.queues q (f (s.queue q)) }

/-- An event of a host queue; there are 64 (R337). -/
def queueEvent (q : Nat) (s : State) (f : State → State) : Result :=
  if q < 64 then .next (f s) else .fault .noSuchUnit

/-! ## Launch records (R343): a record is the number of its 256 bytes -/

/-- TILEB. -/
def grTileb (r : Nat) : Nat := bitsAt r 24 19
/-- ACC. -/
def grAcc (r : Nat) : Nat := bitsAt r 43 5
/-- GANG. -/
def grGang (r : Nat) : Nat := bitsAt r 48 4
/-- The number of roles. -/
def grRoleCount (r : Nat) : Nat := bitsAt r 54 2 + 1
/-- Grid extents x, y, z. -/
def grExtent (r k : Nat) : Nat := bitsAt r (64 + 16 * k) 16
/-- The number of teams T (R344). -/
def grTeams (r : Nat) : Nat := grExtent r 0 * grExtent r 1 * grExtent r 2
/-- TRAP. -/
def grTrap (r : Nat) : Nat := bitsAt r 128 64
/-- CTPRE. -/
def grCtpre (r : Nat) : Nat := bitsAt r 192 64
/-- PAREA. -/
def grParea (r : Nat) : Nat := bitsAt r 256 64
/-- CEVT. -/
def grCevt (r : Nat) : Nat := bitsAt r 320 64
/-- WVAL. -/
def grWval (r : Nat) : Nat := bitsAt r 448 64
/-- The span of role i. -/
def grSpan (r i : Nat) : Nat := bitsAt r (512 + 128 * i) 128

/-- The role kind of a code. -/
def roleKindOf (k : Nat) : RoleKind :=
  if k = 0 then .general else if k = 1 then .copy else if k = 2 then .matrix else .epilogue

/-- Role i of a record. -/
def grRole (r i : Nat) : Role :=
  let x := grSpan r i
  { kind := roleKindOf (bitsAt x 126 2), packs := bitsAt x 121 5 + 1, vregs := 8 * (bitsAt x 118 3 + 1),
    plim := bitsAt x 64 17, entry := dw (bitsAt x 0 64) }

/-- The roles of a record. -/
def grRoles (r : Nat) : List Role := (List.range (grRoleCount r)).map (grRole r)

/-- The sum of f over a list. -/
def sumBy (f : α → Nat) (l : List α) : Nat := (l.map f).foldl (· + ·) 0

/-- PMAX of a record (R223). -/
def grPmax (r : Nat) : Nat := ((grRoles r).map (·.plim)).foldl max 0

/-- The end of the grid's private area (R247). -/
def grPareaEnd (r : Nat) : Nat := grParea r + 2048 * grPmax r * grTeams r

/-- Reason 1 of a malformed record (R343). -/
def grBad1 (r : Nat) : Bool :=
  bitsAt r 56 8 != 0x4E || bitsAt r 1024 1024 != 0 || bitsAt r 112 16 != 0 || bitsAt r 52 2 != 0 || bitsAt r 0 24 != 0
    || (List.range 4).any fun i => bitsAt (grSpan r i) 81 37 != 0
/-- Reason 2. -/
def grBad2 (r : Nat) : Bool :=
  decide (13 ≤ grGang r) || grTeams r == 0 || decide (2 ^ 32 ≤ grTeams r) || (grGang r != 0 && grTeams r % grGang r != 0)
/-- Reason 3. -/
def grBad3 (r : Nat) : Bool :=
  (List.range 4).any (fun i => decide (grRoleCount r ≤ i) && grSpan r i != 0)
    || (grRoles r).any (fun x => x.entry == 0 || x.entry.toNat % 4 != 0 || x.plim % 4 != 0 || decide (65536 < x.plim))
    || decide (32 < sumBy (·.packs) (grRoles r))
/-- Reason 4. -/
def grBad4 (r : Nat) : Bool :=
  decide (1536 < sumBy (fun x => x.packs * x.vregs) (grRoles r)) || decide (393216 < grTileb r) || decide (16 < grAcc r)
/-- Reason 6. -/
def grBad6 (r : Nat) : Bool :=
  grParea r % 256 != 0 || grCevt r % 8 != 0 || grWaddr r % 8 != 0 || grTrap r % 4 != 0 || grCtpre r % 4 != 0
    || decide (2 ^ 45 < grPareaEnd r) || (grCevt r != 0 && decide (grParea r ≤ grCevt r) && decide (grCevt r < grPareaEnd r))

/-- The lowest of the first four reasons that applies. -/
def grEarly (r : Nat) : Option Nat :=
  if grBad1 r then some 1 else if grBad2 r then some 2 else if grBad3 r then some 3 else if grBad4 r then some 4 else none

/-! ## The code-table preload (R345) -/

/-- What reading the preload gives: the slots, a defect, or the wait for a line of a window. -/
inductive Preload where
  | ok (slots : Tab (List Word))
  | bad
  | wait
  | page (va : Nat)

/-- The record of each listed slot, from address a on, read at its home. -/
def State.preloadSlots (s : State) (who : PackId) (core ctx : Nat) : Nat → List Nat → Preload × State
  | _, [] => (.ok [], s)
  | a, k :: ks =>
    match s.homeRead who core ctx [((a : Int), 4)] with
    | (.wait, s) => (.wait, s)
    | (.page a, s) => (.page a, s)
    | (.ok h, s) =>
      let n := ctCount (BitVec.ofNat 32 (ofBytes h))
      let n := if n ≤ 64 then n else 0
      (match s.homeRead who core ctx [((a : Int), 4 * (n + 1))] with
        | (.wait, s) => (.wait, s)
        | (.page a, s) => (.page a, s)
        | (.ok bs, s) =>
          let ws := (List.range (n + 1)).map fun i => BitVec.ofNat 32 (ofBytes ((bs.drop (4 * i)).take 4))
          if (ctDefect ws).isSome then (.bad, s)
          else match s.preloadSlots who core ctx (a + 4 * (n + 1)) ks with
            | (.ok t, s) => (.ok (Tab.set [] t k ws), s)
            | x => x
        | (_, s) => (.bad, s))
    | (_, s) => (.bad, s)

/-- The preload at CTPRE; a read that fails is a defect (log 40). -/
def State.readPreload (s : State) (who : PackId) (core ctx a : Nat) : Preload × State :=
  if a = 0 then (.ok [], s)
  else match s.homeRead who core ctx [((a : Int), 4)] with
    | (.wait, s) => (.wait, s)
    | (.page a, s) => (.page a, s)
    | (.ok bs, s) =>
      let m := ofBytes bs
      if 2 ^ 15 ≤ m then (.bad, s)
      else s.preloadSlots who core ctx (a + 4) ((List.range 15).filter fun k => m.testBit k)
    | (_, s) => (.bad, s)

/-- The identity under which the launch unit reads the preload of a resumed grid. -/
def gridAgent (g : Nat) : PackId := { grid := g, team := 0, role := 5, pir := 2 }

/-- The code-table preload of a resumed grid is read; a page fault is reported and awaited, and any other failure leaves the slots
empty (R345, R396, log 40). -/
def State.fillPreload (s : State) (g : Grid) : State :=
  match s.readPreload (gridAgent g.idx) 0 g.ctx (grCtpre g.record.toNat) with
  | (.wait, s) => s
  | (.page a, s) =>
    let n := s.nextReport
    (s.postFault { seq := 0, kind := 1, ctx := g.ctx, addr := a, acc := 0 } (.preload g.idx)).onGrid g.idx fun g => { g with preOn := some n }
  | (.ok t, s) => s.onGrid g.idx fun g => { g with preDue := false, preload := t }
  | (.bad, s) => s.onGrid g.idx fun g => { g with preDue := false }

/-- What the check of a record gives. -/
inductive Checked where
  | good (slots : Tab (List Word))
  | malformed (reason : Nat)
  | wait

/-- The check of a record, lowest reason first (R343). -/
def State.checkRecord (s : State) (who : PackId) (core ctx r : Nat) : Checked × State :=
  match grEarly r with
  | some n => (.malformed n, s)
  | none =>
    if grCtpre r % 4 ≠ 0 then (.malformed 6, s)
    else match s.readPreload who core ctx (grCtpre r) with
      | (.wait, s) => (.wait, s)
      | (.bad, s) => (.malformed 5, s)
      | (.page _, s) => (.malformed 5, s)
      | (.ok t, s) => (if grBad6 r then .malformed 6 else .good t, s)

/-- Lines fetched for an agent are done with. -/
def State.dropFetched (s : State) (who : PackId) : State :=
  { s with fetched := s.fetched.filter fun f => f.pack != who }

/-! ## Completion records (R351, R435, R436) -/

/-- A completion record. -/
def compRecord (gtc fcause fteam teams rsn status index : Nat) : BitVec 256 :=
  BitVec.ofNat 256 (gtc % 2 ^ 64 * 2 ^ 192 + fcause % 256 * 2 ^ 168 + fteam % 2 ^ 32 * 2 ^ 136 + teams % 2 ^ 64 * 2 ^ 64
    + rsn % 256 * 2 ^ 40 + status % 256 * 2 ^ 32 + index % 2 ^ 32)

/-- Entry c of the connection table. -/
def State.conn (s : State) (c : Nat) : BitVec 256 := Tab.get 0 s.conns c
/-- The connection of a queue's completion ring. -/
def HQueue.conn (q : HQueue) : Nat := bitsAt q.cring 51 8
/-- The connection takes records: its entry is in force, it has not failed, and no earlier record is held for it. -/
def State.connUp (s : State) (c : Nat) : Bool :=
  (s.conn c).getLsbD 64 && !s.down.contains c && !(s.heldRecs.any fun r => r.conn == c)

/-- The completion record of ring index i is written to the host, or held. -/
def State.writeRecord (s : State) (q i : Nat) (rec_ : BitVec 256) : State :=
  let k := s.queue q
  if k.cring = 0 then s
  else
    let c := k.conn
    let e := s.conn c
    let r : CompRec :=
      { conn := c, queue := q, key := bitsOf e 191 160, rec_ := rec_,
        hva := bitsOf e 255 192 + 32 * bitsAt k.cring 0 32 + 32 * (i % 2 ^ bitsAt k.cring 59 5) }
    if s.connUp c then s.emit (.record r) else { s with heldRecs := s.heldRecs ++ [r] }

/-- 64 records are held for the queue's connection (R436). -/
def State.recordsFull (s : State) (q : Nat) : Bool :=
  (s.queue q).cring != 0 && decide (64 ≤ (s.heldRecs.filter fun r => r.conn == (s.queue q).conn).length)

/-- The records of a queue that are ready are written, in INDEX order, as far as the 64 that may be held leave room (R436). -/
def State.flushRecords (s : State) (q : Nat) : Nat → State
  | 0 => s
  | n + 1 =>
    let k := s.queue q
    match k.order with
    | [] => s
    | i :: rest =>
      match k.ready.find? fun e => e.1 == i with
      | none => s
      | some e =>
        if s.recordsFull q then s
        else ((s.writeRecord q i e.2).onHQueue q fun k => { k with order := rest, ready := k.ready.filter fun x => x.1 != i }).flushRecords q n

/-- The records of a queue that can be written are written. -/
def State.flushQueue (s : State) (q : Nat) : State := s.flushRecords q ((s.queue q).order.length + 1)

/-- The record of ring index i of queue q is ready. -/
def State.recordReady (s : State) (q i : Nat) (rec_ : BitVec 256) : State :=
  let s := s.onHQueue q fun k => { k with ready := k.ready ++ [(i, rec_)] }
  s.flushQueue q

/-! ## The launch unit's choice (R341, R346-R348) -/

/-- The grid that a unit is of. -/
def WorkUnit.team : WorkUnit → TeamId
  | .packs t => t
  | .teams t => t
  | .fresh t => t

/-- A pack of a resident team is saved. -/
def State.hasSaved (s : State) (t : Team) : Bool := (s.packsOf t.id).any fun p => p.status == .saved

/-- The evicted units of a grid, by TEAMID; a gang stands under its lowest member. -/
def State.evictedUnits (s : State) (g : Nat) : List WorkUnit :=
  (sortBy (fun t => t.id.team) (s.allTeams.filter fun t => t.id.grid == g)).filterMap fun t =>
    if t.status = .evicted then
      let gang := (t.gangTeams.filterMap s.team?).filter fun m => m.status == .resident || m.status == .evicted
      if gang.all (fun m => m.status == .evicted) && (gang[0]?.map (·.id)) == some t.id then some (.teams t.id) else none
    else if t.status = .resident && s.hasSaved t && !((t.gangTeams.map s.packsOf).flatten).any (fun p => p.saveDue) then
      some (.packs t.id)
    else none

/-- The next unplaced unit of a grid whose wait condition has held. -/
def Grid.freshUnit (g : Grid) : List WorkUnit :=
  if g.go && !g.retired && !g.cancelled && !g.preDue && decide (g.nextT < grTeams g.record.toNat) then [.fresh { grid := g.idx, team := g.nextT }]
  else []

/-- No team of the grid is placed now: its context freezes, or it was resumed and its time has not come (R387, R397). -/
def State.gridBlocked (s : State) (g : Grid) : Bool := (s.ctx g.ctx).frz.any (fun f => !f.isResume) || decide (s.gtc < g.notBefore)
    || decide (s.gtc < (s.ctx g.ctx).notBefore)

/-- The units of queue q in the order of R341; the teams of a resumed grid that are still to be placed rank as evicted work
(R397). -/
def State.unitsOf (s : State) (q : Nat) : List WorkUnit :=
  let gs := sortBy (·.order) (s.grids.filter fun g => g.queue == q && !s.gridBlocked g)
  let old := gs.filter fun g => !g.resumed && (g.parent.isSome || g.admitted)
  let new := gs.filter fun g => !g.resumed && g.parent.isNone && !g.admitted
  (gs.map fun g => s.evictedUnits g.idx ++ if g.resumed then g.freshUnit else []).flatten ++ (old.map Grid.freshUnit).flatten ++ (new.map Grid.freshUnit).flatten

/-- What the first-placed team of a record takes of a core (R346). -/
def grDemand (r : Nat) : Demand :=
  { teams := 1, packs := sumBy (·.packs) (grRoles r), vregs := sumBy (fun x => x.packs * x.vregs) (grRoles r),
    grans := granulesFor (grTileb r), accs := grAcc r }

/-- What packs of a team take. -/
def packsDemand (t : Team) (ps : List Pack) : Demand := { packs := ps.length, vregs := sumBy (fun p => (roleOf t p).vregs) ps }

/-- The saved packs of a team. -/
def State.savedPacks (s : State) (t : TeamId) : List Pack := (s.packsOf t).filter fun p => p.status == .saved

/-- The evicted teams that return together. -/
def State.returning (s : State) (t : TeamId) : List Team :=
  match s.team? t with
  | none => []
  | some m => (m.gangTeams.filterMap s.team?).filter fun k => k.status == .evicted

/-- What a unit takes: the place of each team in its gang, and its demand. -/
def State.unitParts (s : State) (u : WorkUnit) : List (Nat × Demand) :=
  match u with
  | .packs t => (match s.team? t with
    | none => []
    | some m => [(0, packsDemand m (s.savedPacks t))])
  | .teams t => (s.returning t).map fun m =>
      (m.gangRank, { packsDemand m (s.savedPacks m.id) with teams := 1, grans := m.granules, accs := m.accs })
  | .fresh t => (match s.grid? t.grid with
    | none => []
    | some g =>
      let r := g.record.toNat
      (List.range (max 1 (grGang r))).map fun k => (k, grDemand r))

/-- Core c works (R14). -/
def State.working (s : State) (c : Nat) : Bool := decide (c < 72) && !s.fused.contains (c / 2)

/-- LCORE of physical core c (R349). -/
def State.lcoreOf (s : State) (c : Nat) : Nat := ((List.range c).filter s.working).length

/-- The runs of n successive elements of a list. -/
def windows (n : Nat) : List α → List (List α)
  | [] => []
  | a :: as => (if n ≤ as.length + 1 then [(a :: as).take n] else []) ++ windows n as

/-- The cores, by rank, of each run of adjacent pairs that holds a gang of g, lowest die and pair first (R13, R15, R347). -/
def State.gangCores (s : State) (g : Nat) : List (List Nat) :=
  ((List.range 4).map fun d =>
    (windows ((g + 1) / 2) (((List.range 9).map (9 * d + ·)).filter fun k => !s.fused.contains k)).map fun w =>
      (w.map fun k => [2 * k, 2 * k + 1]).flatten).flatten

/-- The gang of a unit; 0 for a single team. -/
def State.unitGang (s : State) (u : WorkUnit) : Nat :=
  match u with
  | .packs _ => 0
  | .teams t => ((s.team? t).map (·.gang)).getD 0
  | .fresh t => ((s.grid? t.grid).map fun g => grGang g.record.toNat).getD 0

/-- The places that a unit may take: cores by rank, the preferred place first. -/
def State.places (s : State) (u : WorkUnit) : List (List Nat) :=
  match u with
  | .packs t => ((s.team? t).map fun m => [m.core]).toList
  | _ =>
    if s.unitGang u = 0 then ((List.range 72).filter s.working).map fun c => [c]
    else s.gangCores (s.unitGang u)

/-- What stands on a core: what it takes, and the granule runs in use. -/
structure Occ where
  use  : Demand
  runs : List (Nat × Nat)

/-- What stands on core c for unit u, without the packs and teams listed (R346, R348). -/
def State.occ (s : State) (c : Nat) (packs : List PackId) (teams : List TeamId) (u : WorkUnit) : Occ :=
  let ts := s.allTeams.filter fun t => t.core == c && t.status == .resident && !teams.contains t.id
  let ps := (ts.map fun t => ((s.packsOf t.id).filter fun p => p.takesRoom && !packs.contains p.id).map fun p => (t, p)).flatten
  let inc := (((s.incoming.filter fun i => i.unit != u).map (·.parts)).flatten).filter fun e => e.1 == c
  let cl := (s.allTeams.filter fun t => t.core == c && (t.status == .exited || t.status == .leaving)).map fun t =>
    t.clearing.map fun r => (t.gbase + r.1, r.2)
  { use := { teams := ts.length + sumBy (·.2.2.teams) inc
             packs := ps.length + sumBy (·.2.2.packs) inc
             vregs := sumBy (fun q => (roleOf q.1 q.2).vregs) ps + sumBy (·.2.2.vregs) inc
             accs := sumBy (·.accs) ts + sumBy (·.2.2.accs) inc }
    runs := (ts.map fun t => (t.gbase, t.granules)) ++ inc.map (fun e => (e.2.1, e.2.2.grans)) ++ cl.flatten }

/-- The first granule for a demand among the runs in use. -/
def Occ.granule (o : Occ) (d : Demand) : Option Nat := firstFit (o.runs.filter fun r => r.2 != 0) 384 d.grans 0 385

/-- A demand that only the eviction of whole teams can meet (R348). -/
def Occ.needsTeam (o : Occ) (d : Demand) : Bool :=
  decide (4 < o.use.teams + d.teams) || decide (16 < o.use.accs + d.accs) || (o.granule d).isNone

/-- A demand fits: where its granules start (R346). -/
def Occ.fits (o : Occ) (d : Demand) : Option Nat :=
  if o.needsTeam d || decide (32 < o.use.packs + d.packs) || decide (1536 < o.use.vregs + d.vregs) then none else o.granule d

/-- Work to be evicted together (R348). -/
structure Victim where
  packs : List PackId
  teams : List TeamId
deriving DecidableEq

/-- The packs of victims. -/
def victimPacks (vs : List Victim) : List PackId := (vs.map (·.packs)).flatten
/-- The teams of victims. -/
def victimTeams (vs : List Victim) : List TeamId := (vs.map (·.teams)).flatten

/-- The packs of a team that can be evicted. -/
def State.evictable (s : State) (t : TeamId) : List PackId :=
  ((s.packsOf t).filter fun p => p.takesRoom && !p.saveDue).map (·.id)

/-- Teams on a core that give way to priority prio, in the order of R348. -/
def State.givesWay (s : State) (c prio : Nat) : List Team :=
  let ts := s.allTeams.filter fun t =>
    t.core == c && t.status == .resident && decide (t.prio < prio) && !(s.evictable t.id).isEmpty
  let ts := sortBy (fun t => s.serial - t.order) ts
  let ts := sortBy (fun t => s.serial - ((s.grid? t.id.grid).map (·.entry)).getD 0) ts
  sortBy (·.prio) ts

/-- A whole team, with its gang. -/
def State.wholeVictim (s : State) (t : Team) : Victim :=
  { packs := (t.gangTeams.map s.evictable).flatten, teams := t.gangTeams }

/-- The next victim on core c after those taken. -/
def State.nextVictim (s : State) (c prio : Nat) (vs : List Victim) (whole : Bool) : Option Victim :=
  let gone := victimPacks vs
  let ts := (s.givesWay c prio).filter fun t => !(victimTeams vs).contains t.id
  match ts.find? fun t => whole || (s.evictable t.id).any fun p => !gone.contains p with
  | none => none
  | some t =>
    if whole || t.gang ≠ 0 then some (s.wholeVictim t)
    else
      match sortBy (fun p => 256 - (32 * p.role + p.pir)) ((s.evictable t.id).filter fun p => !gone.contains p) with
      | [] => none
      | p :: rest => some { packs := [p], teams := if rest.isEmpty then [t.id] else [] }

/-- Victims for demand d on core c, after those taken; n: rounds. -/
def State.makeRoom (s : State) (c : Nat) (d : Demand) (prio : Nat) (u : WorkUnit) (vs : List Victim) : Nat → Option (List Victim)
  | 0 => none
  | n + 1 =>
    let o := s.occ c (victimPacks vs) (victimTeams vs) u
    if (o.fits d).isSome then some vs
    else match s.nextVictim c prio vs (o.needsTeam d) with
      | none => none
      | some v => s.makeRoom c d prio u (vs ++ [v]) n

/-- Victims without those whose eviction the placement does not need, the last taken spared first (R348: only as much as it
needs). -/
def State.spare (s : State) (c : Nat) (d : Demand) (u : WorkUnit) (base new : List Victim) : List Victim :=
  new.reverse.foldl (fun kept v =>
    let rest := kept.filter (· != v)
    let vs := base ++ rest
    if ((s.occ c (victimPacks vs) (victimTeams vs) u).fits d).isSome then rest else kept) new

/-- Victims for the parts of a unit on the cores of a place. -/
def State.victimsAt (s : State) (prio : Nat) (u : WorkUnit) (cores : List Nat) : List (Nat × Demand) → List Victim → Option (List Victim)
  | [], vs => some vs
  | (k, d) :: rest, vs =>
    match cores[k]? with
    | none => none
    | some c =>
      match s.makeRoom c d prio u vs 40 with
      | none => none
      | some ws => s.victimsAt prio u cores rest (vs ++ s.spare c d u vs (ws.drop vs.length))

/-- The parts of a unit at a place once the victims have gone: core, first granule, demand. -/
def State.fitAt (s : State) (u : WorkUnit) (cores : List Nat) (vs : List Victim) : List (Nat × Demand) → Option (List (Nat × Nat × Demand))
  | [] => some []
  | (k, d) :: rest =>
    match cores[k]? with
    | none => none
    | some c =>
      match (s.occ c (victimPacks vs) (victimTeams vs) u).fits d with
      | none => none
      | some g => (s.fitAt u cores vs rest).map ((c, g, d) :: ·)

/-- How a unit is to be placed. -/
structure Plan where
  unit    : WorkUnit
  parts   : List (Nat × Nat × Demand)
  victims : List Victim

/-- The plan with the fewest evicted packs, the first of equals. -/
def fewest : List Plan → Option Plan
  | [] => none
  | p :: ps =>
    match fewest ps with
    | none => some p
    | some q => if (victimPacks q.victims).length < (victimPacks p.victims).length then some q else some p

/-- The eviction for a unit has not ended: a pack is still to be saved on one of its cores. -/
def State.evicting (s : State) (u : WorkUnit) : Bool :=
  (s.incoming.filter fun i => i.unit == u).any fun i => i.parts.any fun e =>
    s.allPacks.any fun p => p.saveDue && p.takesRoom && (s.teamOf p).core == e.1

/-- The plan for a unit: where it fits (R346, R347), or, with its eviction not under way, whom it evicts (R348). -/
def State.planOf (s : State) (prio : Nat) (u : WorkUnit) : Option Plan :=
  let ps := s.unitParts u
  if ps.isEmpty then none
  else match (s.places u).findSome? fun cs => s.fitAt u cs [] ps with
    | some q => some { unit := u, parts := q, victims := [] }
    | none =>
      if s.evicting u then none
      else fewest ((s.places u).filterMap fun cs =>
        (s.victimsAt prio u cs ps []).bind fun vs => (s.fitAt u cs vs ps).map fun q => { unit := u, parts := q, victims := vs })

/-- The first unit that can be placed; a team that cannot be holds back the rest of its grid (R341). -/
def State.firstPlan (s : State) (prio : Nat) (held : List Nat) : List WorkUnit → Option Plan
  | [] => none
  | u :: us =>
    if held.contains u.team.grid then s.firstPlan prio held us
    else match s.planOf prio u with
      | some p => some p
      | none => s.firstPlan prio (match u with
        | .packs _ => held
        | _ => u.team.grid :: held) us

/-- The queues that have work, in the order in which they are served (R341). -/
def State.served (s : State) : List Nat :=
  sortBy (fun q => 64 * (7 - (s.queue q).prio) + (q + 63 - s.lastQueue) % 64) (nubNat (s.grids.map (·.queue)))

/-- What the launch unit does next: the queue, and the plan. -/
def State.choice (s : State) : Option (Nat × Plan) :=
  s.served.findSome? fun q => (s.firstPlan (s.queue q).prio [] (s.unitsOf q)).map fun p => (q, p)

/-- The event that carries out a plan. -/
def State.planEvent (s : State) (p : Plan) : Instr :=
  if !p.victims.isEmpty then .evict p.unit.team.grid
  else if s.unitGang p.unit = 0 then .teamPlace p.unit.team.grid
  else .gangPlace p.unit.team.grid

/-- The launch unit looks for work to place. -/
def State.kick (s : State) : State :=
  match s.choice with
  | none => s
  | some c => s.push [s.planEvent c.2]

/-! ## Placing (R346, R347, R349) -/

/-- The packs of a fresh team (R43, R346). -/
def newPacks (g : Grid) (t : TeamId) (roles : List Role) (now : Nat) : List Pack :=
  (roles.mapIdx fun k r => (List.range r.packs).map fun i =>
    let p : Pack := { id := { grid := t.grid, team := t.team, role := k, pir := i } }
    { p with status := .ready, slot := (sumBy (·.packs) (roles.take k) + i) % 4, since := now, priv := g.priv, pc := r.entry,
             em := allOnes }).flatten

/-- A fresh team on core c, its budget from granule start. -/
def newTeam (s : State) (g : Grid) (t : TeamId) (c start : Nat) : Team :=
  let r := g.record.toNat
  { id := t, status := .resident, ctx := g.ctx, prio := (s.queue g.queue).prio, depth := g.depth, gang := grGang r,
    roles := grRoles r, trap := dw (grTrap r), parea := grParea r, total := grTeams r, lcore := s.lcoreOf c, core := c,
    order := s.serial, granules := granulesFor (grTileb r), gbase := start, accs := grAcc r, ct := g.preload }

/-- Team number n of a grid is placed for the first time. -/
def State.placeNew (s : State) (g : Grid) (n : Nat) (part : Nat × Nat × Demand) : State :=
  let t : TeamId := { grid := g.idx, team := n }
  let m := newTeam s g t part.1 part.2.1
  { s with serial := s.serial + 1, teams := s.teams ++ [m], packs := s.packs ++ newPacks g t m.roles s.gtc }

/-- The lanes of the replay entries of one word go again as one operation, with those of it that are still outstanding. -/
def mergeOp (ops : List Op) (o : Op) : List Op :=
  if ops.any fun q => q.id == o.id then
    replaceFirst (fun q => q.id == o.id) (fun q => { q with addrs := q.addrs ++ o.addrs, replay := true }) ops
  else ops ++ [{ o with replay := true }]

/-- The listed words of a replay list, in program order. -/
def Pack.replayOps (p : Pack) : List Op := sortBy (·.id) ((p.replay.map (·.op)).foldl mergeOp [])

/-- The report number of an entry that a felt brought: no report has it. -/
def noReport : Nat := 2 ^ 64

/-- A felt's entry holds no word: its operation with word w fetched again (R394). -/
def Op.withWord (o : Op) (ty : Nat) (w : Instr) : Op :=
  { o with
    word := w, ctr := (counterOf w).getD .ld, ty := ty
    vdst := ((uses ty w).vw.map VRef.regs).flatten
    sdst := (uses ty w).sw
    vals := match w with
      | .cas .. => o.vals.map fun e => (e.1, e.2 % 2 ^ 64 + 2 ^ 32 * (e.2 / 2 ^ 64))
      | _ => o.vals }

/-- The word of an operation is yet to be fetched. -/
def Op.noWord (o : Op) : Bool :=
  match o.word with
  | .nop _ => true
  | _ => false

/-- A word that a replay list may hold. -/
def replayable (w : Instr) : Bool := takesReplay w && (counterOf w == some .ld || counterOf w == some .st)

/-- A word that is an acquire (R254). -/
def isAcquire (w : Instr) : Bool :=
  match w with
  | .ldaq .. => true
  | _ => false

/-- An entry leaves the list, its lanes with a deferred fault. -/
def Pack.dropReplay (p : Pack) (o : Op) (cause reason : Nat) : Pack :=
  ({ p with replay := p.replay.filter fun q => q.op.id != o.id, declined := none } : Pack).laneFaults o cause reason o.addrs

/-- The word of a felt's entry is fetched again; a page fault of the fetch parks the pack (R221), and its decline takes the
lanes. -/
def State.fetchReplay (s : State) (p : PackId) (o : Op) : State :=
  match s.pack? p with
  | none => s
  | some k =>
    if !o.noWord || k.parkOn.isSome then s
    else
      let t := s.teamOf k
      let a := o.fpc.toNat
      match (if 2 ^ 45 ≤ a then (.fault cPROT 1, s) else if k.declined = some (3, a) then (.pageFault, s)
          else s.fetchLine t.ctx (a / 128)) with
      | (.data d, s) =>
        (match decode (BitVec.ofNat 32 (lineNat d (a % 128 / 4 * 4) 4)) with
          | .ok w =>
            if replayable w then
              s.onPack p fun k =>
                { k with replay := k.replay.map fun q => if q.op.id = o.id then { q with op := q.op.withWord k.ty w } else q
                         acquire := if isAcquire w then some o.id else k.acquire }
            else s.onPack p fun k => k.dropReplay o cILLEGAL 2
          | _ => s.onPack p fun k => k.dropReplay o cILLEGAL 2)
      | (.fault c r, s) => s.onPack p fun k => k.dropReplay o c r
      | (_, s) =>
        if k.declined = some (3, a) then s.onPack p fun k => k.dropReplay o cPAGE 0
        else
          let n := s.nextReport
          (s.postFault { packReport t k with addr := a, mask := allOnes, acc := 3, pc := o.fpc } (.pack p)).onPack p fun k =>
            { k with parkOn := some n }

/-- The replay list goes again, in program order, when every report of it has been answered; the pack's other operations
follow their events (R220). -/
def State.replayGo (s : State) (p : PackId) : State :=
  match s.pack? p with
  | none => s
  | some k =>
    if k.replay.isEmpty || k.replay.any (fun r => s.open_.any fun o => o.1.seq == r.report) then s
    else
      let s := k.replayOps.foldl (fun s o => s.fetchReplay p o) s
      match s.pack? p with
      | none => s
      | some k =>
        if k.replay.any fun r => r.op.noWord then s
        else
          let ops := sortBy (·.id) (k.replayOps.foldl mergeOp k.ops)
          let t := s.teamOf k
          (s.onPack p fun k =>
            { k with replay := [], ops := ops, parkDue := false,
                     status := if k.status = .parked && k.parkOn.isNone then .ready else k.status
                     since := if k.status = .parked && k.parkOn.isNone then s.gtc else k.since }).push
            (((ops.filter (·.replay)).map (opEvents t k)).flatten)

/-- A saved pack stands on a core again (R96, R220, R354, R356): one that waits at a barrier waits on, a parked one stays
parked until its reports are answered, any other is ready at its PC. -/
def State.restorePack (s : State) (p : PackId) : State :=
  (s.onPack p fun k =>
    let barrier := match k.wait with
      | .teamBarrier _ | .gangBarrier _ => true
      | _ => false
    { k with status := if barrier then .waiting else if k.parkOn.isSome || !k.replay.isEmpty then .parked else .ready
             wait := if barrier then k.wait else .none
             since := s.gtc, runpos := 0, saveDue := false, slot := packIndex (s.teamOf k) k % 4 }).replayGo p

/-- An evicted team returns to core c. -/
def State.restoreTeam (s : State) (m : Team) (part : Nat × Nat × Demand) : State :=
  let ps := s.savedPacks m.id
  let s := s.onTeam m.id fun t => { t with status := .resident, core := part.1, gbase := part.2.1, order := s.serial }
  ps.foldl (fun s p => s.restorePack p.id) { s with serial := s.serial + 1 }

/-- The lift queues of a team go on (R314). -/
def State.liftsGo (s : State) (t : TeamId) : State := (List.range 8).foldl (fun s ch => s.liftGo t ch) s

/-- The waiting grid of a queue is admitted: its ring is read on (R338). -/
def State.admitted (s : State) (g : Grid) : State :=
  let q := s.queue g.queue
  let s := if g.admitted then s else
    ({ s with serial := s.serial + 1 } : State).onGrid g.idx fun k => { k with admitted := true, entry := s.serial }
  if q.wait = some g.idx then (s.onHQueue g.queue fun q => { q with wait := none }).push [.launchRecordRead g.queue] else s

/-- A team of the queue's grids is placed. -/
def State.queuePlaced (s : State) (q : Nat) : List Team :=
  s.allTeams.filter fun t => t.status == .resident && (s.grid? t.id.grid).any fun g => g.queue == q

/-- The ticks of the slices up to now are counted, while a team of the queue is placed. -/
def State.countSlice (s : State) (q : Nat) : State :=
  let on := !(s.queuePlaced q).isEmpty
  s.onHQueue q fun k => { k with slice := if on && k.sliceUs != 0 then k.slice + ((s.gtc - k.since : Nat) : Int) else k.slice, since := s.gtc }

/-- A plan without victims is carried out (R346, R347; after a resume too, R38). -/
def State.place (s : State) (q : Nat) (p : Plan) : State :=
  let s : State := { s.countSlice q with lastQueue := q, incoming := s.incoming.filter fun i => i.unit != p.unit }
  let s : State := match p.unit with
    | .packs t => (s.savedPacks t).foldl (fun s k => s.restorePack k.id) s
    | .teams t =>
      let ms := s.returning t
      (ms.map (·.id)).foldl State.liftsGo ((ms.zip p.parts).foldl (fun s e => s.restoreTeam e.1 e.2) s)
    | .fresh t =>
      match s.grid? t.grid with
      | none => s
      | some g =>
        let s := (p.parts.zipIdx).foldl (fun s e => s.placeNew g (t.team + e.2) e.1) s
        (s.onGrid g.idx fun g => { g with nextT := g.nextT + p.parts.length }).admitted g
  s.kick

/-- The launch unit's choice, if it is the work of grid g and of this kind. -/
def State.chosen (s : State) (g : Nat) (kind : Plan → Bool) : Option (Nat × Plan) :=
  match s.choice with
  | none => none
  | some c => if c.2.unit.team.grid == g && kind c.2 then some c else none

/-- TEAM_PLACE: the next single team, or the evicted packs, of grid g are placed (R346). -/
def execTeamPlace (g : Nat) (s : State) : Result :=
  .next (match s.chosen g fun p => p.victims.isEmpty && s.unitGang p.unit == 0 with
    | none => s
    | some c => s.place c.1 c.2)

/-- GANG_PLACE: the next gang of grid g is placed, every team at once (R24, R347). -/
def execGangPlace (g : Nat) (s : State) : Result :=
  .next (match s.chosen g fun p => p.victims.isEmpty && s.unitGang p.unit != 0 with
    | none => s
    | some c => s.place c.1 c.2)

/-! ## Eviction and saving (R348, R96, R332, R333) -/

/-- A pack that stands at a run boundary and can be saved there. -/
def Pack.standsStill (p : Pack) : Bool :=
  p.status == .ready || p.status == .fetching || p.status == .waiting || p.status == .parked || p.status == .saving

/-- Packs are asked to leave their core (R332, R348). -/
def State.askSave (s : State) (ps : List PackId) : State :=
  let s := ps.foldl (fun s p => s.onPack p fun k =>
    if k.takesRoom && !k.saveDue then { k with saveDue := true, asked := s.gtc } else k) s
  s.push ((ps.filter fun p => (s.pack? p).any Pack.standsStill).map Instr.packSave)

/-- EVICT: the work that makes room for grid g is asked to leave, and the room is kept (R348). -/
def execEvict (g : Nat) (s : State) : Result :=
  .next (match s.chosen g fun p => !p.victims.isEmpty with
    | none => s
    | some c =>
      let kept : List Incoming := s.incoming.filter fun i => i.unit != c.2.unit
      (({ s with incoming := kept ++ [{ unit := c.2.unit, parts := c.2.parts }] } : State).askSave (victimPacks c.2.victims)).kick)

/-- The contribution of a pack to the tiles that a save keeps (R333). -/
def Pack.kept (t : Team) (p : Pack) : BitVec 16 :=
  if (roleOf t p).kind != .matrix then 0 else if p.atPpt then p.liveSet else BitVec.ofNat 16 (2 ^ 16 - 1)

/-- The tiles of the team's share that no pack keeps become invalid, and are dropped (R333). -/
def Team.dropTiles (t : Team) (keep : BitVec 16) : Team :=
  let lost := ~~~keep &&& BitVec.ofNat 16 (2 ^ t.accs - 1)
  { t with accBad := t.accBad ||| lost, acc := t.acc.filter fun e => !lost.getLsbD e.1 }

/-- A pair operation of the partner team still writes the team's tiles (R324). -/
def State.pairWrites (s : State) (t : Team) : Bool :=
  s.allPacks.any fun p => (p.ops.any fun o => isPair o.word) && ((s.partner (s.teamOf p)).map (·.id)) == some t.id

/-- No queue of the team is delivering a block (R314). -/
def Team.betweenBlocks (t : Team) : Bool := (List.range 8).all fun ch => (t.queue ch).rest.isEmpty

/-- No pack of the team is on its core any longer, no pair operation still writes its tiles, and its lift queues stand between
blocks. -/
def State.mayLeave (s : State) (t : Team) : Bool :=
  let ps := s.packsOf t.id
  !(ps.any fun p => p.takesRoom) && !s.pairWrites t && t.betweenBlocks

/-- A team is saved whole (R206, R314, R333). -/
def State.evictTeam (s : State) (t : Team) : State :=
  let ps := s.packsOf t.id
  let keep := ps.foldl (fun m p => if p.status = .saved then m ||| p.kept t else m) t.keep
  let s := s.onTeam t.id fun t =>
    { t.dropTiles keep with
      status := .evicted, clearing := []
      tmem := t.clearing.foldl (fun m r => clearGranules m r.1 r.2) t.tmem }
  let s := s.onCore t.core fun c => if c.array = some t.id then { c with array := none } else c
  (List.range 8).foldl (fun s ch => s.channelGo t.core ch) s

/-- Once every resident team of the gang may leave, and one of them has a saved pack, they are saved together, all or none
(R206, R323, R333). -/
def State.saveTeam (s : State) (t : Team) : State :=
  let gang := (t.gangTeams.filterMap s.team?).filter fun m => m.status == .resident
  if gang.all s.mayLeave && gang.any s.hasSaved then gang.foldl State.evictTeam s else s

/-- The private lines of a pack leave the L1 (R225). -/
def State.dropPrivate (s : State) (p : PackId) : State := { s with l1 := s.l1.filter fun l => l.owner != some p }

/-- The slice of the queue at the root of grid g is counted up to now. -/
def State.countFor (s : State) (g : Nat) : State :=
  match s.grid? g with
  | none => s
  | some k => s.countSlice k.queue

/-- PACK_SAVE: a pack that is to leave its core, stands at a run boundary, and has its counters at 0 is saved (R96, R348); once it
is, its team may leave. -/
def execPackSave (p : PackId) (s : State) : Result :=
  .next (match s.pack? p with
    | none => s
    | some k =>
      let t := s.teamOf k
      if k.status = .saved then (s.saveTeam t).kick
      else if !(k.status == .saving || (k.standsStill && k.maySave t s.gtc)) || !k.drained || s.pairWrites t then s
      else
        let s := ((s.flushPrivate p).dropPrivate p).countFor p.grid
        let s := s.onPack p fun k => { k with status := .saved, saveDue := false, parkDue := false, promoted := none }
        (s.saveTeam t).kick)

/-! ## Barriers (R354) -/

/-- The team that holds the arrivals of the gang's barriers: its lowest member that is left (log 41). -/
def State.gangHome (s : State) (t : Team) : TeamId :=
  match (t.gangTeams.filterMap s.team?).find? fun m => m.status == .resident || m.status == .evicted with
  | none => t.id
  | some m => m.id

/-- The packs that a barrier counts: those of the team, or of the gang, that have not retired. -/
def State.members (s : State) (t : Team) (gang : Bool) : List Pack :=
  ((if gang then t.gangTeams else [t.id]).map s.packsOf).flatten.filter fun p => p.status != .retired && p.status != .vacant

/-- A barrier's waiters go on; one that is saved goes on from the following word once it returns. -/
def Pack.passBarrier (now : Nat) (w : Wait) (k : Pack) : Pack :=
  if k.wait ≠ w then k
  else if k.status = .waiting then k.wake now
  else if k.status = .saved || k.status = .saving then { k with wait := .none, pc := k.next }
  else k

/-- The barrier is checked: with its members all arrived, it opens. -/
def State.checkBarrier (s : State) (t : Team) (gang : Bool) (b : Nat) : State :=
  let home := if gang then s.gangHome t else t.id
  let n := ((s.team? home).map fun m => Tab.get 0 (if gang then m.gbar else m.tbar) b).getD 0
  let ms := s.members t gang
  if n = 0 || n < ms.length then s
  else
    let w := if gang then Wait.gangBarrier b else Wait.teamBarrier b
    let s := s.onTeam home fun m =>
      if gang then { m with gbar := Tab.set 0 m.gbar b 0, gkept := Tab.set 0 m.gkept b 0 }
      else { m with tbar := Tab.set 0 m.tbar b 0, tkept := Tab.set 0 m.tkept b 0 }
    ms.foldl (fun s p => s.onPack p.id (Pack.passBarrier s.gtc w)) s

/-- Every barrier of a team and its gang is checked, as a member has retired. -/
def State.checkBarriers (s : State) (t : Team) : State :=
  let s := (List.range 4).foldl (fun s b => s.checkBarrier t false b) s
  (List.range 2).foldl (fun s b => s.checkBarrier t true b) s

/-- One arrival more in a table of arrivals, unless it is among those kept. -/
def arrivals (count kept : Tab Nat) (b : Nat) : Tab Nat × Tab Nat :=
  match Tab.get 0 kept b with
  | 0 => (Tab.set 0 count b (Tab.get 0 count b + 1), kept)
  | n + 1 => (count, Tab.set 0 kept b n)

/-- The issuing pack arrives at a barrier, where an arrival that a felt kept stands for that of a pack that evaluates its word
again (R354, R397, log 42). -/
def State.arrive (s : State) (t : Team) (gang : Bool) (b : Nat) : State :=
  let home := if gang then s.gangHome t else t.id
  (s.onTeam home fun m =>
    if gang then { m with gbar := (arrivals m.gbar m.gkept b).1, gkept := (arrivals m.gbar m.gkept b).2 }
    else { m with tbar := (arrivals m.tbar m.tkept b).1, tkept := (arrivals m.tbar m.tkept b).2 }).checkBarrier t gang b

/-! ## Retirement and exit (R108, R350, R351, R364) -/

/-- The report of kind 5 for a halted pack (R378). -/
def haltReport (t : Team) (p : Pack) : Report :=
  let f := t.halt.getD {}
  { packReport t p with kind := 5, cause := f.cause, d5 := p.skid, d6 := f.causeWord.toNat }

/-- A pack retires: its registers are free, its private lines at their homes (R108, R225), its stale reads counted (R370). -/
def State.retirePack (s : State) (p : PackId) : State :=
  let s := (s.flushPrivate p).dropPrivate p
  match s.pack? p with
  | none => s
  | some k =>
    let t := s.teamOf k
    let s := s.onCtx t.ctx fun c => { c with stale := c.stale + k.staleCount.zeroExtend 64 }
    let s := s.onTeam t.id fun t => { t with lwct := max t.lwct k.lwct, keep := t.keep ||| k.kept t }
    let s := s.onPack p fun k =>
      { k with status := .retired, wait := .none, vregs := [], live := 0, latchTag := none, latch := [], saveDue := false }
    (((s.checkBarriers t).saveTeam t).exitCheck t.id).kick

/-- PACK_RETIRE: an exiting or halted pack with nothing outstanding retires; a halted one once its report is written
(R108, R364, R377). -/
def execPackRetire (p : PackId) (s : State) : Result :=
  .next (match s.pack? p with
    | none => s
    | some k =>
      if !(k.status == .exiting || k.status == .halted) || !k.drained || !k.replay.isEmpty then s
      else if k.status = .exiting then s.retirePack p
      else if s.reportRoom && s.waiting.isEmpty then (s.post (haltReport (s.teamOf k) k)).retirePack p
      else s)

/-- The identity under which the exit of a team sends its completion increment through a window. -/
def exitAgent (t : TeamId) : PackId := { grid := t.grid, team := t.team, role := 6, pir := 0 }

/-- Packs of a team leave the machine. -/
def State.purgePacks (s : State) (t : TeamId) : State :=
  let s := { s with packs := s.packs.filter fun p => p.id.teamId != t }
  if s.pk.id.teamId = t then { s with pk := {} } else s

/-- Teams that have exited, with no granule still being cleared, leave the machine. -/
def State.purgeTeams (s : State) : State :=
  { s with teams := s.teams.filter fun t => t.status != .exited || !t.clearing.isEmpty }

/-- The slice of a queue has run out. -/
def HQueue.sliceOut (k : HQueue) : Bool := k.sliceUs != 0 && decide ((k.sliceUs * 1000 : Nat) ≤ k.slice)

/-- The queue of a grid whose last placed team is gone closes the account of a slice that has run out (R342). -/
def State.closeSlice (s : State) (g : Nat) : State :=
  match s.grid? g with
  | none => s
  | some k =>
    if (s.queuePlaced k.queue).isEmpty then s.onHQueue k.queue fun q => if q.sliceOut then { q with slice := 0 } else q else s

/-- The team has exited (R350). -/
def State.exitDone (s : State) (t : TeamId) : State :=
  let s := (s.onTeam t fun m => { m with status := .exited, exitOn := none }).purgePacks t
  let s := s.onGrid t.grid fun g => { g with texit := g.texit + 1 }
  let s := { s with incoming := s.incoming.filter fun i => i.unit != WorkUnit.teams t && i.unit != WorkUnit.packs t }
  (s.purgeTeams.push [.gridRetire t.grid]).kick

/-- The completion increment of a team has a WCT, which its grid's record waits for (R259), and the team has exited. -/
def State.incremented (s : State) (t : TeamId) (wct : Nat) : State :=
  (s.gridWrote t.grid wct).exitDone t

/-- The completion increment is dropped, with a notice of kind 8. -/
def State.exitDropped (s : State) (m : Team) (cause reason : Nat) : State :=
  let cevt := ((s.grid? m.id.grid).map fun g => grCevt g.record.toNat).getD 0
  (s.post { seq := 0, kind := 8, cause := cause, ctx := m.ctx, addr := cevt, lcore := m.lcore, team := m.id.team, d5 := reason }).exitDone m.id

/-- The completion increment of a team (R350). -/
def State.increment (s : State) (m : Team) : State :=
  let a := ((s.grid? m.id.grid).map fun g => grCevt g.record.toNat).getD 0
  if a = 0 then s.exitDone m.id
  else match addrCheck a 8 with
    | some f => s.exitDropped m f.1 f.2
    | none =>
      match s.atomAt m.ctx (a / 128) 0 7 [(0, a % 128, 1, 0)] none with
      | (.ok r, s) => s.incremented m.id r.2
      | (.error (.fault c r), s) => s.exitDropped m c r
      | (.error (.window x), s) =>
        (s.setDirty x).sendRequest m.core 0 (exitAgent m.id) 1 (a / 128) x
          (.atomic m.ctx (x.ownerAddr (a / 128 * 128)) 0 7 [(0, a % 128, 1, 0)] false)
      | (.error _, s) =>
        let n := s.nextReport
        let s := s.postFault { seq := 0, kind := 1, ctx := m.ctx, addr := a, acc := 2, lcore := m.lcore, team := m.id.team } (.exit m.id)
        s.onTeam m.id fun m => { m with exitOn := some n }

/-- The storage and the handles of a team are released, with what others hold in its budget (R201). -/
def State.releaseTeam (s : State) (m : Team) : State :=
  let s := (m.handles.map (·.1)).foldl (fun s n => s.releaseHandle m n) s
  match s.team? m.id with
  | none => s
  | some t =>
    let here := t.status == .resident
    let s := (s.onTeam m.id fun t =>
      { t with allocs := [], clearing := if here then t.clearing ++ t.allocs.map fun a => (a.start, a.len) else [] }).push
        (if here then t.allocs.map fun a => .granuleClearDone t.core (t.gbase + a.start) else [])
    (s.onCore m.core fun c => if c.array = some m.id then { c with array := none } else c).testGates

/-- The arrivals at gang barriers that a leaving team holds go to the next member. -/
def State.passArrivals (s : State) (m : Team) : State :=
  if m.gang = 0 || m.gbar.isEmpty then s
  else
    let s := s.onTeam m.id fun t => { t with gbar := [], gkept := [] }
    let h := s.gangHome m
    if h = m.id then s else s.onTeam h fun t => { t with gbar := m.gbar, gkept := m.gkept }

/-- TEAM_EXIT: with every pack retired, its lift queues empty or halted, no operation writing its tiles, and the GTC at the
largest LWCT, the team's resources are released and its completion is counted (R350). -/
def execTeamExit (t : TeamId) (s : State) : Result :=
  .next (match s.team? t with
    | none => s
    | some m =>
      let ps := s.packsOf t
      let s := if m.halt.isSome then s.onTeam t Team.cancelLifts else s
      let m := if m.halt.isSome then m.cancelLifts else m
      if (m.status != .resident && m.status != .evicted) || ps.isEmpty || ps.any (fun p => p.status != .retired)
          || (List.range 8).any (fun ch => !(m.queue ch).halted && !(m.queue ch).cmds.isEmpty) || s.pairWrites m then s
      else
        let s := ((s.waitUntil m.lwct).countFor t.grid).releaseTeam m
        let s := (s.onTeam t fun m => { m with status := .leaving }).closeSlice t.grid
        let s := s.passArrivals m
        s.increment m)

/-- Grid g and the grids launched under it. -/
def State.under (s : State) (g : Nat) : Nat → List Nat
  | 0 => [g]
  | n + 1 => g :: ((s.grids.filter fun k => k.parent == some g).map fun k => s.under k.idx n).flatten

/-- GRID_RETIRE: a grid whose teams have exited or been cancelled, and whose child grids have retired, retires; a grid of a
host queue has its completion record written (R351). -/
def execGridRetire (g : Nat) (s : State) : Result :=
  .next (match s.grid? g with
    | none => s
    | some k =>
      let t := grTeams k.record.toNat
      if k.retired || (!k.cancelled && decide (k.texit < t)) || decide (k.texit < k.nextT)
          || s.grids.any (fun c => c.parent == some g) then s
      else
        let s := { s with grids := s.grids.filter fun c => c.idx != g }
        match k.parent with
        | some p => ((s.gridWrote p k.wct).push [.gridRetire p]).kick
        | none =>
          if s.recordsFull k.queue then { s with grids := s.grids ++ [k] }
          else
            let f := k.fail.getD (0, 0)
            let s := s.waitUntil k.wct
            (s.recordReady k.queue k.index
              (compRecord s.gtc f.1 f.2 k.texit 0 (if k.fail.isSome || k.cancelled then 1 else 0) k.index)).kick)

/-! ## The queue unit (R338-R340) -/

/-- The identity under which the queue unit reads through windows: record 0, wait word 1. -/
def queueAgent (g q k : Nat) : PackId := { grid := g, team := q, role := 5, pir := k }

/-- A grid is accepted (R344, R353). -/
def State.accept (s : State) (r q ctx index depth : Nat) (parent : Option Nat) (priv : Bool) (slots : Tab (List Word)) : State :=
  { s with
    serial := s.serial + 1
    grids := s.grids ++
      [{ idx := s.serial, ctx := ctx, queue := q, index := index, parent := parent, depth := depth, priv := priv,
         record := BitVec.ofNat 2048 r, preload := slots, order := s.serial, go := grWaddr r == 0 }] }

/-- A wait word is to be read (R339). -/
def State.watchGrid (s : State) (q r : Nat) : State :=
  if grWaddr r = 0 then s.kick else s.push [.waitConditionRead q]

/-- LAUNCH_RECORD_READ: the queue unit of a device that has booted reads record HEAD, and takes it (R35, R338); a failing read changes
nothing. -/
def execLaunchRecordRead (q : Nat) (s : State) : Result :=
  queueEvent q s fun s =>
    let k := s.queue q
    let a := k.ring + 256 * (k.head % 2 ^ k.logsz)
    if s.boot ≠ .running || !k.en || k.head = k.tail || k.wait.isSome || a % 256 ≠ 0 then s
    else match s.homeRead (queueAgent 0 q 0) 0 k.ctx [((a : Int), 256)] with
      | (.ok bs, s) =>
        let r := ofBytes bs
        (match s.checkRecord (queueAgent 0 q 0) 0 k.ctx r with
          | (.wait, s) => s
          | (.malformed n, s) =>
            let s := (s.dropFetched (queueAgent 0 q 0)).onHQueue q fun k =>
              { k with desc := setBitsOf k.desc 223 192 (k.head + 1), order := k.order ++ [k.head] }
            (s.recordReady q k.head (compRecord s.gtc 0 0 0 n 2 k.head)).push [.launchRecordRead q]
          | (.good slots, s) =>
            let s := (s.dropFetched (queueAgent 0 q 0)).onHQueue q fun k =>
              { k with desc := setBitsOf k.desc 223 192 (k.head + 1), order := k.order ++ [k.head], wait := some s.serial }
            (s.accept r q k.ctx k.head 1 none k.prv slots).watchGrid q r)
      | (.wait, s) => s
      | (_, s) => s.dropFetched (queueAgent 0 q 0)

/-- The wait word of a grid is read: the grid goes when it is at least WVAL (R339). -/
def State.testGrid (s : State) (g : Grid) : State :=
  let who := queueAgent g.idx g.queue 1
  let r := g.record.toNat
  match s.homeRead who 0 g.ctx [((grWaddr r : Int), 8)] with
  | (.ok bs, s) =>
    let s := s.dropFetched who
    if grWval r ≤ ofBytes bs then s.onGrid g.idx fun g => { g with go := true } else s
  | (.wait, s) => s
  | (_, s) => s.dropFetched who

/-- WAIT_CONDITION_READ: the wait words of the queue's grids are read again (R339). -/
def execWaitConditionRead (q : Nat) (s : State) : Result :=
  queueEvent q s fun s => ((s.grids.filter fun g => g.queue == q && g.waits).foldl State.testGrid s).kick

/-- EN is cleared: the waiting grid is dropped and HEAD goes back to its record (R340). -/
def State.disableQueue (s : State) (q : Nat) : State :=
  let k := s.queue q
  let s := match k.wait.bind s.grid? with
    | none => s
    | some g =>
      ({ s with grids := s.grids.filter (fun c => c.idx != g.idx), incoming := s.incoming.filter fun i => i.unit.team.grid != g.idx }).onHQueue q
        fun k => { k with desc := setBitsOf k.desc 223 192 g.index, wait := none, order := k.order.filter (· != g.index) }
  s.onHQueue q fun k => { k with desc := setBitsOf k.desc 100 100 0 }

/-! ## Time slices (R342) -/

/-- Another queue of the same priority has work that cannot be placed. -/
def State.peerWaits (s : State) (q : Nat) : Bool :=
  s.served.any fun r => r != q && (s.queue r).prio == (s.queue q).prio &&
    (s.unitsOf r).any fun u => !((s.places u).any fun cs => (s.fitAt u cs [] (s.unitParts u)).isSome)

/-- The slice of queue q expires: its placed teams give way to a peer's waiting work. -/
def State.expireSlice (s : State) (q : Nat) : State :=
  let s' := s.onHQueue q fun k => { k with slice := 0, since := s.gtc }
  if s.peerWaits q then
    ({ s' with lastQueue := q } : State).askSave (((s.queuePlaced q).map fun t => (s.packsOf t.id).map (·.id)).flatten)
  else s'

/-- SLICE_EXPIRE (R342); in a freeze it has no effect (R388). -/
def execSliceExpire (q : Nat) (s : State) : Result :=
  queueEvent q s fun s =>
    let s := s.countSlice q
    if (s.queue q).sliceOut && !(s.queuePlaced q).isEmpty && (s.ctx (s.queue q).ctx).frz.isNone then (s.expireSlice q).kick else s

/-! ## The words -/

/-- A barrier word (R354). -/
def barrierWord (i : Instr) (gang : Bool) (b : Pack → Nat) (s : State) : Result :=
  .next (issueWord i s fun u t =>
    if u.pk.hasPending then .own u.takePending
    else if releaseWaits (if gang then 2 else 1) u then .stall
    else
      let w := if gang then Wait.gangBarrier (b u.pk) else Wait.teamBarrier (b u.pk)
      .own ((t.block w).arrive u.tm gang (b u.pk)))

/-- TBAR (R354). -/
def execTbar (e : Bool) (a : BitVec 6) (s : State) : Result :=
  barrierWord (.tbar e a) false (fun p => (p.s a.toNat).toNat % 4) s
/-- GBAR (R354). -/
def execGbar (e : Bool) (a : BitVec 6) (s : State) : Result :=
  barrierWord (.gbar e a) true (fun p => (p.s a.toNat).toNat % 2) s

/-- EVSIG (R355): a release at .sys scope, and then a 64-bit atomic add, as one lane. -/
def execEvsig (e : Bool) (d a b : BitVec 6) (s : State) : Result :=
  .next (issueWord (.evsig e d a b) s fun u t =>
    if releaseWaits 4 u then .stall
    else
      let p := u.pk
      let addr := fun (_ : Nat) => ((p.s a.toNat).toNat : Int)
      let r := checkedLanes [0] addr fun l => atomCheck u.tm (addr l) 8
      .done (t.startMem u (.evsig e d a b) .ld r.1 r.2 (r.1.map fun q => (q.1, (p.s b.toNat).toNat)) [] [d.toNat] false))

/-- The 64-bit word that a pack waits on is read at its home, with the checks of R219 (R356). -/
def State.readWait (s : State) (p : Pack) (va : Nat) : LiftRead × State :=
  let t := s.teamOf p
  match addrCheck va 8 with
  | some f => (.err f.1 f.2 va, s)
  | none =>
    match s.homeRead p.id t.core t.ctx [((va : Int), 8)] with
    | (.wait, s) => (.wait, s)
    | (.page a, s) => (.page a, s)
    | (r, s) => (r, s.dropFetched p.id)

/-- A blocking word that waits on a word of memory (R356, R429): met: what it makes of the value. -/
def waitWord (i : Instr) (s : State) (va : Pack → Nat) (w : Pack → Wait) (met : Pack → Nat → Option (Pack → Pack)) : Result :=
  .next (issueWord i s fun u t =>
    if u.pk.hasPending then .own u.takePending
    else match u.pk.declinedIn (va u.pk) 8 with
    | some a => .own ({ t with pk := t.pk.deferAll u.pk.pc cPAGE 0 (dw a) allOnes 0 } : State).takePending
    | none =>
    match t.readWait t.pk (va u.pk) with
      | (.ok bs, t) =>
        (match met u.pk (ofBytes bs) with
          | some f => .own (({ t with pk := f t.pk } : State).goto true u.pk.next)
          | none => .own (t.block (w u.pk)))
      | (.err c r a, t) => .own ({ t with pk := t.pk.deferAll u.pk.pc c r (dw a) allOnes 0 } : State).takePending
      | (.page a, t) => .held (t.parkAtWord 0 a allOnes)
      | (.wait, t) => .own (t.block (w u.pk)))

/-- EVWAIT (R356). -/
def execEvwait (e : Bool) (a b : BitVec 6) (s : State) : Result :=
  waitWord (.evwait e a b) s (fun p => (p.s a.toNat).toNat) (fun p => .event (p.s a.toNat).toNat (p.s b.toNat).toNat)
    fun p v => if (p.s b.toNat).toNat ≤ v then some fun k => k else none

/-- A pack that waits at its word parks there on a page fault (R356). -/
def State.parkWaiting (s : State) (p : Pack) (va : Nat) : State :=
  let n := s.nextReport
  let s := s.postFault { packReport (s.teamOf p) p with addr := va, mask := allOnes, acc := 0 } (.pack p.id)
  s.onPack p.id fun k => { k with status := .parked, wait := .none, parkOn := some n, runpos := 0 }

/-- A waiting pack reads its word again; met: whether it goes on, and what changes in it. -/
def State.rereadWord (s : State) (p : Pack) (va : Nat) (met : Nat → Option (Pack → Pack)) : State :=
  match s.readWait p va with
  | (.ok bs, s) => (match met (ofBytes bs) with
    | some f => s.onPack p.id fun k => (f k).wake s.gtc
    | none => s)
  | (.err c r a, s) => s.trapWaiting p.id fun k => k.deferAll k.pc c r (dw a) allOnes 0
  | (.page a, s) => s.parkWaiting p a
  | (.wait, s) => s

/-- EVWAIT_REREAD (R356). -/
def execEvwaitReread (p : PackId) (s : State) : Result :=
  .next (match s.pack? p with
    | none => s
    | some k =>
      match k.status, k.wait with
      | .waiting, .event va v => s.rereadWord k va fun x => if v ≤ x then some fun k => k else none
      | _, _ => s)

/-- The queue at the root of the issuing pack's grid. -/
def State.rootQueue (s : State) (t : Team) : Nat := ((s.grid? t.id.grid).map (·.queue)).getD 0

/-- Child grids of a queue that are accepted and not admitted. -/
def State.pendingChildren (s : State) (q : Nat) : Nat :=
  (s.grids.filter fun g => g.queue == q && g.parent.isSome && !g.admitted && !g.cancelled).length

/-- The identity under which a LAUNCH reads its code-table preload through windows. -/
def preloadAgent (p : PackId) : PackId := { p with role := 8 }

/-- LAUNCH (R353). -/
def execLaunch (e : Bool) (d a : BitVec 6) (s : State) : Result :=
  .next (issueWord (.launch e d a) s fun u t =>
    let va := (u.pk.s a.toNat).toNat
    if u.tm.depth = 10 then .trap { precise cDEPTH 0 with addr := dw va, detail := 10 }
    else if u.pk.id.role ≠ 0 || u.pk.id.pir ≠ 0 then .done { t with pk := t.pk.setS d.toNat (dw (2 ^ 63 + 1)) }
    else if releaseWaits 3 u then .stall
    else readAs u t va 256 256 fun t r =>
      match t.checkRecord (preloadAgent u.pk.id) u.tm.core u.tm.ctx r with
      | (.wait, t) => .wait t
      | (.malformed n, t) => .done ({ t.dropFetched (preloadAgent u.pk.id) with pk := t.pk.setS d.toNat (dw (2 ^ 63 + n * 2 ^ 8 + 2)) } : State)
      | (.good slots, t) =>
        let t := t.dropFetched (preloadAgent u.pk.id)
        if 256 ≤ t.pendingChildren (u.rootQueue u.tm) then .done { t with pk := t.pk.setS d.toNat (dw (2 ^ 63 + 3)) }
        else
          let q := u.rootQueue u.tm
          .done (({ t with pk := t.pk.setS d.toNat 0 } : State).accept r q u.tm.ctx 0 (u.tm.depth + 1) (some u.tm.id.grid) u.pk.priv slots
            |>.watchGrid q r))

end Sys2Proof.Machine
end

