-- ==== Sys2Proof/Machine/Trap.lean ====
section
/-! DEFINITION. Traps, faults and system words (R357-R385): trap delivery, team halts, storage errors, counters, privileged
registers, and the device fault queue. -/

namespace Sys2Proof.Machine

/-! ## The words of major 0x3C -/

/-- TRAP: SWTRAP, precise, with TPC at the word after it (R381). -/
def execTrap (e : Bool) (n : BitVec 6) (s : State) : Result :=
  .next (issueWord (.trap e n) s fun u _ =>
    .held (u.trapDue { precise cSWTRAP 0 with detail := n.toNat, fpc := u.pk.pc, tpc := u.pk.next }))

/-- BKPT: BREAK, precise (R381). -/
def execBkpt (e : Bool) (n : BitVec 6) (s : State) : Result :=
  .next (issueWord (.bkpt e n) s fun _ _ => .trap { precise cBREAK 0 with detail := n.toNat })

/-- RTE (R382). -/
def execRte (a : BitVec 6) (s : State) : Result :=
  .next (issueWord (.rte a) s fun u t =>
    let target := u.pk.s a.toNat
    if !u.pk.h then .trap (illegal (encode (.rte a)) 10)
    else if target.toNat % 4 ≠ 0 then .trap (illegal (encode (.rte a)) 5)
    else .own { t with pk := { t.pk.leaveTrap target with since := t.gtc, declined := none } })

/-- Word k of FAULTREC of a record (R372). -/
def FaultRec.word (r : FaultRec) (k : Nat) : DWord :=
  match k with
  | 0 => r.causeWord
  | 1 => r.addr
  | 2 => r.aux
  | 3 => r.tpc
  | 4 => r.fpc
  | 5 => r.amask
  | 6 => dw r.count
  | _ => if 64 ≤ k then Tab.get 0 r.lanes (k - 64) else 0

/-- The value of privileged register a, index k (R371-R376). -/
def privReg (s : State) (a k : Nat) : DWord :=
  match a with
  | 0 => dw s.tm.core
  | 1 => (if s.pk.h then s.pk.frec else s.pk.pend).word k
  | 2 => s.sysskew
  | 3 => s.leasecfg
  | 4 => s.tfab
  | 5 => s.keytab
  | 6 => (s.ctx s.tm.ctx).ptbase
  | _ => (s.ctx s.tm.ctx).dlogbase

/-- SSRD (R383). -/
def execSsrd (e : Bool) (d a b : BitVec 6) (s : State) : Result :=
  .next (issueWord (.ssrd e d a b) s fun u t =>
    .done { t with pk := t.pk.setS d.toNat (privReg u a.toNat ((u.pk.s b.toNat).toNat % 128)) })

/-- Bits h down to l of v, in their place. -/
def keepBits (v : DWord) (h l : Nat) : Nat := bitsOf v h l * 2 ^ l

/-- SYSSKEW after a write of v (R373): EPS is written; a 1 clears OVR, and MEAS with it. -/
def skewWrite (x v : DWord) : DWord := dw ((if v.getLsbD 32 then 0 else bitsOf x 32 16 * 2 ^ 16) + bitsOf v 15 0)

/-- A write of v to privileged register a, whose reserved bits ignore it; PCORE and FAULTREC ignore every write
(R371, R373-R376). -/
def State.writePriv (s : State) (a : Nat) (v : DWord) : State :=
  match a with
  | 2 => { s with sysskew := skewWrite s.sysskew v }
  | 3 => { s with leasecfg := dw (bitsOf v 1 0) }
  | 4 => { s with tfab := dw (bitsOf v 31 0) }
  | 5 => { s with keytab := dw (keepBits v 63 48 + keepBits v 44 7) }
  | 6 => s.onCtx s.tm.ctx fun c => { c with ptbase := dw (keepBits v 44 14) }
  | 7 => s.onCtx s.tm.ctx fun c => { c with dlogbase := dw (keepBits v 44 12 + keepBits v 4 0) }
  | _ => s

/-- SSWR (R383). -/
def execSswr (e : Bool) (a b : BitVec 6) (s : State) : Result :=
  .next (issueWord (.sswr e a b) s fun u t => .done (t.writePriv a.toNat (u.pk.s b.toNat)))

/-- The value of counter n (R370), and the state after reading it. The counters of cc and of spills depend on timing that the
model leaves out: they read as free values (log 11). -/
def State.counter (s : State) (n : Nat) : DWord × State :=
  let core := (s.core s.tm.core).count
  if n ≤ 5 || n = 7 || n = 8 then s.takeFree
  else if n ≤ 9 then (Tab.get 0 core n, s)
  else if n ≤ 16 then (Tab.get 0 s.count n, s)
  else if n = 17 then ((s.ctx s.tm.ctx).stale, s)
  else (0, s)

/-- CNTRD (R385). -/
def execCntrd (e : Bool) (d a : BitVec 6) (s : State) : Result :=
  .next (issueWord (.cntrd e d a) s fun u t =>
    let r := u.counter ((u.pk.s a.toNat).toNat % 256)
    .done { t with pk := t.pk.setS d.toNat r.1, free := r.2.free })

/-- The teams and grids that HALT of a scope halts (R384). -/
def State.haltScope (s : State) (t : Team) (scope : Nat) : List TeamId × List Nat :=
  match scope with
  | 0 => ([t.id], [])
  | 1 => (t.gangTeams, [])
  | _ =>
    let gs := s.under t.id.grid s.grids.length
    ((s.allTeams.filter fun m => gs.contains m.id.grid && (m.status == .resident || m.status == .evicted)).map (·.id), gs)

/-- Grids of the scope place no further team (R384). -/
def State.cancelGrids (s : State) (gs : List Nat) : State :=
  ({ s with
    grids := replaceAll (fun g => gs.contains g.idx) (fun g => { g with cancelled := true }) s.grids
    incoming := s.incoming.filter fun i => !gs.contains i.unit.team.grid }).push (gs.map Instr.gridRetire)

/-- HALT (R384). -/
def execHalt (e : Bool) (a : BitVec 6) (s : State) : Result :=
  .next (issueWord (.halt e a) s fun u t =>
    let r := t.haltScope t.tm ((u.pk.s a.toNat).toNat % 4)
    let f : FaultRec := { precise cSWTRAP 0xFF with detail := 0xFF, fpc := u.pk.pc, tpc := u.pk.pc }
    let s := t.haltTeam t.tm.id (some t.pk.id) f
    let s := (r.1.filter (· != t.tm.id)).foldl (fun s m =>
      if ((s.team? m).bind (·.halt)).isSome then s else s.haltTeam m none f) s
    .own (s.cancelGrids r.2))

/-! ## Trap entry and halts -/

/-- TRAP_ENTRY: the counters have drained, and the trap that is due is delivered (R360). -/
def execTrapEntry (p : PackId) (s : State) : Result :=
  .next (match s.pack? p with
    | none => s
    | some k => if k.status = .trapping && k.drained then s.deliver k else s)

/-- HALT_BROADCAST_ARRIVE: the halt has reached the pack's core: a running pack stops at its next run boundary, any other
where it stands (R364, R367). -/
def execHaltBroadcastArrive (p : PackId) (s : State) : Result :=
  .next (match s.pack? p with
    | none => s
    | some k =>
      match k.status with
      | .vacant | .retired | .halted => s
      | .running => s.onPack p fun k => if k.haltDue then k else { k with haltDue := true, skid := 0 }
      | _ => (s.onPack p fun k => { k with status := .halted, wait := .none, due := {} }).push [.packRetire p])

/-- Room for a line in a core's instruction cache: full, it gives up a line, which is free (R20, log 60). -/
def State.icacheRoom (s : State) (core : Nat) (e : Nat × Nat) : State :=
  let c := s.core core
  if c.icache.length < icacheLines || c.icache.contains e then s
  else match s.pickFree c.icache with
    | (some x, s) => s.onCore core fun c => { c with icache := c.icache.filter (· != x) }
    | (none, s) => s

/-- ICACHE_FILL: the line of the pack's next word is in the instruction cache, and the pack is ready (R116). -/
def execIcacheFill (p : PackId) (s : State) : Result :=
  .next (match s.pack? p with
    | none => s
    | some k =>
      let t := s.teamOf k
      let e := (t.ctx, k.pc.toNat / 128)
      let s := (s.icacheRoom t.core e).onCore t.core fun c =>
        if c.icache.contains e then c else { c with icache := c.icache ++ [e] }
      s.onPack p fun k => if k.status = .fetching then { k with status := .ready, since := s.gtc } else k)

/-- PACK_PROMOTE: a ready pack has not been chosen for 4,096 cc (R26, R98); they pass first (log 29). -/
def execPackPromote (p : PackId) (s : State) : Result :=
  .next (match (s.pack? p).bind s.promotesAt with
    | none => s
    | some t => (s.waitUntil t).onPack p fun k => { k with promoted := some t })

/-! ## Storage errors (R368, R369) -/

/-- The notice of a poisoning; how dword 5 numbers the sites is open (log 11). -/
def State.poisonNotice (s : State) (ctx addr : Nat) : State :=
  let f := s.takeFree
  f.2.post { seq := 0, kind := 6, cause := cECC, ctx := ctx, addr := addr, d5 := f.1.toNat }

/-- A 128-byte line of memory is poisoned, with its copies. -/
def State.poisonLine (s : State) (pa : Nat) : State :=
  let home := s.l2.find? fun h => h.phys == pa
  let s := { s with
    poison := if s.poison.contains pa then s.poison else pa :: s.poison
    l2 := replaceAll (fun h => h.phys == pa) (fun h => { h with poison := true }) s.l2
    l1 := replaceAll (fun l => l.phys == pa) (fun l => { l with poison := true }) s.l1 }
  match home with
  | some h => s.poisonNotice h.ctx (128 * h.line)
  | none => s.poisonNotice 0 pa

/-- An uncorrectable error in a matrix operation: a pair aborts (R324); a single one leaves its tiles invalid and a deferred
fault. -/
def State.arrayError (s : State) (p : PackId) (op : Nat) : State :=
  match (s.pack? p).bind fun k => (k.op? op).map fun o => (s.teamOf k, k, o) with
  | none => s
  | some (m, k, o) =>
    if isPair o.word then
      match execPairAbort p op s with
      | .next s => s
      | _ => s
    else
      let tiles := (uses k.ty o.word).ac
      let n := (tiles[0]?.map (·.1)).getD 0
      let s := s.onTeam m.id fun t => { t with accBad := tiles.foldl (fun b q => b ||| tileMask q.1 q.2) t.accBad }
      let s := s.onPack p fun k => k.deferAll o.fpc cECC 2 0 allOnes n
      ((s.endOp p op fun _ k => k).afterOp p).wakeLoads m.id

/-- An uncorrectable error in a line of a core's L1: a clean one is dropped, and the access goes to the next level, which counter 12
counts; a dirty private one is written back poisoned (R368, R369). -/
def State.l1Error (s : State) (core ctx line : Nat) : State :=
  match s.l1.find? fun l => l.core == core && l.ctx == ctx && l.line == line with
  | none => s
  | some l =>
    if l.owner.isSome && l.dirty then ((s.bump 13).l1Evict { l with poison := true }).poisonNotice ctx (128 * line)
    else (s.bump 12).l1Evict l

/-- The error poisons the data of its site. -/
def State.poisonSite (s : State) (site : EccSite) : State :=
  match site with
  | .memory n => s.poisonLine (128 * n)
  | .tile t h u =>
    (match (s.team? t).bind fun m => (m.handle h).map fun x => (m, x) with
      | none => s
      | some (m, x) =>
        (s.onAlloc x fun a => { a with poison := if a.poison.contains u then a.poison else u :: a.poison }).poisonNotice m.ctx 0)
  | .vreg p r m => s.onPack p fun k => { k with ecc := some (r, m) }
  | .sreg p r => s.onPack p fun k => { k with eccS := some r }
  | .l1 c x n => s.l1Error c x n
  | .array p op => s.arrayError p op

/-- ECC_RETRY: an access meets a storage error, corrected (counter 11), transient (12) or uncorrectable (13)
(R368, R369). -/
def execEccRetry (site : EccSite) (out : EccOutcome) (s : State) : Result :=
  .next (match out with
    | .corrected => s.bump 11
    | .transient => s.bump 12
    | .uncorrectable => (match site with
      | .l1 c x n => s.l1Error c x n
      | _ => (s.bump 13).poisonSite site))

/-- The vector registers whose lanes a word reads; MMA's rows are the lanes of its block and scales (R319). -/
def vectorReads (t : Team) (p : Pack) (i : Instr) : List Nat :=
  match i with
  | .mma _ _ g k sc _ f => mmaReads t p f.toNat (32 * g.toNat) sc.toNat (k == 1)
  | _ => ((uses p.ty i).vr.map VRef.regs).flatten

/-- The lanes of l that satisfy f. -/
def lanesWhere (f : Nat → Bool) : DWord := maskOf ((List.range 64).filter f)

/-- The lanes of a word that read a lane of m in v[r] (R8, R132, R368): rows of an MMA, which has no inactive one; for a word that reads
across lanes, the lanes that it reads for; for VGET and CBLD, which fill no lane, the lanes they read. -/
def readers (p : Pack) (i : Instr) (r : Nat) (m : DWord) : DWord :=
  match i with
  | .mma .. => m
  | .vsel .. => m &&& p.em
  | .vshf _ _ a b _ _ => p.active &&& lanesWhere fun l =>
    (b.toNat == r && m.getLsbD l) || (a.toNat == r && m.getLsbD ((lane (p.v b.toNat) l).toNat % 64))
  | .vstep _ _ _ b _ => p.active &&& lanesWhere fun l => m.getLsbD ((l + (p.s b.toNat).toNat) % 64)
  | .vbcast _ _ _ b _ => if m.getLsbD ((p.s b.toNat).toNat % 64) then p.active else 0
  | .vget _ _ _ b _ => m &&& dw (2 ^ ((p.s b.toNat).toNat % 64))
  | .cbld .. => m &&& 0xFF
  | .bscale .. | .qcb .. => p.active &&& lanesWhere fun l => !(groupLanes (p.active &&& m) (l / 32)).isEmpty
  | _ => m &&& p.active

/-- The lanes of a word that read a register in error (R368). -/
def eccLanes (t : Team) (p : Pack) (i : Instr) : DWord :=
  match p.ecc with
  | none => 0
  | some (r, m) => if (vectorReads t p i).contains r then readers p i r m else 0

/-- The lanes of m take ECC_UNCORR 4 at fpc, of register r (R359, R368). -/
def Pack.deferEcc (p : Pack) (fpc : DWord) (r : Nat) (m : DWord) : Pack :=
  match lanesOf m with
  | [] => p
  | l :: ls => p.defer fpc cECC 4 l 0 m r ((l :: ls).map fun k => (k, 0))

/-- The issuing pack as its word finds it: lanes that read a register in error take ECC_UNCORR 4 and are masked off for the
word (R359, R368). -/
def State.eccEnter (s : State) (i : Instr) : State :=
  let m := eccLanes s.tm s.pk i
  match s.pk.ecc with
  | some (r, _) => { s with pk := { s.pk.deferEcc s.pk.pc r m with em := s.pk.em &&& ~~~m } }
  | none => s

/-- After the word, em is again what it was, also in the frame of a trap, and the error is taken; a word that stalled has met none
yet. -/
def State.eccLeave (old new : State) : State :=
  let q := { new.pk with ecc := none }
  if new.pk.id ≠ old.pk.id then new
  else if new.pk.status = .running && new.pk.pc = old.pk.pc then { new with pk := old.pk }
  else if new.pk.h && !old.pk.h then { new with pk := { q with frame := { q.frame with em := old.pk.em } } }
  else if new.pk.em = (new.pk.em &&& old.pk.em) then { new with pk := { q with em := old.pk.em } }
  else { new with pk := q }

/-- The scalar register in error that a word reads, if it does (R368). -/
def eccScalar (p : Pack) (i : Instr) : Option Nat := p.eccS.filter (uses p.ty i).sr.contains

/-- The words that block (R48). -/
def isBlocking (i : Instr) : Bool :=
  match i with
  | .hold .. | .gwait .. | .tbar .. | .gbar .. | .evwait .. | .cwait .. => true
  | _ => false

/-- A word that reads a scalar register in error: all 64 lanes take ECC_UNCORR 4, and the word has no other effect (R368). A blocking
word, which takes the trap of a pending record before its effect (R359), takes that of this fault too, as a GWAIT does for its own
(R312). DEDUCED, log 62. -/
def scalarEcc (i : Instr) (r : Nat) (s : State) : State :=
  issueWord i s fun u t =>
    let faulted := fun (p : Pack) => { p.deferAll u.pk.pc cECC 4 0 allOnes r with eccS := none }
    if !isBlocking i then .done { t with pk := faulted t.pk }
    else if u.pk.hasPending then .own u.takePending
    else .own ({ u with pk := faulted u.pk } : State).takePending

/-- A word that reads a vector register in error and fills no lane, VGET or CBLD: the lanes it reads take ECC_UNCORR 4, and its
destination is unchanged (R368). -/
def scalarLaneEcc (i : Instr) (s : State) : State :=
  issueWord i s fun u t =>
    .done { t with pk := { t.pk.deferEcc u.pk.pc ((u.pk.ecc.map (·.1)).getD 0) (eccLanes u.tm u.pk i) with ecc := none } }

/-- The word of s has not completed in n: it has stalled or parked, or it has raised a precise fault, which comes before the faults of
its data and leaves it no other effect (R40, R59, R358). -/
def heldBack (s n : State) : Bool :=
  n.pk.pc == s.pk.pc || n.pk.status == .trapping || n.pk.status == .halted || (n.pk.h && !s.pk.h)

/-! ## Skew (R373) -/

/-- SKEW_MEASURE: the device has measured the skew to a peer. -/
def execSkewMeasure (peer skew : Nat) (s : State) : Result :=
  let meas := max (bitsOf s.sysskew 31 16) (min 0xFFFF skew)
  let ovr := decide (s.eps < skew)
  let t := { s with sysskew := dw ((if ovr || s.sysskew.getLsbD 32 then 2 ^ 32 else 0) + meas * 2 ^ 16 + s.eps) }
  .next (if ovr then t.post { seq := 0, kind := 4, d5 := meas, d6 := peer } else t)

end Sys2Proof.Machine
end

