-- ==== Sys2Proof/Machine/Fabric.lean ====
section
/-! DEFINITION. The fabric (R406-R417): packets, remote requests and their ends; groups and collectives (R418-R431). -/

namespace Sys2Proof.Machine

/-! ## FSTAT (R416, R431) -/

/-- Bits of FSTAT set. -/
def Pack.setFstat (p : Pack) (bits : Nat) : Pack := { p with fstat := p.fstat ||| dw bits }

/-- A store's WCT was marked failed: SF, and NFAIL one more. -/
def Pack.storeFailed (p : Pack) : Pack :=
  { p with fstat := setBitsOf (p.fstat ||| 1) 47 32 (min 0xFFFF (bitsOf p.fstat 47 32 + 1)) }

/-- FSTAT: s[d] := FSTAT; the bits named in s[a] are cleared (R431). -/
def execFstat (e : Bool) (d a : BitVec 6) (s : State) : Result :=
  .next (packWord (.fstat e d a) s fun p t =>
    let m := p.s a.toNat
    let x := p.fstat &&& ~~~(m &&& 0x3F)
    { t.setS d.toNat p.fstat with fstat := if bitsOf m 47 32 = 0 then x else setBitsOf x 47 32 0 })

/-! ## Groups, and what their members send each other (R410, R418-R425) -/

/-- Group g of a context. -/
def State.group (s : State) (ctx g : Nat) : Group := Tab.get {} (s.ctx ctx).groups g
/-- Group g of a context, changed by f. -/
def State.onGroup (s : State) (ctx g : Nat) (f : Group → Group) : State :=
  s.onCtx ctx fun c => { c with groups := Tab.set {} c.groups g (f (s.group ctx g)) }
/-- Every group, changed by f. -/
def State.onAllGroups (s : State) (f : Group → Group) : State :=
  { s with ctxs := s.ctxs.map fun e => (e.1, { e.2 with groups := e.2.groups.map fun g => (g.1, f g.2) }) }
/-- This device's rank in a group. -/
def State.ownRank (s : State) (ctx g : Nat) : Option Nat :=
  let ms := (s.group ctx g).members
  let i := ms.takeWhile (· != s.device)
  if i.length < ms.length then some i.length else none

/-- OP, RED, TYPE, GROUP, ROOT, COUNT, SRC and DST of a collective descriptor (R420). -/
def cdOp (d : Nat) : Nat := bitsAt d 52 4
/-- RED. -/
def cdRed (d : Nat) : Nat := bitsAt d 48 4
/-- TYPE. -/
def cdType (d : Nat) : Nat := bitsAt d 44 4
/-- GROUP. -/
def cdGroup (d : Nat) : Nat := bitsAt d 32 6
/-- ROOT. -/
def cdRoot (d : Nat) : Nat := bitsAt d 0 17
/-- COUNT. -/
def cdCount (d : Nat) : Nat := bitsAt d 128 32
/-- SRC. -/
def cdSrc (d : Nat) : Nat := bitsAt d 192 64
/-- DST. -/
def cdDst (d : Nat) : Nat := bitsAt d 256 64
/-- The element size. -/
def cdSize (d : Nat) : Nat := if cdType d = 1 || cdType d = 2 then 2 else 4

/-- Collective number seq of a group that has not ended. -/
def State.coll? (s : State) (ctx g seq : Nat) : Option Coll := (s.group ctx g).colls.find? fun c => c.seq == seq % 2 ^ 16
/-- Collective number seq of a group, changed by f. -/
def State.onColl (s : State) (ctx g seq : Nat) (f : Coll → Coll) : State :=
  s.onGroup ctx g fun k => { k with colls := replaceFirst (fun c => c.seq == seq % 2 ^ 16) f k.colls }

/-- A packet that no response answers is sent on a virtual lane, and kept until it is acknowledged (R409, R410). -/
def State.engineSend (s : State) (dst vl : Nat) (body : PacketBody) : State :=
  let pkt : Packet := { src := s.device, dst := dst, vl := vl, select := s.routing.select, slot := 0, seq := s.nextSeq,
                        deadline := s.gtc + s.tfabTicks, body := body }
  ({ s with nextSeq := s.nextSeq + 1, unacked := s.unacked ++ [{ pkt := pkt, due := [dst], sent := s.gtc }] } : State).inject pkt

/-- A destination has accepted packet seq (R410). -/
def State.acked (s : State) (src seq : Nat) : State :=
  { s with unacked := s.unacked.filterMap fun u =>
      if u.pkt.seq ≠ seq then some u
      else
        let left := u.due.filter (· != src)
        if left.isEmpty then none else some { u with due := left } }

/-- The collective that the engine has in hand: the first, in SEQ order, that is not decided and whose own part has not ended (R423). -/
def Group.inHand (k : Group) : Option Coll := k.colls.find? fun c => c.agree.verdict.isNone && !c.ended

/-- The engine goes on with the collective in hand of a group, when its turn comes (R423). -/
def State.collGo (s : State) (ctx g : Nat) : State := s.onGroup ctx g fun k => { k with go := k.inHand.isSome }

/-- An empty slot: what has been decided in it is kept for the peers that ask (R425). -/
def Group.emptied (k : Group) : Group := { decided := k.decided, askers := k.askers }

/-- A peer asks for a decision: it is sent, at once or when it has been made (R425). -/
def State.answerAsk (s : State) (ctx g key src : Nat) : State :=
  let v := Tab.get 0 (s.group ctx g).decided key
  if v ≠ 0 then s.engineSend src 3 (.decision ctx g (key % 2 ^ 16) (dw v))
  else s.onGroup ctx g fun k => if k.state = 0 || k.askers.contains (key, src) then k else { k with askers := k.askers ++ [(key, src)] }

/-- A decision is kept for the peers that ask for it, and sent to those that have (R425). -/
def State.noteDecided (s : State) (ctx g key word : Nat) : State :=
  let k := s.group ctx g
  let s := s.onGroup ctx g fun k => { k with decided := Tab.set 0 k.decided key word, askers := k.askers.filter fun a => a.1 != key }
  (k.askers.filter fun a => a.1 == key).foldl (fun s a => s.engineSend a.2 3 (.decision ctx g (key % 2 ^ 16) (dw word))) s

/-! ## Serving requests of other devices (R410, R412, R415) -/

/-- A load of a line for another device, with a lease of the class that both pages allow (R237, R241, R475). lc: that of the
requester's page. -/
def State.remoteLoad (s : State) (ctx line lc : Nat) : Except Access (Line × Nat) × State :=
  match s.findLine ctx line with
  | (.absent, s) => (.error .pageFault, s)
  | (.window x, s) => (.error (.window x), s)
  | (.channel x phys, s) =>
    (if !x.perm.r then .error (.fault cPROT 2)
     else if s.poison.contains phys then .error (.fault cECC 1) else .ok (memLine s.hbm phys, 0), s)
  | (.home h, s) =>
    if !h.perm.r then (.error (.fault cPROT 2), s.putHome h)
    else if h.poison then (.error (.fault cECC 1), s.putHome h)
    else
      let s := (h.pend.filter (·.lift)).foldl (fun s w => s.waitUntil w.wct) s
      let h := h.settle s.gtc
      let lc := min lc h.perm.lc
      if min lc s.leaseCap = 0 then (.ok (h.data, 0), s.putHome h)
      else
        let lease := s.leaseFor { h with perm := { h.perm with lc := lc } }
        (.ok (h.data, lease), s.putHome { h with leaseEnd := max h.leaseEnd lease })

/-- The answer to a request: sent, and kept until the request's deadline (R410). -/
def State.reply (s : State) (pkt : Packet) (body : PacketBody) : State :=
  let r : Packet := { pkt with src := s.device, dst := pkt.src, vl := 1, select := s.routing.select, body := body }
  let done : List Accepted :=
    (s.accepted.filter fun a => !(a.src == pkt.src && a.vl == pkt.vl && a.seq == pkt.seq)) ++
      [{ src := pkt.src, vl := pkt.vl, seq := pkt.seq, until_ := pkt.deadline, reply := some r }]
  ({ s with accepted := done } : State).inject r

/-- What a request that fails its checks at the owner is answered with: a page fault is posted, and the request waits. -/
def State.replyError (s : State) (pkt : Packet) (ctx va acc : Nat) (a : Access) : State :=
  match a with
  | .fault c _ => s.reply pkt (if c = cECC then .error false false true else .error true false false)
  | .window _ => s.reply pkt (.error true false false)
  | _ => s.postFault { seq := 0, kind := 1, ctx := ctx, addr := va, acc := acc } (.inbound pkt)

/-- An accepted request is served at its home as one of the device's own, an atomic at its WCT but for ATOMS (R251); an error where no context of its number is set up,
and a refusal by memory that closed before it was accepted (R389, R390, R412). old: it was accepted before. -/
def State.serve (s : State) (pkt : Packet) (old : Bool) : State :=
  let open_ := fun ctx (k : State) => if (s.ctx ctx).ptbase = 0 then s.reply pkt (.error true false false)
    else if !old && (s.ctx ctx).closed then s.reply pkt (.error false true false) else k
  if pkt.deadline ≤ s.gtc + s.eps then s
  else
    match pkt.body with
    | .load ctx va lc =>
      open_ ctx (match s.remoteLoad ctx (va / 128) lc with
        | (.ok r, s) => s.reply pkt (.loadDone (toBytes r.1.toNat 128) r.2)
        | (.error a, s) => s.replyError pkt ctx va 0 a)
    | .store ctx va bytes =>
      open_ ctx (match s.storeLine ctx (va / 128) bytes false none with
        | (.ok w, s) => s.reply pkt (.storeDone w)
        | (.error a, s) => s.replyError pkt ctx va 1 a)
    | .atomic ctx va fn ty lanes early =>
      open_ ctx (match s.atomAt ctx (va / 128) fn ty lanes none with
        | (.ok r, s) => if early then s.reply pkt (.storeDone r.2) else (s.waitUntil r.2).reply pkt (.atomicDone r.1 r.2)
        | (.error a, s) => s.replyError pkt ctx va 2 a)
    | .data ctx g seq rank off bs =>
      (((s.onGroup ctx g fun k => if k.state = 0 then k else { k with inbox := k.inbox ++ [(seq, rank, off, bs)] }).collGo ctx g).reply pkt .ack)
    | .ask ctx g key => (s.answerAsk ctx g key pkt.src).reply pkt .ack
    | _ => s

/-- The memory that a request names is closed. -/
def State.closedFor (s : State) (b : PacketBody) : Bool :=
  match b with
  | .load ctx .. => (s.ctx ctx).closed
  | .store ctx .. => (s.ctx ctx).closed
  | .atomic ctx .. => (s.ctx ctx).closed
  | _ => false

/-- A packet of the same source slot and line, and an earlier number, has yet to be served, or to arrive before its deadline
(R410). -/
def State.behind (s : State) (pkt : Packet) : Bool :=
  ((bodyLine pkt.body).isSome && s.accepted.any fun a => a.src == pkt.src && a.slot == pkt.slot && a.line == (bodyLine pkt.body) && a.reply.isNone
    && decide (a.seq < pkt.seq) && decide (s.gtc ≤ a.until_))
  || pkt.prior.any fun q => decide (s.gtc + s.eps < q.2) && !s.accepted.any fun a => a.src == pkt.src && a.vl == pkt.vl && a.seq == q.1

/-- Packets that waited for an earlier one of their slot and line are served, n at most. -/
def State.handOver (s : State) : Nat → State
  | 0 => s
  | n + 1 =>
    match (s.accepted.filterMap (·.held)).find? fun p => !s.behind p with
    | none => s
    | some p =>
      (({ s with accepted := s.accepted.map fun a => if a.held = some p then { a with held := none } else a } : State).serve p true).handOver n

/-- An accepted packet is served, and those that waited for it. -/
def State.serveAll (s : State) (pkt : Packet) (old : Bool) : State := (s.serve pkt old).handOver s.accepted.length

/-! ## Ends of the device's own requests (R413, R415) -/

/-- How a request ended. -/
inductive ReqEnd where
  | data (d : Line) (lease : Nat)
  | stored (wct : Nat)
  | olds (vs : List (Nat × Nat)) (wct : Nat)
  | prot
  | poisoned
  /-- at its deadline -/
  | late
  /-- by closed memory (R390) -/
  | refused

/-- The fault of a read that ended without data. -/
def ReqEnd.fault : ReqEnd → Option (Nat × Nat)
  | .data .. => none
  | .stored .. => none
  | .olds .. => none
  | .prot => some (cPROT, 2)
  | .poisoned => some (cPOISON, 0)
  | _ => some (cTIMEOUT, 0)

/-- A line, or the fault, for an agent that reads records. -/
def State.fetchedLine (s : State) (r : Request) (ctx : Nat) (e : ReqEnd) : State :=
  let d := match e with
    | .data d _ => d
    | _ => 0
  { s with fetched := (s.fetched.filter fun f => !(f.pack == r.pack && f.ctx == ctx && f.line == r.line)) ++
      [{ pack := r.pack, ctx := ctx, line := r.line, data := d, fault := e.fault }] }

/-- A remote line enters the L1 of a core under its lease (R241), with a copy of its page's bits (R208); never one without a class
(R210). -/
def State.remoteFill (s : State) (t : Team) (line : Nat) (perm : Perm) (e : ReqEnd) : State :=
  match e with
  | .data d lease =>
    if lease = 0 || perm.leaseClass = 0 then s
    else s.l1Fill { core := t.core, ctx := t.ctx, line := line, data := d, perm := perm, leaseEnd := lease, remote := true }
  | _ => s

/-- Lanes of a load or an atomic end with zero and a deferred fault (R415). -/
def State.endZero (s : State) (p : PackId) (o : Op) (lanes : List (Nat × Nat)) (cause bits : Nat) : State :=
  let s := s.onOp p o.id fun q =>
    ({ q.without (lanes.map (·.1)) with got := q.got ++ lanes.map fun a => (a.1, 0) } : Op).noteFault cause 0 lanes
  s.onPack p fun k => k.setFstat bits

/-- The lanes of an operation that the line of a request serves. -/
def servedLanes (t : Team) (p : Pack) (o : Op) (line : Nat) : List (Nat × Nat) :=
  o.addrs.filter fun q => (laneLines t p o q).contains line

/-- A request of an operation of a pack ends; a private store through a window returns no WCT to it (R225). -/
def State.endOpRequest (s : State) (t : Team) (k : Pack) (o : Op) (r : Request) (e : ReqEnd) : State :=
  let p := k.id
  let lanes := servedLanes t k o r.line
  let store := memKind o.word == .store || (match o.word with
    | .atoms .. => true
    | _ => false)
  let s : State := match e with
    | .data d _ =>
      if isPrivateWord o.word then
        lanes.foldl (fun (s : State) (q : Nat × Nat) => ((pieces t k o q.1 q.2).filter fun c => c.2.1 / 128 == r.line).foldl (fun (s : State) c =>
          s.notePart t k o q.1 q.2 c.1 (lineNat d (c.2.1 % 128) c.2.2)) s) s
      else (s.landLoad p o lanes d).remoteFill t r.line r.perm e
    | .stored w =>
      if isPrivateWord o.word then
        (lanes.foldl (fun (s : State) (q : Nat × Nat) => ((pieces t k o q.1 q.2).filter fun c => c.2.1 / 128 == r.line).foldl (fun (s : State) c =>
          s.notePart t k o q.1 q.2 c.1 0) s) s).gridWrote p.grid w
      else s.landStore p o lanes w
    | .olds vs w => s.landAtom p o vs w
    | .prot => s.faultLanes p o cPROT 2 lanes
    | .poisoned => s.endZero p o lanes cPOISON 4
    | _ =>
      let rf := match e with
        | .refused => 16
        | _ => 0
      if store then
        (s.onOp p o.id fun q => { q.without (lanes.map (·.1)) with failed := true }).onPack p fun k => k.storeFailed.setFstat rf
      else s.endZero p o lanes cTIMEOUT (2 + rf)
  s.lineDone t k o lanes

/-- The bits of FSTAT for a read that ended so (R415, R416). -/
def ReqEnd.fstat : ReqEnd → Nat
  | .poisoned => 4
  | .late => 2
  | .refused => 18
  | _ => 0

/-- A request of a pack that no operation stands for: the store of a status word (R428). -/
def State.endStatusStore (s : State) (p : PackId) (e : ReqEnd) : State :=
  s.onPack p fun k => match e with
    | .stored w => k.returnWct w
    | .refused => k.storeFailed.setFstat 16
    | _ => k.storeFailed

/-- A request has ended: what it was for goes on. -/
def State.endRequest (s : State) (r : Request) (e : ReqEnd) : State :=
  let s := { s with requests := s.requests.filter fun q => q.seq != r.seq }
  let ctx := match r.pkt.body with
    | .load c .. => c
    | .store c .. => c
    | .atomic c .. => c
    | _ => 0
  if r.pack.role = 4 then (s.fetchedLine r ctx e).liftGo r.pack.teamId r.pack.pir
  else if r.pack.role = 5 && r.pack.pir == 2 then
    match s.grid? r.pack.grid with
    | none => s
    | some k => ((s.fetchedLine r ctx e).fillPreload k).kick
  else if r.pack.role = 5 then
    match e with
    | .data .. => (s.fetchedLine r ctx e).push [if r.pack.pir = 0 then .launchRecordRead r.pack.team else .waitConditionRead r.pack.team]
    | _ => s
  else if r.pack.role = 6 then
    match s.team? r.pack.teamId with
    | none => s
    | some m =>
      match e with
      | .olds _ w => s.incremented m.id w
      | _ => s.exitDropped m (e.fault.getD (0, 0)).1 (e.fault.getD (0, 0)).2
  else if r.pack.role = 8 then s.fetchedLine r ctx e
  else if r.pack.role = 9 then
    if r.pack.pir = 0 then s
    else (s.onCtx r.pack.team fun c => { c with frz := c.frz.map fun f => match e with
      | .stored w => { f with wct := max f.wct w }
      | _ => { f with failed := true } }).push [.fullingComplete r.pack.team, .frzCompletion r.pack.team]
  else if r.pack.role = 10 then (s.fetchedLine r ctx e).push [.resume r.pack.team]
  else
    match s.pack? r.pack with
    | none => s
    | some k =>
      let t := s.teamOf k
      if r.op = 0 then s.remoteFill t r.line r.perm e
      else if r.op = 1 then ((s.fetchedLine r ctx e).onPack r.pack fun k => k.setFstat e.fstat).push k.reread
      else if r.op = 2 then s.endStatusStore r.pack e
      else match k.op? r.op with
        | none => s
        | some o => s.endOpRequest t k o r e

/-- The end that a response brings. -/
def respEnd (b : PacketBody) : Option ReqEnd :=
  match b with
  | .loadDone bs lease => some (.data (BitVec.ofNat 1024 (ofBytes bs)) lease)
  | .storeDone w => some (.stored w)
  | .atomicDone vs w => some (.olds vs w)
  | .error prot refused _ => some (if prot then .prot else if refused then .refused else .poisoned)
  | _ => none

/-- PACKET_ACCEPT: a request is accepted once, a duplicate answered with the same response; packets of one source slot for one line are
served in the order of their numbers, others as they arrive; a response ends its request, unless it comes after the deadline (R410,
R415). A decision of the agreement units stands in `collDecide`. -/
def State.acceptPacket (s : State) (pkt : Packet) : State :=
  match respEnd pkt.body with
  | some e =>
    (match s.requests.find? fun r => r.seq == pkt.seq && r.pkt.dst == pkt.src with
      | none => s
      | some r => if r.deadline < s.gtc then s else s.endRequest r e)
  | none =>
    let s := { s with accepted := s.accepted.filter fun a => decide (s.gtc ≤ a.until_) }
    match s.accepted.find? fun a => a.src == pkt.src && a.vl == pkt.vl && a.seq == pkt.seq with
    | some a => (match a.reply with
      | some r => s.inject r
      | none => s)
    | none =>
      let wait := s.behind pkt && !s.closedFor pkt.body
      let a : Accepted :=
        { src := pkt.src, vl := pkt.vl, seq := pkt.seq, until_ := pkt.deadline, reply := none, slot := pkt.slot, line := (bodyLine pkt.body),
          held := if wait then some pkt else none }
      let s := { s with accepted := s.accepted ++ [a] }
      if wait then s else s.serveAll pkt false

/-- An outstanding request, or a packet that some destination has yet to acknowledge, is sent again, with its number and its deadline,
once T_fab ÷ 8 has passed without an answer, and not after its deadline (R410). -/
def State.retransmit (s : State) (seq : Nat) : State :=
  match s.requests.find? fun r => r.seq == seq with
  | some r =>
    let s := s.waitUntil (r.sent + s.tfabTicks / 8)
    if r.deadline ≤ s.gtc then s
    else
      ({ s with requests := s.requests.map fun q => if q.seq = seq then { q with sent := s.gtc } else q } : State).inject
        { r.pkt with select := s.routing.select }
  | none => match s.unacked.find? fun u => u.pkt.seq == seq with
    | none => s
    | some u =>
      let s := s.waitUntil (u.sent + s.tfabTicks / 8)
      if u.pkt.deadline ≤ s.gtc then s
      else
        u.due.foldl (fun s d => s.inject { u.pkt with dst := d, select := s.routing.select })
          { s with unacked := s.unacked.map fun q => if q.pkt.seq = seq then { q with sent := s.gtc } else q }

/-- PACKET_RETRANSMIT. -/
def execPacketRetransmit (seq : Nat) (s : State) : Result := .next (s.retransmit seq)

/-- A request ends at its deadline (R415). -/
def State.expire (s : State) (r : Request) : State := (s.waitUntil r.deadline).endRequest r .late

/-- REQUEST_DEADLINE. -/
def execRequestDeadline (seq : Nat) (s : State) : Result :=
  .next (match s.requests.find? fun r => r.seq == seq with
    | none => s
    | some r => s.expire r)

/-! ## Links and routing (R407-R411, R417) -/

/-- Link n, changed by f: one of the 24 (R16). -/
def State.onLink (s : State) (n : Nat) (f : Link → Link) : State :=
  if n < 24 then { s with links := Tab.set {} s.links n (f (s.link n)) } else s

/-- FLIT_CRC_RETRY: a flit is sent again, and counter 15 counts it (R408). -/
def execFlitCrcRetry (link : Nat) (s : State) : Result :=
  .next (if link < 24 then (s.onLink link fun l => { l with resent := l.resent + 1 }).bump 15 else s)
/-- LINK_LANE_FAIL: 4 lanes become 2, 2 become 1, and with the last the link is down (R408). -/
def execLinkLaneFail (link : Nat) (s : State) : Result := .next (s.onLink link fun l => { l with lanes := l.lanes / 2 })
/-- VL_PAUSE: the receiver pauses or releases a virtual lane; what waited for it is injected (R409). -/
def execVlPause (link vl : Nat) (paused : Bool) (s : State) : Result :=
  .next (s.onLink link fun l =>
    { l with paused := if paused then insertBy (fun x => x) vl (l.paused.filter (· != vl)) else l.paused.filter (· != vl) }).flushOut

/-- ROUTE_TABLE_INSTALL: injections go on with the old select value (R411). -/
def execRouteTableInstall (table : Nat) (s : State) : Result :=
  .next { s with routing := { s.routing with incoming := some table, retired := s.routing.retired.filter (· != table) } }
/-- ROUTE_TABLE_SWITCHOVER: every switch has acknowledged the table (R411). -/
def execRouteTableSwitchover (table : Nat) (s : State) : Result :=
  .next (if s.routing.incoming = some table then
      { s with routing := { s.routing with select := table, incoming := none, old := some (s.routing.select, s.gtc) } }
    else s)
/-- ROUTE_TABLE_RETIRE: the old table is retired T_fab after the switch-over (R411). -/
def execRouteTableRetire (table : Nat) (s : State) : Result :=
  .next (match s.routing.old with
    | none => s
    | some o =>
      if o.1 ≠ table then s
      else
        let s := s.waitUntil (o.2 + s.tfabTicks)
        { s with routing := { s.routing with old := none, retired := s.routing.retired ++ [table] } })

/-- A branch of a multicast copy has its bit cleared; with none left the copy is freed (R417). -/
def State.clearBranch (s : State) (copy branch : Nat) : State :=
  { s with copies := s.copies.filterMap fun c =>
      if c.id ≠ copy then some c
      else
        let left := c.pending.filter (· != branch)
        if left.isEmpty then none else some { c with pending := left } }

/-- MULTICAST_BRANCH_SEND: a copy that its source has injected goes down a branch, whose bit is cleared (R409, R417). -/
def execMulticastBranchSend (copy branch : Nat) (s : State) : Result :=
  .next (match s.copies.find? fun c => c.id == copy with
    | none => s
    | some c =>
      if c.injected && c.pending.contains branch then (s.clearBranch copy branch).emit (.multicast c.pkt branch) else s)

/-- SWITCH_WRITEBACK: a switch writes a fabric-shared line back to its owner, closed or not (R390, R414); D is set and the
page logged (R399). -/
def execSwitchWriteback (ctx va : Nat) (data : List Byte) (s : State) : Result := .next (s.writeVirt ctx va data false).2

/-! ## Groups and collectives (R418-R426): records are numbers -/

/-- The status word (R422). -/
def statusWord (code reason seq lost : Nat) : Nat :=
  2 ^ 63 + lost % 2 ^ 18 * 2 ^ 32 + seq % 2 ^ 16 * 2 ^ 16 + reason % 256 * 2 ^ 8 + code % 256

/-- LOST where none is named. -/
def noRank : Nat := 0x3FFFF

/-- The identity under which the device writes words through windows. -/
def writeAgent (ctx : Nat) : PackId := { grid := 0, team := ctx, role := 9, pir := 0 }

/-- A 64-bit word is stored in a context for agent who: its WCT, 0 where it was not performed here. -/
def State.writeWordAs (s : State) (who : PackId) (op ctx va v : Nat) : Nat × State :=
  let bytes := (List.range 8).map fun i => (va % 128 + i, byteAt v i)
  match s.storeLine ctx (va / 128) bytes false none with
  | (.ok w, s) => (w, s)
  | (.error (.window x), s) =>
    (0, (s.setDirty x).sendRequest 0 0 who op (va / 128) x (.store ctx (x.ownerAddr (va / 128 * 128)) bytes))
  | (.error _, s) => (0, s)

/-- The device stores a 64-bit word in a context. -/
def State.writeWord64 (s : State) (ctx va v : Nat) : Nat × State := s.writeWordAs (writeAgent ctx) s.nextSeq ctx va v

/-- Elements that a member of n reads from its SRC. -/
def cdReads (d n : Nat) : Nat :=
  match cdOp d with
  | 0 => 0
  | 3 => n * cdCount d
  | _ => cdCount d
/-- Elements that it writes to its DST. -/
def cdWrites (d n : Nat) : Nat :=
  match cdOp d with
  | 0 => 0
  | 4 => n * cdCount d
  | _ => cdCount d

/-- A malformed descriptor for a group of n members (R420). -/
def cdBad (d n : Nat) : Bool :=
  let sz := cdSize d
  let a := cdReads d n * sz
  let b := cdWrites d n * sz
  bitsAt d 56 8 != 0x43 || decide (5 ≤ cdOp d) || decide (3 ≤ cdRed d) || decide (5 ≤ cdType d) || bitsAt d 320 192 != 0
    || bitsAt d 160 32 != 0 || bitsAt d 38 6 != 0 || bitsAt d 17 15 != 0
    || (cdOp d == 0 && (cdRed d != 0 || cdType d != 0 || cdCount d != 0 || cdSrc d != 0 || cdDst d != 0 || cdRoot d != 0))
    || (cdOp d != 1 && cdRoot d != 0) || (cdOp d == 1 && decide (n ≤ cdRoot d)) || ((cdOp d == 1 || cdOp d == 4) && cdRed d != 0)
    || (cdOp d != 0 && (cdCount d == 0 || cdSrc d % sz != 0 || cdDst d % sz != 0
      || decide (2 ^ 40 < a) || decide (2 ^ 40 < b)
      || (decide (cdSrc d < cdDst d + b) && decide (cdDst d < cdSrc d + a)
          && !(cdSrc d == cdDst d && (cdOp d == 1 || cdOp d == 2)))))

/-- The float format of a TYPE. -/
def cdFmt (ty : Nat) : Fmt := if ty = 1 then bf16 else if ty = 2 then fp16 else fp32

/-- The exact sum of floats, rounded once (R421). -/
def sumFloat (f : Fmt) (xs : List Nat) : Nat :=
  if xs.any f.isNaN || (xs.any (fun x => f.isInf x && f.sign x) && xs.any (fun x => f.isInf x && !f.sign x)) then f.cnan
  else match xs.find? f.isInf with
    | some x => x
    | none =>
      match xs with
      | [] => 0
      | y :: ys => (roundTo f rmRNE false (ys.foldl (fun a x => addNum rmRNE a (f.num x)) (f.num y))).1

/-- The reduction of one element over the ranks (R421). -/
def reduceElem (ty red : Nat) (xs : List Nat) : Nat :=
  match xs with
  | [] => 0
  | y :: ys =>
    if ty < 3 then
      if red = 0 then sumFloat (cdFmt ty) xs
      else ys.foldl (fun a x => (fpMinMax (cdFmt ty) false (red == 2) a x).1) y
    else
      let below := fun a b => if ty = 3 then decide (signed a 32 < signed b 32) else decide (a < b)
      if red = 0 then (xs.foldl (· + ·) 0) % 2 ^ 32
      else ys.foldl (fun a x => if red = 1 then (if below x a then x else a) else (if below a x then x else a)) y

/-- What the reports that one unit has recorded decide for n members (R424): the lowest rank that failed, or completion by all. -/
def verdictOf (reports : List (Nat × Nat)) (n : Nat) : Option (Nat × Nat × Nat) :=
  match sortBy (·.1) (reports.filter fun r => r.2 != 0) with
  | r :: _ => some (1, r.2, r.1)
  | [] => if (nubNat (reports.map (·.1))).length = n && n ≠ 0 then some (0, 0, noRank) else none

/-- Unit rep.unit of an agreement of n members records a report: a form that is not that of the first it heard is a failure, reason 4
(R422, R430); a failure counts after a completion of the same member too. The first unit to decide rules; the decision is delivered
once both have recorded it, or the surviving one has: alone (R424). -/
def Agreement.record (a : Agreement) (alone : Bool) (n rank : Nat) (rep : UnitReport) : Agreement :=
  let u := rep.unit
  let heard := (a.forms.find? fun f => f.1 == u).map (·.2)
  let rsn := if rep.form ≠ [] && heard.any (· != rep.form) then 4 else rep.rsn
  let a := if rep.form = [] || heard.isSome then a else { a with forms := a.forms ++ [(u, rep.form)] }
  if rsn = 256 || a.verdict.isSome || a.reports.any (fun r => r.1 == u && r.2.1 == rank && (r.2.2 != 0 || rsn == 0)) then a
  else
    let a := { a with reports := a.reports ++ [(u, rank, rsn)] }
    match verdictOf ((a.reports.filter fun r => r.1 == u).map (·.2)) n with
    | none => a
    | some v => match a.ruled with
      | none => { a with ruled := some (u, v), verdict := if alone then some v else none }
      | some w => { a with verdict := if alone || w.1 != u then some w.2 else none }

/-- Unit u is out of reach: what the other one has decided is delivered, and a decision that u alone had made is not (R424). -/
def Agreement.unitLost (a : Agreement) (u : Nat) : Agreement :=
  match a.ruled with
  | none => a
  | some w => if w.1 = u then { a with ruled := none } else { a with verdict := a.verdict.orElse fun _ => some w.2 }

/-- A decision is delivered, unless one has been. -/
def Agreement.decide (a : Agreement) (v : Nat × Nat × Nat) : Agreement := { a with verdict := a.verdict.orElse fun _ => some v }

/-- The address of unit u of a group. -/
def Group.unit (k : Group) (u : Nat) : Nat := if u = 0 then k.units.1 else k.units.2

/-- One of the two units of a group is out of reach (R424). -/
def State.oneUnit (s : State) (k : Group) : Bool := s.cutOff.contains k.units.1 || s.cutOff.contains k.units.2
/-- Both are (R425). -/
def State.noUnit (s : State) (k : Group) : Bool := s.cutOff.contains k.units.1 && s.cutOff.contains k.units.2

/-- Collective seq of a group, or the group's formation, is yet to be accepted here. -/
def Group.ahead (k : Group) (seq : Nat) : Bool :=
  if k.state = 2 then
    let n := (seq + 2 ^ 16 - k.count % 2 ^ 16) % 2 ^ 16
    decide (1 ≤ n) && decide (n < 2 ^ 15)
  else k.state = 0 || k.reading || seq % 2 ^ 16 != 0

/-- A report of a member of a group enters an agreement at a unit that can be reached (R424, R425). -/
def State.recordAt (s : State) (k : Group) (a : Agreement) (rank : Nat) (rep : UnitReport) : Agreement :=
  if k.members.length ≤ rank || s.cutOff.contains (k.unit rep.unit) then a else a.record (s.oneUnit k) k.members.length rank rep

/-- A unit records a member's report: completion (0) or a failure of a collective, or, for a forming group, its GRPF; 256: acceptance,
whose first arrival starts TCOLL (R424). A decision once made stands. What concerns a collective not yet accepted here is kept. -/
def State.unitRecord (s : State) (ctx g seq rank : Nat) (rep : UnitReport) : State :=
  let k := s.group ctx g
  let j := seq % 2 ^ 16
  if k.ahead seq then
    s.onGroup ctx g fun k =>
      { k with early := k.early ++ [(j, rank, rep)]
               accepts := if rep.rsn ≠ 256 || k.accepts.any (fun a => a.1 == j) then k.accepts else k.accepts ++ [(j, s.gtc)] }
  else if k.state = 1 then s.onGroup ctx g fun k => { k with agree := s.recordAt k k.agree rank rep }
  else s.onColl ctx g seq fun c => { c with agree := s.recordAt k c.agree rank rep }

/-- What the members of a group have to agree on: of its record while it forms, N, EPOCH, TCOLL and the list (R430); of the descriptor of
collective seq, OP, RED, TYPE, COUNT and ROOT (R422, log 52). -/
def State.formOf (s : State) (ctx g seq : Nat) : List Nat :=
  let k := s.group ctx g
  if k.state = 1 then [k.members.length, k.epoch.toNat, k.tcoll] ++ k.members
  else match s.coll? ctx g seq with
    | none => []
    | some c =>
      let d := c.desc.toNat
      [cdOp d, cdRed d, cdType d, cdCount d, cdRoot d]

/-- The device reports to those units of a group that it reaches (R424, R425). -/
def State.sendReport (s : State) (ctx g seq rank rsn : Nat) (form : List Nat) : State :=
  let k := s.group ctx g
  [k.units.1, k.units.2].foldl (fun s u =>
    if s.cutOff.contains u then s else s.engineSend u 3 (.report ctx g seq rank rsn form)) s

/-- A report that both units record, of what they have to compare too where it is the device's own; the device's own part of a collective
has ended with it, and the engine goes on with the next. A switch makes one of a member that it has lost (R417, R424). -/
def State.collReport (s : State) (ctx g seq rank rsn : Nat) : State :=
  let own := s.ownRank ctx g == some rank
  let form := if own then s.formOf ctx g seq else []
  let s := if own && rsn ≠ 256 then s.onColl ctx g seq fun c => { c with ended := true } else s
  let s := s.sendReport ctx g seq rank rsn form
  ([0, 1].foldl (fun s u => s.unitRecord ctx g seq rank { unit := u, rsn := rsn, form := form }) s).collGo ctx g

/-- A decision of the agreement units, or of the fallback, for what has none yet. -/
def State.collDecide (s : State) (ctx g seq : Nat) (v : Nat × Nat × Nat) : State :=
  if (s.group ctx g).state = 1 then s.onGroup ctx g fun k => { k with agree := k.agree.decide v }
  else s.onColl ctx g seq fun c => { c with agree := c.agree.decide v }

/-- PACKET_ACCEPT, of an acknowledgement and of a decision too, which a formation takes only as its own (R410, R415, R424). -/
def execPacketAccept (pkt : Packet) (s : State) : Result :=
  .next (match pkt.body with
    | .ack => s.acked pkt.src pkt.seq
    | .decision ctx g seq w =>
      (if (s.group ctx g).state = 1 && seq % 2 ^ 16 != 0 then s
       else s.collDecide ctx g seq (bitsOf w 7 0, bitsOf w 15 8, bitsOf w 49 32)).reply pkt .ack
    | _ => s.acceptPacket pkt)

/-- Tier-2 switch u, by its address, is out of reach: its agreements go on with the other unit, or with none (R424, R425). -/
def State.unitDown (s : State) (u : Nat) : State :=
  let s : State := { s with cutOff := u :: s.cutOff.filter (· != u) }
  s.onAllGroups fun k =>
    if k.units.1 ≠ u && k.units.2 ≠ u then k
    else
      let lost := fun (a : Agreement) => a.unitLost (if k.units.1 = u then 0 else 1)
      if s.noUnit k then { k with lone := k.lone.orElse fun _ => some s.gtc }
      else { k with agree := lost k.agree, colls := k.colls.map fun c => { c with agree := lost c.agree } }

/-- LINK_DOWN (R408): of the device's 24 links, number below 24; of branch b of the switches, 2^17 + b: its copies are not sent, and
the members behind it are reported lost (R417); of a tier-2 switch, 2^18 and its address: an agreement unit out of reach (R424;
log 33). -/
def execLinkDown (link : Nat) (s : State) : Result :=
  .next (if link < 2 ^ 17 then s.onLink link fun l => { l with lanes := 0 }
    else if 2 ^ 18 ≤ link then s.unitDown (link - 2 ^ 18)
    else (s.copies.filter fun c => c.pending.contains (link - 2 ^ 17)).foldl (fun s c =>
      let ms := (s.group c.ctx c.group).members
      ((List.range ms.length).filter fun q => Config.branchOf ((ms[q]?).getD 0) == link - 2 ^ 17).foldl
        (fun s q => s.collReport c.ctx c.group c.seq q 1) (s.clearBranch c.id (link - 2 ^ 17))) s)

/-- The lines of this device's own pages from va on (R422: a page with PW = 1 fails), or the access that failed with its address. -/
def State.ownLines (s : State) (ctx va : Nat) : List Nat → (Except (Access × Nat) (List Line)) × State
  | [] => (.ok [], s)
  | l :: ls =>
    match s.channelLoad ctx l with
    | (.data d, s) => (match s.ownLines ctx va ls with
      | (.ok ds, s) => (.ok (d :: ds), s)
      | r => r)
    | (a, s) => (.error (a, max va (128 * l)), s)

/-- n elements of size sz at va. -/
def State.ownElems (s : State) (ctx va n sz : Nat) : (Except (Access × Nat) (List Nat)) × State :=
  if 2 ^ 45 < va + n * sz then (.error (.fault cPROT 1, va), s)
  else
    match s.ownLines ctx va ((List.range ((va % 128 + n * sz + 127) / 128)).map (va / 128 + ·)) with
    | (.ok ds, s) =>
      let x := joinLines ds va (n * sz)
      (.ok ((List.range n).map fun i => bitsAt x (8 * sz * i) (8 * sz)), s)
    | (.error a, s) => (.error a, s)

/-- Bytes written at va of this device's own pages, line by line: the access that failed with its address, if one did, and the
largest WCT of the lines written, w to begin with. -/
def State.ownWrite (s : State) (ctx va : Nat) (bs : List Byte) : List Nat → Nat → Option (Access × Nat) × Nat × State
  | [], w => (none, w, s)
  | i :: is, w =>
    let lo := if i = 0 then va % 128 else 0
    let hi := min 128 (va % 128 + bs.length - 128 * i)
    let part := (List.range (hi - lo)).map fun k => (lo + k, (bs[128 * i + lo + k - va % 128]?).getD 0)
    match s.storeLine ctx (va / 128 + i) part false none with
    | (.ok v, s) => s.ownWrite ctx va bs is (max w v)
    | (.error a, s) => (some (a, max va (128 * (va / 128 + i))), w, s)

/-- An access of the engine failed at va: a page fault is reported and waited for, anything else ends the member's part (R422, R423). -/
def State.collFault (s : State) (ctx g seq acc : Nat) (a : Access × Nat) : State :=
  match a.1 with
  | .pageFault =>
    if s.open_.any fun o => o.2 == .coll ctx g seq then s
    else s.postFault { seq := 0, kind := 1, ctx := ctx, addr := a.2, acc := acc } (.coll ctx g seq)
  | _ => s.collReport ctx g seq ((s.ownRank ctx g).getD 0) 3

/-- The elements that rank r writes, from what every rank contributes (R420). -/
def collResult (d n r : Nat) (all : List (List Nat)) : List Nat :=
  let at_ := fun q k => (((all[q]?).getD [])[k]?).getD 0
  let ranks := List.range n
  match cdOp d with
  | 1 => (all[cdRoot d]?).getD []
  | 2 => (List.range (cdCount d)).map fun k => reduceElem (cdType d) (cdRed d) (ranks.map fun q => at_ q k)
  | 3 => (List.range (cdCount d)).map fun k => reduceElem (cdType d) (cdRed d) (ranks.map fun q => at_ q (r * cdCount d + k))
  | 4 => (ranks.map fun q => (all[q]?).getD []).flatten
  | _ => []

/-- The rank contributes to the collective. -/
def contributes (d r : Nat) : Bool := cdOp d != 0 && (cdOp d != 1 || r == cdRoot d)

/-- The data of every other contributing rank has arrived. -/
def arrived (d n r : Nat) (all : List (List Nat)) : Bool :=
  (List.range n).all fun q => q == r || !contributes d q || ((all[q]?).map (·.length)) == some (cdReads d n)

/-- The engine has written the member's DST, and reports completion; what it has written is waited for, whatever it met (R426). -/
def State.collFinish (s : State) (ctx g seq r : Nat) (d n : Nat) (all : List (List Nat)) : State :=
  let bs := ((collResult d n r all).map fun x => toBytes x (cdSize d)).flatten
  let lines := List.range (if bs.isEmpty then 0 else (cdDst d % 128 + bs.length + 127) / 128)
  if 2 ^ 45 < cdDst d + bs.length then s.collReport ctx g seq r 3
  else
    let w := s.ownWrite ctx (cdDst d) bs lines 0
    let s := w.2.2.onColl ctx g seq fun c => { c with wct := max c.wct w.2.1 }
    match w.1 with
    | none => s.collReport ctx g seq r 0
    | some a => s.collFault ctx g seq 5 a

/-! What a rank contributes goes to the others in packets of 256 bytes at most (R407, R423): by multicast where all receive the same
(R417), to each rank its own part otherwise. -/

/-- The bytes of a contribution that rank q receives: their offset and number. -/
def pushSpan (d q : Nat) : Nat × Nat :=
  let n := cdCount d * cdSize d
  (if cdOp d = 3 then q * n else 0, n)

/-- The pieces of a payload, with their offsets. -/
def pieces256 (bs : List Byte) : List (Nat × List Byte) :=
  (List.range ((bs.length + 255) / 256)).map fun i => (256 * i, (bs.drop (256 * i)).take 256)

/-- A multicast packet, which a switch holds, once it is injected, until it has gone down every branch (R409, R417). -/
def State.multicastOut (s : State) (ctx g seq : Nat) (body : PacketBody) : State :=
  let pkt : Packet := { src := s.device, dst := s.device, vl := 2, select := s.routing.select, slot := 0, seq := s.nextSeq,
                        deadline := s.gtc + s.tfabTicks, body := body }
  let others := (s.group ctx g).members.filter (· != s.device)
  if others.isEmpty then s
  else { s with
    serial := s.serial + 1, nextSeq := s.nextSeq + 1
    unacked := s.unacked ++ [{ pkt := pkt, due := others, sent := s.gtc }]
    copies := s.copies ++ [{ id := s.serial, pkt := pkt, ctx := ctx, group := g, seq := seq, pending := nubNat (others.map Config.branchOf),
                             injected := s.canInject pkt }] }

/-- Rank r pushes its data xs, once (R423). -/
def State.pushData (s : State) (ctx g seq d r : Nat) (xs : List Nat) : State :=
  if (s.coll? ctx g seq).any (·.pushed) then s
  else
    let bs := (xs.map fun x => toBytes x (cdSize d)).flatten
    let s := s.onColl ctx g seq fun c => { c with pushed := true }
    if cdOp d = 1 || cdOp d = 4 then
      (pieces256 bs).foldl (fun s p => s.multicastOut ctx g seq (.data ctx g seq r p.1 p.2)) s
    else
      let ms := (s.group ctx g).members
      (List.range ms.length).foldl (fun s q =>
        if q = r then s
        else
          let sp := pushSpan d q
          (pieces256 ((bs.drop sp.1).take sp.2)).foldl (fun s p =>
            s.engineSend ((ms[q]?).getD 0) 2 (.data ctx g seq r (sp.1 + p.1) p.2)) s) s

/-- What rank q has pushed to this rank r, once all of it has arrived: bytes that are not this rank's are 0. -/
def pushed (inbox : List (Nat × Nat × Nat × List Byte)) (seq d n q r : Nat) : List Nat :=
  let ps := (inbox.filter fun e => e.1 == seq % 2 ^ 16 && e.2.1 == q).map (·.2.2)
  let at_ := fun k => (ps.find? fun p => decide (p.1 ≤ k) && decide (k < p.1 + p.2.length)).bind fun p => p.2[k - p.1]?
  let sp := pushSpan d r
  if (List.range sp.2).all fun k => (at_ (sp.1 + k)).isSome then
    (List.range (cdReads d n)).map fun i => ofBytes ((List.range (cdSize d)).map fun b => (at_ (cdSize d * i + b)).getD 0)
  else []

/-- The engine runs collective seq of a group, whose operation is op, with what the other ranks have pushed: in packets, or as the
event gives it (log 49). Collectives of a group run in SEQ order (R423). -/
def State.runColl (s : State) (ctx g seq op : Nat) (contrib : List (List Nat)) : State :=
  let k := s.group ctx g
  let n := k.members.length
  match s.coll? ctx g seq, s.ownRank ctx g with
  | some c, some r =>
    let d := c.desc.toNat
    if k.state ≠ 2 || cdOp d ≠ op || k.inHand.map (·.seq) ≠ some c.seq then s
    else
      let all := (List.range n).map fun q => match contrib[q]? with
        | some (x :: xs) => x :: xs
        | _ => if contributes d q then pushed k.inbox seq d n q r else []
      if contributes d r then
        match s.ownElems ctx (cdSrc d) (cdReads d n) (cdSize d) with
        | (.ok xs, s) =>
          let s := s.pushData ctx g seq d r xs
          if arrived d n r all then s.collFinish ctx g seq r d n (all.set r xs) else s
        | (.error a, s) => s.collFault ctx g seq 4 a
      else if arrived d n r all then s.collFinish ctx g seq r d n all
      else s
  | _, _ => s

/-- COLL_BARRIER. -/
def execCollBarrier (ctx g seq : Nat) (s : State) : Result := .next (s.runColl ctx g seq 0 [])
/-- COLL_BROADCAST. -/
def execCollBroadcast (ctx g seq : Nat) (contrib : List (List Nat)) (s : State) : Result := .next (s.runColl ctx g seq 1 contrib)
/-- COLL_ALLREDUCE. -/
def execCollAllreduce (ctx g seq : Nat) (contrib : List (List Nat)) (s : State) : Result := .next (s.runColl ctx g seq 2 contrib)
/-- COLL_REDUCE_SCATTER. -/
def execCollReduceScatter (ctx g seq : Nat) (contrib : List (List Nat)) (s : State) : Result := .next (s.runColl ctx g seq 3 contrib)
/-- COLL_ALLGATHER. -/
def execCollAllgather (ctx g seq : Nat) (contrib : List (List Nat)) (s : State) : Result := .next (s.runColl ctx g seq 4 contrib)

/-- AGREEMENT_REPORT: an agreement unit records a member's report (R424). -/
def execAgreementReport (ctx g seq rank : Nat) (rep : UnitReport) (s : State) : Result := .next (s.unitRecord ctx g seq rank rep)

/-- When the TCOLL of a formation, or of a collective, began. -/
def State.startedAt (s : State) (ctx g seq : Nat) : Option Nat :=
  let k := s.group ctx g
  if k.state = 1 then some k.start else (s.coll? ctx g seq).map (·.start)

/-- COLL_DEADLINE: TCOLL has passed: TIMEOUT, unless a decision stands (R424), or no unit can deliver one (R425). -/
def execCollDeadline (ctx g seq : Nat) (s : State) : Result :=
  let k := s.group ctx g
  .next (match s.startedAt ctx g seq with
    | none => s
    | some t => if k.lone.isSome then s else (s.waitUntil (t + 1000 * k.tcoll)).collDecide ctx g seq (2, 0, noRank))

/-- When a member that has reached no unit since t asks its peers: T_fab later, of a collective begun after that T_fab after its
beginning (R425, log 71). -/
def State.askAt (s : State) (t start : Nat) : Nat := max t start + s.tfabTicks

/-- No decision has been heard from any of n peers (R425). -/
def State.unheard (s : State) (ctx g seq n : Nat) : State :=
  s.collDecide ctx g seq (if n = 0 then (1, 1, (s.ownRank ctx g).getD 0) else (2, 0, noRank))

/-- AGREEMENT_FALLBACK: the member reaches neither unit: after T_fab it adopts a decision heard from a peer; with none, it is
TIMEOUT, or ABORTED with its own rank lost when it reaches no peer (R425). -/
def execAgreementFallback (ctx g seq peers : Nat) (heard : Option DWord) (s : State) : Result :=
  let s := s.waitUntil (s.askAt ((s.group ctx g).lone.getD s.gtc) ((s.startedAt ctx g seq).getD 0))
  .next (match heard with
    | some w => s.collDecide ctx g seq (bitsOf w 7 0, bitsOf w 15 8, bitsOf w 49 32)
    | none => s.unheard ctx g seq peers)

/-- The other members of a group that a packet can reach: over Ethernet, or over a link that is up (R406, R408). -/
def State.peersOf (s : State) (k : Group) : List Nat :=
  k.members.filter fun m => m != s.device
    && (domainOf m != domainOf s.device || (List.range 24).any fun n => decide (0 < (s.link n).lanes))

/-- A collective begun at a tick, or a formation, of a group that has reached no unit since t: the peers are asked, key being its number
in the question, and nothing heard by T_fab after that, and after TCOLL, is TIMEOUT (R425, log 71). -/
def State.fallBack (s : State) (ctx g seq key t start : Nat) (asked : Bool) (mark : State → State) : State :=
  let k := s.group ctx g
  let peers := s.peersOf k
  if s.gtc < s.askAt t start then s
  else if peers.isEmpty then s.unheard ctx g seq 0
  else if !asked then peers.foldl (fun s p => s.engineSend p 3 (.ask ctx g key)) (mark s)
  else if s.gtc < max (s.askAt t start) (start + 1000 * k.tcoll) + s.tfabTicks then s
  else s.unheard ctx g seq peers.length

/-- A pack's collective or GRPF ended with a status other than OK (R416). -/
def State.noteStatus (s : State) (p : PackId) (code : Nat) : State :=
  if code = 0 then s else s.onPack p fun k => k.setFstat 32

/-- The device writes the final status word of a decided collective, whose writes have reached their WCTs (R422, R426). -/
def State.writeStatus (s : State) (ctx g : Nat) (c : Coll) : State :=
  match c.agree.verdict with
  | none => s
  | some v =>
    let word := statusWord v.1 v.2.1 c.seq v.2.2
    let s := (s.waitUntil c.wct).onGroup ctx g fun k => { k with colls := k.colls.filter (fun q => q.seq != c.seq), inbox := k.inbox.filter fun e => e.1 != c.seq }
    (((s.noteDecided ctx g c.seq word).writeWord64 ctx (c.addr + 8) word).2.noteStatus c.issuer v.1).collGo ctx g

/-- The device writes the final status word of a decided formation; the slot becomes formed, or empty (R430). -/
def State.writeFormation (s : State) (ctx g : Nat) : State :=
  let k := s.group ctx g
  match k.agree.verdict with
  | none => s
  | some v =>
    let word := statusWord v.1 v.2.1 0 v.2.2
    let s := s.onGroup ctx g fun k =>
      if v.1 = 0 then { k with state := 2, agree := {}, decided := [] } else k.emptied
    ((s.noteDecided ctx g (2 ^ 16) word).writeWord64 ctx (k.addr + 8) word).2.noteStatus k.issuer v.1

/-- Every status word that is due in a group is written. -/
def State.writeDue (s : State) (ctx g : Nat) : State :=
  if (s.group ctx g).state = 1 then s.writeFormation ctx g
  else (s.group ctx g).colls.foldl (fun s c => s.writeStatus ctx g c) s

/-- COLL_STATUS_WRITE (R426). -/
def execCollStatusWrite (ctx g seq : Nat) (s : State) : Result :=
  .next (if (s.group ctx g).state = 1 then s.writeFormation ctx g
    else match s.coll? ctx g seq with
      | none => s
      | some c => s.writeStatus ctx g c)

/-- What has not ended in a group ends: the member's own rank is reported to have failed for a reason, and that is the decision unless
another stands (R391, R424, R430). A formation whose member words are being read has no ranks yet. -/
def State.abortGroup (s : State) (ctx g rsn : Nat) : State :=
  let k := s.group ctx g
  let end_ := fun (s : State) seq => match s.ownRank ctx g with
    | none => s.collDecide ctx g seq (1, rsn, noRank)
    | some r => (s.collReport ctx g seq r rsn).collDecide ctx g seq (1, rsn, r)
  (if k.state = 1 then end_ s 0 else k.colls.foldl (fun s c => end_ s c.seq) s).writeDue ctx g

/-- The members of a context's unended collectives are withdrawn, which the agreement units hear (R391). -/
def State.withdraw (s : State) (ctx : Nat) : State :=
  ((s.ctx ctx).groups.map (·.1)).foldl (fun s g => s.abortGroup ctx g 2) s

/-- A context has collectives or formations that have not ended. -/
def State.collsOpen (s : State) (ctx : Nat) : Bool :=
  (s.ctx ctx).groups.any fun e => e.2.state == 1 || !e.2.colls.isEmpty

/-- COLLECTIVE_WITHDRAW: T_fab has passed since fulling began (R391). -/
def execCollectiveWithdraw (ctx : Nat) (s : State) : Result :=
  .next (match (s.ctx ctx).frz with
    | none => s
    | some f =>
      if f.isResume || f.phase ≠ 2 then s
      else ((s.waitUntil (f.since + s.tfabTicks)).withdraw ctx).push [.fullingComplete ctx])

/-! ## The words of major 0x38 -/

/-- A refusal (R428, R430): the status word is stored and its WCT enters LWCT, when it returns where it goes through a window; s[d] :=
2^63 + r. -/
def State.refuse (t : State) (u : State) (va reason d r : Nat) : State :=
  let w := t.writeWordAs u.pk.id 2 u.tm.ctx (va + 8) (statusWord 3 reason 0 noRank)
  { w.2 with pk := ((w.2.pk.returnWct w.1).setFstat 32).setS d (dw (2 ^ 63 + r)) }

/-- What has been recorded of a collective, or of the formation, before it was accepted here (R424). -/
def State.earlyAgreement (s : State) (k : Group) (seq : Nat) : Agreement :=
  (k.early.filter fun e => e.1 == seq).foldl (fun a e => s.recordAt k a e.2.1 e.2.2) {}

/-- When the first report of acceptance of a collective arrived: of another member, or now (R424). -/
def Group.startOf (k : Group) (seq now : Nat) : Nat := ((k.accepts.find? fun a => a.1 == seq).map (·.2)).getD now

/-- COLL (R428). A slot that is not formed has no N: the defects counted are those that hold whatever N is. -/
def execColl (e : Bool) (d a : BitVec 6) (s : State) : Result :=
  .next (issueWord (.coll e d a) s fun u t =>
    if releaseWaits 4 u then .stall
    else
      let va := (u.pk.s a.toNat).toNat
      readAs u t va 64 64 fun t x =>
        let ctx := u.tm.ctx
        let g := cdGroup x
        let k := t.group ctx g
        if cdBad x (if k.state = 2 then k.members.length else cdRoot x + 1) then .done (t.refuse u va 1 d.toNat 1)
        else if k.state ≠ 2 then .done (t.refuse u va 2 d.toNat 2)
        else if 16 ≤ k.colls.length then .stall
        else
          let seq := (k.count + 1) % 2 ^ 16
          let t := t.onGroup ctx g fun k =>
            { k with count := k.count + 1,
                     colls := k.colls ++ [{ seq := seq, desc := BitVec.ofNat 512 x, addr := va, issuer := u.pk.id, start := k.startOf seq t.gtc
                                            agree := t.earlyAgreement k seq }]
                     accepts := k.accepts.filter (fun a => a.1 != seq), early := k.early.filter fun e => e.1 != seq }
          let t := (t.writeWord64 ctx (va + 8) 0).2.collReport ctx g seq ((t.ownRank ctx g).getD 0) 256
          .done { t with pk := t.pk.setS d.toNat (dw seq) })

/-- CWAIT (R429). -/
def execCwait (e : Bool) (d a : BitVec 6) (s : State) : Result :=
  waitWord (.cwait e d a) s (fun p => (p.s a.toNat).toNat + 8) (fun p => .status ((p.s a.toNat).toNat + 8) d.toNat)
    fun _ v => if v.testBit 63 then some fun k => (if v % 256 = 0 then k else k.setFstat 32).setS d.toNat (dw v) else none

/-- CWAIT_REREAD (R429). -/
def execCwaitReread (p : PackId) (s : State) : Result :=
  .next (match s.pack? p with
    | none => s
    | some k =>
      match k.status, k.wait with
      | .waiting, .status va d => s.rereadWord k va fun v =>
        if v.testBit 63 then some fun k => (if v % 256 = 0 then k else k.setFstat 32).setS d (dw v) else none
      | _, _ => s)

/-- A malformed group record header (R419). -/
def grpBad (x : Nat) : Bool :=
  bitsAt x 56 8 != 0x47 || bitsAt x 256 256 != 0 || bitsAt x 160 32 != 0 || bitsAt x 38 18 != 0 || bitsAt x 18 14 != 0
    || bitsAt x 0 18 == 0 || decide (131072 < bitsAt x 0 18) || bitsAt x 128 32 == 0 || decide (1000000 < bitsAt x 128 32)

/-- A slot is dissolved: what has not ended in it ends with ABORTED, reason 5, as its members agree: LOST is the lowest rank that has
dissolved it (R424, R430). -/
def State.dissolve (s : State) (ctx g : Nat) : State := (s.abortGroup ctx g 5).onGroup ctx g Group.emptied

/-- The member words of an accepted record: the group forms, or the formation is refused and the slot is empty (R419, R424, R430). A
record that its member words show to be malformed is refused in s[d] too. DEDUCED, log 52. -/
def State.formGroup (t : State) (u : State) (va x d : Nat) (words : Option (List Nat)) : State :=
  let ctx := u.tm.ctx
  let g := bitsAt x 32 6
  let end_ := fun (t : State) reason =>
    (((t.onGroup ctx g Group.emptied).writeWord64 ctx (va + 8) (statusWord 3 reason 0 noRank)).2).noteStatus u.pk.id 3
  let refuse := fun (t : State) r => end_ { t with pk := t.pk.setS d (dw (2 ^ 63 + r)) } r
  match words with
  | none => end_ t 3
  | some ms =>
    if ms.any (fun m => decide (2 ^ 17 ≤ m)) || (nubNat ms).length ≠ ms.length then refuse t 1
    else if !ms.contains t.device then refuse t 2
    else
      let epoch := bitsAt x 192 64
      let at_ := fun e => switchAt (domainOf ((ms[0]?).getD 0)) (e % t.switches)
      let t := t.onGroup ctx g fun k =>
        let f : Group := { k with reading := false, members := ms, epoch := dw epoch, units := (at_ epoch, at_ (epoch + 1))
                                  tcoll := bitsAt x 128 32, start := k.startOf 0 t.gtc }
        { f with agree := t.earlyAgreement f 0, lone := if t.noUnit f then some t.gtc else none
                 accepts := k.accepts.filter (fun a => a.1 != 0), early := k.early.filter fun e => e.1 != 0 }
      let r := (t.ownRank ctx g).getD 0
      (t.collReport ctx g 0 r 256).collReport ctx g 0 r 0

/-- The slot of an accepted record is dissolved, and is forming while the member words are read; STATUS and s[d] are 0 (R430). -/
def State.openGroup (t : State) (u : State) (va x d : Nat) : State :=
  let ctx := u.tm.ctx
  let g := bitsAt x 32 6
  let t := if (t.group ctx g).state = 0 then t else t.dissolve ctx g
  let t := (t.writeWord64 ctx (va + 8) 0).2
  let t := t.onGroup ctx g fun k => { k with state := 1, reading := true, addr := va, issuer := u.pk.id, start := t.gtc }
  { t with pk := t.pk.setS d 0 }

/-- GRPF (R430). -/
def execGrpf (e : Bool) (d a : BitVec 6) (s : State) : Result :=
  .next (issueWord (.grpf e d a) s fun u t =>
    if releaseWaits 4 u then .stall
    else
      let va := (u.pk.s a.toNat).toNat
      readAs u t va 64 64 fun t x =>
        if grpBad x then .done (t.refuse u va 1 d.toNat 1)
        else
          let n := bitsAt x 0 18
          let k := t.group u.tm.ctx (bitsAt x 32 6)
          let t := if k.reading && k.issuer == u.pk.id && k.addr == va then t else t.openGroup u va x d.toNat
          match t.homeRead u.pk.id u.tm.core u.tm.ctx [(((va + 64 : Nat) : Int), 4 * n)] with
          | (.wait, t) => .wait t
          | (.ok bs, t) =>
            .done ((t.dropFetched u.pk.id).formGroup u va x d.toNat (some ((List.range n).map fun i => bitsAt (ofBytes bs) (32 * i) 32)))
          | (_, t) => .done ((t.dropFetched u.pk.id).formGroup u va x d.toNat none))

end Sys2Proof.Machine
end

