-- ==== Sys2Proof/Machine/FaultQueue.lean ====
section
/-! DEFINITION. The device fault queue (R377-R379): reports that wait, the answers to page faults, and the commands. -/

namespace Sys2Proof.Machine

/-! ## The device fault queue (R377-R379) -/

/-- Waiting reports are written while the ring has room; packs whose halt report waits try again (R377). -/
def State.postWaiting (s : State) : Nat → State
  | 0 => s
  | n + 1 =>
    match s.waiting with
    | [] => s.push ((s.allPacks.filter fun p => p.status == .halted).map fun p => .packRetire p.id)
    | r :: rs => if s.reportRoom then (({ s with waiting := rs } : State).writeReport r).postWaiting n else s

/-- FAULT_REPORT_POST: a waiting report is written. -/
def execFaultReportPost (s : State) : Result := .next (s.postWaiting (s.waiting.length + 1))

/-- A page-fault report that a freeze of the context makes void: of its packs and its lift queues (R388). -/
def State.voidReport (s : State) (ctx : Nat) (o : Report × Asker) : Bool :=
  match o.2 with
  | .pack p => (s.team? p.teamId).any fun t => t.ctx == ctx
  | .lift t _ => (s.team? t).any fun t => t.ctx == ctx
  | _ => false

/-- A freeze of the context has taken every pack, and stops its lift queues (R387). -/
def State.packsTaken (s : State) (ctx : Nat) : Bool :=
  (s.ctx ctx).frz.any fun f => !f.isResume && f.phase == 1 && !s.allPacks.any fun p => (s.teamOf p).ctx == ctx && p.takesRoom

/-- The open page-fault report numbered seq of a context, which an answer may name: none of a pack or a lift queue once a freeze has taken
the packs (R379, R388). -/
def State.openReport (s : State) (ctx seq : Nat) : Option (Report × Asker) :=
  s.open_.find? fun o => o.1.seq == seq && o.1.ctx == ctx && !(s.packsTaken ctx && s.voidReport ctx o)

/-- A report has been answered. -/
def State.closeReport (s : State) (seq : Nat) : State := { s with open_ := s.open_.filter fun o => o.1.seq != seq }

/-- A parked pack with nothing left to wait for is ready. -/
def Pack.unpark (p : Pack) (now : Nat) : Pack :=
  if p.status = .parked && p.parkOn.isNone && p.replay.isEmpty then { p with status := .ready, since := now } else p

/-- The pack goes on after an answer: its replay list goes again once every report of it is answered (R220). -/
def State.answered (s : State) (p : PackId) : State :=
  match s.pack? p with
  | none => s
  | some k =>
    if k.status = .saved || k.status = .retired then s
    else ((s.replayGo p).onPack p fun k => k.unpark s.gtc).afterOp p

/-- The answer resolve (R220, R300, R350). -/
def State.resolve (s : State) (r : Report) (who : Asker) : State :=
  let s := s.closeReport r.seq
  match who with
  | .pack p =>
    (s.onPack p fun k => if k.parkOn = some r.seq then { k with parkOn := none } else k).answered p
  | .lift t ch => s.liftResolve t ch r.seq
  | .exit t => (match s.team? t with
    | none => s
    | some m => (s.onTeam t fun m => { m with exitOn := none }).increment { m with exitOn := none })
  | .inbound pkt => s.serveAll pkt true
  | .preload g => (match s.grid? g with
    | none => s
    | some k => ((s.onGrid g fun k => { k with preOn := none }).fillPreload k).kick)
  | .coll ctx g _ => s.collGo ctx g
  | .nobody => s

/-- The listed lanes of a declined report take PAGE_UNRESOLVED (R220). -/
def State.declineReplay (s : State) (p : PackId) (r : Replay) : State :=
  s.onPack p fun k =>
    let k := ({ k with replay := k.replay.filter fun q => q.report != r.report || q.op.id != r.op.id } : Pack).laneFaults r.op cPAGE 0
      r.op.addrs
    if (k.op? r.op.id).isSome then k else k.acquired r.op.id

/-- The answer decline. -/
def State.decline (s : State) (r : Report) (who : Asker) : State :=
  let s := s.closeReport r.seq
  match who with
  | .pack p =>
    let mine := ((s.pack? p).map fun k => k.replay.filter fun q => q.report == r.seq).getD []
    let s := mine.foldl (fun s q => s.declineReplay p q) s
    (s.onPack p fun k => if k.parkOn = some r.seq then { k with parkOn := none, declined := some (r.acc, r.addr) } else k).answered p
  | .lift t ch => s.liftDecline t ch r.seq r.addr
  | .exit t => (match s.team? t with
    | none => s
    | some m => s.exitDropped m cPAGE 0)
  | .coll ctx g seq => s.collReport ctx g seq ((s.ownRank ctx g).getD 0) 3
  | .preload g => (s.onGrid g fun k => { k with preOn := none, preDue := false }).kick
  | .inbound _ | .nobody => s

/-- Every cached translation and line of a range leaves the context (R217): dirty private lines are written back first, L1
copies dropped, accepted writes performed at their WCTs, dirty lines written back to memory. -/
def State.invalidate (s : State) (ctx va len : Nat) : State :=
  let hit := fun (l : Nat) => decide (va ≤ 128 * l) && decide (128 * l < va + len)
  let s := (s.l1.filter fun l => l.ctx == ctx && hit l.line && l.owner.isSome && l.dirty).foldl State.l1Evict s
  let s := { s with l1 := s.l1.filter fun l => !(l.ctx == ctx && hit l.line) }
  let s := (s.l2.filter fun h => h.ctx == ctx && hit h.line).foldl State.writeBack s
  let s := (s.cores.map (·.1)).foldl (fun (s : State) c =>
    s.onCore c fun k => { k with icache := k.icache.filter fun e => !(e.1 == ctx && hit e.2) }) s
  { s with tlb := s.tlb.filter fun x => !(x.ctx == ctx && decide (x.base < va + len) && decide (va < x.base + x.size)) }

/-- A poisoned line is overwritten with zeros, and is poisoned no longer (R369, R379). -/
def State.scrub (s : State) (pa : Nat) : State :=
  if s.poison.contains pa || s.l2.any (fun h => h.phys == pa && h.poison) then
    { s with
      poison := s.poison.filter (· != pa)
      hbm := memWrite s.hbm pa ((List.range 128).map fun _ => 0)
      l2 := replaceAll (fun h => h.phys == pa && h.poison) (fun h => { h with data := 0, poison := false }) s.l2
      l1 := s.l1.filter fun l => l.phys != pa }
  else s

/-- A command of the fault queue, with its operands: none for one that is malformed (R379). -/
def State.command (s : State) (kind ctx a b : Nat) : Option State :=
  match kind with
  | 1 => (s.openReport ctx a).map fun o => s.resolve o.1 o.2
  | 2 => (s.openReport ctx a).map fun o => s.decline o.1 o.2
  | 3 => if a % 65536 = 0 && b % 65536 = 0 then some (s.invalidate ctx a b) else none
  | 4 => some { s with keys := s.keys.filter fun e => decide (e.1 < a) || decide (a + b ≤ e.1) }
  | 5 => if a % 128 = 0 then some (s.scrub a) else none
  | _ => none

/-- A command is executed and reported with kind 7 (R379). -/
def State.runCommand (s : State) (kind ctx tag a b : Nat) (res : Bool) : State :=
  match (if res then none else s.command kind ctx a b) with
  | some s => s.post { seq := 0, kind := 7, ctx := ctx, d5 := tag, d6 := 0 }
  | none => s.post { seq := 0, kind := 7, ctx := ctx, d5 := tag, d6 := 1 }

/-- FQ_RESOLVE. -/
def execFqResolve (ctx : Nat) (tag : Word) (seq : Nat) (s : State) : Result := .next (s.runCommand 1 ctx tag.toNat seq 0 false)
/-- FQ_DECLINE. -/
def execFqDecline (ctx : Nat) (tag : Word) (seq : Nat) (s : State) : Result := .next (s.runCommand 2 ctx tag.toNat seq 0 false)
/-- FQ_INVALIDATE (R217). -/
def execFqInvalidate (ctx : Nat) (tag : Word) (va len : Nat) (s : State) : Result :=
  .next (s.runCommand 3 ctx tag.toNat va len false)
/-- FQ_KEY_INVALIDATE (R375). -/
def execFqKeyInvalidate (ctx : Nat) (tag : Word) (first count : Nat) (s : State) : Result :=
  .next (s.runCommand 4 ctx tag.toNat first count false)
/-- FQ_SCRUB. -/
def execFqScrub (ctx : Nat) (tag : Word) (pa : Nat) (s : State) : Result := .next (s.runCommand 5 ctx tag.toNat pa 0 false)

/-- A command entry has a non-zero reserved field: all but KIND, CTXID, TAG and dwords 1 and 2. -/
def commandRes (e : Nat) : Bool := bitsAt e 8 8 != 0 || bitsAt e 192 320 != 0

/-- The device executes the commands of its ring in order, n at most (R379). -/
def State.runRing (s : State) : Nat → State
  | 0 => s
  | n + 1 =>
    let head := bitsOf s.fq 223 192
    if head = bitsOf s.fq 255 224 then s
    else
      let e := memNat s.hbm (bitsOf s.fq 111 64 + 64 * (head % 2 ^ bitsOf s.fq 119 116)) 64
      let s := s.runCommand (bitsAt e 0 8) (bitsAt e 16 16) (bitsAt e 32 32) (bitsAt e 64 64) (bitsAt e 128 64) (commandRes e)
      ({ s with fq := setBitsOf s.fq 223 192 (head + 1) } : State).runRing n

end Sys2Proof.Machine
end

