-- ==== Sys2Proof/Machine/Felt.lean ====
section
/-! DEFINITION. Context freeze and migration (R386-R405): the dirty-log words, FRZ, the freeze sequence, fulling, the felt and
its resume. -/

namespace Sys2Proof.Machine

/-! ## DLOG (R401, R402) -/

/-- The state of a log as .stat gives it. -/
def Ctx.dlogStat (c : Ctx) : DWord := dw ((if c.dlogEn then 2 ^ 63 else 0) + (if c.dlogOvf then 2 ^ 62 else 0) + c.dlogP.toNat)

/-- The size field of DLOGBASE is one that enables a log (R376). -/
def dlogSizeOk (base : DWord) : Bool := decide (12 ≤ bitsOf base 4 0) && decide (bitsOf base 4 0 ≤ 30)

/-- The log's ring is the one that DLOGBASE names. -/
def Ctx.takeRing (c : Ctx) (base : DWord) : Ctx := { c with dlogRing := keepBits base 44 12, dlogSize := bitsOf base 4 0 }

/-- A DLOG word: what it does to the log of context s[a][15:0], and its result. -/
def dlogWord (i : Instr) (d a : BitVec 6) (s : State) (f : DWord → Ctx → Ctx × DWord) : Result :=
  .next (issueWord i s fun u t =>
    let x := u.pk.s a.toNat
    let c := x.toNat % 2 ^ 16
    let r := f x (u.ctx c)
    .done (({ t with pk := t.pk.setS d.toNat r.2 } : State).onCtx c fun _ => r.1))

/-- DLOG.stat (R402). -/
def execDlogStat (e : Bool) (d a : BitVec 6) (s : State) : Result :=
  dlogWord (.dlogStat e d a) d a s fun _ c => (c, c.dlogStat)

/-- DLOG.start (R402): the ring is the one that the issuing pack's DLOGBASE names. -/
def execDlogStart (e : Bool) (d a : BitVec 6) (s : State) : Result :=
  dlogWord (.dlogStart e d a) d a s fun _ c =>
    let base := (s.ctx s.tm.ctx).dlogbase
    if c.dlogEn then (c, dw (2 ^ 63 + 2))
    else if !dlogSizeOk base then (c, dw (2 ^ 63 + 1))
    else ({ c.takeRing base with dlogP := 0, dlogC := 0, dlogOvf := false, dlogEn := true }, 0)

/-- DLOG.stop (R402). -/
def execDlogStop (e : Bool) (d a : BitVec 6) (s : State) : Result :=
  dlogWord (.dlogStop e d a) d a s fun _ c => ({ c with dlogEn := false }, ({ c with dlogEn := false } : Ctx).dlogStat)

/-- DLOG.ack (R402): the new C is s[a][63:32]. -/
def execDlogAck (e : Bool) (d a : BitVec 6) (s : State) : Result :=
  dlogWord (.dlogAck e d a) d a s fun x c =>
    let n : BitVec 32 := BitVec.ofNat 32 (x.toNat / 2 ^ 32)
    if (n - c.dlogC).toNat ≤ (c.dlogP - c.dlogC).toNat then ({ c with dlogC := n }, 0) else (c, dw (2 ^ 63 + 3))

/-- DLOG.cons (R402). -/
def execDlogCons (e : Bool) (d a : BitVec 6) (s : State) : Result :=
  dlogWord (.dlogCons e d a) d a s fun _ c => (c, dw c.dlogC.toNat)

/-! ## FRZ (R403-R405) -/

/-- A malformed freeze descriptor (R403, R404). -/
def fdBad (x : Nat) : Bool :=
  bitsAt x 56 8 != 0x46 || decide (2 ≤ bitsAt x 52 4) || bitsAt x 16 36 != 0 || bitsAt x 256 256 != 0
    || bitsAt x 64 64 % 64 != 0 || bitsAt x 192 64 % 8 != 0

/-- The work that an accepted descriptor starts. -/
def frzWork (u : State) (x : Nat) (d : BitVec 6) : FrzWork :=
  { isResume := bitsAt x 52 4 == 1, issuer := u.pk.id, ictx := u.tm.ctx, felt := bitsAt x 64 64, limit := bitsAt x 128 64,
    evt := bitsAt x 192 64, isSelf := bitsAt x 52 4 == 0 && bitsAt x 0 16 == u.tm.ctx, dlogbase := (u.ctx u.tm.ctx).dlogbase,
    dreg := d.toNat }

/-- FRZ (R403-R405): a pack that freezes its own context stops here, to be saved at the following word with s[d] = 1. -/
def execFrz (e : Bool) (d a : BitVec 6) (s : State) : Result :=
  .next (issueWord (.frz e d a) s fun u t =>
    readAs u t (u.pk.s a.toNat).toNat 64 64 fun t x =>
      let ctx := bitsAt x 0 16
      if fdBad x then .done { t with pk := t.pk.setS d.toNat (dw (2 ^ 63 + 1)) }
      else if (t.ctx ctx).frz.isSome then .done { t with pk := t.pk.setS d.toNat (dw (2 ^ 63 + 2)) }
      else
        let w := frzWork u x d
        let t := (t.onCtx ctx fun c => { c with frz := some w }).push [if w.isResume then .resume ctx else .freeze ctx]
        if w.isSelf then
          .own { t with pk := { t.pk.setS d.toNat 1 with pc := u.pk.next, runpos := 0, atPpt := t.pk.pptKept, declined := none, status := .saving } }
        else .done { t with pk := t.pk.setS d.toNat 0 })

/-! ## The freeze sequence (R387-R391) -/

/-- The freeze or resume of a context, changed by f. -/
def State.onFrz (s : State) (ctx : Nat) (f : FrzWork → FrzWork) : State :=
  s.onCtx ctx fun c => { c with frz := c.frz.map f }

/-- The teams of a context that have not exited. -/
def State.teamsIn (s : State) (ctx : Nat) : List Team :=
  s.allTeams.filter fun t => t.ctx == ctx && t.status != .exited

/-- The queues of a context. -/
def State.queuesIn (s : State) (ctx : Nat) : List Nat := (List.range 64).filter fun q => (s.queue q).ctx == ctx

/-- FREEZE: the queues are closed, and every resident pack is asked to be saved (R387 steps 1 and 2). -/
def execFreeze (ctx : Nat) (s : State) : Result :=
  .next (match (s.ctx ctx).frz with
    | none => s
    | some f =>
      if f.isResume || f.phase ≠ 0 then s
      else
        let qs := s.queuesIn ctx
        let closed := qs.map fun q => (q, (s.queue q).en)
        let s := qs.foldl State.disableQueue s
        let s : State := { s with incoming := s.incoming.filter fun i => (s.grid? i.unit.team.grid).any fun g => g.ctx != ctx }
        let s := s.onFrz ctx fun f => { f with phase := 1, queues := closed }
        (s.askSave (((s.teamsIn ctx).map fun t => (s.packsOf t.id).map (·.id)).flatten)).push [.fullingComplete ctx])

/-- Fulling begins (R390): the context's memory closes; reads of the queue unit are abandoned (R389), and answers to reports of
its packs and lift queues no longer count. -/
def State.beginFulling (s : State) (ctx : Nat) : State :=
  let s := (s.onCtx ctx fun c => { c with closed := true }).onFrz ctx fun f => { f with phase := 2, since := s.gtc }
  let s : State := { s with open_ := s.open_.filter fun o => !s.voidReport ctx o }
  { s with requests := s.requests.filter fun r => !(r.pack.role == 5 && (s.queue r.pack.team).ctx == ctx) }

/-- A request of a pack, a lift channel or an exit of the context is in flight, or a store of a word of it by the device. -/
def State.inFlight (s : State) (ctx : Nat) : Bool :=
  s.requests.any fun r => (decide (r.pack.role ≤ 8) && (s.team? r.pack.teamId).any fun t => t.ctx == ctx) || r.pack == writeAgent ctx

/-- The context that a request of another device names. -/
def packetCtx (p : Packet) : Option Nat :=
  match p.body with
  | .load c .. => some c
  | .store c _ _ => some c
  | .atomic c .. => some c
  | _ => none

/-- An accepted request of another device for a page of the context waits to be performed, for an answer, or for an earlier one, before its
deadline (R389, R415). -/
def State.inboundWaits (s : State) (ctx : Nat) : Bool :=
  let waits := fun (p : Packet) => packetCtx p == some ctx && decide (s.gtc + s.eps < p.deadline)
  (s.open_.any fun o => match o.2 with
    | .inbound p => waits p
    | _ => false)
  || s.accepted.any fun a => a.held.any waits

/-- The identity under which a freeze writes its felt through windows, and a resume reads one. -/
def feltWriter (ctx : Nat) : PackId := { grid := 0, team := ctx, role := 9, pir := 1 }
/-- The reader. -/
def feltReader (ctx : Nat) : PackId := { grid := 0, team := ctx, role := 10, pir := 0 }

/-- The next step of a freeze can be taken: every pack is off its core and every exit is over; fulling is complete but for the
time (R389); or every write of the felt has ended. -/
def State.frzReady (s : State) (ctx : Nat) (f : FrzWork) : Bool :=
  match f.phase with
  | 1 => (s.teamsIn ctx).all fun t => t.status == .evicted && t.halt.isNone
  | 2 => !s.inFlight ctx && !s.inboundWaits ctx && (!s.collsOpen ctx || decide (f.since + s.tfabTicks ≤ s.gtc))
  | 3 => !(s.requests.any fun r => r.pack == feltWriter ctx)
  | _ => false

/-- The largest LWCT of a context's saved packs, and of those that its teams have retired. -/
def State.lastWct (s : State) (ctx : Nat) : Nat :=
  (s.teamsIn ctx).foldl (fun m t => (s.packsOf t.id).foldl (fun m p => max m p.lwct) (max m t.lwct)) 0

/-! ## The felt: numbers and fields (R392) -/

/-- A number of fields, lowest first: width and value. -/
def fields : List (Nat × Nat) → Nat
  | [] => 0
  | (w, v) :: fs => v % 2 ^ w + 2 ^ w * fields fs

/-- Bytes padded with zeros to a multiple of 64. -/
def pad64 (bs : List Byte) : List Byte := bs ++ (List.range ((64 - bs.length % 64) % 64)).map fun _ => 0
/-- Bytes padded with zeros to n. -/
def padTo (n : Nat) (bs : List Byte) : List Byte := bs ++ (List.range (n - bs.length)).map fun _ => 0

/-- 1 for true. -/
def bit1 (b : Bool) : Nat := if b then 1 else 0

/-- n bytes from byte o of a record, as a number. -/
def numAt (bs : List Byte) (o n : Nat) : Nat := ofBytes ((bs.drop o).take n)

/-! ## Queue and grid records -/

/-- Ticks left of a queue's slice (R392). -/
def HQueue.sliceLeft (k : HQueue) : Nat := if k.sliceUs = 0 then 2 ^ 64 - 1 else ((k.sliceUs * 1000 : Nat) - k.slice).toNat

/-- A queue record. -/
def queueRec (q : Nat) (en : Bool) (prio head left : Nat) : List Byte :=
  toBytes (fields [(6, q), (3, prio), (1, bit1 en), (22, 0), (32, head), (64, left)]) 64

/-- The root grids and their children of a context, by grid index. -/
def State.gridsIn (s : State) (ctx : Nat) : List Grid := sortBy (·.idx) (s.grids.filter fun g => g.ctx == ctx)

/-- The felt's index of grid g among gs. -/
def gidxOf (gs : List Grid) (g : Nat) : Nat := (gs.takeWhile fun k => k.idx != g).length

/-- The 64 bytes after a launch record; gidx and parent: indices in the felt. -/
def gridTail (g : Grid) (gidx : Nat) (parent : Option Nat) : List Byte :=
  let f := g.fail.getD (0, 0)
  toBytes (fields [(32, gidx), (32, parent.getD 0xFFFFFFFF), (6, g.queue), (2, 0), (4, g.depth), (1, bit1 g.admitted), (19, 0),
    (32, g.index), (32, g.nextT), (32, g.texit), (32, f.2), (8, f.1), (1, bit1 g.fail.isSome)]) 64

/-- A grid record. -/
def gridRec (gs : List Grid) (g : Grid) : List Byte :=
  toBytes g.record.toNat 256 ++ gridTail g (gidxOf gs g.idx) (g.parent.map (gidxOf gs))

/-! ## Team records (R393) -/

/-- The identity part; n: pack records. -/
def identPart (t : Team) (gidx n tileb : Nat) (tbar gbar : List Nat) : List Byte :=
  toBytes (fields ([(32, t.id.team), (32, gidx), (32, t.gangId), (8, t.lcore), (4, t.gangRank), (1, bit1 (t.gang != 0)), (19, 0),
    (6, n), (2, 0), (5, t.accs), (19, 0), (19, tileb), (13, 0)] ++ tbar.map (fun c => (8, c)) ++ gbar.map fun c => (16, c))) 64

/-- The code state: slots and codebooks. -/
def codePart (ct : Tab (List Word)) (cb : Tab (List (BitVec 16))) : List Byte :=
  let slots := maskBits (fun k => !(Tab.get [] ct k).isEmpty) 0 15
  let books := maskBits (fun k => !(Tab.get [] cb k).isEmpty) 0 4
  padTo 64 (toBytes (fields [(15, slots), (1, 0), (4, books)]) 8)
    ++ ((List.range 4).map fun k => padTo 32 ((Tab.get [] cb k).map fun x => toBytes x.toNat 2).flatten).flatten
    ++ ((List.range 15).map fun k => padTo 320 ((Tab.get [] ct k).map fun x => toBytes x.toNat 4).flatten).flatten

/-- The handle table: descriptor and write pointer of each. -/
def State.handlePart (s : State) (t : Team) : List Byte :=
  ((List.range 64).map fun n => match t.handle n with
    | none => toBytes 0 16
    | some h => toBytes h.desc.toNat 8 ++ toBytes (((s.storage h).map (·.wp)).getD 0) 8).flatten

/-- The bytes of the tiles whose storage a handle of the team owns; zeros for storage released with its member (log 42). -/
def State.tilePart (s : State) (t : Team) : List Byte :=
  ((List.range 64).map fun n => match t.handle n with
    | none => []
    | some h =>
      if descB h.desc.toNat then []
      else match s.storage h with
        | none => padTo h.bytes []
        | some a => s.tileBytes h a 0 h.bytes).flatten

/-- The walk position of the active command: an outermost index is not reduced, so that a finished walk can be told (log 42). -/
def walkPos (q : LiftQueue) : Nat :=
  match q.cmds with
  | [] => 0
  | c :: _ =>
    let c := c.blk.toNat
    let run := q.sent / max 1 (lcCount c 0)
    let at_ := fun k => if lcRec c then (if k + 1 < lcNdim c then walkIndex c k q.item else q.item / countsFrom c 0 k)
      else if k = 0 then (if lcNdim c = 1 then q.sent else q.sent % max 1 (lcCount c 0))
      else if k + 1 < lcNdim c then run / countsFrom c 1 k % lcCount c k else run / countsFrom c 1 k
    if q.halted then 0
    else fields ((List.range 4).map fun k => (16, if k < lcNdim c then at_ k else 0))

/-- A lift queue. -/
def queuePart (q : LiftQueue) : List Byte :=
  padTo 192 (((List.range 4).map fun k => toBytes (lqryValue q k).toNat 8).flatten ++ toBytes q.next 8 ++ toBytes (walkPos q) 8)
    ++ (q.cmds.map fun c => toBytes c.blk.toNat 64).flatten

/-- The tiles that a save of the team keeps (R333). -/
def State.keptTiles (s : State) (t : Team) : Nat :=
  ((s.packsOf t.id).foldl (fun m p => if p.status = .saved then m ||| p.kept t else m) t.keep).toNat % 2 ^ t.accs

/-- The accumulators: the tiles that the save keeps. -/
def accPart (t : Team) (saved : Nat) : List Byte :=
  padTo 64 (toBytes (fields [(16, saved), (16, saved &&& t.accBad.toNat)]) 4)
    ++ ((List.range 16).map fun k =>
      if saved.testBit k then ((List.range 8192).map fun i => toBytes (Tab.get 0 (t.tile k) i).toNat 4).flatten else []).flatten

/-- Bits of a weight of a latched format (R315). -/
def weightBits (fmt : Nat) : Nat := if fmt = 6 || fmt = 7 then 16 else if fmt = 1 || fmt = 2 || fmt = 5 then 8 else 4

/-- The bits of a cell in a felt: the code, and for LAT8 the double of the coordinate, 8 for NaL (log 42). -/
def cellBits (fmt c : Nat) : Nat := if c = 0 then 0 else if fmt = 8 then (c - 1 + 8) % 16 else c - 1
/-- The cell of its bits; +0 of every format but CB4 is kept as no code. -/
def bitsCell (fmt b : Nat) : Nat :=
  if fmt = 4 then b + 1 else if b = 0 then 0 else if fmt = 8 then (if b = 8 then 17 else (b + 8) % 16 + 1) else b + 1

/-- The number made of f k, …, f (k + n − 1), each of w bits. -/
def packBits (w : Nat) (f : Nat → Nat) (k : Nat) : Nat → Nat
  | 0 => 0
  | n + 1 => f k % 2 ^ w + 2 ^ w * packBits w f (k + 1) n

/-- A weight buffer: weights and masks by column with the K row inner, scales by group with the column inner (log 42). -/
def wbufPart (b : WBuf) : List Byte :=
  let kw := weightRows b.fmt
  let w := weightBits b.fmt
  let cell := fun n => Tab.get 0 b.cell (384 * (n % kw) + n / kw)
  let scale := fun k =>
    let e := b.entry (k / 384) (k % 384)
    if kw / 32 ≤ k / 384 then 0 else if b.fmt = 4 then e % 2 ^ 16 + 0x80 * 2 ^ 16 else e % 256 + e / 256 % 256 * 2 ^ 16
  let head := padTo 32 (toBytes (fields [(4, b.fmt), (1, bit1 (b.fmt == 0))]) 1)
    ++ padTo 32 (b.book.map fun x => toBytes x.toNat 2).flatten
  if b.fmt = 0 then padTo (64 + 49152 + 2 * 12288) head
  else head ++ padTo 49152 (toBytes (packBits w (fun n => cellBits b.fmt (cell n)) 0 (384 * kw)) (48 * kw * w))
    ++ toBytes (packBits 32 scale 0 3072) 12288
    ++ padTo 12288 (if b.fmt = 4 then toBytes (packBits 1 (fun n => bit1 (cell n == 0)) 0 98304) 12288 else [])

/-- A team record without its packs; its parts are padded to 64 bytes. -/
def State.teamRec (s : State) (gs : List Grid) (t : Team) : List Byte :=
  let ps := (s.packsOf t.id).filter fun p => p.status == .saved
  let tileb := ((s.grid? t.id.grid).map fun g => grTileb g.record.toNat).getD 0
  let tbar := (List.range 4).map fun b => Tab.get 0 t.tbar b
  let gbar := (List.range 2).map fun b =>
    if t.gangRank = 0 then ((s.team? (s.gangHome t)).map fun m => Tab.get 0 m.gbar b).getD 0 else 0
  identPart t (gidxOf gs t.id.grid) ps.length tileb tbar gbar ++ codePart t.ct t.cb ++ s.handlePart t ++ pad64 (s.tilePart t)
    ++ ((List.range 8).map fun ch => queuePart (t.queue ch)).flatten ++ accPart t (s.keptTiles t) ++ wbufPart t.active ++ wbufPart t.shadow

/-! ## Pack records (R394) -/

/-- The words of a fault record, with its lanes (R372). -/
def recordWords (r : FaultRec) : List Byte :=
  ((List.range 7).map fun k => toBytes (r.word k).toNat 8).flatten ++ ((List.range 64).map fun l => toBytes (r.word (64 + l)).toNat 8).flatten

/-- A saved pack is parked on a page fault. -/
def Pack.isParked (p : Pack) : Bool := p.parkOn.isSome || !p.replay.isEmpty

/-- The fixed part of a pack record; nv: vector registers. -/
def packFixed (p : Pack) (nv : Nat) (parked : Bool) : List Byte :=
  let ops := p.replayOps
  let freed := ~~~p.live &&& dw (2 ^ nv - 1)
  toBytes p.pc.toNat 8
    ++ toBytes (fields [(2, p.id.role), (5, p.id.pir), (7, nv), (1, bit1 p.h), (1, bit1 p.latchTag.isSome),
        (1, bit1 (p.latchTag == some 32)), (1, bit1 p.atPpt), (1, bit1 parked)]) 8
    ++ toBytes p.em.toNat 8 ++ toBytes p.mode.toNat 8 ++ toBytes p.fflags.toNat 8 ++ toBytes p.stale.toNat 8
    ++ toBytes p.liveSet.toNat 8 ++ toBytes ops.length 8 ++ toBytes freed.toNat 8 ++ padTo 56 []
    ++ ((List.range 64).map fun r => toBytes (p.s r).toNat 8).flatten
    ++ ((List.range 32).map fun r => toBytes (p.p r).toNat 8).flatten
    ++ (List.range 64).map (fun l => p.x l)
    ++ ([p.frame.s59, p.frame.s60, p.frame.s61, p.frame.s62, p.frame.s63, p.frame.em, p.frame.mode.zeroExtend 64, 0].map fun x =>
        toBytes x.toNat 8).flatten
    ++ padTo 576 (recordWords p.pend)
    ++ padTo 4096 ((ops.map fun o =>
        toBytes o.fpc.toNat 8 ++ toBytes (maskOf (o.addrs.map (·.1))).toNat 8 ++ toBytes o.mask.toNat 8 ++ toBytes 0 8).flatten)

/-- The operands of a lane of a replayed word: bytes 0 to 7, and 8 to 15. -/
def replayOperand (o : Op) (l : Nat) : Nat :=
  match o.word with
  | .cas .. => o.val l % 2 ^ 32 + o.val l / 2 ^ 32 * 2 ^ 64
  | _ => o.val l

/-- The captured operands of a replay entry. -/
def replayPart (o : Op) : List Byte :=
  ((List.range 64).map fun l => toBytes (((o.addrs.find? fun q => q.1 == l).map (·.2)).getD 0) 8).flatten
    ++ ((List.range 64).map fun l => toBytes (if o.addrs.any fun q => q.1 == l then replayOperand o l else 0) 16).flatten

/-- A pack record. -/
def packRec (t : Team) (p : Pack) : List Byte :=
  let nv := (roleOf t p).vregs
  packFixed p nv p.isParked ++ ((List.range nv).map fun r => toBytes (p.v r).toNat 256).flatten
    ++ (if p.latchTag.isSome then (p.latch.map fun x => toBytes x.toNat 256).flatten else [])
    ++ (p.replayOps.map replayPart).flatten

/-! ## The image -/

/-- The ordering code of a part (R392). -/
def partCode (p : Part) : Nat :=
  match p with
  | .a64 => 0
  | .a48 => 1

/-- The header: counts, CRC and BYTES. -/
def feltHeader (s : State) (ctx : Nat) (f : FrzWork) (nq ng nt np bytes crc : Nat) : List Byte :=
  let c := s.ctx ctx
  toBytes (fields [(16, ctx), (9, 0), (1, bit1 f.isSelf), (1, bit1 c.dlogOvf), (1, bit1 c.dlogEn), (4, partCode s.part), (8, 64), (8, 1),
    (16, 0xF317), (64, bytes), (64, s.gtc), (32, c.dlogP.toNat), (32, c.dlogC.toNat), (32, nq), (32, ng), (32, nt), (32, np), (32, crc)]) 128

/-- The felt of a context (R36, R38, R392-R395). -/
def State.feltImage (s : State) (ctx : Nat) (f : FrzWork) : List Byte :=
  let gs := s.gridsIn ctx
  let ts := sortBy (fun t => gidxOf gs t.id.grid) (sortBy (fun t => t.id.team) (s.teamsIn ctx))
  let packs := fun (t : Team) => sortBy (fun p => 32 * p.id.role + p.id.pir) (s.savedPacks t.id)
  let body := (f.queues.map fun q => queueRec q.1 q.2 (s.queue q.1).prio (s.queue q.1).head (s.queue q.1).sliceLeft).flatten
    ++ (gs.map (gridRec gs)).flatten
    ++ (ts.map fun t => s.teamRec gs t ++ ((packs t).map (packRec t)).flatten).flatten
  let head := feltHeader s ctx f f.queues.length gs.length ts.length (sumBy (fun t => (packs t).length) ts) (128 + body.length)
  head (crc32 (head 0 ++ body)) ++ body

/-! ## Writing, release and thaw (R387, R404, R405) -/

/-- Bytes written at va of a context, line by line: whether every write passed the checks of R219, and the largest WCT. -/
def State.feltWrite (s : State) (who : PackId) (ctx va : Nat) (bs : List Byte) : List Nat → Nat → Bool × Nat × State
  | [], w => (true, w, s)
  | i :: is, w =>
    let line := va / 128 + i
    let lo := if i = 0 then va % 128 else 0
    let hi := min 128 (va % 128 + bs.length - 128 * i)
    let part := (List.range (hi - lo)).map fun k => (lo + k, (bs[128 * i + lo + k - va % 128]?).getD 0)
    match s.storeLine ctx line part false none with
    | (.ok v, s) => s.feltWrite who ctx va bs is (max w v)
    | (.error (.window x), s) =>
      ((s.setDirty x).sendRequest 0 0 who line line x (.store ctx (x.ownerAddr (128 * line)) part)).feltWrite who ctx va bs is w
    | (.error _, s) => (false, w, s)

/-- The work ends with a completion value, which is then stored (R404). -/
def State.endFrz (s : State) (ctx v : Nat) : State :=
  (s.onFrz ctx fun f => { f with phase := 4, value := v }).push [.frzCompletion ctx]

/-- What page-fault reports of a context kept parked goes on, as they no longer count (R388, R404): packs at their words, lift queues
from the start of their blocks. -/
def State.unparkAll (s : State) (ctx : Nat) : State :=
  (s.teamsIn ctx).foldl (fun s t =>
    (((s.packsOf t.id).map (·.id)).foldl (fun s p => s.onPack p fun k => { k with parkOn := none }) s).onTeam t.id fun t =>
      { t with lift := t.lift.map fun e => (e.1, { e.2 with parked := false, report := none }) }) s

/-- The context thaws in place (R404, R405): its queues regain their EN, its memory opens, and the pack that froze its own
context has the value in s[d]. -/
def State.thaw (s : State) (ctx : Nat) (f : FrzWork) (v : Nat) : State :=
  let s := (s.unparkAll ctx).onCtx ctx fun c => { c with closed := false }
  let s := f.queues.foldl (fun (s : State) (q : Nat × Bool) =>
    if q.2 then (s.onHQueue q.1 fun k => { k with desc := setBitsOf k.desc 100 100 1, since := s.gtc }).push [.launchRecordRead q.1] else s) s
  let s := if f.isSelf then s.onPack f.issuer fun k => k.setS f.dreg (dw v) else s
  s.endFrz ctx v

/-- The resident state of a frozen context is released (R387 step 5). -/
def State.releaseContext (s : State) (ctx : Nat) : State :=
  let gone := (s.teamsIn ctx).map (·.id)
  let roots := s.grids.filter fun g => g.ctx == ctx && g.parent.isNone
  let s := roots.foldl (fun (s : State) g => s.onHQueue g.queue fun k => { k with order := k.order.filter (· != g.index) }) s
  let s : State :=
    { s with
      grids := s.grids.filter fun g => g.ctx != ctx
      packs := s.packs.filter fun p => !gone.contains p.id.teamId
      teams := s.teams.filter fun t => !gone.contains t.id
      pk := if gone.contains s.pk.id.teamId then {} else s.pk
      tm := if gone.contains s.tm.id then {} else s.tm }
  let s := s.onCtx ctx fun c => { c with groups := [] }
  (roots.map (·.queue)).foldl State.flushQueue s

/-- Every write that the homes have accepted for lines of a context is performed (R389). -/
def State.settleContext (s : State) (ctx : Nat) : State :=
  (s.l2.filter fun h => h.ctx == ctx).foldl (fun s h => h.pend.foldl (fun s w => s.waitUntil w.wct) s) s

/-- Fulling is complete: GTCF is recorded, and the felt is written where it fits (R389, R392, R404). -/
def State.writeFelt (s : State) (ctx : Nat) : State :=
  let s := (s.settleContext ctx).waitUntil (s.lastWct ctx + s.eps)
  let s := (s.teamsIn ctx).foldl (fun s t => (List.range 8).foldl (fun s ch => s.settleHeld t ch) s) s
  let s := s.onFrz ctx fun f => { f with gtcf := s.gtc, phase := 3 }
  match (s.ctx ctx).frz with
  | none => s
  | some f =>
    let bs := s.feltImage ctx f
    if f.limit < bs.length then s.thaw ctx f 0x101
    else if 2 ^ 45 < f.felt + bs.length then s.thaw ctx f 0x102
    else match s.feltWrite (feltWriter ctx) f.ictx f.felt bs (List.range ((bs.length + f.felt % 128 + 127) / 128)) 0 with
      | (ok, w, s) =>
        let s := s.onFrz ctx fun f => { f with wct := max f.wct w }
        if ok then s.push [.fullingComplete ctx] else s.thaw ctx f 0x102

/-- FULLING_COMPLETE: the next step of a freeze, once the one before has finished (R387-R391). -/
def execFullingComplete (ctx : Nat) (s : State) : Result :=
  .next (match (s.ctx ctx).frz with
    | none => s
    | some f =>
      if f.isResume || !s.frzReady ctx f then s
      else if f.phase = 1 then (s.beginFulling ctx).push [.fullingComplete ctx]
      else if f.phase = 2 then (if s.collsOpen ctx then (s.withdraw ctx).push [.fullingComplete ctx] else s.writeFelt ctx)
      else if f.failed then s.thaw ctx f 0x102
      else (s.releaseContext ctx).endFrz ctx 1)

/-- FRZ_COMPLETION: every byte of the felt is released at .sys scope, once what writes it through windows has ended, and the
completion value is stored at EVT (R404). -/
def execFrzCompletion (ctx : Nat) (s : State) : Result :=
  .next (match (s.ctx ctx).frz with
    | none => s
    | some f =>
      if f.phase ≠ 4 || s.requests.any (fun r => r.pack == feltWriter ctx) then s
      else
        let s := s.waitUntil (f.wct + s.eps)
        let s := (s.writeWord64 f.ictx f.evt f.value).2
        (s.onCtx ctx fun c => { c with frz := none }).kick)

end Sys2Proof.Machine
end

