-- ==== Sys2Proof/Machine/Resume.lean ====
section
/-! DEFINITION. Resume of a felt (R396-R398): its records read back and checked, the context adopted, its teams placed. -/

namespace Sys2Proof.Machine

/-! ## Reading records: each part is read, and must be what the part of the value read would be -/

/-- The first n bytes, and the rest. -/
def takeBytes (n : Nat) (bs : List Byte) : Option (List Byte × List Byte) :=
  if bs.length < n then none else some (bs.take n, bs.drop n)

/-- v, when b holds. -/
def someIf (b : Bool) (v : α) : Option α := if b then some v else none

/-- A queue record: number, EN, HEAD, slice left. -/
structure FeltQueue where
  q    : Nat
  en   : Bool
  head : Nat
  left : Nat

/-- A queue record read. -/
def readQueueRec (bs : List Byte) : Option FeltQueue :=
  let x := ofBytes bs
  someIf (queueRec (bitsAt x 0 6) (x.testBit 9) (bitsAt x 6 3) (bitsAt x 32 32) (bitsAt x 64 64) == bs)
    { q := bitsAt x 0 6, en := x.testBit 9, head := bitsAt x 32 32, left := bitsAt x 64 64 }

/-- A grid record read, as grid number base + gidx of context ctx. -/
def readGridRec (s : State) (ctx base gidx ng notBefore : Nat) (bs : List Byte) : Option Grid :=
  let x := numAt bs 256 64
  let par := bitsAt x 32 32
  let root := par == 0xFFFFFFFF
  let q := bitsAt x 64 6
  let g : Grid :=
    { idx := base + gidx, ctx := ctx, queue := q, index := bitsAt x 96 32, parent := if root then none else some (base + par),
      depth := bitsAt x 72 4, priv := (s.queue q).prv, record := BitVec.ofNat 2048 (numAt bs 0 256), admitted := x.testBit 76,
      order := base + gidx, nextT := bitsAt x 128 32, texit := bitsAt x 160 32,
      fail := if x.testBit 232 then some (bitsAt x 224 8, bitsAt x 192 32) else none,
      go := x.testBit 76 || grWaddr (numAt bs 0 256) == 0, notBefore := notBefore, entry := base + gidx, resumed := true
      preDue := grCtpre (numAt bs 0 256) != 0 && decide (bitsAt x 128 32 < grTeams (numAt bs 0 256)) }
  someIf (gridTail g gidx (if root then none else some par) == bs.drop 256 && (root || decide (par < ng))
      && decide (1 ≤ g.depth) && decide (g.depth ≤ 10) && (grEarly (numAt bs 0 256)).isNone && !grBad6 (numAt bs 0 256)) g

/-- A team record read: the team, its packs, and each handle with its descriptor, write pointer and bytes. -/
structure FeltTeam where
  team  : Team
  packs : List Pack := []
  tiles : List (Nat × Nat × Nat × List Byte) := []

/-- The identity part, for a team of the grids gs; gidx there; and the number of its pack records. -/
def readIdent (s : State) (gs : List Grid) (bs : List Byte) : Option (Team × Nat) :=
  let id := numAt bs 0 4
  let gidx := numAt bs 4 4
  let n := numAt bs 16 1 % 64
  let tbar := (List.range 4).map fun b => numAt bs (24 + b) 1
  let gbar := (List.range 2).map fun b => numAt bs (28 + 2 * b) 2
  match gs[gidx]? with
  | none => none
  | some g =>
    let r := g.record.toNat
    let tab := fun (cs : List Nat) => (cs.zipIdx.filter fun e => e.1 != 0).map fun e => (e.2, e.1)
    let t : Team :=
      { id := { grid := g.idx, team := id }, status := .evicted, ctx := g.ctx, prio := (s.queue g.queue).prio, depth := g.depth,
        gang := grGang r, roles := grRoles r, trap := dw (grTrap r), parea := grParea r, total := grTeams r, lcore := numAt bs 12 1,
        granules := granulesFor (grTileb r), accs := grAcc r, tbar := tab tbar, gbar := tab gbar, tkept := tab tbar, gkept := tab gbar }
    someIf (identPart t gidx n (grTileb r) tbar gbar == bs && decide (id < g.nextT) && decide (id < grTeams r)) (t, n)

/-- The code state; a table that fails R270 or a codebook that fails R78 is a defect. -/
def readCode (t : Team) (bs : List Byte) : Option Team :=
  let slots := numAt bs 0 2
  let books := numAt bs 2 1
  let cb := (List.range 4).foldl (fun (c : Tab (List (BitVec 16))) k =>
    if books.testBit k then Tab.set [] c k ((List.range 16).map fun i => BitVec.ofNat 16 (numAt bs (64 + 32 * k + 2 * i) 2)) else c) []
  let ct := (List.range 15).foldl (fun (c : Tab (List Word)) k =>
    if slots.testBit k then
      let n := min 64 (ctCount (BitVec.ofNat 32 (numAt bs (192 + 320 * k) 4)))
      Tab.set [] c k ((List.range (n + 1)).map fun i => BitVec.ofNat 32 (numAt bs (192 + 320 * k + 4 * i) 4))
    else c) []
  someIf (codePart ct cb == bs && ct.all (fun e => (ctDefect e.2).isNone)
      && cb.all fun e => (badEntry 0 (e.2.map (·.toNat))).isNone) { t with ct := ct, cb := cb }

/-- A descriptor in a handle table is well formed for a team. -/
def descOk (t : Team) (d : Nat) : Bool :=
  d.testBit 63 && !descMalformed (d % 2 ^ 63 - if descB d then d % 2 ^ 34 else 0)
    && (descLV d == 0 || decide (descM d < t.gang))

/-- The bytes of the tile of a descriptor that owns its storage. -/
def descBytes (d : Nat) : Nat := descRows d * descCols d * descEb d

/-- The tiles: of each handle that owns storage, its bytes. -/
def readTiles : List (Nat × Nat × Nat) → List Byte → Option (List (Nat × Nat × Nat × List Byte) × List Byte)
  | [], bs => some ([], bs)
  | (n, d, wp) :: hs, bs =>
    match takeBytes (if descB d then 0 else descBytes d) bs with
    | none => none
    | some (x, bs) => match readTiles hs bs with
      | none => none
      | some (ts, bs) => some ((n, d, wp, x) :: ts, bs)

/-- The handle table and the tile contents. -/
def readHandles (t : Team) (bs : List Byte) : Option (List (Nat × Nat × Nat × List Byte) × List Byte) := do
  let (tab, bs) ← takeBytes 1024 bs
  let all := (List.range 64).map fun n => (n, numAt tab (16 * n) 8, numAt tab (16 * n + 8) 8)
  let hs := all.filter fun h => h.2.1 != 0
  let _ ← someIf (hs.all (fun h => descOk t h.2.1) && all.all fun h => h.2.1 != 0 || h.2.2 == 0) ()
  let n := sumBy (fun (h : Nat × Nat × Nat) => if descB h.2.1 then 0 else descBytes h.2.1) hs
  let (ts, bs) ← readTiles hs bs
  let (pad, bs) ← takeBytes ((64 - n % 64) % 64) bs
  let _ ← someIf (pad.all (· == 0)) ()
  pure (ts, bs)

/-- The number of the command that stands i places from the head of a queue of n, whose next number is given (R291). -/
def seqBack (next n i : Nat) : Nat := (next + (2 ^ 32 - 1) - 1 - n + i) % (2 ^ 32 - 1) + 1

/-- The item and the bytes delivered at a walk position. -/
def walkAt (c j : Nat) : Nat × Nat :=
  let at_ := fun k => bitsAt j (16 * k) 16
  let sum := fun lo => ((List.range (lcNdim c)).drop lo).foldl (fun a k => a + at_ k * countsFrom c lo k) 0
  if lcRec c then (sum 0, 0) else (0, at_ 0 + lcCount c 0 * sum 1)

/-- A lift queue; one that was parked on a page fault goes on from the start of its block (R314). -/
def readQueue (bs : List Byte) : Option (LiftQueue × List Byte) := do
  let (h, bs) ← takeBytes 192 bs
  let x := numAt h 0 8
  let n := bitsAt x 32 8
  let next := numAt h 32 8
  let (cs, bs) ← takeBytes (64 * n) bs
  let cmds := (List.range n).map fun i => ({ seq := seqBack next n i, blk := BitVec.ofNat 512 (numAt cs (64 * i) 64) } : LiftCmd)
  let pos := walkAt (numAt cs 0 64) (numAt h 40 8)
  let q : LiftQueue :=
    { halted := x.testBit 63, parked := x.testBit 62, next := next, done := bitsAt x 0 32,
      err := { code := bitsAt x 48 8, rsn := bitsAt x 40 8, addr := numAt h 8 8, coord := dw (numAt h 16 8), bit := numAt h 24 4 }
      errSeq := numAt h 28 4, cmds := cmds, item := if n = 0 then 0 else pos.1, sent := if n = 0 then 0 else pos.2 }
  let _ ← someIf (queuePart q == h ++ cs && decide (1 ≤ next) && decide (next < 2 ^ 32)) ()
  pure ({ q with parked := false, resumed := q.item != 0 || q.sent != 0 }, bs)

/-- n lift queues, from channel ch on. -/
def readQueues (t : Team) (ch : Nat) : Nat → List Byte → Option (Team × List Byte)
  | 0, bs => some (t, bs)
  | n + 1, bs =>
    match readQueue bs with
    | none => none
    | some (q, bs) => readQueues { t with lift := Tab.set {} t.lift ch q } (ch + 1) n bs

/-- The saved tiles from tile k on, n to go. -/
def readAccTiles (t : Team) (saved k : Nat) : Nat → List Byte → Option (Team × List Byte)
  | 0, bs => some (t, bs)
  | n + 1, bs =>
    if !saved.testBit k then readAccTiles t saved (k + 1) n bs
    else match takeBytes 32768 bs with
      | none => none
      | some (x, bs) => readAccTiles (t.setTile k (tabOf 8192 fun i => BitVec.ofNat 32 (numAt x (4 * i) 4))) saved (k + 1) n bs

/-- The accumulators: a tile that was not saved is invalid (R333). -/
def readAcc (t : Team) (bs : List Byte) : Option (Team × Nat × List Byte) := do
  let (h, bs) ← takeBytes 64 bs
  let saved := numAt h 0 2
  let bad := numAt h 2 2
  let share := 2 ^ t.accs - 1
  let _ ← someIf (h == padTo 64 (toBytes (fields [(16, saved), (16, bad)]) 4) && (saved &&& share) == saved && (bad &&& saved) == bad) ()
  let (t, bs) ← readAccTiles t saved 0 16 bs
  pure ({ t with accBad := BitVec.ofNat 16 (bad ||| (share - saved)) }, saved, bs)

/-- A weight buffer. -/
def readWbuf (bs : List Byte) : Option (WBuf × List Byte) := do
  let (h, bs) ← takeBytes 64 bs
  let (w, bs) ← takeBytes 49152 bs
  let (sc, bs) ← takeBytes 12288 bs
  let (z, bs) ← takeBytes 12288 bs
  let empty := (numAt h 0 1).testBit 4
  let fmt := if empty then 0 else numAt h 0 1 % 16
  let kw := weightRows fmt
  let b := weightBits fmt
  let book := if fmt = 4 then (List.range 16).map fun i => BitVec.ofNat 16 (numAt h (32 + 2 * i) 2) else []
  let head := padTo 32 (toBytes (fields [(4, fmt), (1, bit1 empty)]) 1) ++ padTo 32 (book.map fun x => toBytes x.toNat 2).flatten
  let scales := (List.range 3072).map fun k => numAt sc (4 * k) 4
  let _ ← someIf (head == h && decide (fmt ≤ 8) && (empty || fmt != 0) && scales.all fun e => decide (e < 2 ^ 24)) ()
  let x := ofBytes w
  let m := ofBytes z
  let cell := fun i =>
    let n := i % 384 * kw + i / 384
    if fmt = 4 && m.testBit n then 0 else bitsCell fmt (bitsAt x (b * n) b)
  let scale := fun k =>
    let e := (scales[k]?).getD 0
    let v := if fmt = 4 then e % 2 ^ 16 else e % 256 + e / 2 ^ 16 * 256
    if v = (if fmt = 4 then 0x3F80 else 0x80 * 256 + 127) then 0 else v + 1
  let table := fun n (f : Nat → Nat) => (List.range n).filterMap fun i => if f i = 0 then none else some (i, f i)
  pure (if empty then {} else { fmt := fmt, book := book, scale := table (12 * kw) scale, cell := table (384 * kw) cell }, bs)

/-! ## Pack records -/

/-- A fault record of its words (R372). -/
def readRecord (bs : List Byte) : FaultRec :=
  let c := numAt bs 0 8
  { cause := bitsAt c 0 8, reason := bitsAt c 8 8, lane := bitsAt c 16 8, dcause := bitsAt c 24 8, detail := bitsAt c 32 32,
    addr := dw (numAt bs 8 8), aux := dw (numAt bs 16 8), tpc := dw (numAt bs 24 8), fpc := dw (numAt bs 32 8),
    amask := dw (numAt bs 40 8), count := numAt bs 48 8,
    lanes := (List.range 64).foldl (fun t l => Tab.set 0 t l (dw (numAt bs (56 + 8 * l) 8))) [] }

/-- A table of n 64-bit registers from byte o. -/
def readRegs (bs : List Byte) (o n : Nat) : Tab DWord :=
  (List.range n).foldl (fun t r => Tab.set 0 t r (dw (numAt bs (o + 8 * r) 8))) []

/-- The replay entries of a fixed part, n of them, their operations numbered from id, with their captured operands xs. -/
def readReplay (bs : List Byte) (id n : Nat) (xs : List Byte) : List Replay :=
  (List.range n).map fun i =>
    let o := 1600 + 32 * i
    let lanes := lanesOf (dw (numAt bs (o + 8) 8))
    let a := fun l => numAt xs (1536 * i + 8 * l) 8
    let v := fun l => numAt xs (1536 * i + 512 + 16 * l) 16
    { report := noReport
      op := { id := id + i, ctr := .ld, word := .nop false, fpc := dw (numAt bs o 8), mask := dw (numAt bs (o + 16) 8), replay := true,
              addrs := lanes.map fun l => (l, a l), vals := lanes.map fun l => (l, v l) } }

/-- A pack record of team t; id: the number of its first replayed operation. -/
def readPack (s : State) (g : Grid) (t : Team) (id : Nat) (bs : List Byte) : Option (Pack × List Byte) := do
  let (f, bs) ← takeBytes 5696 bs
  let w := numAt f 8 8
  let nv := bitsAt w 7 7
  let n := numAt f 56 8
  let (vs, bs) ← takeBytes (256 * nv) bs
  let (ls, bs) ← takeBytes (if w.testBit 15 then 8192 else 0) bs
  let (xs, bs) ← takeBytes (1536 * min n 129) bs
  let stale := numAt f 40 8
  let live := ~~~(dw (numAt f 64 8)) &&& dw (2 ^ nv - 1)
  let p : Pack :=
    { id := { grid := t.id.grid, team := t.id.team, role := bitsAt w 0 2, pir := bitsAt w 2 5 }
      status := .saved, priv := (s.queue g.queue).prv, pc := dw (numAt f 0 8)
      sregs := readRegs f 128 64, preds := readRegs f 640 32, live := live
      vregs := (List.range nv).foldl (fun t r =>
        if live.getLsbD r then Tab.set 0 t r (BitVec.ofNat 2048 (numAt vs (256 * r) 256)) else t) []
      em := dw (numAt f 16 8), mode := BitVec.ofNat 15 (numAt f 24 8), fflags := BitVec.ofNat 8 (numAt f 32 8)
      staleCount := BitVec.ofNat 16 (bitsAt stale 16 16), staleFirst := BitVec.ofNat 6 (bitsAt stale 8 6), staleSeen := stale.testBit 0
      xv := (List.range 64).foldl (fun t l => Tab.set 0x80 t l (BitVec.ofNat 8 (numAt f (896 + l) 1))) []
      h := w.testBit 14, latchTag := if w.testBit 15 then some (if w.testBit 16 then 32 else 0) else none
      latch := if w.testBit 15 then (List.range 32).map fun r => BitVec.ofNat 2048 (numAt ls (256 * r) 256) else []
      atPpt := w.testBit 17, liveSet := BitVec.ofNat 16 (numAt f 48 8)
      frame := { s59 := dw (numAt f 960 8), s60 := dw (numAt f 968 8), s61 := dw (numAt f 976 8), s62 := dw (numAt f 984 8),
                 s63 := dw (numAt f 992 8), em := dw (numAt f 1000 8), mode := BitVec.ofNat 15 (numAt f 1008 8) }
      pend := readRecord (f.drop 1024), replay := readReplay f id n xs }
  let r := roleOf t p
  let _ ← someIf (packFixed p nv (w.testBit 18) == f && decide (n ≤ 128) && r.vregs == nv && decide (p.id.role < t.roles.length)
    && decide (p.id.pir < r.packs)) ()
  pure (p, bs)

/-- n pack records of team t. -/
def readPacks (s : State) (g : Grid) (t : Team) (id : Nat) : Nat → List Byte → Option (List Pack × List Byte)
  | 0, bs => some ([], bs)
  | n + 1, bs =>
    match readPack s g t id bs with
    | none => none
    | some (p, bs) => match readPacks s g t id n bs with
      | none => none
      | some (ps, bs) => some (p :: ps, bs)

/-- Tiles that packs retired before the freeze keep (R333): those saved, where a matrix pack has no record (log 42). -/
def keptBefore (t : Team) (ps : List Pack) (saved : Nat) : BitVec 16 :=
  let all := sumBy (fun r => if r.kind = .matrix then r.packs else 0) t.roles
  if (ps.filter fun p => (roleOf t p).kind == .matrix).length < all then BitVec.ofNat 16 saved else 0

/-- A team record with its packs. -/
def readTeam (s : State) (gs : List Grid) (id : Nat) (bs : List Byte) : Option (FeltTeam × List Byte) := do
  let (i, bs) ← takeBytes 64 bs
  let (t, n) ← readIdent s gs i
  let g ← gs.find? fun g => g.idx == t.id.grid
  let (c, bs) ← takeBytes 4992 bs
  let t ← readCode t c
  let (ts, bs) ← readHandles t bs
  let (t, bs) ← readQueues t 0 8 bs
  let (t, saved, bs) ← readAcc t bs
  let (a, bs) ← readWbuf bs
  let (b, bs) ← readWbuf bs
  let (ps, bs) ← readPacks s g t id n bs
  let _ ← someIf (decide (ps.map (·.id)).Nodup) ()
  pure ({ team := { t with active := a, shadow := b, keep := keptBefore t ps saved }, packs := ps, tiles := ts }, bs)

/-- n records, read one after the other. -/
def readMany (f : Nat → List Byte → Option (α × List Byte)) (k : Nat) : Nat → List Byte → Option (List α × List Byte)
  | 0, bs => some ([], bs)
  | n + 1, bs =>
    match f k bs with
    | none => none
    | some (a, bs) => match readMany f (k + 1) n bs with
      | none => none
      | some (as, bs) => some (a :: as, bs)

/-! ## Tiles in their new places (R206) -/

/-- Teams with team id changed by f. -/
def onTeamIn (ts : List Team) (id : TeamId) (f : Team → Team) : List Team := replaceFirst (fun t => t.id == id) f ts

/-- Tile n of team t takes its storage, numbered sid, where its owner is among the teams; first fit. -/
def placeTile (ts : List Team) (t : Team) (sid : Nat) (x : Nat × Nat × Nat × List Byte) : Option (List Team) :=
  let d := x.2.1
  let own := t.storeOf d
  let h : Handle := { desc := dw d, store := own, sid := sid, rows := descRows d, cols := descCols d, eb := descEb d }
  let named := fun ts => onTeamIn ts t.id fun t => { t with handles := Tab.set none t.handles x.1 (some h) }
  match ts.find? fun m => m.id == own with
  | none => some (named ts)
  | some m =>
    let len := granulesFor (descBytes d)
    match firstFit m.busyRuns m.granules len 0 (m.granules + 1) with
    | none => none
    | some k => some (named (onTeamIn ts own fun m =>
        { m with allocs := m.allocs ++ [{ sid := sid, start := k, len := len, wp := x.2.2.1, owner := t.id }],
                 tmem := memWrite m.tmem (1024 * k) x.2.2.2 }))

/-- Every tile that owns storage takes it. -/
def placeTiles (ts : List Team) (sid : Nat) : List (Team × Nat × Nat × Nat × List Byte) → Option (List Team)
  | [] => some ts
  | (t, x) :: xs =>
    match (if descB x.2.1 then some ts else placeTile ts t sid x) with
    | none => none
    | some ts => placeTiles ts (sid + 1) xs

/-- A binding names the storage of its target, or storage that no team holds any longer. -/
def bindTile (ts : List Team) (t : Team) (x : Nat × Nat × Nat × List Byte) : List Team :=
  let d := x.2.1
  if !descB d then ts
  else
    let own := t.storeOf d
    let target := (ts.find? fun m => m.id == own).bind fun m => m.handle (descK d)
    let h : Handle := match target with
      | some k => { desc := dw d, store := own, sid := k.sid, rows := k.rows, cols := k.cols, eb := k.eb }
      | none => { desc := dw d, store := own, sid := 0, rows := descRows d, cols := descCols d, eb := descEb d }
    onTeamIn ts t.id fun t => { t with handles := Tab.set none t.handles x.1 (some h) }

/-- The write pointer of handle n of a team. -/
def writePtr (ts : List Team) (t : Team) (n : Nat) : Nat :=
  match t.handle n with
  | none => 0
  | some h => (((ts.find? fun m => m.id == h.store).bind fun m => m.allocs.find? fun a => a.sid == h.sid).map (·.wp)).getD 0

/-- The bytes that a record copy has delivered, by the write pointer of its destination (R206, R314). -/
def LiftQueue.fromPtr (q : LiftQueue) (ts : List Team) (t : Team) : LiftQueue :=
  match q.cmds with
  | [] => q
  | c :: _ =>
    let c := c.blk.toNat
    if !lcRec c || lcOp c ≠ 0 || q.halted || q.item = 0 then q
    else match (t.namedBy c).filterMap fun k => ts.find? fun m => m.id == k with
      | [] => q
      | m :: _ => { q with sent := writePtr ts m (lcDH c) - lcDoff c }

/-- The teams of a felt, linked. -/
def linkTeams (sid : Nat) (fs : List FeltTeam) : Option (List Team) :=
  let xs := (fs.map fun f => f.tiles.map fun x => (f.team, x)).flatten
  (placeTiles (fs.map (·.team)) sid xs).map fun ts =>
    let ts := xs.foldl (fun ts e => bindTile ts e.1 e.2) ts
    ts.map fun t => { t with lift := t.lift.map fun e => (e.1, e.2.fromPtr ts t) }

/-! ## The whole felt (R396) -/

/-- What a felt holds. -/
structure Felt where
  gtcf   : Nat
  queues : List FeltQueue
  grids  : List Grid
  teams  : List Team
  packs  : List Pack
  dlogP  : Nat
  dlogC  : Nat
  dlogEn : Bool
  dlogOvf : Bool
  /-- the numbers that its grids, storage and operations take -/
  taken  : Nat

/-- The body of a felt after its header; base: the first number free on the target. -/
def readBody (s : State) (ctx : Nat) (h body : List Byte) : Option Felt := do
  let base := s.serial
  let gtcf := numAt h 16 8
  let ng := numAt h 36 4
  let nq := numAt h 32 4
  let nt := numAt h 40 4
  let _ ← someIf (decide (nq ≤ 64) && numAt h 0 2 == ctx && bitsAt (numAt h 0 8) 16 9 == 0 && decide (ofBytes (h.drop 52) = 0)
    && decide (320 * ng + nt ≤ body.length)) ()
  let (qs, bs) ← readMany (fun _ bs => do
    let (x, bs) ← takeBytes 64 bs
    let q ← readQueueRec x
    pure (q, bs)) 0 nq body
  let (gs, bs) ← readMany (fun k bs => do
    let (x, bs) ← takeBytes 320 bs
    let g ← readGridRec s ctx base k ng (gtcf + s.eps) x
    pure (g, bs)) 0 ng bs
  let id := base + ng
  let (fs, bs) ← readMany (fun _ bs => readTeam s gs id bs) 0 nt bs
  let tiles := sumBy (fun f => f.tiles.length) fs
  let ts ← linkTeams (id + 128) fs
  let ps := (fs.map (·.packs)).flatten
  let _ ← someIf (bs.isEmpty && ps.length == numAt h 44 4 && decide (ts.map (·.id)).Nodup) ()
  pure { gtcf := gtcf, queues := qs, grids := gs, teams := ts, packs := ps, dlogP := numAt h 24 4, dlogC := numAt h 28 4
         dlogEn := (numAt h 0 8).testBit 27, dlogOvf := (numAt h 0 8).testBit 26, taken := ng + 128 + tiles }

/-- The resumed grids whose code-table preload is yet to be read, and waits for no answer (R345). -/
def State.preGrids (s : State) (ctx : Nat) : List Grid := s.grids.filter fun g => g.ctx == ctx && g.preDue && g.preOn.isNone

/-- The preloads of a context's resumed grids are read from its memory (R345, R396). -/
def State.readPreloads (s : State) (ctx : Nat) : State := (s.preGrids ctx).foldl State.fillPreload s

/-- A queue of the felt, or its context, is busy on the target (R396). -/
def State.feltBusy (s : State) (ctx : Nat) (qs : List FeltQueue) : Bool :=
  qs.any (fun q => (s.queue q.q).en || (s.queue q.q).ctx != ctx) || !(s.teamsIn ctx).isEmpty

/-- The dirty log of a resumed context (R398). -/
def Ctx.resumeLog (c : Ctx) (f : Felt) (base : DWord) : Ctx :=
  let c := if f.dlogEn && dlogSizeOk base then c.takeRing base else c
  { c with dlogP := BitVec.ofNat 32 f.dlogP, dlogC := BitVec.ofNat 32 f.dlogC, dlogOvf := f.dlogOvf,
           dlogEn := f.dlogEn && dlogSizeOk base }

/-- A queue receives HEAD, its slice and its EN (R397 step 1), and its root grids take their places in its ring. -/
def State.resumeQueue (s : State) (gs : List Grid) (q : FeltQueue) : State :=
  let s := s.onHQueue q.q fun k =>
    { k with
      desc := setBitsOf (setBitsOf k.desc 223 192 q.head) 100 100 (bit1 q.en)
      slice := if k.sliceUs = 0 then 0 else (k.sliceUs * 1000 : Nat) - (q.left : Int)
      since := s.gtc
      order := k.order ++ sortBy (fun i => i) ((gs.filter fun g => g.queue == q.q && g.parent.isNone).map (·.index)) }
  if q.en then s.push [.launchRecordRead q.q] else s

/-- The context of an accepted felt joins the machine (R397). -/
def State.adopt (s : State) (ctx : Nat) (w : FrzWork) (f : Felt) : State :=
  let s := f.queues.foldl (fun s q => s.resumeQueue f.grids q) s
  let s : State :=
    { s with
      serial := s.serial + f.taken
      grids := s.grids ++ f.grids
      teams := s.teams ++ f.teams
      packs := s.packs ++ f.packs }
  let s := s.onCtx ctx fun c =>
    { c.resumeLog f w.dlogbase with closed := false, groups := [], notBefore := f.gtcf + s.eps }
  (s.onFrz ctx fun w => { w with phase := 1, gtcf := f.gtcf }).push [.resume ctx]

/-- What a read of the felt brings: bytes, a wait, or a failure. -/
def State.feltRead (s : State) (ctx : Nat) (w : FrzWork) (n : Nat) (k : State → List Byte → State) : State :=
  match s.homeRead (feltReader ctx) 0 w.ictx [((w.felt : Int), n)] with
  | (.ok bs, s) => k s bs
  | (.wait, s) => s
  | (_, s) => (s.dropFetched (feltReader ctx)).endFrz ctx 0x107

/-- Work that fits without eviction is placed, at most n units. -/
def State.placeAll (s : State) : Nat → State
  | 0 => s
  | n + 1 =>
    match s.choice with
    | none => s
    | some c => if c.2.victims.isEmpty then (s.place c.1 c.2).placeAll n else s

/-- From GTCF + ε on, the launch unit places the resumed teams, as far as they fit (R397 steps 2 and 3). -/
def State.placeResumed (s : State) (ctx : Nat) (w : FrzWork) : State :=
  let s := s.waitUntil (w.gtcf + s.eps)
  ((s.placeAll (s.teamsIn ctx).length).kick).endFrz ctx 1

/-- RESUME: the felt is read and checked in the order of its completion values (R396), and its context adopted and
placed (R397). -/
def execResume (ctx : Nat) (s : State) : Result :=
  .next (match (s.ctx ctx).frz with
    | none => s
    | some w =>
      if !w.isResume then s
      else if w.phase = 1 then s.placeResumed ctx w
      else if w.phase ≠ 0 then s
      else s.feltRead ctx w 128 fun s h =>
        let v := numAt h 0 8
        let stop := fun (s : State) v => (s.dropFetched (feltReader ctx)).endFrz ctx v
        if bitsAt v 48 16 ≠ 0xF317 || decide (1 < bitsAt v 40 8) || bitsAt v 32 8 ≠ 64 then stop s 0x103
        else s.feltRead ctx w (numAt h 8 8) fun s bs =>
          let image := bs.take 48 ++ ((bs.drop 48).take 4).map (fun _ => 0) ++ bs.drop 52
          if crc32 image ≠ numAt h 48 4 then stop s 0x104
          else if bs.length < 128 then stop s 0x105
          else match readBody s ctx h (bs.drop 128) with
            | none => stop s 0x105
            | some f =>
              if s.feltBusy ctx f.queues then stop s 0x106
              else ((s.dropFetched (feltReader ctx)).adopt ctx w f).readPreloads ctx)

/-- RESUME_PLACE (R397). -/
def execResumePlace (ctx : Nat) (s : State) : Result :=
  .next (match (s.ctx ctx).frz with
    | none => s
    | some w => if w.isResume && w.phase == 1 then s.placeResumed ctx w else s)

end Sys2Proof.Machine
end

