-- ==== Sys2Proof/Machine/Hostside.lean ====
section
/-! DEFINITION. Host attachment (R432-R436, R485), boot and reset (R437, R438), HBM4E (R439, R440), power, cooling and the
management bus (R441-R443). -/

namespace Sys2Proof.Machine

/-! ## Queue descriptors written by the host (R337, R340, R435) -/

/-- The fields of a queue descriptor but TAIL and EN that the host writes; the RES bits of CRING among the rest stay 0 (R9, R435). -/
def descFields : List (Nat × Nat) := [(319, 307), (287, 256), (127, 101), (99, 99), (95, 0)]

/-- x with the listed fields of y. -/
def withFields (x y : BitVec n) (fs : List (Nat × Nat)) : BitVec n :=
  fs.foldl (fun x f => setBitsOf x f.1 f.2 (bitsOf y f.1 f.2)) x

/-- The completion ring of a queue fits, so that EN may be set (R435). -/
def State.ringFits (s : State) (k : HQueue) : Bool :=
  k.cring == 0 ||
    (decide (k.logsz ≤ bitsAt k.cring 59 5) && (s.conn k.conn).getLsbD 64
      && decide (32 * bitsAt k.cring 0 32 + 32 * 2 ^ bitsAt k.cring 59 5 ≤ bitsOf (s.conn k.conn) 159 128))

/-- Every write that the host, or another device, has made reaches its WCT (R259). -/
def State.settleHost (s : State) : State :=
  s.l2.foldl (fun s h => (h.pend.filter fun w => w.by_.isNone && !w.lift).foldl (fun s w => s.waitUntil w.wct) s) s

/-- A write of TAIL: ignored where the queue would hold more records than its ring; else the doorbell (R337). -/
def State.writeTail (s : State) (q tail : Nat) : State :=
  let k := s.queue q
  if 2 ^ k.logsz < (tail + 2 ^ 32 - k.head) % 2 ^ 32 then s
  else
    let s := s.settleHost.onHQueue q fun k => { k with desc := setBitsOf k.desc 159 128 tail }
    if k.en then s.push [.launchRecordRead q] else s

/-- EN is written as 1: ignored where R435 says so. -/
def State.enableQueue (s : State) (q : Nat) : State :=
  let k := s.queue q
  if k.en || !s.ringFits k then s
  else (s.onHQueue q fun k => { k with desc := setBitsOf k.desc 100 100 1, since := s.gtc }).push [.launchRecordRead q]

/-- A host write of descriptor q: x with the bytes written, and whether they take in TAIL and EN (R340). -/
def State.writeDesc (s : State) (q : Nat) (x : BitVec 512) (tail en : Bool) : State :=
  let k := s.queue q
  let s := if k.en then s else (s.countSlice q).onHQueue q fun k => { k with desc := withFields k.desc x descFields }
  let s := if tail then s.writeTail q (bitsOf x 159 128) else s
  if !en then s
  else if x.getLsbD 100 then s.enableQueue q
  else if k.en then (s.disableQueue q).kick
  else s

/-! ## The other records of the control region (R377, R434) -/

/-- A host write of the fault-queue locator (R377, R379). -/
def State.writeLocator (s : State) (x : BitVec 512) : State :=
  let s : State := { s with fq := withFields s.fq x [(255, 224), (159, 128), (119, 64), (47, 0)] }
  let s := s.postWaiting (s.waiting.length + 1)
  if bitsOf s.fq 119 116 < 4 then s else s.settleHost.runRing ((bitsOf s.fq 255 224 + 2 ^ 32 - bitsOf s.fq 223 192) % 2 ^ 32)

/-- The held records of a connection in force are sent again, those that waited behind them written, and grids that waited for them
retire (R436). -/
def State.resend (s : State) (c : Nat) : State :=
  if !(s.conn c).getLsbD 64 || s.down.contains c then s
  else
    let mine := s.heldRecs.filter fun r => r.conn == c
    let s : State := { s with heldRecs := s.heldRecs.filter fun r => r.conn != c }
    let s := mine.foldl (fun s r => s.emit (.record r)) s
    let s := (s.queues.map (·.1)).foldl (fun s q => if (s.queue q).conn = c then s.flushQueue q else s) s
    s.push ((s.grids.filter fun g => g.parent.isNone && (s.queue g.queue).conn == c).map fun g => .gridRetire g.idx)

/-- A host write of connection entry c; live: it takes in V. V of entry 0 ignores writes (R434). An entry set in force again
after a failure takes records again. -/
def State.writeConn (s : State) (c : Nat) (x : BitVec 256) (live : Bool) : State :=
  let e := withFields (s.conn c) x ([(255, 104), (65, 65)] ++ if c = 0 then [] else [(64, 64)])
  let s : State := { s with conns := Tab.set 0 s.conns c e }
  if live && e.getLsbD 64 then ({ s with down := s.down.filter (· != c) } : State).resend c else s

/-- The bytes of the control region from offset o, as the device holds them (R434). -/
def State.controlByte (s : State) (o : Nat) : Byte :=
  if o < 4096 then byteAt (s.queue (o / 64)).desc.toNat (o % 64)
  else if o < 4160 then byteAt s.fq.toNat (o - 4096)
  else if 8192 ≤ o && o < 16384 then byteAt (s.conn ((o - 8192) / 32)).toNat (o % 32)
  else 0

/-- The record of n bytes at offset o, with the bytes data written from offset off. -/
def State.overlay (s : State) (o n off : Nat) (data : List Byte) : List Byte :=
  (List.range n).map fun i => if off ≤ o + i && o + i < off + data.length then (data[o + i - off]?).getD 0 else s.controlByte (o + i)

/-- A write from off for n bytes takes in a byte of those from a to b. -/
def touches (off n a b : Nat) : Bool := decide (off ≤ b) && decide (a < off + n)

/-- A host write to the control region; bytes beyond its tables are discarded (R434). -/
def State.controlWrite (s : State) (off : Nat) (data : List Byte) : State :=
  let n := data.length
  let s := (List.range 256).foldl (fun (s : State) c =>
    let o := 8192 + 32 * c
    if touches off n o (o + 31) then s.writeConn c (BitVec.ofNat 256 (ofBytes (s.overlay o 32 off data))) (touches off n (o + 8) (o + 8)) else s) s
  let s := (List.range 64).foldl (fun (s : State) q =>
    let o := 64 * q
    if touches off n o (o + 63) then
      s.writeDesc q (BitVec.ofNat 512 (ofBytes (s.overlay o 64 off data))) (touches off n (o + 16) (o + 19)) (touches off n (o + 12) (o + 12))
    else s) s
  if touches off n 4096 4159 then s.writeLocator (BitVec.ofNat 512 (ofBytes (s.overlay 4096 64 off data))) else s

/-- TAIL_DOORBELL (R337). -/
def execTailDoorbell (q : Nat) (tail : Word) (s : State) : Result := queueEvent q s fun s => s.writeTail q tail.toNat
/-- QUEUE_ENABLE (R435). -/
def execQueueEnable (q : Nat) (s : State) : Result := queueEvent q s fun s => s.enableQueue q
/-- QUEUE_DISABLE (R340). -/
def execQueueDisable (q : Nat) (s : State) : Result :=
  queueEvent q s fun s => if (s.queue q).en then (s.disableQueue q).kick else s
/-- REGISTER_WRITE: a host write to the control region (R434). -/
def execRegisterWrite (off : Nat) (data : List Byte) (s : State) : Result := .next (s.controlWrite off data)

/-- What the queue unit reads again: the record of an enabled queue, and the wait words of its grids (R338, R339). -/
def State.pollEvents (s : State) (q : Nat) : List Instr :=
  let k := s.queue q
  (if k.en && k.head != k.tail && k.wait.isNone then [.launchRecordRead q] else [])
    ++ (if s.grids.any fun g => g.queue == q && g.waits then [.waitConditionRead q] else [])

/-- QUEUE_POLL_TIMER (R338, R339). -/
def execQueuePollTimer (q : Nat) (s : State) : Result := queueEvent q s fun s => s.push (s.pollEvents q)

/-! ## Completion records (R436) -/

/-- COMPLETION_RECORD_RESEND. -/
def execCompletionRecordResend (conn : Nat) (s : State) : Result := .next (s.resend conn)

/-- The record written on a connection k records before the latest. -/
def sentRecord (c k : Nat) (out : List Out) : Option CompRec :=
  (out.reverse.filterMap fun o => match o with
    | .record r => if r.conn = c then some r else none
    | _ => none)[k]?

/-- INDEX of a record. -/
def CompRec.index (r : CompRec) : Nat := bitsOf r.rec_ 31 0

/-- Record r among those held, before the later ones of its queue (R436). -/
def holdRecord (r : CompRec) : List CompRec → List CompRec
  | [] => [r]
  | h :: hs => if h.queue = r.queue && decide ((h.index + 2 ^ 32 - r.index) % 2 ^ 32 < 2 ^ 31) then r :: h :: hs else h :: holdRecord r hs

/-- Beyond 64 held records of a connection the last one waits to be written, as it did before (R436, log 43). -/
def State.spillRecord (s : State) (c : Nat) : State :=
  let mine := s.heldRecs.filter fun r => r.conn == c
  match mine.getLast? with
  | none => s
  | some r =>
    if mine.length ≤ 64 then s
    else
      ({ s with heldRecs := s.heldRecs.filter (· != r) } : State).onHQueue r.queue fun k =>
        { k with order := r.index :: k.order, ready := k.ready ++ [(r.index, r.rec_)] }

/-- COMPLETION_RECORD_NAK: the record it names is held. -/
def execCompletionRecordNak (which : RecordRef) (s : State) : Result :=
  .next (match sentRecord which.conn which.back (s.out.drop s.past) with
    | none => s
    | some r => if s.heldRecs.contains r then s else ({ s with heldRecs := holdRecord r s.heldRecs } : State).spillRecord which.conn)

/-- CONNECTION_FAILURE: its records are held until it is in force again. -/
def execConnectionFailure (conn : Nat) (s : State) : Result :=
  .next (if s.down.contains conn then s else { s with down := insertBy (fun x => x) conn s.down })

/-! ## Host accesses (R432, R433, R485) -/

/-- The context that a memory key names (R433). -/
def keyContext (key : Nat) : Option Nat :=
  if key % 2 ^ 16 = 0 && 1 ≤ key / 2 ^ 16 && key / 2 ^ 16 ≤ 0xFFFE then some (key / 2 ^ 16) else none

/-- Whether the page of a line takes a host access: present, well formed, permitted, and the device's own (R433). -/
def State.hostMay (s : State) (ctx line : Nat) (wr : Bool) : Bool × State :=
  match s.findLine ctx line with
  | (.home h, s) => (if wr then h.perm.w else h.perm.r, s)
  | (.channel x _, s) => (if wr then x.perm.w else x.perm.r, s)
  | (_, s) => (false, s)

/-- Every line takes the access. -/
def State.hostMayAll (s : State) (ctx : Nat) (wr : Bool) : List Nat → Bool × State
  | [] => (true, s)
  | l :: ls =>
    match s.hostMay ctx l wr with
    | (true, s) => s.hostMayAll ctx wr ls
    | r => r

/-- A physical-memory access is granted: on connection 0, within the populated memory (R433). -/
def State.physMay (s : State) (conn addr n : Nat) : Bool := conn == 0 && decide (addr + n ≤ s.capacity)

/-- A host write at the channel of its frames (R485): a line wholly written loses its poison. -/
def State.physWrite (s : State) (addr : Nat) (data : List Byte) : State :=
  (lineSpan addr data.length).foldl (fun s l =>
    let lo := max addr (128 * l)
    let hi := min (addr + data.length) (128 * l + 128)
    (s.activate (128 * l)).channelStore (128 * l) ((List.range (hi - lo)).map fun k => (lo + k - 128 * l, (data[lo + k - addr]?).getD 0))) s

/-- A host write to pages of a context, which have been checked. -/
def State.virtWrite (s : State) (ctx va : Nat) (data : List Byte) : State :=
  (lineSpan va data.length).foldl (fun s l =>
    let lo := max va (128 * l)
    let hi := min (va + data.length) (128 * l + 128)
    (s.storeLine ctx l ((List.range (hi - lo)).map fun k => (lo + k - 128 * l, (data[lo + k - va]?).getD 0)) false none).2) s

/-- RDMA_WRITE: a write that any line of it refuses is answered with a NAK and writes nothing (log 43). -/
def execRdmaWrite (conn : Nat) (key : Word) (addr : Nat) (data : List Byte) (s : State) : Result :=
  .next (
    if key = 0xFFFF0001 then (s.controlWrite addr data).emit (.ack conn)
    else if key = 0xFFFF0002 then
      if s.physMay conn addr data.length then (s.physWrite addr data).emit (.ack conn) else s.emit (.nakAccess conn)
    else match keyContext key.toNat with
      | none => s.emit (.nakAccess conn)
      | some ctx =>
        if 2 ^ 45 < addr + data.length then s.emit (.nakAccess conn)
        else match s.hostMayAll ctx true (lineSpan addr data.length) with
          | (true, s) => (s.virtWrite ctx addr data).emit (.ack conn)
          | (false, s) => s.emit (.nakAccess conn))

/-- The bytes that a host read of a context's pages returns; a poisoned line refuses it (log 43). -/
def State.virtRead (s : State) (ctx va n : Nat) : List Nat → Option (List Byte) × State
  | [] => (some [], s)
  | l :: ls =>
    match s.channelLoad ctx l with
    | (.data d, s) =>
      let lo := max va (128 * l)
      let hi := min (va + n) (128 * l + 128)
      (match s.virtRead ctx va n ls with
        | (some bs, s) => (some ((List.range (hi - lo)).map (fun k => lineByte d (lo + k - 128 * l)) ++ bs), s)
        | r => r)
    | (_, s) => (none, s)

/-- RDMA_READ. -/
def execRdmaRead (conn : Nat) (key : Word) (addr len : Nat) (s : State) : Result :=
  .next (
    if key = 0xFFFF0001 then s.emit (.readReply conn ((List.range len).map fun i => s.controlByte (addr + i)))
    else if key = 0xFFFF0002 then
      if s.physMay conn addr len then
        ((lineSpan addr len).foldl (fun s l => s.activate (128 * l)) s).emit (.readReply conn (memBytes s.hbm addr len))
      else s.emit (.nakAccess conn)
    else match keyContext key.toNat with
      | none => s.emit (.nakAccess conn)
      | some ctx =>
        if 2 ^ 45 < addr + len then s.emit (.nakAccess conn)
        else match s.virtRead ctx addr len (lineSpan addr len) with
          | (some bs, s) => s.emit (.readReply conn bs)
          | (none, s) => s.emit (.nakAccess conn))

/-- INVALID_REQUEST_NAK (R432). -/
def execInvalidRequestNak (conn : Nat) (s : State) : Result := .next (s.emit (.nakInvalid conn))

/-! ## Boot and reset (R437-R439) -/

/-- TDP of the part, in watts (R31). -/
def State.tdp (s : State) : Nat := s.part.tdp

/-- What the world outside the machine does: host, management controller, other devices, switches and the physical world. A reset
leaves what of it is still to come (log 57). -/
def isInput (i : Instr) : Bool :=
  match i with
  | .registerWrite .. | .tailDoorbell .. | .queueEnable .. | .queueDisable .. | .rdmaWrite .. | .rdmaRead .. | .invalidRequestNak ..
  | .completionRecordNak .. | .connectionFailure .. | .completionRecordResend .. | .packetAccept .. | .flitCrcRetry ..
  | .linkLaneFail .. | .linkDown .. | .vlPause .. | .routeTableInstall .. | .routeTableSwitchover .. | .routeTableRetire ..
  | .switchWriteback .. | .skewMeasure .. | .eccRetry .. | .coldReset | .bootImageReceive .. | .thermalThrottle ..
  | .thermalRelease .. | .thermalTrip | .mgmtReadStatus | .mgmtReadCap | .mgmtWriteCap .. | .mgmtReadRowThreshold
  | .mgmtWriteRowThreshold .. | .mgmtWarmReset | .modulePowerOff => true
  | _ => false

/-- What a reset leaves of the machine beside its reset state: the part, the module flash, the stacks' serial numbers, the inputs
still to come, and the model's own fields (R438, log 57). -/
def State.afterReset (s : State) : State :=
  { State.resetOf s.part with
    fused := s.fused, serials := s.serials, flash := s.flash, out := s.out, past := s.out.length, pace := s.pace, free := s.free
    agenda := s.agenda.filter isInput, turns := s.turns }

/-- The stacks' serial numbers by site (R17). -/
def State.sites (s : State) : List Nat :=
  match s.part with
  | .a64 => List.range 12
  | .a48 => [0, 1, 3, 4, 6, 7, 9, 10, 11]

/-- The CRC-32 of training results. -/
def trainCrc (ts : List Training) : Word := Config.trainingCrc (ts.map fun t => (t.site, t.serial, t.delays, t.refs))

/-- Full training of every populated stack: what it finds is free, and is written to the module flash (R439). -/
def State.train (s : State) : State :=
  let ts := s.sites.zipIdx.map fun k =>
    ({ site := k.1, serial := Tab.get 0 s.serials k.1, delays := Config.freeValue (s.free + 2 * k.2)
       refs := Config.freeValue (s.free + 2 * k.2 + 1) } : Training)
  { s with training := ts, flash := some (ts, trainCrc ts), free := s.free + 2 * s.sites.length }

/-- The flash holds results of the stacks that are there, with the right CRC (R439). -/
def State.flashGood (s : State) : Bool :=
  match s.flash with
  | none => false
  | some (ts, c) =>
    ts.map (fun t => (t.site, t.serial)) == (s.sites.map fun k => (k, Tab.get 0 s.serials k)) && c == trainCrc ts

/-- Restoring the results of the flash; where they do not match, full training (R439). -/
def State.retrain (s : State) : State := if s.flashGood then { s with training := (s.flash.map (·.1)).getD [] } else s.train

/-- COLD_RESET (R438, R443). -/
def execColdReset (s : State) : Result := .next s.afterReset

/-- MGMT_WARM_RESET: counters, flash and HBM4E contents stay, and the training results are restored from the flash where its
serial numbers and its CRC match, else found anew (R438, R439). A module without power has no state to warm, and starts cold (R443). -/
def execMgmtWarmReset (s : State) : Result :=
  .next
    (if s.boot = .off then s
    else
      ({ s.afterReset with
        hbm := s.hbm
        count := s.count
        cores := s.cores.foldl (fun t e => Tab.set {} t e.1 { count := e.2.count }) []
        ctxs := s.ctxs.foldl (fun t e => Tab.set {} t e.1 { stale := e.2.stale }) [] } : State).retrain)

/-- MODULE_POWER_OFF: running work is lost (R442); the next power-up is a cold reset. -/
def execModulePowerOff (s : State) : Result := .next { s.afterReset with boot := .off }

/-- The largest image (R437). -/
def imageMax : Nat := 64 * 2 ^ 20

/-- BOOT_IMAGE_RECEIVE: an image that passes the checks of the boot ROM runs, and its connection is entry 0 (R434, R437); the
queue pair and the port that the device fills in are free values. After a cold reset it trains the stacks (R439). -/
def execBootImageReceive (image : List Byte) (s : State) : Result :=
  .next (
    if s.boot ≠ .waiting && s.boot ≠ .refused then s
    else if imageMax < image.length then s
    else if !Config.imageAccepted image then { s with boot := .refused }
    else
      let f := s.takeFree
      let e := setBitsOf (setBitsOf (setBitsOf (s.conn 0) 127 104 f.1.toNat) 65 65 (f.1.toNat / 2 ^ 24)) 64 64 1
      let s : State := { f.2 with boot := .running, conns := Tab.set 0 s.conns 0 e }
      if s.training.isEmpty then s.train else s)

/-- HBM_RECALIBRATE: only latency shows it (R439). -/
def execHbmRecalibrate (s : State) : Result := .next s

/-! ## Row activation (R440) -/

/-- The rows of a bank whose counts have reached the threshold count from 0 again (R440). -/
def State.resetRows (s : State) (bank : Nat) : State :=
  { s with acts := s.acts.filter fun a => !((Config.dramRow a).1 == bank && decide (s.rowThreshold ≤ s.rowCount (Config.dramRow a))) }

/-- ROW_ACTIVATION_ALERT: a row's count has reached the threshold: the controller raises an alert, resets the count and holds the
bank in back-off; one that comes during a back-off begins when that ends (R440). -/
def execRowActivationAlert (bank : Nat) (s : State) : Result :=
  let s := ((s.resetRows bank).emit (.rowAlert bank)).endBackoffs
  .next (if s.backoff.any fun b => b.1 == bank then { s with again := insertBy (fun x => x) bank (s.again.filter (· != bank)) }
    else s.beginBackoff bank s.gtc)

/-- BACKOFF_END: a bank that reached its threshold again begins a second back-off. -/
def execBackoffEnd (bank : Nat) (s : State) : Result :=
  .next (match s.backoff.find? fun b => b.1 == bank with
    | none => s
    | some b => (s.waitUntil b.2).endBackoff bank)

/-! ## Power, cooling and management (R441-R443) -/

/-- The highest operating point of a core island, in steps of 125 MHz from 32 down to 8, whose current fits a grant. -/
def clockFor (grant : Nat) : Nat :=
  (((List.range 25).map fun k => 32 - k).find? fun k => decide (Config.islandCurrent k ≤ grant)).getD 8

/-- The clock of core c's island becomes k, and it is held or not; the clock before it is kept for what counts cc (R98, R442). -/
def State.setClock (s : State) (c k : Nat) (hot : Bool) : State :=
  s.onCore c fun x => { x with clock := k, hot := hot, clocks := if x.clock = k then x.clocks else x.clocks ++ [(s.gtc, x.clock)] }

/-- POWER_ARBITER_GRANT: the 16 islands of the base dies, the fabric, the ports and the memory receive their demand; the rest of
the cap goes to the core islands in proportion to their demand, by core number, and each takes the clock that its grant allows; a
hot island stays at 1.0 GHz (R441, R442). -/
def execPowerArbiterGrant (bases demand : List Nat) (s : State) : Result :=
  let rest := s.cap - (bases.take 16).foldl (· + ·) 0
  let total := demand.foldl (· + ·) 0
  let s : State := { s with grants := (bases.take 16).zipIdx.foldl (fun g b => Tab.set 0 g (72 + b.2) b.1) s.grants }
  .next (demand.zipIdx.foldl (fun (s : State) (d : Nat × Nat) =>
    if s.working d.2 then
      let g := rest * d.1 / max 1 total
      let c := s.core d.2
      ({ s with grants := Tab.set 0 s.grants d.2 g } : State).setClock d.2 (if c.hot then 8 else clockFor g) c.hot
    else s) s)

/-- THERMAL_THROTTLE (R442). -/
def execThermalThrottle (core : Nat) (s : State) : Result := .next (s.setClock core 8 true)
/-- THERMAL_RELEASE: the hold ends; the next grant sets the clock. -/
def execThermalRelease (core : Nat) (s : State) : Result := .next (s.setClock core (s.core core).clock false)
/-- THERMAL_TRIP. -/
def execThermalTrip (s : State) : Result := .next (({ s with tripped := true } : State).emit .trip)

/-- The boot status: 0x02 for boot-wait after a refused image (R437); no other value is given: a free value. -/
def State.bootStatus (s : State) : Nat × State :=
  match s.boot with
  | .refused => (2, s)
  | _ => let f := s.takeFree; (f.1.toNat % 256, f.2)

/-- n free values. -/
def State.takeFrees (s : State) (n : Nat) : List Nat × State :=
  ((List.range n).map fun k => (Config.freeValue (s.free + k)).toNat, { s with free := s.free + n })

/-- The clock of an island that is not a core's, in steps of 125 MHz: 2.0 GHz, which no cap lowers (R18, R441, log 72). -/
def baseClock : Nat := 16

/-- MGMT_READ_STATUS: boot status, island clocks, temperatures and module power (R443); what no rule gives is free: the temperatures and
the power (log 11). -/
def execMgmtReadStatus (s : State) : Result :=
  let b := s.bootStatus
  let cores := (List.range 72).filter s.working
  let y := b.2.takeFrees cores.length
  let z := y.2.takeFree
  .next (z.2.emit (.status b.1 (cores.map fun c => (s.core c).clock) (List.replicate 16 baseClock) y.1 z.1.toNat))

/-- MGMT_READ_CAP. -/
def execMgmtReadCap (s : State) : Result := .next (s.emit (.value s.cap))
/-- MGMT_WRITE_CAP: from 800 W up to the TDP (R442); a lower value is ignored, and a higher one leaves the TDP (log 43). -/
def execMgmtWriteCap (watts : Nat) (s : State) : Result := .next (if watts < 800 then s else { s with cap := min watts s.tdp })
/-- MGMT_READ_ROW_THRESHOLD. -/
def execMgmtReadRowThreshold (s : State) : Result := .next (s.emit (.value s.rowThreshold))
/-- MGMT_WRITE_ROW_THRESHOLD: from 256 to 65,535 (R440); any other value is ignored (log 43). -/
def execMgmtWriteRowThreshold (n : Nat) (s : State) : Result :=
  .next (if 256 ≤ n && n ≤ 65535 then { s with rowThreshold := n } else s)

end Sys2Proof.Machine
end

