-- ==== Sys2Proof/Machine/Dispatch.lean ====
section
/-! DEFINITION. The one meaning of each instruction and event: exec, one arm per constructor of Instr. -/

namespace Sys2Proof.Machine

/-- The effect of an instruction or event. -/
def exec (i : Instr) (s : State) : Host.Outcome State Fault Refusal :=
  match i with
  | .sadd e d a b => Sys2Proof.Machine.execSadd e d a b s
  | .ssub e d a b => Sys2Proof.Machine.execSsub e d a b s
  | .smul e d a b => Sys2Proof.Machine.execSmul e d a b s
  | .smulh e d a b => Sys2Proof.Machine.execSmulh e d a b s
  | .sand e d a b => Sys2Proof.Machine.execSand e d a b s
  | .sor e d a b => Sys2Proof.Machine.execSor e d a b s
  | .sxor e d a b => Sys2Proof.Machine.execSxor e d a b s
  | .sandn e d a b => Sys2Proof.Machine.execSandn e d a b s
  | .sshl e d a b => Sys2Proof.Machine.execSshl e d a b s
  | .sshr e d a b => Sys2Proof.Machine.execSshr e d a b s
  | .ssar e d a b => Sys2Proof.Machine.execSsar e d a b s
  | .smin e d a b => Sys2Proof.Machine.execSmin e d a b s
  | .smax e d a b => Sys2Proof.Machine.execSmax e d a b s
  | .sclz e d a => Sys2Proof.Machine.execSclz e d a s
  | .spopc e d a => Sys2Proof.Machine.execSpopc e d a s
  | .ssel e d a b => Sys2Proof.Machine.execSsel e d a b s
  | .smov e d a => Sys2Proof.Machine.execSmov e d a s
  | .scmp e d a b c => Sys2Proof.Machine.execScmp e d a b c s
  | .saddImm e d a imm => Sys2Proof.Machine.execSaddImm e d a imm s
  | .smulImm e d a imm => Sys2Proof.Machine.execSmulImm e d a imm s
  | .sandImm e d a imm => Sys2Proof.Machine.execSandImm e d a imm s
  | .sorImm e d a imm => Sys2Proof.Machine.execSorImm e d a imm s
  | .sxorImm e d a imm => Sys2Proof.Machine.execSxorImm e d a imm s
  | .sshlImm e d a imm => Sys2Proof.Machine.execSshlImm e d a imm s
  | .sshrImm e d a imm => Sys2Proof.Machine.execSshrImm e d a imm s
  | .ssarImm e d a imm => Sys2Proof.Machine.execSsarImm e d a imm s
  | .sli e d imm => Sys2Proof.Machine.execSli e d imm s
  | .shi e d q imm => Sys2Proof.Machine.execShi e d q imm s
  | .mskp e d a => Sys2Proof.Machine.execMskp e d a s
  | .mskn e d a => Sys2Proof.Machine.execMskn e d a s
  | .msks e a => Sys2Proof.Machine.execMsks e a s
  | .mskg e d => Sys2Proof.Machine.execMskg e d s
  | .mskpop e d a => Sys2Proof.Machine.execMskpop e d a s
  | .mskff e d a => Sys2Proof.Machine.execMskff e d a s
  | .modeg e d => Sys2Proof.Machine.execModeg e d s
  | .modes e a => Sys2Proof.Machine.execModes e a s
  | .srd e d a => Sys2Proof.Machine.execSrd e d a s
  | .nop e => Sys2Proof.Machine.execNop e s
  | .yield e => Sys2Proof.Machine.execYield e s
  | .ret a => Sys2Proof.Machine.execRet a s
  | .jmp a => Sys2Proof.Machine.execJmp a s
  | .mode e t r g sv p u => Sys2Proof.Machine.execMode e t r g sv p u s
  | .hold e l sv t m c => Sys2Proof.Machine.execHold e l sv t m c s
  | .bra o => Sys2Proof.Machine.execBra o s
  | .call o => Sys2Proof.Machine.execCall o s
  | .bemz o => Sys2Proof.Machine.execBemz o s
  | .bemf o => Sys2Proof.Machine.execBemf o s
  | .bz sv o => Sys2Proof.Machine.execBz sv o s
  | .bnz sv o => Sys2Proof.Machine.execBnz sv o s
  | .vadd e d a b x y => Sys2Proof.Machine.execVadd e d a b x y s
  | .vaddc e d a b x y => Sys2Proof.Machine.execVaddc e d a b x y s
  | .vsub e d a b x y => Sys2Proof.Machine.execVsub e d a b x y s
  | .vsubb e d a b x y => Sys2Proof.Machine.execVsubb e d a b x y s
  | .vmul e d a b x y => Sys2Proof.Machine.execVmul e d a b x y s
  | .vmulh e d a b x y => Sys2Proof.Machine.execVmulh e d a b x y s
  | .vmad e d a b x y => Sys2Proof.Machine.execVmad e d a b x y s
  | .vmin e d a b x y => Sys2Proof.Machine.execVmin e d a b x y s
  | .vmax e d a b x y => Sys2Proof.Machine.execVmax e d a b x y s
  | .vabs e d a x => Sys2Proof.Machine.execVabs e d a x s
  | .vneg e d a x => Sys2Proof.Machine.execVneg e d a x s
  | .vand e d a b x y => Sys2Proof.Machine.execVand e d a b x y s
  | .vor e d a b x y => Sys2Proof.Machine.execVor e d a b x y s
  | .vxor e d a b x y => Sys2Proof.Machine.execVxor e d a b x y s
  | .vnot e d a x => Sys2Proof.Machine.execVnot e d a x s
  | .vandn e d a b x y => Sys2Proof.Machine.execVandn e d a b x y s
  | .vshl e d a b x y => Sys2Proof.Machine.execVshl e d a b x y s
  | .vshr e d a b x y => Sys2Proof.Machine.execVshr e d a b x y s
  | .vsar e d a b x y => Sys2Proof.Machine.execVsar e d a b x y s
  | .vrot e d a b x y => Sys2Proof.Machine.execVrot e d a b x y s
  | .vclz e d a x => Sys2Proof.Machine.execVclz e d a x s
  | .vffs e d a x => Sys2Proof.Machine.execVffs e d a x s
  | .vpopc e d a x => Sys2Proof.Machine.execVpopc e d a x s
  | .vbrev e d a x => Sys2Proof.Machine.execVbrev e d a x s
  | .vsel e d a b x y => Sys2Proof.Machine.execVsel e d a b x y s
  | .vmov e d a x => Sys2Proof.Machine.execVmov e d a x s
  | .vaddImm e d a imm => Sys2Proof.Machine.execVaddImm e d a imm s
  | .vmulImm e d a imm => Sys2Proof.Machine.execVmulImm e d a imm s
  | .vandImm e d a imm => Sys2Proof.Machine.execVandImm e d a imm s
  | .vorImm e d a imm => Sys2Proof.Machine.execVorImm e d a imm s
  | .vxorImm e d a imm => Sys2Proof.Machine.execVxorImm e d a imm s
  | .vshlImm e d a imm => Sys2Proof.Machine.execVshlImm e d a imm s
  | .vshrImm e d a imm => Sys2Proof.Machine.execVshrImm e d a imm s
  | .vsarImm e d a imm => Sys2Proof.Machine.execVsarImm e d a imm s
  | .vli e d imm => Sys2Proof.Machine.execVli e d imm s
  | .vlane e d => Sys2Proof.Machine.execVlane e d s
  | .vshf e d a b x y => Sys2Proof.Machine.execVshf e d a b x y s
  | .vstep e d a b x => Sys2Proof.Machine.execVstep e d a b x s
  | .vbcast e d a b x => Sys2Proof.Machine.execVbcast e d a b x s
  | .vget e d a b x => Sys2Proof.Machine.execVget e d a b x s
  | .vbfx e d a b x y => Sys2Proof.Machine.execVbfx e d a b x y s
  | .vbfi e d a b x y => Sys2Proof.Machine.execVbfi e d a b x y s
  | .vcmp e d a b x y c => Sys2Proof.Machine.execVcmp e d a b x y c s
  | .plog e d a b o => Sys2Proof.Machine.execPlog e d a b o s
  | .fadd e d a b x y => Sys2Proof.Machine.execFadd e d a b x y s
  | .fsub e d a b x y => Sys2Proof.Machine.execFsub e d a b x y s
  | .fmul e d a b x y => Sys2Proof.Machine.execFmul e d a b x y s
  | .fmin e d a b x y => Sys2Proof.Machine.execFmin e d a b x y s
  | .fmax e d a b x y => Sys2Proof.Machine.execFmax e d a b x y s
  | .fabs e d a x => Sys2Proof.Machine.execFabs e d a x s
  | .fneg e d a x => Sys2Proof.Machine.execFneg e d a x s
  | .fclass e d a x => Sys2Proof.Machine.execFclass e d a x s
  | .frint e d a x => Sys2Proof.Machine.execFrint e d a x s
  | .fdiv e d a b x y => Sys2Proof.Machine.execFdiv e d a b x y s
  | .fcmp e d a b x y c => Sys2Proof.Machine.execFcmp e d a b x y c s
  | .frcp e d a x => Sys2Proof.Machine.execFrcp e d a x s
  | .frsq e d a x => Sys2Proof.Machine.execFrsq e d a x s
  | .fsqrt e d a x => Sys2Proof.Machine.execFsqrt e d a x s
  | .fexp2 e d a x => Sys2Proof.Machine.execFexp2 e d a x s
  | .flog2 e d a x => Sys2Proof.Machine.execFlog2 e d a x s
  | .fsin e d a x => Sys2Proof.Machine.execFsin e d a x s
  | .fcos e d a x => Sys2Proof.Machine.execFcos e d a x s
  | .ftanh e d a x => Sys2Proof.Machine.execFtanh e d a x s
  | .ffma e d a b x y o => Sys2Proof.Machine.execFfma e d a b x y o s
  | .fflags e d a b => Sys2Proof.Machine.execFflags e d a b s
  | .cvt e d a t x => Sys2Proof.Machine.execCvt e d a t x s
  | .unpk e d a t x p => Sys2Proof.Machine.execUnpk e d a t x p s
  | .pack2Bf16 e d a b x y => Sys2Proof.Machine.execPack2Bf16 e d a b x y s
  | .pack2F16 e d a b x y => Sys2Proof.Machine.execPack2F16 e d a b x y s
  | .pack4E4m3 e d a b x y => Sys2Proof.Machine.execPack4E4m3 e d a b x y s
  | .pack4E5m2 e d a b x y => Sys2Proof.Machine.execPack4E5m2 e d a b x y s
  | .pack4hLo e d a b x y => Sys2Proof.Machine.execPack4hLo e d a b x y s
  | .pack4hHi e d a b x y => Sys2Proof.Machine.execPack4hHi e d a b x y s
  | .bscale e d a t x => Sys2Proof.Machine.execBscale e d a t x s
  | .qcb e d a k x => Sys2Proof.Machine.execQcb e d a k x s
  | .xset e d a b x y => Sys2Proof.Machine.execXset e d a b x y s
  | .cbld e k a x => Sys2Proof.Machine.execCbld e k a x s
  | .qlat e d a b x y => Sys2Proof.Machine.execQlat e d a b x y s
  | .dlat e d a b x y => Sys2Proof.Machine.execDlat e d a b x y s
  | .lput e d a b x y => Sys2Proof.Machine.execLput e d a b x y s
  | .lscale e d a b x y => Sys2Proof.Machine.execLscale e d a b x y s
  | .lshell e d a b x y => Sys2Proof.Machine.execLshell e d a b x y s
  | .lget e d a b x y => Sys2Proof.Machine.execLget e d a b x y s
  | .lpack e d a b x y => Sys2Proof.Machine.execLpack e d a b x y s
  | .lchk e d a sv x => Sys2Proof.Machine.execLchk e d a sv x s
  | .tld e v h c l => Sys2Proof.Machine.execTld e v h c l s
  | .tst e v h c l => Sys2Proof.Machine.execTst e v h c l s
  | .tlds e v h c => Sys2Proof.Machine.execTlds e v h c s
  | .talloc e v h c => Sys2Proof.Machine.execTalloc e v h c s
  | .tfree e v h => Sys2Proof.Machine.execTfree e v h s
  | .tinfo e v h => Sys2Proof.Machine.execTinfo e v h s
  | .tfill e v h => Sys2Proof.Machine.execTfill e v h s
  | .twptr e v h => Sys2Proof.Machine.execTwptr e v h s
  | .ld e v b o l w => Sys2Proof.Machine.execLd e v b o l w s
  | .st e v b o l w => Sys2Proof.Machine.execSt e v b o l w s
  | .ldp e v b o l w => Sys2Proof.Machine.execLdp e v b o l w s
  | .stp e v b o l w => Sys2Proof.Machine.execStp e v b o l w s
  | .lds e v b n w => Sys2Proof.Machine.execLds e v b n w s
  | .sts e v b n w => Sys2Proof.Machine.execSts e v b n w s
  | .pref e p b o l => Sys2Proof.Machine.execPref e p b o l s
  | .pflush e => Sys2Proof.Machine.execPflush e s
  | .atom e v b o l f => Sys2Proof.Machine.execAtom e v b o l f s
  | .atomf e v b o l f => Sys2Proof.Machine.execAtomf e v b o l f s
  | .cas e v b o l sv => Sys2Proof.Machine.execCas e v b o l sv s
  | .cas64 e v b o l sv => Sys2Proof.Machine.execCas64 e v b o l sv s
  | .ldaq e v b o l w sv => Sys2Proof.Machine.execLdaq e v b o l w sv s
  | .strl e v b o l w sv => Sys2Proof.Machine.execStrl e v b o l w sv s
  | .fence e sv => Sys2Proof.Machine.execFence e sv s
  | .atoms e v b o l f => Sys2Proof.Machine.execAtoms e v b o l f s
  | .ctld e n h c => Sys2Proof.Machine.execCtld e n h c s
  | .ctinv e n => Sys2Proof.Machine.execCtinv e n s
  | .bixq e v h c => Sys2Proof.Machine.execBixq e v h c s
  | .kvapp e v h c => Sys2Proof.Machine.execKvapp e v h c s
  | .dech e v h c => Sys2Proof.Machine.execDech e v h c s
  | .dec e v h c => Sys2Proof.Machine.execDec e v h c s
  | .enc e v h c l => Sys2Proof.Machine.execEnc e v h c l s
  | .encf e v h c => Sys2Proof.Machine.execEncf e v h c s
  | .lift e d a => Sys2Proof.Machine.execLift e d a s
  | .lqry e d a => Sys2Proof.Machine.execLqry e d a s
  | .lcan e d a => Sys2Proof.Machine.execLcan e d a s
  | .ginit e v h c => Sys2Proof.Machine.execGinit e v h c s
  | .gexp e v h c => Sys2Proof.Machine.execGexp e v h c s
  | .garr e v h c => Sys2Proof.Machine.execGarr e v h c s
  | .gwait e v h c => Sys2Proof.Machine.execGwait e v h c s
  | .gtry e v h c => Sys2Proof.Machine.execGtry e v h c s
  | .mma e n g k sv p f => Sys2Proof.Machine.execMma e n g k sv p f s
  | .mwld e v h c => Sys2Proof.Machine.execMwld e v h c s
  | .mswap e => Sys2Proof.Machine.execMswap e s
  | .mzero e n x => Sys2Proof.Machine.execMzero e n x s
  | .mrd e n d x => Sys2Proof.Machine.execMrd e n d x s
  | .mwr e n sv x => Sys2Proof.Machine.execMwr e n sv x s
  | .mrel e => Sys2Proof.Machine.execMrel e s
  | .ppt e m => Sys2Proof.Machine.execPpt e m s
  | .launch e d a => Sys2Proof.Machine.execLaunch e d a s
  | .tbar e a => Sys2Proof.Machine.execTbar e a s
  | .gbar e a => Sys2Proof.Machine.execGbar e a s
  | .evsig e d a b => Sys2Proof.Machine.execEvsig e d a b s
  | .evwait e a b => Sys2Proof.Machine.execEvwait e a b s
  | .coll e d a => Sys2Proof.Machine.execColl e d a s
  | .cwait e d a => Sys2Proof.Machine.execCwait e d a s
  | .grpf e d a => Sys2Proof.Machine.execGrpf e d a s
  | .fstat e d a => Sys2Proof.Machine.execFstat e d a s
  | .trap e n => Sys2Proof.Machine.execTrap e n s
  | .rte a => Sys2Proof.Machine.execRte a s
  | .ssrd e d a b => Sys2Proof.Machine.execSsrd e d a b s
  | .sswr e a b => Sys2Proof.Machine.execSswr e a b s
  | .bkpt e n => Sys2Proof.Machine.execBkpt e n s
  | .halt e a => Sys2Proof.Machine.execHalt e a s
  | .cntrd e d a => Sys2Proof.Machine.execCntrd e d a s
  | .dlogStat e d a => Sys2Proof.Machine.execDlogStat e d a s
  | .dlogStart e d a => Sys2Proof.Machine.execDlogStart e d a s
  | .dlogStop e d a => Sys2Proof.Machine.execDlogStop e d a s
  | .dlogAck e d a => Sys2Proof.Machine.execDlogAck e d a s
  | .dlogCons e d a => Sys2Proof.Machine.execDlogCons e d a s
  | .frz e d a => Sys2Proof.Machine.execFrz e d a s
  | .icacheFill p => Sys2Proof.Machine.execIcacheFill p s
  | .loadLaneReturn p op => Sys2Proof.Machine.execLoadLaneReturn p op s
  | .storeWctReturn p op => Sys2Proof.Machine.execStoreWctReturn p op s
  | .tileAccessRetire p op => Sys2Proof.Machine.execTileAccessRetire p op s
  | .matrixOpRetire p op => Sys2Proof.Machine.execMatrixOpRetire p op s
  | .decodeUnitRetire p op => Sys2Proof.Machine.execDecodeUnitRetire p op s
  | .pageFaultPark p => Sys2Proof.Machine.execPageFaultPark p s
  | .trapEntry p => Sys2Proof.Machine.execTrapEntry p s
  | .haltBroadcastArrive p => Sys2Proof.Machine.execHaltBroadcastArrive p s
  | .mmaArrayStart p op => Sys2Proof.Machine.execMmaArrayStart p op s
  | .mwldBufferWrite p op => Sys2Proof.Machine.execMwldBufferWrite p op s
  | .pairSlave p op => Sys2Proof.Machine.execPairSlave p op s
  | .packSave p => Sys2Proof.Machine.execPackSave p s
  | .packRetire p => Sys2Proof.Machine.execPackRetire p s
  | .evwaitReread p => Sys2Proof.Machine.execEvwaitReread p s
  | .cwaitReread p => Sys2Proof.Machine.execCwaitReread p s
  | .granuleClearDone core start => Sys2Proof.Machine.execGranuleClearDone core start s
  | .teamPlace g => Sys2Proof.Machine.execTeamPlace g s
  | .gangPlace g => Sys2Proof.Machine.execGangPlace g s
  | .evict g => Sys2Proof.Machine.execEvict g s
  | .teamExit t => Sys2Proof.Machine.execTeamExit t s
  | .gridRetire g => Sys2Proof.Machine.execGridRetire g s
  | .launchRecordRead q => Sys2Proof.Machine.execLaunchRecordRead q s
  | .waitConditionRead q => Sys2Proof.Machine.execWaitConditionRead q s
  | .homeLoad p op line => Sys2Proof.Machine.execHomeLoad p op line s
  | .homeWrite p op line => Sys2Proof.Machine.execHomeWrite p op line s
  | .homeWritePerform ctx line => Sys2Proof.Machine.execHomeWritePerform ctx line s
  | .homeAtomic p op line => Sys2Proof.Machine.execHomeAtomic p op line s
  | .kvappAppend p op => Sys2Proof.Machine.execKvappAppend p op s
  | .liftCommandStart t ch => Sys2Proof.Machine.execLiftCommandStart t ch s
  | .liftCopy t ch => Sys2Proof.Machine.execLiftCopy t ch s
  | .liftDecodeCopy t ch => Sys2Proof.Machine.execLiftDecodeCopy t ch s
  | .liftEncodeStore t ch => Sys2Proof.Machine.execLiftEncodeStore t ch s
  | .liftAccumulatorLoad t ch => Sys2Proof.Machine.execLiftAccumulatorLoad t ch s
  | .liftCommandComplete t ch => Sys2Proof.Machine.execLiftCommandComplete t ch s
  | .freeze ctx => Sys2Proof.Machine.execFreeze ctx s
  | .fullingComplete ctx => Sys2Proof.Machine.execFullingComplete ctx s
  | .frzCompletion ctx => Sys2Proof.Machine.execFrzCompletion ctx s
  | .resume ctx => Sys2Proof.Machine.execResume ctx s
  | .rowActivationAlert bank => Sys2Proof.Machine.execRowActivationAlert bank s
  | .exit => Sys2Proof.Machine.execExit s
  | .packPromote p => Sys2Proof.Machine.execPackPromote p s
  | .pairAbort p op => Sys2Proof.Machine.execPairAbort p op s
  | .pptTimeout p => Sys2Proof.Machine.execPptTimeout p s
  | .sliceExpire q => Sys2Proof.Machine.execSliceExpire q s
  | .completionRecordResend conn => Sys2Proof.Machine.execCompletionRecordResend conn s
  | .tailDoorbell q tail => Sys2Proof.Machine.execTailDoorbell q tail s
  | .queueEnable q => Sys2Proof.Machine.execQueueEnable q s
  | .queueDisable q => Sys2Proof.Machine.execQueueDisable q s
  | .registerWrite off data => Sys2Proof.Machine.execRegisterWrite off data s
  | .queuePollTimer q => Sys2Proof.Machine.execQueuePollTimer q s
  | .channelTranslate ctx va write => Sys2Proof.Machine.execChannelTranslate ctx va write s
  | .tableWalk ctx va => Sys2Proof.Machine.execTableWalk ctx va s
  | .privateWriteback core ctx line => Sys2Proof.Machine.execPrivateWriteback core ctx line s
  | .eccRetry site out => Sys2Proof.Machine.execEccRetry site out s
  | .liftError t ch err => Sys2Proof.Machine.execLiftError t ch err s
  | .liftSourcePark t ch va => Sys2Proof.Machine.execLiftSourcePark t ch va s
  | .multicastHeldDelivery t ch rank => Sys2Proof.Machine.execMulticastHeldDelivery t ch rank s
  | .collectiveWithdraw ctx => Sys2Proof.Machine.execCollectiveWithdraw ctx s
  | .flitCrcRetry link => Sys2Proof.Machine.execFlitCrcRetry link s
  | .linkLaneFail link => Sys2Proof.Machine.execLinkLaneFail link s
  | .linkDown link => Sys2Proof.Machine.execLinkDown link s
  | .vlPause link vl paused => Sys2Proof.Machine.execVlPause link vl paused s
  | .packetAccept pkt => Sys2Proof.Machine.execPacketAccept pkt s
  | .packetRetransmit seq => Sys2Proof.Machine.execPacketRetransmit seq s
  | .requestDeadline seq => Sys2Proof.Machine.execRequestDeadline seq s
  | .routeTableInstall table => Sys2Proof.Machine.execRouteTableInstall table s
  | .routeTableSwitchover table => Sys2Proof.Machine.execRouteTableSwitchover table s
  | .routeTableRetire table => Sys2Proof.Machine.execRouteTableRetire table s
  | .multicastBranchSend copy branch => Sys2Proof.Machine.execMulticastBranchSend copy branch s
  | .switchWriteback ctx va data => Sys2Proof.Machine.execSwitchWriteback ctx va data s
  | .skewMeasure peer skew => Sys2Proof.Machine.execSkewMeasure peer skew s
  | .collBarrier ctx g seq => Sys2Proof.Machine.execCollBarrier ctx g seq s
  | .collBroadcast ctx g seq contrib => Sys2Proof.Machine.execCollBroadcast ctx g seq contrib s
  | .collAllreduce ctx g seq contrib => Sys2Proof.Machine.execCollAllreduce ctx g seq contrib s
  | .collReduceScatter ctx g seq contrib => Sys2Proof.Machine.execCollReduceScatter ctx g seq contrib s
  | .collAllgather ctx g seq contrib => Sys2Proof.Machine.execCollAllgather ctx g seq contrib s
  | .agreementReport ctx g seq rank rep => Sys2Proof.Machine.execAgreementReport ctx g seq rank rep s
  | .collDeadline ctx g seq => Sys2Proof.Machine.execCollDeadline ctx g seq s
  | .agreementFallback ctx g seq peers heard => Sys2Proof.Machine.execAgreementFallback ctx g seq peers heard s
  | .collStatusWrite ctx g seq => Sys2Proof.Machine.execCollStatusWrite ctx g seq s
  | .rdmaWrite conn key addr data => Sys2Proof.Machine.execRdmaWrite conn key addr data s
  | .rdmaRead conn key addr len => Sys2Proof.Machine.execRdmaRead conn key addr len s
  | .invalidRequestNak conn => Sys2Proof.Machine.execInvalidRequestNak conn s
  | .fqResolve ctx tag seq => Sys2Proof.Machine.execFqResolve ctx tag seq s
  | .fqDecline ctx tag seq => Sys2Proof.Machine.execFqDecline ctx tag seq s
  | .fqInvalidate ctx tag va len => Sys2Proof.Machine.execFqInvalidate ctx tag va len s
  | .fqKeyInvalidate ctx tag first count => Sys2Proof.Machine.execFqKeyInvalidate ctx tag first count s
  | .fqScrub ctx tag pa => Sys2Proof.Machine.execFqScrub ctx tag pa s
  | .faultReportPost => Sys2Proof.Machine.execFaultReportPost s
  | .coldReset => Sys2Proof.Machine.execColdReset s
  | .bootImageReceive image => Sys2Proof.Machine.execBootImageReceive image s
  | .hbmRecalibrate => Sys2Proof.Machine.execHbmRecalibrate s
  | .resumePlace ctx => Sys2Proof.Machine.execResumePlace ctx s
  | .backoffEnd bank => Sys2Proof.Machine.execBackoffEnd bank s
  | .powerArbiterGrant bases demand => Sys2Proof.Machine.execPowerArbiterGrant bases demand s
  | .thermalThrottle core => Sys2Proof.Machine.execThermalThrottle core s
  | .thermalRelease core => Sys2Proof.Machine.execThermalRelease core s
  | .thermalTrip => Sys2Proof.Machine.execThermalTrip s
  | .mgmtReadStatus => Sys2Proof.Machine.execMgmtReadStatus s
  | .mgmtReadCap => Sys2Proof.Machine.execMgmtReadCap s
  | .mgmtWriteCap watts => Sys2Proof.Machine.execMgmtWriteCap watts s
  | .mgmtReadRowThreshold => Sys2Proof.Machine.execMgmtReadRowThreshold s
  | .mgmtWriteRowThreshold n => Sys2Proof.Machine.execMgmtWriteRowThreshold n s
  | .mgmtWarmReset => Sys2Proof.Machine.execMgmtWarmReset s
  | .unassignedWord w => Sys2Proof.Machine.execUnassignedWord w s
  | .completionRecordNak which => Sys2Proof.Machine.execCompletionRecordNak which s
  | .connectionFailure conn => Sys2Proof.Machine.execConnectionFailure conn s
  | .modulePowerOff => Sys2Proof.Machine.execModulePowerOff s

end Sys2Proof.Machine
end

