-- ==== Sys2Proof/Machine/Timers.lean ====
section
/-! DEFINITION. What happens by itself when its time has come (R98, R332, R338, R339, R342, R389, R409, R410, R415, R423-R425, R440): looked at
whenever the issue slot moves (log 3). -/

namespace Sys2Proof.Machine

/-- Requests past their deadline end (R415). -/
def State.expireRequests (s : State) : State :=
  (s.requests.filter fun r => decide (r.deadline ≤ s.gtc)).foldl State.expire s

/-- Slices that have run out expire; one of a context that freezes has no effect (R342, R388). -/
def State.expireSlices (s : State) : State :=
  (s.queues.filter fun e => e.2.sliceUs != 0).foldl (fun (s : State) (e : Nat × HQueue) =>
    let s := s.countSlice e.1
    if (s.queue e.1).sliceOut && !(s.queuePlaced e.1).isEmpty && (s.ctx e.2.ctx).frz.isNone then (s.expireSlice e.1).kick else s) s

/-- The engine goes on with what it has to do for a group (R423); collectives and formations whose TCOLL has passed are TIMEOUT, those
of a group that reaches no unit fall back on its peers, and decided ones have their status written (R424-R426). -/
def State.endCollectives (s : State) (ctx g : Nat) : State :=
  let s := match (if (s.group ctx g).go then (s.group ctx g).inHand else none) with
    | none => s
    | some c => (s.onGroup ctx g fun k => { k with go := false }).runColl ctx g c.seq (cdOp c.desc.toNat) []
  let k := s.group ctx g
  let wait := fun (s : State) seq key start asked mark => match k.lone with
    | some t => s.fallBack ctx g seq key t start asked mark
    | none => if start + 1000 * k.tcoll ≤ s.gtc then s.collDecide ctx g seq (2, 0, noRank) else s
  let s :=
    if k.state = 1 then
      (if k.reading then s else wait s 0 (2 ^ 16) k.start k.asked fun s => s.onGroup ctx g fun k => { k with asked := true })
    else (k.colls.filter (·.agree.verdict.isNone)).foldl (fun (s : State) (c : Coll) =>
      wait s c.seq c.seq c.start c.asked fun s => s.onColl ctx g c.seq fun c => { c with asked := true }) s
  s.writeDue ctx g

/-- Every group that has something under way. -/
def State.collTimers (s : State) : State :=
  ((s.ctxs.map fun e => (e.2.groups.filter fun g => g.2.state == 1 || !g.2.colls.isEmpty).map fun g => (e.1, g.1)).flatten).foldl
    (fun (s : State) (e : Nat × Nat) => s.endCollectives e.1 e.2) s

/-- Packs that can be saved now (R332, R348). -/
def State.saveEvents (s : State) : List Instr :=
  (s.allPacks.filter fun p => p.saveDue && p.standsStill && p.drained && (p.status == .saving || p.maySave (s.teamOf p) s.gtc)).map
    fun p => .packSave p.id

/-- Freezes that can go on (R387). -/
def State.freezeEvents (s : State) : List Instr :=
  s.ctxs.filterMap fun e => match e.2.frz with
    | some f => if !f.isResume && s.frzReady e.1 f then some (.fullingComplete e.1) else none
    | none => none

/-- Every 1,024 ticks, what waits on memory reads it again (R338, R339, R356). -/
def State.polls (s : State) : List Instr :=
  (s.allPacks.map Pack.reread).flatten ++ ((List.range 64).map s.pollEvents).flatten

/-- Writes whose WCT is reached are performed, and their homes report them (R236, R339). -/
def State.writesDue (s : State) : State :=
  let due := s.reports.filter fun r => decide (r.1 ≤ s.gtc)
  ({ s with reports := s.reports.filter fun r => decide (s.gtc < r.1) } : State).push
    ((due.map (·.2)).eraseDups.map fun r => .homeWritePerform r.1 r.2)

/-- Requests, and packets not acknowledged, that have waited T_fab ÷ 8 since they were sent last are sent again, those that still wait for
a link apart; one past its deadline is no longer kept (R410). -/
def State.resends (s : State) : State :=
  let out := fun (p : Packet) => s.outbound.any (·.seq == p.seq) || s.copies.any fun c => !c.injected && c.pkt.seq == p.seq
  let due := fun (p : Packet) sent => decide (sent + s.tfabTicks / 8 ≤ s.gtc) && !out p
  let s := ((s.requests.filter fun r => due r.pkt r.sent).map (·.seq) ++ (s.unacked.filter fun u => due u.pkt u.sent).map (·.pkt.seq)).foldl
    State.retransmit s
  { s with unacked := s.unacked.filter fun u => decide (s.gtc < u.pkt.deadline) }

/-- What is due is done, or comes next. -/
def State.timers (s : State) : State :=
  let s := (s.handOver s.accepted.length).expireRequests.expireSlices.writesDue.stopSaves.askLines
  let s := (s.onPacks s.promoteDue).collTimers.endBackoffs.resends
  let poll := decide (s.polled + 1024 ≤ s.gtc)
  let evs := s.saveEvents ++ s.freezeEvents ++ (if poll then s.polls else [])
  ({ s with polled := if poll then s.gtc else s.polled } : State).push (evs.filter fun e => !s.agenda.contains e)

end Sys2Proof.Machine
end

