-- ==== Sys2Proof/Machine/Turn.lean ====
section
/-! DEFINITION. The turns that a step is made of: an event of the agenda, and the issue slot of a core, with the fetch, the checks and
the issue of a word (R40, R49, R94, R97, log 3). -/

namespace Sys2Proof.Machine

/-- Event k of the agenda takes place. -/
def eventTurn (k : Nat) (s : State) : Host.Outcome State Fault Refusal :=
  match s.agenda[k]? with
  | none => .next s
  | some i => exec i { s with agenda := s.agenda.eraseIdx k }

/-- The word that the running pack issues: the instruction, whose meaning is given with the lanes that an uncorrectable register
error takes out of it (R368), once it has passed every check (R59) and interlock. -/
def issue (i : Instr) (s : State) : Host.Outcome State Fault Refusal :=
  match eccScalar s.pk i with
  | some r => .next (scalarEcc i r s)
  | none =>
  if eccLanes s.tm s.pk i = 0 then exec i s
  else match i with
    | .vget .. => .next (scalarLaneEcc i s)
    | .cbld .. => .next (scalarLaneEcc i s)
    | _ =>
      match exec i s with
      | .next n =>
        if heldBack s n then .next n
        else
          (match exec i (s.eccEnter i) with
            | .next n => .next (s.eccLeave n)
            | r => r)
      | r => r

/-- The word w is issued: the instruction that it encodes, or none (R40). -/
def issueBits (w : Word) (s : State) : Host.Outcome State Fault Refusal :=
  match decode w with
  | .ok i => issue i s
  | .illegal _ => Sys2Proof.Machine.execUnassignedWord w s
  | .lastUse _ => Sys2Proof.Machine.execUnassignedWord w s

/-- The current pack, running, parks, or fetches and issues the word at its PC (R94); one whose run has its 24 words does neither,
whatever the word is (R49). A team halt at its core stops it where its run ends (R364). -/
def runTurn (s : State) : Host.Outcome State Fault Refusal :=
  let full := s.pk.runpos == 24
  if s.pk.parkDue && !full then .next (s.haltStop s.parkNow)
  else
    match s.fetch with
    | (.word w, t) =>
      (match issueBits w t with
        | .next n => .next (t.haltStop n)
        | r => r)
    | (.fault c r, t) => .next (t.haltStop (if full then t.runOver else t.raise (fetchFault t.pk c r)))
    | (.pageFault, t) => .next (t.haltStop (if full then t.runOver else t.fetchMiss))

/-- Slot k of a device that has booted moves (R35), once what is due by its time is done: its current pack goes on, or it chooses
one (R21, R94, R97). -/
def slotTurn (k : Nat) (s : State) : Host.Outcome State Fault Refusal :=
  if s.boot ≠ .running then .next s
  else match s.runner k with
    | some p => runTurn (s.switchTo p.id)
    | none => .next (s.arbitrate k)

/-- The current pack moves, or, when it is not in a run, the next slot. -/
def issueTurn (s : State) : Host.Outcome State Fault Refusal :=
  if s.boot = .running && s.pk.status = .running then runTurn s else slotTurn s.nextSlot s

end Sys2Proof.Machine
end

