-- ==== Sys2Proof/Machine/Step.lean ====
section
/-! DEFINITION. One step of the machine: the schedule says which agent moves; by default an event that is due, and else the
pack that holds the issue slot, or the arbitration of the slots (log 3). -/

namespace Sys2Proof.Machine

/-- One step: pace ticks pass, and the agent that the schedule names moves; by default an event that is due, else the slots in
turn, a word each (log 3). -/
def step (s : State) : Host.Outcome State Fault Refusal :=
  let t := { s with gtc := s.gtc + s.pace }
  match t.turns with
  | .issue :: ts => issueTurn ({ t with turns := ts } : State).timers
  | .slot k :: ts => slotTurn k ({ t with turns := ts } : State).timers
  | .event k :: ts => eventTurn k { t with turns := ts }
  | [] =>
    if t.agenda.isEmpty then
      let t := t.timers
      slotTurn t.nextSlot t
    else eventTurn 0 t

/-- A team with one matrix-role pack of 64 vector registers and 16 accumulator tiles, in context 1, for placing a first
instruction. -/
def firstTeam : Team :=
  { id := { grid := 0, team := 0 }, status := .resident, ctx := 1, depth := 1, total := 1, granules := 384, accs := 16,
    trap := 0x1000,
    roles := [{ kind := .matrix, packs := 1, vregs := 64, plim := 65536, entry := 0x2000 }] }

/-- Its pack, running at its entry, privileged. -/
def firstPack : Pack :=
  { id := { grid := 0, team := 0, role := 0, pir := 0 }, status := .running, priv := true, pc := 0x2000, em := allOnes }

/-- s with a word stored where the next step fetches, and that step the issue of it (log 5). Without a running pack, the
first pack and its team are placed: they stand for a grid that a host queue has launched. -/
def State.withFetchWord (s : State) (nbits w : Nat) : State :=
  let s := if s.pk.status = .running then s else { s with pk := firstPack, tm := firstTeam }
  let a := s.pk.pc.toNat
  let bytes := (List.range 4).map fun k => (a % 128 / 4 * 4 + k, byteAt (w % 2 ^ nbits) k)
  let old : HomeLine :=
    (s.l2.find? fun h => h.ctx == s.tm.ctx && h.line == a / 128).getD
      { ctx := s.tm.ctx, line := a / 128, data := 0, perm := {}, phys := 2 ^ 45 }
  let line : HomeLine :=
    { old with data := setLineBytes old.data bytes, pend := [], poison := false, perm := { old.perm with x := true } }
  { s with
    l2 := upsert (fun h => h.ctx == s.tm.ctx && h.line == a / 128) line s.l2
    pk := { s.pk with parkDue := false, declined := none, runpos := if s.pk.runpos = 24 then 0 else s.pk.runpos }
    boot := .running
    turns := .issue :: s.turns }

end Sys2Proof.Machine
end

