-- ==== Sys2Proof/Safety.lean ====
section
/-! DEFINITION. What a safe run is, and the terms in which claims speak of a word: when it issues, what completing it does
to the pack that issues it, and what it leaves alone. -/

namespace Sys2Proof.Safety

open Sys2Proof.Machine

/-- A step that answers a next state. -/
def Runs (s : State) : Prop := ∃ t, step s = .next t

/-- A freed vector register of a pack holds zero in every lane (R52). -/
def FreedReadZero (p : Pack) : Prop := ∀ r, r < 64 → p.isLive r = false → p.v r = 0

/-- Memory keeps its canonical form. -/
def MemoryWf (s : State) : Prop := Memory.wf s.hbm = true

/-- A run of n steps that all answer next states. -/
def SafeFor : Nat → State → Prop
  | 0, _ => True
  | n + 1, s => ∃ t, step s = .next t ∧ SafeFor n t

/-! ## When a word issues, and what completing it is -/

/-- The word has no defect of R59, and no interlock of R95, R96, R220 or R244 holds it. -/
def Issues (i : Instr) (s : State) : Prop := checkWord s.tm s.pk i = none ∧ mustStall s.pk i = false

/-- Only the issuing pack has changed, and counter 6 of its core, which counts words issued (R370). -/
def OnlyPack (s t : State) : Prop := t = { s.countWord with pk := t.pk }

/-- A pack at the word after the one it issued (R49): the run is one word longer, or, where the word ends it, over: the pack
is then ready with age 0 (R48, R97). -/
def Advanced (ends : Bool) (now : Nat) (p q : Pack) : Prop :=
  q.pc = p.pc + 4 ∧ q.declined = none ∧
    (ends = false → q.runpos = p.runpos + 1 ∧ q.status = p.status ∧ q.since = p.since) ∧
    (ends = true → q.runpos = 0 ∧ q.since = now ∧ q.status = if p.status = .running then .ready else p.status)

/-- Word i completes: exec answers a next state, its pack at the next word, and P of it. A word other than a matrix word keeps
a PPT point of the run it stands in, and no earlier one (R332). -/
def Completes (i : Instr) (s : State) (P : State → Prop) : Prop :=
  ∃ t, exec i s = .next t ∧ Advanced (endsRun i) s.gtc s.pk t.pk ∧
    (isMatrixWord i = false → t.pk.atPpt = (s.pk.atPpt && s.pk.runpos != 0)) ∧ P t

/-- The pack p, with the fields that completing any word may set as q has them. -/
def stepped (p q : Pack) : Pack :=
  { p with pc := q.pc, runpos := q.runpos, status := q.status, since := q.since, declined := q.declined, atPpt := q.atPpt }

/-- Word i completes and changes nothing but its pack, of which Q holds before and after. -/
def PackOnly (i : Instr) (s : State) (Q : Pack → Pack → Prop) : Prop :=
  Completes i s fun t => OnlyPack s t ∧ Q s.pk t.pk

/-- The scalar registers alone have changed, beside those of stepped: s[d] holds v and every other one what it held. -/
def SetsScalar (d : Nat) (v : DWord) (p q : Pack) : Prop :=
  q = { stepped p q with sregs := q.sregs } ∧
    ∀ r, q.s r = if r = d then v else p.s r

/-- Word i completes with the one effect that s[d] holds v (R102). -/
def WritesScalar (i : Instr) (d : BitVec 6) (v : DWord) (s : State) : Prop :=
  PackOnly i s (SetsScalar d.toNat v)

/-- s[d] holds v and the execution mask em; nothing else has changed, beside the fields of stepped. -/
def SetsScalarAndMask (d : Nat) (v em : DWord) (p q : Pack) : Prop :=
  q = { stepped p q with sregs := q.sregs, em := em } ∧ ∀ r, q.s r = if r = d then v else p.s r

/-- The registers that a word frees as last use (R51). -/
def freedBy (p : Pack) (i : Instr) : List Nat := ((uses p.ty i).fr.map VRef.regs).flatten

/-- What a vector word may change of its pack: vector registers, which of them are live, the stale record, the sticky flags,
predicates and scalar registers, beside those of stepped. -/
def VectorFrame (p q : Pack) : Prop :=
  q = { stepped p q with
    vregs := q.vregs, live := q.live, staleCount := q.staleCount, staleFirst := q.staleFirst, staleSeen := q.staleSeen
    fflags := q.fflags, preds := q.preds, sregs := q.sregs }

/-- The registers of ds receive f in the lanes of m; those freed read zero; every other lane is as it was (R8, R51, R52). -/
def VectorValues (freed ds : List Nat) (m : DWord) (f : Nat → Nat → Word) (p q : Pack) : Prop :=
  ∀ r l, l < 64 → lane (q.v r) l =
    if ds.contains r && m.getLsbD l then f r l else if freed.contains r then 0 else lane (p.v r) l

/-- A register is live after a vector word if it was written, or was live and is not freed (R51, R52). -/
def VectorLive (freed ds : List Nat) (m : DWord) (p q : Pack) : Prop :=
  ∀ r, r < 64 → q.isLive r = ((ds.contains r && m != 0) || (p.isLive r && !freed.contains r))

/-- The stale record of a word that reads the registers rs (R53). -/
def StaleReads (rs : List Nat) (p q : Pack) : Prop :=
  if rs.all p.isLive then q.staleCount = p.staleCount ∧ q.staleFirst = p.staleFirst ∧ q.staleSeen = p.staleSeen
  else q.staleSeen = true ∧ q.staleCount.toNat = min 0xFFFF (p.staleCount.toNat + 1) ∧ (p.staleSeen = true → q.staleFirst = p.staleFirst)

/-- The registers that a word reads. -/
def readBy (p : Pack) (i : Instr) : List Nat := ((uses p.ty i).vr.map VRef.regs).flatten

/-- The effect of a word on the vector side of its pack: the registers ds receive f in the lanes of m, the last-use sources are
freed, a read of a freed register is recorded, and the flags fl are raised (R8, R51-R53, R91). -/
def VectorEffect (i : Instr) (ds : List Nat) (m : DWord) (f : Nat → Nat → Word) (fl : BitVec 8) (p q : Pack) : Prop :=
  VectorFrame p q ∧ VectorValues (freedBy p i) ds m f p q ∧ VectorLive (freedBy p i) ds m p q ∧ StaleReads (readBy p i) p q ∧
    q.fflags = p.fflags ||| fl

/-- Word i completes: the registers ds receive f in the lanes of m, and the flags of fl over those lanes are raised; nothing
else changes. -/
def WritesVector (i : Instr) (ds : List Nat) (m : DWord) (f : Nat → Nat → Word) (fl : Nat → BitVec 8) (s : State) : Prop :=
  PackOnly i s fun p q => VectorEffect i ds m f (flagsOver m fl) p q ∧ q.preds = p.preds ∧ q.sregs = p.sregs

/-- Word i completes: predicate d receives c in the active lanes, and the flags of fl over them are raised (R129). -/
def WritesPred (i : Instr) (d : BitVec 5) (c : Nat → Bool) (fl : Nat → BitVec 8) (s : State) : Prop :=
  PackOnly i s fun p q =>
    VectorEffect i [] 0 (fun _ _ => 0) (flagsOver p.active fl) p q ∧ q.sregs = p.sregs ∧
      ∀ r l, l < 64 → (q.p r).getLsbD l = if r = d.toNat && p.active.getLsbD l then c l else (p.p r).getLsbD l

/-- Word i completes with the effect of a word that writes lanes, and changes X of its pack besides: X of lane l is x l. -/
def WritesLanesAndX (i : Instr) (d : Nat) (m : DWord) (f : Nat → Flagged) (x : Nat → BitVec 8) (s : State) : Prop :=
  PackOnly i s fun p q =>
    VectorEffect i [d] m (fun _ l => BitVec.ofNat 32 (f l).1) (flagsOver m fun l => (f l).2) p { q with xv := p.xv } ∧
      q.preds = p.preds ∧ q.sregs = p.sregs ∧ ∀ l, l < 64 → q.x l = x l

/-- Word i completes with the effect of a word that writes lanes, having used up 128 free values (log 11, log 12). -/
def WritesFree (i : Instr) (d : Nat) (m : DWord) (f : Nat → Flagged) (s : State) : Prop :=
  Completes i s fun t => t = { s.countWord with pk := t.pk, free := s.free + 128 } ∧
    VectorEffect i [d] m (fun _ l => BitVec.ofNat 32 (f l).1) (flagsOver m fun l => (f l).2) s.pk t.pk ∧
    t.pk.preds = s.pk.preds ∧ t.pk.sregs = s.pk.sregs

/-- Word i completes: s[d] receives v, and the vector sources of i are read and freed as any word's are. -/
def ReadsLanes (i : Instr) (d : BitVec 6) (v : DWord) (s : State) : Prop :=
  PackOnly i s fun p q =>
    VectorEffect i [] 0 (fun _ _ => 0) 0 p q ∧ q.preds = p.preds ∧ ∀ r, q.s r = if r = d.toNat then v else p.s r

/-- The registers of a result, a pair where wide (R120). -/
def destOf (wide : Bool) (d : Nat) : List Nat := if wide then [d, d + 1] else [d]

/-- A word whose lane results are of 64 bits where wide: the second register of the pair takes bits 63:32 (R43, R120). -/
def WritesWide (i : Instr) (wide : Bool) (d : Nat) (m : DWord) (f : Nat → Flagged) (s : State) : Prop :=
  WritesVector i (destOf wide d) m (fun r l => BitVec.ofNat 32 ((f l).1 / 2 ^ (32 * (r - d)))) (fun l => (f l).2) s

/-- A word whose lane results are single registers. -/
def WritesLanes (i : Instr) (d : Nat) (m : DWord) (f : Nat → Flagged) (s : State) : Prop := WritesWide i false d m f s

/-- Word i completes at pc, its run over, and its scalar registers are sr; nothing else changes (R49, R50). -/
def Transfers (i : Instr) (s : State) (pc : DWord) (sr : Tab DWord) : Prop :=
  exec i s = .next { s.countWord with
    pk := { s.pk with pc := pc, sregs := sr, runpos := 0, since := s.gtc, declined := none, atPpt := s.pk.pptKept,
                      status := if s.pk.status = .running then .ready else s.pk.status } }

/-- Word i raises the precise fault f and has no other effect (R40, R358). -/
def Traps (i : Instr) (s : State) (f : FaultRec) : Prop := exec i s = .next (s.raise f)

/-- The state after word i has read its sources and freed those marked as last use (R51-R53). -/
def sourced (i : Instr) (s : State) : State := { s with pk := s.pk.consume i }

/-- Word i completes from u, the state that its effect leaves: counter 6 of the core counts it, and its pack goes on to the
next word, ending its run where E is 1 (R49, R97, R370). -/
def CompletesFrom (i : Instr) (s u : State) : Prop := exec i s = .next (u.countWord.finish (endsRun i))

/-- Word i completes from u with s[d] holding v. -/
def Returns (i : Instr) (s u : State) (d : BitVec 6) (v : DWord) : Prop :=
  CompletesFrom i s { u with pk := u.pk.setS d.toNat v }

/-- The operation that word i of the pack of s starts in counter c (R96, R112). -/
def opOf (i : Instr) (s : State) (c : Counter) : Op :=
  { id := s.serial, ctr := c, word := i, fpc := s.pk.pc, mask := s.pk.active }

/-- Word i completes from u, having started operation o, which the events ev bring to its end. -/
def Starts (i : Instr) (s u : State) (o : Op) (ev : List Instr) : Prop :=
  CompletesFrom i s { u with
    pk := { u.pk with ops := u.pk.ops ++ [o] }, serial := u.serial + 1, agenda := u.agenda ++ ev }

/-- The lanes of bad, each with a cause, a reason and an address, as a word's pending record takes them: those of a word of one
access are recorded against all 64 lanes (R230, R359). -/
def pendAfter (i : Instr) (p : Pack) (bad : List (Nat × Nat × Nat × Nat)) : FaultRec :=
  match bad with
  | [] => p.pend
  | (_, c, r, a) :: _ => if isOneLane i then (p.deferAll p.pc c r (dw a) allOnes 0).pend else (p.deferLanes p.pc bad).pend

/-- The operation of memory word i on those of the lanes that fault at none of the first checks of R219: what it has captured
of them (R220). -/
def memOp (i : Instr) (s : State) (c : Counter) (lanes : List Nat) (addr : Nat → Int) (fault : Nat → Option (Nat × Nat))
    (val : Nat → Nat) (vdst sdst : List Nat) : Op :=
  let ok := lanes.filter fun l => fault l == none
  { opOf i s c with
    ty := s.pk.ty, addrs := ok.map fun l => (l, (addr l).toNat), vals := ok.map fun l => (l, val l), vdst := vdst, sdst := sdst }

/-- Memory word i completes: its operation is started, and nothing of memory changes before the events of that operation; a lane
that fails a check takes its fault; the lines that a store or an atomic names leave the core's L1 (R96, R211, R219, R246). -/
def StartsMem (i : Instr) (s : State) (c : Counter) (lanes : List Nat) (addr : Nat → Int) (fault : Nat → Option (Nat × Nat))
    (val : Nat → Nat) (vdst sdst : List Nat) (acq : Bool) : Prop :=
  let o := memOp i s c lanes addr fault val vdst sdst
  Completes i s fun t =>
    t = { s.countWord with
      pk := t.pk, l1 := t.l1, serial := s.serial + 1, agenda := s.agenda ++ opEvents s.tm s.pk o } ∧
    t.pk = { stepped (s.pk.consume i) t.pk with
      ops := s.pk.ops ++ [o]
      acquire := if acq && !o.addrs.isEmpty then some s.serial else s.pk.acquire
      pend := pendAfter i s.pk (lanes.filterMap fun l => (fault l).map fun f => (l, f.1, f.2, wrapNat (addr l) 64)) } ∧
    t.l1 = if memKind i == .load || isPrivateWord i then s.l1
      else s.l1.filter fun k =>
        !(k.core == s.tm.core && k.ctx == s.tm.ctx && k.owner == none && o.addrs.any fun q => q.2 / 128 == k.line)

/-! ## Words by their operand form -/

/-- Every form of a scalar word of two sources: s[d] := f(s[a], s[b]). -/
def Scalar2 (i : Bool → BitVec 6 → BitVec 6 → BitVec 6 → Instr) (f : DWord → DWord → DWord) : Prop :=
  ∀ e d a b s, Issues (i e d a b) s → WritesScalar (i e d a b) d (f (s.pk.s a.toNat) (s.pk.s b.toNat)) s

/-- Every form of a scalar word of one source: s[d] := f(s[a]). -/
def Scalar1 (i : Bool → BitVec 6 → BitVec 6 → Instr) (f : DWord → DWord) : Prop :=
  ∀ e d a s, Issues (i e d a) s → WritesScalar (i e d a) d (f (s.pk.s a.toNat)) s

/-- Every form of a scalar word with an immediate: s[d] := f(s[a], imm). -/
def ScalarImm (i : Bool → BitVec 6 → BitVec 6 → BitVec n → Instr) (f : DWord → BitVec n → DWord) : Prop :=
  ∀ e d a c s, Issues (i e d a c) s → WritesScalar (i e d a c) d (f (s.pk.s a.toNat) c) s

/-- Word i, of destination d, writes in each active lane the elements g j of its type, j counting from the low end (R120,
R121). -/
def WritesElems (i : Instr) (d : BitVec 6) (g : Elem → Nat → Nat → Flagged) (s : State) : Prop :=
  let t := elemTy s.pk.ty
  WritesWide i (pairTy s.pk.ty) d.toNat s.pk.active (fun l => joinElems (g t l) t.w 0 t.n) s

/-- Every form of an integer word of two sources: each element of d receives g of the elements of a, of b and of the old d. -/
def Vector2 (i : Bool → BitVec 6 → BitVec 6 → BitVec 6 → Bool → Bool → Instr)
    (g : Elem → Bool → Nat → Nat → Nat → Flagged) : Prop :=
  ∀ e d a b x y s, Issues (i e d a b x y) s →
    WritesElems (i e d a b x y) d
      (fun t l j => g t s.pk.sat (s.pk.elem t a.toNat l j) (s.pk.elem t b.toNat l j) (s.pk.elem t d.toNat l j)) s

/-- Every form of an integer word of one source. -/
def Vector1 (i : Bool → BitVec 6 → BitVec 6 → Bool → Instr) (g : Elem → Bool → Nat → Flagged) : Prop :=
  ∀ e d a x s, Issues (i e d a x) s → WritesElems (i e d a x) d (fun t l j => g t s.pk.sat (s.pk.elem t a.toNat l j)) s

/-- Every form of an integer word with an immediate. -/
def VectorImm (i : Bool → BitVec 6 → BitVec 6 → BitVec n → Instr) (g : Elem → Bool → Nat → BitVec n → Flagged) : Prop :=
  ∀ e d a c s, Issues (i e d a c) s →
    WritesElems (i e d a c) d (fun t l j => g t s.pk.sat (s.pk.elem t a.toNat l j) c) s

/-- Word i writes in each active lane of v[d] the floating-point elements g j of the type of TY (R135, R140). -/
def WritesFloats (i : Instr) (d : BitVec 6) (g : Nat → Nat → Flagged) (s : State) : Prop :=
  WritesWide i false d.toNat s.pk.active
    (fun l => joinElems (g l) ((fpFmt s.pk.ty).magBits + 1) 0 (fpCount s.pk.ty)) s

/-- Every form of a floating-point word of two sources, under the format, direction and flushing of its pack. -/
def Float2 (i : Bool → BitVec 6 → BitVec 6 → BitVec 6 → Bool → Bool → Instr)
    (g : Fmt → Nat → Bool → Nat → Nat → Flagged) : Prop :=
  ∀ e d a b x y s, Issues (i e d a b x y) s →
    WritesFloats (i e d a b x y) d
      (fun l j => g (fpFmt s.pk.ty) s.pk.fpRm (fpFlush s.pk.ty) (s.pk.fpElem a.toNat l j) (s.pk.fpElem b.toNat l j)) s

/-- Every form of a floating-point word of one source. -/
def Float1 (i : Bool → BitVec 6 → BitVec 6 → Bool → Instr) (g : Fmt → Nat → Bool → Nat → Flagged) : Prop :=
  ∀ e d a x s, Issues (i e d a x) s →
    WritesFloats (i e d a x) d (fun l j => g (fpFmt s.pk.ty) s.pk.fpRm (fpFlush s.pk.ty) (s.pk.fpElem a.toNat l j)) s

/-- Every form of a special function of one source, its last argument the free value of the element (R147, log 12). -/
def Special1 (i : Bool → BitVec 6 → BitVec 6 → Bool → Instr) (g : Fmt → Bool → Nat → Nat → Flagged) : Prop :=
  ∀ e d a x s, Issues (i e d a x) s →
    WritesFree (i e d a x) d.toNat s.pk.active
      (fun l => joinElems
        (fun j => g (fpFmt s.pk.ty) (fpFlush s.pk.ty) (Config.freeValue (s.free + 2 * l + j)).toNat (s.pk.fpElem a.toNat l j))
        ((fpFmt s.pk.ty).magBits + 1) 0 (fpCount s.pk.ty)) s

/-- Every form of a lattice word of two sources: it reads the code that `code` answers in an active lane; with none of them
reserved it writes the lanes of m of v[d] with f, else it traps for the lowest such lane (R182). -/
def Lattice2 (i : Bool → BitVec 6 → BitVec 6 → BitVec 6 → Bool → Bool → Instr)
    (code : Pack → BitVec 6 → BitVec 6 → BitVec 6 → Nat → Option Nat) (m : Pack → BitVec 6 → BitVec 6 → BitVec 6 → DWord)
    (f : Pack → BitVec 6 → BitVec 6 → BitVec 6 → Nat → Flagged) : Prop :=
  ∀ e d a b x y s, Issues (i e d a b x y) s →
    ((∀ l c, l < 64 → s.pk.active.getLsbD l → code s.pk d a b l = some c → latReserved c = false) →
      WritesLanes (i e d a b x y) d.toNat (m s.pk d a b) (f s.pk d a b) s) ∧
    (∀ l c, l < 64 → s.pk.active.getLsbD l → code s.pk d a b l = some c → latReserved c = true →
      (∀ k c', k < l → s.pk.active.getLsbD k → code s.pk d a b k = some c' → latReserved c' = false) →
      Traps (i e d a b x y) s { precise cLATTICE 1 with lane := l, detail := c })

/-- Every form of a word of two single registers whose active lanes of v[d] receive f of the pack and the lane. -/
def Lanes2 (i : Bool → BitVec 6 → BitVec 6 → BitVec 6 → Bool → Bool → Instr) (f : Pack → BitVec 6 → BitVec 6 → BitVec 6 → Nat → Flagged) :
    Prop :=
  ∀ e d a b x y s, Issues (i e d a b x y) s → WritesLanes (i e d a b x y) d.toNat s.pk.active (f s.pk d a b) s

/-! ## Words that read records, use the array, or block -/

/-- A record of n bytes at va is read for the pack of s, as LDS reads it, from machine t: no store of the pack to it is outstanding
(R211) and no fault on it was declined; it gives x and leaves u (R230). -/
def Reads (s t : State) (va n align x : Nat) (u : State) : Prop :=
  s.storeHeld (lineSpan va n) = false ∧ s.pk.declinedIn va n = none ∧
    t.readVirt s.pk.id s.tm.core s.tm.ctx va n align = (.ok x, u, none)

/-- A layout record at rec is read for the pack of s, well formed (R261). -/
def ReadsLayout (s : State) (rec r : Nat) (u : State) : Prop :=
  rec % 128 = 0 ∧ Reads s s rec 128 128 r u ∧ layBad rec r = false

/-- Matrix word i completes from u, its operation sent to the array; no PPT point stands any longer (R332). -/
def StartsArray (i : Instr) (s u : State) (o : Op) (ev : Instr) : Prop :=
  s.arrayBusy s.tm.core = false →
    Starts i s { u with pk := { u.pk with atPpt := false } } { o with args := 0 :: o.args } [ev]

/-- Word i leaves the machine at t, having issued: counter 6 counts it (R370). -/
def Leaves (i : Instr) (s t : State) : Prop := exec i s = .next t.countWord

/-- Event i of the machine leaves it at t. -/
def Happens (i : Instr) (s t : State) : Prop := exec i s = .next t

/-- Pack p of s is k, and its operation numbered n is o. -/
def HasOp (s : State) (p : PackId) (n : Nat) (k : Pack) (o : Op) : Prop := s.pack? p = some k ∧ k.op? n = some o

/-- From u, operation n of pack p ends: the pack stands as k after the result, its counter falls, HOLD may be met, unless the pack is
to be saved (R114), and what waits for the counters goes on (R96, R113). -/
def Retires (i : Instr) (s u : State) (p : PackId) (n : Nat) (old k : Pack) : Prop :=
  let q : Pack := { k with ops := old.ops.filter fun q => q.id != n }
  Happens i s ((u.onPack p fun _ => if old.maySave (u.teamOf old) u.gtc then q else q.wakeHold u.gtc).afterOp p)

end Sys2Proof.Safety
end

