-- ==== Sys2Proof/Certificates/Slice0/Obligations.lean ====
section
/-! DEFINITION. The statements for the provers, in the terms of Safety. -/

open Sys2Proof Sys2Proof.Machine Sys2Proof.Safety

/-! ## Scalar words -/

/-- R102: the scalar arithmetic, logic, selection and counting words; the shifts take their second operand as an unsigned number;
from 64 on, the logical ones give 0 and the arithmetic one gives copies of the sign. -/
def Obligations.ScalarArithmetic : Prop :=
  Scalar2 .sadd (fun x y => x + y) ∧ Scalar2 .ssub (fun x y => x - y) ∧ Scalar2 .smul (fun x y => x * y) ∧
  Scalar2 .smulh (fun x y => (x.signExtend 128 * y.signExtend 128).extractLsb' 64 64) ∧
  Scalar2 .sand (fun x y => x &&& y) ∧ Scalar2 .sor (fun x y => x ||| y) ∧ Scalar2 .sxor (fun x y => x ^^^ y) ∧
  Scalar2 .sandn (fun x y => x &&& ~~~y) ∧
  Scalar2 .smin (fun x y => if x.slt y then x else y) ∧ Scalar2 .smax (fun x y => if x.slt y then y else x) ∧
  Scalar1 .smov (fun x => x) ∧
  Scalar1 .sclz (fun x => BitVec.ofNat 64 (((List.range 64).find? fun k => x.getLsbD (63 - k)).getD 64)) ∧
  Scalar1 .spopc (fun x => BitVec.ofNat 64 ((List.range 64).filter fun k => x.getLsbD k).length) ∧
  (∀ e d a b s, Issues (.ssel e d a b) s →
    WritesScalar (.ssel e d a b) d (if s.pk.s d.toNat = 0 then s.pk.s b.toNat else s.pk.s a.toNat) s) ∧
  Scalar2 .sshl (fun x y => BitVec.ofNat 64 (x.toNat * 2 ^ y.toNat)) ∧
  Scalar2 .sshr (fun x y => BitVec.ofNat 64 (x.toNat / 2 ^ y.toNat)) ∧
  Scalar2 .ssar (fun x y => BitVec.ofInt 64 (x.toInt / (2 ^ y.toNat : Nat)))

/-- R56, R102: SCMP writes 1 or 0; conditions eq, ne, lt, le, gt, ge are of signed numbers, ltn and gen of unsigned ones. -/
def Obligations.ScalarCompare : Prop :=
  ∀ e d a b c s, Issues (.scmp e d a b c) s →
    let x := s.pk.s a.toNat
    let y := s.pk.s b.toNat
    let holds := [x == y, x != y, x.slt y, x.sle y, y.slt x, y.sle x, x.ult y, y.ule x]
    WritesScalar (.scmp e d a b c) d (if holds[c.toNat]? = some true then 1 else 0) s

/-- R101, R103: the immediate forms; the ten-bit immediate is sign-extended, a count is six bits; SLI writes a sign-extended
constant; SHI writes one quarter of s[d] and keeps the other bits. -/
def Obligations.ScalarImmediate : Prop :=
  ScalarImm .saddImm (fun x c => x + c.signExtend 64) ∧ ScalarImm .smulImm (fun x c => x * c.signExtend 64) ∧
  ScalarImm .sandImm (fun x c => x &&& c.signExtend 64) ∧ ScalarImm .sorImm (fun x c => x ||| c.signExtend 64) ∧
  ScalarImm .sxorImm (fun x c => x ^^^ c.signExtend 64) ∧
  ScalarImm .sshlImm (fun x c => x <<< c.toNat) ∧ ScalarImm .sshrImm (fun x c => x >>> c.toNat) ∧
  ScalarImm .ssarImm (fun x c => x.sshiftRight c.toNat) ∧
  (∀ e d c s, Issues (.sli e d c) s → WritesScalar (.sli e d c) d (c.signExtend 64) s) ∧
  (∀ e d q c s, Issues (.shi e d q c) s → ∃ v : DWord, WritesScalar (.shi e d q c) d v s ∧
    ∀ k, k < 64 → v.getLsbD k =
      if 16 * q.toNat ≤ k ∧ k < 16 * q.toNat + 16 then c.getLsbD (k - 16 * q.toNat) else (s.pk.s d.toNat).getLsbD k)

/-! ## Masks, mode, status and control -/

/-- R104: the words that read and write the execution mask. -/
def Obligations.MaskWords : Prop :=
  (∀ e d a s, Issues (.mskp e d a) s →
    PackOnly (.mskp e d a) s (SetsScalarAndMask d.toNat s.pk.em (s.pk.em &&& s.pk.p a.toNat))) ∧
  (∀ e d a s, Issues (.mskn e d a) s →
    PackOnly (.mskn e d a) s (SetsScalarAndMask d.toNat s.pk.em (s.pk.em &&& ~~~(s.pk.p a.toNat)))) ∧
  (∀ e a s, Issues (.msks e a) s →
    PackOnly (.msks e a) s fun p q => q = { stepped p q with em := p.s a.toNat }) ∧
  (∀ e d s, Issues (.mskg e d) s → WritesScalar (.mskg e d) d s.pk.em s) ∧
  (∀ e d a s, Issues (.mskpop e d a) s →
    WritesScalar (.mskpop e d a) d
      (BitVec.ofNat 64 ((List.range 64).filter fun k => (s.pk.em &&& s.pk.p a.toNat).getLsbD k).length) s) ∧
  (∀ e d a s, Issues (.mskff e d a) s →
    WritesScalar (.mskff e d a) d
      (BitVec.ofNat 64 (((List.range 64).find? fun k => (s.pk.em &&& s.pk.p a.toNat).getLsbD k).getD 64)) s)

/-- R46: MODE writes mode[14:0] := word[24:10], the fields in their places; MODEG copies the mode register; MODES writes it, and
traps on a value that it cannot hold; at pack start it is 0. -/
def Obligations.ModeWords : Prop :=
  (∀ e d s, Issues (.modeg e d) s → WritesScalar (.modeg e d) d (s.pk.mode.setWidth 64) s) ∧
  (∀ e a s, Issues (.modes e a) s →
    let x := s.pk.s a.toNat
    if x.toNat < 2 ^ 15 ∧ x.toNat / 2 ^ 11 % 16 < 12 ∧ x.toNat / 2 ^ 8 % 8 < 5 then
      PackOnly (.modes e a) s fun p q => q = { stepped p q with mode := x.setWidth 15 }
    else Traps (.modes e a) s (illegal (encode (.modes e a)) 4)) ∧
  (∀ e t r g n p u s, Issues (.mode e t r g n p u) s →
    let m := BitVec.ofNat 15 (t.toNat * 2 ^ 11 + r.toNat * 2 ^ 8 + g.toNat * 2 ^ 7 + n.toNat * 2 ^ 6 + p.toNat * 2 + u.toNat)
    PackOnly (.mode e t r g n p u) s (fun k q => q = { stepped k q with mode := m }) ∧
      m = (encode (.mode e t r g n p u)).extractLsb' 10 15) ∧
  (∀ g t roles now k, k ∈ newPacks g t roles now → k.mode = 0)

/-- R57, R105-R107, R385: SRD reads the status register that its code names; CNTRD reads a counter, one that counts time or cc a
free value (log 11); NOP does nothing; YIELD makes the pack's age 0. -/
def Obligations.StatusWords : Prop :=
  (∀ e d (a : BitVec 6) s, Issues (.srd e d a) s → a.toNat < 16 →
    let t := s.tm
    let p := s.pk
    let values : List DWord := [64, 16, 4, BitVec.ofNat 64 (t.lcore % 256), BitVec.ofNat 64 t.id.team,
      BitVec.ofNat 64 (if t.gang = 0 then 0xFFFFFFFF else t.id.team / t.gang),
      BitVec.ofNat 64 (if t.gang = 0 then 0 else t.id.team % t.gang), BitVec.ofNat 64 p.id.role, BitVec.ofNat 64 p.id.pir,
      BitVec.ofNat 64 t.depth, BitVec.ofNat 64 s.gtc, BitVec.ofNat 64 p.lwct, p.fflags.setWidth 64, p.fstat,
      BitVec.ofNat 64 t.ctx,
      BitVec.ofNat 64 (p.staleCount.toNat * 2 ^ 16 + p.staleFirst.toNat * 2 ^ 8 + p.staleSeen.toNat)]
    ∃ v, values[a.toNat]? = some v ∧ WritesScalar (.srd e d a) d v s) ∧
  (∀ e d a s, Issues (.cntrd e d a) s →
    let n := (s.pk.s a.toNat).toNat % 2 ^ 8
    let core := (s.core s.tm.core).count
    (n ≤ 5 ∨ n = 7 ∨ n = 8 →
      Returns (.cntrd e d a) s { s with free := s.free + 1 } d (Config.freeValue s.free)) ∧
    (n = 6 ∨ n = 9 → Returns (.cntrd e d a) s s d (Tab.get 0 core n)) ∧
    (10 ≤ n ∧ n ≤ 16 → Returns (.cntrd e d a) s s d (Tab.get 0 s.count n)) ∧
    (n = 17 → Returns (.cntrd e d a) s s d (s.ctx s.tm.ctx).stale) ∧
    (17 < n → Returns (.cntrd e d a) s s d 0)) ∧
  (∀ e s, Issues (.nop e) s → PackOnly (.nop e) s fun p q => q = stepped p q) ∧
  (∀ e s, Issues (.yield e) s → exec (.yield e) s = .next { s.countWord with
    pk := { s.pk with pc := s.pk.pc + 4, since := s.gtc, declined := none, atPpt := s.pk.pptKept,
                      runpos := if e then 0 else s.pk.runpos + 1,
                      status := if e && s.pk.status == .running then .ready else s.pk.status } })

/-- R109, R115: control transfers go to their target, or on to the next word, and end the run. -/
def Obligations.ControlTransfers : Prop :=
  (∀ a s, Issues (.ret a) s → Transfers (.ret a) s (s.pk.s a.toNat) s.pk.sregs) ∧
  (∀ a s, Issues (.jmp a) s → Transfers (.jmp a) s (s.pk.s a.toNat) s.pk.sregs) ∧
  (∀ o s, Issues (.bra o) s → Transfers (.bra o) s (s.pk.pc + 4 * o.signExtend 64) s.pk.sregs) ∧
  (∀ o s, Issues (.call o) s →
    Transfers (.call o) s (s.pk.pc + 4 * o.signExtend 64) (s.pk.setS 63 (s.pk.pc + 4)).sregs) ∧
  (∀ o s, Issues (.bemz o) s →
    Transfers (.bemz o) s (if s.pk.em = 0 then s.pk.pc + 4 * o.signExtend 64 else s.pk.pc + 4) s.pk.sregs) ∧
  (∀ o s, Issues (.bemf o) s →
    Transfers (.bemf o) s (if s.pk.em = allOnes then s.pk.pc + 4 * o.signExtend 64 else s.pk.pc + 4) s.pk.sregs) ∧
  (∀ r o s, Issues (.bz r o) s →
    Transfers (.bz r o) s (if s.pk.s r.toNat = 0 then s.pk.pc + 4 * o.signExtend 64 else s.pk.pc + 4) s.pk.sregs) ∧
  (∀ r o s, Issues (.bnz r o) s →
    Transfers (.bnz r o) s (if s.pk.s r.toNat = 0 then s.pk.pc + 4 else s.pk.pc + 4 * o.signExtend 64) s.pk.sregs)

/-- R48, R108, R113, R359: EXIT ends the pack, which then only retires; HOLD ends the run, and the pack waits at the word until
every counter is at or below its threshold, 31 leaving a counter out; with a pending deferred record both take its trap. -/
def Obligations.ExitAndHold : Prop :=
  (∀ s, Issues .exit s → s.pk.hasPending = false →
    exec .exit s = .next { s.countWord with
      pk := { s.pk with status := .exiting, runpos := 0, atPpt := s.pk.pptKept }
      agenda := s.agenda ++ [.packRetire s.pk.id] }) ∧
  (∀ e l st t m c s, Issues (.hold e l st t m c) s → s.pk.hasPending = false →
    let under : Counter → BitVec 5 → Prop := fun k f => f = 31 ∨ s.pk.counter k ≤ f.toNat
    let met := under .ld l ∧ under .st st ∧ under .tl t ∧ under .mx m ∧ under .dc c
    (met → Transfers (.hold e l st t m c) s (s.pk.pc + 4) s.pk.sregs) ∧
    (¬ met → exec (.hold e l st t m c) s = .next { s.countWord with
      pk := { s.pk with status := .waiting, wait := .hold l.toNat st.toNat t.toNat m.toNat c.toNat } })) ∧
  (∀ i s, (i = .exit ∨ ∃ e l st t m c, i = .hold e l st t m c) → Issues i s → s.pk.hasPending = true →
    exec i s = .next s.takePending.countWord)
/-! ## Integer vector words -/

/-- R79, R121, R122: the integer arithmetic words. A result r wraps, or under SAT is clamped to the range of the type, which
raises SAT. -/
def Obligations.IntegerArithmetic : Prop :=
  Vector2 .vadd (fun t sat x y _ => saturated t sat (t.val x + t.val y)) ∧
  Vector2 .vsub (fun t sat x y _ => saturated t sat (t.val x - t.val y)) ∧
  Vector2 .vmul (fun t sat x y _ => saturated t sat (t.val x * t.val y)) ∧
  Vector2 .vmulh (fun t _ x y _ => (wrapNat (t.val x * t.val y / (2 ^ t.w : Nat)) t.w, 0)) ∧
  Vector2 .vmad (fun t sat x y z => saturated t sat (t.val x * t.val y + t.val z)) ∧
  Vector2 .vmin (fun t _ x y _ => (if t.val y < t.val x then y else x, 0)) ∧
  Vector2 .vmax (fun t _ x y _ => (if t.val x < t.val y then y else x, 0)) ∧
  Vector1 .vabs (fun t sat x => saturated t sat (t.val x).natAbs) ∧
  Vector1 .vneg (fun t sat x => saturated t sat (-t.val x)) ∧
  Vector1 .vmov (fun _ _ x => (x, 0))

/-- R7, R79: what saturating and wrapping are, on each type: under SAT a result in range is kept, one out of range becomes the
nearest bound and raises SAT; without SAT the low bits are kept and no flag is raised. -/
def Obligations.SaturationClamps : Prop :=
  ∀ ty (r : Int), ty < 12 →
    let t := elemTy ty
    let lo : Int := if t.sg then -(2 ^ (t.w - 1) : Nat) else 0
    let hi : Int := if t.sg then (2 ^ (t.w - 1) : Nat) - 1 else (2 ^ t.w : Nat) - 1
    (saturated t false r).2 = 0 ∧ ((saturated t false r).1 : Int) = r % (2 ^ t.w : Nat) ∧
    (lo ≤ r ∧ r ≤ hi → t.val (saturated t true r).1 = r ∧ (saturated t true r).2 = 0) ∧
    (r < lo → t.val (saturated t true r).1 = lo ∧ (saturated t true r).2 = 0x40) ∧
    (hi < r → t.val (saturated t true r).1 = hi ∧ (saturated t true r).2 = 0x40)

/-- R122-R125, R127: the logical words, the carry and borrow, the shifts and rotation, and the counting words, element by element;
the immediate forms take the ten-bit immediate sign-extended to the element, or a six-bit count. -/
def Obligations.IntegerBits : Prop :=
  Vector2 .vand (fun _ _ x y _ => (x &&& y, 0)) ∧ Vector2 .vor (fun _ _ x y _ => (x ||| y, 0)) ∧
  Vector2 .vxor (fun _ _ x y _ => (x ^^^ y, 0)) ∧
  Vector1 .vnot (fun t _ x => (2 ^ t.w - 1 - x, 0)) ∧
  Vector2 .vandn (fun t _ x y _ => (x &&& (2 ^ t.w - 1 - y), 0)) ∧
  Vector2 .vaddc (fun t _ x y _ => ((x + y) / 2 ^ t.w, 0)) ∧
  Vector2 .vsubb (fun _ _ x y _ => (if x < y then 1 else 0, 0)) ∧
  Vector2 .vshl (fun t _ x y _ => (x * 2 ^ y % 2 ^ t.w, 0)) ∧
  Vector2 .vshr (fun _ _ x y _ => (x / 2 ^ y, 0)) ∧
  Vector2 .vsar (fun t _ x y _ => (wrapNat (signed x t.w / (2 ^ y : Nat)) t.w, 0)) ∧
  Vector2 .vrot (fun t _ x y _ => (x * 2 ^ (y % t.w) % 2 ^ t.w + x / 2 ^ (t.w - y % t.w), 0)) ∧
  Vector1 .vclz (fun t _ x => (((List.range t.w).find? fun k => x.testBit (t.w - 1 - k)).getD t.w, 0)) ∧
  Vector1 .vffs (fun t _ x => (((List.range t.w).find? fun k => x.testBit k).getD t.w, 0)) ∧
  Vector1 .vpopc (fun t _ x => (((List.range t.w).filter fun k => x.testBit k).length, 0)) ∧
  (∀ e d a x s, Issues (.vbrev e d a x) s → ∃ g : Nat → Nat → Nat,
    WritesElems (.vbrev e d a x) d (fun _ l j => (g l j, 0)) s ∧
    ∀ l j k, k < (elemTy s.pk.ty).w →
      (g l j).testBit k = (s.pk.elem (elemTy s.pk.ty) a.toNat l j).testBit ((elemTy s.pk.ty).w - 1 - k)) ∧
  VectorImm .vaddImm (fun t sat x (c : BitVec 10) => saturated t sat (t.val x + t.val (wrapNat c.toInt t.w))) ∧
  VectorImm .vmulImm (fun t sat x (c : BitVec 10) => saturated t sat (t.val x * t.val (wrapNat c.toInt t.w))) ∧
  VectorImm .vandImm (fun t _ x (c : BitVec 10) => (x &&& wrapNat c.toInt t.w, 0)) ∧
  VectorImm .vorImm (fun t _ x (c : BitVec 10) => (x ||| wrapNat c.toInt t.w, 0)) ∧
  VectorImm .vxorImm (fun t _ x (c : BitVec 10) => (x ^^^ wrapNat c.toInt t.w, 0)) ∧
  VectorImm .vshlImm (fun t _ x (c : BitVec 6) => (x * 2 ^ c.toNat % 2 ^ t.w, 0)) ∧
  VectorImm .vshrImm (fun _ _ x (c : BitVec 6) => (x / 2 ^ c.toNat, 0)) ∧
  VectorImm .vsarImm (fun t _ x (c : BitVec 6) => (wrapNat (signed x t.w / (2 ^ c.toNat : Nat)) t.w, 0))

/-- R126, R128, R131-R133: the words that select, load a constant, and move values among lanes. VSEL writes every lane of em,
the guard choosing its source; VGET reads a lane whatever em and the guard hold. With pos bits 4:0 and len bits 13:8 of y, at most
32: VBFX gives bits pos to pos + len - 1 of x, zeros above bit 31 of x, sign-extended from bit len - 1 under a signed type; VBFI
replaces those of its destination. -/
def Obligations.LaneWords : Prop :=
  (∀ e d a b x y s, Issues (.vsel e d a b x y) s →
    WritesWide (.vsel e d a b x y) (pairTy s.pk.ty) d.toNat s.pk.em
      (fun l => (s.pk.laneVal (pairTy s.pk.ty) (if s.pk.guard.getLsbD l then a.toNat else b.toNat) l, 0)) s) ∧
  (∀ e d c s, Issues (.vli e d c) s →
    WritesLanes (.vli e d c) d.toNat s.pk.active (fun _ => ((c.signExtend 32).toNat, 0)) s) ∧
  (∀ e d s, Issues (.vlane e d) s → WritesLanes (.vlane e d) d.toNat s.pk.active (fun l => (l, 0)) s) ∧
  Lanes2 .vshf (fun p _ a b l => ((lane (p.v a.toNat) ((lane (p.v b.toNat) l).toNat % 64)).toNat, 0)) ∧
  (∀ e d a b x s, Issues (.vstep e d a b x) s →
    WritesLanes (.vstep e d a b x) d.toNat s.pk.active
      (fun l => ((lane (s.pk.v a.toNat) ((l + (s.pk.s b.toNat).toNat) % 64)).toNat, 0)) s) ∧
  (∀ e d a b x s, Issues (.vbcast e d a b x) s →
    WritesLanes (.vbcast e d a b x) d.toNat s.pk.active
      (fun _ => ((lane (s.pk.v a.toNat) ((s.pk.s b.toNat).toNat % 64)).toNat, 0)) s) ∧
  (∀ e d a b x s, Issues (.vget e d a b x) s →
    ReadsLanes (.vget e d a b x) d ((lane (s.pk.v a.toNat) ((s.pk.s b.toNat).toNat % 64)).setWidth 64) s) ∧
  Lanes2 .vbfx (fun p _ a b l =>
    let x := (lane (p.v a.toNat) l).toNat
    let y := (lane (p.v b.toNat) l).toNat
    let len := min (y / 2 ^ 8 % 64) 32
    let f := x / 2 ^ (y % 32) % 2 ^ len
    (if (elemTy p.ty).sg ∧ 0 < len ∧ f.testBit (len - 1) then f + (2 ^ 32 - 2 ^ len) else f, 0)) ∧
  (∀ e d a b x y s, Issues (.vbfi e d a b x y) s → ∃ g : Nat → Word,
    WritesLanes (.vbfi e d a b x y) d.toNat s.pk.active (fun l => ((g l).toNat, 0)) s ∧
    ∀ l k, l < 64 → k < 32 →
      let c := (lane (s.pk.v b.toNat) l).toNat
      let pos := c % 32
      let len := min (c / 2 ^ 8 % 64) 32
      (g l).getLsbD k = if pos ≤ k ∧ k < pos + len then (lane (s.pk.v a.toNat) l).getLsbD (k - pos)
        else (lane (s.pk.v d.toNat) l).getLsbD k)

/-- R129, R130: VCMP writes, in the active lanes of a predicate, whether the condition holds of every element; PLOG combines
two predicates. -/
def Obligations.PredicateWords : Prop :=
  (∀ e d a b x y (c : BitVec 3) s, Issues (.vcmp e d a b x y c) s → c.toNat < 6 →
    let t := elemTy s.pk.ty
    WritesPred (.vcmp e d a b x y c) d
      (fun l => (List.range t.n).all fun j =>
        let u := t.val (s.pk.elem t a.toNat l j)
        let v := t.val (s.pk.elem t b.toNat l j)
        ([decide (u = v), decide (u ≠ v), decide (u < v), decide (u ≤ v), decide (v < u), decide (v ≤ u)][c.toNat]?).getD false)
      (fun _ => 0) s) ∧
  (∀ e d a b (o : BitVec 3) s, Issues (.plog e d a b o) s →
    WritesPred (.plog e d a b o) d
      (fun l =>
        let u := (s.pk.p a.toNat).getLsbD l
        let v := (s.pk.p b.toNat).getLsbD l
        ([u && v, u || v, u != v, u && !v, !u, u, true, false][o.toNat]?).getD false)
      (fun _ => 0) s)

/-! ## Floating-point words -/

/-- R135, R136, R140-R144, R146, R147: the floating-point words: each element is the result that the operation gives in the format
of TY, in the direction of RM for FP32 and to nearest even for the packed types, which also flush. Of the special functions, where
the enclosure that computes one leaves its rounding undecided, the result is a free value (log 12). -/
def Obligations.FloatWords : Prop :=
  Float2 .fadd (fun f rm fl => fpAdd f rm fl false) ∧ Float2 .fsub (fun f rm fl => fpAdd f rm fl true) ∧
  Float2 .fmul fpMul ∧ Float2 .fdiv fpDiv ∧
  Float2 .fmin (fun f _ fl => fpMinMax f fl false) ∧ Float2 .fmax (fun f _ fl => fpMinMax f fl true) ∧
  Float1 .fabs (fun f _ _ c => (c % 2 ^ f.magBits, 0)) ∧
  Float1 .fneg (fun f _ _ c => (if c < 2 ^ f.magBits then c + 2 ^ f.magBits else c % 2 ^ f.magBits, 0)) ∧
  Float1 .fclass (fun f _ _ c => (2 ^ fpClass f c, 0)) ∧ Float1 .frint fpRint ∧
  (∀ e d a b x y o s, Issues (.ffma e d a b x y o) s →
    WritesFloats (.ffma e d a b x y o) d
      (fun l j => fpFma (fpFmt s.pk.ty) s.pk.fpRm (fpFlush s.pk.ty) (o = 2 || o = 3) (o = 1 || o = 3)
        (s.pk.fpElem a.toNat l j) (s.pk.fpElem b.toNat l j) (s.pk.fpElem d.toNat l j)) s) ∧
  Float1 .frcp (fun f _ => fpRcp f) ∧ Float1 .frsq (fun f _ => fpRsq f) ∧ Float1 .fsqrt (fun f _ => fpSqrt f) ∧
  Special1 .fexp2 fpExp2 ∧ Special1 .flog2 fpLog2 ∧ Special1 .fsin (fun f fl => fpSinCos f fl false) ∧
  Special1 .fcos (fun f fl => fpSinCos f fl true) ∧ Special1 .ftanh fpTanh

/-- R145, R148: FCMP writes whether the relation holds of every element, each raising its own flags; FFLAGS returns the sticky
flags, clears those of s[b], then sets those of s[a]. -/
def Obligations.FloatCompareAndFlags : Prop :=
  (∀ e d a b x y (c : BitVec 3) s, Issues (.fcmp e d a b x y c) s →
    let r := fun l j => fpCmp (fpFmt s.pk.ty) (fpFlush s.pk.ty) c.toNat (s.pk.fpElem a.toNat l j) (s.pk.fpElem b.toNat l j)
    let js := List.range (fpCount s.pk.ty)
    WritesPred (.fcmp e d a b x y c) d (fun l => js.all fun j => (r l j).1)
      (fun l => js.foldl (fun acc j => acc ||| (r l j).2) 0) s) ∧
  (∀ e d a b s, Issues (.fflags e d a b) s →
    PackOnly (.fflags e d a b) s fun p q =>
      q = { stepped p q with
        sregs := q.sregs
        fflags := (p.fflags &&& ~~~((p.s b.toNat).setWidth 8)) ||| (p.s a.toNat).setWidth 8 } ∧
      ∀ r, q.s r = if r = d.toNat then p.fflags.setWidth 64 else p.s r)

/-! ## Conversion -/

/-- R154-R157: CVT converts element by element, and gives 0 to elements beyond those of the source; UNPK widens one packed
element to FP32; PACK2, PACK4 and PACK4H narrow FP32 values and pack them, PACK4H into one half, keeping the other. -/
def Obligations.Conversions : Prop :=
  (∀ e d a (t : BitVec 6) x s, Issues (.cvt e d a t x) s →
    let ta := elemTy s.pk.ty
    let td := elemTy t.toNat
    WritesWide (.cvt e d a t x) (pairTy t.toNat) d.toNat s.pk.active
      (fun l => joinElems
        (fun j => if j < ta.n then cvtElem s.pk.ty t.toNat s.pk.rm s.pk.sat (s.pk.elem ta a.toNat l j) else (0, 0)) td.w 0 td.n) s) ∧
  (∀ e d a t x q s, Issues (.unpk e d a t x q) s →
    WritesLanes (.unpk e d a t x q) d.toNat s.pk.active (fun l => unpkElem t.toNat q.toNat (lane (s.pk.v a.toNat) l).toNat) s) ∧
  Lanes2 .pack2Bf16 (fun p _ a b l =>
    joinElems (fun j => fpConv fp32 bf16 p.rm (lane (p.v (if j = 0 then a.toNat else b.toNat)) l).toNat) 16 0 2) ∧
  Lanes2 .pack2F16 (fun p _ a b l =>
    joinElems (fun j => fpConv fp32 fp16 p.rm (lane (p.v (if j = 0 then a.toNat else b.toNat)) l).toNat) 16 0 2) ∧
  (∀ e d a b x y s, Issues (.pack4E4m3 e d a b x y) s →
    WritesLanes (.pack4E4m3 e d a b x y) d.toNat s.pk.active
      (fun l => joinElems (fun j => fpConv fp32 e4m3 rmRNA (pack4In s.pk a b l j)) 8 0 4) s) ∧
  (∀ e d a b x y s, Issues (.pack4E5m2 e d a b x y) s →
    WritesLanes (.pack4E5m2 e d a b x y) d.toNat s.pk.active
      (fun l => joinElems (fun j => fpConv fp32 e5m2 rmRNA (pack4In s.pk a b l j)) 8 0 4) s) ∧
  (∀ e d a b x y s, Issues (.pack4hLo e d a b x y) s →
    WritesLanes (.pack4hLo e d a b x y) d.toNat s.pk.active
      (fun l =>
        let r := joinElems (fun j => quantE2m1 (pack4In s.pk a b l j) (s.pk.x l).toNat) 4 0 4
        ((lane (s.pk.v d.toNat) l).toNat / 2 ^ 16 * 2 ^ 16 + r.1, r.2)) s) ∧
  (∀ e d a b x y s, Issues (.pack4hHi e d a b x y) s →
    WritesLanes (.pack4hHi e d a b x y) d.toNat s.pk.active
      (fun l =>
        let r := joinElems (fun j => quantE2m1 (pack4In s.pk a b l j) (s.pk.x l).toNat) 4 0 4
        ((lane (s.pk.v d.toNat) l).toNat % 2 ^ 16 + r.1 * 2 ^ 16, r.2)) s)

/-- R151, R160-R163: BSCALE and QCB work on the active lanes of each group of 32; XSET writes X of the active lanes; QCB on an
empty codebook traps where some lane is active; that it has no effect where none is, as R100 has it of every vector word, although R162
names no lanes, is the model's reading (log 32, DEDUCED); CBLD replaces a codebook, or traps on an entry that is not finite or not
below the one after it. -/
def Obligations.ScalesAndCodebooks : Prop :=
  (∀ e d a t x s, Issues (.bscale e d a t x) s →
    let val := fun l => (lane (s.pk.v a.toNat) l).toNat
    WritesLanes (.bscale e d a t x) d.toNat s.pk.active
      (fun l => (bscaleGroup t.toNat ((groupLanes s.pk.active (l / 32)).map val),
        if fp32.isInf (val l) || fp32.isSNaN (val l) then flagIV else 0)) s) ∧
  (∀ e d a k x s, Issues (.qcb e d a k x) s →
    let val := fun l => (lane (s.pk.v a.toNat) l).toNat
    let book := s.tm.book k.toNat
    if book = [] ∧ s.pk.active ≠ 0 then Traps (.qcb e d a k x) s (codeTable 3 k.toNat 0xFF)
    else WritesLanes (.qcb e d a k x) d.toNat s.pk.active
      (fun l => qcbLane book ((groupLanes s.pk.active (l / 32)).map val) (val l)) s) ∧
  (∀ e d a b x y s, Issues (.xset e d a b x y) s →
    let xb := fun l => fpConv fp32 e4m3 rmRNA (lane (s.pk.v b.toNat) l).toNat
    let c := fun l => quantE2m1 (lane (s.pk.v a.toNat) l).toNat (xb l).1
    WritesLanesAndX (.xset e d a b x y) d.toNat s.pk.active (fun l => ((xb l).1 * 2 ^ 8 + (c l).1, (xb l).2 ||| (c l).2))
      (fun l => if s.pk.active.getLsbD l then BitVec.ofNat 8 (xb l).1 else s.pk.x l) s) ∧
  (∀ e k a x s, Issues (.cbld e k a x) s →
    let c := (List.range 16).map fun j => ((lane (s.pk.v a.toNat) (j / 2)).toNat / 2 ^ (16 * (j % 2))) % 2 ^ 16
    (badEntry 0 c = none → Completes (.cbld e k a x) s fun t =>
      t = { s.countWord with tm := { s.tm with cb := Tab.set [] s.tm.cb k.toNat (c.map (BitVec.ofNat 16)) }, pk := t.pk } ∧
      VectorEffect (.cbld e k a x) [] 0 (fun _ _ => 0) 0 s.pk t.pk ∧ t.pk.preds = s.pk.preds ∧ t.pk.sregs = s.pk.sregs) ∧
    (∀ j, badEntry 0 c = some j → Traps (.cbld e k a x) s (codeTable 2 k.toNat j)))

/-! ## The lattice -/

/-- R173-R182: the lattice words, lane by lane under the control word of v[b]; a reserved code in an active lane that the word
reads traps. That an LPUT which skips its every active lane leaves a freed destination freed is the model's (log 15, DEDUCED). -/
def Obligations.LatticeWords : Prop :=
  (∀ e d a b x y s, Issues (.qlat e d a b x y) s →
    WritesLanes (.qlat e d a b x y) d.toNat s.pk.active
      (fun l =>
        let c := s.pk.vl b.toNat l
        let r := latQuantise (s.pk.block8 a l) (ctlE c) (ctlPM c)
        (withHalf (s.pk.vl d.toNat l) (ctlH c) r.1, r.2)) s) ∧
  (∀ e d a b x y s, Issues (.dlat e d a b x y) s →
    (∀ l, l < 64 → s.pk.active.getLsbD l → latReserved (s.pk.codeAt a.toNat b.toNat l) = false) →
    let elem := fun l i => latElem (s.pk.codeAt a.toNat b.toNat l) (ctlE (s.pk.vl b.toNat l)) (ctlPM (s.pk.vl b.toNat l)) i
    WritesVector (.dlat e d a b x y) ((List.range 8).map (8 * d.toNat + ·)) s.pk.active
      (fun r l => BitVec.ofNat 32 (elem l (r - 8 * d.toNat)).1)
      (fun l => (List.range 8).foldl (fun acc i => acc ||| (elem l i).2) 0) s) ∧
  (∀ e d a b x y s l, Issues (.dlat e d a b x y) s →
    let reserved := fun l => s.pk.active.getLsbD l && latReserved (s.pk.codeAt a.toNat b.toNat l)
    l < 64 → reserved l = true → (∀ k, k < l → reserved k = false) →
    Traps (.dlat e d a b x y) s { precise cLATTICE 1 with lane := l, detail := s.pk.codeAt a.toNat b.toNat l }) ∧
  Lattice2 .lput
    (fun p d _ b l => if (ctlPM (p.vl b.toNat l)).testBit (ctlK (p.vl b.toNat l)) then none else some (p.codeAt d.toNat b.toNat l))
    (fun p d _ b => ofMask fun l => p.active.getLsbD l && !lputSkips (p.vl d.toNat l) (p.vl b.toNat l))
    (fun p d a b l => lputLane (p.vl d.toNat l) (p.vl b.toNat l) (p.vl a.toNat l)) ∧
  (∀ e d a b x y s, Issues (.lscale e d a b x y) s →
    WritesLanes (.lscale e d a b x y) d.toNat s.pk.active (fun l => lscaleLane (s.pk.block8 a l) (s.pk.vl b.toNat l)) s) ∧
  Lattice2 .lshell (fun p _ a b l => some (p.codeAt a.toNat b.toNat l)) (fun p _ _ _ => p.active)
    (fun p _ a b l => (lshellCode (p.codeAt a.toNat b.toNat l), 0)) ∧
  Lattice2 .lget
    (fun p _ a b l => if (ctlPM (p.vl b.toNat l)).testBit (ctlK (p.vl b.toNat l)) then none else some (p.codeAt a.toNat b.toNat l))
    (fun p _ _ _ => p.active)
    (fun p _ a b l =>
      latElem (p.codeAt a.toNat b.toNat l) (ctlE (p.vl b.toNat l)) (ctlPM (p.vl b.toNat l)) (ctlK (p.vl b.toNat l))) ∧
  Lanes2 .lpack (fun p _ a b l =>
    lpackCode ((List.range 8).map fun i => signed (p.vl (if i < 4 then a.toNat else b.toNat) l / 2 ^ (8 * (i % 4)) % 2 ^ 8) 8)) ∧
  (∀ e d a (q : BitVec 2) x s, Issues (.lchk e d a q x) s →
    WritesPred (.lchk e d a q x) d
      (fun l =>
        let c := s.pk.vl a.toNat l
        (q.toNat == 1 || decide (c % 2 ^ 16 ≤ 0xDE30)) && (q.toNat == 0 || decide (c / 2 ^ 16 % 2 ^ 16 ≤ 0xDE30)))
      (fun _ => 0) s)

/-! ## Tile memory -/

/-- R187, R189, R194-R197, R204: the words on tile handles. TALLOC makes its checks in the order 1, 4, 5, 6, 2, 3, the first that
fails giving the status and changing nothing; with status 0 a new tile takes the first free run of granules of the budget that holds
its bytes, with write pointer 0, and a binding takes its target's storage and shape; a member that has left has neither budget nor
handles. TFREE likewise changes the machine only with status 0. TINFO returns the descriptor of an allocated handle and 0 otherwise; TWPTR returns the write pointer. -/
def Obligations.TileHandles : Prop :=
  (∀ e v h c s, Issues (.talloc e v h c) s →
    let r := s.talloc h.toNat (s.pk.s c.toNat).toNat
    Returns (.talloc e v h c) s r.2 v (dw r.1) ∧ r.1 ≤ 6 ∧ (r.1 ≠ 0 → r.2 = s)) ∧
  (∀ (s : State) (h : Nat) (c : DWord),
    let t := s.tm
    let x := c.toNat
    let r := s.talloc h x
    let cols := x % 2 ^ 16
    let rows := x / 2 ^ 16 % 2 ^ 16
    let size := rows * cols * 2 ^ (x / 2 ^ 32 % 4)
    let lv := x / 2 ^ 48 % 4
    let rank := x / 2 ^ 52 % 16
    let bound := x.testBit 50
    let malformed := 2 ≤ x / 2 ^ 62 ∨ x.testBit 62 ∨ x.testBit 51 ∨ x / 2 ^ 34 % 2 ^ 14 ≠ 0 ∨ 2 ≤ lv ∨ x / 2 ^ 32 % 4 = 3 ∨
      (bound = false ∧ (rows = 0 ∨ cols = 0 ∨ 393216 < size ∨ x / 2 ^ 56 % 64 ≠ 0)) ∨ (bound = true ∧ (x % 2 ^ 34 ≠ 0 ∨ lv = 0)) ∨
      (lv = 0 ∧ rank ≠ 0)
    let noGang := lv = 1 ∧ (t.gang = 0 ∨ t.gang ≤ rank)
    let free := t.handle h = none
    let sound := free ∧ ¬ malformed ∧ ¬ noGang
    let live := fun m => s.team? (if lv = 0 ∨ rank = t.gangRank then t.id else t.member rank) = some m ∧
      (m.status = .resident ∨ m.status = .evicted)
    let target := fun (m : Team) k => m.handle (x / 2 ^ 56 % 64) = some k ∧ k.store = m.id ∧ descB k.desc.toNat = false
    let len := (size + 1023) / 1024
    (¬ free → r = (1, s)) ∧ (free ∧ malformed → r = (4, s)) ∧ (free ∧ ¬ malformed ∧ noGang → r = (5, s)) ∧
    (sound ∧ bound = true ∧ (¬ ∃ m k, live m ∧ target m k) → r = (6, s)) ∧
    (sound ∧ bound = false ∧ (¬ ∃ m, live m) → r = (if s.tableUse t.core < 256 then 3 else 2, s)) ∧
    (∀ m k, sound → bound = true → live m → target m k → r =
      if s.tableRoom t m then
        (0, s.onTeam t.id fun t => { t with handles := Tab.set none t.handles h (some
          { desc := dw (x % 2 ^ 63 + 2 ^ 63 + k.desc.toNat % 2 ^ 34), store := m.id, sid := k.sid, rows := k.rows, cols := k.cols
            eb := k.eb }) })
      else (2, s)) ∧
    (∀ m, sound → bound = false → live m → s.tableRoom t m = false → r = (2, s)) ∧
    (∀ m, sound → bound = false → live m → s.tableRoom t m = true →
      match firstFit m.busyRuns m.granules len 0 (m.granules + 1) with
      | none => r = (3, s)
      | some k => r = (0, (({ s with serial := s.serial + 1 } : State).onTeam m.id fun m =>
          { m with allocs := m.allocs ++ [{ sid := s.serial, start := k, len := len, owner := t.id, wp := 0 }] }).onTeam t.id fun t =>
        { t with handles := Tab.set none t.handles h (some
          { desc := dw (x + 2 ^ 63), store := m.id, sid := s.serial, rows := rows, cols := cols
            eb := 2 ^ (x / 2 ^ 32 % 4) }) }))) ∧
  (∀ e v h s, Issues (.tfree e v h) s →
    match s.tm.handle h.toNat with
    | none => Returns (.tfree e v h) s s v 1
    | some k =>
      if s.tileBusy s.tm h.toNat k then Returns (.tfree e v h) s s v 8
      else Returns (.tfree e v h) s (s.releaseHandle s.tm h.toNat) v 0) ∧
  (∀ e v h s, Issues (.tinfo e v h) s →
    Returns (.tinfo e v h) s s v (match s.tm.handle h.toNat with
      | none => 0
      | some k => k.desc)) ∧
  (∀ e v h s k a, Issues (.twptr e v h) s → s.tileOf s.tm h.toNat = .ok (k, a) →
    Returns (.twptr e v h) s s v (dw a.wp)) ∧
  (∀ e v h s r, Issues (.twptr e v h) s → s.tileOf s.tm h.toNat = .error r →
    CompletesFrom (.twptr e v h) s { s with pk := s.pk.deferTileAll r h.toNat 0 })

/-- R189: tile storage is allocated first-fit: at the lowest granule from which the run lies in the budget and meets no run in
use. -/
def Obligations.FirstFitIsLowest : Prop :=
  ∀ (busy : List (Nat × Nat)) b len, 0 < len →
    let fits := fun k => k + len ≤ b ∧ ∀ r, r ∈ busy → k + len ≤ r.1 ∨ r.1 + r.2 ≤ k
    match firstFit busy b len 0 (b + 1) with
    | some k => fits k ∧ ∀ j, j < k → ¬ fits j
    | none => ∀ k, ¬ fits k

/-- R198-R200, R361, R362: the tile words on tiles that are allocated, at coordinates that lie in the shape and on lines that are not
poisoned: the loads capture their 4 bytes for the counter to deliver, the stores write theirs at once, in lane order; TFILL
writes every element. What a tile word names wrongly becomes a deferred TILE_HANDLE, with the lanes that have no 4 bytes in the
shape, or, for a handle that names no storage, every active lane of TLD and TST and all 64 of TLDS and TFILL; the other lanes have
their effect. That the bytes are stored when the word issues is the model's choice (log 63). -/
def Obligations.TileAccess : Prop :=
  (∀ e v h c l s k a, Issues (.tld e v h c l) s → s.tileOf s.tm h.toNat = .ok (k, a) →
    (∀ n, n < 64 → s.pk.active.getLsbD n → ∃ o, k.offset (s.pk.vl c.toNat n) = some o ∧ a.poisoned o = false) →
    Starts (.tld e v h c l) s (sourced (.tld e v h c l) s)
      { opOf (.tld e v h c l) s .tl with
        vdst := [v.toNat]
        got := (lanesOf s.pk.active).map fun n =>
          (n, ofBytes (s.tileBytes k a ((k.offset (s.pk.vl c.toNat n)).getD 0) 4)) }
      [.tileAccessRetire s.pk.id s.serial]) ∧
  (∀ e v h c l s k a, Issues (.tst e v h c l) s → s.tileOf s.tm h.toNat = .ok (k, a) →
    (∀ n, n < 64 → s.pk.active.getLsbD n → (k.offset (s.pk.vl c.toNat n)).isSome) →
    let u := ((lanesOf s.pk.active).foldl
      (fun u n => u.tileWrite k a ((k.offset (s.pk.vl c.toNat n)).getD 0) (toBytes (s.pk.vl v.toNat n) 4))
      (sourced (.tst e v h c l) s)).testGates
    Starts (.tst e v h c l) s u { opOf (.tst e v h c l) s .tl with id := u.serial } [.tileAccessRetire s.pk.id u.serial]) ∧
  (∀ e v h c s k a o, Issues (.tlds e v h c) s → s.tileOf s.tm h.toNat = .ok (k, a) →
    k.offset ((s.pk.s c.toNat).toNat % 2 ^ 32) = some o → a.poisoned o = false →
    Starts (.tlds e v h c) s s
      { opOf (.tlds e v h c) s .tl with sdst := [v.toNat], got := [(0, ofBytes (s.tileBytes k a o 4))] }
      [.tileAccessRetire s.pk.id s.serial]) ∧
  (∀ e v h s k a, Issues (.tfill e v h) s → s.tileOf s.tm h.toNat = .ok (k, a) →
    let bytes := ((List.range (k.rows * k.cols)).map fun _ => toBytes (s.pk.s v.toNat).toNat k.eb).flatten
    let u := ((s.tileWrite k a 0 bytes).onAlloc k fun b =>
      { b with poison := b.poison.filter fun n => decide (k.bytes < 32 * n + 32) }).testGates
    Starts (.tfill e v h) s u { opOf (.tfill e v h) s .tl with id := u.serial } [.tileAccessRetire s.pk.id u.serial]) ∧
  (∀ e v h c l s r, Issues (.tld e v h c l) s → s.tileOf s.tm h.toNat = .error r →
    let i : Instr := .tld e v h c l
    Starts i s { sourced i s with pk := (s.pk.consume i).deferTile r h.toNat (s.pk.coords c.toNat) }
      { opOf i s .tl with vdst := [v.toNat] } [.tileAccessRetire s.pk.id s.serial]) ∧
  (∀ e v h c l s k a, Issues (.tld e v h c l) s → s.tileOf s.tm h.toNat = .ok (k, a) → a.poison = [] →
    let i : Instr := .tld e v h c l
    let cs := s.pk.coords c.toNat
    Starts i s { sourced i s with pk := (s.pk.consume i).deferTile 2 h.toNat (cs.filter fun q => (k.offset q.2).isNone) }
      { opOf i s .tl with
        vdst := [v.toNat]
        got := (cs.filter fun q => (k.offset q.2).isSome).map fun q =>
          (q.1, ofBytes (s.tileBytes k a ((k.offset q.2).getD 0) 4)) }
      [.tileAccessRetire s.pk.id s.serial]) ∧
  (∀ e v h c s r, Issues (.tlds e v h c) s → s.tileOf s.tm h.toNat = .error r →
    Starts (.tlds e v h c) s { s with pk := s.pk.deferTileAll r h.toNat ((s.pk.s c.toNat).toNat % 2 ^ 32) }
      { opOf (.tlds e v h c) s .tl with sdst := [v.toNat] } [.tileAccessRetire s.pk.id s.serial]) ∧
  (∀ e v h c s k a, Issues (.tlds e v h c) s → s.tileOf s.tm h.toNat = .ok (k, a) →
    k.offset ((s.pk.s c.toNat).toNat % 2 ^ 32) = none →
    Starts (.tlds e v h c) s { s with pk := s.pk.deferTileAll 2 h.toNat ((s.pk.s c.toNat).toNat % 2 ^ 32) }
      { opOf (.tlds e v h c) s .tl with sdst := [v.toNat] } [.tileAccessRetire s.pk.id s.serial]) ∧
  (∀ e v h c l s r, Issues (.tst e v h c l) s → s.tileOf s.tm h.toNat = .error r →
    let i : Instr := .tst e v h c l
    Starts i s { sourced i s with pk := (s.pk.consume i).deferTile r h.toNat (s.pk.coords c.toNat) } (opOf i s .tl)
      [.tileAccessRetire s.pk.id s.serial]) ∧
  (∀ e v h c l s k a, Issues (.tst e v h c l) s → s.tileOf s.tm h.toNat = .ok (k, a) →
    let i : Instr := .tst e v h c l
    let cs := s.pk.coords c.toNat
    let u := ((cs.filter fun q => (k.offset q.2).isSome).foldl
      (fun (u : State) (q : Nat × Nat) => u.tileWrite k a ((k.offset q.2).getD 0) (toBytes (s.pk.vl v.toNat q.1) 4))
      { sourced i s with pk := (s.pk.consume i).deferTile 2 h.toNat (cs.filter fun q => (k.offset q.2).isNone) }).testGates
    Starts i s u { opOf i s .tl with id := u.serial } [.tileAccessRetire s.pk.id u.serial]) ∧
  (∀ e v h s r, Issues (.tfill e v h) s → s.tileOf s.tm h.toNat = .error r →
    Starts (.tfill e v h) s { s with pk := s.pk.deferTileAll r h.toNat 0 } (opOf (.tfill e v h) s .tl)
      [.tileAccessRetire s.pk.id s.serial])

/-! ## Global and private memory -/

/-- R219, R223, R228-R231: the memory words capture, for each active lane whose address passes the checks, that address and the
value to be stored, in lane order; nothing of memory changes before the requests of the word are performed. What a load delivers of
the bytes read is zero-extended, or for .s8 and .s16 sign-extended, to 32 bits, a scalar load's to 64. PREF never faults, and
changes of a pack at most the time of the latest write that it knows of. -/
def Obligations.MemoryWords : Prop :=
  let lanes := fun (s : State) => lanesOf s.pk.active
  let addr := fun (s : State) (b o : BitVec 6) l => ((s.pk.s b.toNat).toNat : Int) + (lane (s.pk.v o.toNat) l).toInt
  let off := fun (s : State) (b o : BitVec 6) l => (s.pk.s b.toNat).toNat + (lane (s.pk.v o.toNat) l).toNat
  (∀ e v b o l w s, Issues (.ld e v b o l w) s →
    StartsMem (.ld e v b o l w) s .ld (lanes s) (addr s b o) (fun l => addrCheck (addr s b o l) (loadSize w.toNat)) (fun _ => 0)
      (destOf (w.toNat == 3) v.toNat) [] false) ∧
  (∀ e v b o l w s, Issues (.st e v b o l w) s →
    StartsMem (.st e v b o l w) s .st (lanes s) (addr s b o) (fun l => addrCheck (addr s b o l) (2 ^ w.toNat))
      (s.pk.laneVal (w.toNat == 3) v.toNat) [] [] false) ∧
  (∀ e v b o l w s, Issues (.ldp e v b o l w) s →
    StartsMem (.ldp e v b o l w) s .ld (lanes s) (fun l => off s b o l)
      (fun l => privCheck s.tm s.pk l (off s b o l) (loadSize w.toNat)) (fun _ => 0) (destOf (w.toNat == 3) v.toNat) [] false) ∧
  (∀ e v b o l w s, Issues (.stp e v b o l w) s →
    StartsMem (.stp e v b o l w) s .st (lanes s) (fun l => off s b o l)
      (fun l => privCheck s.tm s.pk l (off s b o l) (2 ^ w.toNat)) (s.pk.laneVal (w.toNat == 3) v.toNat) [] [] false) ∧
  (∀ e v b n w s, Issues (.lds e v b n w) s →
    let a : Int := (s.pk.s b.toNat).toNat + n.toNat * loadSize w.toNat
    StartsMem (.lds e v b n w) s .ld [0] (fun _ => a) (fun _ => addrCheck a (loadSize w.toNat)) (fun _ => 0) [] [v.toNat] false) ∧
  (∀ e v b n w s, Issues (.sts e v b n w) s →
    let a : Int := (s.pk.s b.toNat).toNat + n.toNat * 2 ^ w.toNat
    StartsMem (.sts e v b n w) s .st [0] (fun _ => a) (fun _ => addrCheck a (2 ^ w.toNat)) (fun _ => (s.pk.s v.toNat).toNat)
      [] [] false) ∧
  (∀ e s, Issues (.pflush e) s →
    let ls := s.privDirty s.pk.id
    Starts (.pflush e) s { s with l1 := s.l1.filter fun k =>
        !(k.core == s.tm.core && k.ctx == s.tm.ctx && k.owner == none && ls.any fun m => m.line == k.line) }
      { opOf (.pflush e) s .st with ty := s.pk.ty, addrs := ls.map fun m => (m.line, 128 * m.line) }
      (opEvents s.tm s.pk { opOf (.pflush e) s .st with ty := s.pk.ty, addrs := ls.map fun m => (m.line, 128 * m.line) })) ∧
  (∀ e v b o l w raw, w.toNat < 6 → raw < 2 ^ (8 * loadSize w.toNat) →
    let sx := fun m => if 4 ≤ w.toNat then ((BitVec.ofNat (8 * loadSize w.toNat) raw).signExtend m).toNat else raw
    loadSize w.toNat = [1, 2, 4, 8, 1, 2][w.toNat]?.getD 0 ∧
    loadValue (.ld e v b o l w) raw = sx 32 ∧ loadValue (.ldp e v b o l w) raw = sx 32 ∧
    ∀ n, loadValue (.lds e v b n w) raw = sx 64) ∧
  (∀ e q b o l s, Issues (.pref e q b o l) s → ∃ u, CompletesFrom (.pref e q b o l) s u ∧
    let plain := fun (k : Pack) => { k with lwct := 0 }
    plain u.pk = plain (s.pk.consume (.pref e q b o l)) ∧ s.pk.lwct ≤ u.pk.lwct ∧ u.tm = s.tm ∧ u.packs.map plain = s.packs.map plain)

/-- R219: the checks on an address, in order: it must lie below 2^45, then be aligned to the access; a private offset must first
lie within the limit of its role. -/
def Obligations.AddressChecks : Prop :=
  (∀ (a : Int) n, 0 < n →
    addrCheck a n = if 0 ≤ a ∧ a < 2 ^ 45 then (if (n : Int) ∣ a then none else some (cALIGN, 0)) else some (cPROT, 1)) ∧
  (∀ t p l x n, 0 < n →
    privCheck t p l x n =
      if (roleOf t p).plim < x + n then some (cSTACK, 0)
      else if t.parea + (t.id.team * 32 + packIndex t p) * 64 * t.pmax + (64 * (x / 4) + l) * 4 + x % 4 < 2 ^ 45 then
        (if n ∣ x then none else some (cALIGN, 0))
      else some (cPROT, 1))

/-! ## Atomics and ordering -/

/-- R247, R248, R250-R253: the atomic words capture their addresses and operands as the memory words do; an address in the launch's
private area takes SPACE. At its line an atomic computes f(old, x) of its table, on 32 or 64 bits, ATOMF element by element; the lanes
are applied in ascending order, each on the result of those before it, and each receives the value that it replaced; they are one
write of the line's last value. -/
def Obligations.AtomicWords : Prop :=
  let lanes := fun (s : State) => lanesOf s.pk.active
  let addr := fun (s : State) (b o : BitVec 6) l => ((s.pk.s b.toNat).toNat : Int) + (lane (s.pk.v o.toNat) l).toInt
  let check := fun (s : State) (b o : BitVec 6) n l =>
    match addrCheck (addr s b o l) n with
    | some f => some f
    | none =>
      if s.tm.parea ≤ (addr s b o l).toNat ∧ (addr s b o l).toNat < s.tm.parea + 2048 * s.tm.pmax * s.tm.total then some (cSPACE, 0)
      else none
  let size := fun (s : State) => if pairTy s.pk.ty then 8 else 4
  (∀ ty old x n,
    let w := if ty = 6 ∨ ty = 7 then 64 else 32
    let less := fun a b => if ty = 0 ∨ ty = 6 then (BitVec.ofNat w a).slt (BitVec.ofNat w b) else decide (a < b)
    let f := fun fn => atomNew fn ty old x n
    old < 2 ^ w → x < 2 ^ w →
    f 0 = (old + x) % 2 ^ w ∧ f 1 = old &&& x ∧ f 2 = old ||| x ∧ f 3 = old ^^^ x ∧ f 4 = (if less x old then x else old) ∧
    f 5 = (if less old x then x else old) ∧ f 6 = x ∧ f 7 = (if x ≤ old then 0 else (old + 1) % 2 ^ w) ∧
    (∀ fn, fn < 8 → 8 * atomBytes fn ty = w)) ∧
  (∀ ty old x n fn, 8 ≤ fn → fn ≤ 10 →
    let fmt := if ty = 9 then fp16 else if ty = 10 then bf16 else fp32
    let flush := ty = 9 ∨ ty = 10
    let ew := if flush then 16 else 32
    atomBytes fn ty = 4 ∧ ∀ j, j < 32 / ew →
      let a := old / 2 ^ (ew * j) % 2 ^ ew
      let b := x / 2 ^ (ew * j) % 2 ^ ew
      atomNew fn ty old x n / 2 ^ (ew * j) % 2 ^ ew =
        (if fn = 8 then fpAdd fmt rmRNE (decide flush) false a b else fpMinMax fmt (decide flush) (fn == 10) a b).1) ∧
  (∀ ty old x n, atomNew 16 ty old x n = (if old = x then n else old) ∧ atomBytes 16 ty = 4 ∧
    atomNew 17 ty old x n = (if old = x then n else old) ∧ atomBytes 17 ty = 8) ∧
  (∀ fn ty (q : AtomLane) qs d, (∀ r, r ∈ qs → q.1 < r.1) → q.2.1 + atomBytes fn ty ≤ 128 →
    let n := atomBytes fn ty
    let old := lineNat d q.2.1 n
    ∃ d', lineNat d' q.2.1 n = atomNew fn ty old q.2.2.1 q.2.2.2 % 2 ^ (8 * n) ∧
      (∀ i, i < 128 → i < q.2.1 ∨ q.2.1 + n ≤ i → lineByte d' i = lineByte d i) ∧
      atomLine fn ty (q :: qs) d = ((atomLine fn ty qs d').1, (q.1, old) :: (atomLine fn ty qs d').2)) ∧
  (∀ (s : State) ctx line fn ty lanes who h u, s.findLine ctx line = (.home h, u) → h.perm.w = true → h.poison = false →
    let r := atomLine fn ty lanes h.latest
    let w := u.homeStore h (atomWritten fn ty lanes r.1) false who
    s.atomAt ctx line fn ty lanes who = (.ok (r.2, w.1), w.2)) ∧
  (∀ e v b o l f s, Issues (.atom e v b o l f) s →
    StartsMem (.atom e v b o l f) s .ld (lanes s) (addr s b o) (check s b o (size s)) (s.pk.laneVal (pairTy s.pk.ty) v.toNat)
      (destOf (pairTy s.pk.ty) v.toNat) [] false) ∧
  (∀ e v b o l f s, Issues (.atomf e v b o l f) s →
    StartsMem (.atomf e v b o l f) s .ld (lanes s) (addr s b o) (check s b o 4) (s.pk.laneVal false v.toNat) [v.toNat] [] false) ∧
  (∀ e v b o l f s, Issues (.atoms e v b o l f) s →
    StartsMem (.atoms e v b o l f) s .st (lanes s) (addr s b o) (check s b o (size s)) (s.pk.laneVal (pairTy s.pk.ty) v.toNat)
      [] [] false) ∧
  (∀ e v b o l f s, Issues (.cas e v b o l f) s →
    StartsMem (.cas e v b o l f) s .ld (lanes s) (addr s b o) (check s b o 4) (s.pk.pair (2 * v.toNat)) [2 * v.toNat] [] false) ∧
  (∀ e v b o l f s, Issues (.cas64 e v b o l f) s →
    StartsMem (.cas64 e v b o l f) s .ld (lanes s) (addr s b o) (check s b o 8)
      (fun k => s.pk.pair (4 * v.toNat) k + 2 ^ 64 * s.pk.pair (4 * v.toNat + 2) k) (destOf true (4 * v.toNat)) [] false)

/-- R243, R244, R254-R256: LDAQ is a load whose access holds later ordered words back until it completes; STRL and FENCE wait,
in place, until the pack's counters are 0, no access of it is listed for replay, and the GTC has reached the last WCT, plus ε at system
scope; at pack scope only ld, st and the list count. -/
def Obligations.OrderingWords : Prop :=
  let addr := fun (s : State) (b o : BitVec 6) l => ((s.pk.s b.toNat).toNat : Int) + (lane (s.pk.v o.toNat) l).toInt
  let size := fun (w : BitVec 1) => if w = 1 then 8 else 4
  let released := fun (s : State) (c : BitVec 3) =>
    s.pk.counter .ld = 0 ∧ s.pk.counter .st = 0 ∧ s.pk.replay = [] ∧
      (c ≠ 0 → s.pk.counter .tl = 0 ∧ s.pk.counter .dc = 0 ∧ s.pk.lwct + (if c = 4 then s.eps else 0) ≤ s.gtc)
  (∀ e v b o l w c s, Issues (.ldaq e v b o l w c) s →
    StartsMem (.ldaq e v b o l w c) s .ld (lanesOf s.pk.active) (addr s b o) (fun l => addrCheck (addr s b o l) (size w)) (fun _ => 0)
      (destOf (w == 1) v.toNat) [] true) ∧
  (∀ e v b o l w c s, Issues (.strl e v b o l w c) s →
    (released s c →
      StartsMem (.strl e v b o l w c) s .st (lanesOf s.pk.active) (addr s b o) (fun l => addrCheck (addr s b o l) (size w))
        (s.pk.laneVal (w == 1) v.toNat) [] [] false) ∧
    (¬ released s c → exec (.strl e v b o l w c) s = .next s.stall)) ∧
  (∀ e c s, Issues (.fence e c) s →
    (released s c → CompletesFrom (.fence e c) s s) ∧ (¬ released s c → exec (.fence e c) s = .next s.stall))

/-! ## The lift engine and gates -/

/-- R291, R304-R306: LIFT queues the command block on its channel and returns its ticket, or the refusal of a halted queue; a
full queue stalls it, the block read once; what it names wrongly is a deferred TILE_HANDLE, in the order 1, 2, 3; LQRY reads the
queue; LCAN removes the commands and returns how many, once no block is half delivered. -/
def Obligations.LiftWords : Prop :=
  let queued := fun (s : State) (d : BitVec 6) (blk : BitVec 512) =>
    let ch := lcChan blk.toNat
    let q := s.tm.queue ch
    let u := ({ s with pk := { s.pk with lifting := none }.setS d.toNat (dw (ch * 2 ^ 32 + q.next)) } : State).onQueue s.tm.id ch fun q =>
      { q with next := if q.next = 2 ^ 32 - 1 then 1 else q.next + 1, cmds := q.cmds ++ [⟨q.next, blk⟩] }
    { u with agenda := u.agenda ++ if q.cmds = [] then [.liftCommandStart s.tm.id ch] else [] }
  let submits := fun (i : Instr) (d : BitVec 6) (s : State) (blk : BitVec 512) =>
    let q := s.tm.queue (lcChan blk.toNat)
    (16 ≤ q.cmds.length → exec i s = .next { s with pk := { s.pk with lifting := some blk } }) ∧
    (q.cmds.length < 16 → CompletesFrom i s (queued s d blk))
  (∀ e d a s, Issues (.lift e d a) s → s.pk.lifting = none →
    let i : Instr := .lift e d a
    let x := (s.pk.s a.toNat).toNat
    let h := x / 2 ^ 32 % 2 ^ 6
    let o := x % 2 ^ 32
    let refused := fun r => CompletesFrom i s { s with pk := s.pk.deferTileAll r h o }
    (s.tm.handle h = none → refused 1) ∧
    (∀ k, s.tm.handle h = some k → o % 64 ≠ 0 ∨ k.bytes < o + 64 → refused 2) ∧
    (∀ k, s.tm.handle h = some k → o % 64 = 0 → o + 64 ≤ k.bytes → s.storage k = none → refused 3) ∧
    (∀ k al, s.tm.handle h = some k → o % 64 = 0 → o + 64 ≤ k.bytes → s.storage k = some al → al.poisonedIn o 64 = false →
      let blk := BitVec.ofNat 512 (ofBytes (s.tileBytes k al o 64))
      if (s.tm.queue (lcChan blk.toNat)).halted then Returns i s s d (dw (2 ^ 63 + 1)) else submits i d s blk)) ∧
  (∀ e d a s blk, Issues (.lift e d a) s → s.pk.lifting = some blk → submits (.lift e d a) d s blk) ∧
  (∀ e d a s, Issues (.lqry e d a) s →
    let x := (s.pk.s a.toNat).toNat
    let q := s.tm.queue (x % 8)
    let status := q.halted.toNat * 2 ^ 63 + q.parked.toNat * 2 ^ 62 + q.err.code % 256 * 2 ^ 48 + q.err.rsn % 256 * 2 ^ 40 +
      q.cmds.length % 256 * 2 ^ 32 + q.done
    ∃ v, [dw status, dw q.err.addr, q.err.coord, dw (q.errSeq * 2 ^ 32 + q.err.bit % 2 ^ 32)][x / 16 % 4]? = some v ∧
      Returns (.lqry e d a) s s d v) ∧
  (∀ e d a s, Issues (.lcan e d a) s →
    let ch := (s.pk.s a.toNat).toNat % 8
    let q := s.tm.queue ch
    if q.held = [] ∧ q.rest = [] then
      let u := s.onTeam s.tm.id fun m => m.cancelLift ch
      let mine := liftAgent s.tm.id ch
      Returns (.lcan e d a) s { u with
        fetched := u.fetched.filter (fun f => f.pack != mine), requests := u.requests.filter fun r => r.pack != mine } d (dw q.cmds.length)
    else exec (.lcan e d a) s = .next (s.onQueue s.tm.id ch fun q => { q with stop := true }))

/-- R308: one event of a gate: an amount is added to EXP or to ARR; once EXP is at least 1 and ARR has reached it, the phase
flips, ARR falls by EXP and EXP takes its initial value; a count that would pass 2^32 - 1 is refused. -/
def Obligations.GateEvents : Prop :=
  ∀ g n isexp, n < 2 ^ 32 → g < 2 ^ 128 →
    let exp := if isexp then gEXP g + n else gEXP g
    let arr := if isexp then gARR g else gARR g + n
    match gateEvent g n isexp with
    | none => 2 ^ 32 ≤ exp ∨ 2 ^ 32 ≤ arr
    | some r => exp < 2 ^ 32 ∧ arr < 2 ^ 32 ∧ gEXP0 r = gEXP0 g ∧ r / 2 ^ 97 = g / 2 ^ 97 ∧
      (if 1 ≤ exp ∧ exp ≤ arr then gPH r = 1 - gPH g ∧ gEXP r = gEXP0 g ∧ gARR r = arr - exp
       else gPH r = gPH g ∧ gEXP r = exp ∧ gARR r = arr)

/-- R309-R312: the gate words on a usable gate: GINIT writes a new gate; GEXP and GARR are its events, GARR after a release at
team scope; GTRY reads it; GWAIT goes on if the phase has flipped, and else waits. -/
def Obligations.GateWords : Prop :=
  let off := fun (s : State) (c : BitVec 6) => (s.pk.s c.toNat).toNat % 2 ^ 32
  (∀ e v h c s k a g, Issues (.ginit e v h c) s → s.gateAt s.tm h.toNat (off s c) = .ok (k, a, g) →
    let x := (s.pk.s v.toNat).toNat
    let new := 0x6A * 2 ^ 120 + x / 2 ^ 32 % 2 * 2 ^ 98 + x % 2 ^ 32 * 2 ^ 64 + x % 2 ^ 32
    CompletesFrom (.ginit e v h c) s (s.tileWrite k a (off s c) (toBytes new 16)).testGates) ∧
  (∀ e v h c s k a g r, Issues (.gexp e v h c) s → s.liveGate s.tm h.toNat (off s c) = .ok (k, a, g) →
    gateEvent g ((s.pk.s v.toNat).toNat % 2 ^ 32) true = some r →
    CompletesFrom (.gexp e v h c) s (s.tileWrite k a (off s c) (toBytes r 16)).testGates) ∧
  (∀ e v h c s k a g r, Issues (.garr e v h c) s → s.liveGate s.tm h.toNat (off s c) = .ok (k, a, g) →
    let n := (s.pk.s v.toNat).toNat % 2 ^ 32
    gateEvent g n false = some r →
    (releaseWaits 1 s = false → CompletesFrom (.garr e v h c) s (s.tileWrite k a (off s c) (toBytes r 16)).testGates) ∧
    (releaseWaits 1 s = true → exec (.garr e v h c) s = .next s.stall)) ∧
  (∀ e v h c s k a g, Issues (.gtry e v h c) s → s.liveGate s.tm h.toNat (off s c) = .ok (k, a, g) →
    Returns (.gtry e v h c) s s v
      (dw (gARR g * 2 ^ 32 + gECH g * 8 + gKIND g * 4 + (gERR g).toNat * 2 + gPH g))) ∧
  (∀ e v h c s k a g, Issues (.gwait e v h c) s → s.liveGate s.tm h.toNat (off s c) = .ok (k, a, g) → gERR g = false →
    s.pk.hasPending = false →
    let ph := (s.pk.s v.toNat).toNat % 2
    (gPH g ≠ ph → Transfers (.gwait e v h c) s (s.pk.pc + 4) s.pk.sregs) ∧
    (gPH g = ph → exec (.gwait e v h c) s = .next { s.countWord with
      pk := { s.pk with status := .waiting, wait := .gate h.toNat (off s c) ph } }))

/-! ## Streams and compressed tensors -/

/-- R272-R277, R279-R282, R284: the code-table and stream words on tiles that hold well-formed records and streams; BIXQ returns
the index entry of a block. A stream word's result is written when its unit retires, and dc counts it. That ENC raises its flags when
it captures its operands, and DEC with its write, is the model's (log 37, DEDUCED). -/
def Obligations.StreamWords : Prop :=
  let desc := fun (s : State) (c : BitVec 5) => sdesc (s.pk.s (2 * c.toNat)).toNat (s.pk.s (2 * c.toNat + 1)).toNat
  let fine := fun (s : State) (h : BitVec 6) (c : BitVec 5) k a => s.tileOf s.tm h.toNat = .ok (k, a) ∧
    sdescBad (s.pk.s (2 * c.toNat)).toNat (s.pk.s (2 * c.toNat + 1)).toNat = false
  let parsed := fun (s : State) (c : BitVec 5) k a upTo b =>
    parseBlock ((desc s c).expect s.tm upTo) (streamBytes s (desc s c) k a) = .ok b ∧
      a.poisonedIn (desc s c).off ((b.stop + 7) / 8) = false
  (∀ e n h c s k a, Issues (.ctld e n h c) s → s.tileOf s.tm h.toNat = .ok (k, a) →
    let o := (s.pk.s c.toNat).toNat % 2 ^ 32
    let word := fun j => BitVec.ofNat 32 (ofBytes (s.tileBytes k a (o + 4 * j) 4))
    let cnt := ctCount (word 0)
    let ws := (List.range (cnt + 1)).map word
    o % 4 = 0 → cnt ≤ 64 → o + 4 * (cnt + 1) ≤ k.bytes → a.poisonedIn o (4 * (cnt + 1)) = false →
    (ctDefect ws = none → CompletesFrom (.ctld e n h c) s { s with tm := { s.tm with ct := Tab.set [] s.tm.ct n.toNat ws } }) ∧
    (∀ d, ctDefect ws = some d → Traps (.ctld e n h c) s (codeTable 1 h.toNat d))) ∧
  (∀ e n s, Issues (.ctinv e n) s →
    CompletesFrom (.ctinv e n) s { s with tm := { s.tm with ct := Tab.set [] s.tm.ct n.toNat [] } }) ∧
  (∀ e v h c s r t b x u, Issues (.bixq e v h c) s → ReadsLayout s (s.pk.s h.toNat).toNat r t →
    blockOf r (s.pk.s c.toNat).toNat = some b → Reads s t (layBidx r + 8 * b) 8 8 x u → entBad r x = false →
    Returns (.bixq e v h c) s u v (dw x)) ∧
  (∀ e v h c s k a b, Issues (.dech e v h c) s → fine s h c k a → parsed s c k a 0 b →
    Starts (.dech e v h c) s (sourced (.dech e v h c) s)
      { opOf (.dech e v h c) s .dc with
        vdst := [v.toNat], regs := [ofLanes fun l => BitVec.ofNat 32 (dechLane b ((desc s c).idx + l))], args := [0] }
      [.decodeUnitRetire s.pk.id s.serial]) ∧
  (∀ e v h c s k a b, Issues (.dec e v h c) s → fine s h c k a →
    let d := desc s c
    parsed s c k a (if d.idx < d.total then min (d.idx + 256) d.total else 0) b →
    let elem := fun j l => decElem b (d.idx + 64 * j + l)
    let flags := flagsOver s.pk.active fun l => (List.range 4).foldl (fun f j => f ||| (elem j l).2) 0
    Starts (.dec e v h c) s (sourced (.dec e v h c) s)
      { opOf (.dec e v h c) s .dc with
        vdst := (List.range 4).map (4 * v.toNat + ·)
        regs := (List.range 4).map fun j => ofLanes fun l => BitVec.ofNat 32 (elem j l).1
        args := [flags.toNat] }
      [.decodeUnitRetire s.pk.id s.serial]) ∧
  (∀ e v h c l s k a r, Issues (.enc e v h c l) s → fine s h c k a →
    let d := desc s c
    d.xp = false → encIdxOk d = true → (d.ct ≠ 15 → s.tm.slotTable d.ct ≠ []) → (d.fmt = 4 → s.tm.book d.cb ≠ []) →
    encode64 s.tm s.pk v.toNat d (streamBytes s d k a) = .ok r →
    let u := ({ s with pk := (s.pk.consume (.enc e v h c l)).raiseFlags r.flags } : State).putBytes k a d.off r.bytes
    Starts (.enc e v h c l) s u
      { opOf (.enc e v h c l) s .dc with
        id := u.serial, sdst := [2 * c.toNat + 1], got := [(0, (d.idx + r.n) % 2 ^ 16 * 2 ^ 32 + r.bit % 2 ^ 32)], args := [0] }
      [.decodeUnitRetire s.pk.id u.serial]) ∧
  (∀ e v h c s k a, Issues (.encf e v h c) s → fine s h c k a →
    let d := desc s c
    let units := (d.bit + 255) / 256
    let old := streamBytes s d k a
    d.idx = d.total → 4 ≤ old.length → 32 * units ≤ old.length →
    let header := (toBytes (mkHeader { fmt := d.fmt, slot := d.ct, xp := d.xp }) 4).mapIdx fun i b => (i, b)
    let kept := ((toBytes (mkHeader { fmt := d.fmt, slot := d.ct, xp := d.xp }) 4)[d.bit / 8]?).getD ((old[d.bit / 8]?).getD 0)
    let first := BitVec.ofNat 8 (kept.toNat % 2 ^ (d.bit % 8))
    let pad := (List.range (32 * units - d.bit / 8)).map fun i => (d.bit / 8 + i, if i = 0 then first else 0)
    let u := (sourced (.encf e v h c) s).putBytes k a d.off (header ++ pad)
    Starts (.encf e v h c) s u
      { opOf (.encf e v h c) s .dc with id := u.serial, sdst := [v.toNat], got := [(0, units)], args := [0] }
      [.decodeUnitRetire s.pk.id u.serial]) ∧
  (∀ e v h c s k a r t q, Issues (.kvapp e v h c) s → s.tileOf s.tm h.toNat = .ok (k, a) →
    let rec_ := (s.pk.s (2 * c.toNat)).toNat
    let y := (s.pk.s (2 * c.toNat + 1)).toNat
    let b := y / 2 ^ 32
    let len := y / 2 ^ 18 % 2 ^ 14
    let off := 32 * (y % 2 ^ 14)
    let data := s.tileBytes k a off (32 * len)
    let key := t.keyFor s.tm.ctx (layKEY r)
    y / 2 ^ 14 % 2 ^ 4 = 0 → len ≠ 0 → ReadsLayout s rec_ r t → b < layBlocks r → off + 32 * len ≤ k.bytes →
    a.poisonedIn off (32 * len) = false → parseHeader (ofBytes (data.take 4)) = some q → q.fmt = layFmt r →
    (layENCR r = true → key.1.isSome = true) →
    Starts (.kvapp e v h c) s key.2
      { opOf (.kvapp e v h c) s .dc with
        id := key.2.serial, sdst := [v.toNat]
        args := [rec_, r, b, len, ofBytes data] ++ if layENCR r then ((key.1.map fun k => [k.1, k.2]).getD []) else [] }
      [.kvappAppend s.pk.id key.2.serial])

/-! ## The matrix array -/

/-- R315, R318, R319, R323, R326-R332: the matrix words, with the array of the core free and their tiles valid and not held: they
capture their operands and send their operation to the array; MREL drops the latch; PPT drops it and makes a PPT point. MRD and MWR
with no active lane look at no tile's validity; with one, an invalid tile traps. That R100 excuses these two from R330's check where no lane
is active is the model's reading (log 32, DEDUCED), and so is which lanes of a register in error an MMA names, the rows of its block
whatever em holds (log 62, DEDUCED). That registers and mode are read at issue, and weights and
accumulators when the array starts, is the model's reading of R325 and R334 (log 30, DEDUCED). -/
def Obligations.MatrixWords : Prop :=
  let free := fun (s : State) k n => s.tm.heldTiles &&& tileMask k n = 0 ∧ s.tm.firstBad k n = none
  let lanesFree := fun (s : State) k => s.tm.heldTiles &&& tileMask k 1 = 0 ∧ (s.pk.active = 0 ∨ s.tm.firstBad k 1 = none)
  (∀ e n g k sc p f s,
    let i : Instr := .mma e n g k sc p f
    Issues i s → mmaCombo f.toNat s.tm.active.fmt = true → free s n.toNat 3 →
    (p = 1 → ∃ m, s.pairOk s.tm n.toNat = some m ∧ s.arrayBusy (s.tm.core + 1) = false ∧
      m.heldTiles &&& tileMask n.toNat 3 = 0 ∧ m.firstBad n.toNat 3 = none) →
    let a := 32 * g.toNat
    let hit := s.pk.latchTag == some a
    let regs := if hit then [] else mmaBlock f.toNat s.tm.active.fmt a (k == 1)
    let scales := mmaScales f.toNat s.tm.active.fmt sc.toNat
    let x := if hit then s.pk.latch else regs.map s.pk.v
    StartsArray i s
      { s with pk := { (s.pk.consume i).noteReads (regs ++ scales) with
          latchTag := if k = 1 then some a else none, latch := if k = 1 then x else [] } }
      { opOf i s .mx with
        regs := scales.map s.pk.v ++ x, args := [scales.length], vals := (s.pk.badRows (regs ++ scales)).map fun r => (r, 0) }
      (if p = 1 then .pairSlave s.pk.id s.serial else .mmaArrayStart s.pk.id s.serial)) ∧
  (∀ e v h c s k a r t b,
    let i : Instr := .mwld e v h c
    let x := (s.pk.s v.toNat).toNat
    let co := (s.pk.s (2 * c.toNat + 1)).toNat
    let off := 32 * (x % 2 ^ 14)
    let book := s.tm.book (layCB r)
    let clr := x.testBit 48
    let rows := blockRows r co
    let cols := blockCols r co
    Issues i s → s.arrayBusy s.tm.core = false → s.tileOf s.tm h.toNat = .ok (k, a) →
    ReadsLayout { s with pk := { s.pk with atPpt := false } } (s.pk.s (2 * c.toNat)).toNat r t → (blockOf r co).isSome = true →
    fmtWeight (layFmt r) = true → placeBad x (layFmt r) rows cols = false →
    (s.tm.shadow.fmt = 0 ∨ clr = true ∨
      s.tm.shadow.fmt = layFmt r ∧ (layFmt r = 4 → book = s.tm.shadow.book.map (·.toNat))) →
    parseBlock { fmt := layFmt r, rows := rows, cols := cols, upTo := rows * cols, ct := s.tm.slotTable, book := book }
      (s.tileBytes k a off (k.bytes - off)) = .ok b → a.poisonedIn off ((b.stop + 7) / 8) = false →
    Starts i s t
      { opOf i s .mx with
        id := t.serial, vals := b.entries (x / 2 ^ 32 % 2 ^ 9) (x / 2 ^ 16 % 2 ^ 9), got := b.cells (x / 2 ^ 32 % 2 ^ 9) (x / 2 ^ 16 % 2 ^ 9)
        args := 0 :: clr.toNat :: layFmt r :: book }
      [.mwldBufferWrite s.pk.id t.serial]) ∧
  (∀ e s, Issues (.mswap e) s →
    StartsArray (.mswap e) s s (opOf (.mswap e) s .mx) (.mmaArrayStart s.pk.id s.serial)) ∧
  (∀ e n x s, Issues (.mzero e n x) s → s.tm.heldTiles &&& tileMask n.toNat (x.toNat + 1) = 0 →
    StartsArray (.mzero e n x) s s (opOf (.mzero e n x) s .mx) (.mmaArrayStart s.pk.id s.serial)) ∧
  (∀ e n d x s b, Issues (.mrd e n d x) s ∨ Issues (.mwr e n d x) s → s.arrayBusy s.tm.core = false → s.pk.active ≠ 0 →
    s.tm.heldTiles &&& tileMask n.toNat 1 = 0 → s.tm.firstBad n.toNat 1 = some b →
    (Issues (.mrd e n d x) s → Traps (.mrd e n d x) s { precise cACC 0 with aux := dw b }) ∧
    (Issues (.mwr e n d x) s → Traps (.mwr e n d x) s { precise cACC 0 with aux := dw b })) ∧
  (∀ e n d x s, Issues (.mrd e n d x) s → lanesFree s n.toNat →
    StartsArray (.mrd e n d x) s { s with pk := (s.pk.consume (.mrd e n d x)).deferAcc n.toNat (s.pk.coords x.toNat) }
      { opOf (.mrd e n d x) s .mx with vals := tileLanes s.pk x.toNat, vdst := [d.toNat] } (.mmaArrayStart s.pk.id s.serial)) ∧
  (∀ e n v x s, Issues (.mwr e n v x) s → lanesFree s n.toNat →
    StartsArray (.mwr e n v x) s { s with pk := (s.pk.consume (.mwr e n v x)).deferAcc n.toNat (s.pk.coords x.toNat) }
      { opOf (.mwr e n v x) s .mx with
        vals := tileLanes s.pk x.toNat, got := (tileLanes s.pk x.toNat).map fun q => (q.1, s.pk.vl v.toNat q.1) }
      (.mmaArrayStart s.pk.id s.serial)) ∧
  (∀ e s, Issues (.mrel e) s →
    CompletesFrom (.mrel e) s { s with pk := { s.pk with latchTag := none, latch := [], atPpt := false } }) ∧
  (∀ e m s, Issues (.ppt e m) s →
    let n := s.finish (endsRun (.ppt e m))
    Leaves (.ppt e m) s { n with pk := { n.pk with latchTag := none, latch := [], liveSet := m, atPpt := true } })

/-! ## Launch, barriers and event words -/

/-- R353-R356: LAUNCH reads a record and returns a status, the new grid a child of the pack's own; TBAR and GBAR arrive at a barrier
and wait there, after a release; EVSIG is an atomic add after a release; EVWAIT goes on once its word is at least its value. -/
def Obligations.LaunchWords : Prop :=
  (∀ e d a s,
    let i : Instr := .launch e d a
    let va := (s.pk.s a.toNat).toNat
    let who := preloadAgent s.pk.id
    Issues i s →
    (s.tm.depth = 10 → Traps i s { precise cDEPTH 0 with addr := s.pk.s a.toNat, detail := 10 }) ∧
    (s.tm.depth ≠ 10 → s.pk.id.role ≠ 0 ∨ s.pk.id.pir ≠ 0 → Returns i s s d (dw (2 ^ 63 + 1))) ∧
    (∀ r t u, s.tm.depth ≠ 10 → s.pk.id.role = 0 → s.pk.id.pir = 0 → releaseWaits 3 s = false → Reads s s va 256 256 r t →
      (∀ n, t.checkRecord who s.tm.core s.tm.ctx r = (.malformed n, u) →
        Returns i s (u.dropFetched who) d (dw (2 ^ 63 + n * 2 ^ 8 + 2))) ∧
      (∀ slots, t.checkRecord who s.tm.core s.tm.ctx r = (.good slots, u) →
        let w := u.dropFetched who
        let q := s.rootQueue s.tm
        (256 ≤ w.pendingChildren q → Returns i s w d (dw (2 ^ 63 + 3))) ∧
        (w.pendingChildren q < 256 →
          CompletesFrom i s ((({ w with pk := w.pk.setS d.toNat 0 } : State).accept r q s.tm.ctx 0 (s.tm.depth + 1)
            (some s.tm.id.grid) s.pk.priv slots).watchGrid q r))))) ∧
  (∀ e a s, Issues (.tbar e a) s → s.pk.hasPending = false → releaseWaits 1 s = false →
    let b := (s.pk.s a.toNat).toNat % 4
    Leaves (.tbar e a) s ((s.block (.teamBarrier b)).arrive s.tm false b)) ∧
  (∀ e a s, Issues (.gbar e a) s → s.pk.hasPending = false → releaseWaits 2 s = false →
    let b := (s.pk.s a.toNat).toNat % 2
    Leaves (.gbar e a) s ((s.block (.gangBarrier b)).arrive s.tm true b)) ∧
  (∀ e d a b s, Issues (.evsig e d a b) s → releaseWaits 4 s = false →
    let x : Int := (s.pk.s a.toNat).toNat
    StartsMem (.evsig e d a b) s .ld [0] (fun _ => x) (fun _ => atomCheck s.tm x 8) (fun _ => (s.pk.s b.toNat).toNat) [] [d.toNat]
      false) ∧
  (∀ e a b s bs t, Issues (.evwait e a b) s → s.pk.hasPending = false →
    let va := (s.pk.s a.toNat).toNat
    let v := (s.pk.s b.toNat).toNat
    s.pk.declinedIn va 8 = none → s.readWait s.pk va = (.ok bs, t) →
    (v ≤ ofBytes bs → Leaves (.evwait e a b) s (t.goto true (s.pk.pc + 4))) ∧
    (ofBytes bs < v → Leaves (.evwait e a b) s (t.block (.event va v)))) ∧
  (∀ e a b s x, Issues (.evwait e a b) s → s.pk.hasPending = false → s.pk.declinedIn (s.pk.s a.toNat).toNat 8 = some x →
    Leaves (.evwait e a b) s
      ({ s with pk := s.pk.deferAll s.pk.pc cPAGE 0 (dw x) allOnes 0 } : State).takePending)

/-- R354: the last of the packs that a barrier counts opens it: the arrivals are 0 again, and the pack goes on at the next
word, ready and with age 0; an earlier one waits. A pack that evaluates its word again after a felt stands for one of the arrivals
that the felt kept (log 42). -/
def Obligations.BarrierOpens : Prop :=
  ∀ e a s, Issues (.tbar e a) s → s.pk.status = .running → s.pk.hasPending = false → releaseWaits 1 s = false →
    s.tm.id = s.pk.id.teamId →
    let b := (s.pk.s a.toNat).toNat % 4
    let n := if Tab.get 0 s.tm.tkept b = 0 then Tab.get 0 s.tm.tbar b + 1 else Tab.get 0 s.tm.tbar b
    (0 < n → (s.members s.tm false).length ≤ n → ∃ t, exec (.tbar e a) s = .next t ∧ Tab.get 0 t.tm.tbar b = 0 ∧
      t.pk.status = .ready ∧ t.pk.pc = s.pk.pc + 4 ∧ t.pk.since = s.gtc ∧ t.hbm = s.hbm) ∧
    (n < (s.members s.tm false).length → ∃ t, exec (.tbar e a) s = .next t ∧ Tab.get 0 t.tm.tbar b = n ∧
      t.pk.status = .waiting ∧ t.pk.pc = s.pk.pc ∧ t.hbm = s.hbm)

/-! ## Collectives and groups -/

/-- R416, R428-R431: COLL returns the sequence number of an accepted collective, or its refusal; GRPF accepts a group record; CWAIT
returns a final status word; FSTAT returns the fabric status and clears what its operand names. Where the member words of a GRPF show
its record to be malformed, or leave the issuing device out, its slot is empty again, STATUS is the refusal, and so is s[d]: that s[d]
says so too is the model's (log 52, DEDUCED). -/
def Obligations.FabricWords : Prop :=
  (∀ e d a s x t,
    let i : Instr := .coll e d a
    let va := (s.pk.s a.toNat).toNat
    let k := t.group s.tm.ctx (cdGroup x)
    let seq := (k.count + 1) % 2 ^ 16
    Issues i s → releaseWaits 4 s = false → Reads s s va 64 64 x t →
    (k.state = 2 → cdBad x k.members.length = false → k.colls.length < 16 →
      let c : Coll := { seq := seq, desc := BitVec.ofNat 512 x, addr := va, issuer := s.pk.id, start := k.startOf seq t.gtc,
                        agree := t.earlyAgreement k seq }
      let w := t.onGroup s.tm.ctx (cdGroup x) fun k => { k with
        count := k.count + 1, colls := k.colls ++ [c], accepts := k.accepts.filter (fun a => a.1 != seq)
        early := k.early.filter fun e => e.1 != seq }
      Returns i s ((w.writeWord64 s.tm.ctx (va + 8) 0).2.collReport s.tm.ctx (cdGroup x) seq
        ((w.ownRank s.tm.ctx (cdGroup x)).getD 0) 256) d (dw seq)) ∧
    (k.state = 2 → cdBad x k.members.length = false → 16 ≤ k.colls.length → exec i s = .next s) ∧
    (k.state = 2 → cdBad x k.members.length = true → CompletesFrom i s (t.refuse s va 1 d.toNat 1)) ∧
    (k.state ≠ 2 → cdBad x (cdRoot x + 1) = false → CompletesFrom i s (t.refuse s va 2 d.toNat 2))) ∧
  (∀ e d a s bs t, Issues (.cwait e d a) s → s.pk.hasPending = false →
    let va := (s.pk.s a.toNat).toNat + 8
    let v := ofBytes bs
    s.pk.declinedIn va 8 = none → s.readWait s.pk va = (.ok bs, t) →
    (v.testBit 63 = true → Leaves (.cwait e d a) s
      (({ t with pk := (if v % 2 ^ 8 = 0 then t.pk else t.pk.setFstat 32).setS d.toNat (dw v) } : State).goto true (s.pk.pc + 4))) ∧
    (v.testBit 63 = false → Leaves (.cwait e d a) s (t.block (.status va d.toNat)))) ∧
  (∀ e d a s x t bs u,
    let i : Instr := .grpf e d a
    let va := (s.pk.s a.toNat).toNat
    let n := x % 2 ^ 18
    let g := x / 2 ^ 32 % 2 ^ 6
    Issues i s → releaseWaits 4 s = false → Reads s s va 64 64 x t →
    (grpBad x = true → CompletesFrom i s (t.refuse s va 1 d.toNat 1)) ∧
    (grpBad x = false →
      let k := t.group s.tm.ctx g
      let opened := if k.reading && k.issuer == s.pk.id && k.addr == va then t else t.openGroup s va x d.toNat
      opened.homeRead s.pk.id s.tm.core s.tm.ctx [(((va + 64 : Nat) : Int), 4 * n)] = (.ok bs, u) →
      let w := u.dropFetched s.pk.id
      let words := (List.range n).map fun k => ofBytes bs / 2 ^ (32 * k) % 2 ^ 32
      let sound := (∀ m, m ∈ words → m < 2 ^ 17) ∧ words.Nodup
      (sound → w.device ∈ words → CompletesFrom i s (w.formGroup s va x d.toNat (some words))) ∧
      (∀ r, (¬ sound ∧ r = 1) ∨ (sound ∧ w.device ∉ words ∧ r = 2) →
        let v := ({ w with pk := w.pk.setS d.toNat (dw (2 ^ 63 + r)) } : State).onGroup s.tm.ctx g Group.emptied
        CompletesFrom i s ((v.writeWord64 s.tm.ctx (va + 8) (statusWord 3 r 0 noRank)).2.noteStatus s.pk.id 3)))) ∧
  (∀ e d a s, Issues (.fstat e d a) s →
    PackOnly (.fstat e d a) s fun p q =>
      q = { stepped p q with sregs := q.sregs, fstat := q.fstat } ∧ (∀ r, q.s r = if r = d.toNat then p.fstat else p.s r) ∧
      ∀ k, q.fstat.getLsbD k =
        if k < 6 then p.fstat.getLsbD k && !(p.s a.toNat).getLsbD k
        else if 32 ≤ k ∧ k < 48 ∧ (p.s a.toNat).extractLsb' 32 16 ≠ 0 then false
        else p.fstat.getLsbD k)

/-! ## Traps and system words -/

/-- R97, R358-R360, R364, R381: a precise fault, with no operation outstanding, in a team that has a trap entry and outside the handler,
is taken at once: the pack stands at the trap entry, ready, with H set, em all ones and mode 0; the frame holds s59-s63, em and mode
as they were, and s59-s63 hold the word, the cause word, the address, AUX and the word again; no other register changes. So it is of
every pack to which a trap is delivered, whose pending record moves to FAULTREC and is cleared. The first deferred fault fixes the
pending record, and a later one adds its lanes, counts, and gives its cause to DCAUSE (R359). That a precise fault gives CAUSE, REASON,
LANE, ADDR, AUX, TPC and FPC, and the pending record the rest, is the model's (log 27, DEDUCED). A fault in a
handler, or in a team without a trap entry, halts the team: the pack is halted, the fault is the team's unless an earlier one is. -/
def Obligations.TrapEntry : Prop :=
  (∀ (s : State) (f : FaultRec), s.pk.ops = [] → s.pk.h = false → s.tm.trap ≠ 0 → s.tm.id = s.pk.id.teamId → f.cause ≠ 0 → f.cause ≠ cGANG →
    let p := s.pk
    let r : FaultRec := { f with
      fpc := p.pc, tpc := p.pc, dcause := p.pend.dcause, amask := p.pend.amask, count := p.pend.count, lanes := p.pend.lanes }
    ∃ q, s.raise f = { s with pk := q } ∧
      q = { p with
        frame := { s59 := p.s 59, s60 := p.s 60, s61 := p.s 61, s62 := p.s 62, s63 := p.s 63, em := p.em, mode := p.mode }
        h := true, sregs := q.sregs, frec := r, pend := {}, due := {}, declined := none, em := allOnes, mode := 0, pc := s.tm.trap
        runpos := 0, atPpt := p.pptKept, wait := .none, status := .ready, urgent := true, since := s.gtc } ∧
      (∀ k, k < 59 → q.s k = p.s k) ∧
      q.s 59 = p.pc ∧ q.s 60 = r.causeWord ∧ q.s 61 = f.addr ∧ q.s 62 = f.aux ∧ q.s 63 = p.pc) ∧
  (∀ (s : State) (f : FaultRec), s.pk.ops = [] → s.pk.h = true ∨ s.tm.trap = 0 → s.tm.id = s.pk.id.teamId → f.cause ≠ 0 →
    let t := s.raise f
    t.pk.status = .halted ∧ (∀ g, s.tm.halt = some g → t.tm.halt = some g) ∧
      (s.tm.halt = none → t.tm.halt.map (·.cause) = some f.cause) ∧ t.hbm = s.hbm ∧ t.pk.pc = s.pk.pc) ∧
  (∀ (s : State) (p : Pack), s.pack? p.id = some p → p.h = false → (s.teamOf p).trap ≠ 0 →
    let r : FaultRec := if p.due.cause = 0 then { p.pend with tpc := p.due.tpc }
      else { p.due with dcause := p.pend.dcause, amask := p.pend.amask, count := p.pend.count, lanes := p.pend.lanes }
    r.cause ≠ cGANG →
    ∃ q, s.deliver p = s.onPack p.id (fun _ => q) ∧
      q = { p with
        frame := { s59 := p.s 59, s60 := p.s 60, s61 := p.s 61, s62 := p.s 62, s63 := p.s 63, em := p.em, mode := p.mode }
        h := true, sregs := q.sregs, frec := r, pend := {}, due := {}, declined := none, em := allOnes, mode := 0
        pc := (s.teamOf p).trap, runpos := 0, atPpt := p.pptKept, wait := .none, status := .ready, urgent := true, since := s.gtc } ∧
      (∀ k, k < 59 → q.s k = p.s k) ∧
      q.s 59 = r.fpc ∧ q.s 60 = r.causeWord ∧ q.s 61 = r.addr ∧ q.s 62 = r.aux ∧ q.s 63 = r.tpc) ∧
  (∀ (p : Pack) fpc cause reason l a x d lanes, (lanes.map (·.1)).Nodup →
    let q := p.defer fpc cause reason l a x d lanes
    let m := maskOf (lanes.map (·.1))
    q = { p with pend := q.pend } ∧
    (p.pend.count = 0 → q.pend =
      { cause := cause, reason := reason, lane := if m = allOnes then 0xFF else l, addr := a, aux := x, detail := d, dcause := cause
        fpc := fpc, amask := m, count := 1, lanes := q.pend.lanes }) ∧
    (p.pend.count ≠ 0 → q.pend =
      { p.pend with amask := p.pend.amask ||| m, count := min 0xFFFF (p.pend.count + 1), dcause := cause, lanes := q.pend.lanes }) ∧
    ∀ k, k < 64 → Tab.get 0 q.pend.lanes k =
      if p.pend.amask.getLsbD k then Tab.get 0 p.pend.lanes k
      else ((lanes.find? fun e => e.1 == k).map (·.2)).getD (Tab.get 0 p.pend.lanes k))

/-- R381, R382, R384: TRAP takes a trap whose return is the word after it; BKPT takes BREAK, whose return is the BKPT; RTE, which must
carry E = 1, restores the frame, clears H and goes to its target, and traps outside a handler or to a misaligned target; HALT halts
its team, with scope 1 its gang, with 2 and 3 its grid and every child grid, whose teams that are not placed are cancelled; a team
already halting keeps its first fault. -/
def Obligations.TrapWords : Prop :=
  (∀ e n s, Issues (.trap e n) s →
    Happens (.trap e n) s (s.trapDue { precise cSWTRAP 0 with detail := n.toNat, fpc := s.pk.pc, tpc := s.pk.pc + 4 })) ∧
  (∀ e n s, Issues (.bkpt e n) s →
    Happens (.bkpt e n) s (s.trapDue { precise cBREAK 0 with detail := n.toNat, fpc := s.pk.pc, tpc := s.pk.pc })) ∧
  (∀ a s, Issues (.rte a) s →
    let x := s.pk.s a.toNat
    let f := s.pk.frame
    decode (encode (.rte a) &&& 0x7FFFFFFF) = .illegal 5 ∧
    (s.pk.h = false → Traps (.rte a) s (illegal (encode (.rte a)) 10)) ∧
    (s.pk.h = true → x.toNat % 4 ≠ 0 → Traps (.rte a) s (illegal (encode (.rte a)) 5)) ∧
    (s.pk.h = true → x.toNat % 4 = 0 → ∃ q, exec (.rte a) s = .next { s.countWord with pk := q } ∧
      q = { s.pk with
        sregs := q.sregs, em := f.em, mode := f.mode, h := false, pc := x, runpos := 0, atPpt := s.pk.pptKept, since := s.gtc
        declined := none, status := if s.pk.status = .running then .ready else s.pk.status } ∧
      (∀ k, k < 59 → q.s k = s.pk.s k) ∧
      q.s 59 = f.s59 ∧ q.s 60 = f.s60 ∧ q.s 61 = f.s61 ∧ q.s 62 = f.s62 ∧ q.s 63 = f.s63)) ∧
  (∀ e a s, Issues (.halt e a) s → (s.pk.s a.toNat).toNat % 4 = 0 →
    let f : FaultRec := { precise cSWTRAP 0xFF with detail := 0xFF, fpc := s.pk.pc, tpc := s.pk.pc }
    Leaves (.halt e a) s (s.haltTeam s.tm.id (some s.pk.id) f)) ∧
  (∀ e a s, Issues (.halt e a) s → (s.pk.s a.toNat).toNat % 4 ≠ 0 →
    let f : FaultRec := { precise cSWTRAP 0xFF with detail := 0xFF, fpc := s.pk.pc, tpc := s.pk.pc }
    let gang := (s.pk.s a.toNat).toNat % 4 = 1
    let gs := if gang then [] else s.under s.tm.id.grid s.grids.length
    let teams := if gang then s.tm.gangTeams
      else (s.allTeams.filter fun m => gs.contains m.id.grid && (m.status == .resident || m.status == .evicted)).map (·.id)
    Leaves (.halt e a) s (((teams.filter (· != s.tm.id)).foldl
      (fun (u : State) m => if ((u.team? m).bind (·.halt)).isSome then u else u.haltTeam m none f)
      (s.haltTeam s.tm.id (some s.pk.id) f)).cancelGrids gs)) ∧
  (∀ (s : State) m k f, s.team? m = some k →
    ((s.haltTeam m none f).team? m).map (·.halt) = some (if k.halt = none then some f else k.halt)) ∧
  (∀ (s : State) gs, (∀ g, g ∈ (s.cancelGrids gs).grids → g.idx ∈ gs → g.cancelled = true) ∧
    ∀ i, i ∈ (s.cancelGrids gs).incoming → i.unit.team.grid ∉ gs) ∧
  (∀ e a s, Issues (.halt e a) s →
    ∃ t, exec (.halt e a) s = .next t ∧ t.hbm = s.hbm ∧ (s.tm.id = s.pk.id.teamId → t.pk.status = .halted))

/-- R371-R376, R383: SSRD reads the privileged register that its code names; SSWR writes it, its reserved bits ignored, and PCORE
and FAULTREC ignore the write; a word with a code from 8 to 63 is illegal, with reason 2. That clearing the overrun also starts the next
measurement from 0 is the model's (log 47, DEDUCED). -/
def Obligations.SpecialRegisters : Prop :=
  (∀ e d (a : BitVec 6) b s, Issues (.ssrd e d a b) s → a.toNat < 8 →
    let r := if s.pk.h then s.pk.frec else s.pk.pend
    let k := (s.pk.s b.toNat).toNat % 2 ^ 7
    let fault : DWord := if 64 ≤ k then Tab.get 0 r.lanes (k - 64)
      else ([r.causeWord, r.addr, r.aux, r.tpc, r.fpc, r.amask, dw r.count][k]?).getD 0
    let c := s.ctx s.tm.ctx
    ∃ v, [dw s.tm.core, fault, s.sysskew, s.leasecfg, s.tfab, s.keytab, c.ptbase, c.dlogbase][a.toNat]? = some v ∧
      WritesScalar (.ssrd e d a b) d v s) ∧
  (∀ e (a : BitVec 6) b s, Issues (.sswr e a b) s →
    let v := s.pk.s b.toNat
    (a = 0 ∨ a = 1 → CompletesFrom (.sswr e a b) s s) ∧
    (a = 2 → CompletesFrom (.sswr e a b) s { s with
      sysskew := (v &&& 0xFFFF) ||| (if v.getLsbD 32 then 0 else s.sysskew &&& 0x1FFFF0000) }) ∧
    (a = 3 → CompletesFrom (.sswr e a b) s { s with leasecfg := v &&& 3 }) ∧
    (a = 4 → CompletesFrom (.sswr e a b) s { s with tfab := v &&& 0xFFFFFFFF }) ∧
    (a = 5 → CompletesFrom (.sswr e a b) s { s with keytab := v &&& 0xFFFF1FFFFFFFFF80 }) ∧
    (a = 6 → CompletesFrom (.sswr e a b) s (s.onCtx s.tm.ctx fun c => { c with ptbase := v &&& 0x1FFFFFFFC000 })) ∧
    (a = 7 → CompletesFrom (.sswr e a b) s
      (s.onCtx s.tm.ctx fun c => { c with dlogbase := v &&& 0x1FFFFFFFF01F }))) ∧
  (∀ e d (a : BitVec 6) b, 8 ≤ a.toNat → decode (encode (.ssrd e d a b)) = .illegal 2 ∧ decode (encode (.sswr e a b)) = .illegal 2)

/-! ## The dirty log and freeze -/

/-- R401-R405: the DLOG words act on the log of the context that s[a] names; FRZ refuses a malformed descriptor and a busy context,
and else records the work and starts it, a pack that freezes its own context stopping to be saved at the next word. -/
def Obligations.FreezeWords : Prop :=
  let ctx := fun (s : State) (a : BitVec 6) => (s.pk.s a.toNat).toNat % 2 ^ 16
  let log := fun (s : State) (a : BitVec 6) => s.ctx (ctx s a)
  let stat := fun (c : Ctx) => dw (c.dlogEn.toNat * 2 ^ 63 + c.dlogOvf.toNat * 2 ^ 62 + c.dlogP.toNat)
  (∀ e d a s, Issues (.dlogStat e d a) s → ∃ t, t = s.onCtx (ctx s a) (fun _ => log s a) ∧
    Returns (.dlogStat e d a) s t d (stat (log s a))) ∧
  (∀ e d a s, Issues (.dlogStart e d a) s →
    let base := (s.ctx s.tm.ctx).dlogbase
    let size := base.toNat % 2 ^ 5
    ((log s a).dlogEn = false → 12 ≤ size → size ≤ 30 →
      Returns (.dlogStart e d a) s (s.onCtx (ctx s a) fun c => { c with
        dlogRing := base.toNat / 2 ^ 12 % 2 ^ 33 * 2 ^ 12, dlogSize := size, dlogP := 0, dlogC := 0, dlogOvf := false, dlogEn := true })
        d 0) ∧
    ((log s a).dlogEn = true → Returns (.dlogStart e d a) s (s.onCtx (ctx s a) fun c => c) d (dw (2 ^ 63 + 2))) ∧
    ((log s a).dlogEn = false → size < 12 ∨ 30 < size →
      Returns (.dlogStart e d a) s (s.onCtx (ctx s a) fun c => c) d (dw (2 ^ 63 + 1)))) ∧
  (∀ e d a s, Issues (.dlogStop e d a) s →
    Returns (.dlogStop e d a) s (s.onCtx (ctx s a) fun c => { c with dlogEn := false }) d
      (dw ((log s a).dlogOvf.toNat * 2 ^ 62 + (log s a).dlogP.toNat))) ∧
  (∀ e d a s, Issues (.dlogAck e d a) s →
    let n : BitVec 32 := (s.pk.s a.toNat).extractLsb' 32 32
    let c := log s a
    (n - c.dlogC ≤ c.dlogP - c.dlogC →
      Returns (.dlogAck e d a) s (s.onCtx (ctx s a) fun c => { c with dlogC := n }) d 0) ∧
    (c.dlogP - c.dlogC < n - c.dlogC →
      Returns (.dlogAck e d a) s (s.onCtx (ctx s a) fun c => c) d (dw (2 ^ 63 + 3)))) ∧
  (∀ e d a s, Issues (.dlogCons e d a) s →
    Returns (.dlogCons e d a) s (s.onCtx (ctx s a) fun c => c) d ((log s a).dlogC.setWidth 64)) ∧
  (∀ e d a s x t, Issues (.frz e d a) s → Reads s s (s.pk.s a.toNat).toNat 64 64 x t →
    let c := x % 2 ^ 16
    let w := frzWork s x d
    let u := (t.onCtx c fun k => { k with frz := some w }).push [if w.isResume then .resume c else .freeze c]
    (fdBad x = true → Returns (.frz e d a) s t d (dw (2 ^ 63 + 1))) ∧
    (fdBad x = false → (t.ctx c).frz.isSome = true → Returns (.frz e d a) s t d (dw (2 ^ 63 + 2))) ∧
    (fdBad x = false → (t.ctx c).frz = none → w.isSelf = false → Returns (.frz e d a) s u d 0) ∧
    (fdBad x = false → (t.ctx c).frz = none → w.isSelf = true → Leaves (.frz e d a) s { u with
      pk := { u.pk.setS d.toNat 1 with
        pc := s.pk.pc + 4, runpos := 0, atPpt := t.pk.pptKept, declined := none, status := .saving } }))

/-! ## Events of packs and of the operations of their counters -/

/-- R96, R98, R116, R220, R332, R356, R360, R364, R429: the events that move a pack which stands at a run boundary or waits. A pack is promoted
4,096 cc after it became ready with its line in the cache, at that tick; that an event of this kind which comes earlier lets the time
pass is the model's (log 29). -/
def Obligations.PackEvents : Prop :=
  (∀ p s k, s.pack? p = some k → k.status = .fetching → ∃ t, Happens (.icacheFill p) s t ∧
    (t.pack? p).map (fun q => (q.status, q.since)) = some (.ready, s.gtc) ∧
    (t.core (s.teamOf k).core).icache.contains ((s.teamOf k).ctx, k.pc.toNat / 128) = true) ∧
  (∀ p s k, s.pack? p = some k →
    (∀ t, s.promotesAt k = some t → Happens (.packPromote p) s ((s.waitUntil t).onPack p fun k => { k with promoted := some t })) ∧
    (s.promotesAt k = none → Happens (.packPromote p) s s)) ∧
  (∀ (s : State) k, let x := s.core (s.teamOf k).core
    (k.status ≠ .ready ∨ s.lineCached (s.teamOf k) k = false ∨ k.promoted ≠ none → s.promotesAt k = none) ∧
    (k.status = .ready → s.lineCached (s.teamOf k) k = true → k.promoted = none → x.clocks = [] → 0 < x.clock →
      s.promotesAt k = some (k.since + (8 * 4096 + x.clock - 1) / x.clock))) ∧
  (∀ p s, Happens (.pageFaultPark p) s (s.onPack p fun k => if k.replay = [] then k else { k with parkDue := true })) ∧
  (∀ p s k, s.pack? p = some k → k.status = .trapping → k.ops = [] → Happens (.trapEntry p) s (s.deliver k)) ∧
  (∀ p s k, s.pack? p = some k → k.status = .running →
    Happens (.haltBroadcastArrive p) s (s.onPack p fun k => if k.haltDue then k else { k with haltDue := true, skid := 0 })) ∧
  (∀ p s k, s.pack? p = some k → [PStatus.vacant, .retired, .halted, .running].contains k.status = false →
    Happens (.haltBroadcastArrive p) s
      ((s.onPack p fun k => { k with status := .halted, wait := .none, due := {} }).push [.packRetire p])) ∧
  (∀ p s k, s.pack? p = some k → k.status = .saving → k.ops = [] → s.pairWrites (s.teamOf k) = false →
    let u := ((s.flushPrivate p).dropPrivate p).countFor p.grid
    Happens (.packSave p) s
      ((u.onPack p fun k => { k with status := .saved, saveDue := false, parkDue := false, promoted := none }).saveTeam
        (s.teamOf k)).kick) ∧
  (∀ p s k, s.pack? p = some k → k.status = .saved → Happens (.packSave p) s (s.saveTeam (s.teamOf k)).kick) ∧
  (∀ p s k, s.pack? p = some k → k.ops = [] → k.replay = [] →
    (k.status = .exiting → Happens (.packRetire p) s (s.retirePack p)) ∧
    (k.status = .halted → s.reportRoom = true → s.waiting = [] →
      Happens (.packRetire p) s ((s.post (haltReport (s.teamOf k) k)).retirePack p))) ∧
  (∀ p s k va v bs t, s.pack? p = some k → k.status = .waiting → k.wait = .event va v → s.readWait k va = (.ok bs, t) →
    (v ≤ ofBytes bs → Happens (.evwaitReread p) s (t.onPack k.id fun k => k.wake t.gtc)) ∧
    (ofBytes bs < v → Happens (.evwaitReread p) s t)) ∧
  (∀ p s k va d bs t, s.pack? p = some k → k.status = .waiting → k.wait = .status va d → s.readWait k va = (.ok bs, t) →
    let v := ofBytes bs
    (v.testBit 63 = true → Happens (.cwaitReread p) s
      (t.onPack k.id fun k => ((if v % 2 ^ 8 = 0 then k else k.setFstat 32).setS d (dw v)).wake t.gtc)) ∧
    (v.testBit 63 = false → Happens (.cwaitReread p) s t)) ∧
  (∀ p s k, s.pack? p = some k → k.saveDue = true → Happens (.pptTimeout p) s (s.waitUntil (k.asked + 50000)))

/-- R40, R59, R95: a word with a defect raises the fault of the first one and has no other effect; a word that an interlock holds
stalls; a word that no encoding assigns, or that frees what it must not, raises ILLEGAL. The order of the checks: its position in the
run, its target, the registers and tiles it names, the role it needs, its privilege. -/
def Obligations.DefectiveWords : Prop :=
  (∀ i s f, isWord i = true → checkWord s.tm s.pk i = some f → Traps i s f) ∧
  (∀ i s, isWord i = true → checkWord s.tm s.pk i = none → mustStall s.pk i = true → Happens i s s.stall) ∧
  (∀ w s, s.pk.runpos = 24 → Traps (.unassignedWord w) s (illegal w 1)) ∧
  (∀ w r s, s.pk.runpos ≠ 24 → decode w = .illegal r → Traps (.unassignedWord w) s (illegal w r)) ∧
  (∀ w i s, s.pk.runpos ≠ 24 → decode w = .lastUse i →
    Traps (.unassignedWord w) s (illegal w (if namesOk (roleOf s.tm s.pk).vregs s.tm.accs s.pk.ty i then 7 else 6))) ∧
  (∀ t p i,
    let w := encode i
    (p.runpos = 24 → checkWord t p i = some (illegal w 1)) ∧
    (p.runpos ≠ 24 → badTarget p i = true → checkWord t p i = some (illegal w 5)) ∧
    (p.runpos ≠ 24 → badTarget p i = false → namesOk (roleOf t p).vregs t.accs p.ty i = false →
      checkWord t p i = some (illegal w 6)) ∧
    (p.runpos ≠ 24 → badTarget p i = false → namesOk (roleOf t p).vregs t.accs p.ty i = true → roleOk (roleOf t p).kind i = false →
      checkWord t p i = some (illegal w 8)) ∧
    (p.runpos ≠ 24 → badTarget p i = false → namesOk (roleOf t p).vregs t.accs p.ty i = true → roleOk (roleOf t p).kind i = true →
      checkWord t p i = if isPrivileged i && !p.priv then some { precise cPRIV 0 with aux := w.setWidth 64 } else none))

/-- R58: SSRD, SSWR, HALT, the DLOG words and FRZ raise PRIV in a pack that is not privileged, precisely; a word of majors 0x30 to
0x32, MRD apart, is legal in a pack of a matrix role and in no other; MRD is legal in a matrix or an epilogue role and in no other. -/
def Obligations.RolesAndPrivilege : Prop :=
  (∀ i s, (match i with
      | .ssrd .. | .sswr .. | .halt .. | .dlogStat .. | .dlogStart .. | .dlogStop .. | .dlogAck .. | .dlogCons .. | .frz .. => True
      | _ => False) →
    s.pk.runpos ≠ 24 → s.pk.priv = false → Traps i s { precise cPRIV 0 with aux := (encode i).setWidth 64 }) ∧
  (∀ i s, isWord i = true → (encode i).extractLsb' 25 6 ∈ [0x30#6, 0x31#6, 0x32#6] →
    s.pk.runpos ≠ 24 → namesOk (roleOf s.tm s.pk).vregs s.tm.accs s.pk.ty i = true →
    let kind := (roleOf s.tm s.pk).kind
    let legal := match i with
      | .mrd .. => kind = .matrix ∨ kind = .epilogue
      | _ => kind = .matrix
    (legal → checkWord s.tm s.pk i = none) ∧ (¬ legal → Traps i s (illegal (encode i) 8)))

/-- R96, R113, R242, R248, R276, R285: an operation of a wait counter that has been performed ends: its pack takes the result, and
its counter falls; an atomic's values are not seen before its WCT. Of a load, each lane that has its value writes it, bits 63:32 into
the second register of a pair; a lane that met a fault keeps its old value, and so does a register of which no lane is written (where
that register was freed: log 15); a scalar load writes its value, and none where it met a fault. -/
def Obligations.RetireEvents : Prop :=
  (∀ (s : State) p (o : Op) lanes d k q, s.pack? p = some k → k.op? o.id = some q →
    let n := memSize o.ty o.word
    ((s.landLoad p o lanes d).pack? p).bind (fun k => k.op? o.id) = some { q with
      addrs := q.addrs.filter fun a => !(lanes.map (·.1)).contains a.1
      got := q.got ++ lanes.map fun a => (a.1, loadValue o.word (lineNat d (a.2 % 128) n)) }) ∧
  (∀ (k : Pack) (o : Op) wide d r l, o.vdst = destOf wide d → o.sdst = [] → l < 64 →
    lane ((Pack.landMem o k).v r) l =
      match o.got.find? fun g => g.1 == l with
      | some g => if (destOf wide d).contains r then BitVec.ofNat 32 (g.2 / 2 ^ (32 * (r - d))) else lane (k.v r) l
      | none => lane (k.v r) l) ∧
  (∀ (k : Pack) (o : Op) d r, o.vdst = [] → o.sdst = [d] →
    (Pack.landMem o k).s r =
      match o.got with
      | [] => k.s r
      | g :: _ => if r = d then dw g.2 else k.s r) ∧
  (∀ p n s k o, HasOp s p n k o → o.addrs = [] → o.ctr = .ld →
    Retires (.loadLaneReturn p n) s (s.waitUntil o.wct) p n k (Pack.landMem o k)) ∧
  (∀ p n s k o, HasOp s p n k o → o.addrs = [] → o.ctr = .st → Retires (.storeWctReturn p n) s s p n k (Pack.landMem o k)) ∧
  (∀ p n s k o, HasOp s p n k o → Retires (.tileAccessRetire p n) s s p n k ((k.landOp o).landS o)) ∧
  (∀ p n s k o, HasOp s p n k o → o.ctr = .mx → o.atArray = false → isPair o.word = false →
    Retires (.matrixOpRetire p n) s (s.unslave p n) p n k ((k.landOp o).raiseFlags (BitVec.ofNat 8 ((o.args[1]?).getD 0)))) ∧
  (∀ p n s k o, HasOp s p n k o → o.ctr = .dc → (∀ e v h c, o.word ≠ .kvapp e v h c) → o.regs ≠ [] ∨ o.sdst ≠ [] →
    Retires (.decodeUnitRetire p n) s s p n k
      ((((o.vdst.zip o.regs).foldl (fun k q => k.landV o.mask q.1 q.2) k).landS o).raiseFlags
        (BitVec.ofNat 8 ((o.args[0]?).getD 0)))) ∧
  (∀ p n s k o e v h c rec_ r b len x keys pair en w u, HasOp s p n k o → o.word = .kvapp e v h c →
    o.args = rec_ :: r :: b :: len :: x :: keys → keys = (pair.map fun q => [q.1, q.2]).getD [] →
    let t := s.teamOf k
    s.append { ctx := t.ctx, rec_ := r, b := b, len := len, data := toBytes x (32 * len) } pair = (.entry en w, u) →
    Happens (.kvappAppend p n) s
      ((((u.waitUntil w).onOp p n fun o => { o with got := [(0, en)] }).endOp p n fun o k => k.landS o).afterOp p))

/-- R315, R323, R324, R327-R330, R334: the array performs an operation whole, which then retires; MWR writes the element of each active
lane, a higher lane's over a lower's; a pair operation first slaves the follow array, and then is performed on the tiles of both teams,
each against its own active buffer; an aborted pair leaves the tiles of both teams invalid and raises no flag. That the weights and
the accumulators are read when the array starts is the model's reading of R325 and R334 (log 30, DEDUCED). -/
def Obligations.MatrixEvents : Prop :=
  (∀ p n s m o e k g l sc f, s.arrayOp? p n = some (m, o) → o.word = .mma e k g l sc 0 f →
    let c := (o.args[1]?).getD 0
    let run := fun (t : Team) => t.mma k.toNat f.toNat (o.regs.drop c) (o.regs.take c) (o.vals.map (·.1))
    Happens (.mmaArrayStart p n) s
      (((s.claimArray m).onTeam m.id fun t => (run t).1).performed p n m.id (run m).2 [])) ∧
  (∀ p n s m o e k g l sc f r, s.arrayOp? p n = some (m, o) → o.word = .mma e k g l sc 1 f → (o.args[0]?).getD 0 = 2 →
    (s.claimArray m).partner m = some r →
    let c := (o.args[1]?).getD 0
    let run := fun (t : Team) => t.mma k.toNat f.toNat (o.regs.drop c) (o.regs.take c) (o.vals.map (·.1))
    Happens (.mmaArrayStart p n) s
      ((((((s.claimArray m).claimArray r).onTeam m.id fun t => (run t).1).onTeam r.id fun t => (run t).1).performed p n m.id
        ((run m).2 ||| (run r).2) []).wakeLoads r.id)) ∧
  (∀ p n s m o e k v x, s.arrayOp? p n = some (m, o) → o.word = .mwr e k v x →
    Happens (.mmaArrayStart p n) s
      (((s.claimArray m).onTeam m.id fun t => t.setTile k.toNat ((o.vals.zip o.got).foldl (fun x q =>
        Tab.set 0 x q.1.2 (BitVec.ofNat 32 q.2.2)) (t.tile k.toNat))).performed p n m.id 0 [])) ∧
  (∀ p n s m o e, s.arrayOp? p n = some (m, o) → o.word = .mswap e →
    Happens (.mmaArrayStart p n) s
      (((s.claimArray m).onTeam m.id fun t => { t with active := t.shadow, shadow := t.active }).performed p n m.id 0 [])) ∧
  (∀ p n s m o e k x, s.arrayOp? p n = some (m, o) → o.word = .mzero e k x →
    Happens (.mmaArrayStart p n) s
      (((s.claimArray m).onTeam m.id fun t =>
        { (List.range (x.toNat + 1)).foldl (fun t i => t.setTile (k.toNat + i) []) t with
          accBad := t.accBad &&& ~~~(tileMask k.toNat (x.toNat + 1)) }).performed p n m.id 0 [])) ∧
  (∀ p n s m o e k d x, s.arrayOp? p n = some (m, o) → o.word = .mrd e k d x →
    Happens (.mmaArrayStart p n) s
      ((s.claimArray m).performed p n m.id 0 (o.vals.map fun q => (q.1, (Tab.get 0 (m.tile k.toNat) q.2).toNat)))) ∧
  (∀ p n s m o e v h c clr fmt book, s.arrayOp? p n = some (m, o) → o.word = .mwld e v h c → o.args = 0 :: clr :: fmt :: book →
    Happens (.mwldBufferWrite p n) s
      (((s.claimArray m).onTeam m.id fun t =>
        { t with shadow := (t.shadow.prepare (clr == 1) fmt (book.map (BitVec.ofNat 16))).load o.vals o.got }).performed p n m.id 0
          [])) ∧
  (∀ p n s m o, s.arrayOp? p n = some (m, o) → isPair o.word = true → (o.args[0]?).getD 0 = 0 →
    Happens (.pairSlave p n) s
      (((s.onOp p n fun o => { o with args := 2 :: o.args.drop 1 }).onCore (m.core + 1) fun k =>
        { k with slaved := some (p, n) }).push [.mmaArrayStart p n])) ∧
  (∀ p n s k o e a g l sc f, HasOp s p n k o → o.word = .mma e a g l sc 1 f →
    let m := s.teamOf k
    let bad := fun (t : Team) => { t with accBad := t.accBad ||| tileMask a.toNat 3 }
    let u := s.onTeam m.id bad
    let w := match u.partner m with
      | none => u
      | some r => u.onTeam r.id bad
    Happens (.pairAbort p n) s (((((w.unslave p n).endOp p n fun _ k => k).gangAbort m).afterOp p).releasePartner m.id))

/-- R205, R208-R211, R215, R218, R225, R236, R237, R246, R248, R368, R399: the events of memory: the lanes of a word that lie on a line
are performed at its home; a write has the latest of its arrival, the line's last lease end and its last WCT for its WCT, and is
performed then; a load takes a lease of the line's class, capped, which ends no later than the first pending write; a page whose D is
set enters the dirty log, or sets OVF in a full one; storage errors are counted, and poison what they spoil. How a line in error of an
L1 is dealt with is the model's reading where it is clean (log 62). -/
def Obligations.MemoryEvents : Prop :=
  (∀ p n l s t k o d u, s.lineOp p n l = some (t, k, o) →
    let lanes := lineLanes t k o l
    (isPrivateWord o.word = false → s.loadLine (some p) t.core t.ctx l = (.data d, u) →
      Happens (.homeLoad p n l) s ((u.landLoad p o lanes d).lineDone t k o lanes)) ∧
    (isPrivateWord o.word = true →
      Happens (.homeLoad p n l) s ((lanes.foldl (fun s q => s.privLoad t k o q) s).lineDone t k o lanes))) ∧
  (∀ p n l s t k o w u, s.lineOp p n l = some (t, k, o) → (∀ e, o.word ≠ .pflush e) →
    let lanes := lineLanes t k o l
    (isPrivateWord o.word = false → s.storeLine t.ctx l (storeBytes o lanes) false (some p) = (.ok w, u) →
      Happens (.homeWrite p n l) s ((u.landStore p o lanes w).lineDone t k o lanes)) ∧
    (isPrivateWord o.word = true → Happens (.homeWrite p n l) s ((s.privStores t k o l).lineDone t k o lanes))) ∧
  (∀ p n l s t k o e, s.lineOp p n l = some (t, k, o) → o.word = .pflush e →
    Happens (.homeWrite p n l) s ((s.flushLine p o l).lineDone t k o (lineLanes t k o l))) ∧
  (∀ p n l s t k o r u, s.lineOp p n l = some (t, k, o) →
    let lanes := lineLanes t k o l
    s.atomAt t.ctx l (atomOf o).1 (atomOf o).2 (atomLanes o lanes) (some p) = (.ok r, u) →
    Happens (.homeAtomic p n l) s ((u.landAtom p o r.1 r.2).lineDone t k o lanes)) ∧
  (∀ c l s h w ws, s.l2.find? (fun h => h.ctx == c && h.line == l) = some h → h.pend = w :: ws →
    Happens (.homeWritePerform c l) s
      (((s.waitUntil w.wct).putHome (h.settle (max s.gtc w.wct))).wakeWatchers c l)) ∧
  (∀ c va wr s x u, s.translate c va = (some x, u) →
    Happens (.channelTranslate c va wr) s (if wr && x.perm.w then u.setDirty x else u)) ∧
  (∀ c va s, Happens (.tableWalk c va) s (s.translate c va).2) ∧
  (∀ core c l s x p, s.l1.find? (fun x => x.core == core && x.ctx == c && x.line == l && x.owner.isSome && x.dirty) = some x →
    x.owner = some p →
    let r := s.privWriteBack x
    Happens (.privateWriteback core c l) s
      ({ r.2 with l1 := r.2.l1.filter fun k => !(k.core == core && k.ctx == c && k.line == l && k.owner == some p) }.onPack p fun k =>
        k.returnWct r.1)) ∧
  (∀ site s, Happens (.eccRetry site .corrected) s (s.bump 11) ∧ Happens (.eccRetry site .transient) s (s.bump 12) ∧
    ((∀ c x n, site ≠ .l1 c x n) → Happens (.eccRetry site .uncorrectable) s ((s.bump 13).poisonSite site))) ∧
  (∀ core c n s l, s.l1.find? (fun l => l.core == core && l.ctx == c && l.line == n) = some l →
    Happens (.eccRetry (.l1 core c n) .uncorrectable) s
      (if l.owner.isSome && l.dirty then ((s.bump 13).l1Evict { l with poison := true }).poisonNotice c (128 * n)
       else (s.bump 12).l1Evict l)) ∧
  (∀ (s : State) h w,
    let r := s.homeWrite h w
    let u := if h.dcopy then s else s.dirtyPage h.ctx (128 * h.line)
    r.1 = max u.gtc (max h.leaseEnd h.lastWct) ∧
    ∃ k, r.2.l2.find? (fun k => k.ctx == h.ctx && k.line == h.line) = some k ∧ k.lastWct = r.1 ∧ k.leaseEnd = h.leaseEnd ∧
      k.data = (if h.dcopy then h else u.refreshed h).data ∧ k.pend = h.pend ++ [{ w with wct := r.1 }]) ∧
  (∀ (s : State) who core c l h u, (s.awaitOwn who c l).l1Hit core c l = none → (s.awaitOwn who c l).findLine c l = (.home h, u) →
    h.perm.r = true → h.poison = false → (∀ w, w ∈ h.pend → w.lift = false) → u.l1.length < 8192 → u.l2.length < 57344 →
    let d := [0, 128, 1024, 8192][min h.perm.lc u.leaseCap]?.getD 0
    let k := h.settle u.gtc
    let lease := match k.pend with
      | [] => u.gtc + d
      | w :: _ => min (u.gtc + d) w.wct
    let r := s.loadLine who core c l
    r.1 = .data k.data ∧
    (d ≠ 0 → (∃ x, r.2.l2.find? (fun x => x.ctx == h.ctx && x.line == h.line) = some x ∧ x.leaseEnd = max h.leaseEnd lease) ∧
      ∃ x, x ∈ r.2.l1 ∧ x.core = core ∧ x.ctx = c ∧ x.line = l ∧ x.data = k.data ∧ x.leaseEnd = lease)) ∧
  (∀ (s : State) x, x.dirty = false →
    let c := s.ctx x.ctx
    let n := 2 ^ c.dlogSize / 8
    let u := s.setDirty x
    let size := if x.size = 2 ^ 25 then 2 else if x.size = 2 ^ 21 then 1 else 0
    (c.dlogEn = false ∨ c.dlogOvf = true → u.ctx x.ctx = c ∧ (memNat u.hbm x.pte 8).testBit 12 = true) ∧
    (c.dlogEn = true → c.dlogOvf = false → (c.dlogP - c.dlogC).toNat = n → u.ctx x.ctx = { c with dlogOvf := true }) ∧
    (c.dlogEn = true → c.dlogOvf = false → (c.dlogP - c.dlogC).toNat ≠ n → u.ctx x.ctx = { c with dlogP := c.dlogP + 1 } ∧
      memNat u.hbm (c.dlogRing + 8 * (c.dlogP.toNat % n)) 8 = x.base / 2 ^ 16 % 2 ^ 29 * 2 ^ 16 + size * 4 + 1)) ∧
  (∀ core a s t, s.allTeams.find? (fun t => t.core == core && decide (t.gbase ≤ a) && decide (a < t.gbase + t.granules) &&
      t.clearing.any fun r => t.gbase + r.1 == a) = some t →
    Happens (.granuleClearDone core a) s (s.onTeam t.id fun t =>
      let k := a - t.gbase
      { t with
        clearing := t.clearing.filter fun r => r.1 != k
        tmem := match t.clearing.find? fun r => r.1 == k with
          | none => t.tmem
          | some r => t.tmem.filter fun e => decide (e.1 < 1024 * k) || decide (1024 * (k + r.2) ≤ e.1) }))

/-! ## The launch unit and the queue unit -/

/-- R189, R337-R342, R346-R351: the launch unit's choice is placed, or its victims are asked to leave; a team exits once its packs have
retired and its lift queues are empty or halted; a grid retires after its teams and child grids; the queue unit takes a record that
the host has queued, and acts on host writes of its queues. -/
def Obligations.LaunchEvents : Prop :=
  (∀ g s q p, s.choice = some (q, p) → p.unit.team.grid = g → p.victims = [] →
    (s.unitGang p.unit = 0 → Happens (.teamPlace g) s (s.place q p)) ∧
    (s.unitGang p.unit ≠ 0 → Happens (.gangPlace g) s (s.place q p))) ∧
  (∀ g s q p, s.choice = some (q, p) → p.unit.team.grid = g → p.victims ≠ [] →
    let kept := s.incoming.filter fun i => i.unit != p.unit
    Happens (.evict g) s
      ((({ s with incoming := kept ++ [{ unit := p.unit, parts := p.parts }] } : State).askSave (victimPacks p.victims)).kick)) ∧
  (∀ t s k, s.team? t = some k → k.status = .resident ∨ k.status = .evicted → s.packsOf t ≠ [] →
    (∀ k, k ∈ s.packsOf t → k.status = .retired) →
    let m := if k.halt.isSome then k.cancelLifts else k
    let u := if k.halt.isSome then s.onTeam t Team.cancelLifts else s
    (∀ c, c < 8 → (m.queue c).halted = true ∨ (m.queue c).cmds = []) → u.pairWrites m = false →
    Happens (.teamExit t) s
      (((((((u.waitUntil m.lwct).countFor t.grid).releaseTeam m).onTeam t fun m => { m with status := .leaving }).closeSlice
        t.grid).passArrivals m).increment m)) ∧
  (∀ g s k p, s.grid? g = some k → k.parent = some p → k.retired = false → k.cancelled = true ∨ grTeams k.record.toNat ≤ k.texit →
    k.nextT ≤ k.texit → (∀ c, c ∈ s.grids → c.parent ≠ some g) →
    Happens (.gridRetire g) s
      (((({ s with grids := s.grids.filter fun c => c.idx != g } : State).gridWrote p k.wct).push [.gridRetire p]).kick)) ∧
  (∀ g s k, s.grid? g = some k → k.parent = none → k.retired = false → k.cancelled = true ∨ grTeams k.record.toNat ≤ k.texit →
    k.nextT ≤ k.texit → (∀ c, c ∈ s.grids → c.parent ≠ some g) → s.recordsFull k.queue = false →
    let f := k.fail.getD (0, 0)
    Happens (.gridRetire g) s
      (((({ s with grids := s.grids.filter fun c => c.idx != g } : State).waitUntil k.wct).recordReady k.queue k.index
        (compRecord (max s.gtc k.wct) f.1 f.2 k.texit 0 (if k.fail.isSome || k.cancelled then 1 else 0) k.index)).kick)) ∧
  (∀ q s bs t slots u, q < 64 →
    let k := s.queue q
    let a : Nat := k.ring + 256 * (k.head % 2 ^ k.logsz)
    let who := queueAgent 0 q 0
    s.boot = .running → k.en = true → k.head ≠ k.tail → k.wait = none → a % 256 = 0 →
    s.homeRead who 0 k.ctx [((a : Int), 256)] = (.ok bs, t) → t.checkRecord who 0 k.ctx (ofBytes bs) = (.good slots, u) →
    let w := (u.dropFetched who).onHQueue q fun k => { k with
      desc := setBitsOf k.desc 223 192 (k.head + 1), order := k.order ++ [k.head], wait := some u.serial }
    Happens (.launchRecordRead q) s
      ((w.accept (ofBytes bs) q k.ctx k.head 1 none k.prv slots).watchGrid q (ofBytes bs))) ∧
  (∀ q s, q < 64 →
    Happens (.waitConditionRead q) s ((s.grids.filter fun g => g.queue == q && g.waits).foldl State.testGrid s).kick ∧
    Happens (.queuePollTimer q) s (s.push (s.pollEvents q)) ∧
    (∀ tail, Happens (.tailDoorbell q tail) s (s.writeTail q tail.toNat)) ∧
    ((s.queue q).en = true → Happens (.queueDisable q) s (s.disableQueue q).kick) ∧
    ((s.queue q).en = false → s.ringFits (s.queue q) = true →
      Happens (.queueEnable q) s
        ((s.onHQueue q fun k => { k with desc := setBitsOf k.desc 100 100 1, since := s.gtc }).push [.launchRecordRead q])) ∧
    (let u := s.countSlice q
     (u.queue q).sliceOut = true → u.queuePlaced q ≠ [] → (u.ctx (u.queue q).ctx).frz = none → Happens (.sliceExpire q) s (u.expireSlice q).kick))

/-- R337, R435: there are 64 host queues, and an event of another number is none of this device's; a write of TAIL that would make
the queue hold more records than its ring is ignored; any other sets TAIL, and the queue unit of an enabled queue reads on; HEAD and
the other fields stay. -/
def Obligations.QueueWrites : Prop :=
  (∀ q tail s, q < 64 → tail < 2 ^ 32 →
    let k := s.queue q
    let n := (tail + 2 ^ 32 - k.head) % 2 ^ 32
    (2 ^ k.logsz < n → Happens (.tailDoorbell q (BitVec.ofNat 32 tail)) s s) ∧
    (n ≤ 2 ^ k.logsz → ∃ t, exec (.tailDoorbell q (BitVec.ofNat 32 tail)) s = .next t ∧
      (t.queue q).tail = tail ∧ (t.queue q).head = k.head ∧ (t.queue q).en = k.en ∧ (t.queue q).ring = k.ring ∧
      t.grids = s.grids ∧ t.agenda = s.agenda ++ (if k.en then [.launchRecordRead q] else []))) ∧
  (∀ q s, 64 ≤ q → ∀ i, i = Instr.launchRecordRead q ∨ i = .waitConditionRead q ∨ i = .queuePollTimer q ∨ i = .queueEnable q ∨
    i = .queueDisable q ∨ i = .sliceExpire q ∨ (∃ tail, i = .tailDoorbell q tail) → exec i s = .fault .noSuchUnit)

/-! ## The lift engine -/

/-- R204, R285, R290, R293-R300, R302, R308: a channel starts the command at the head of its queue when nothing is ill-formed in it;
when it is the queue's turn it reads the next block, and delivers it in steps of 32 bytes, a decoded tile whole, each step counted
and the write pointer moved; it completes the command, counting 1 at arrivals gates, with DONE its number; an error halts the queue, one
that comes while a block is delivered at that block's end. The channels that decode take turns at the decoder and those that encode at the
encoder, a block each. The order of the teams in a channel's round robin and of the channels at a unit, and that a block whose delivery has
begun is delivered whole, are the model's readings (log 55, DEDUCED). -/
def Obligations.LiftEvents : Prop :=
  let turn := fun (s : State) t ch op m c => s.team? t = some m ∧ (m.queue ch).cmds[0]?.map (·.blk.toNat) = some c ∧
    (m.queue ch).active = true ∧ lcOp c = op ∧ m.status = .resident ∧ (m.queue ch).rest = [] ∧ s.heldHere m (m.queue ch) = none ∧
    s.mayBegin m ch = true ∧ (s.channelTurn m.core ch).map (·.id) = some t ∧
    ∀ u, lcUnit c = some u → (s.unitTurn m.core u).map (·.1) = some ch
  (∀ t ch s m k ks, s.team? t = some m → (m.queue ch).cmds = k :: ks →
    let c := k.blk.toNat
    let q := m.queue ch
    q.halted = false → q.parked = false → q.active = false → m.status = .resident → m.halt = none →
    s.arrayTiles m &&& lcAccTiles c m.accs = 0 → s.lcReason m c none = none →
    (lcRec c = false → Happens (.liftCommandStart t ch) s (s.liftStart m ch 0)) ∧
    (∀ bs u, lcRec c = true → s.channelRead m ch [((lcSrc c : Int), 128)] = (.ok bs, u) → layBad (lcSrc c) (ofBytes bs) = false →
      u.lcReason m c (some (ofBytes bs)) = none → Happens (.liftCommandStart t ch) s (u.liftStart m ch (ofBytes bs)))) ∧
  (∀ t ch s m k ks n, s.team? t = some m → (m.queue ch).cmds = k :: ks →
    let q := m.queue ch
    q.halted = false → q.parked = false → q.active = false → m.status = .resident → m.halt = none →
    s.arrayTiles m &&& lcAccTiles k.blk.toNat m.accs = 0 → s.lcReason m k.blk.toNat none = some n → n ≤ 3 →
    Happens (.liftCommandStart t ch) s (s.liftRefuse m ch n 0)) ∧
  (∀ t ch s m c bs u, turn s t ch 0 m c → lcRec c = false →
    let q := m.queue ch
    let hi := min (lcPlainBytes c) (q.sent + 4096)
    s.channelRead m ch (runSegments c q.sent hi) = (.ok bs, u) →
    Happens (.liftCopy t ch) s (u.deliverBlock m ch c bs false (decide (lcPlainBytes c ≤ hi)))) ∧
  (∀ t ch s m c, turn s t ch 0 m c → lcRec c = true →
    Happens (.liftCopy t ch) s (s.readBlock m ch c fun s _ bs =>
      let q := m.queue ch
      if (s.named m c).any fun k => (k.handle (lcDH c)).any fun h => decide (h.bytes < lcDoff c + q.sent + bs.length) then
        s.liftFail t ch { code := 0x0C, rsn := 4, addr := lcSrc c, coord := q.coord, bit := 0 }
      else s.deliverBlock m ch c bs false (lastItem c q.item))) ∧
  (∀ t ch s m c, turn s t ch 1 m c → Happens (.liftDecodeCopy t ch) s ((s.decodeBlock m ch c).unitServed m.core false ch)) ∧
  (∀ t ch s m c, turn s t ch 3 m c →
    Happens (.liftAccumulatorLoad t ch) s
      (if lcRec c then (s.decodeBlock m ch c).unitServed m.core false ch else s.plainBlock m ch c)) ∧
  (∀ t ch s m c h a bs, turn s t ch 2 m c → m.handle (lcDH c) = some h → s.storage h = some a →
    let q := m.queue ch
    let r := q.rec_
    let co := itemCoord c q.item
    let sp := sourceSpan q c
    let cols := blockCols r co
    (∀ i, i < blockRows r co → a.poisonedIn (sp.1 + 4 * (i * 2 ^ layLC r)) (4 * cols) = false) →
    (layCT r ≠ 15 → Tab.get [] q.table (layCT r) ≠ []) → (layFmt r = 4 → q.book ≠ []) →
    encodeBlock (layFmt r) (layCT r) (fun n => Tab.get [] q.table n) (q.book.map (·.toNat)) (blockRows r co) cols
      (fun k => ofBytes (s.tileBytes h a (sp.1 + 4 * (k / cols * 2 ^ layLC r + k % cols)) 4)) = .ok bs →
    Happens (.liftEncodeStore t ch) s ((s.storeBlock m ch c bs).unitServed m.core true ch)) ∧
  (∀ (s : State) m ch c bs whole last u, s.countGates c 0 (countSteps whole bs.length) (s.named m c) = some u → bs ≠ [] →
    s.deliverBlock m ch c bs whole last =
      ((if (m.queue ch).sent = 0 ∧ lcOp c ≠ 3 then s.resetPtr c (s.named m c) else s).onQueue m.id ch fun q =>
        { q with rest := bs, last := last }).liftGo m.id ch) ∧
  (∀ t ch s m k ks ev u, s.team? t = some m → (m.queue ch).cmds = k :: ks →
    let c := k.blk.toNat
    let q := m.queue ch
    let bs := if lcOp c = 1 then q.rest else q.rest.take 32
    q.active = true → m.status = .resident → q.rest ≠ [] →
    (lcOp c = 0 ∧ ev = Instr.liftCopy t ch) ∨ (lcOp c = 1 ∧ ev = .liftDecodeCopy t ch) ∨ (lcOp c = 3 ∧ ev = .liftAccumulatorLoad t ch) →
    (∀ n, n ∈ s.named m c → n.status = .resident) → s.countGates c 0 [bs.length] (s.named m c) = some u →
    let w := if lcOp c = 3 then u.onTeam t fun m => m.putAcc c q.sent bs
      else (s.named m c).foldl (fun u n => u.deliverTo n c (lcDoff c + q.sent) bs) u
    Happens ev s
      (if bs.length = q.rest.length then w.blockDone t ch bs.length q.last
       else ((w.onQueue t ch fun q => { q with rest := q.rest.drop bs.length, sent := q.sent + bs.length }).liftGo t ch).testGates)) ∧
  (∀ t ch s m k ks d u, s.team? t = some m → (m.queue ch).cmds = k :: ks → (m.queue ch).drain = some d →
    let q := m.queue ch
    let c := k.blk.toNat
    q.active = true → q.halted = false → q.parked = false → q.held = [] → q.stop = false →
    let w := s.waitUntil d
    w.countGates c 1 [1] (w.named m c) = some u →
    Happens (.liftCommandComplete t ch) s
      ((((u.onTeam t fun m => { m with accBad := m.accBad &&& ~~~(lcAccTiles c m.accs) }).onQueue t ch fun q =>
        { q with cmds := ks, active := false, done := k.seq, item := 0, sent := 0, rec_ := 0, table := [], book := [],
                 drain := none }).liftGo t ch).testGates.exitCheck t)) ∧
  (∀ t ch err s m, s.team? t = some m → (m.queue ch).active = true →
    ((m.queue ch).rest = [] ∧ (m.queue ch).held = [] → Happens (.liftError t ch err) s (s.liftFail t ch err)) ∧
    ((m.queue ch).rest ≠ [] ∨ (m.queue ch).held ≠ [] → Happens (.liftError t ch err) s
      (s.onQueue t ch fun q => { q with failing := if q.failing = none then some err else q.failing }))) ∧
  (∀ (s : State) t ch m, s.team? t = some m → (m.queue ch).rest = [] → (m.queue ch).held = [] → m.halt = none →
    s.blockEnd t ch = match (m.queue ch).failing with
      | some e => s.liftFail t ch e
      | none => s) ∧
  (∀ t ch va s m, s.team? t = some m → (m.queue ch).active = true → (m.queue ch).parked = false → (m.queue ch).halted = false →
    (m.queue ch).rest = [] → Happens (.liftSourcePark t ch va) s (s.liftPark m ch va 4)) ∧
  (∀ t ch rank s m k ks h r u, s.team? t = some m → (m.queue ch).cmds = k :: ks →
    (m.queue ch).held.find? (fun h => h.rank == rank) = some h → s.team? (m.member rank) = some r → r.status = .resident →
    let c := k.blk.toNat
    let bs := if lcOp c = 1 then h.bytes else h.bytes.take 32
    let left := h.bytes.drop bs.length
    s.countGates c 0 (countSteps (lcOp c == 1) bs.length) [r] = some u →
    Happens (.multicastHeldDelivery t ch rank) s
      (((((u.deliverTo r c h.off bs).onQueue t ch fun q =>
        { q with held := (q.held.filter fun k => k.rank != h.rank) ++
            if left.isEmpty then [] else [{ h with off := h.off + bs.length, bytes := left }] }).blockEnd t ch).liftGo t ch).testGates))

/-! ## Freeze and resume -/

/-- R386-R391, R396, R397, R404: the steps of a freeze (queues closed and packs asked to leave, memory closed, the felt written, its
state released, the completion value stored) and of a resume. -/
def Obligations.FreezeEvents : Prop :=
  (∀ c s f, (s.ctx c).frz = some f → f.isResume = false → f.phase = 0 →
    let closed := (s.queuesIn c).foldl State.disableQueue s
    let u : State := { closed with incoming := closed.incoming.filter fun i => (closed.grid? i.unit.team.grid).any fun g => g.ctx != c }
    let w := u.onFrz c fun f => { f with phase := 1, queues := (s.queuesIn c).map fun q => (q, (s.queue q).en) }
    Happens (.freeze c) s
      ((w.askSave (((w.teamsIn c).map fun t => (w.packsOf t.id).map (·.id)).flatten)).push [.fullingComplete c])) ∧
  (∀ c s f, (s.ctx c).frz = some f → f.isResume = false → s.frzReady c f = true →
    (f.phase = 1 → Happens (.fullingComplete c) s ((s.beginFulling c).push [.fullingComplete c])) ∧
    (f.phase = 2 → s.collsOpen c = false → Happens (.fullingComplete c) s (s.writeFelt c)) ∧
    (f.phase = 2 → s.collsOpen c = true → Happens (.fullingComplete c) s ((s.withdraw c).push [.fullingComplete c])) ∧
    (f.phase = 3 → f.failed = false → Happens (.fullingComplete c) s ((s.releaseContext c).endFrz c 1)) ∧
    (f.phase = 3 → f.failed = true → Happens (.fullingComplete c) s (s.thaw c f 0x102))) ∧
  (∀ c s f, (s.ctx c).frz = some f → f.phase = 4 → s.requests.any (fun r => r.pack == feltWriter c) = false →
    Happens (.frzCompletion c) s
      ((((s.waitUntil (f.wct + s.eps)).writeWord64 f.ictx f.evt f.value).2.onCtx c fun k => { k with frz := none }).kick)) ∧
  (∀ c s f, (s.ctx c).frz = some f → f.isResume = true → f.phase = 1 →
    Happens (.resume c) s (s.placeResumed c f) ∧ Happens (.resumePlace c) s (s.placeResumed c f)) ∧
  (∀ c s f h t bs u felt, (s.ctx c).frz = some f → f.isResume = true → f.phase = 0 →
    s.homeRead (feltReader c) 0 f.ictx [((f.felt : Int), 128)] = (.ok h, t) →
    numAt h 0 8 / 2 ^ 48 % 2 ^ 16 = 0xF317 → numAt h 0 8 / 2 ^ 40 % 2 ^ 8 ≤ 1 → numAt h 0 8 / 2 ^ 32 % 2 ^ 8 = 64 →
    t.homeRead (feltReader c) 0 f.ictx [((f.felt : Int), numAt h 8 8)] = (.ok bs, u) → 128 ≤ bs.length →
    crc32 (bs.take 48 ++ ((bs.drop 48).take 4).map (fun _ => 0) ++ bs.drop 52) = numAt h 48 4 →
    readBody u c h (bs.drop 128) = some felt → u.feltBusy c felt.queues = false →
    Happens (.resume c) s (((u.dropFetched (feltReader c)).adopt c f felt).readPreloads c)) ∧
  (∀ c s f, (s.ctx c).frz = some f → f.isResume = false → f.phase = 2 →
    Happens (.collectiveWithdraw c) s (((s.waitUntil (f.since + s.tfabTicks)).withdraw c).push [.fullingComplete c]))

/-! ## The fabric and its collectives -/

/-- R373, R390, R399, R407-R417: the events of links, routes, packets and requests. A request from another device is accepted once; it is
served at once unless a request of its source slot and line with an earlier number has yet to come or to be answered, which is how the
model takes R410's order (log 51, DEDUCED), and a packet of memory that has closed is answered whatever is before it. A packet of data or of a
report is sent again, as a request is, until each of its destinations has acknowledged it (log 49, the model's). A multicast packet waits
for its lane as any packet does. Numbers of LINK_DOWN from 2^17 on are the model's (log 33). -/
def Obligations.FabricEvents : Prop :=
  (∀ n s, n < 24 → Happens (.flitCrcRetry n) s ((s.onLink n fun l => { l with resent := l.resent + 1 }).bump 15) ∧
    Happens (.linkLaneFail n) s (s.onLink n fun l => { l with lanes := l.lanes / 2 }) ∧
    Happens (.linkDown n) s (s.onLink n fun l => { l with lanes := 0 }) ∧ ((s.onLink n fun l => { l with lanes := 0 }).link n).lanes = 0) ∧
  (∀ b s c, b < 2 ^ 17 → (s.copies.filter fun c => c.pending.contains b) = [c] →
    let ms := (s.group c.ctx c.group).members
    let lost := (List.range ms.length).filter fun q => Config.branchOf ((ms[q]?).getD 0) == b
    Happens (.linkDown (2 ^ 17 + b)) s (lost.foldl (fun s q => s.collReport c.ctx c.group c.seq q 1) (s.clearBranch c.id b))) ∧
  (∀ k s, Happens (.linkDown (2 ^ 18 + k)) s (s.unitDown k) ∧ (s.unitDown k).cutOff = k :: s.cutOff.filter (· != k)) ∧
  (∀ n vl b s, n < 24 → ∃ u : State, Happens (.vlPause n vl b) s u.flushOut ∧
    (∀ x, x ∈ (u.link n).paused ↔ if x = vl then b = true else x ∈ (s.link n).paused) ∧
    u = { s with links := u.links } ∧ (u.link n).lanes = (s.link n).lanes) ∧
  (∀ (s : State) p, (s.canInject p = true → s.inject p = s.emit (.packet p)) ∧
    (s.canInject p = false → s.inject p = { s with outbound := s.outbound ++ [p] })) ∧
  (∀ n s, Happens (.routeTableInstall n) s
    { s with routing := { s.routing with incoming := some n, retired := s.routing.retired.filter (· != n) } }) ∧
  (∀ n s, s.routing.incoming = some n → Happens (.routeTableSwitchover n) s
    { s with routing := { s.routing with select := n, incoming := none, old := some (s.routing.select, s.gtc) } }) ∧
  (∀ n s at_, s.routing.old = some (n, at_) → Happens (.routeTableRetire n) s
    { s with gtc := max s.gtc (at_ + s.tfabTicks), routing := { s.routing with old := none, retired := s.routing.retired ++ [n] } }) ∧
  (∀ n b s c, s.copies.find? (fun c => c.id == n) = some c → c.pending.contains b = true →
    (c.injected = true → Happens (.multicastBranchSend n b) s ((s.clearBranch n b).emit (.multicast c.pkt b))) ∧
    (c.injected = false → Happens (.multicastBranchSend n b) s s) ∧
    (∀ k, k ∈ (s.clearBranch n b).copies ↔ (k ∈ s.copies ∧ k.id ≠ n) ∨
      ∃ o, o ∈ s.copies ∧ o.id = n ∧ k = { o with pending := o.pending.filter (· != b) } ∧ k.pending ≠ [])) ∧
  (∀ c va bs s, Happens (.switchWriteback c va bs) s (s.writeVirt c va bs false).2) ∧
  (∀ n s r, s.requests.find? (fun r => r.seq == n) = some r →
    let u := s.waitUntil (r.sent + s.tfabTicks / 8)
    (u.gtc < r.deadline → Happens (.packetRetransmit n) s
      (({ u with requests := u.requests.map fun q => if q.seq = n then { q with sent := u.gtc } else q } : State).inject
        { r.pkt with select := u.routing.select })) ∧
    (r.deadline ≤ u.gtc → Happens (.packetRetransmit n) s u) ∧
    Happens (.requestDeadline n) s ((s.waitUntil r.deadline).endRequest r .late)) ∧
  (∀ n s x, s.requests.find? (fun r => r.seq == n) = none → s.unacked.find? (fun x => x.pkt.seq == n) = some x →
    let u := s.waitUntil (x.sent + s.tfabTicks / 8)
    (u.gtc < x.pkt.deadline → Happens (.packetRetransmit n) s
      (x.due.foldl (fun s d => s.inject { x.pkt with dst := d, select := u.routing.select })
        { u with unacked := u.unacked.map fun q => if q.pkt.seq = n then { q with sent := u.gtc } else q })) ∧
    (x.pkt.deadline ≤ u.gtc → Happens (.packetRetransmit n) s u)) ∧
  (∀ p s e r, respEnd p.body = some e → s.requests.find? (fun r => r.seq == p.seq && r.pkt.dst == p.src) = some r →
    (s.gtc ≤ r.deadline → Happens (.packetAccept p) s (s.endRequest r e)) ∧
    (r.deadline < s.gtc → Happens (.packetAccept p) s s)) ∧
  (∀ p s, respEnd p.body = none → p.body ≠ .ack → (∀ c g n w, p.body ≠ .decision c g n w) →
    let u : State := { s with accepted := s.accepted.filter fun a => decide (s.gtc ≤ a.until_) }
    let known := u.accepted.find? fun a => a.src == p.src && a.vl == p.vl && a.seq == p.seq
    let now : Accepted :=
      { src := p.src, vl := p.vl, seq := p.seq, until_ := p.deadline, reply := none, slot := p.slot, line := bodyLine p.body, held := none }
    (known = none → u.behind p = false → Happens (.packetAccept p) s
      (({ u with accepted := u.accepted ++ [now] } : State).serveAll p false)) ∧
    (known = none → u.behind p = true → u.closedFor p.body = false → Happens (.packetAccept p) s
      { u with accepted := u.accepted ++ [{ now with held := some p }] }) ∧
    (∀ a r, known = some a → a.reply = some r → Happens (.packetAccept p) s (u.inject r))) ∧
  (∀ p s c g n w, p.body = .decision c g n w → (s.group c g).state ≠ 1 ∨ n % 2 ^ 16 = 0 → Happens (.packetAccept p) s
    ((s.collDecide c g n (w.toNat % 2 ^ 8, w.toNat / 2 ^ 8 % 2 ^ 8, w.toNat / 2 ^ 32 % 2 ^ 18)).reply p .ack)) ∧
  (∀ p s, p.body = .ack → Happens (.packetAccept p) s (s.acked p.src p.seq) ∧
    ∀ x, x ∈ (s.acked p.src p.seq).unacked ↔ (x ∈ s.unacked ∧ x.pkt.seq ≠ p.seq) ∨
      ∃ y, y ∈ s.unacked ∧ y.pkt.seq = p.seq ∧ x = { y with due := y.due.filter (· != p.src) } ∧ x.due ≠ []) ∧
  (∀ peer skew s,
    let eps := s.sysskew.toNat % 2 ^ 16
    let meas := max (s.sysskew.toNat / 2 ^ 16 % 2 ^ 16) (min 0xFFFF skew)
    let past := eps < skew ∨ s.sysskew.getLsbD 32 = true
    let u : State := { s with sysskew := dw ((if past then 2 ^ 32 else 0) + meas * 2 ^ 16 + eps) }
    (skew ≤ eps → Happens (.skewMeasure peer skew) s u) ∧
    (eps < skew → Happens (.skewMeasure peer skew) s (u.post { seq := 0, kind := 4, d5 := meas, d6 := peer })))

/-- R420-R426: what a collective does. With this rank's turn come and the data of the others there, the engine pushes this rank's
elements to the others once, writes to DST the elements that the collective gives this rank, line by line, and reports completion to
both agreement units; before that it waits. A report that a unit records, a deadline and the fallback decide a collective once; with its
decision the status word is written, once its writes have reached their WCTs, and the collective has ended. A device that reaches
neither unit decides by the fallback alone. What the reports of the
units and the data of the other ranks bring are events with those arguments (logs 48 and 49); what of a collective a unit compares, and when
the fallback asks and gives up, are the model's readings (log 52 and log 71, DEDUCED). -/
def Obligations.CollectiveEvents : Prop :=
  (∀ c g n s, Happens (.collBarrier c g n) s (s.runColl c g n 0 [])) ∧
  (∀ c g n xs s, Happens (.collBroadcast c g n xs) s (s.runColl c g n 1 xs) ∧
    Happens (.collAllreduce c g n xs) s (s.runColl c g n 2 xs) ∧
    Happens (.collReduceScatter c g n xs) s (s.runColl c g n 3 xs) ∧ Happens (.collAllgather c g n xs) s (s.runColl c g n 4 xs)) ∧
  (∀ (s : State) c g n op xs k r, s.coll? c g n = some k → s.ownRank c g = some r →
    let d := k.desc.toNat
    let ms := (s.group c g).members
    let N := ms.length
    let all := (List.range N).map fun q => match xs[q]? with
      | some (y :: ys) => y :: ys
      | _ => if contributes d q then pushed (s.group c g).inbox n d N q r else []
    (s.group c g).state = 2 → cdOp d = op →
    ((s.group c g).colls.find? fun k => k.agree.verdict.isNone && !k.ended).map (·.seq) = some k.seq →
    (contributes d r = false → arrived d N r all = true → s.runColl c g n op xs = s.collFinish c g n r d N all) ∧
    (contributes d r = false → arrived d N r all = false → s.runColl c g n op xs = s) ∧
    (∀ ys u, contributes d r = true → s.ownElems c (cdSrc d) (cdReads d N) (cdSize d) = (.ok ys, u) →
      (arrived d N r all = true → s.runColl c g n op xs = (u.pushData c g n d r ys).collFinish c g n r d N (all.set r ys)) ∧
      (arrived d N r all = false → s.runColl c g n op xs = u.pushData c g n d r ys)) ∧
    (∀ a u, contributes d r = true → s.ownElems c (cdSrc d) (cdReads d N) (cdSize d) = (.error a, u) →
      s.runColl c g n op xs = u.collFault c g n 4 a)) ∧
  (∀ (s : State) c g n r d N all w u,
    let bs := ((collResult d N r all).map fun x => toBytes x (cdSize d)).flatten
    let lines := List.range (if bs = [] then 0 else (cdDst d % 128 + bs.length + 127) / 128)
    cdDst d + bs.length ≤ 2 ^ 45 → s.ownWrite c (cdDst d) bs lines 0 = (none, w, u) →
    s.collFinish c g n r d N all = (u.onColl c g n fun k => { k with wct := max k.wct w }).collReport c g n r 0) ∧
  (∀ d N r all k, k < cdCount d →
    let at_ := fun q j => (((all[q]?).getD [])[j]?).getD 0
    (cdOp d = 1 → collResult d N r all = (all[cdRoot d]?).getD []) ∧
    (cdOp d = 2 → (collResult d N r all)[k]? = some (reduceElem (cdType d) (cdRed d) ((List.range N).map fun q => at_ q k))) ∧
    (cdOp d = 3 → (collResult d N r all)[k]? =
      some (reduceElem (cdType d) (cdRed d) ((List.range N).map fun q => at_ q (r * cdCount d + k)))) ∧
    (cdOp d = 4 → all.length = N → (∀ xs, xs ∈ all → xs.length = cdCount d) → ∀ q xs, all[q]? = some xs →
      (collResult d N r all)[q * cdCount d + k]? = xs[k]?) ∧
    (cdOp d = 0 → collResult d N r all = [])) ∧
  (∀ c g n rank rep s,
    let k := s.group c g
    let j := n % 2 ^ 16
    let i : Instr := .agreementReport c g n rank rep
    (k.ahead n = true → Happens i s (s.onGroup c g fun k => { k with
      early := k.early ++ [(j, rank, rep)]
      accepts := if rep.rsn ≠ 256 || k.accepts.any (fun a => a.1 == j) then k.accepts else k.accepts ++ [(j, s.gtc)] })) ∧
    (k.ahead n = false → k.state = 2 → Happens i s (s.onColl c g n fun q => { q with agree := s.recordAt k q.agree rank rep })) ∧
    (k.ahead n = false → k.state = 1 → Happens i s (s.onGroup c g fun k => { k with agree := s.recordAt k k.agree rank rep })) ∧
    ∀ a, s.recordAt k a rank rep =
      if k.members.length ≤ rank ∨ (if rep.unit = 0 then k.units.1 else k.units.2) ∈ s.cutOff then a
      else a.record (decide (k.units.1 ∈ s.cutOff ∨ k.units.2 ∈ s.cutOff)) k.members.length rank rep) ∧
  (∀ c g n s k, (s.group c g).state = 2 → s.coll? c g n = some k →
    ((s.group c g).lone = none → Happens (.collDeadline c g n) s
      ((s.waitUntil (k.start + 1000 * (s.group c g).tcoll)).onColl c g n fun k => { k with agree := k.agree.decide (2, 0, 0x3FFFF) })) ∧
    ((s.group c g).lone ≠ none → Happens (.collDeadline c g n) s s) ∧
    (k.agree.verdict = none → Happens (.collStatusWrite c g n) s s) ∧
    (∀ v, k.agree.verdict = some v →
      let word := statusWord v.1 v.2.1 k.seq v.2.2
      let u := (s.waitUntil k.wct).onGroup c g fun q =>
        { q with colls := q.colls.filter (fun q => q.seq != k.seq), inbox := q.inbox.filter fun e => e.1 != k.seq }
      Happens (.collStatusWrite c g n) s
        ((((u.noteDecided c g k.seq word).writeWord64 c (k.addr + 8) word).2.noteStatus k.issuer v.1).collGo c g) ∧
      u.coll? c g n = none)) ∧
  (∀ c g n s k, s.group c g = k → k.state = 1 →
    (k.lone = none → Happens (.collDeadline c g n) s
      ((s.waitUntil (k.start + 1000 * k.tcoll)).onGroup c g fun k => { k with agree := k.agree.decide (2, 0, 0x3FFFF) })) ∧
    (k.lone ≠ none → Happens (.collDeadline c g n) s s) ∧
    (k.agree.verdict = none → Happens (.collStatusWrite c g n) s s) ∧
    (∀ v, k.agree.verdict = some v →
      let word := statusWord v.1 v.2.1 0 v.2.2
      let u := s.onGroup c g fun k =>
        if v.1 = 0 then { k with state := 2, agree := {}, decided := [] } else { decided := k.decided, askers := k.askers }
      Happens (.collStatusWrite c g n) s
        (((u.noteDecided c g (2 ^ 16) word).writeWord64 c (k.addr + 8) word).2.noteStatus k.issuer v.1))) ∧
  (∀ code rsn seq lost, code < 2 ^ 8 → rsn < 2 ^ 8 → seq < 2 ^ 16 → lost < 2 ^ 18 →
    let w : DWord := BitVec.ofNat 64 (statusWord code rsn seq lost)
    w.extractLsb' 0 8 = BitVec.ofNat 8 code ∧ w.extractLsb' 8 8 = BitVec.ofNat 8 rsn ∧ w.extractLsb' 16 16 = BitVec.ofNat 16 seq ∧
    w.extractLsb' 32 18 = BitVec.ofNat 18 lost ∧ w.extractLsb' 50 13 = 0 ∧ w.getLsbD 63 = true) ∧
  (∀ c g n peers s,
    let k := s.group c g
    let start := if k.state = 1 then k.start else ((s.coll? c g n).map (·.start)).getD 0
    let u := s.waitUntil (max (k.lone.getD s.gtc) start + s.tfabTicks)
    let adopts := fun (v : Nat × Nat × Nat) => if k.state = 1
      then u.onGroup c g fun k => { k with agree := k.agree.decide v }
      else u.onColl c g n fun k => { k with agree := k.agree.decide v }
    (∀ w : DWord, Happens (.agreementFallback c g n peers (some w)) s
      (adopts (w.toNat % 2 ^ 8, w.toNat / 2 ^ 8 % 2 ^ 8, w.toNat / 2 ^ 32 % 2 ^ 18))) ∧
    (peers ≠ 0 → Happens (.agreementFallback c g n peers none) s (adopts (2, 0, 0x3FFFF))) ∧
    (peers = 0 → Happens (.agreementFallback c g n peers none) s (adopts (1, 1, (s.ownRank c g).getD 0))))

/-- R421, R424: a decision stands: once a collective of a formed group has a verdict, neither a report nor another decision changes
it. A unit decides for failure, of the lowest rank that failed, or for completion once every rank has reported it; the first unit's
decision is the one delivered, when the other has decided too or is out of reach. A report whose form differs from the first that the
unit received counts as a failure of its sender with reason 4; that the sender is the one named is the model's reading (log 52, DEDUCED). Reduction: a sum of floats that has a NaN is the
canonical NaN; a sum of integers wraps; a minimum and a maximum of unsigned elements bound every element. -/
def Obligations.CollectiveResults : Prop :=
  (∀ (s : State) c g n (k : Coll) v, s.coll? c g n = some k → (s.group c g).state = 2 → k.agree.verdict = some v →
    (∀ rank rsn, ((s.collReport c g n rank rsn).coll? c g n).map (·.agree.verdict) = some (some v)) ∧
    (∀ w, ((s.collDecide c g n w).coll? c g n).map (·.agree.verdict) = some (some v))) ∧
  (∀ reports n,
    (∀ r x, (r, x) ∈ reports → x ≠ 0 → (∀ q y, (q, y) ∈ reports → y ≠ 0 → r < q ∨ (r = q ∧ x = y)) →
      verdictOf reports n = some (1, x, r)) ∧
    ((∀ r x, (r, x) ∈ reports → x = 0 ∧ r < n) → 0 < n →
      verdictOf reports n = if ∀ r, r < n → (r, 0) ∈ reports then some (0, 0, 0x3FFFF) else none)) ∧
  (∀ (a : Agreement) alone n rank (rep : UnitReport),
    let u := rep.unit
    let heard := (a.forms.find? fun f => f.1 == u).map (·.2)
    let x := if rep.form ≠ [] ∧ heard.any (· != rep.form) = true then 4 else rep.rsn
    let b := a.record alone n rank rep
    let rs := a.reports ++ [(u, rank, x)]
    let mine := (rs.filter fun r => r.1 == u).map (·.2)
    b.forms = (if rep.form ≠ [] ∧ heard = none then a.forms ++ [(u, rep.form)] else a.forms) ∧
    (x = 256 ∨ a.verdict ≠ none ∨ (∃ y, (u, rank, y) ∈ a.reports ∧ (y ≠ 0 ∨ x = 0)) → b = { a with forms := b.forms }) ∧
    (x ≠ 256 → a.verdict = none → (∀ y, (u, rank, y) ∈ a.reports → y = 0 ∧ x ≠ 0) → b.reports = rs ∧
      (verdictOf mine n = none → b.ruled = a.ruled ∧ b.verdict = none) ∧
      (∀ v, verdictOf mine n = some v →
        (a.ruled = none → b.ruled = some (u, v) ∧ b.verdict = if alone then some v else none) ∧
        (∀ w, a.ruled = some w → b.ruled = some w ∧ b.verdict = if alone ∨ w.1 ≠ u then some w.2 else none)))) ∧
  (∀ ty xs, ty < 3 → xs ≠ [] → (∃ x, x ∈ xs ∧ (cdFmt ty).isNaN x = true) → reduceElem ty 0 xs = (cdFmt ty).cnan) ∧
  (∀ ty xs, 3 ≤ ty → reduceElem ty 0 xs = xs.sum % 2 ^ 32) ∧
  (∀ xs x, x ∈ xs → reduceElem 4 1 xs ≤ x ∧ x ≤ reduceElem 4 2 xs)

/-! ## The host, power and management -/

/-- R217, R369, R375, R377-R379, R432-R436, R485: host writes to the control region, host accesses to memory, completion records, and the
fault queue with its commands. That a write any line of which is refused writes nothing, that a read of a poisoned line is refused, and
what the answers of the host change of the records held, is the model's choice (log 43); that an invalidation or a scrub whose operands
are not multiples of their unit is malformed is its reading too (log 45, DEDUCED). -/
def Obligations.HostEvents : Prop :=
  (∀ off bs s, Happens (.registerWrite off bs) s (s.controlWrite off bs)) ∧
  (∀ conn a bs s, Happens (.rdmaWrite conn 0xFFFF0001 a bs) s ((s.controlWrite a bs).emit (.ack conn)) ∧
    (a + bs.length ≤ s.capacity → Happens (.rdmaWrite 0 0xFFFF0002 a bs) s ((s.physWrite a bs).emit (.ack 0)) ∧
      (MemoryWf s → ∀ x, memByte (s.physWrite a bs).hbm x = if a ≤ x ∧ x < a + bs.length then (bs[x - a]?).getD 0 else memByte s.hbm x)) ∧
    (conn ≠ 0 ∨ s.capacity < a + bs.length → Happens (.rdmaWrite conn 0xFFFF0002 a bs) s (s.emit (.nakAccess conn)))) ∧
  (∀ conn (key : Word) a bs s c u, key ≠ 0xFFFF0001 → key ≠ 0xFFFF0002 → keyContext key.toNat = some c → a + bs.length ≤ 2 ^ 45 →
    (s.hostMayAll c true (lineSpan a bs.length) = (true, u) →
      Happens (.rdmaWrite conn key a bs) s ((u.virtWrite c a bs).emit (.ack conn))) ∧
    (s.hostMayAll c true (lineSpan a bs.length) = (false, u) → Happens (.rdmaWrite conn key a bs) s (u.emit (.nakAccess conn)))) ∧
  (∀ conn a n s, Happens (.rdmaRead conn 0xFFFF0001 a n) s
      (s.emit (.readReply conn ((List.range n).map fun i => s.controlByte (a + i)))) ∧
    (a + n ≤ s.capacity → ∃ u : State, u.hbm = s.hbm ∧ u.poison = s.poison ∧
      Happens (.rdmaRead 0 0xFFFF0002 a n) s (u.emit (.readReply 0 (memBytes s.hbm a n)))) ∧
    (conn ≠ 0 ∨ s.capacity < a + n → Happens (.rdmaRead conn 0xFFFF0002 a n) s (s.emit (.nakAccess conn)))) ∧
  (∀ conn (key : Word) a n s c u, key ≠ 0xFFFF0001 → key ≠ 0xFFFF0002 → keyContext key.toNat = some c → a + n ≤ 2 ^ 45 →
    (∀ bs, s.virtRead c a n (lineSpan a n) = (some bs, u) → Happens (.rdmaRead conn key a n) s (u.emit (.readReply conn bs))) ∧
    (s.virtRead c a n (lineSpan a n) = (none, u) → Happens (.rdmaRead conn key a n) s (u.emit (.nakAccess conn)))) ∧
  (∀ conn s, Happens (.invalidRequestNak conn) s (s.emit (.nakInvalid conn)) ∧
    Happens (.completionRecordResend conn) s (s.resend conn) ∧
    (s.down.contains conn = false → Happens (.connectionFailure conn) s { s with down := insertBy (fun x => x) conn s.down })) ∧
  (∀ conn k s r, sentRecord conn k (s.out.drop s.past) = some r → s.heldRecs.contains r = false →
    (s.heldRecs.filter fun r => r.conn == conn).length < 64 →
    Happens (.completionRecordNak { conn := conn, back := k }) s { s with heldRecs := holdRecord r s.heldRecs }) ∧
  (∀ conn k s t, Happens (.completionRecordNak { conn := conn, back := k }) s t → (s.heldRecs.filter fun r => r.conn == conn).length ≤ 64 →
    (t.heldRecs.filter fun r => r.conn == conn).length ≤ 64) ∧
  (∀ s, Happens .faultReportPost s (s.postWaiting (s.waiting.length + 1))) ∧
  (∀ c (tag : Word) n s r who, s.openReport c n = some (r, who) →
    Happens (.fqResolve c tag n) s ((s.resolve r who).post { seq := 0, kind := 7, ctx := c, d5 := tag.toNat, d6 := 0 }) ∧
    Happens (.fqDecline c tag n) s ((s.decline r who).post { seq := 0, kind := 7, ctx := c, d5 := tag.toNat, d6 := 0 })) ∧
  (∀ c (tag : Word) a n s,
    let said := fun (t : State) ok => t.post { seq := 0, kind := 7, ctx := c, d5 := tag.toNat, d6 := ok }
    (2 ^ 16 ∣ a → 2 ^ 16 ∣ n → Happens (.fqInvalidate c tag a n) s (said (s.invalidate c a n) 0)) ∧
    (¬ 2 ^ 16 ∣ a ∨ ¬ 2 ^ 16 ∣ n → Happens (.fqInvalidate c tag a n) s (said s 1)) ∧
    Happens (.fqKeyInvalidate c tag a n) s (said { s with keys := s.keys.filter fun e => decide (e.1 < a) || decide (a + n ≤ e.1) } 0) ∧
    (2 ^ 7 ∣ a → Happens (.fqScrub c tag a) s (said (s.scrub a) 0)) ∧ (¬ 2 ^ 7 ∣ a → Happens (.fqScrub c tag a) s (said s 1)))

/-- R437-R443: reset, boot, training, row activation, clocks, thermal and management events. What stays of the world outside the
machine over a reset, and the clamping of the power cap, are the model's choices (logs 57 and 43). That each of the 16 base islands reads
as 2.0 GHz is its reading of R18 and R441 (log 72, DEDUCED). -/
def Obligations.PowerEvents : Prop :=
  (∀ s, Happens .coldReset s s.afterReset ∧ Happens .modulePowerOff s { s.afterReset with boot := .off } ∧
    Happens .hbmRecalibrate s s ∧ Happens .thermalTrip s { s with tripped := true, out := s.out ++ [.trip] } ∧
    Happens .mgmtReadCap s { s with out := s.out ++ [.value s.cap] } ∧
    Happens .mgmtReadRowThreshold s { s with out := s.out ++ [.value s.rowThreshold] }) ∧
  (∀ s : State, let u := s.afterReset
    u = { State.resetOf s.part with
      fused := s.fused, serials := s.serials, flash := s.flash, out := s.out, past := s.out.length, pace := s.pace, free := s.free, agenda := u.agenda, turns := s.turns } ∧
    u.hbm = [] ∧ u.packs = [] ∧ u.boot = .waiting ∧ u.training = []) ∧
  (∀ s, s.boot = .off → Happens .mgmtWarmReset s s) ∧
  (∀ s, s.boot ≠ .off → ∃ t, Happens .mgmtWarmReset s t ∧ t.hbm = s.hbm ∧ t.count = s.count ∧ t.packs = [] ∧ t.teams = [] ∧ t.boot = .waiting ∧
    t.l2 = [] ∧ t.tlb = [] ∧ ((s.cores.map (·.1)).Nodup → ∀ c n, Tab.get 0 (t.core c).count n = Tab.get 0 (s.core c).count n) ∧
    (∀ ts, s.flash = some (ts, trainCrc ts) → (ts.map fun k => (k.site, k.serial)) = (s.sites.map fun k => (k, Tab.get 0 s.serials k)) →
      t.training = ts ∧ t.flash = s.flash)) ∧
  (∀ s, ∃ t clocks temps power v, Happens .mgmtReadStatus s t ∧
    t.out = s.out ++ [.status v clocks (List.replicate 16 16) temps power] ∧
    (s.boot = .refused → v = 2) ∧ clocks = (((List.range 72).filter s.working).map fun c => (s.core c).clock) ∧
    temps.length = clocks.length ∧ t = { s with out := t.out, free := t.free }) ∧
  (∀ w s, (w < 800 → Happens (.mgmtWriteCap w) s s) ∧
    (800 ≤ w → Happens (.mgmtWriteCap w) s { s with cap := min w (match s.part with
      | .a64 => 2800
      | .a48 => 2200) })) ∧
  (∀ n s, (256 ≤ n ∧ n ≤ 65535 → Happens (.mgmtWriteRowThreshold n) s { s with rowThreshold := n }) ∧
    (n < 256 ∨ 65535 < n → Happens (.mgmtWriteRowThreshold n) s s)) ∧
  (∀ image s, s.boot = .waiting ∨ s.boot = .refused → image.length ≤ 2 ^ 26 →
    (Config.imageAccepted image = false → Happens (.bootImageReceive image) s { s with boot := .refused }) ∧
    (Config.imageAccepted image = true → ∃ t, Happens (.bootImageReceive image) s t ∧ t.boot = .running ∧ (t.conn 0).getLsbD 64 = true ∧
      t.hbm = s.hbm ∧ (s.training ≠ [] → t.training = s.training ∧ t.flash = s.flash) ∧
      (s.training = [] → t.flash = some (t.training, trainCrc t.training) ∧ t.flashGood = true))) ∧
  (∀ b s, let u := ((s.resetRows b).emit (.rowAlert b)).endBackoffs
    ((u.backoff.all fun x => x.1 != b) = true → Happens (.rowActivationAlert b) s
      ({ u with backoff := u.backoff ++ [(b, s.gtc + 350)] }.bump 14)) ∧
    ((u.backoff.any fun x => x.1 == b) = true → ∃ t, Happens (.rowActivationAlert b) s t ∧ t = { u with again := t.again } ∧ b ∈ t.again) ∧
    (∀ r, r.1 = b → s.rowThreshold ≤ s.rowCount r → (s.resetRows b).rowCount r = 0)) ∧
  (∀ b (s : State), (∀ x, x ∈ s.backoff → s.gtc < x.2) → s.endBackoffs = s ∧ s.endBackoff b = s) ∧
  (∀ b s x, s.backoff.find? (fun x => x.1 == b) = some x →
    Happens (.backoffEnd b) s ((s.waitUntil x.2).endBackoff b) ∧
    (x.2 ≤ s.gtc →
      let u : State := { s with backoff := s.backoff.filter fun y => y.1 != b }
      (s.again.contains b = false → s.endBackoff b = u) ∧
      (s.again.contains b = true → s.endBackoff b =
        { u with again := s.again.filter (· != b), backoff := u.backoff ++ [(b, x.2 + 350)] }.bump 14))) ∧
  (∀ bases demand s, ∃ t, Happens (.powerArbiterGrant bases demand) s t ∧ t = { s with cores := t.cores, grants := t.grants } ∧
    (∀ k w, k < 16 → bases[k]? = some w → Tab.get 0 t.grants (72 + k) = w) ∧
    ∀ c d, demand[c]? = some d → s.working c = true →
      Tab.get 0 t.grants c = (s.cap - (bases.take 16).sum) * d / max 1 demand.sum ∧
      (t.core c).clock = if (s.core c).hot then 8 else clockFor (Tab.get 0 t.grants c)) ∧
  (∀ g, 8 ≤ clockFor g ∧ clockFor g ≤ 32 ∧ (8 < clockFor g → Config.islandCurrent (clockFor g) ≤ g) ∧
    ∀ k, clockFor g < k → k ≤ 32 → g < Config.islandCurrent k) ∧
  (∀ c s, Happens (.thermalThrottle c) s (s.setClock c 8 true) ∧ Happens (.thermalRelease c) s (s.setClock c (s.core c).clock false) ∧
    ∀ k h, ((s.setClock c k h).core c).clock = k ∧ ((s.setClock c k h).core c).hot = h)

/-! ## The machine as a whole -/

/-- R39-R41, R55: decoding the word of a well-formed instruction gives that instruction, every operand at every value. -/
def Obligations.EncodingRoundTrip : Prop :=
  ∀ i, isWord i = true → wellFormed i = true → decode (encode i) = .ok i

/-- R39-R41: a word that decodes is the one word of its instruction, which is well formed: no bit of it is left unread. -/
def Obligations.EncodingUnique : Prop :=
  ∀ w i, decode w = .ok i → isWord i = true ∧ wellFormed i = true ∧ encode i = w

/-- R39, R55-R57, R63: words written out from the encodings of spec/02 and of the groups decode to the instructions they stand for. -/
def Obligations.DecodingWords : Prop :=
  decode 0x80282101 = .ok (.sadd true 5 1 2) ∧ decode 0x12182140 = .ok (.vadd false 3 1 2 true false) ∧
  decode 0x0B031C00 = .ok (.mode false 8 0 1 1 3 1) ∧ decode 0x0C0FFFFF = .ok (.hold false 0 31 31 31 31) ∧
  decode 0x8E800005 = .ok (.bemz 5) ∧ decode 0x0E800005 = .illegal 5 ∧
  decode 0x2420A320 = .ok (.ffma false 4 5 6 false true 0) ∧ decode 0x3028C200 = .ok (.cvt false 5 6 4 false) ∧
  decode 0x38400840 = .ok (.qlat false 8 0 16 true false) ∧ decode 0x3E10A080 = .ok (.talloc false 2 5 1) ∧
  decode 0x442843C2 = .ok (.ld false 5 2 7 true 2) ∧ decode 0x4C204303 = .ok (.atom false 4 2 6 false 3) ∧
  decode 0x58390000 = .ok (.lift false 7 8) ∧ decode 0x60706843 = .ok (.mma false 3 1 1 40 1 3) ∧
  decode 0x68002001 = .ok (.tbar false 1) ∧ decode 0x70204000 = .ok (.coll false 4 2) ∧
  decode 0x78202282 = .ok (.ssrd false 4 1 5)

/-- R35, R47-R50, R221: on a device that runs, when it is a running pack's turn, nothing is due by its time, no word of it is in error, and
the word that is fetched at its PC decodes, a step issues that instruction; a team halt that stands at its core then counts the word and
stops the pack where its run ends (R364, R365). What comes before is the passing of time. -/
def Obligations.StepRunsWord : Prop :=
  ∀ s ts w i u, s.turns = .issue :: ts →
    let t := ({ s with gtc := s.gtc + s.pace, turns := ts } : State).timers
    t.boot = .running → t.pk.status = .running → t.pk.parkDue = false → t.fetch = (.word w, u) → decode w = .ok i → eccScalar u.pk i = none →
    eccLanes u.tm u.pk i = 0 →
    (∀ n, exec i u = .next n → step s = .next (u.haltStop n) ∧ (n.pk.haltDue = false → u.haltStop n = n)) ∧
    (∀ f, exec i u = .fault f → step s = .fault f) ∧ (∀ f, exec i u = .refused f → step s = .refused f)

/-- R221: what a fetch reads: below 2^45, on a page of this device with X, the four bytes at the PC of the line at its home, least
significant first; a page fault of that word is not declined. -/
def Obligations.FetchReadsHome : Prop :=
  ∀ (s : State) (h : HomeLine), s.pk.pc.toNat < 2 ^ 45 → s.pk.pc.toNat % 4 = 0 →
    s.l2.find? (fun h => h.ctx == s.tm.ctx && h.line == s.pk.pc.toNat / 128) = some h → (h.settle s.gtc).perm.x = true →
    (h.settle s.gtc).poison = false → s.pk.declined ≠ some (3, s.pk.pc.toNat) →
    ∃ u, s.fetch = (.word ((h.settle s.gtc).data.extractLsb' (8 * (s.pk.pc.toNat % 128)) 32), u) ∧ u.hbm = s.hbm ∧ u.pk = s.pk

/-- R17: physical memory keeps its canonical form whatever step is taken. -/
def Obligations.MemoryStaysCanonical : Prop :=
  ∀ s t, MemoryWf s → step s = .next t → MemoryWf t

/-- R3, R52, R208: what is written to physical memory is what is read back, byte by byte, and every other byte stays; a freed vector
register reads zero in every lane, of every pack and after every step. -/
def Obligations.ReadAfterWrite : Prop :=
  (∀ m a (bs : List Byte) x, Memory.wf m = true →
    memByte (memWrite m a bs) x = if a ≤ x ∧ x < a + bs.length then (bs[x - a]?).getD 0 else memByte m x) ∧
  (∀ s t, (∀ p ∈ s.allPacks, FreedReadZero p) → step s = .next t → ∀ p ∈ t.allPacks, FreedReadZero p) ∧
  (∀ p ∈ State.reset.allPacks, FreedReadZero p)

/-- R373, R374, R438: what a cold reset leaves, in the values that the spec states, with memory canonical. -/
def Obligations.ResetState : Prop :=
  let s := State.reset
  s.boot = .waiting ∧ s.gtc = 0 ∧ s.sysskew = 32 ∧ s.leasecfg = 3 ∧ s.tfab = 20000 ∧ s.keytab = 0 ∧ s.packs = [] ∧ s.teams = [] ∧
    s.grids = [] ∧ s.fq = 0 ∧ s.hbm = [] ∧ MemoryWf s ∧ (∀ q, s.queue q = {}) ∧ ∀ c, (s.ctx c).ptbase = 0
end

