-- ==== Sys2Proof/Laws/Bits.lean ====
section
/-! SUPPORT. A vector register made of words reads back those words. -/

namespace Sys2Proof.Machine

theorem lanesNat_div (f : Nat → Word) (n : Nat) : ∀ k i, i < n →
    lanesNat f k n / 2 ^ (32 * i) % 2 ^ 32 = (f (k + i)).toNat := by
  induction n with
  | zero => intro k i h; omega
  | succ n ih =>
    intro k i h
    have hf := (f k).isLt
    cases i with
    | zero =>
      simp only [lanesNat, Nat.mul_zero, Nat.pow_zero, Nat.div_one, Nat.add_zero]
      omega
    | succ i =>
      have hp : (2 : Nat) ^ (32 * (i + 1)) = 2 ^ 32 * 2 ^ (32 * i) := by
        rw [Nat.mul_add, Nat.pow_add, Nat.mul_comm]
      rw [hp, ← Nat.div_div_eq_div_mul, lanesNat]
      rw [Nat.add_mul_div_left _ _ (by decide), Nat.div_eq_of_lt hf, Nat.zero_add, ih (k + 1) i (by omega),
        Nat.add_assoc, Nat.add_comm 1 i]

theorem lanesNat_lt (f : Nat → Word) (n : Nat) : ∀ k, lanesNat f k n < 2 ^ (32 * n) := by
  induction n with
  | zero => intro k; simp [lanesNat]
  | succ n ih =>
    intro k
    have hf := (f k).isLt
    have h := ih (k + 1)
    have hp : (2 : Nat) ^ (32 * (n + 1)) = 2 ^ 32 * 2 ^ (32 * n) := by
      rw [Nat.mul_add, Nat.pow_add, Nat.mul_comm]
    rw [hp, lanesNat]
    have : 2 ^ 32 * (lanesNat f (k + 1) n + 1) ≤ 2 ^ 32 * 2 ^ (32 * n) := Nat.mul_le_mul_left _ h
    omega

/-- Lane l of the register built from f is f l. -/
@[simp] theorem lane_ofLanes (f : Nat → Word) (l : Nat) (h : l < 64) : lane (ofLanes f) l = f l := by
  apply BitVec.eq_of_toNat_eq
  have hd := lanesNat_div f 64 0 l h
  have hlt : lanesNat f 0 64 < 2 ^ 2048 := lanesNat_lt f 64 0
  rw [lane, ofLanes, BitVec.extractLsb'_toNat, BitVec.toNat_ofNat, Nat.shiftRight_eq_div_pow,
    Nat.mod_eq_of_lt hlt, hd, Nat.zero_add]

/-- An active lane takes the new value, an inactive one keeps the old (R8). -/
theorem lane_mergeLanes (m : DWord) (new old : Lanes) (l : Nat) (h : l < 64) :
    lane (mergeLanes m new old) l = if m.getLsbD l then lane new l else lane old l := by
  simp [mergeLanes, h]

end Sys2Proof.Machine
end

