-- ==== Sys2Proof/Laws/Tab.lean ====
section
/-! SUPPORT. Read after write, and the canonical form, for tables. -/

namespace Sys2Proof

theorem Tab.get_put (z : α) (t : Tab α) (k i : Nat) (v : α) :
    Tab.get z (Tab.put k v t) i = if i = k then v else Tab.get z t i := by
  induction t with
  | nil => simp [Tab.put, Tab.get, eq_comm]
  | cons e t ih =>
    obtain ⟨j, w⟩ := e
    simp only [Tab.put]
    split
    · simp [Tab.get, eq_comm]
    · split
      · subst_vars
        by_cases h : i = j
        · simp [Tab.get, h]
        · have : ¬ j = i := fun e => h e.symm
          simp [Tab.get, h, this]
      · simp only [Tab.get, ih]
        by_cases h : j = i
        · have : ¬ i = k := by omega
          simp [h, this]
        · simp [h]

theorem Tab.get_del (z : α) (t : Tab α) (k i : Nat) :
    Tab.get z (Tab.del k t) i = if i = k then z else Tab.get z t i := by
  induction t with
  | nil => simp [Tab.del, Tab.get]
  | cons e t ih =>
    obtain ⟨j, w⟩ := e
    simp only [Tab.del, List.filter_cons] at ih ⊢
    by_cases hj : j = k
    · subst hj
      by_cases h : i = j
      · subst h; simpa using ih
      · have : ¬ j = i := fun e => h e.symm
        simp [ih, h, this, Tab.get]
    · have hb : (j != k) = true := by simp [hj]
      simp only [hb, if_true, Tab.get, ih]
      by_cases h : j = i
      · have : ¬ i = k := by omega
        simp [h, this]
      · simp [h]

/-- A read after a write: the written key gives the value written, every other key what it gave. -/
@[simp] theorem Tab.get_set [DecidableEq α] (z : α) (t : Tab α) (k i : Nat) (v : α) :
    Tab.get z (Tab.set z t k v) i = if i = k then v else Tab.get z t i := by
  unfold Tab.set
  split
  · rename_i h; rw [Tab.get_del]; simp [h]
  · exact Tab.get_put z t k i v

theorem Tab.wfFrom_mono [DecidableEq α] (z : α) (t : Tab α) {a b : Nat} (h : a ≤ b)
    (hw : Tab.wfFrom z b t = true) : Tab.wfFrom z a t = true := by
  cases t with
  | nil => rfl
  | cons e t =>
    obtain ⟨j, v⟩ := e
    simp only [Tab.wfFrom, Bool.and_eq_true, decide_eq_true_eq] at hw ⊢
    exact ⟨⟨by omega, hw.1.2⟩, hw.2⟩

theorem Tab.wfFrom_put [DecidableEq α] (z : α) (t : Tab α) (k : Nat) (v : α) (hv : v ≠ z) :
    ∀ lo, lo ≤ k → Tab.wfFrom z lo t = true → Tab.wfFrom z lo (Tab.put k v t) = true := by
  induction t with
  | nil => intro lo h _; simp [Tab.put, Tab.wfFrom, h, hv]
  | cons e t ih =>
    obtain ⟨j, w⟩ := e
    intro lo h hw
    simp only [Tab.wfFrom, Bool.and_eq_true, decide_eq_true_eq] at hw
    simp only [Tab.put]
    split
    · simp only [Tab.wfFrom, Bool.and_eq_true, decide_eq_true_eq]
      exact ⟨⟨h, hv⟩, ⟨by omega, hw.1.2⟩, hw.2⟩
    · split
      · subst_vars
        simp only [Tab.wfFrom, Bool.and_eq_true, decide_eq_true_eq]
        exact ⟨⟨h, hv⟩, hw.2⟩
      · simp only [Tab.wfFrom, Bool.and_eq_true, decide_eq_true_eq]
        exact ⟨hw.1, ih _ (by omega) hw.2⟩

theorem Tab.wfFrom_del [DecidableEq α] (z : α) (t : Tab α) (k : Nat) :
    ∀ lo, Tab.wfFrom z lo t = true → Tab.wfFrom z lo (Tab.del k t) = true := by
  induction t with
  | nil => intro lo _; rfl
  | cons e t ih =>
    obtain ⟨j, w⟩ := e
    intro lo hw
    simp only [Tab.wfFrom, Bool.and_eq_true, decide_eq_true_eq] at hw
    simp only [Tab.del, List.filter_cons] at ih ⊢
    split
    · simp only [Tab.wfFrom, Bool.and_eq_true, decide_eq_true_eq]
      exact ⟨hw.1, ih _ hw.2⟩
    · exact Tab.wfFrom_mono z _ (by omega) (ih _ hw.2)

/-- A write keeps the canonical form. -/
theorem Tab.wf_set [DecidableEq α] (z : α) (t : Tab α) (k : Nat) (v : α) (h : Tab.wf z t = true) :
    Tab.wf z (Tab.set z t k v) = true := by
  unfold Tab.set Tab.wf
  split
  · exact Tab.wfFrom_del z t k 0 h
  · rename_i hv; exact Tab.wfFrom_put z t k v hv 0 (by omega) h

end Sys2Proof
end

