-- ==== Sys2Proof/Laws/Issue.lean ====
section
/-! SUPPORT. What issuing a word does, in the terms of Safety: the registers that a pack holds after its operations on them,
and how a word completes. -/

namespace Sys2Proof.Machine

open Sys2Proof.Safety

/-! ## Vector registers of a pack -/


theorem sortBy_eq_nil {key : α → Nat} (l : List α) : (sortBy key l = []) ↔ l = [] := by
  have hins : ∀ (a : α) l, insertBy key a l ≠ [] := by
    intro a l; cases l <;> simp [insertBy]; split <;> simp
  have hf : ∀ (l acc : List α), l.foldl (fun acc a => insertBy key a acc) acc = [] ↔ l = [] ∧ acc = [] := by
    intro l; induction l with
    | nil => simp
    | cons a l ih => intro acc; simp [ih, hins]
  simp [sortBy, hf]

theorem noteReads_all (p : Pack) (rs : List Nat) (h : rs.all p.isLive = true) : p.noteReads rs = p := by
  have : (rs.filter fun r => !p.isLive r) = [] := by
    rw [List.filter_eq_nil_iff]; intro r hr; simp [List.all_eq_true.mp h r hr]
  simp [Pack.noteReads, this, sortBy]

theorem noteReads_some (p : Pack) (rs : List Nat) (h : rs.all p.isLive = false) : ∃ r ∈ rs, p.isLive r = false ∧ p.noteReads rs =
   { p with
      staleCount := if p.staleCount = 0xFFFF then 0xFFFF else p.staleCount + 1
      staleFirst := if p.staleSeen then p.staleFirst else BitVec.ofNat 6 r
      staleSeen := true } := by
  have hmem : ∀ (l acc : List Nat) x, x ∈ l.foldl (fun acc a => insertBy (fun r => r) a acc) acc → x ∈ l ∨ x ∈ acc := by
    have hins : ∀ (a : Nat) l x, x ∈ insertBy (fun r => r) a l → x = a ∨ x ∈ l := by
      intro a l; induction l with
      | nil => simp [insertBy]
      | cons b l ih => intro x; simp only [insertBy]; split
                       · simp
                       · simp only [List.mem_cons]; intro hx; rcases hx with hx | hx
                         · simp [hx]
                         · rcases ih x hx with h | h <;> simp [h]
    intro l; induction l with
    | nil => simp
    | cons a l ih => intro acc x hx; simp only [List.foldl_cons] at hx; rcases ih _ _ hx with h | h
                     · simp [h]
                     · rcases hins _ _ _ h with h | h <;> simp [h]
  cases hs : sortBy (fun r => r) (rs.filter fun r => !p.isLive r) with
  | nil => rw [sortBy_eq_nil] at hs; rw [List.filter_eq_nil_iff] at hs; simp only [List.all_eq_false] at h
           obtain ⟨x, hx, hn⟩ := h; exact absurd (by simpa using hn) (hs x hx)
  | cons r l =>
    have : r ∈ sortBy (fun r => r) (rs.filter fun r => !p.isLive r) := by simp [hs]
    have := hmem _ _ _ this
    simp at this
    exact ⟨r, this.1, this.2, by simp [Pack.noteReads, hs]⟩

theorem dw_bit (a r : Nat) (hr : r < 64) : (dw (2 ^ a)).getLsbD r = decide (a = r) := by
  rw [dw, BitVec.getLsbD_ofNat, Nat.testBit_two_pow]; simp [hr]

theorem v_setV (p : Pack) (a r : Nat) (x : Lanes) : (p.setV a x).v r = if r = a then x else p.v r := Tab.get_set ..

theorem zero_get (t : Tab Lanes) (a r : Nat) (z : Lanes) : Tab.get z (Tab.set z t a z) r = if r = a then z else Tab.get z t r := Tab.get_set z t a r z

theorem v_freeV (p : Pack) (a r : Nat) : (p.freeV a).v r = if r = a then 0 else p.v r := by
  unfold Pack.v Pack.freeV
  generalize (0 : Lanes) = z
  exact zero_get p.vregs a r z

theorem isLive_freeV (p : Pack) (a r : Nat) (hr : r < 64) : (p.freeV a).isLive r = (p.isLive r && r != a) := by
  have := dw_bit a r hr
  simp only [Pack.isLive, Pack.freeV, BitVec.getLsbD_and, BitVec.getLsbD_not, this, hr]
  by_cases h : r = a
  · subst h; simp
  · have h' : ¬ a = r := fun e => h e.symm
    simp [h, h']

theorem freeV_frame (p : Pack) (a : Nat) (vr : Tab Lanes) (lv : DWord) :
    { p.freeV a with vregs := vr, live := lv } = { p with vregs := vr, live := lv } := by
  unfold Pack.freeV
  generalize (0 : Lanes) = z
  rfl

theorem freeAll_spec (rs : List Nat) : ∀ p : Pack, ∃ vr lv, p.freeAll rs = { p with vregs := vr, live := lv } ∧
    (∀ r, Tab.get 0 vr r = if rs.contains r then 0 else p.v r) ∧
    (∀ r, r < 64 → lv.getLsbD r = (p.isLive r && !rs.contains r)) := by
  induction rs with
  | nil => intro p; exact ⟨p.vregs, p.live, rfl, by simp [Pack.v], by simp [Pack.isLive]⟩
  | cons a rs ih =>
    intro p
    obtain ⟨vr, lv, h1, h2, h3⟩ := ih (p.freeV a)
    refine ⟨vr, lv, ?_, ?_, ?_⟩
    · exact (show p.freeAll (a :: rs) = (p.freeV a).freeAll rs by simp only [Pack.freeAll, List.foldl_cons]).trans (h1.trans (freeV_frame p a vr lv))
    · intro r
      have e1 := h2 r
      have e2 := v_freeV p a r
      revert e1 e2
      generalize (p.freeV a).v r = y
      generalize Tab.get 0 vr r = w
      generalize p.v r = u
      generalize (0 : Lanes) = z
      intro e1 e2
      rw [e1, e2]
      by_cases hra : r = a <;> simp [hra]
    · intro r hr; rw [h3 r hr, isLive_freeV _ _ _ hr]
      by_cases hra : r = a
      · simp [hra]
      · have : (r != a) = true := by simp [hra]
        simp [hra, this]

theorem isLive_setV (p : Pack) (a r : Nat) (x : Lanes) (hr : r < 64) : (p.setV a x).isLive r = (p.isLive r || r == a) := by
  have := dw_bit a r hr
  simp only [Pack.isLive, Pack.setV, BitVec.getLsbD_or, this]
  by_cases h : r = a
  · subst h; simp
  · have h' : ¬ a = r := fun e => h e.symm
    simp [h, h']

theorem writeV_spec (p : Pack) (m : DWord) (d : Nat) (x : Lanes) :
    ∃ vr lv, p.writeV m d x = { p with vregs := vr, live := lv } ∧
      (∀ r l, l < 64 → lane (Tab.get 0 vr r) l = if r = d ∧ m.getLsbD l then lane x l else lane (p.v r) l) ∧
      (∀ r, r < 64 → lv.getLsbD r = (p.isLive r || (r == d && m != 0))) := by
  by_cases hm : m = 0
  · subst hm
    refine ⟨p.vregs, p.live, by rw [Pack.writeV, if_pos rfl], ?_, ?_⟩
    · intro r l _; simp [Pack.v]
    · intro r _; simp [Pack.isLive]
  · refine ⟨_, _, by rw [Pack.writeV, if_neg hm]; rfl, ?_, ?_⟩
    · intro r l hl
      have := v_setV p d r (mergeLanes m x (p.v d))
      simp only [Pack.v, Pack.setV] at this ⊢
      rw [this]
      by_cases h : r = d
      · subst h; simp only [if_true, true_and]; exact lane_mergeLanes _ _ _ _ hl
      · simp [h]
    · intro r hr
      have := isLive_setV p d r (mergeLanes m x (p.v d)) hr
      simp only [Pack.isLive, Pack.setV] at this ⊢
      rw [this]; have : (m != 0) = true := bne_iff_ne.mpr hm
      rw [this]; simp

/-- What reading and freeing its sources does to a pack (R51-R53). -/
theorem consume_spec (p : Pack) (i : Instr) :
    ∃ sc sf ss vr lv, p.consume i = { p with staleCount := sc, staleFirst := sf, staleSeen := ss, vregs := vr, live := lv } ∧
      (∀ r, Tab.get 0 vr r = if (freedBy p i).contains r then 0 else p.v r) ∧
      (∀ r, r < 64 → lv.getLsbD r = (p.isLive r && !(freedBy p i).contains r)) ∧
      (if (readBy p i).all p.isLive then sc = p.staleCount ∧ sf = p.staleFirst ∧ ss = p.staleSeen
       else ss = true ∧ sc.toNat = min 0xFFFF (p.staleCount.toNat + 1) ∧ (p.staleSeen = true → sf = p.staleFirst)) := by
  unfold Pack.consume
  cases hb : (readBy p i).all p.isLive with
  | true =>
    obtain ⟨vr, lv, h1, h2, h3⟩ := freeAll_spec (freedBy p i) p
    refine ⟨p.staleCount, p.staleFirst, p.staleSeen, vr, lv, ?_, h2, h3, by simp⟩
    have := noteReads_all p (readBy p i) hb
    simp only [readBy, freedBy] at this h1 ⊢
    rw [this, h1]
  | false =>
    obtain ⟨r, _, _, hr⟩ := noteReads_some p (readBy p i) hb
    obtain ⟨vr, lv, h1, h2, h3⟩ := freeAll_spec (freedBy p i) (p.noteReads (readBy p i))
    refine ⟨(p.noteReads (readBy p i)).staleCount, (p.noteReads (readBy p i)).staleFirst,
      (p.noteReads (readBy p i)).staleSeen, vr, lv, ?_, ?_, ?_, ?_⟩
    · simp only [readBy, freedBy] at h1 hr ⊢
      rw [h1, hr]
    · intro r; have := h2 r; rw [hr] at this; exact this
    · intro r hl; have := h3 r hl; rw [hr] at this; exact this
    · rw [hr]
      refine ⟨rfl, ?_, ?_⟩
      · show (if p.staleCount = 0xFFFF then 0xFFFF else p.staleCount + 1 : BitVec 16).toNat = _
        split
        · rename_i h; rw [h]; rfl
        · rename_i h
          have : p.staleCount.toNat ≠ 65535 := fun e => h (BitVec.eq_of_toNat_eq e)
          have := p.staleCount.isLt
          rw [BitVec.toNat_add, show BitVec.toNat (1 : BitVec 16) = 1 from rfl]
          omega
      · intro h; simp [h]

/-! ## Completing a word -/

/-- A word that issues and whose meaning completes it. -/
theorem issueWord_done {i : Instr} {s t : State} {body : State → State → Res} (h : Issues i s)
    (hb : body s { s with pk := s.pk.consume i } = .done t) : issueWord i s body = t.countWord.finish (endsRun i) := by
  simp only [issueWord, h.1, h.2, hb]; rfl

/-- A word that issues and sets the PC and status of its pack itself. -/
theorem issueWord_own {i : Instr} {s t : State} {body : State → State → Res} (h : Issues i s)
    (hb : body s { s with pk := s.pk.consume i } = .own t) : issueWord i s body = t.countWord := by
  simp only [issueWord, h.1, h.2, hb]; rfl

/-- A word that issues and transfers control. -/
theorem issueWord_jump {i : Instr} {s t : State} {pc : DWord} {body : State → State → Res} (h : Issues i s)
    (hb : body s { s with pk := s.pk.consume i } = .jump t pc) : issueWord i s body = t.countWord.goto true pc := by
  simp only [issueWord, h.1, h.2, hb]; rfl

/-- A word that raises a precise fault. -/
theorem issueWord_trap {i : Instr} {s : State} {f : FaultRec} {body : State → State → Res} (h : Issues i s)
    (hb : body s { s with pk := s.pk.consume i } = .trap f) : issueWord i s body = s.raise f := by
  simp only [issueWord, h.1, h.2, hb]; rfl

/-- A word that does not issue, and leaves the machine at t. -/
theorem issueWord_held {i : Instr} {s t : State} {body : State → State → Res} (h : Issues i s)
    (hb : body s { s with pk := s.pk.consume i } = .held t) : issueWord i s body = t := by
  simp only [issueWord, h.1, h.2, hb]; rfl

/-- A word that stalls in place. -/
theorem issueWord_stall {i : Instr} {s : State} {body : State → State → Res} (h : Issues i s)
    (hb : body s { s with pk := s.pk.consume i } = .stall) : issueWord i s body = s.stall := by
  simp only [issueWord, h.1, h.2, hb]; rfl

/-- What completing a word does to the pack of a state. -/
theorem advanced_finish (e : Bool) (n : Nat) (p : Pack) (t : State) (ht : t.gtc = n) (h1 : t.pk.pc = p.pc)
    (h2 : t.pk.runpos = p.runpos) (h3 : t.pk.status = p.status) (h4 : t.pk.since = p.since) :
    Advanced e n p (t.countWord.finish e).pk := by
  cases e <;> simp [Advanced, State.finish, State.goto, Pack.endRun, Pack.next, State.countWord, State.bumpCore, State.onCore,
    h1, h2, h3, h4, ht]

/-- A word whose effect is on its pack alone. -/
theorem packWord_packOnly {i : Instr} {s : State} {f : Pack → Pack → Pack} {Q : Pack → Pack → Prop} (h : Issues i s)
    (he : exec i s = .next (packWord i s f))
    (hk : let q := f s.pk (s.pk.consume i)
      q.pc = s.pk.pc ∧ q.runpos = s.pk.runpos ∧ q.status = s.pk.status ∧ q.since = s.pk.since ∧ q.atPpt = s.pk.atPpt)
    (hQ : let q := f s.pk (s.pk.consume i)
      ∀ pc rp st si pp, Q s.pk { q with pc := pc, runpos := rp, status := st, since := si, declined := none, atPpt := pp }) :
    PackOnly i s Q := by
  obtain ⟨h1, h2, h3, h4, h5⟩ := hk
  refine ⟨_, by rw [he, packWord, issueWord_done h rfl], ?_, ?_, ?_, ?_⟩
  · exact advanced_finish _ _ _ _ rfl h1 h2 h3 h4
  · intro _
    cases endsRun i <;> simp [State.finish, State.goto, Pack.endRun, State.countWord, State.bumpCore, State.onCore, Pack.pptKept,
      h2, h5]
  · cases endsRun i <;> rfl
  · cases endsRun i
    · exact hQ _ _ _ _ _
    · exact hQ _ _ _ _ _

/-- A word that reads and frees no vector register leaves the pack as it was. -/
theorem consume_none (p : Pack) (i : Instr) (h1 : (uses p.ty i).vr = []) (h2 : (uses p.ty i).fr = []) : p.consume i = p := by
  simp [Pack.consume, h1, h2, Pack.noteReads, sortBy, Pack.freeAll]

/-- A scalar word (R102). -/
theorem writesScalar {i : Instr} {s : State} {d : BitVec 6} {f : Pack → DWord} {v : DWord} (h : Issues i s)
    (he : exec i s = scalarWord i d s f) (hc : s.pk.consume i = s.pk) (hv : f s.pk = v) : WritesScalar i d v s := by
  subst hv
  refine packWord_packOnly h he ?_ ?_
  · simp [Pack.setS, hc]
  · intro q pc rp st si pp
    subst q
    refine ⟨by simp [Pack.setS, hc, stepped], fun r => ?_⟩
    simp [Pack.s, Pack.setS, hc]

theorem lane_zero (l : Nat) : lane (0 : Lanes) l = 0 := by
  have h : ∀ n : Nat, BitVec.extractLsb' n 32 (BitVec.ofNat 2048 0) = BitVec.ofNat 32 0 := by
    intro n; apply BitVec.eq_of_toNat_eq
    simp only [BitVec.extractLsb'_toNat, BitVec.toNat_ofNat, Nat.zero_mod, Nat.zero_shiftRight]
  exact h _

/-- What writing lanes of a register, or of a pair, does to a pack. -/
theorem writeLanes_spec (p : Pack) (w : Bool) (m : DWord) (d : Nat) (f : Nat → Nat) :
    ∃ vr lv, p.writeLanes w m d f = { p with vregs := vr, live := lv } ∧
      (∀ r l, l < 64 → lane (Tab.get 0 vr r) l =
        if (destOf w d).contains r && m.getLsbD l then BitVec.ofNat 32 (f l / 2 ^ (32 * (r - d))) else lane (p.v r) l) ∧
      (∀ r, r < 64 → lv.getLsbD r = (p.isLive r || ((destOf w d).contains r && m != 0))) := by
  obtain ⟨vr, lv, e, hv, hl⟩ := writeV_spec p m d (ofLanes fun l => BitVec.ofNat 32 (f l))
  cases w with
  | false =>
    refine ⟨vr, lv, by simpa [Pack.writeLanes] using e, fun r l h => ?_, fun r h => ?_⟩
    · rw [hv r l h, lane_ofLanes _ _ h]
      by_cases hr : r = d
      · subst hr; simp [destOf]
      · simp [destOf, hr]
    · rw [hl r h]; by_cases hr : r = d <;> simp [destOf, hr]
  | true =>
    obtain ⟨vr', lv', e', hv', hl'⟩ :=
      writeV_spec { p with vregs := vr, live := lv } m (d + 1) (ofLanes fun l => BitVec.ofNat 32 (f l / 2 ^ 32))
    refine ⟨vr', lv', by simp only [Pack.writeLanes, e, if_true]; exact e', fun r l h => ?_, fun r h => ?_⟩
    · rw [hv' r l h, lane_ofLanes _ _ h]
      have hv := hv r l h
      rw [lane_ofLanes _ _ h] at hv
      change (if r = d + 1 ∧ m.getLsbD l = true then _ else lane (Tab.get 0 vr r) l) = _
      rw [hv]
      by_cases hr : r = d
      · subst hr; simp [destOf]
      · by_cases hr' : r = d + 1
        · subst hr'; simp [destOf]
        · simp [destOf, hr, hr']
    · have hl := hl r h
      rw [hl' r h]
      change (lv.getLsbD r || _) = _
      rw [hl]
      by_cases hr : r = d
      · subst hr; cases m != 0 <;> simp [destOf]
      · by_cases hr' : r = d + 1
        · subst hr'; cases m != 0 <;> simp [destOf]
        · simp [destOf, beq_false_of_ne hr, beq_false_of_ne hr', hr, hr']

/-- What a word must do to its pack, c with its sources consumed, to have the effect of VectorEffect: q is the result. -/
def VectorResult (ds : List Nat) (m : DWord) (f : Nat → Nat → Word) (fl : BitVec 8) (pr : Tab DWord) (sr : Tab DWord)
    (c q : Pack) : Prop :=
  ∃ vr lv, q = { c with vregs := vr, live := lv, fflags := c.fflags ||| fl, preds := pr, sregs := sr } ∧
    (∀ r l, l < 64 → lane (Tab.get 0 vr r) l = if ds.contains r && m.getLsbD l then f r l else lane (c.v r) l) ∧
    (∀ r, r < 64 → lv.getLsbD r = (c.isLive r || (ds.contains r && m != 0)))

theorem packWord_vector {i : Instr} {s : State} {ds : List Nat} {m : DWord} {f : Nat → Nat → Word} {fl : BitVec 8}
    {pr sr : Tab DWord} {g : Pack → Pack → Pack} (h : Issues i s) (he : exec i s = .next (packWord i s g))
    (hg : VectorResult ds m f fl pr sr (s.pk.consume i) (g s.pk (s.pk.consume i))) :
    PackOnly i s fun p q => VectorEffect i ds m f fl p q ∧ q.preds = pr ∧ q.sregs = sr := by
  obtain ⟨vr, lv, hq, hv, hl⟩ := hg
  obtain ⟨sc, sf, ss, cv, cl, hc, hcv, hcl, hst⟩ := consume_spec s.pk i
  have hcv' : ∀ r, (s.pk.consume i).v r = Tab.get 0 cv r := by intro r; rw [hc]; rfl
  have hcl' : ∀ r, (s.pk.consume i).isLive r = cl.getLsbD r := by intro r; rw [hc]; rfl
  refine packWord_packOnly h he ?_ ?_
  · rw [hq, hc]; exact ⟨rfl, rfl, rfl, rfl, rfl⟩
  · intro q pc rp st si pp
    subst q
    rw [hq, hc]
    refine ⟨⟨rfl, fun r l h => ?_, fun r h => ?_, hst, rfl⟩, rfl, rfl⟩
    · have e1 := hv r l h
      rw [hcv' r] at e1
      refine e1.trans ?_
      by_cases hd : (ds.contains r && m.getLsbD l) = true
      · simp only [hd, if_true]
      · simp only [hd]
        have e2 := hcv r
        by_cases hf : (freedBy s.pk i).contains r = true
        · simp only [hf, if_true] at e2 ⊢
          rw [e2]; exact lane_zero l
        · simp only [hf] at e2 ⊢
          rw [e2]; rfl
    · have e1 := hl r h
      rw [hcl' r, hcl r h] at e1
      exact e1.trans (Bool.or_comm _ _)

theorem packOnly_mono {i : Instr} {s : State} {P Q : Pack → Pack → Prop} (h : PackOnly i s P) (hpq : ∀ q, P s.pk q → Q s.pk q) :
    PackOnly i s Q := by
  obtain ⟨t, h1, h2, h3, h4, h5⟩ := h
  exact ⟨t, h1, h2, h3, h4, hpq _ h5⟩

/-- A consumed pack keeps its predicates and scalar registers. -/
theorem consume_preds (p : Pack) (i : Instr) : (p.consume i).preds = p.preds := by
  obtain ⟨sc, sf, ss, cv, cl, hc, _⟩ := consume_spec p i; rw [hc]
theorem consume_sregs (p : Pack) (i : Instr) : (p.consume i).sregs = p.sregs := by
  obtain ⟨sc, sf, ss, cv, cl, hc, _⟩ := consume_spec p i; rw [hc]

theorem writesVector_of {i : Instr} {s : State} {ds : List Nat} {m : DWord} {f : Nat → Nat → Word} {fl : Nat → BitVec 8}
    {g : Pack → Pack → Pack} (h : Issues i s) (he : exec i s = .next (packWord i s g))
    (hg : VectorResult ds m f (flagsOver m fl) (s.pk.consume i).preds (s.pk.consume i).sregs (s.pk.consume i)
      (g s.pk (s.pk.consume i))) : WritesVector i ds m f fl s :=
  packOnly_mono (packWord_vector h he hg) fun _ hq => ⟨hq.1, hq.2.1.trans (consume_preds _ _), hq.2.2.trans (consume_sregs _ _)⟩

theorem mergeMask_bit (m a b : DWord) (l : Nat) (h : l < 64) :
    (mergeMask m a b).getLsbD l = if m.getLsbD l then a.getLsbD l else b.getLsbD l := by
  simp only [mergeMask, BitVec.getLsbD_or, BitVec.getLsbD_and, BitVec.getLsbD_not, h, decide_true, Bool.true_and]
  cases m.getLsbD l <;> simp

theorem maskBits_bit (f : Nat → Bool) (n : Nat) : ∀ k l, l < n → (maskBits f k n).testBit l = f (k + l) := by
  induction n with
  | zero => intro k l h; omega
  | succ n ih =>
    intro k l h
    cases l with
    | zero => cases hf : f k <;> simp [maskBits, hf]
    | succ l =>
      rw [maskBits, Nat.testBit_succ, show ((if f k then 1 else 0) + 2 * maskBits f (k + 1) n) / 2 = maskBits f (k + 1) n by
        split <;> omega, ih (k + 1) l (by omega)]
      congr 1; omega

/-- Bit l of a mask made of f is f l. -/
theorem ofMask_bit (f : Nat → Bool) (l : Nat) (h : l < 64) : (ofMask f).getLsbD l = f l := by
  rw [ofMask, BitVec.getLsbD_ofNat, maskBits_bit f 64 0 l h]; simp [h]

/-- A word that writes the active lanes of a predicate and raises flags. -/
theorem writesPred_of {i : Instr} {s : State} {d : BitVec 5} {c : Nat → Bool} {fl : Nat → BitVec 8} {g : Pack → Pack → Pack}
    (h : Issues i s) (he : exec i s = .next (packWord i s g))
    (hg : g s.pk (s.pk.consume i) = ((s.pk.consume i).setP d.toNat (mergeMask s.pk.active (ofMask c) (s.pk.p d.toNat))).raiseFlags
      (flagsOver s.pk.active fl)) : WritesPred i d c fl s := by
  refine packOnly_mono (packWord_vector (ds := []) (m := 0) (f := fun _ _ => 0) (fl := flagsOver s.pk.active fl)
    (pr := Tab.set 0 s.pk.preds d.toNat (mergeMask s.pk.active (ofMask c) (s.pk.p d.toNat))) (sr := s.pk.sregs) h he
    ⟨(s.pk.consume i).vregs, (s.pk.consume i).live, ?_, by intro r l _; simp [Pack.v], by intro r _; simp [Pack.isLive]⟩) ?_
  · rw [hg, ← consume_preds s.pk i, ← consume_sregs s.pk i]; rfl
  · intro q hq
    refine ⟨hq.1, hq.2.2, fun r l hl => ?_⟩
    simp only [Pack.p, hq.2.1, Tab.get_set]
    by_cases hr : r = d.toNat
    · subst hr; simp [mergeMask_bit _ _ _ _ hl, ofMask_bit _ _ hl]
    · simp [hr]

/-- A word that writes one scalar register of what it reads. -/
theorem readsLanes_of {i : Instr} {s : State} {d : BitVec 6} {f : Pack → DWord} (h : Issues i s) (he : exec i s = scalarWord i d s f) :
    ReadsLanes i d (f s.pk) s := by
  refine packOnly_mono (packWord_vector (ds := []) (m := 0) (f := fun _ _ => 0) (fl := 0) (pr := s.pk.preds)
    (sr := Tab.set 0 s.pk.sregs d.toNat (f s.pk)) h he
    ⟨(s.pk.consume i).vregs, (s.pk.consume i).live, ?_, by intro r l _; simp [Pack.v], by intro r _; simp [Pack.isLive]⟩) ?_
  · have e : (s.pk.consume i).fflags ||| (0 : BitVec 8) = (s.pk.consume i).fflags := BitVec.or_zero
    rw [e, ← consume_preds s.pk i, Pack.setS, consume_sregs]
  · intro q hq
    refine ⟨hq.1, hq.2.1, fun r => ?_⟩
    simp only [Pack.s, hq.2.2, Tab.get_set]

/-- A vector word (R121, R43, R120). -/
theorem writesWide {i : Instr} {s : State} {wide : Pack → Bool} {d : Nat} {f : Pack → Nat → Flagged} (h : Issues i s)
    (he : exec i s = vecWord i wide d s f) : WritesWide i (wide s.pk) d s.pk.active (f s.pk) s := by
  refine writesVector_of h he ?_
  obtain ⟨vr, lv, e, hv, hl⟩ := writeLanes_spec (s.pk.consume i) (wide s.pk) s.pk.active d fun l => (f s.pk l).1
  exact ⟨vr, lv, by rw [e]; rfl, hv, hl⟩

end Sys2Proof.Machine
end

