-- ==== Sys2Proof/Laws/Words.lean ====
section
/-! SUPPORT. Words by their operand form: what completes them, from their meaning; and the counting helpers in terms of the bits
they count. -/

namespace Sys2Proof.Machine

open Sys2Proof.Safety

/-! ## Forms -/

/-- A scalar word of two sources. -/
theorem scalar2_of {i : Bool → BitVec 6 → BitVec 6 → BitVec 6 → Instr} {f g : DWord → DWord → DWord}
    (he : ∀ e d a b s, exec (i e d a b) s = scalarWord (i e d a b) d s fun p => g (p.s a.toNat) (p.s b.toNat))
    (h1 : ∀ t e d a b, (uses t (i e d a b)).vr = []) (h2 : ∀ t e d a b, (uses t (i e d a b)).fr = [])
    (hg : ∀ x y, g x y = f x y) : Scalar2 i f := by
  intro e d a b s h
  exact writesScalar h (he ..) (consume_none _ _ (h1 ..) (h2 ..)) (hg _ _)

/-- A scalar word of one source. -/
theorem scalar1_of {i : Bool → BitVec 6 → BitVec 6 → Instr} {f g : DWord → DWord}
    (he : ∀ e d a s, exec (i e d a) s = scalarWord (i e d a) d s fun p => g (p.s a.toNat))
    (h1 : ∀ t e d a, (uses t (i e d a)).vr = []) (h2 : ∀ t e d a, (uses t (i e d a)).fr = [])
    (hg : ∀ x, g x = f x) : Scalar1 i f := by
  intro e d a s h
  exact writesScalar h (he ..) (consume_none _ _ (h1 ..) (h2 ..)) (hg _)

/-- A scalar word with an immediate. -/
theorem scalarImm_of {n : Nat} {i : Bool → BitVec 6 → BitVec 6 → BitVec n → Instr} {f g : DWord → BitVec n → DWord}
    (he : ∀ e d a c s, exec (i e d a c) s = scalarWord (i e d a c) d s fun p => g (p.s a.toNat) c)
    (h1 : ∀ t e d a c, (uses t (i e d a c)).vr = []) (h2 : ∀ t e d a c, (uses t (i e d a c)).fr = [])
    (hg : ∀ x c, g x c = f x c) : ScalarImm i f := by
  intro e d a c s h
  exact writesScalar h (he ..) (consume_none _ _ (h1 ..) (h2 ..)) (hg _ _)

/-- Joined elements depend only on the elements joined. -/
theorem joinElems_congr (f g : Nat → Flagged) (w n : Nat) :
    ∀ i, (∀ j, i ≤ j → j < i + n → f j = g j) → joinElems f w i n = joinElems g w i n := by
  induction n with
  | zero => intro i _; rfl
  | succ n ih =>
    intro i h
    simp only [joinElems, h i (le_refl _) (by omega), ih (i + 1) (fun j h1 h2 => h j (by omega) (by omega))]

/-- An integer word of two sources. -/
theorem vector2_of {i : Bool → BitVec 6 → BitVec 6 → BitVec 6 → Bool → Bool → Instr}
    {f g : Elem → Bool → Nat → Nat → Nat → Flagged}
    (he : ∀ e d a b x y s, exec (i e d a b x y) s = elemWord (i e d a b x y) d a (regElem b) s g)
    (hg : ∀ ty sat x y z, x < 2 ^ (elemTy ty).w → y < 2 ^ (elemTy ty).w → g (elemTy ty) sat x y z = f (elemTy ty) sat x y z) :
    Vector2 i f := by
  intro e d a b x y s h
  have := writesWide (d := d.toNat) (wide := fun p => pairTy p.ty) h (he e d a b x y s)
  refine Eq.mp ?_ this
  unfold WritesElems
  congr 1
  funext l
  apply joinElems_congr
  intro j _ _
  exact hg _ _ _ _ _ (Nat.mod_lt _ (Nat.two_pow_pos _)) (Nat.mod_lt _ (Nat.two_pow_pos _))

/-- An integer word of one source. -/
theorem vector1_of {i : Bool → BitVec 6 → BitVec 6 → Bool → Instr} {f : Elem → Bool → Nat → Flagged}
    {g : Elem → Bool → Nat → Nat → Nat → Flagged}
    (he : ∀ e d a x s, exec (i e d a x) s = elemWord (i e d a x) d a noElem s g)
    (hg : ∀ ty sat x z, x < 2 ^ (elemTy ty).w → g (elemTy ty) sat x 0 z = f (elemTy ty) sat x) : Vector1 i f := by
  intro e d a x s h
  have := writesWide (d := d.toNat) (wide := fun p => pairTy p.ty) h (he e d a x s)
  refine Eq.mp ?_ this
  unfold WritesElems
  congr 1
  funext l
  apply joinElems_congr
  intro j _ _
  exact hg _ _ _ _ (Nat.mod_lt _ (Nat.two_pow_pos _))

/-! ## Counting bits -/

/-- Leading zeros, as the place of the highest 1 bit. -/
theorem leadingZeros_eq (n w : Nat) : leadingZeros w n = ((List.range w).find? fun k => n.testBit (w - 1 - k)).getD w := by
  induction w with
  | zero => rfl
  | succ w ih =>
    rw [List.range_succ_eq_map, List.find?_cons, List.find?_map]
    simp only [leadingZeros, Nat.add_sub_cancel, Nat.sub_zero]
    cases h : n.testBit w
    · have e : ∀ k, w - 1 - k = w - (k + 1) := by intro k; omega
      simp only [ih, Function.comp_def, e, Nat.succ_eq_add_one, Bool.false_eq_true, if_false]
      cases List.find? (fun k => n.testBit (w - (k + 1))) (List.range w) <;> simp
    · simp

/-- The 1 bits of a number. -/
theorem popcount_eq (n w : Nat) : popcount w n = ((List.range w).filter fun k => n.testBit k).length := by
  induction w with
  | zero => rfl
  | succ w ih => rw [List.range_succ, List.filter_append, popcount, ih]; cases h : n.testBit w <;> simp [h]

/-- The lowest 1 bit of a number. -/
theorem lowestSet_eq (n w : Nat) : lowestSet w n = ((List.range w).find? fun k => n.testBit k).getD w := by
  have : ∀ w k, lowestSetFrom n k w = ((List.range w).find? fun j => n.testBit (k + j)).elim (k + w) (k + ·) := by
    intro w; induction w with
    | zero => intro k; rfl
    | succ w ih =>
      intro k
      rw [List.range_succ_eq_map, List.find?_cons, List.find?_map, lowestSetFrom, ih]
      simp only [Nat.add_zero]
      cases h : n.testBit k
      · have e : ∀ j, k + 1 + j = k + (j + 1) := by intro j; omega
        simp only [Function.comp_def, Nat.succ_eq_add_one, e, Bool.false_eq_true, if_false]
        cases List.find? (fun j => n.testBit (k + (j + 1))) (List.range w) <;> simp
      · simp
  rw [lowestSet, this]; simp only [Nat.zero_add]
  cases List.find? (fun j => n.testBit j) (List.range w) <;> simp

end Sys2Proof.Machine
end

