-- ==== Sys2Proof/Laws/Effects.lean ====
section
/-! SUPPORT. More words by their operand form, the shared operation that starts a memory word, and the arithmetic that the
element functions use. -/

namespace Sys2Proof.Machine

open Sys2Proof.Safety

/-! ## Forms -/

/-- An integer word with an immediate. -/
theorem vectorImm_of {n : Nat} {i : Bool → BitVec 6 → BitVec 6 → BitVec n → Instr} {f : Elem → Bool → Nat → BitVec n → Flagged} {g : Elem → Bool → Nat → Nat → Nat → Flagged} {y : BitVec n → Pack → Elem → Nat → Nat → Nat} {yy : BitVec n → Elem → Nat}
    (he : ∀ e d a c s, exec (i e d a c) s = elemWord (i e d a c) d a (y c) s g) (hy : ∀ c p t l j, y c p t l j = yy c t)
    (hg : ∀ ty sat x c z, x < 2^(elemTy ty).w → g (elemTy ty) sat x (yy c (elemTy ty)) z = f (elemTy ty) sat x c) : VectorImm i f := by
  intro e d a c s h
  have := writesWide (d := d.toNat) (wide := fun p => pairTy p.ty) h (he e d a c s)
  refine Eq.mp ?_ this
  unfold WritesElems
  congr 1
  funext l
  apply joinElems_congr
  intro j _ _
  simp only [hy]
  exact hg _ _ _ _ _ (Nat.mod_lt _ (Nat.two_pow_pos _))

/-- A floating-point word of two sources. -/
theorem float2_of {i : Bool → BitVec 6 → BitVec 6 → BitVec 6 → Bool → Bool → Instr} {g : Fmt → Nat → Bool → Nat → Nat → Flagged}
    (he : ∀ e d a b x y s, exec (i e d a b x y) s = fpWord2 (i e d a b x y) d a b s g) : Float2 i g :=
  fun e d a b x y s h => writesWide (wide := fun _ => false) h (he e d a b x y s)

/-- A floating-point word of one source. -/
theorem float1_of {i : Bool → BitVec 6 → BitVec 6 → Bool → Instr} {f g : Fmt → Nat → Bool → Nat → Flagged}
    (he : ∀ e d a x s, exec (i e d a x) s = fpWord1 (i e d a x) d a s g)
    (hg : ∀ ty rm fl c, c < 2 ^ ((fpFmt ty).magBits + 1) → g (fpFmt ty) rm fl c = f (fpFmt ty) rm fl c) : Float1 i f := by
  intro e d a x s h
  have := writesWide (wide := fun _ => false) h (he e d a x s)
  refine Eq.mp ?_ this
  unfold WritesFloats
  congr 1
  funext l
  apply joinElems_congr
  intro j _ _
  exact hg _ _ _ _ (Nat.mod_lt _ (Nat.two_pow_pos _))

/-- A control transfer that writes no register. -/
theorem transfers_of {i : Instr} {s : State} {pc : DWord} {f : State → State → DWord} (h : Issues i s) (hc : s.pk.consume i = s.pk)
    (he : exec i s = .next (issueWord i s fun s t => .jump t (f s t))) (hf : f s s = pc) : Transfers i s pc s.pk.sregs := by
  rw [Transfers, he, issueWord_jump h rfl, hc]
  subst hf; congr

/-! ## Starting a memory word (R219, R220) -/

/-- Dropping lines of the L1 one by one drops every copy of each. -/
theorem l1Drop_foldl (c x : Nat) : ∀ (ls : List Nat) (t : State), ls.foldl (fun t l => t.l1Drop c x l) t =
    { t with l1 := t.l1.filter fun k => !(k.core == c && k.ctx == x && k.owner == none && ls.contains k.line) } := by
  intro ls; induction ls with
  | nil => intro t; simp
  | cons a ls ih =>
    intro t
    rw [List.foldl_cons, ih]
    simp only [State.l1Drop, List.filter_filter]
    have : ∀ k : L1Line, (!(k.core == c && k.ctx == x && k.owner == none && ls.contains k.line) &&
        !(k.core == c && k.ctx == x && k.line == a && k.owner == none)) =
        !(k.core == c && k.ctx == x && k.owner == none && (a :: ls).contains k.line) := by
      intro k; rw [List.contains_cons]
      cases k.core == c <;> cases k.ctx == x <;> cases k.owner == none <;> cases (k.line == a) <;> cases ls.contains k.line <;> rfl
    simp only [this]

/-- Leaving out repeats keeps the members. -/
theorem nubNat_contains (l : List Nat) (a : Nat) : (nubNat l).contains a = l.contains a := by
  unfold nubNat
  have : ∀ (l acc : List Nat),
      (l.foldl (fun acc a => if acc.contains a then acc else acc ++ [a]) acc).contains a = (acc.contains a || l.contains a) := by
    intro l; induction l with
    | nil => simp
    | cons b l ih =>
      intro acc
      rw [List.foldl_cons, ih, List.contains_cons]
      by_cases hb : a = b
      · subst hb; by_cases h : acc.contains a = true
        · rw [if_pos h, h]; simp
        · rw [if_neg h]; simp
      · have hb' : (a == b) = false := beq_false_of_ne hb
        rw [hb']
        split
        · rfl
        · simp [hb]
  simpa using this l []

/-- A deferred fault changes the pending record alone. -/
theorem defer_pend (p : Pack) (fpc : DWord) (c r l : Nat) (a x : DWord) (d : Nat) (ls : List (Nat × DWord)) (q : Pack)
    (h : p.pend = q.pend) : p.defer fpc c r l a x d ls = { p with pend := (q.defer fpc c r l a x d ls).pend } := by
  unfold Pack.defer; simp only [h]; split <;> rfl

/-- So do the deferred faults of several lanes. -/
theorem deferLanes_pend (p q : Pack) (h : p.pend = q.pend) (fpc : DWord) (fs : List (Nat × Nat × Nat × Nat)) :
    p.deferLanes fpc fs = { p with pend := (q.deferLanes fpc fs).pend } := by
  unfold Pack.deferLanes
  simp only
  generalize List.foldl _ [] _ = ks
  generalize sortBy _ fs = so
  revert p q
  induction ks with
  | nil => intro p q h; simp [← h]
  | cons k ks ih =>
    intro p q h
    simp only [List.foldl_cons]
    cases hk : List.filter (fun f => f.2.1 == k.1 && f.2.2.1 == k.2) so with
    | nil => exact ih p q h
    | cons f fs' =>
      simp only
      rw [ih _ (q.defer fpc k.1 k.2 f.1 (dw f.2.2.2) _ 0 _) (by rw [defer_pend p _ _ _ _ _ _ _ _ q h])]
      rw [defer_pend p _ _ _ _ _ _ _ _ q h]

/-- What starting a memory operation does. -/
theorem startMem_eq (t u : State) (i : Instr) (ctr : Counter) (ok : List (Nat × Nat)) (bad : List (Nat × Nat × Nat × Nat))
    (vals : List (Nat × Nat)) (vdst sdst : List Nat) (acq : Bool) (h : t.pk.pend = u.pk.pend) :
    t.startMem u i ctr ok bad vals vdst sdst acq =
      let o : Op := { id := t.serial, ctr := ctr, word := i, fpc := u.pk.pc, mask := u.pk.active, ty := u.pk.ty, addrs := ok, vals := vals,
                      vdst := vdst, sdst := sdst }
      { t with
        pk := { t.pk with
          pend := pendAfter i u.pk bad, ops := t.pk.ops ++ [o]
          acquire := if acq && !ok.isEmpty then some t.serial else t.pk.acquire }
        l1 := if memKind i == .load || isPrivateWord i then t.l1
          else (t.l1.filter fun k =>
            !(k.core == u.tm.core && k.ctx == u.tm.ctx && k.owner == none && ok.any fun q => q.2 / 128 == k.line))
        serial := t.serial + 1, agenda := t.agenda ++ opEvents u.tm u.pk o } := by
  have hc : ∀ k : L1Line, (ok.map fun q => q.2 / 128).contains k.line = ok.any fun q => q.2 / 128 == k.line := by
    intro k; induction ok with
    | nil => rfl
    | cons a l ih => rw [List.map_cons, List.contains_cons, ih, List.any_cons, BEq.comm]
  have hi : (memKind i != .load && !isPrivateWord i) = !(memKind i == .load || isPrivateWord i) := by
    cases memKind i <;> cases isPrivateWord i <;> rfl
  have hx : ∀ (p : Pack), (if !(memKind i == .load || isPrivateWord i) then
      (nubNat (ok.map fun q => q.2 / 128)).foldl (fun t l => t.l1Drop u.tm.core u.tm.ctx l) ({ t with pk := p } : State)
      else ({ t with pk := p } : State)) = { t with
        pk := p
        l1 := if memKind i == .load || isPrivateWord i then t.l1
          else (t.l1.filter fun k =>
            !(k.core == u.tm.core && k.ctx == u.tm.ctx && k.owner == none && ok.any fun q => q.2 / 128 == k.line)) } := by
    intro p
    rw [l1Drop_foldl]
    simp only [nubNat_contains, hc]
    cases (memKind i == .load || isPrivateWord i) <;> rfl
  unfold State.startMem
  simp only [hi]
  cases bad with
  | nil =>
    rw [hx]
    simp only [State.startOp, pendAfter, ← h]
  | cons b bs =>
    have hp : (if isOneLane i then t.pk.deferAll u.pk.pc b.2.1 b.2.2.1 (dw b.2.2.2) allOnes 0 else t.pk.deferLanes u.pk.pc (b :: bs)) =
        { t.pk with pend := pendAfter i u.pk (b :: bs) } := by
      unfold pendAfter
      simp only
      split
      · exact defer_pend _ _ _ _ _ _ _ _ _ _ h
      · exact deferLanes_pend _ _ h _ _
    simp only [hp]
    rw [hx]
    simp only [State.startOp]

/-- A memory word, from its meaning. -/
theorem startsMem_of {i : Instr} {s : State} {c : Counter} {lanes : List Nat} {addr : Nat → Int} {fault : Nat → Option (Nat × Nat)}
    {val : Nat → Nat} {vdst sdst : List Nat} {acq : Bool} {body : State → State → Res} (h : Issues i s)
    (he : exec i s = .next (issueWord i s body))
    (hb : let t : State := { s with pk := s.pk.consume i }
      let r := checkedLanes lanes addr fault
      body s t = .done (t.startMem s i c r.1 r.2 (r.1.map fun q => (q.1, val q.1)) vdst sdst acq)) :
    StartsMem i s c lanes addr fault val vdst sdst acq := by
  have e1 : (checkedLanes lanes addr fault).1 = (lanes.filter fun l => fault l == none).map fun l => (l, (addr l).toNat) := by
    clear hb he
    unfold checkedLanes
    induction lanes with
    | nil => rfl
    | cons a l ih => cases h : fault a <;> simp_all
  obtain ⟨sc, sf, ss, cv, cl, hc, _⟩ := consume_spec s.pk i
  have ht := startMem_eq ({ s with pk := s.pk.consume i } : State) s i c (checkedLanes lanes addr fault).1
    (checkedLanes lanes addr fault).2 ((checkedLanes lanes addr fault).1.map fun q => (q.1, val q.1)) vdst sdst acq (by rw [hc])
  simp only at hb
  rw [ht] at hb
  have hx := issueWord_done h hb
  simp only [e1, List.map_map] at hx
  refine ⟨_, by rw [he, hx], ?_, ?_, ?_, ?_, ?_⟩
  · exact advanced_finish _ _ _ _ rfl (by simp only [hc]) (by simp only [hc]) (by simp only [hc]) (by simp only [hc])
  · intro _
    cases endsRun i <;>
      simp only [State.finish, State.goto, Pack.endRun, State.countWord, State.bumpCore, State.onCore, Pack.pptKept, hc] <;> rfl
  · cases endsRun i <;> rfl
  · simp only [hc]; cases endsRun i <;> rfl
  · cases endsRun i <;> rfl

/-! ## Packs and operations -/

/-- The first element that meets a test, after it is changed. -/
theorem find_replaceFirst {α} (q : α → Bool) (f : α → α) (hf : ∀ a, q a = true → q (f a) = true) : ∀ (l : List α) (a : α), l.find? q = some a → (replaceFirst q f l).find? q = some (f a) := by
  intro l; induction l with
  | nil => intro a h; simp at h
  | cons b l ih =>
    intro a h
    simp only [replaceFirst]
    by_cases hb : q b
    · simp [List.find?, hb] at h; subst h; simp [hb, hf]
    · simp [List.find?, hb] at h; simp [hb, ih a h]

/-- A change of the first element that meets a test depends on that element alone. -/
theorem replaceFirst_congr {α} (q : α → Bool) (f : α → α) (l : List α) (a : α) (h : l.find? q = some a) (g : α → α) (e : g a = f a) :
   replaceFirst q f l = replaceFirst q g l := by
  induction l with
  | nil => simp at h
  | cons b l ih =>
    simp only [replaceFirst]
    by_cases hb : q b
    · simp [List.find?, hb] at h; subst h; simp [hb, e]
    · simp [List.find?, hb] at h; simp [hb, ih h]

/-- The pack that was changed is the changed pack. -/
theorem pack_onPack (s : State) (p : PackId) (k : Pack) (f : Pack → Pack) (h : s.pack? p = some k) (hf : ∀ k, (f k).id = k.id) :
    (s.onPack p f).pack? p = some (f k) := by
  unfold State.pack? at *; unfold State.onPack
  split at h
  · rename_i e; injection h with h; subst h; simp [e, hf]
  · rename_i e; simp [e]; exact find_replaceFirst _ f (fun a ha => by simp at *; rw [hf]; exact ha) _ _ h

/-- A change of a pack depends on that pack alone. -/
theorem onPack_congr {s : State} {p : PackId} {k : Pack} (h : s.pack? p = some k) (f g : Pack → Pack) (e : f k = g k) :
   s.onPack p f = s.onPack p g := by
  unfold State.pack? at h; unfold State.onPack
  split at h
  · injection h with h; subst h; simp [*]
  · simp [*, replaceFirst_congr _ _ _ _ h g e.symm]

/-- What ending an operation does. -/
theorem endOp_eq {s u : State} {p : PackId} {n : Nat} {k : Pack} {o : Op} (h : HasOp s p n k o) (hu : u.pack? p = some k) (f : Op → Pack → Pack) :
   u.endOp p n f = u.onPack p fun _ =>
     let q : Pack := { f o k with ops := k.ops.filter fun q => q.id != n }
     if k.maySave (u.teamOf k) u.gtc then q else q.wakeHold u.gtc := by
  unfold State.endOp
  apply onPack_congr hu
  simp [h.2]

/-- Every instruction word issues through one shared operation. -/
theorem exec_isIssue (i : Instr) (hi : isWord i = true) (s : State) : ∃ body, exec i s = .next (issueWord i s body) := by
  cases i
  all_goals first
    | (exact absurd hi Bool.false_ne_true)
    | (with_reducible_and_instances exact ⟨_, rfl⟩)

/-! ## Arithmetic of elements -/

/-- An element has at least eight bits. -/
theorem elemTy_width (ty) : 8 ≤ (elemTy ty).w := by unfold elemTy; split <;> decide

/-- A left shift of an element, past its width too. -/
theorem shl_elem (ty x y : Nat) : (if y < (elemTy ty).w then x * 2 ^ y % 2 ^ (elemTy ty).w else 0) = x * 2 ^ y % 2 ^ (elemTy ty).w := by
  split
  · rfl
  · rename_i h
    have : 2 ^ (elemTy ty).w ∣ x * 2 ^ y := Dvd.dvd.mul_left (Nat.pow_dvd_pow 2 (by omega)) _
    exact (Nat.mod_eq_zero_of_dvd this).symm

/-- A logical right shift, past the width too. -/
theorem shr_elem (ty x y : Nat) (h : x < 2 ^ (elemTy ty).w) : (if y < (elemTy ty).w then x / 2 ^ y else 0) = x / 2 ^ y := by
  split
  · rfl
  · exact (Nat.div_eq_of_lt (lt_of_lt_of_le h (Nat.pow_le_pow_right (by norm_num) (by omega)))).symm

/-- The range of a signed element. -/
theorem signed_range (x w : Nat) (hw : 0 < w) : -(2 ^ (w - 1) : ℤ) ≤ signed x w ∧ signed x w < 2 ^ (w - 1) := by
  obtain ⟨v, rfl⟩ : ∃ v, w = v + 1 := ⟨w - 1, by omega⟩
  have e : (2 : ℕ) ^ (v + 1) = 2 * 2 ^ v := by ring
  have h : x % 2 ^ (v + 1) < 2 * 2 ^ v := by rw [← e]; exact Nat.mod_lt _ (Nat.two_pow_pos _)
  have z : (2 : ℤ) ^ v = ((2 ^ v : ℕ) : ℤ) := by push_cast; rfl
  simp only [signed, Nat.add_sub_cancel, z]
  generalize x % 2 ^ (v + 1) = r at *
  rw [e]
  generalize (2 : ℕ) ^ v = q at *
  split <;> push_cast <;> omega

/-- An arithmetic right shift, past the width too. -/
theorem sar_elem (ty x y : Nat) : wrapNat (signed x (elemTy ty).w / (2 ^ min y ((elemTy ty).w - 1) : Nat)) (elemTy ty).w = wrapNat (signed x (elemTy ty).w / (2 ^ y : Nat)) (elemTy ty).w := by
  have hw := elemTy_width ty
  obtain ⟨h1, h2⟩ := signed_range x (elemTy ty).w (by omega)
  congr 1
  by_cases h : y ≤ (elemTy ty).w - 1
  · rw [Nat.min_eq_left h]
  · rw [Nat.min_eq_right (by omega)]
    generalize signed x (elemTy ty).w = z at *
    have hp : ((2:ℕ)^((elemTy ty).w - 1) : ℤ) ≤ ((2:ℕ) ^ y : ℤ) := by exact_mod_cast Nat.pow_le_pow_right (by norm_num) (by omega)
    push_cast at *
    generalize (2:ℤ)^((elemTy ty).w - 1) = A at *
    generalize (2:ℤ)^y = B at *
    by_cases hz : 0 ≤ z
    · rw [Int.ediv_eq_zero_of_lt hz h2, Int.ediv_eq_zero_of_lt hz (by omega)]
    · have a1 : z / A = -1 := by
        apply le_antisymm
        · have := Int.ediv_neg_of_neg_of_pos (show z < 0 by omega) (show (0:ℤ) < A by omega); omega
        · rw [Int.le_ediv_iff_mul_le (by omega)]; omega
      have a2 : z / B = -1 := by
        apply le_antisymm
        · have := Int.ediv_neg_of_neg_of_pos (show z < 0 by omega) (show (0:ℤ) < B by omega); omega
        · rw [Int.le_ediv_iff_mul_le (by omega)]; omega
      rw [a1, a2]

/-- Inverting every bit. -/
theorem xor_ones (w x : Nat) (h : x < 2 ^ w) : x ^^^ (2 ^ w - 1) = 2 ^ w - 1 - x := by
  apply Nat.eq_of_testBit_eq; intro i
  rw [Nat.testBit_xor, Nat.testBit_two_pow_sub_one]
  have e : 2 ^ w - 1 - x = 2^w - (x + 1) := by omega
  rw [e, Nat.testBit_two_pow_sub_succ h]
  by_cases hi : i < w
  · simp [hi]
  · have : x.testBit i = false := Nat.testBit_lt_two_pow (lt_of_lt_of_le h (Nat.pow_le_pow_right (by norm_num) (by omega)))
    simp [hi, this]

/-- Bit k of a reversed element. -/
theorem reverseBits_bit (w : Nat) : ∀ x k, k < w → (reverseBits w x).testBit k = x.testBit (w - 1 - k) := by
  have hl : ∀ w x, reverseBits w x < 2 ^ w := by
    intro w; induction w with
    | zero => intro x; simp [reverseBits]
    | succ w ih => intro x; have := ih (x/2); simp only [reverseBits, pow_succ]; split <;> omega
  induction w with
  | zero => intro x k h; omega
  | succ w ih =>
    intro x k h
    have hb := hl w (x/2)
    simp only [reverseBits]
    by_cases hk : k = w
    · subst hk
      have : (reverseBits k (x/2)).testBit k = false := Nat.testBit_lt_two_pow hb
      cases hx : x.testBit 0
      · simp [this, hx]
      · simp only [if_true]; rw [Nat.testBit_two_pow_add_eq]; simp [this, hx]
    · have e := ih (x/2) k (by omega)
      rw [← Nat.testBit_succ] at e
      have e2 : w + 1 - 1 - k = w - 1 - k + 1 := by omega
      rw [e2]
      cases hx : x.testBit 0
      · simpa using e
      · simp only [if_true]
        rw [Nat.testBit_two_pow_add_gt (by omega)]; exact e

end Sys2Proof.Machine
end

