-- ==== Sys2Proof/Laws/State.lean ====
section
/-! SUPPORT. What each update of the state, and of a pack, leaves as it was: one lemma per field per update. -/

namespace Sys2Proof.Machine

/-! onPack -/
@[simp] theorem State.onPack_tm (s : State) (p : PackId) (f : Pack → Pack) : (s.onPack p f).tm = s.tm := by unfold State.onPack; split <;> rfl
@[simp] theorem State.onPack_teams (s : State) (p : PackId) (f : Pack → Pack) : (s.onPack p f).teams = s.teams := by unfold State.onPack; split <;> rfl
@[simp] theorem State.onPack_cores (s : State) (p : PackId) (f : Pack → Pack) : (s.onPack p f).cores = s.cores := by unfold State.onPack; split <;> rfl
@[simp] theorem State.onPack_ctxs (s : State) (p : PackId) (f : Pack → Pack) : (s.onPack p f).ctxs = s.ctxs := by unfold State.onPack; split <;> rfl
@[simp] theorem State.onPack_grids (s : State) (p : PackId) (f : Pack → Pack) : (s.onPack p f).grids = s.grids := by unfold State.onPack; split <;> rfl
@[simp] theorem State.onPack_queues (s : State) (p : PackId) (f : Pack → Pack) : (s.onPack p f).queues = s.queues := by unfold State.onPack; split <;> rfl
@[simp] theorem State.onPack_hbm (s : State) (p : PackId) (f : Pack → Pack) : (s.onPack p f).hbm = s.hbm := by unfold State.onPack; split <;> rfl
@[simp] theorem State.onPack_poison (s : State) (p : PackId) (f : Pack → Pack) : (s.onPack p f).poison = s.poison := by unfold State.onPack; split <;> rfl
@[simp] theorem State.onPack_l2 (s : State) (p : PackId) (f : Pack → Pack) : (s.onPack p f).l2 = s.l2 := by unfold State.onPack; split <;> rfl
@[simp] theorem State.onPack_l1 (s : State) (p : PackId) (f : Pack → Pack) : (s.onPack p f).l1 = s.l1 := by unfold State.onPack; split <;> rfl
@[simp] theorem State.onPack_tlb (s : State) (p : PackId) (f : Pack → Pack) : (s.onPack p f).tlb = s.tlb := by unfold State.onPack; split <;> rfl
@[simp] theorem State.onPack_gtc (s : State) (p : PackId) (f : Pack → Pack) : (s.onPack p f).gtc = s.gtc := by unfold State.onPack; split <;> rfl
@[simp] theorem State.onPack_fq (s : State) (p : PackId) (f : Pack → Pack) : (s.onPack p f).fq = s.fq := by unfold State.onPack; split <;> rfl
@[simp] theorem State.onPack_serial (s : State) (p : PackId) (f : Pack → Pack) : (s.onPack p f).serial = s.serial := by unfold State.onPack; split <;> rfl
@[simp] theorem State.onPack_agenda (s : State) (p : PackId) (f : Pack → Pack) : (s.onPack p f).agenda = s.agenda := by unfold State.onPack; split <;> rfl
@[simp] theorem State.onPack_turns (s : State) (p : PackId) (f : Pack → Pack) : (s.onPack p f).turns = s.turns := by unfold State.onPack; split <;> rfl
@[simp] theorem State.onPack_free (s : State) (p : PackId) (f : Pack → Pack) : (s.onPack p f).free = s.free := by unfold State.onPack; split <;> rfl
@[simp] theorem State.onPack_out (s : State) (p : PackId) (f : Pack → Pack) : (s.onPack p f).out = s.out := by unfold State.onPack; split <;> rfl

/-! onTeam -/
@[simp] theorem State.onTeam_pk (s : State) (t : TeamId) (f : Team → Team) : (s.onTeam t f).pk = s.pk := by unfold State.onTeam; split <;> rfl
@[simp] theorem State.onTeam_packs (s : State) (t : TeamId) (f : Team → Team) : (s.onTeam t f).packs = s.packs := by unfold State.onTeam; split <;> rfl
@[simp] theorem State.onTeam_cores (s : State) (t : TeamId) (f : Team → Team) : (s.onTeam t f).cores = s.cores := by unfold State.onTeam; split <;> rfl
@[simp] theorem State.onTeam_ctxs (s : State) (t : TeamId) (f : Team → Team) : (s.onTeam t f).ctxs = s.ctxs := by unfold State.onTeam; split <;> rfl
@[simp] theorem State.onTeam_grids (s : State) (t : TeamId) (f : Team → Team) : (s.onTeam t f).grids = s.grids := by unfold State.onTeam; split <;> rfl
@[simp] theorem State.onTeam_queues (s : State) (t : TeamId) (f : Team → Team) : (s.onTeam t f).queues = s.queues := by unfold State.onTeam; split <;> rfl
@[simp] theorem State.onTeam_hbm (s : State) (t : TeamId) (f : Team → Team) : (s.onTeam t f).hbm = s.hbm := by unfold State.onTeam; split <;> rfl
@[simp] theorem State.onTeam_poison (s : State) (t : TeamId) (f : Team → Team) : (s.onTeam t f).poison = s.poison := by unfold State.onTeam; split <;> rfl
@[simp] theorem State.onTeam_l2 (s : State) (t : TeamId) (f : Team → Team) : (s.onTeam t f).l2 = s.l2 := by unfold State.onTeam; split <;> rfl
@[simp] theorem State.onTeam_l1 (s : State) (t : TeamId) (f : Team → Team) : (s.onTeam t f).l1 = s.l1 := by unfold State.onTeam; split <;> rfl
@[simp] theorem State.onTeam_tlb (s : State) (t : TeamId) (f : Team → Team) : (s.onTeam t f).tlb = s.tlb := by unfold State.onTeam; split <;> rfl
@[simp] theorem State.onTeam_gtc (s : State) (t : TeamId) (f : Team → Team) : (s.onTeam t f).gtc = s.gtc := by unfold State.onTeam; split <;> rfl
@[simp] theorem State.onTeam_fq (s : State) (t : TeamId) (f : Team → Team) : (s.onTeam t f).fq = s.fq := by unfold State.onTeam; split <;> rfl
@[simp] theorem State.onTeam_serial (s : State) (t : TeamId) (f : Team → Team) : (s.onTeam t f).serial = s.serial := by unfold State.onTeam; split <;> rfl
@[simp] theorem State.onTeam_agenda (s : State) (t : TeamId) (f : Team → Team) : (s.onTeam t f).agenda = s.agenda := by unfold State.onTeam; split <;> rfl
@[simp] theorem State.onTeam_turns (s : State) (t : TeamId) (f : Team → Team) : (s.onTeam t f).turns = s.turns := by unfold State.onTeam; split <;> rfl
@[simp] theorem State.onTeam_free (s : State) (t : TeamId) (f : Team → Team) : (s.onTeam t f).free = s.free := by unfold State.onTeam; split <;> rfl
@[simp] theorem State.onTeam_out (s : State) (t : TeamId) (f : Team → Team) : (s.onTeam t f).out = s.out := by unfold State.onTeam; split <;> rfl

/-! onPacks -/
@[simp] theorem State.onPacks_tm (s : State) (f : Pack → Pack) : (s.onPacks f).tm = s.tm := rfl
@[simp] theorem State.onPacks_teams (s : State) (f : Pack → Pack) : (s.onPacks f).teams = s.teams := rfl
@[simp] theorem State.onPacks_cores (s : State) (f : Pack → Pack) : (s.onPacks f).cores = s.cores := rfl
@[simp] theorem State.onPacks_ctxs (s : State) (f : Pack → Pack) : (s.onPacks f).ctxs = s.ctxs := rfl
@[simp] theorem State.onPacks_grids (s : State) (f : Pack → Pack) : (s.onPacks f).grids = s.grids := rfl
@[simp] theorem State.onPacks_queues (s : State) (f : Pack → Pack) : (s.onPacks f).queues = s.queues := rfl
@[simp] theorem State.onPacks_hbm (s : State) (f : Pack → Pack) : (s.onPacks f).hbm = s.hbm := rfl
@[simp] theorem State.onPacks_poison (s : State) (f : Pack → Pack) : (s.onPacks f).poison = s.poison := rfl
@[simp] theorem State.onPacks_l2 (s : State) (f : Pack → Pack) : (s.onPacks f).l2 = s.l2 := rfl
@[simp] theorem State.onPacks_l1 (s : State) (f : Pack → Pack) : (s.onPacks f).l1 = s.l1 := rfl
@[simp] theorem State.onPacks_tlb (s : State) (f : Pack → Pack) : (s.onPacks f).tlb = s.tlb := rfl
@[simp] theorem State.onPacks_gtc (s : State) (f : Pack → Pack) : (s.onPacks f).gtc = s.gtc := rfl
@[simp] theorem State.onPacks_fq (s : State) (f : Pack → Pack) : (s.onPacks f).fq = s.fq := rfl
@[simp] theorem State.onPacks_serial (s : State) (f : Pack → Pack) : (s.onPacks f).serial = s.serial := rfl
@[simp] theorem State.onPacks_agenda (s : State) (f : Pack → Pack) : (s.onPacks f).agenda = s.agenda := rfl
@[simp] theorem State.onPacks_turns (s : State) (f : Pack → Pack) : (s.onPacks f).turns = s.turns := rfl
@[simp] theorem State.onPacks_free (s : State) (f : Pack → Pack) : (s.onPacks f).free = s.free := rfl
@[simp] theorem State.onPacks_out (s : State) (f : Pack → Pack) : (s.onPacks f).out = s.out := rfl

/-! onGrid -/
@[simp] theorem State.onGrid_pk (s : State) (g : Nat) (f : Grid → Grid) : (s.onGrid g f).pk = s.pk := rfl
@[simp] theorem State.onGrid_tm (s : State) (g : Nat) (f : Grid → Grid) : (s.onGrid g f).tm = s.tm := rfl
@[simp] theorem State.onGrid_packs (s : State) (g : Nat) (f : Grid → Grid) : (s.onGrid g f).packs = s.packs := rfl
@[simp] theorem State.onGrid_teams (s : State) (g : Nat) (f : Grid → Grid) : (s.onGrid g f).teams = s.teams := rfl
@[simp] theorem State.onGrid_cores (s : State) (g : Nat) (f : Grid → Grid) : (s.onGrid g f).cores = s.cores := rfl
@[simp] theorem State.onGrid_ctxs (s : State) (g : Nat) (f : Grid → Grid) : (s.onGrid g f).ctxs = s.ctxs := rfl
@[simp] theorem State.onGrid_queues (s : State) (g : Nat) (f : Grid → Grid) : (s.onGrid g f).queues = s.queues := rfl
@[simp] theorem State.onGrid_hbm (s : State) (g : Nat) (f : Grid → Grid) : (s.onGrid g f).hbm = s.hbm := rfl
@[simp] theorem State.onGrid_poison (s : State) (g : Nat) (f : Grid → Grid) : (s.onGrid g f).poison = s.poison := rfl
@[simp] theorem State.onGrid_l2 (s : State) (g : Nat) (f : Grid → Grid) : (s.onGrid g f).l2 = s.l2 := rfl
@[simp] theorem State.onGrid_l1 (s : State) (g : Nat) (f : Grid → Grid) : (s.onGrid g f).l1 = s.l1 := rfl
@[simp] theorem State.onGrid_tlb (s : State) (g : Nat) (f : Grid → Grid) : (s.onGrid g f).tlb = s.tlb := rfl
@[simp] theorem State.onGrid_gtc (s : State) (g : Nat) (f : Grid → Grid) : (s.onGrid g f).gtc = s.gtc := rfl
@[simp] theorem State.onGrid_fq (s : State) (g : Nat) (f : Grid → Grid) : (s.onGrid g f).fq = s.fq := rfl
@[simp] theorem State.onGrid_serial (s : State) (g : Nat) (f : Grid → Grid) : (s.onGrid g f).serial = s.serial := rfl
@[simp] theorem State.onGrid_agenda (s : State) (g : Nat) (f : Grid → Grid) : (s.onGrid g f).agenda = s.agenda := rfl
@[simp] theorem State.onGrid_turns (s : State) (g : Nat) (f : Grid → Grid) : (s.onGrid g f).turns = s.turns := rfl
@[simp] theorem State.onGrid_free (s : State) (g : Nat) (f : Grid → Grid) : (s.onGrid g f).free = s.free := rfl
@[simp] theorem State.onGrid_out (s : State) (g : Nat) (f : Grid → Grid) : (s.onGrid g f).out = s.out := rfl

/-! onCtx -/
@[simp] theorem State.onCtx_pk (s : State) (c : Nat) (f : Ctx → Ctx) : (s.onCtx c f).pk = s.pk := rfl
@[simp] theorem State.onCtx_tm (s : State) (c : Nat) (f : Ctx → Ctx) : (s.onCtx c f).tm = s.tm := rfl
@[simp] theorem State.onCtx_packs (s : State) (c : Nat) (f : Ctx → Ctx) : (s.onCtx c f).packs = s.packs := rfl
@[simp] theorem State.onCtx_teams (s : State) (c : Nat) (f : Ctx → Ctx) : (s.onCtx c f).teams = s.teams := rfl
@[simp] theorem State.onCtx_cores (s : State) (c : Nat) (f : Ctx → Ctx) : (s.onCtx c f).cores = s.cores := rfl
@[simp] theorem State.onCtx_grids (s : State) (c : Nat) (f : Ctx → Ctx) : (s.onCtx c f).grids = s.grids := rfl
@[simp] theorem State.onCtx_queues (s : State) (c : Nat) (f : Ctx → Ctx) : (s.onCtx c f).queues = s.queues := rfl
@[simp] theorem State.onCtx_hbm (s : State) (c : Nat) (f : Ctx → Ctx) : (s.onCtx c f).hbm = s.hbm := rfl
@[simp] theorem State.onCtx_poison (s : State) (c : Nat) (f : Ctx → Ctx) : (s.onCtx c f).poison = s.poison := rfl
@[simp] theorem State.onCtx_l2 (s : State) (c : Nat) (f : Ctx → Ctx) : (s.onCtx c f).l2 = s.l2 := rfl
@[simp] theorem State.onCtx_l1 (s : State) (c : Nat) (f : Ctx → Ctx) : (s.onCtx c f).l1 = s.l1 := rfl
@[simp] theorem State.onCtx_tlb (s : State) (c : Nat) (f : Ctx → Ctx) : (s.onCtx c f).tlb = s.tlb := rfl
@[simp] theorem State.onCtx_gtc (s : State) (c : Nat) (f : Ctx → Ctx) : (s.onCtx c f).gtc = s.gtc := rfl
@[simp] theorem State.onCtx_fq (s : State) (c : Nat) (f : Ctx → Ctx) : (s.onCtx c f).fq = s.fq := rfl
@[simp] theorem State.onCtx_serial (s : State) (c : Nat) (f : Ctx → Ctx) : (s.onCtx c f).serial = s.serial := rfl
@[simp] theorem State.onCtx_agenda (s : State) (c : Nat) (f : Ctx → Ctx) : (s.onCtx c f).agenda = s.agenda := rfl
@[simp] theorem State.onCtx_turns (s : State) (c : Nat) (f : Ctx → Ctx) : (s.onCtx c f).turns = s.turns := rfl
@[simp] theorem State.onCtx_free (s : State) (c : Nat) (f : Ctx → Ctx) : (s.onCtx c f).free = s.free := rfl
@[simp] theorem State.onCtx_out (s : State) (c : Nat) (f : Ctx → Ctx) : (s.onCtx c f).out = s.out := rfl

/-! onCore -/
@[simp] theorem State.onCore_pk (s : State) (c : Nat) (f : CoreSt → CoreSt) : (s.onCore c f).pk = s.pk := rfl
@[simp] theorem State.onCore_tm (s : State) (c : Nat) (f : CoreSt → CoreSt) : (s.onCore c f).tm = s.tm := rfl
@[simp] theorem State.onCore_packs (s : State) (c : Nat) (f : CoreSt → CoreSt) : (s.onCore c f).packs = s.packs := rfl
@[simp] theorem State.onCore_teams (s : State) (c : Nat) (f : CoreSt → CoreSt) : (s.onCore c f).teams = s.teams := rfl
@[simp] theorem State.onCore_ctxs (s : State) (c : Nat) (f : CoreSt → CoreSt) : (s.onCore c f).ctxs = s.ctxs := rfl
@[simp] theorem State.onCore_grids (s : State) (c : Nat) (f : CoreSt → CoreSt) : (s.onCore c f).grids = s.grids := rfl
@[simp] theorem State.onCore_queues (s : State) (c : Nat) (f : CoreSt → CoreSt) : (s.onCore c f).queues = s.queues := rfl
@[simp] theorem State.onCore_hbm (s : State) (c : Nat) (f : CoreSt → CoreSt) : (s.onCore c f).hbm = s.hbm := rfl
@[simp] theorem State.onCore_poison (s : State) (c : Nat) (f : CoreSt → CoreSt) : (s.onCore c f).poison = s.poison := rfl
@[simp] theorem State.onCore_l2 (s : State) (c : Nat) (f : CoreSt → CoreSt) : (s.onCore c f).l2 = s.l2 := rfl
@[simp] theorem State.onCore_l1 (s : State) (c : Nat) (f : CoreSt → CoreSt) : (s.onCore c f).l1 = s.l1 := rfl
@[simp] theorem State.onCore_tlb (s : State) (c : Nat) (f : CoreSt → CoreSt) : (s.onCore c f).tlb = s.tlb := rfl
@[simp] theorem State.onCore_gtc (s : State) (c : Nat) (f : CoreSt → CoreSt) : (s.onCore c f).gtc = s.gtc := rfl
@[simp] theorem State.onCore_fq (s : State) (c : Nat) (f : CoreSt → CoreSt) : (s.onCore c f).fq = s.fq := rfl
@[simp] theorem State.onCore_serial (s : State) (c : Nat) (f : CoreSt → CoreSt) : (s.onCore c f).serial = s.serial := rfl
@[simp] theorem State.onCore_agenda (s : State) (c : Nat) (f : CoreSt → CoreSt) : (s.onCore c f).agenda = s.agenda := rfl
@[simp] theorem State.onCore_turns (s : State) (c : Nat) (f : CoreSt → CoreSt) : (s.onCore c f).turns = s.turns := rfl
@[simp] theorem State.onCore_free (s : State) (c : Nat) (f : CoreSt → CoreSt) : (s.onCore c f).free = s.free := rfl
@[simp] theorem State.onCore_out (s : State) (c : Nat) (f : CoreSt → CoreSt) : (s.onCore c f).out = s.out := rfl

/-! bumpCore -/
@[simp] theorem State.bumpCore_pk (s : State) (c n : Nat) : (s.bumpCore c n).pk = s.pk := rfl
@[simp] theorem State.bumpCore_tm (s : State) (c n : Nat) : (s.bumpCore c n).tm = s.tm := rfl
@[simp] theorem State.bumpCore_packs (s : State) (c n : Nat) : (s.bumpCore c n).packs = s.packs := rfl
@[simp] theorem State.bumpCore_teams (s : State) (c n : Nat) : (s.bumpCore c n).teams = s.teams := rfl
@[simp] theorem State.bumpCore_ctxs (s : State) (c n : Nat) : (s.bumpCore c n).ctxs = s.ctxs := rfl
@[simp] theorem State.bumpCore_grids (s : State) (c n : Nat) : (s.bumpCore c n).grids = s.grids := rfl
@[simp] theorem State.bumpCore_queues (s : State) (c n : Nat) : (s.bumpCore c n).queues = s.queues := rfl
@[simp] theorem State.bumpCore_hbm (s : State) (c n : Nat) : (s.bumpCore c n).hbm = s.hbm := rfl
@[simp] theorem State.bumpCore_poison (s : State) (c n : Nat) : (s.bumpCore c n).poison = s.poison := rfl
@[simp] theorem State.bumpCore_l2 (s : State) (c n : Nat) : (s.bumpCore c n).l2 = s.l2 := rfl
@[simp] theorem State.bumpCore_l1 (s : State) (c n : Nat) : (s.bumpCore c n).l1 = s.l1 := rfl
@[simp] theorem State.bumpCore_tlb (s : State) (c n : Nat) : (s.bumpCore c n).tlb = s.tlb := rfl
@[simp] theorem State.bumpCore_gtc (s : State) (c n : Nat) : (s.bumpCore c n).gtc = s.gtc := rfl
@[simp] theorem State.bumpCore_fq (s : State) (c n : Nat) : (s.bumpCore c n).fq = s.fq := rfl
@[simp] theorem State.bumpCore_serial (s : State) (c n : Nat) : (s.bumpCore c n).serial = s.serial := rfl
@[simp] theorem State.bumpCore_agenda (s : State) (c n : Nat) : (s.bumpCore c n).agenda = s.agenda := rfl
@[simp] theorem State.bumpCore_turns (s : State) (c n : Nat) : (s.bumpCore c n).turns = s.turns := rfl
@[simp] theorem State.bumpCore_free (s : State) (c n : Nat) : (s.bumpCore c n).free = s.free := rfl
@[simp] theorem State.bumpCore_out (s : State) (c n : Nat) : (s.bumpCore c n).out = s.out := rfl

/-! bump -/
@[simp] theorem State.bump_pk (s : State) (n : Nat) : (s.bump n).pk = s.pk := rfl
@[simp] theorem State.bump_tm (s : State) (n : Nat) : (s.bump n).tm = s.tm := rfl
@[simp] theorem State.bump_packs (s : State) (n : Nat) : (s.bump n).packs = s.packs := rfl
@[simp] theorem State.bump_teams (s : State) (n : Nat) : (s.bump n).teams = s.teams := rfl
@[simp] theorem State.bump_cores (s : State) (n : Nat) : (s.bump n).cores = s.cores := rfl
@[simp] theorem State.bump_ctxs (s : State) (n : Nat) : (s.bump n).ctxs = s.ctxs := rfl
@[simp] theorem State.bump_grids (s : State) (n : Nat) : (s.bump n).grids = s.grids := rfl
@[simp] theorem State.bump_queues (s : State) (n : Nat) : (s.bump n).queues = s.queues := rfl
@[simp] theorem State.bump_hbm (s : State) (n : Nat) : (s.bump n).hbm = s.hbm := rfl
@[simp] theorem State.bump_poison (s : State) (n : Nat) : (s.bump n).poison = s.poison := rfl
@[simp] theorem State.bump_l2 (s : State) (n : Nat) : (s.bump n).l2 = s.l2 := rfl
@[simp] theorem State.bump_l1 (s : State) (n : Nat) : (s.bump n).l1 = s.l1 := rfl
@[simp] theorem State.bump_tlb (s : State) (n : Nat) : (s.bump n).tlb = s.tlb := rfl
@[simp] theorem State.bump_gtc (s : State) (n : Nat) : (s.bump n).gtc = s.gtc := rfl
@[simp] theorem State.bump_fq (s : State) (n : Nat) : (s.bump n).fq = s.fq := rfl
@[simp] theorem State.bump_serial (s : State) (n : Nat) : (s.bump n).serial = s.serial := rfl
@[simp] theorem State.bump_agenda (s : State) (n : Nat) : (s.bump n).agenda = s.agenda := rfl
@[simp] theorem State.bump_turns (s : State) (n : Nat) : (s.bump n).turns = s.turns := rfl
@[simp] theorem State.bump_free (s : State) (n : Nat) : (s.bump n).free = s.free := rfl
@[simp] theorem State.bump_out (s : State) (n : Nat) : (s.bump n).out = s.out := rfl

/-! push -/
@[simp] theorem State.push_pk (s : State) (is : List Instr) : (s.push is).pk = s.pk := rfl
@[simp] theorem State.push_tm (s : State) (is : List Instr) : (s.push is).tm = s.tm := rfl
@[simp] theorem State.push_packs (s : State) (is : List Instr) : (s.push is).packs = s.packs := rfl
@[simp] theorem State.push_teams (s : State) (is : List Instr) : (s.push is).teams = s.teams := rfl
@[simp] theorem State.push_cores (s : State) (is : List Instr) : (s.push is).cores = s.cores := rfl
@[simp] theorem State.push_ctxs (s : State) (is : List Instr) : (s.push is).ctxs = s.ctxs := rfl
@[simp] theorem State.push_grids (s : State) (is : List Instr) : (s.push is).grids = s.grids := rfl
@[simp] theorem State.push_queues (s : State) (is : List Instr) : (s.push is).queues = s.queues := rfl
@[simp] theorem State.push_hbm (s : State) (is : List Instr) : (s.push is).hbm = s.hbm := rfl
@[simp] theorem State.push_poison (s : State) (is : List Instr) : (s.push is).poison = s.poison := rfl
@[simp] theorem State.push_l2 (s : State) (is : List Instr) : (s.push is).l2 = s.l2 := rfl
@[simp] theorem State.push_l1 (s : State) (is : List Instr) : (s.push is).l1 = s.l1 := rfl
@[simp] theorem State.push_tlb (s : State) (is : List Instr) : (s.push is).tlb = s.tlb := rfl
@[simp] theorem State.push_gtc (s : State) (is : List Instr) : (s.push is).gtc = s.gtc := rfl
@[simp] theorem State.push_fq (s : State) (is : List Instr) : (s.push is).fq = s.fq := rfl
@[simp] theorem State.push_serial (s : State) (is : List Instr) : (s.push is).serial = s.serial := rfl
@[simp] theorem State.push_turns (s : State) (is : List Instr) : (s.push is).turns = s.turns := rfl
@[simp] theorem State.push_free (s : State) (is : List Instr) : (s.push is).free = s.free := rfl
@[simp] theorem State.push_out (s : State) (is : List Instr) : (s.push is).out = s.out := rfl

/-! emit -/
@[simp] theorem State.emit_pk (s : State) (o : Out) : (s.emit o).pk = s.pk := rfl
@[simp] theorem State.emit_tm (s : State) (o : Out) : (s.emit o).tm = s.tm := rfl
@[simp] theorem State.emit_packs (s : State) (o : Out) : (s.emit o).packs = s.packs := rfl
@[simp] theorem State.emit_teams (s : State) (o : Out) : (s.emit o).teams = s.teams := rfl
@[simp] theorem State.emit_cores (s : State) (o : Out) : (s.emit o).cores = s.cores := rfl
@[simp] theorem State.emit_ctxs (s : State) (o : Out) : (s.emit o).ctxs = s.ctxs := rfl
@[simp] theorem State.emit_grids (s : State) (o : Out) : (s.emit o).grids = s.grids := rfl
@[simp] theorem State.emit_queues (s : State) (o : Out) : (s.emit o).queues = s.queues := rfl
@[simp] theorem State.emit_hbm (s : State) (o : Out) : (s.emit o).hbm = s.hbm := rfl
@[simp] theorem State.emit_poison (s : State) (o : Out) : (s.emit o).poison = s.poison := rfl
@[simp] theorem State.emit_l2 (s : State) (o : Out) : (s.emit o).l2 = s.l2 := rfl
@[simp] theorem State.emit_l1 (s : State) (o : Out) : (s.emit o).l1 = s.l1 := rfl
@[simp] theorem State.emit_tlb (s : State) (o : Out) : (s.emit o).tlb = s.tlb := rfl
@[simp] theorem State.emit_gtc (s : State) (o : Out) : (s.emit o).gtc = s.gtc := rfl
@[simp] theorem State.emit_fq (s : State) (o : Out) : (s.emit o).fq = s.fq := rfl
@[simp] theorem State.emit_serial (s : State) (o : Out) : (s.emit o).serial = s.serial := rfl
@[simp] theorem State.emit_agenda (s : State) (o : Out) : (s.emit o).agenda = s.agenda := rfl
@[simp] theorem State.emit_turns (s : State) (o : Out) : (s.emit o).turns = s.turns := rfl
@[simp] theorem State.emit_free (s : State) (o : Out) : (s.emit o).free = s.free := rfl

/-! waitUntil -/
@[simp] theorem State.waitUntil_pk (s : State) (t : Nat) : (s.waitUntil t).pk = s.pk := rfl
@[simp] theorem State.waitUntil_tm (s : State) (t : Nat) : (s.waitUntil t).tm = s.tm := rfl
@[simp] theorem State.waitUntil_packs (s : State) (t : Nat) : (s.waitUntil t).packs = s.packs := rfl
@[simp] theorem State.waitUntil_teams (s : State) (t : Nat) : (s.waitUntil t).teams = s.teams := rfl
@[simp] theorem State.waitUntil_cores (s : State) (t : Nat) : (s.waitUntil t).cores = s.cores := rfl
@[simp] theorem State.waitUntil_ctxs (s : State) (t : Nat) : (s.waitUntil t).ctxs = s.ctxs := rfl
@[simp] theorem State.waitUntil_grids (s : State) (t : Nat) : (s.waitUntil t).grids = s.grids := rfl
@[simp] theorem State.waitUntil_queues (s : State) (t : Nat) : (s.waitUntil t).queues = s.queues := rfl
@[simp] theorem State.waitUntil_hbm (s : State) (t : Nat) : (s.waitUntil t).hbm = s.hbm := rfl
@[simp] theorem State.waitUntil_poison (s : State) (t : Nat) : (s.waitUntil t).poison = s.poison := rfl
@[simp] theorem State.waitUntil_l2 (s : State) (t : Nat) : (s.waitUntil t).l2 = s.l2 := rfl
@[simp] theorem State.waitUntil_l1 (s : State) (t : Nat) : (s.waitUntil t).l1 = s.l1 := rfl
@[simp] theorem State.waitUntil_tlb (s : State) (t : Nat) : (s.waitUntil t).tlb = s.tlb := rfl
@[simp] theorem State.waitUntil_fq (s : State) (t : Nat) : (s.waitUntil t).fq = s.fq := rfl
@[simp] theorem State.waitUntil_serial (s : State) (t : Nat) : (s.waitUntil t).serial = s.serial := rfl
@[simp] theorem State.waitUntil_agenda (s : State) (t : Nat) : (s.waitUntil t).agenda = s.agenda := rfl
@[simp] theorem State.waitUntil_turns (s : State) (t : Nat) : (s.waitUntil t).turns = s.turns := rfl
@[simp] theorem State.waitUntil_free (s : State) (t : Nat) : (s.waitUntil t).free = s.free := rfl
@[simp] theorem State.waitUntil_out (s : State) (t : Nat) : (s.waitUntil t).out = s.out := rfl

/-! writeReport -/
@[simp] theorem State.writeReport_pk (s : State) (r : Report) : (s.writeReport r).pk = s.pk := rfl
@[simp] theorem State.writeReport_tm (s : State) (r : Report) : (s.writeReport r).tm = s.tm := rfl
@[simp] theorem State.writeReport_packs (s : State) (r : Report) : (s.writeReport r).packs = s.packs := rfl
@[simp] theorem State.writeReport_teams (s : State) (r : Report) : (s.writeReport r).teams = s.teams := rfl
@[simp] theorem State.writeReport_cores (s : State) (r : Report) : (s.writeReport r).cores = s.cores := rfl
@[simp] theorem State.writeReport_ctxs (s : State) (r : Report) : (s.writeReport r).ctxs = s.ctxs := rfl
@[simp] theorem State.writeReport_grids (s : State) (r : Report) : (s.writeReport r).grids = s.grids := rfl
@[simp] theorem State.writeReport_queues (s : State) (r : Report) : (s.writeReport r).queues = s.queues := rfl
@[simp] theorem State.writeReport_poison (s : State) (r : Report) : (s.writeReport r).poison = s.poison := rfl
@[simp] theorem State.writeReport_l2 (s : State) (r : Report) : (s.writeReport r).l2 = s.l2 := rfl
@[simp] theorem State.writeReport_l1 (s : State) (r : Report) : (s.writeReport r).l1 = s.l1 := rfl
@[simp] theorem State.writeReport_tlb (s : State) (r : Report) : (s.writeReport r).tlb = s.tlb := rfl
@[simp] theorem State.writeReport_gtc (s : State) (r : Report) : (s.writeReport r).gtc = s.gtc := rfl
@[simp] theorem State.writeReport_serial (s : State) (r : Report) : (s.writeReport r).serial = s.serial := rfl
@[simp] theorem State.writeReport_agenda (s : State) (r : Report) : (s.writeReport r).agenda = s.agenda := rfl
@[simp] theorem State.writeReport_turns (s : State) (r : Report) : (s.writeReport r).turns = s.turns := rfl
@[simp] theorem State.writeReport_free (s : State) (r : Report) : (s.writeReport r).free = s.free := rfl
@[simp] theorem State.writeReport_out (s : State) (r : Report) : (s.writeReport r).out = s.out := rfl

/-! countWord -/
@[simp] theorem State.countWord_pk (s : State) : (s.countWord).pk = s.pk := rfl
@[simp] theorem State.countWord_tm (s : State) : (s.countWord).tm = s.tm := rfl
@[simp] theorem State.countWord_packs (s : State) : (s.countWord).packs = s.packs := rfl
@[simp] theorem State.countWord_teams (s : State) : (s.countWord).teams = s.teams := rfl
@[simp] theorem State.countWord_ctxs (s : State) : (s.countWord).ctxs = s.ctxs := rfl
@[simp] theorem State.countWord_grids (s : State) : (s.countWord).grids = s.grids := rfl
@[simp] theorem State.countWord_queues (s : State) : (s.countWord).queues = s.queues := rfl
@[simp] theorem State.countWord_hbm (s : State) : (s.countWord).hbm = s.hbm := rfl
@[simp] theorem State.countWord_poison (s : State) : (s.countWord).poison = s.poison := rfl
@[simp] theorem State.countWord_l2 (s : State) : (s.countWord).l2 = s.l2 := rfl
@[simp] theorem State.countWord_l1 (s : State) : (s.countWord).l1 = s.l1 := rfl
@[simp] theorem State.countWord_tlb (s : State) : (s.countWord).tlb = s.tlb := rfl
@[simp] theorem State.countWord_gtc (s : State) : (s.countWord).gtc = s.gtc := rfl
@[simp] theorem State.countWord_fq (s : State) : (s.countWord).fq = s.fq := rfl
@[simp] theorem State.countWord_serial (s : State) : (s.countWord).serial = s.serial := rfl
@[simp] theorem State.countWord_agenda (s : State) : (s.countWord).agenda = s.agenda := rfl
@[simp] theorem State.countWord_turns (s : State) : (s.countWord).turns = s.turns := rfl
@[simp] theorem State.countWord_free (s : State) : (s.countWord).free = s.free := rfl
@[simp] theorem State.countWord_out (s : State) : (s.countWord).out = s.out := rfl

/-! stall -/
@[simp] theorem State.stall_pk (s : State) : (s.stall).pk = s.pk := rfl
@[simp] theorem State.stall_tm (s : State) : (s.stall).tm = s.tm := rfl
@[simp] theorem State.stall_packs (s : State) : (s.stall).packs = s.packs := rfl
@[simp] theorem State.stall_teams (s : State) : (s.stall).teams = s.teams := rfl
@[simp] theorem State.stall_ctxs (s : State) : (s.stall).ctxs = s.ctxs := rfl
@[simp] theorem State.stall_grids (s : State) : (s.stall).grids = s.grids := rfl
@[simp] theorem State.stall_queues (s : State) : (s.stall).queues = s.queues := rfl
@[simp] theorem State.stall_hbm (s : State) : (s.stall).hbm = s.hbm := rfl
@[simp] theorem State.stall_poison (s : State) : (s.stall).poison = s.poison := rfl
@[simp] theorem State.stall_l2 (s : State) : (s.stall).l2 = s.l2 := rfl
@[simp] theorem State.stall_l1 (s : State) : (s.stall).l1 = s.l1 := rfl
@[simp] theorem State.stall_tlb (s : State) : (s.stall).tlb = s.tlb := rfl
@[simp] theorem State.stall_gtc (s : State) : (s.stall).gtc = s.gtc := rfl
@[simp] theorem State.stall_fq (s : State) : (s.stall).fq = s.fq := rfl
@[simp] theorem State.stall_serial (s : State) : (s.stall).serial = s.serial := rfl
@[simp] theorem State.stall_agenda (s : State) : (s.stall).agenda = s.agenda := rfl
@[simp] theorem State.stall_turns (s : State) : (s.stall).turns = s.turns := rfl
@[simp] theorem State.stall_free (s : State) : (s.stall).free = s.free := rfl
@[simp] theorem State.stall_out (s : State) : (s.stall).out = s.out := rfl

/-! setS -/
@[simp] theorem Pack.setS_id (p : Pack) (r : Nat) (v : DWord) : (p.setS r v).id = p.id := rfl
@[simp] theorem Pack.setS_status (p : Pack) (r : Nat) (v : DWord) : (p.setS r v).status = p.status := rfl
@[simp] theorem Pack.setS_pc (p : Pack) (r : Nat) (v : DWord) : (p.setS r v).pc = p.pc := rfl
@[simp] theorem Pack.setS_runpos (p : Pack) (r : Nat) (v : DWord) : (p.setS r v).runpos = p.runpos := rfl
@[simp] theorem Pack.setS_since (p : Pack) (r : Nat) (v : DWord) : (p.setS r v).since = p.since := rfl
@[simp] theorem Pack.setS_em (p : Pack) (r : Nat) (v : DWord) : (p.setS r v).em = p.em := rfl
@[simp] theorem Pack.setS_mode (p : Pack) (r : Nat) (v : DWord) : (p.setS r v).mode = p.mode := rfl
@[simp] theorem Pack.setS_vregs (p : Pack) (r : Nat) (v : DWord) : (p.setS r v).vregs = p.vregs := rfl
@[simp] theorem Pack.setS_live (p : Pack) (r : Nat) (v : DWord) : (p.setS r v).live = p.live := rfl
@[simp] theorem Pack.setS_preds (p : Pack) (r : Nat) (v : DWord) : (p.setS r v).preds = p.preds := rfl
@[simp] theorem Pack.setS_fflags (p : Pack) (r : Nat) (v : DWord) : (p.setS r v).fflags = p.fflags := rfl
@[simp] theorem Pack.setS_ops (p : Pack) (r : Nat) (v : DWord) : (p.setS r v).ops = p.ops := rfl
@[simp] theorem Pack.setS_pend (p : Pack) (r : Nat) (v : DWord) : (p.setS r v).pend = p.pend := rfl
@[simp] theorem Pack.setS_due (p : Pack) (r : Nat) (v : DWord) : (p.setS r v).due = p.due := rfl
@[simp] theorem Pack.setS_priv (p : Pack) (r : Nat) (v : DWord) : (p.setS r v).priv = p.priv := rfl
@[simp] theorem Pack.setS_atPpt (p : Pack) (r : Nat) (v : DWord) : (p.setS r v).atPpt = p.atPpt := rfl

/-! setP -/
@[simp] theorem Pack.setP_id (p : Pack) (r : Nat) (v : DWord) : (p.setP r v).id = p.id := rfl
@[simp] theorem Pack.setP_status (p : Pack) (r : Nat) (v : DWord) : (p.setP r v).status = p.status := rfl
@[simp] theorem Pack.setP_pc (p : Pack) (r : Nat) (v : DWord) : (p.setP r v).pc = p.pc := rfl
@[simp] theorem Pack.setP_runpos (p : Pack) (r : Nat) (v : DWord) : (p.setP r v).runpos = p.runpos := rfl
@[simp] theorem Pack.setP_since (p : Pack) (r : Nat) (v : DWord) : (p.setP r v).since = p.since := rfl
@[simp] theorem Pack.setP_em (p : Pack) (r : Nat) (v : DWord) : (p.setP r v).em = p.em := rfl
@[simp] theorem Pack.setP_mode (p : Pack) (r : Nat) (v : DWord) : (p.setP r v).mode = p.mode := rfl
@[simp] theorem Pack.setP_sregs (p : Pack) (r : Nat) (v : DWord) : (p.setP r v).sregs = p.sregs := rfl
@[simp] theorem Pack.setP_vregs (p : Pack) (r : Nat) (v : DWord) : (p.setP r v).vregs = p.vregs := rfl
@[simp] theorem Pack.setP_live (p : Pack) (r : Nat) (v : DWord) : (p.setP r v).live = p.live := rfl
@[simp] theorem Pack.setP_fflags (p : Pack) (r : Nat) (v : DWord) : (p.setP r v).fflags = p.fflags := rfl
@[simp] theorem Pack.setP_ops (p : Pack) (r : Nat) (v : DWord) : (p.setP r v).ops = p.ops := rfl
@[simp] theorem Pack.setP_pend (p : Pack) (r : Nat) (v : DWord) : (p.setP r v).pend = p.pend := rfl
@[simp] theorem Pack.setP_due (p : Pack) (r : Nat) (v : DWord) : (p.setP r v).due = p.due := rfl
@[simp] theorem Pack.setP_priv (p : Pack) (r : Nat) (v : DWord) : (p.setP r v).priv = p.priv := rfl
@[simp] theorem Pack.setP_atPpt (p : Pack) (r : Nat) (v : DWord) : (p.setP r v).atPpt = p.atPpt := rfl

/-! setV -/
@[simp] theorem Pack.setV_id (p : Pack) (r : Nat) (x : Lanes) : (p.setV r x).id = p.id := rfl
@[simp] theorem Pack.setV_status (p : Pack) (r : Nat) (x : Lanes) : (p.setV r x).status = p.status := rfl
@[simp] theorem Pack.setV_pc (p : Pack) (r : Nat) (x : Lanes) : (p.setV r x).pc = p.pc := rfl
@[simp] theorem Pack.setV_runpos (p : Pack) (r : Nat) (x : Lanes) : (p.setV r x).runpos = p.runpos := rfl
@[simp] theorem Pack.setV_since (p : Pack) (r : Nat) (x : Lanes) : (p.setV r x).since = p.since := rfl
@[simp] theorem Pack.setV_em (p : Pack) (r : Nat) (x : Lanes) : (p.setV r x).em = p.em := rfl
@[simp] theorem Pack.setV_mode (p : Pack) (r : Nat) (x : Lanes) : (p.setV r x).mode = p.mode := rfl
@[simp] theorem Pack.setV_sregs (p : Pack) (r : Nat) (x : Lanes) : (p.setV r x).sregs = p.sregs := rfl
@[simp] theorem Pack.setV_preds (p : Pack) (r : Nat) (x : Lanes) : (p.setV r x).preds = p.preds := rfl
@[simp] theorem Pack.setV_fflags (p : Pack) (r : Nat) (x : Lanes) : (p.setV r x).fflags = p.fflags := rfl
@[simp] theorem Pack.setV_ops (p : Pack) (r : Nat) (x : Lanes) : (p.setV r x).ops = p.ops := rfl
@[simp] theorem Pack.setV_pend (p : Pack) (r : Nat) (x : Lanes) : (p.setV r x).pend = p.pend := rfl
@[simp] theorem Pack.setV_due (p : Pack) (r : Nat) (x : Lanes) : (p.setV r x).due = p.due := rfl
@[simp] theorem Pack.setV_priv (p : Pack) (r : Nat) (x : Lanes) : (p.setV r x).priv = p.priv := rfl
@[simp] theorem Pack.setV_atPpt (p : Pack) (r : Nat) (x : Lanes) : (p.setV r x).atPpt = p.atPpt := rfl

/-! setX -/
@[simp] theorem Pack.setX_id (p : Pack) (l : Nat) (b : BitVec 8) : (p.setX l b).id = p.id := rfl
@[simp] theorem Pack.setX_status (p : Pack) (l : Nat) (b : BitVec 8) : (p.setX l b).status = p.status := rfl
@[simp] theorem Pack.setX_pc (p : Pack) (l : Nat) (b : BitVec 8) : (p.setX l b).pc = p.pc := rfl
@[simp] theorem Pack.setX_runpos (p : Pack) (l : Nat) (b : BitVec 8) : (p.setX l b).runpos = p.runpos := rfl
@[simp] theorem Pack.setX_since (p : Pack) (l : Nat) (b : BitVec 8) : (p.setX l b).since = p.since := rfl
@[simp] theorem Pack.setX_em (p : Pack) (l : Nat) (b : BitVec 8) : (p.setX l b).em = p.em := rfl
@[simp] theorem Pack.setX_mode (p : Pack) (l : Nat) (b : BitVec 8) : (p.setX l b).mode = p.mode := rfl
@[simp] theorem Pack.setX_sregs (p : Pack) (l : Nat) (b : BitVec 8) : (p.setX l b).sregs = p.sregs := rfl
@[simp] theorem Pack.setX_vregs (p : Pack) (l : Nat) (b : BitVec 8) : (p.setX l b).vregs = p.vregs := rfl
@[simp] theorem Pack.setX_live (p : Pack) (l : Nat) (b : BitVec 8) : (p.setX l b).live = p.live := rfl
@[simp] theorem Pack.setX_preds (p : Pack) (l : Nat) (b : BitVec 8) : (p.setX l b).preds = p.preds := rfl
@[simp] theorem Pack.setX_fflags (p : Pack) (l : Nat) (b : BitVec 8) : (p.setX l b).fflags = p.fflags := rfl
@[simp] theorem Pack.setX_ops (p : Pack) (l : Nat) (b : BitVec 8) : (p.setX l b).ops = p.ops := rfl
@[simp] theorem Pack.setX_pend (p : Pack) (l : Nat) (b : BitVec 8) : (p.setX l b).pend = p.pend := rfl
@[simp] theorem Pack.setX_due (p : Pack) (l : Nat) (b : BitVec 8) : (p.setX l b).due = p.due := rfl
@[simp] theorem Pack.setX_priv (p : Pack) (l : Nat) (b : BitVec 8) : (p.setX l b).priv = p.priv := rfl
@[simp] theorem Pack.setX_atPpt (p : Pack) (l : Nat) (b : BitVec 8) : (p.setX l b).atPpt = p.atPpt := rfl

/-! freeV -/
@[simp] theorem Pack.freeV_id (p : Pack) (r : Nat) : (p.freeV r).id = p.id := by simp only [Pack.freeV]
@[simp] theorem Pack.freeV_status (p : Pack) (r : Nat) : (p.freeV r).status = p.status := by simp only [Pack.freeV]
@[simp] theorem Pack.freeV_pc (p : Pack) (r : Nat) : (p.freeV r).pc = p.pc := by simp only [Pack.freeV]
@[simp] theorem Pack.freeV_runpos (p : Pack) (r : Nat) : (p.freeV r).runpos = p.runpos := by simp only [Pack.freeV]
@[simp] theorem Pack.freeV_since (p : Pack) (r : Nat) : (p.freeV r).since = p.since := by simp only [Pack.freeV]
@[simp] theorem Pack.freeV_em (p : Pack) (r : Nat) : (p.freeV r).em = p.em := by simp only [Pack.freeV]
@[simp] theorem Pack.freeV_mode (p : Pack) (r : Nat) : (p.freeV r).mode = p.mode := by simp only [Pack.freeV]
@[simp] theorem Pack.freeV_sregs (p : Pack) (r : Nat) : (p.freeV r).sregs = p.sregs := by simp only [Pack.freeV]
@[simp] theorem Pack.freeV_preds (p : Pack) (r : Nat) : (p.freeV r).preds = p.preds := by simp only [Pack.freeV]
@[simp] theorem Pack.freeV_fflags (p : Pack) (r : Nat) : (p.freeV r).fflags = p.fflags := by simp only [Pack.freeV]
@[simp] theorem Pack.freeV_ops (p : Pack) (r : Nat) : (p.freeV r).ops = p.ops := by simp only [Pack.freeV]
@[simp] theorem Pack.freeV_pend (p : Pack) (r : Nat) : (p.freeV r).pend = p.pend := by simp only [Pack.freeV]
@[simp] theorem Pack.freeV_due (p : Pack) (r : Nat) : (p.freeV r).due = p.due := by simp only [Pack.freeV]
@[simp] theorem Pack.freeV_priv (p : Pack) (r : Nat) : (p.freeV r).priv = p.priv := by simp only [Pack.freeV]
@[simp] theorem Pack.freeV_atPpt (p : Pack) (r : Nat) : (p.freeV r).atPpt = p.atPpt := by simp only [Pack.freeV]

/-! raiseFlags -/
@[simp] theorem Pack.raiseFlags_id (p : Pack) (f : BitVec 8) : (p.raiseFlags f).id = p.id := rfl
@[simp] theorem Pack.raiseFlags_status (p : Pack) (f : BitVec 8) : (p.raiseFlags f).status = p.status := rfl
@[simp] theorem Pack.raiseFlags_pc (p : Pack) (f : BitVec 8) : (p.raiseFlags f).pc = p.pc := rfl
@[simp] theorem Pack.raiseFlags_runpos (p : Pack) (f : BitVec 8) : (p.raiseFlags f).runpos = p.runpos := rfl
@[simp] theorem Pack.raiseFlags_since (p : Pack) (f : BitVec 8) : (p.raiseFlags f).since = p.since := rfl
@[simp] theorem Pack.raiseFlags_em (p : Pack) (f : BitVec 8) : (p.raiseFlags f).em = p.em := rfl
@[simp] theorem Pack.raiseFlags_mode (p : Pack) (f : BitVec 8) : (p.raiseFlags f).mode = p.mode := rfl
@[simp] theorem Pack.raiseFlags_sregs (p : Pack) (f : BitVec 8) : (p.raiseFlags f).sregs = p.sregs := rfl
@[simp] theorem Pack.raiseFlags_vregs (p : Pack) (f : BitVec 8) : (p.raiseFlags f).vregs = p.vregs := rfl
@[simp] theorem Pack.raiseFlags_live (p : Pack) (f : BitVec 8) : (p.raiseFlags f).live = p.live := rfl
@[simp] theorem Pack.raiseFlags_preds (p : Pack) (f : BitVec 8) : (p.raiseFlags f).preds = p.preds := rfl
@[simp] theorem Pack.raiseFlags_ops (p : Pack) (f : BitVec 8) : (p.raiseFlags f).ops = p.ops := rfl
@[simp] theorem Pack.raiseFlags_pend (p : Pack) (f : BitVec 8) : (p.raiseFlags f).pend = p.pend := rfl
@[simp] theorem Pack.raiseFlags_due (p : Pack) (f : BitVec 8) : (p.raiseFlags f).due = p.due := rfl
@[simp] theorem Pack.raiseFlags_priv (p : Pack) (f : BitVec 8) : (p.raiseFlags f).priv = p.priv := rfl
@[simp] theorem Pack.raiseFlags_atPpt (p : Pack) (f : BitVec 8) : (p.raiseFlags f).atPpt = p.atPpt := rfl

/-! The leases of lines that have left their home, row activations, remote requests, packets that wait for a link, and the boot ROM. -/

@[simp] theorem State.onPack_leases (s : State) (p : PackId) (f : Pack → Pack) : (s.onPack p f).leases = s.leases := by unfold State.onPack; split <;> rfl
@[simp] theorem State.onPack_acts (s : State) (p : PackId) (f : Pack → Pack) : (s.onPack p f).acts = s.acts := by unfold State.onPack; split <;> rfl
@[simp] theorem State.onPack_requests (s : State) (p : PackId) (f : Pack → Pack) : (s.onPack p f).requests = s.requests := by unfold State.onPack; split <;> rfl
@[simp] theorem State.onPack_outbound (s : State) (p : PackId) (f : Pack → Pack) : (s.onPack p f).outbound = s.outbound := by unfold State.onPack; split <;> rfl
@[simp] theorem State.onPack_boot (s : State) (p : PackId) (f : Pack → Pack) : (s.onPack p f).boot = s.boot := by unfold State.onPack; split <;> rfl
@[simp] theorem State.onTeam_leases (s : State) (t : TeamId) (f : Team → Team) : (s.onTeam t f).leases = s.leases := by unfold State.onTeam; split <;> rfl
@[simp] theorem State.onTeam_acts (s : State) (t : TeamId) (f : Team → Team) : (s.onTeam t f).acts = s.acts := by unfold State.onTeam; split <;> rfl
@[simp] theorem State.onTeam_requests (s : State) (t : TeamId) (f : Team → Team) : (s.onTeam t f).requests = s.requests := by unfold State.onTeam; split <;> rfl
@[simp] theorem State.onTeam_outbound (s : State) (t : TeamId) (f : Team → Team) : (s.onTeam t f).outbound = s.outbound := by unfold State.onTeam; split <;> rfl
@[simp] theorem State.onTeam_boot (s : State) (t : TeamId) (f : Team → Team) : (s.onTeam t f).boot = s.boot := by unfold State.onTeam; split <;> rfl
@[simp] theorem State.onPacks_leases (s : State) (f : Pack → Pack) : (s.onPacks f).leases = s.leases := rfl
@[simp] theorem State.onPacks_acts (s : State) (f : Pack → Pack) : (s.onPacks f).acts = s.acts := rfl
@[simp] theorem State.onPacks_requests (s : State) (f : Pack → Pack) : (s.onPacks f).requests = s.requests := rfl
@[simp] theorem State.onPacks_outbound (s : State) (f : Pack → Pack) : (s.onPacks f).outbound = s.outbound := rfl
@[simp] theorem State.onPacks_boot (s : State) (f : Pack → Pack) : (s.onPacks f).boot = s.boot := rfl
@[simp] theorem State.onGrid_leases (s : State) (g : Nat) (f : Grid → Grid) : (s.onGrid g f).leases = s.leases := rfl
@[simp] theorem State.onGrid_acts (s : State) (g : Nat) (f : Grid → Grid) : (s.onGrid g f).acts = s.acts := rfl
@[simp] theorem State.onGrid_requests (s : State) (g : Nat) (f : Grid → Grid) : (s.onGrid g f).requests = s.requests := rfl
@[simp] theorem State.onGrid_outbound (s : State) (g : Nat) (f : Grid → Grid) : (s.onGrid g f).outbound = s.outbound := rfl
@[simp] theorem State.onGrid_boot (s : State) (g : Nat) (f : Grid → Grid) : (s.onGrid g f).boot = s.boot := rfl
@[simp] theorem State.onCtx_leases (s : State) (c : Nat) (f : Ctx → Ctx) : (s.onCtx c f).leases = s.leases := rfl
@[simp] theorem State.onCtx_acts (s : State) (c : Nat) (f : Ctx → Ctx) : (s.onCtx c f).acts = s.acts := rfl
@[simp] theorem State.onCtx_requests (s : State) (c : Nat) (f : Ctx → Ctx) : (s.onCtx c f).requests = s.requests := rfl
@[simp] theorem State.onCtx_outbound (s : State) (c : Nat) (f : Ctx → Ctx) : (s.onCtx c f).outbound = s.outbound := rfl
@[simp] theorem State.onCtx_boot (s : State) (c : Nat) (f : Ctx → Ctx) : (s.onCtx c f).boot = s.boot := rfl
@[simp] theorem State.onCore_leases (s : State) (c : Nat) (f : CoreSt → CoreSt) : (s.onCore c f).leases = s.leases := rfl
@[simp] theorem State.onCore_acts (s : State) (c : Nat) (f : CoreSt → CoreSt) : (s.onCore c f).acts = s.acts := rfl
@[simp] theorem State.onCore_requests (s : State) (c : Nat) (f : CoreSt → CoreSt) : (s.onCore c f).requests = s.requests := rfl
@[simp] theorem State.onCore_outbound (s : State) (c : Nat) (f : CoreSt → CoreSt) : (s.onCore c f).outbound = s.outbound := rfl
@[simp] theorem State.onCore_boot (s : State) (c : Nat) (f : CoreSt → CoreSt) : (s.onCore c f).boot = s.boot := rfl
@[simp] theorem State.bumpCore_leases (s : State) (c n : Nat) : (s.bumpCore c n).leases = s.leases := rfl
@[simp] theorem State.bumpCore_acts (s : State) (c n : Nat) : (s.bumpCore c n).acts = s.acts := rfl
@[simp] theorem State.bumpCore_requests (s : State) (c n : Nat) : (s.bumpCore c n).requests = s.requests := rfl
@[simp] theorem State.bumpCore_outbound (s : State) (c n : Nat) : (s.bumpCore c n).outbound = s.outbound := rfl
@[simp] theorem State.bumpCore_boot (s : State) (c n : Nat) : (s.bumpCore c n).boot = s.boot := rfl
@[simp] theorem State.bump_leases (s : State) (n : Nat) : (s.bump n).leases = s.leases := rfl
@[simp] theorem State.bump_acts (s : State) (n : Nat) : (s.bump n).acts = s.acts := rfl
@[simp] theorem State.bump_requests (s : State) (n : Nat) : (s.bump n).requests = s.requests := rfl
@[simp] theorem State.bump_outbound (s : State) (n : Nat) : (s.bump n).outbound = s.outbound := rfl
@[simp] theorem State.bump_boot (s : State) (n : Nat) : (s.bump n).boot = s.boot := rfl
@[simp] theorem State.push_leases (s : State) (is : List Instr) : (s.push is).leases = s.leases := rfl
@[simp] theorem State.push_acts (s : State) (is : List Instr) : (s.push is).acts = s.acts := rfl
@[simp] theorem State.push_requests (s : State) (is : List Instr) : (s.push is).requests = s.requests := rfl
@[simp] theorem State.push_outbound (s : State) (is : List Instr) : (s.push is).outbound = s.outbound := rfl
@[simp] theorem State.push_boot (s : State) (is : List Instr) : (s.push is).boot = s.boot := rfl
@[simp] theorem State.emit_leases (s : State) (o : Out) : (s.emit o).leases = s.leases := rfl
@[simp] theorem State.emit_acts (s : State) (o : Out) : (s.emit o).acts = s.acts := rfl
@[simp] theorem State.emit_requests (s : State) (o : Out) : (s.emit o).requests = s.requests := rfl
@[simp] theorem State.emit_outbound (s : State) (o : Out) : (s.emit o).outbound = s.outbound := rfl
@[simp] theorem State.emit_boot (s : State) (o : Out) : (s.emit o).boot = s.boot := rfl
@[simp] theorem State.waitUntil_leases (s : State) (t : Nat) : (s.waitUntil t).leases = s.leases := rfl
@[simp] theorem State.waitUntil_acts (s : State) (t : Nat) : (s.waitUntil t).acts = s.acts := rfl
@[simp] theorem State.waitUntil_requests (s : State) (t : Nat) : (s.waitUntil t).requests = s.requests := rfl
@[simp] theorem State.waitUntil_outbound (s : State) (t : Nat) : (s.waitUntil t).outbound = s.outbound := rfl
@[simp] theorem State.waitUntil_boot (s : State) (t : Nat) : (s.waitUntil t).boot = s.boot := rfl
@[simp] theorem State.writeReport_leases (s : State) (r : Report) : (s.writeReport r).leases = s.leases := rfl
@[simp] theorem State.writeReport_acts (s : State) (r : Report) : (s.writeReport r).acts = s.acts := rfl
@[simp] theorem State.writeReport_requests (s : State) (r : Report) : (s.writeReport r).requests = s.requests := rfl
@[simp] theorem State.writeReport_outbound (s : State) (r : Report) : (s.writeReport r).outbound = s.outbound := rfl
@[simp] theorem State.writeReport_boot (s : State) (r : Report) : (s.writeReport r).boot = s.boot := rfl
@[simp] theorem State.countWord_leases (s : State) : (s.countWord).leases = s.leases := rfl
@[simp] theorem State.countWord_acts (s : State) : (s.countWord).acts = s.acts := rfl
@[simp] theorem State.countWord_requests (s : State) : (s.countWord).requests = s.requests := rfl
@[simp] theorem State.countWord_outbound (s : State) : (s.countWord).outbound = s.outbound := rfl
@[simp] theorem State.countWord_boot (s : State) : (s.countWord).boot = s.boot := rfl
@[simp] theorem State.stall_leases (s : State) : (s.stall).leases = s.leases := rfl
@[simp] theorem State.stall_acts (s : State) : (s.stall).acts = s.acts := rfl
@[simp] theorem State.stall_requests (s : State) : (s.stall).requests = s.requests := rfl
@[simp] theorem State.stall_outbound (s : State) : (s.stall).outbound = s.outbound := rfl
@[simp] theorem State.stall_boot (s : State) : (s.stall).boot = s.boot := rfl

/-! Read after write. -/
@[simp] theorem Pack.s_setS (p : Pack) (r i : Nat) (v : DWord) : (p.setS r v).s i = if i = r then v else p.s i := Tab.get_set ..
@[simp] theorem Pack.p_setP (p : Pack) (r i : Nat) (v : DWord) : (p.setP r v).p i = if i = r then v else p.p i := Tab.get_set ..
@[simp] theorem Pack.v_setV_same (p : Pack) (r i : Nat) (x : Lanes) : (p.setV r x).v i = if i = r then x else p.v i := Tab.get_set ..
@[simp] theorem Pack.x_setX (p : Pack) (l i : Nat) (b : BitVec 8) : (p.setX l b).x i = if i = l then b else p.x i := Tab.get_set ..
@[simp] theorem State.core_onCore (s : State) (c i : Nat) (f : CoreSt → CoreSt) :
    (s.onCore c f).core i = if i = c then f (s.core c) else s.core i := Tab.get_set ..
@[simp] theorem State.ctx_onCtx (s : State) (c i : Nat) (f : Ctx → Ctx) :
    (s.onCtx c f).ctx i = if i = c then f (s.ctx c) else s.ctx i := Tab.get_set ..

/-! What has been accepted, what is not acknowledged, the switches' copies, and what was sent before the latest reset. -/

@[simp] theorem State.onPack_accepted (s : State) (p : PackId) (f : Pack → Pack) : (s.onPack p f).accepted = s.accepted := by unfold State.onPack; split <;> rfl
@[simp] theorem State.onPack_unacked (s : State) (p : PackId) (f : Pack → Pack) : (s.onPack p f).unacked = s.unacked := by unfold State.onPack; split <;> rfl
@[simp] theorem State.onPack_copies (s : State) (p : PackId) (f : Pack → Pack) : (s.onPack p f).copies = s.copies := by unfold State.onPack; split <;> rfl
@[simp] theorem State.onPack_past (s : State) (p : PackId) (f : Pack → Pack) : (s.onPack p f).past = s.past := by unfold State.onPack; split <;> rfl
@[simp] theorem State.onTeam_accepted (s : State) (t : TeamId) (f : Team → Team) : (s.onTeam t f).accepted = s.accepted := by unfold State.onTeam; split <;> rfl
@[simp] theorem State.onTeam_unacked (s : State) (t : TeamId) (f : Team → Team) : (s.onTeam t f).unacked = s.unacked := by unfold State.onTeam; split <;> rfl
@[simp] theorem State.onTeam_copies (s : State) (t : TeamId) (f : Team → Team) : (s.onTeam t f).copies = s.copies := by unfold State.onTeam; split <;> rfl
@[simp] theorem State.onTeam_past (s : State) (t : TeamId) (f : Team → Team) : (s.onTeam t f).past = s.past := by unfold State.onTeam; split <;> rfl
@[simp] theorem State.onPacks_accepted (s : State) (f : Pack → Pack) : (s.onPacks f).accepted = s.accepted := rfl
@[simp] theorem State.onPacks_unacked (s : State) (f : Pack → Pack) : (s.onPacks f).unacked = s.unacked := rfl
@[simp] theorem State.onPacks_copies (s : State) (f : Pack → Pack) : (s.onPacks f).copies = s.copies := rfl
@[simp] theorem State.onPacks_past (s : State) (f : Pack → Pack) : (s.onPacks f).past = s.past := rfl
@[simp] theorem State.onGrid_accepted (s : State) (g : Nat) (f : Grid → Grid) : (s.onGrid g f).accepted = s.accepted := rfl
@[simp] theorem State.onGrid_unacked (s : State) (g : Nat) (f : Grid → Grid) : (s.onGrid g f).unacked = s.unacked := rfl
@[simp] theorem State.onGrid_copies (s : State) (g : Nat) (f : Grid → Grid) : (s.onGrid g f).copies = s.copies := rfl
@[simp] theorem State.onGrid_past (s : State) (g : Nat) (f : Grid → Grid) : (s.onGrid g f).past = s.past := rfl
@[simp] theorem State.onCtx_accepted (s : State) (c : Nat) (f : Ctx → Ctx) : (s.onCtx c f).accepted = s.accepted := rfl
@[simp] theorem State.onCtx_unacked (s : State) (c : Nat) (f : Ctx → Ctx) : (s.onCtx c f).unacked = s.unacked := rfl
@[simp] theorem State.onCtx_copies (s : State) (c : Nat) (f : Ctx → Ctx) : (s.onCtx c f).copies = s.copies := rfl
@[simp] theorem State.onCtx_past (s : State) (c : Nat) (f : Ctx → Ctx) : (s.onCtx c f).past = s.past := rfl
@[simp] theorem State.onCore_accepted (s : State) (c : Nat) (f : CoreSt → CoreSt) : (s.onCore c f).accepted = s.accepted := rfl
@[simp] theorem State.onCore_unacked (s : State) (c : Nat) (f : CoreSt → CoreSt) : (s.onCore c f).unacked = s.unacked := rfl
@[simp] theorem State.onCore_copies (s : State) (c : Nat) (f : CoreSt → CoreSt) : (s.onCore c f).copies = s.copies := rfl
@[simp] theorem State.onCore_past (s : State) (c : Nat) (f : CoreSt → CoreSt) : (s.onCore c f).past = s.past := rfl
@[simp] theorem State.bumpCore_accepted (s : State) (c n : Nat) : (s.bumpCore c n).accepted = s.accepted := rfl
@[simp] theorem State.bumpCore_unacked (s : State) (c n : Nat) : (s.bumpCore c n).unacked = s.unacked := rfl
@[simp] theorem State.bumpCore_copies (s : State) (c n : Nat) : (s.bumpCore c n).copies = s.copies := rfl
@[simp] theorem State.bumpCore_past (s : State) (c n : Nat) : (s.bumpCore c n).past = s.past := rfl
@[simp] theorem State.bump_accepted (s : State) (n : Nat) : (s.bump n).accepted = s.accepted := rfl
@[simp] theorem State.bump_unacked (s : State) (n : Nat) : (s.bump n).unacked = s.unacked := rfl
@[simp] theorem State.bump_copies (s : State) (n : Nat) : (s.bump n).copies = s.copies := rfl
@[simp] theorem State.bump_past (s : State) (n : Nat) : (s.bump n).past = s.past := rfl
@[simp] theorem State.push_accepted (s : State) (is : List Instr) : (s.push is).accepted = s.accepted := rfl
@[simp] theorem State.push_unacked (s : State) (is : List Instr) : (s.push is).unacked = s.unacked := rfl
@[simp] theorem State.push_copies (s : State) (is : List Instr) : (s.push is).copies = s.copies := rfl
@[simp] theorem State.push_past (s : State) (is : List Instr) : (s.push is).past = s.past := rfl
@[simp] theorem State.emit_accepted (s : State) (o : Out) : (s.emit o).accepted = s.accepted := rfl
@[simp] theorem State.emit_unacked (s : State) (o : Out) : (s.emit o).unacked = s.unacked := rfl
@[simp] theorem State.emit_copies (s : State) (o : Out) : (s.emit o).copies = s.copies := rfl
@[simp] theorem State.emit_past (s : State) (o : Out) : (s.emit o).past = s.past := rfl
@[simp] theorem State.waitUntil_accepted (s : State) (t : Nat) : (s.waitUntil t).accepted = s.accepted := rfl
@[simp] theorem State.waitUntil_unacked (s : State) (t : Nat) : (s.waitUntil t).unacked = s.unacked := rfl
@[simp] theorem State.waitUntil_copies (s : State) (t : Nat) : (s.waitUntil t).copies = s.copies := rfl
@[simp] theorem State.waitUntil_past (s : State) (t : Nat) : (s.waitUntil t).past = s.past := rfl
@[simp] theorem State.writeReport_accepted (s : State) (r : Report) : (s.writeReport r).accepted = s.accepted := rfl
@[simp] theorem State.writeReport_unacked (s : State) (r : Report) : (s.writeReport r).unacked = s.unacked := rfl
@[simp] theorem State.writeReport_copies (s : State) (r : Report) : (s.writeReport r).copies = s.copies := rfl
@[simp] theorem State.writeReport_past (s : State) (r : Report) : (s.writeReport r).past = s.past := rfl
@[simp] theorem State.countWord_accepted (s : State) : (s.countWord).accepted = s.accepted := rfl
@[simp] theorem State.countWord_unacked (s : State) : (s.countWord).unacked = s.unacked := rfl
@[simp] theorem State.countWord_copies (s : State) : (s.countWord).copies = s.copies := rfl
@[simp] theorem State.countWord_past (s : State) : (s.countWord).past = s.past := rfl
@[simp] theorem State.stall_accepted (s : State) : (s.stall).accepted = s.accepted := rfl
@[simp] theorem State.stall_unacked (s : State) : (s.stall).unacked = s.unacked := rfl
@[simp] theorem State.stall_copies (s : State) : (s.stall).copies = s.copies := rfl
@[simp] theorem State.stall_past (s : State) : (s.stall).past = s.past := rfl

end Sys2Proof.Machine
end

