-- ==== Sys2Proof/Laws/Fabric.lean ====
section
/-! SUPPORT. What the shared operations of the fabric can do: group slots and collectives are read back as they were written, a packet
goes out or waits, an agreement that has been delivered stands. -/

namespace Sys2Proof.Machine

/-! ## Group slots -/

@[simp] theorem State.group_onGroup_same (s : State) (c g : Nat) (f : Group → Group) : (s.onGroup c g f).group c g = f (s.group c g) := by
  simp [State.onGroup, State.group, Tab.get_set]

theorem State.group_onGroup_other (s : State) (c g d k : Nat) (f : Group → Group) (h : d ≠ c ∨ k ≠ g) :
    (s.onGroup c g f).group d k = s.group d k := by
  rcases h with h | h
  · simp [State.onGroup, State.group, h]
  · by_cases e : d = c
    · subst e; simp [State.onGroup, State.group, Tab.get_set, h]
    · simp [State.onGroup, State.group, e]

@[simp] theorem State.onGroup_requests (s : State) (c g : Nat) (f : Group → Group) : (s.onGroup c g f).requests = s.requests := rfl
@[simp] theorem State.onGroup_unacked (s : State) (c g : Nat) (f : Group → Group) : (s.onGroup c g f).unacked = s.unacked := rfl
@[simp] theorem State.onGroup_gtc (s : State) (c g : Nat) (f : Group → Group) : (s.onGroup c g f).gtc = s.gtc := rfl
@[simp] theorem State.onGroup_hbm (s : State) (c g : Nat) (f : Group → Group) : (s.onGroup c g f).hbm = s.hbm := rfl

/-- A collective that an update leaves under its number is found updated. -/
theorem State.coll_onColl (s : State) (c g n : Nat) (f : Coll → Coll) (k : Coll) (h : s.coll? c g n = some k) (hf : ∀ k, (f k).seq = k.seq) :
    (s.onColl c g n f).coll? c g n = some (f k) := by
  simp only [State.coll?, State.onColl, State.group_onGroup_same] at h ⊢
  exact find_replaceFirst _ f (fun a ha => by simpa [hf] using ha) _ _ h

/-! ## Packets -/

/-- A packet goes out, or waits for a lane (R409); nothing else changes. -/
theorem State.inject_cases (s : State) (p : Packet) :
    s.inject p = s.emit (.packet p) ∨ s.inject p = { s with outbound := s.outbound ++ [p] } := by
  unfold State.inject; split
  · exact .inl rfl
  · exact .inr rfl

/-- So it is of packets sent one after another. -/
theorem State.inject_foldl (f : State → Nat → Packet) (l : List Nat) (s : State) :
    ∃ o b, l.foldl (fun s d => s.inject (f s d)) s = { s with out := o, outbound := b } := by
  induction l generalizing s with
  | nil => exact ⟨s.out, s.outbound, rfl⟩
  | cons a l ih =>
    obtain ⟨o, b, h⟩ := ih (s.inject (f s a))
    rw [List.foldl_cons, h]
    refine ⟨o, b, ?_⟩
    rcases s.inject_cases (f s a) with e | e
    · rw [e]; rfl
    · rw [e]

/-! ## Agreement (R424) -/

/-- A report may be added at the end of what an agreement holds, and a decision delivered stays. -/
theorem Agreement.record_keeps (a : Agreement) (alone : Bool) (n rank : Nat) (rep : UnitReport) :
    ((a.record alone n rank rep).reports = a.reports ∨ ∃ x, (a.record alone n rank rep).reports = a.reports ++ [(rep.unit, rank, x)]) ∧
    (∀ v, a.verdict = some v → (a.record alone n rank rep).verdict = some v) := by
  simp only [Agreement.record]
  generalize hb : (if rep.form = [] || _ then a else _) = b
  generalize (if rep.form ≠ [] && _ then 4 else rep.rsn) = x
  have hr : b.reports = a.reports := by rw [← hb]; split <;> rfl
  have hv : b.verdict = a.verdict := by rw [← hb]; split <;> rfl
  refine ⟨?_, fun v h => by simp [hv, h]⟩
  split
  · exact .inl hr
  · right
    split
    · exact ⟨x, by simp only [hr]⟩
    · split <;> exact ⟨x, by simp only [hr]⟩

/-- A decision that the fallback or the deadline makes counts only where none stands. -/
theorem Agreement.decide_verdict (a : Agreement) (v : Nat × Nat × Nat) :
    (a.decide v).verdict = match a.verdict with
      | some w => some w
      | none => some v := by
  unfold Agreement.decide; cases a.verdict <;> rfl

end Sys2Proof.Machine
end

