-- ==== Sys2Proof/Laws/Fields.lean ====
section
/-! SUPPORT. The fields of a word that is written as its fields joined, and the table that the major opcode selects. -/

namespace Sys2Proof.Laws

theorem fld_hi (x : BitVec n) (y : BitVec m) (lo k : Nat) (h : m ≤ lo) : @BitVec.extractLsb' (no_index (n+m)) lo k (x ++ y) = x.extractLsb' (lo - m) k := by
  apply BitVec.eq_of_getLsbD_eq; intro i hi
  have : ¬ (lo + i < m) := by omega
  simp [BitVec.getLsbD_append, hi, this, Nat.sub_add_comm h]
theorem fld_lo (x : BitVec n) (y : BitVec m) (lo k : Nat) (h : lo + k ≤ m) : @BitVec.extractLsb' (no_index (n+m)) lo k (x ++ y) = y.extractLsb' lo k := by
  apply BitVec.eq_of_getLsbD_eq; intro i hi
  have : (lo + i < m) := by omega
  simp [BitVec.getLsbD_append, hi, this]
theorem bit_hi (x : BitVec n) (y : BitVec m) (k : Nat) (h : m ≤ k) : @BitVec.getLsbD (no_index (n+m)) (x ++ y) k = x.getLsbD (k - m) := by
  have : ¬ (k < m) := by omega
  simp [BitVec.getLsbD_append, this]
theorem bit_lo (x : BitVec n) (y : BitVec m) (k : Nat) (h : k < m) : @BitVec.getLsbD (no_index (n+m)) (x ++ y) k = y.getLsbD k := by
  simp [BitVec.getLsbD_append, h]
theorem fld_all (x : BitVec n) : x.extractLsb' 0 n = x := by simp
theorem bit_ofBool (b : Bool) : (BitVec.ofBool b).getLsbD 0 = b := by cases b <;> rfl
theorem fld_nat (x : BitVec n) (y : BitVec m) (k : Nat) (h : m < k) :
    (@BitVec.extractLsb' (no_index (n+m)) 0 k (x ++ y)).toNat = (x.extractLsb' 0 (k - m)).toNat * 2 ^ m + y.toNat := by
  obtain ⟨j, rfl⟩ := Nat.exists_eq_add_of_lt h
  have e : m + j + 1 - m = j + 1 := by omega
  have hy := y.isLt
  simp only [BitVec.extractLsb'_toNat, BitVec.toNat_append, Nat.shiftRight_zero, e]
  rw [Nat.shiftLeft_eq, Nat.mul_comm, ← Nat.two_pow_add_eq_or_of_lt hy, Nat.add_assoc m j 1, Nat.pow_add, Nat.mod_mul]
  rw [Nat.mul_add_mod, Nat.mul_add_div (Nat.two_pow_pos m), Nat.mod_eq_of_lt hy, Nat.div_eq_of_lt hy]
  rw [Nat.mul_comm, Nat.add_zero, Nat.add_comm]
theorem fld_pred (x : BitVec n) (b : BitVec 5) :
    @BitVec.extractLsb' (no_index (n + 1 + 5)) 0 6 (x ++ 0#1 ++ b) = (0#1 ++ b : BitVec 6) := by
  apply BitVec.eq_of_getLsbD_eq; intro i hi
  rw [BitVec.getLsbD_extractLsb', BitVec.getLsbD_append, BitVec.getLsbD_append, BitVec.getLsbD_append]
  rcases Nat.lt_or_ge i 5 with h | h
  · simp only [Nat.zero_add, hi, h, decide_true, Bool.true_and, if_true]
  · have e : i = 5 := by omega
    subst e; rfl

theorem major00 (w : Word) (h : (fld w 25 6).toNat = 0) : decode w = decode00 w := by unfold decode; rw [h]; rfl
theorem major01 (w : Word) (h : (fld w 25 6).toNat = 1) : decode w = decode01 w := by unfold decode; rw [h]; rfl
theorem major02 (w : Word) (h : (fld w 25 6).toNat = 2) : decode w = decode02 w := by unfold decode; rw [h]; rfl
theorem major03 (w : Word) (h : (fld w 25 6).toNat = 3) : decode w = decode03 w := by unfold decode; rw [h]; rfl
theorem major04 (w : Word) (h : (fld w 25 6).toNat = 4) : decode w = decode04 w := by unfold decode; rw [h]; rfl
theorem major05 (w : Word) (h : (fld w 25 6).toNat = 5) : decode w = decode05 w := by unfold decode; rw [h]; rfl
theorem major06 (w : Word) (h : (fld w 25 6).toNat = 6) : decode w = decode06 w := by unfold decode; rw [h]; rfl
theorem major07 (w : Word) (h : (fld w 25 6).toNat = 7) : decode w = decode07 w := by unfold decode; rw [h]; rfl
theorem major08 (w : Word) (h : (fld w 25 6).toNat = 8) : decode w = decode08 w := by unfold decode; rw [h]; rfl
theorem major09 (w : Word) (h : (fld w 25 6).toNat = 9) : decode w = decode09 w := by unfold decode; rw [h]; rfl
theorem major0A (w : Word) (h : (fld w 25 6).toNat = 10) : decode w = decode0A w := by unfold decode; rw [h]; rfl
theorem major0B (w : Word) (h : (fld w 25 6).toNat = 11) : decode w = decode0B w := by unfold decode; rw [h]; rfl
theorem major0C (w : Word) (h : (fld w 25 6).toNat = 12) : decode w = decode0C w := by unfold decode; rw [h]; rfl
theorem major0D (w : Word) (h : (fld w 25 6).toNat = 13) : decode w = decode0D w := by unfold decode; rw [h]; rfl
theorem major10 (w : Word) (h : (fld w 25 6).toNat = 16) : decode w = decode10 w := by unfold decode; rw [h]; rfl
theorem major11 (w : Word) (h : (fld w 25 6).toNat = 17) : decode w = decode11 w := by unfold decode; rw [h]; rfl
theorem major12 (w : Word) (h : (fld w 25 6).toNat = 18) : decode w = decode12 w := by unfold decode; rw [h]; rfl
theorem major13 (w : Word) (h : (fld w 25 6).toNat = 19) : decode w = decode13 w := by unfold decode; rw [h]; rfl
theorem major18 (w : Word) (h : (fld w 25 6).toNat = 24) : decode w = decode18 w := by unfold decode; rw [h]; rfl
theorem major19 (w : Word) (h : (fld w 25 6).toNat = 25) : decode w = decode19 w := by unfold decode; rw [h]; rfl
theorem major1A (w : Word) (h : (fld w 25 6).toNat = 26) : decode w = decode1A w := by unfold decode; rw [h]; rfl
theorem major1B (w : Word) (h : (fld w 25 6).toNat = 27) : decode w = decode1B w := by unfold decode; rw [h]; rfl
theorem major1C (w : Word) (h : (fld w 25 6).toNat = 28) : decode w = decode1C w := by unfold decode; rw [h]; rfl
theorem major1D (w : Word) (h : (fld w 25 6).toNat = 29) : decode w = decode1D w := by unfold decode; rw [h]; rfl
theorem major1E (w : Word) (h : (fld w 25 6).toNat = 30) : decode w = decode1E w := by unfold decode; rw [h]; rfl
theorem major1F (w : Word) (h : (fld w 25 6).toNat = 31) : decode w = decode1F w := by unfold decode; rw [h]; rfl
theorem major22 (w : Word) (h : (fld w 25 6).toNat = 34) : decode w = decode22 w := by unfold decode; rw [h]; rfl
theorem major23 (w : Word) (h : (fld w 25 6).toNat = 35) : decode w = decode23 w := by unfold decode; rw [h]; rfl
theorem major24 (w : Word) (h : (fld w 25 6).toNat = 36) : decode w = decode24 w := by unfold decode; rw [h]; rfl
theorem major26 (w : Word) (h : (fld w 25 6).toNat = 38) : decode w = decode26 w := by unfold decode; rw [h]; rfl
theorem major27 (w : Word) (h : (fld w 25 6).toNat = 39) : decode w = decode27 w := by unfold decode; rw [h]; rfl
theorem major28 (w : Word) (h : (fld w 25 6).toNat = 40) : decode w = decode28 w := by unfold decode; rw [h]; rfl
theorem major29 (w : Word) (h : (fld w 25 6).toNat = 41) : decode w = decode29 w := by unfold decode; rw [h]; rfl
theorem major2A (w : Word) (h : (fld w 25 6).toNat = 42) : decode w = decode2A w := by unfold decode; rw [h]; rfl
theorem major2B (w : Word) (h : (fld w 25 6).toNat = 43) : decode w = decode2B w := by unfold decode; rw [h]; rfl
theorem major2C (w : Word) (h : (fld w 25 6).toNat = 44) : decode w = decode2C w := by unfold decode; rw [h]; rfl
theorem major2D (w : Word) (h : (fld w 25 6).toNat = 45) : decode w = decode2D w := by unfold decode; rw [h]; rfl
theorem major30 (w : Word) (h : (fld w 25 6).toNat = 48) : decode w = decode30 w := by unfold decode; rw [h]; rfl
theorem major31 (w : Word) (h : (fld w 25 6).toNat = 49) : decode w = decode31 w := by unfold decode; rw [h]; rfl
theorem major32 (w : Word) (h : (fld w 25 6).toNat = 50) : decode w = decode32 w := by unfold decode; rw [h]; rfl
theorem major34 (w : Word) (h : (fld w 25 6).toNat = 52) : decode w = decode34 w := by unfold decode; rw [h]; rfl
theorem major38 (w : Word) (h : (fld w 25 6).toNat = 56) : decode w = decode38 w := by unfold decode; rw [h]; rfl
theorem major3C (w : Word) (h : (fld w 25 6).toNat = 60) : decode w = decode3C w := by unfold decode; rw [h]; rfl
theorem major3D (w : Word) (h : (fld w 25 6).toNat = 61) : decode w = decode3D w := by unfold decode; rw [h]; rfl

end Sys2Proof.Laws
end

