-- ==== Sys2Proof/Laws/Memory.lean ====
section
/-! SUPPORT. Physical memory: every operation that writes it keeps its canonical form. -/

namespace Sys2Proof.Machine

/-- Writing bytes keeps the canonical form. -/
theorem memWrite_wf (bs : List Byte) : ∀ (m : List Host.Cell) a, Memory.wf m = true → Memory.wf (memWrite m a bs) = true := by
  induction bs with
  | nil => intro m a h; exact h
  | cons b bs ih => intro m a h; exact ih _ _ (Tab.wf_set 0 m a b h)

/-- So does writing bytes each at its own address. -/
theorem foldl_set_wf (bytes : List (Nat × Byte)) (a : Nat) :
    ∀ m : List Host.Cell, Memory.wf m = true → Memory.wf (bytes.foldl (fun m e => Tab.set 0 m (a + e.1) e.2) m) = true := by
  induction bytes with
  | nil => intro m h; exact h
  | cons e l ih => intro m h; exact ih _ (Tab.wf_set 0 m _ _ h)

theorem setPteBit_wf (s : State) (pte b : Nat) (h : Memory.wf s.hbm = true) : Memory.wf (s.setPteBit pte b).hbm = true :=
  memWrite_wf _ _ _ h

theorem channelStore_wf (s : State) (p : Nat) (bs : List (Nat × Byte)) (h : Memory.wf s.hbm = true) :
    Memory.wf (s.channelStore p bs).hbm = true := foldl_set_wf _ _ _ h

theorem scrub_wf (s : State) (a : Nat) (h : Memory.wf s.hbm = true) : Memory.wf (s.scrub a).hbm = true := by
  unfold State.scrub
  split
  · dsimp only; apply memWrite_wf; exact h
  · exact h

theorem writeReport_wf (s : State) (r : Report) (h : Memory.wf s.hbm = true) : Memory.wf (s.writeReport r).hbm = true :=
  memWrite_wf _ _ _ h

theorem post_wf (s : State) (r : Report) (h : Memory.wf s.hbm = true) : Memory.wf (s.post r).hbm = true := by
  unfold State.post
  dsimp only
  split
  · exact writeReport_wf _ _ h
  · split
    · exact h
    · exact h

/-- A choice among entries uses up a free value only. -/
theorem pickFree_hbm {α : Type} (s : State) (l : List α) : (s.pickFree l).2.hbm = s.hbm := rfl

theorem tlbRoom_hbm (s : State) (d : Nat) : (s.tlbRoom d).hbm = s.hbm := by
  unfold State.tlbRoom
  split
  · rfl
  · dsimp only
    split
    · rfl
    · split <;> rename_i e <;> exact congrArg (fun q => State.hbm q.2) e.symm

theorem endBackoff_hbm (s : State) (b : Nat) : (s.endBackoff b).hbm = s.hbm := by
  unfold State.endBackoff
  split
  · rfl
  · split
    · rfl
    · dsimp only; split <;> rfl

theorem awaitBank_hbm (s : State) (b : Nat) : (s.awaitBank b).hbm = s.hbm := by
  unfold State.awaitBank
  refine List.foldlRecOn _ _ (motive := fun t : State => t.hbm = s.hbm) rfl fun t ht _ _ => ?_
  split
  · exact ht
  · rw [endBackoff_hbm]; exact ht

theorem activate_hbm (s : State) (p : Nat) : (s.activate p).hbm = s.hbm := by
  unfold State.activate
  dsimp only
  rw [apply_ite State.hbm, apply_ite State.hbm]
  simp only [State.push, awaitBank_hbm, ite_self]

theorem walkRows_hbm (s : State) (c va : Nat) : (s.walkRows c va).hbm = s.hbm := by
  unfold State.walkRows
  refine List.foldlRecOn _ _ (motive := fun t : State => t.hbm = s.hbm) rfl fun t ht _ _ => ?_
  rw [activate_hbm]; exact ht

theorem translate_wf (s : State) (c va : Nat) (h : Memory.wf s.hbm = true) : Memory.wf (s.translate c va).2.hbm = true := by
  unfold State.translate
  dsimp only
  split
  · split
    · exact h
    · dsimp only [State.setPteBit]; exact memWrite_wf _ _ _ h
  · have hw := (walkRows_hbm s c va).symm ▸ h
    split
    · exact hw
    · dsimp only
      rw [tlbRoom_hbm]
      split
      · exact hw
      · exact setPteBit_wf _ _ _ hw

theorem logDirty_wf (s : State) (x : Xlate) (h : Memory.wf s.hbm = true) : Memory.wf (s.logDirty x).hbm = true := by
  have hw : ∀ a bs, Memory.wf (memWrite s.hbm a bs) = true := fun a bs => memWrite_wf bs _ a h
  unfold State.logDirty
  by_cases h1 : (!(s.ctx x.ctx).dlogEn || (s.ctx x.ctx).dlogOvf) = true
  · rw [if_pos h1]; exact h
  · rw [if_neg h1]
    by_cases h2 : ((s.ctx x.ctx).dlogP - (s.ctx x.ctx).dlogC).toNat = (s.ctx x.ctx).dlogEntries
    · rw [if_pos h2]; exact h
    · rw [if_neg h2]; show Memory.wf (memWrite s.hbm _ _) = true; exact hw _ _

theorem setDirty_wf (s : State) (x : Xlate) (h : Memory.wf s.hbm = true) : Memory.wf (s.setDirty x).hbm = true := by
  unfold State.setDirty
  split
  · exact h
  · refine logDirty_wf _ _ ?_
    show Memory.wf (s.setPteBit x.pte 12).hbm = true
    exact setPteBit_wf _ _ _ h

theorem dirtyPage_wf (s : State) (c va : Nat) (h : Memory.wf s.hbm = true) : Memory.wf (s.dirtyPage c va).hbm = true := by
  have ht := translate_wf s c va h
  unfold State.dirtyPage
  split
  · rename_i x u e; rw [e] at ht; exact setDirty_wf _ _ ht
  · rename_i u e; rw [e] at ht; exact ht

/-- Letting time pass, until whatever ticks a list gives, leaves memory as it was. -/
theorem foldl_wait_hbm {α : Type} (f : α → Nat) (l : List α) : ∀ s : State, (l.foldl (fun s w => s.waitUntil (f w)) s).hbm = s.hbm := by
  induction l with
  | nil => intro s; rfl
  | cons a l ih => intro s; exact ih _

theorem findLine_wf (s : State) (c l : Nat) (h : Memory.wf s.hbm = true) : Memory.wf (s.findLine c l).2.hbm = true := by
  have ht := translate_wf s c (128 * l) h
  unfold State.findLine
  split
  · exact h
  · split
    · rename_i u e; rw [e] at ht; exact ht
    · rename_i x u e
      rw [e] at ht
      split
      · exact ht
      · dsimp only; split
        · rw [activate_hbm]; exact ht
        · rw [activate_hbm]; exact ht

theorem writeBack_wf (s : State) (x : HomeLine) (h : Memory.wf s.hbm = true) : Memory.wf (s.writeBack x).hbm = true := by
  have hp : Memory.wf (x.pend.foldl (fun (s : State) w => s.waitUntil w.wct) s).hbm = true := by rw [foldl_wait_hbm]; exact h
  unfold State.writeBack
  generalize x.pend.foldl (fun (s : State) w => s.waitUntil w.wct) s = u at hp
  dsimp only
  generalize ((x.settle u.gtc).dirty && (u.sameFrame (x.settle u.gtc).ctx (128 * (x.settle u.gtc).line) (x.settle u.gtc).phys).isSome) = b
  have ht : Memory.wf (if b then (u.translate (x.settle u.gtc).ctx (128 * (x.settle u.gtc).line)).2 else u).hbm = true := by
    split
    · exact translate_wf _ _ _ hp
    · exact hp
  generalize (if b then (u.translate (x.settle u.gtc).ctx (128 * (x.settle u.gtc).line)).2 else u) = v at ht
  generalize (if b then v.refreshed (x.settle u.gtc) else x.settle u.gtc) = k
  split
  · refine memWrite_wf _ _ _ ?_
    rw [activate_hbm]
    exact ht
  · exact ht

theorem homeRoom_wf (s : State) (c l : Nat) (h : Memory.wf s.hbm = true) : Memory.wf (s.homeRoom c l).hbm = true := by
  unfold State.homeRoom
  split
  · exact h
  · dsimp only
    split
    · exact h
    · split <;> rename_i u e <;> have hu := congrArg (fun q => State.hbm q.2) e
      · exact writeBack_wf _ _ (by rw [← hu]; exact h)
      · rw [← hu]; exact h

theorem putHome_wf (s : State) (x : HomeLine) (h : Memory.wf s.hbm = true) : Memory.wf (s.putHome x).hbm = true :=
  homeRoom_wf _ _ _ h

theorem homeWrite_wf (s : State) (x : HomeLine) (w : PendWrite) (h : Memory.wf s.hbm = true) :
    Memory.wf (s.homeWrite x w).2.hbm = true := by
  unfold State.homeWrite
  dsimp only
  refine putHome_wf _ _ ?_
  split
  · exact dirtyPage_wf _ _ _ h
  · exact h

theorem homeStore_wf (s : State) (x : HomeLine) (bs : List (Nat × Byte)) (lift : Bool) (who : Option PackId)
    (h : Memory.wf s.hbm = true) : Memory.wf (s.homeStore x bs lift who).2.hbm = true := homeWrite_wf _ _ _ h

end Sys2Proof.Machine
end

