-- ==== Sys2Proof/Laws/PerInstr.lean ====
section
/-! SUPPORT. Statements about every instruction, one lemma per constructor: decoding the word of a well-formed instruction
gives it back (R39-R59). -/

set_option linter.all false
set_option linter.unusedSimpArgs false

namespace Sys2Proof.Laws.Encoding

/-- A well-formed instruction word decodes to the instruction that it encodes. -/
def Statement (i : Instr) : Prop := isWord i = true → wellFormed i = true → decode (encode i) = .ok i

theorem sadd (e : Bool) (d : BitVec 6) (a : BitVec 6) (b : BitVec 6) : Statement (.sadd e d a b) := by
  intro _ _
  change decode (BitVec.ofBool e ++ 0b000000#6 ++ d ++ a ++ b ++ 0b0000001#7) = _
  generalize hq : BitVec.ofBool e ++ 0b000000#6 ++ d ++ a ++ b ++ 0b0000001#7 = q
  have h1 : (fld q 25 6).toNat = 0 := by
    subst hq; (try simp (disch := decide) only [fld, fld_hi, fld_lo, Nat.reduceSub]); rfl
  have h2 : (fld q 0 7).toNat = 1 := by
    subst hq; (try simp (disch := decide) only [fld, fld_hi, fld_lo, Nat.reduceSub]); rfl
  rw [major00 q h1, decode00, h2]
  subst hq
  try simp (disch := decide) only [fld, bit, fld_hi, fld_lo, fld_all, bit_hi, bit_lo, bit_ofBool, Nat.reduceSub, fld_nat]
  all_goals first | rfl | (simp_all [checked, control, bit]; done) | grind [checked, control, bit]
theorem ssub (e : Bool) (d : BitVec 6) (a : BitVec 6) (b : BitVec 6) : Statement (.ssub e d a b) := by
  intro _ _
  change decode (BitVec.ofBool e ++ 0b000000#6 ++ d ++ a ++ b ++ 0b0000010#7) = _
  generalize hq : BitVec.ofBool e ++ 0b000000#6 ++ d ++ a ++ b ++ 0b0000010#7 = q
  have h1 : (fld q 25 6).toNat = 0 := by
    subst hq; (try simp (disch := decide) only [fld, fld_hi, fld_lo, Nat.reduceSub]); rfl
  have h2 : (fld q 0 7).toNat = 2 := by
    subst hq; (try simp (disch := decide) only [fld, fld_hi, fld_lo, Nat.reduceSub]); rfl
  rw [major00 q h1, decode00, h2]
  subst hq
  try simp (disch := decide) only [fld, bit, fld_hi, fld_lo, fld_all, bit_hi, bit_lo, bit_ofBool, Nat.reduceSub, fld_nat]
  all_goals first | rfl | (simp_all [checked, control, bit]; done) | grind [checked, control, bit]
theorem smul (e : Bool) (d : BitVec 6) (a : BitVec 6) (b : BitVec 6) : Statement (.smul e d a b) := by
  intro _ _
  change decode (BitVec.ofBool e ++ 0b000000#6 ++ d ++ a ++ b ++ 0b0000011#7) = _
  generalize hq : BitVec.ofBool e ++ 0b000000#6 ++ d ++ a ++ b ++ 0b0000011#7 = q
  have h1 : (fld q 25 6).toNat = 0 := by
    subst hq; (try simp (disch := decide) only [fld, fld_hi, fld_lo, Nat.reduceSub]); rfl
  have h2 : (fld q 0 7).toNat = 3 := by
    subst hq; (try simp (disch := decide) only [fld, fld_hi, fld_lo, Nat.reduceSub]); rfl
  rw [major00 q h1, decode00, h2]
  subst hq
  try simp (disch := decide) only [fld, bit, fld_hi, fld_lo, fld_all, bit_hi, bit_lo, bit_ofBool, Nat.reduceSub, fld_nat]
  all_goals first | rfl | (simp_all [checked, control, bit]; done) | grind [checked, control, bit]
theorem smulh (e : Bool) (d : BitVec 6) (a : BitVec 6) (b : BitVec 6) : Statement (.smulh e d a b) := by
  intro _ _
  change decode (BitVec.ofBool e ++ 0b000000#6 ++ d ++ a ++ b ++ 0b0000100#7) = _
  generalize hq : BitVec.ofBool e ++ 0b000000#6 ++ d ++ a ++ b ++ 0b0000100#7 = q
  have h1 : (fld q 25 6).toNat = 0 := by
    subst hq; (try simp (disch := decide) only [fld, fld_hi, fld_lo, Nat.reduceSub]); rfl
  have h2 : (fld q 0 7).toNat = 4 := by
    subst hq; (try simp (disch := decide) only [fld, fld_hi, fld_lo, Nat.reduceSub]); rfl
  rw [major00 q h1, decode00, h2]
  subst hq
  try simp (disch := decide) only [fld, bit, fld_hi, fld_lo, fld_all, bit_hi, bit_lo, bit_ofBool, Nat.reduceSub, fld_nat]
  all_goals first | rfl | (simp_all [checked, control, bit]; done) | grind [checked, control, bit]
theorem sand (e : Bool) (d : BitVec 6) (a : BitVec 6) (b : BitVec 6) : Statement (.sand e d a b) := by
  intro _ _
  change decode (BitVec.ofBool e ++ 0b000000#6 ++ d ++ a ++ b ++ 0b0000101#7) = _
  generalize hq : BitVec.ofBool e ++ 0b000000#6 ++ d ++ a ++ b ++ 0b0000101#7 = q
  have h1 : (fld q 25 6).toNat = 0 := by
    subst hq; (try simp (disch := decide) only [fld, fld_hi, fld_lo, Nat.reduceSub]); rfl
  have h2 : (fld q 0 7).toNat = 5 := by
    subst hq; (try simp (disch := decide) only [fld, fld_hi, fld_lo, Nat.reduceSub]); rfl
  rw [major00 q h1, decode00, h2]
  subst hq
  try simp (disch := decide) only [fld, bit, fld_hi, fld_lo, fld_all, bit_hi, bit_lo, bit_ofBool, Nat.reduceSub, fld_nat]
  all_goals first | rfl | (simp_all [checked, control, bit]; done) | grind [checked, control, bit]
theorem sor (e : Bool) (d : BitVec 6) (a : BitVec 6) (b : BitVec 6) : Statement (.sor e d a b) := by
  intro _ _
  change decode (BitVec.ofBool e ++ 0b000000#6 ++ d ++ a ++ b ++ 0b0000110#7) = _
  generalize hq : BitVec.ofBool e ++ 0b000000#6 ++ d ++ a ++ b ++ 0b0000110#7 = q
  have h1 : (fld q 25 6).toNat = 0 := by
    subst hq; (try simp (disch := decide) only [fld, fld_hi, fld_lo, Nat.reduceSub]); rfl
  have h2 : (fld q 0 7).toNat = 6 := by
    subst hq; (try simp (disch := decide) only [fld, fld_hi, fld_lo, Nat.reduceSub]); rfl
  rw [major00 q h1, decode00, h2]
  subst hq
  try simp (disch := decide) only [fld, bit, fld_hi, fld_lo, fld_all, bit_hi, bit_lo, bit_ofBool, Nat.reduceSub, fld_nat]
  all_goals first | rfl | (simp_all [checked, control, bit]; done) | grind [checked, control, bit]
theorem sxor (e : Bool) (d : BitVec 6) (a : BitVec 6) (b : BitVec 6) : Statement (.sxor e d a b) := by
  intro _ _
  change decode (BitVec.ofBool e ++ 0b000000#6 ++ d ++ a ++ b ++ 0b0000111#7) = _
  generalize hq : BitVec.ofBool e ++ 0b000000#6 ++ d ++ a ++ b ++ 0b0000111#7 = q
  have h1 : (fld q 25 6).toNat = 0 := by
    subst hq; (try simp (disch := decide) only [fld, fld_hi, fld_lo, Nat.reduceSub]); rfl
  have h2 : (fld q 0 7).toNat = 7 := by
    subst hq; (try simp (disch := decide) only [fld, fld_hi, fld_lo, Nat.reduceSub]); rfl
  rw [major00 q h1, decode00, h2]
  subst hq
  try simp (disch := decide) only [fld, bit, fld_hi, fld_lo, fld_all, bit_hi, bit_lo, bit_ofBool, Nat.reduceSub, fld_nat]
  all_goals first | rfl | (simp_all [checked, control, bit]; done) | grind [checked, control, bit]
theorem sandn (e : Bool) (d : BitVec 6) (a : BitVec 6) (b : BitVec 6) : Statement (.sandn e d a b) := by
  intro _ _
  change decode (BitVec.ofBool e ++ 0b000000#6 ++ d ++ a ++ b ++ 0b0001000#7) = _
  generalize hq : BitVec.ofBool e ++ 0b000000#6 ++ d ++ a ++ b ++ 0b0001000#7 = q
  have h1 : (fld q 25 6).toNat = 0 := by
    subst hq; (try simp (disch := decide) only [fld, fld_hi, fld_lo, Nat.reduceSub]); rfl
  have h2 : (fld q 0 7).toNat = 8 := by
    subst hq; (try simp (disch := decide) only [fld, fld_hi, fld_lo, Nat.reduceSub]); rfl
  rw [major00 q h1, decode00, h2]
  subst hq
  try simp (disch := decide) only [fld, bit, fld_hi, fld_lo, fld_all, bit_hi, bit_lo, bit_ofBool, Nat.reduceSub, fld_nat]
  all_goals first | rfl | (simp_all [checked, control, bit]; done) | grind [checked, control, bit]
theorem sshl (e : Bool) (d : BitVec 6) (a : BitVec 6) (b : BitVec 6) : Statement (.sshl e d a b) := by
  intro _ _
  change decode (BitVec.ofBool e ++ 0b000000#6 ++ d ++ a ++ b ++ 0b0001001#7) = _
  generalize hq : BitVec.ofBool e ++ 0b000000#6 ++ d ++ a ++ b ++ 0b0001001#7 = q
  have h1 : (fld q 25 6).toNat = 0 := by
    subst hq; (try simp (disch := decide) only [fld, fld_hi, fld_lo, Nat.reduceSub]); rfl
  have h2 : (fld q 0 7).toNat = 9 := by
    subst hq; (try simp (disch := decide) only [fld, fld_hi, fld_lo, Nat.reduceSub]); rfl
  rw [major00 q h1, decode00, h2]
  subst hq
  try simp (disch := decide) only [fld, bit, fld_hi, fld_lo, fld_all, bit_hi, bit_lo, bit_ofBool, Nat.reduceSub, fld_nat]
  all_goals first | rfl | (simp_all [checked, control, bit]; done) | grind [checked, control, bit]
theorem sshr (e : Bool) (d : BitVec 6) (a : BitVec 6) (b : BitVec 6) : Statement (.sshr e d a b) := by
  intro _ _
  change decode (BitVec.ofBool e ++ 0b000000#6 ++ d ++ a ++ b ++ 0b0001010#7) = _
  generalize hq : BitVec.ofBool e ++ 0b000000#6 ++ d ++ a ++ b ++ 0b0001010#7 = q
  have h1 : (fld q 25 6).toNat = 0 := by
    subst hq; (try simp (disch := decide) only [fld, fld_hi, fld_lo, Nat.reduceSub]); rfl
  have h2 : (fld q 0 7).toNat = 10 := by
    subst hq; (try simp (disch := decide) only [fld, fld_hi, fld_lo, Nat.reduceSub]); rfl
  rw [major00 q h1, decode00, h2]
  subst hq
  try simp (disch := decide) only [fld, bit, fld_hi, fld_lo, fld_all, bit_hi, bit_lo, bit_ofBool, Nat.reduceSub, fld_nat]
  all_goals first | rfl | (simp_all [checked, control, bit]; done) | grind [checked, control, bit]
theorem ssar (e : Bool) (d : BitVec 6) (a : BitVec 6) (b : BitVec 6) : Statement (.ssar e d a b) := by
  intro _ _
  change decode (BitVec.ofBool e ++ 0b000000#6 ++ d ++ a ++ b ++ 0b0001011#7) = _
  generalize hq : BitVec.ofBool e ++ 0b000000#6 ++ d ++ a ++ b ++ 0b0001011#7 = q
  have h1 : (fld q 25 6).toNat = 0 := by
    subst hq; (try simp (disch := decide) only [fld, fld_hi, fld_lo, Nat.reduceSub]); rfl
  have h2 : (fld q 0 7).toNat = 11 := by
    subst hq; (try simp (disch := decide) only [fld, fld_hi, fld_lo, Nat.reduceSub]); rfl
  rw [major00 q h1, decode00, h2]
  subst hq
  try simp (disch := decide) only [fld, bit, fld_hi, fld_lo, fld_all, bit_hi, bit_lo, bit_ofBool, Nat.reduceSub, fld_nat]
  all_goals first | rfl | (simp_all [checked, control, bit]; done) | grind [checked, control, bit]
theorem smin (e : Bool) (d : BitVec 6) (a : BitVec 6) (b : BitVec 6) : Statement (.smin e d a b) := by
  intro _ _
  change decode (BitVec.ofBool e ++ 0b000000#6 ++ d ++ a ++ b ++ 0b0001100#7) = _
  generalize hq : BitVec.ofBool e ++ 0b000000#6 ++ d ++ a ++ b ++ 0b0001100#7 = q
  have h1 : (fld q 25 6).toNat = 0 := by
    subst hq; (try simp (disch := decide) only [fld, fld_hi, fld_lo, Nat.reduceSub]); rfl
  have h2 : (fld q 0 7).toNat = 12 := by
    subst hq; (try simp (disch := decide) only [fld, fld_hi, fld_lo, Nat.reduceSub]); rfl
  rw [major00 q h1, decode00, h2]
  subst hq
  try simp (disch := decide) only [fld, bit, fld_hi, fld_lo, fld_all, bit_hi, bit_lo, bit_ofBool, Nat.reduceSub, fld_nat]
  all_goals first | rfl | (simp_all [checked, control, bit]; done) | grind [checked, control, bit]
theorem smax (e : Bool) (d : BitVec 6) (a : BitVec 6) (b : BitVec 6) : Statement (.smax e d a b) := by
  intro _ _
  change decode (BitVec.ofBool e ++ 0b000000#6 ++ d ++ a ++ b ++ 0b0001101#7) = _
  generalize hq : BitVec.ofBool e ++ 0b000000#6 ++ d ++ a ++ b ++ 0b0001101#7 = q
  have h1 : (fld q 25 6).toNat = 0 := by
    subst hq; (try simp (disch := decide) only [fld, fld_hi, fld_lo, Nat.reduceSub]); rfl
  have h2 : (fld q 0 7).toNat = 13 := by
    subst hq; (try simp (disch := decide) only [fld, fld_hi, fld_lo, Nat.reduceSub]); rfl
  rw [major00 q h1, decode00, h2]
  subst hq
  try simp (disch := decide) only [fld, bit, fld_hi, fld_lo, fld_all, bit_hi, bit_lo, bit_ofBool, Nat.reduceSub, fld_nat]
  all_goals first | rfl | (simp_all [checked, control, bit]; done) | grind [checked, control, bit]
theorem sclz (e : Bool) (d : BitVec 6) (a : BitVec 6) : Statement (.sclz e d a) := by
  intro _ _
  change decode (BitVec.ofBool e ++ 0b000000#6 ++ d ++ a ++ 0b0000000001110#13) = _
  generalize hq : BitVec.ofBool e ++ 0b000000#6 ++ d ++ a ++ 0b0000000001110#13 = q
  have h1 : (fld q 25 6).toNat = 0 := by
    subst hq; (try simp (disch := decide) only [fld, fld_hi, fld_lo, Nat.reduceSub]); rfl
  have h2 : (fld q 0 7).toNat = 14 := by
    subst hq; (try simp (disch := decide) only [fld, fld_hi, fld_lo, Nat.reduceSub]); rfl
  rw [major00 q h1, decode00, h2]
  subst hq
  try simp (disch := decide) only [fld, bit, fld_hi, fld_lo, fld_all, bit_hi, bit_lo, bit_ofBool, Nat.reduceSub, fld_nat]
  all_goals first | rfl | (simp_all [checked, control, bit]; done) | grind [checked, control, bit]
theorem spopc (e : Bool) (d : BitVec 6) (a : BitVec 6) : Statement (.spopc e d a) := by
  intro _ _
  change decode (BitVec.ofBool e ++ 0b000000#6 ++ d ++ a ++ 0b0000000001111#13) = _
  generalize hq : BitVec.ofBool e ++ 0b000000#6 ++ d ++ a ++ 0b0000000001111#13 = q
  have h1 : (fld q 25 6).toNat = 0 := by
    subst hq; (try simp (disch := decide) only [fld, fld_hi, fld_lo, Nat.reduceSub]); rfl
  have h2 : (fld q 0 7).toNat = 15 := by
    subst hq; (try simp (disch := decide) only [fld, fld_hi, fld_lo, Nat.reduceSub]); rfl
  rw [major00 q h1, decode00, h2]
  subst hq
  try simp (disch := decide) only [fld, bit, fld_hi, fld_lo, fld_all, bit_hi, bit_lo, bit_ofBool, Nat.reduceSub, fld_nat]
  all_goals first | rfl | (simp_all [checked, control, bit]; done) | grind [checked, control, bit]
theorem ssel (e : Bool) (d : BitVec 6) (a : BitVec 6) (b : BitVec 6) : Statement (.ssel e d a b) := by
  intro _ _
  change decode (BitVec.ofBool e ++ 0b000000#6 ++ d ++ a ++ b ++ 0b0010000#7) = _
  generalize hq : BitVec.ofBool e ++ 0b000000#6 ++ d ++ a ++ b ++ 0b0010000#7 = q
  have h1 : (fld q 25 6).toNat = 0 := by
    subst hq; (try simp (disch := decide) only [fld, fld_hi, fld_lo, Nat.reduceSub]); rfl
  have h2 : (fld q 0 7).toNat = 16 := by
    subst hq; (try simp (disch := decide) only [fld, fld_hi, fld_lo, Nat.reduceSub]); rfl
  rw [major00 q h1, decode00, h2]
  subst hq
  try simp (disch := decide) only [fld, bit, fld_hi, fld_lo, fld_all, bit_hi, bit_lo, bit_ofBool, Nat.reduceSub, fld_nat]
  all_goals first | rfl | (simp_all [checked, control, bit]; done) | grind [checked, control, bit]
theorem smov (e : Bool) (d : BitVec 6) (a : BitVec 6) : Statement (.smov e d a) := by
  intro _ _
  change decode (BitVec.ofBool e ++ 0b000000#6 ++ d ++ a ++ 0b0000000010001#13) = _
  generalize hq : BitVec.ofBool e ++ 0b000000#6 ++ d ++ a ++ 0b0000000010001#13 = q
  have h1 : (fld q 25 6).toNat = 0 := by
    subst hq; (try simp (disch := decide) only [fld, fld_hi, fld_lo, Nat.reduceSub]); rfl
  have h2 : (fld q 0 7).toNat = 17 := by
    subst hq; (try simp (disch := decide) only [fld, fld_hi, fld_lo, Nat.reduceSub]); rfl
  rw [major00 q h1, decode00, h2]
  subst hq
  try simp (disch := decide) only [fld, bit, fld_hi, fld_lo, fld_all, bit_hi, bit_lo, bit_ofBool, Nat.reduceSub, fld_nat]
  all_goals first | rfl | (simp_all [checked, control, bit]; done) | grind [checked, control, bit]
theorem scmp (e : Bool) (d : BitVec 6) (a : BitVec 6) (b : BitVec 6) (c : BitVec 3) : Statement (.scmp e d a b c) := by
  intro _ _
  change decode (BitVec.ofBool e ++ 0b000000#6 ++ d ++ a ++ b ++ 0b0011#4 ++ c) = _
  generalize hq : BitVec.ofBool e ++ 0b000000#6 ++ d ++ a ++ b ++ 0b0011#4 ++ c = q
  have h1 : (fld q 25 6).toNat = 0 := by
    subst hq; (try simp (disch := decide) only [fld, fld_hi, fld_lo, Nat.reduceSub]); rfl
  have h2 : (fld q 0 7).toNat = 24 + c.toNat := by
    subst hq; simp (disch := decide) only [fld, fld_hi, fld_lo, fld_nat, fld_all, Nat.reduceSub]
    first | (simp; done) | (simp; omega)
  have hs : c.toNat = 0 ∨ c.toNat = 1 ∨ c.toNat = 2 ∨ c.toNat = 3 ∨ c.toNat = 4 ∨ c.toNat = 5 ∨ c.toNat = 6 ∨ c.toNat = 7 := by omega
  rw [major00 q h1, decode00]
  rcases hs with k | k | k | k | k | k | k | k <;> rw [h2, k]
  all_goals subst hq
  all_goals try simp (disch := decide) only [fld, bit, fld_hi, fld_lo, fld_all, bit_hi, bit_lo, bit_ofBool, Nat.reduceSub, fld_nat]
  all_goals first | rfl | (simp_all [checked, control, bit]; done) | grind [checked, control, bit]
theorem saddImm (e : Bool) (d : BitVec 6) (a : BitVec 6) (i : BitVec 10) : Statement (.saddImm e d a i) := by
  intro _ _
  change decode (BitVec.ofBool e ++ 0b000001#6 ++ d ++ a ++ 0b000#3 ++ i) = _
  generalize hq : BitVec.ofBool e ++ 0b000001#6 ++ d ++ a ++ 0b000#3 ++ i = q
  have h1 : (fld q 25 6).toNat = 1 := by
    subst hq; (try simp (disch := decide) only [fld, fld_hi, fld_lo, Nat.reduceSub]); rfl
  have h2 : (fld q 10 3).toNat = 0 := by
    subst hq; (try simp (disch := decide) only [fld, fld_hi, fld_lo, Nat.reduceSub]); rfl
  rw [major01 q h1, decode01, h2]
  subst hq
  try simp (disch := decide) only [fld, bit, fld_hi, fld_lo, fld_all, bit_hi, bit_lo, bit_ofBool, Nat.reduceSub, fld_nat]
  all_goals first | rfl | (simp_all [checked, control, bit]; done) | grind [checked, control, bit]
theorem smulImm (e : Bool) (d : BitVec 6) (a : BitVec 6) (i : BitVec 10) : Statement (.smulImm e d a i) := by
  intro _ _
  change decode (BitVec.ofBool e ++ 0b000001#6 ++ d ++ a ++ 0b001#3 ++ i) = _
  generalize hq : BitVec.ofBool e ++ 0b000001#6 ++ d ++ a ++ 0b001#3 ++ i = q
  have h1 : (fld q 25 6).toNat = 1 := by
    subst hq; (try simp (disch := decide) only [fld, fld_hi, fld_lo, Nat.reduceSub]); rfl
  have h2 : (fld q 10 3).toNat = 1 := by
    subst hq; (try simp (disch := decide) only [fld, fld_hi, fld_lo, Nat.reduceSub]); rfl
  rw [major01 q h1, decode01, h2]
  subst hq
  try simp (disch := decide) only [fld, bit, fld_hi, fld_lo, fld_all, bit_hi, bit_lo, bit_ofBool, Nat.reduceSub, fld_nat]
  all_goals first | rfl | (simp_all [checked, control, bit]; done) | grind [checked, control, bit]
theorem sandImm (e : Bool) (d : BitVec 6) (a : BitVec 6) (i : BitVec 10) : Statement (.sandImm e d a i) := by
  intro _ _
  change decode (BitVec.ofBool e ++ 0b000001#6 ++ d ++ a ++ 0b010#3 ++ i) = _
  generalize hq : BitVec.ofBool e ++ 0b000001#6 ++ d ++ a ++ 0b010#3 ++ i = q
  have h1 : (fld q 25 6).toNat = 1 := by
    subst hq; (try simp (disch := decide) only [fld, fld_hi, fld_lo, Nat.reduceSub]); rfl
  have h2 : (fld q 10 3).toNat = 2 := by
    subst hq; (try simp (disch := decide) only [fld, fld_hi, fld_lo, Nat.reduceSub]); rfl
  rw [major01 q h1, decode01, h2]
  subst hq
  try simp (disch := decide) only [fld, bit, fld_hi, fld_lo, fld_all, bit_hi, bit_lo, bit_ofBool, Nat.reduceSub, fld_nat]
  all_goals first | rfl | (simp_all [checked, control, bit]; done) | grind [checked, control, bit]
theorem sorImm (e : Bool) (d : BitVec 6) (a : BitVec 6) (i : BitVec 10) : Statement (.sorImm e d a i) := by
  intro _ _
  change decode (BitVec.ofBool e ++ 0b000001#6 ++ d ++ a ++ 0b011#3 ++ i) = _
  generalize hq : BitVec.ofBool e ++ 0b000001#6 ++ d ++ a ++ 0b011#3 ++ i = q
  have h1 : (fld q 25 6).toNat = 1 := by
    subst hq; (try simp (disch := decide) only [fld, fld_hi, fld_lo, Nat.reduceSub]); rfl
  have h2 : (fld q 10 3).toNat = 3 := by
    subst hq; (try simp (disch := decide) only [fld, fld_hi, fld_lo, Nat.reduceSub]); rfl
  rw [major01 q h1, decode01, h2]
  subst hq
  try simp (disch := decide) only [fld, bit, fld_hi, fld_lo, fld_all, bit_hi, bit_lo, bit_ofBool, Nat.reduceSub, fld_nat]
  all_goals first | rfl | (simp_all [checked, control, bit]; done) | grind [checked, control, bit]
theorem sxorImm (e : Bool) (d : BitVec 6) (a : BitVec 6) (i : BitVec 10) : Statement (.sxorImm e d a i) := by
  intro _ _
  change decode (BitVec.ofBool e ++ 0b000001#6 ++ d ++ a ++ 0b100#3 ++ i) = _
  generalize hq : BitVec.ofBool e ++ 0b000001#6 ++ d ++ a ++ 0b100#3 ++ i = q
  have h1 : (fld q 25 6).toNat = 1 := by
    subst hq; (try simp (disch := decide) only [fld, fld_hi, fld_lo, Nat.reduceSub]); rfl
  have h2 : (fld q 10 3).toNat = 4 := by
    subst hq; (try simp (disch := decide) only [fld, fld_hi, fld_lo, Nat.reduceSub]); rfl
  rw [major01 q h1, decode01, h2]
  subst hq
  try simp (disch := decide) only [fld, bit, fld_hi, fld_lo, fld_all, bit_hi, bit_lo, bit_ofBool, Nat.reduceSub, fld_nat]
  all_goals first | rfl | (simp_all [checked, control, bit]; done) | grind [checked, control, bit]
theorem sshlImm (e : Bool) (d : BitVec 6) (a : BitVec 6) (i : BitVec 6) : Statement (.sshlImm e d a i) := by
  intro _ _
  change decode (BitVec.ofBool e ++ 0b000001#6 ++ d ++ a ++ 0b1010000#7 ++ i) = _
  generalize hq : BitVec.ofBool e ++ 0b000001#6 ++ d ++ a ++ 0b1010000#7 ++ i = q
  have h1 : (fld q 25 6).toNat = 1 := by
    subst hq; (try simp (disch := decide) only [fld, fld_hi, fld_lo, Nat.reduceSub]); rfl
  have h2 : (fld q 10 3).toNat = 5 := by
    subst hq; (try simp (disch := decide) only [fld, fld_hi, fld_lo, Nat.reduceSub]); rfl
  rw [major01 q h1, decode01, h2]
  subst hq
  try simp (disch := decide) only [fld, bit, fld_hi, fld_lo, fld_all, bit_hi, bit_lo, bit_ofBool, Nat.reduceSub, fld_nat]
  all_goals first | rfl | (simp_all [checked, control, bit]; done) | grind [checked, control, bit]
theorem sshrImm (e : Bool) (d : BitVec 6) (a : BitVec 6) (i : BitVec 6) : Statement (.sshrImm e d a i) := by
  intro _ _
  change decode (BitVec.ofBool e ++ 0b000001#6 ++ d ++ a ++ 0b1100000#7 ++ i) = _
  generalize hq : BitVec.ofBool e ++ 0b000001#6 ++ d ++ a ++ 0b1100000#7 ++ i = q
  have h1 : (fld q 25 6).toNat = 1 := by
    subst hq; (try simp (disch := decide) only [fld, fld_hi, fld_lo, Nat.reduceSub]); rfl
  have h2 : (fld q 10 3).toNat = 6 := by
    subst hq; (try simp (disch := decide) only [fld, fld_hi, fld_lo, Nat.reduceSub]); rfl
  rw [major01 q h1, decode01, h2]
  subst hq
  try simp (disch := decide) only [fld, bit, fld_hi, fld_lo, fld_all, bit_hi, bit_lo, bit_ofBool, Nat.reduceSub, fld_nat]
  all_goals first | rfl | (simp_all [checked, control, bit]; done) | grind [checked, control, bit]
theorem ssarImm (e : Bool) (d : BitVec 6) (a : BitVec 6) (i : BitVec 6) : Statement (.ssarImm e d a i) := by
  intro _ _
  change decode (BitVec.ofBool e ++ 0b000001#6 ++ d ++ a ++ 0b1110000#7 ++ i) = _
  generalize hq : BitVec.ofBool e ++ 0b000001#6 ++ d ++ a ++ 0b1110000#7 ++ i = q
  have h1 : (fld q 25 6).toNat = 1 := by
    subst hq; (try simp (disch := decide) only [fld, fld_hi, fld_lo, Nat.reduceSub]); rfl
  have h2 : (fld q 10 3).toNat = 7 := by
    subst hq; (try simp (disch := decide) only [fld, fld_hi, fld_lo, Nat.reduceSub]); rfl
  rw [major01 q h1, decode01, h2]
  subst hq
  try simp (disch := decide) only [fld, bit, fld_hi, fld_lo, fld_all, bit_hi, bit_lo, bit_ofBool, Nat.reduceSub, fld_nat]
  all_goals first | rfl | (simp_all [checked, control, bit]; done) | grind [checked, control, bit]
theorem sli (e : Bool) (d : BitVec 6) (i : BitVec 19) : Statement (.sli e d i) := by
  intro _ _
  change decode (BitVec.ofBool e ++ 0b000010#6 ++ d ++ i) = _
  generalize hq : BitVec.ofBool e ++ 0b000010#6 ++ d ++ i = q
  have h1 : (fld q 25 6).toNat = 2 := by
    subst hq; (try simp (disch := decide) only [fld, fld_hi, fld_lo, Nat.reduceSub]); rfl
  rw [major02 q h1, decode02]
  subst hq
  try simp (disch := decide) only [fld, bit, fld_hi, fld_lo, fld_all, bit_hi, bit_lo, bit_ofBool, Nat.reduceSub, fld_nat]
  all_goals first | rfl | (simp_all [checked, control, bit]; done) | grind [checked, control, bit]
theorem shi (e : Bool) (d : BitVec 6) (q : BitVec 2) (i : BitVec 16) : Statement (.shi e d q i) := by
  intro _ _
  change decode (BitVec.ofBool e ++ 0b000011#6 ++ d ++ q ++ 0b0#1 ++ i) = _
  generalize hq : BitVec.ofBool e ++ 0b000011#6 ++ d ++ q ++ 0b0#1 ++ i = q
  have h1 : (fld q 25 6).toNat = 3 := by
    subst hq; (try simp (disch := decide) only [fld, fld_hi, fld_lo, Nat.reduceSub]); rfl
  rw [major03 q h1, decode03]
  subst hq
  try simp (disch := decide) only [fld, bit, fld_hi, fld_lo, fld_all, bit_hi, bit_lo, bit_ofBool, Nat.reduceSub, fld_nat]
  all_goals first | rfl | (simp_all [checked, control, bit]; done) | grind [checked, control, bit]
theorem mskp (e : Bool) (d : BitVec 6) (a : BitVec 5) : Statement (.mskp e d a) := by
  intro _ _
  change decode (BitVec.ofBool e ++ 0b000100#6 ++ d ++ 0b0#1 ++ a ++ 0b0000000000000#13) = _
  generalize hq : BitVec.ofBool e ++ 0b000100#6 ++ d ++ 0b0#1 ++ a ++ 0b0000000000000#13 = q
  have h1 : (fld q 25 6).toNat = 4 := by
    subst hq; (try simp (disch := decide) only [fld, fld_hi, fld_lo, Nat.reduceSub]); rfl
  have h2 : (fld q 0 7).toNat = 0 := by
    subst hq; (try simp (disch := decide) only [fld, fld_hi, fld_lo, Nat.reduceSub]); rfl
  rw [major04 q h1, decode04, h2]
  subst hq
  try simp (disch := decide) only [fld, bit, fld_hi, fld_lo, fld_all, bit_hi, bit_lo, bit_ofBool, Nat.reduceSub, fld_nat]
  all_goals first | rfl | (simp_all [checked, control, bit]; done) | grind [checked, control, bit]
theorem mskn (e : Bool) (d : BitVec 6) (a : BitVec 5) : Statement (.mskn e d a) := by
  intro _ _
  change decode (BitVec.ofBool e ++ 0b000100#6 ++ d ++ 0b0#1 ++ a ++ 0b0000000000001#13) = _
  generalize hq : BitVec.ofBool e ++ 0b000100#6 ++ d ++ 0b0#1 ++ a ++ 0b0000000000001#13 = q
  have h1 : (fld q 25 6).toNat = 4 := by
    subst hq; (try simp (disch := decide) only [fld, fld_hi, fld_lo, Nat.reduceSub]); rfl
  have h2 : (fld q 0 7).toNat = 1 := by
    subst hq; (try simp (disch := decide) only [fld, fld_hi, fld_lo, Nat.reduceSub]); rfl
  rw [major04 q h1, decode04, h2]
  subst hq
  try simp (disch := decide) only [fld, bit, fld_hi, fld_lo, fld_all, bit_hi, bit_lo, bit_ofBool, Nat.reduceSub, fld_nat]
  all_goals first | rfl | (simp_all [checked, control, bit]; done) | grind [checked, control, bit]
theorem msks (e : Bool) (a : BitVec 6) : Statement (.msks e a) := by
  intro _ _
  change decode (BitVec.ofBool e ++ 0b000100000000#12 ++ a ++ 0b0000000000010#13) = _
  generalize hq : BitVec.ofBool e ++ 0b000100000000#12 ++ a ++ 0b0000000000010#13 = q
  have h1 : (fld q 25 6).toNat = 4 := by
    subst hq; (try simp (disch := decide) only [fld, fld_hi, fld_lo, Nat.reduceSub]); rfl
  have h2 : (fld q 0 7).toNat = 2 := by
    subst hq; (try simp (disch := decide) only [fld, fld_hi, fld_lo, Nat.reduceSub]); rfl
  rw [major04 q h1, decode04, h2]
  subst hq
  try simp (disch := decide) only [fld, bit, fld_hi, fld_lo, fld_all, bit_hi, bit_lo, bit_ofBool, Nat.reduceSub, fld_nat]
  all_goals first | rfl | (simp_all [checked, control, bit]; done) | grind [checked, control, bit]
theorem mskg (e : Bool) (d : BitVec 6) : Statement (.mskg e d) := by
  intro _ _
  change decode (BitVec.ofBool e ++ 0b000100#6 ++ d ++ 0b0000000000000000011#19) = _
  generalize hq : BitVec.ofBool e ++ 0b000100#6 ++ d ++ 0b0000000000000000011#19 = q
  have h1 : (fld q 25 6).toNat = 4 := by
    subst hq; (try simp (disch := decide) only [fld, fld_hi, fld_lo, Nat.reduceSub]); rfl
  have h2 : (fld q 0 7).toNat = 3 := by
    subst hq; (try simp (disch := decide) only [fld, fld_hi, fld_lo, Nat.reduceSub]); rfl
  rw [major04 q h1, decode04, h2]
  subst hq
  try simp (disch := decide) only [fld, bit, fld_hi, fld_lo, fld_all, bit_hi, bit_lo, bit_ofBool, Nat.reduceSub, fld_nat]
  all_goals first | rfl | (simp_all [checked, control, bit]; done) | grind [checked, control, bit]
theorem mskpop (e : Bool) (d : BitVec 6) (a : BitVec 5) : Statement (.mskpop e d a) := by
  intro _ _
  change decode (BitVec.ofBool e ++ 0b000100#6 ++ d ++ 0b0#1 ++ a ++ 0b0000000000100#13) = _
  generalize hq : BitVec.ofBool e ++ 0b000100#6 ++ d ++ 0b0#1 ++ a ++ 0b0000000000100#13 = q
  have h1 : (fld q 25 6).toNat = 4 := by
    subst hq; (try simp (disch := decide) only [fld, fld_hi, fld_lo, Nat.reduceSub]); rfl
  have h2 : (fld q 0 7).toNat = 4 := by
    subst hq; (try simp (disch := decide) only [fld, fld_hi, fld_lo, Nat.reduceSub]); rfl
  rw [major04 q h1, decode04, h2]
  subst hq
  try simp (disch := decide) only [fld, bit, fld_hi, fld_lo, fld_all, bit_hi, bit_lo, bit_ofBool, Nat.reduceSub, fld_nat]
  all_goals first | rfl | (simp_all [checked, control, bit]; done) | grind [checked, control, bit]
theorem mskff (e : Bool) (d : BitVec 6) (a : BitVec 5) : Statement (.mskff e d a) := by
  intro _ _
  change decode (BitVec.ofBool e ++ 0b000100#6 ++ d ++ 0b0#1 ++ a ++ 0b0000000000101#13) = _
  generalize hq : BitVec.ofBool e ++ 0b000100#6 ++ d ++ 0b0#1 ++ a ++ 0b0000000000101#13 = q
  have h1 : (fld q 25 6).toNat = 4 := by
    subst hq; (try simp (disch := decide) only [fld, fld_hi, fld_lo, Nat.reduceSub]); rfl
  have h2 : (fld q 0 7).toNat = 5 := by
    subst hq; (try simp (disch := decide) only [fld, fld_hi, fld_lo, Nat.reduceSub]); rfl
  rw [major04 q h1, decode04, h2]
  subst hq
  try simp (disch := decide) only [fld, bit, fld_hi, fld_lo, fld_all, bit_hi, bit_lo, bit_ofBool, Nat.reduceSub, fld_nat]
  all_goals first | rfl | (simp_all [checked, control, bit]; done) | grind [checked, control, bit]
theorem modeg (e : Bool) (d : BitVec 6) : Statement (.modeg e d) := by
  intro _ _
  change decode (BitVec.ofBool e ++ 0b000100#6 ++ d ++ 0b0000000000000000110#19) = _
  generalize hq : BitVec.ofBool e ++ 0b000100#6 ++ d ++ 0b0000000000000000110#19 = q
  have h1 : (fld q 25 6).toNat = 4 := by
    subst hq; (try simp (disch := decide) only [fld, fld_hi, fld_lo, Nat.reduceSub]); rfl
  have h2 : (fld q 0 7).toNat = 6 := by
    subst hq; (try simp (disch := decide) only [fld, fld_hi, fld_lo, Nat.reduceSub]); rfl
  rw [major04 q h1, decode04, h2]
  subst hq
  try simp (disch := decide) only [fld, bit, fld_hi, fld_lo, fld_all, bit_hi, bit_lo, bit_ofBool, Nat.reduceSub, fld_nat]
  all_goals first | rfl | (simp_all [checked, control, bit]; done) | grind [checked, control, bit]
theorem modes (e : Bool) (a : BitVec 6) : Statement (.modes e a) := by
  intro _ _
  change decode (BitVec.ofBool e ++ 0b000100000000#12 ++ a ++ 0b0000000000111#13) = _
  generalize hq : BitVec.ofBool e ++ 0b000100000000#12 ++ a ++ 0b0000000000111#13 = q
  have h1 : (fld q 25 6).toNat = 4 := by
    subst hq; (try simp (disch := decide) only [fld, fld_hi, fld_lo, Nat.reduceSub]); rfl
  have h2 : (fld q 0 7).toNat = 7 := by
    subst hq; (try simp (disch := decide) only [fld, fld_hi, fld_lo, Nat.reduceSub]); rfl
  rw [major04 q h1, decode04, h2]
  subst hq
  try simp (disch := decide) only [fld, bit, fld_hi, fld_lo, fld_all, bit_hi, bit_lo, bit_ofBool, Nat.reduceSub, fld_nat]
  all_goals first | rfl | (simp_all [checked, control, bit]; done) | grind [checked, control, bit]
theorem srd (e : Bool) (d : BitVec 6) (a : BitVec 6) : Statement (.srd e d a) := by
  intro _ hg
  replace hg : (decide (a.toNat < 16)) = true := hg
  try simp only [Bool.and_eq_true, decide_eq_true_eq, bne_iff_ne] at hg
  change decode (BitVec.ofBool e ++ 0b000100#6 ++ d ++ a ++ 0b0000000001000#13) = _
  generalize hq : BitVec.ofBool e ++ 0b000100#6 ++ d ++ a ++ 0b0000000001000#13 = q
  have h1 : (fld q 25 6).toNat = 4 := by
    subst hq; (try simp (disch := decide) only [fld, fld_hi, fld_lo, Nat.reduceSub]); rfl
  have h2 : (fld q 0 7).toNat = 8 := by
    subst hq; (try simp (disch := decide) only [fld, fld_hi, fld_lo, Nat.reduceSub]); rfl
  rw [major04 q h1, decode04, h2]
  subst hq
  try simp (disch := decide) only [fld, bit, fld_hi, fld_lo, fld_all, bit_hi, bit_lo, bit_ofBool, Nat.reduceSub, fld_nat]
  all_goals first | rfl | (simp_all [checked, control, bit]; done) | grind [checked, control, bit]
theorem nop (e : Bool) : Statement (.nop e) := by
  intro _ _
  change decode (BitVec.ofBool e ++ 0b0001000000000000000000000001001#31) = _
  generalize hq : BitVec.ofBool e ++ 0b0001000000000000000000000001001#31 = q
  have h1 : (fld q 25 6).toNat = 4 := by
    subst hq; (try simp (disch := decide) only [fld, fld_hi, fld_lo, Nat.reduceSub]); rfl
  have h2 : (fld q 0 7).toNat = 9 := by
    subst hq; (try simp (disch := decide) only [fld, fld_hi, fld_lo, Nat.reduceSub]); rfl
  rw [major04 q h1, decode04, h2]
  subst hq
  try simp (disch := decide) only [fld, bit, fld_hi, fld_lo, fld_all, bit_hi, bit_lo, bit_ofBool, Nat.reduceSub, fld_nat]
  all_goals first | rfl | (simp_all [checked, control, bit]; done) | grind [checked, control, bit]
theorem yield (e : Bool) : Statement (.yield e) := by
  intro _ _
  change decode (BitVec.ofBool e ++ 0b0001000000000000000000000001010#31) = _
  generalize hq : BitVec.ofBool e ++ 0b0001000000000000000000000001010#31 = q
  have h1 : (fld q 25 6).toNat = 4 := by
    subst hq; (try simp (disch := decide) only [fld, fld_hi, fld_lo, Nat.reduceSub]); rfl
  have h2 : (fld q 0 7).toNat = 10 := by
    subst hq; (try simp (disch := decide) only [fld, fld_hi, fld_lo, Nat.reduceSub]); rfl
  rw [major04 q h1, decode04, h2]
  subst hq
  try simp (disch := decide) only [fld, bit, fld_hi, fld_lo, fld_all, bit_hi, bit_lo, bit_ofBool, Nat.reduceSub, fld_nat]
  all_goals first | rfl | (simp_all [checked, control, bit]; done) | grind [checked, control, bit]
theorem exit : Statement (.exit) := by
  intro _ _
  change decode (0b10001000000000000000000000001011#32) = _
  generalize hq : 0b10001000000000000000000000001011#32 = q
  have h1 : (fld q 25 6).toNat = 4 := by
    subst hq; (try simp (disch := decide) only [fld, fld_hi, fld_lo, Nat.reduceSub]); rfl
  have h2 : (fld q 0 7).toNat = 11 := by
    subst hq; (try simp (disch := decide) only [fld, fld_hi, fld_lo, Nat.reduceSub]); rfl
  rw [major04 q h1, decode04, h2]
  subst hq
  try simp (disch := decide) only [fld, bit, fld_hi, fld_lo, fld_all, bit_hi, bit_lo, bit_ofBool, Nat.reduceSub, fld_nat]
  all_goals first | rfl | (simp_all [checked, control, bit]; done) | grind [checked, control, bit]
theorem ret (a : BitVec 6) : Statement (.ret a) := by
  intro _ _
  change decode (0b1000100000000#13 ++ a ++ 0b0000000001100#13) = _
  generalize hq : 0b1000100000000#13 ++ a ++ 0b0000000001100#13 = q
  have h1 : (fld q 25 6).toNat = 4 := by
    subst hq; (try simp (disch := decide) only [fld, fld_hi, fld_lo, Nat.reduceSub]); rfl
  have h2 : (fld q 0 7).toNat = 12 := by
    subst hq; (try simp (disch := decide) only [fld, fld_hi, fld_lo, Nat.reduceSub]); rfl
  rw [major04 q h1, decode04, h2]
  subst hq
  try simp (disch := decide) only [fld, bit, fld_hi, fld_lo, fld_all, bit_hi, bit_lo, bit_ofBool, Nat.reduceSub, fld_nat]
  all_goals first | rfl | (simp_all [checked, control, bit]; done) | grind [checked, control, bit]
theorem jmp (a : BitVec 6) : Statement (.jmp a) := by
  intro _ _
  change decode (0b1000100000000#13 ++ a ++ 0b0000000001101#13) = _
  generalize hq : 0b1000100000000#13 ++ a ++ 0b0000000001101#13 = q
  have h1 : (fld q 25 6).toNat = 4 := by
    subst hq; (try simp (disch := decide) only [fld, fld_hi, fld_lo, Nat.reduceSub]); rfl
  have h2 : (fld q 0 7).toNat = 13 := by
    subst hq; (try simp (disch := decide) only [fld, fld_hi, fld_lo, Nat.reduceSub]); rfl
  rw [major04 q h1, decode04, h2]
  subst hq
  try simp (disch := decide) only [fld, bit, fld_hi, fld_lo, fld_all, bit_hi, bit_lo, bit_ofBool, Nat.reduceSub, fld_nat]
  all_goals first | rfl | (simp_all [checked, control, bit]; done) | grind [checked, control, bit]
theorem mode (e : Bool) (t : BitVec 4) (r : BitVec 3) (g : BitVec 1) (s : BitVec 1) (p : BitVec 5) (u : BitVec 1) : Statement (.mode e t r g s p u) := by
  intro _ hg
  replace hg : (decide (t.toNat < 12) && decide (r.toNat < 5)) = true := hg
  try simp only [Bool.and_eq_true, decide_eq_true_eq, bne_iff_ne] at hg
  change decode (BitVec.ofBool e ++ 0b000101#6 ++ t ++ r ++ g ++ s ++ p ++ u ++ 0b0000000000#10) = _
  generalize hq : BitVec.ofBool e ++ 0b000101#6 ++ t ++ r ++ g ++ s ++ p ++ u ++ 0b0000000000#10 = q
  have h1 : (fld q 25 6).toNat = 5 := by
    subst hq; (try simp (disch := decide) only [fld, fld_hi, fld_lo, Nat.reduceSub]); rfl
  rw [major05 q h1, decode05]
  subst hq
  try simp (disch := decide) only [fld, bit, fld_hi, fld_lo, fld_all, bit_hi, bit_lo, bit_ofBool, Nat.reduceSub, fld_nat]
  all_goals first | rfl | (simp_all [checked, control, bit]; done) | grind [checked, control, bit]
theorem hold (e : Bool) (l : BitVec 5) (s : BitVec 5) (t : BitVec 5) (m : BitVec 5) (c : BitVec 5) : Statement (.hold e l s t m c) := by
  intro _ _
  change decode (BitVec.ofBool e ++ 0b000110#6 ++ l ++ s ++ t ++ m ++ c) = _
  generalize hq : BitVec.ofBool e ++ 0b000110#6 ++ l ++ s ++ t ++ m ++ c = q
  have h1 : (fld q 25 6).toNat = 6 := by
    subst hq; (try simp (disch := decide) only [fld, fld_hi, fld_lo, Nat.reduceSub]); rfl
  rw [major06 q h1, decode06]
  subst hq
  try simp (disch := decide) only [fld, bit, fld_hi, fld_lo, fld_all, bit_hi, bit_lo, bit_ofBool, Nat.reduceSub, fld_nat]
  all_goals first | rfl | (simp_all [checked, control, bit]; done) | grind [checked, control, bit]
theorem bra (o : BitVec 22) : Statement (.bra o) := by
  intro _ _
  change decode (0b1000111000#10 ++ o) = _
  generalize hq : 0b1000111000#10 ++ o = q
  have h1 : (fld q 25 6).toNat = 7 := by
    subst hq; (try simp (disch := decide) only [fld, fld_hi, fld_lo, Nat.reduceSub]); rfl
  have h2 : (fld q 22 3).toNat = 0 := by
    subst hq; (try simp (disch := decide) only [fld, fld_hi, fld_lo, Nat.reduceSub]); rfl
  rw [major07 q h1, decode07, h2]
  subst hq
  try simp (disch := decide) only [fld, bit, fld_hi, fld_lo, fld_all, bit_hi, bit_lo, bit_ofBool, Nat.reduceSub, fld_nat]
  all_goals first | rfl | (simp_all [checked, control, bit]; done) | grind [checked, control, bit]
theorem call (o : BitVec 22) : Statement (.call o) := by
  intro _ _
  change decode (0b1000111001#10 ++ o) = _
  generalize hq : 0b1000111001#10 ++ o = q
  have h1 : (fld q 25 6).toNat = 7 := by
    subst hq; (try simp (disch := decide) only [fld, fld_hi, fld_lo, Nat.reduceSub]); rfl
  have h2 : (fld q 22 3).toNat = 1 := by
    subst hq; (try simp (disch := decide) only [fld, fld_hi, fld_lo, Nat.reduceSub]); rfl
  rw [major07 q h1, decode07, h2]
  subst hq
  try simp (disch := decide) only [fld, bit, fld_hi, fld_lo, fld_all, bit_hi, bit_lo, bit_ofBool, Nat.reduceSub, fld_nat]
  all_goals first | rfl | (simp_all [checked, control, bit]; done) | grind [checked, control, bit]
theorem bemz (o : BitVec 22) : Statement (.bemz o) := by
  intro _ _
  change decode (0b1000111010#10 ++ o) = _
  generalize hq : 0b1000111010#10 ++ o = q
  have h1 : (fld q 25 6).toNat = 7 := by
    subst hq; (try simp (disch := decide) only [fld, fld_hi, fld_lo, Nat.reduceSub]); rfl
  have h2 : (fld q 22 3).toNat = 2 := by
    subst hq; (try simp (disch := decide) only [fld, fld_hi, fld_lo, Nat.reduceSub]); rfl
  rw [major07 q h1, decode07, h2]
  subst hq
  try simp (disch := decide) only [fld, bit, fld_hi, fld_lo, fld_all, bit_hi, bit_lo, bit_ofBool, Nat.reduceSub, fld_nat]
  all_goals first | rfl | (simp_all [checked, control, bit]; done) | grind [checked, control, bit]
theorem bemf (o : BitVec 22) : Statement (.bemf o) := by
  intro _ _
  change decode (0b1000111011#10 ++ o) = _
  generalize hq : 0b1000111011#10 ++ o = q
  have h1 : (fld q 25 6).toNat = 7 := by
    subst hq; (try simp (disch := decide) only [fld, fld_hi, fld_lo, Nat.reduceSub]); rfl
  have h2 : (fld q 22 3).toNat = 3 := by
    subst hq; (try simp (disch := decide) only [fld, fld_hi, fld_lo, Nat.reduceSub]); rfl
  rw [major07 q h1, decode07, h2]
  subst hq
  try simp (disch := decide) only [fld, bit, fld_hi, fld_lo, fld_all, bit_hi, bit_lo, bit_ofBool, Nat.reduceSub, fld_nat]
  all_goals first | rfl | (simp_all [checked, control, bit]; done) | grind [checked, control, bit]
theorem bz (s : BitVec 6) (o : BitVec 18) : Statement (.bz s o) := by
  intro _ _
  change decode (0b1001000#7 ++ s ++ 0b0#1 ++ o) = _
  generalize hq : 0b1001000#7 ++ s ++ 0b0#1 ++ o = q
  have h1 : (fld q 25 6).toNat = 8 := by
    subst hq; (try simp (disch := decide) only [fld, fld_hi, fld_lo, Nat.reduceSub]); rfl
  have h2 : (fld q 18 1).toNat = 0 := by
    subst hq; (try simp (disch := decide) only [fld, fld_hi, fld_lo, Nat.reduceSub]); rfl
  rw [major08 q h1, decode08, h2]
  subst hq
  try simp (disch := decide) only [fld, bit, fld_hi, fld_lo, fld_all, bit_hi, bit_lo, bit_ofBool, Nat.reduceSub, fld_nat]
  all_goals first | rfl | (simp_all [checked, control, bit]; done) | grind [checked, control, bit]
theorem bnz (s : BitVec 6) (o : BitVec 18) : Statement (.bnz s o) := by
  intro _ _
  change decode (0b1001000#7 ++ s ++ 0b1#1 ++ o) = _
  generalize hq : 0b1001000#7 ++ s ++ 0b1#1 ++ o = q
  have h1 : (fld q 25 6).toNat = 8 := by
    subst hq; (try simp (disch := decide) only [fld, fld_hi, fld_lo, Nat.reduceSub]); rfl
  have h2 : (fld q 18 1).toNat = 1 := by
    subst hq; (try simp (disch := decide) only [fld, fld_hi, fld_lo, Nat.reduceSub]); rfl
  rw [major08 q h1, decode08, h2]
  subst hq
  try simp (disch := decide) only [fld, bit, fld_hi, fld_lo, fld_all, bit_hi, bit_lo, bit_ofBool, Nat.reduceSub, fld_nat]
  all_goals first | rfl | (simp_all [checked, control, bit]; done) | grind [checked, control, bit]
theorem vadd (e : Bool) (d : BitVec 6) (a : BitVec 6) (b : BitVec 6) (x : Bool) (y : Bool) : Statement (.vadd e d a b x y) := by
  intro _ _
  change decode (BitVec.ofBool e ++ 0b001001#6 ++ d ++ a ++ b ++ BitVec.ofBool x ++ BitVec.ofBool y ++ 0b00000#5) = _
  generalize hq : BitVec.ofBool e ++ 0b001001#6 ++ d ++ a ++ b ++ BitVec.ofBool x ++ BitVec.ofBool y ++ 0b00000#5 = q
  have h1 : (fld q 25 6).toNat = 9 := by
    subst hq; (try simp (disch := decide) only [fld, fld_hi, fld_lo, Nat.reduceSub]); rfl
  have h2 : (fld q 0 5).toNat = 0 := by
    subst hq; (try simp (disch := decide) only [fld, fld_hi, fld_lo, Nat.reduceSub]); rfl
  rw [major09 q h1, decode09, h2]
  subst hq
  try simp (disch := decide) only [fld, bit, fld_hi, fld_lo, fld_all, bit_hi, bit_lo, bit_ofBool, Nat.reduceSub, fld_nat]
  all_goals first | rfl | (simp_all [checked, control, bit]; done) | grind [checked, control, bit]
theorem vaddc (e : Bool) (d : BitVec 6) (a : BitVec 6) (b : BitVec 6) (x : Bool) (y : Bool) : Statement (.vaddc e d a b x y) := by
  intro _ _
  change decode (BitVec.ofBool e ++ 0b001001#6 ++ d ++ a ++ b ++ BitVec.ofBool x ++ BitVec.ofBool y ++ 0b00001#5) = _
  generalize hq : BitVec.ofBool e ++ 0b001001#6 ++ d ++ a ++ b ++ BitVec.ofBool x ++ BitVec.ofBool y ++ 0b00001#5 = q
  have h1 : (fld q 25 6).toNat = 9 := by
    subst hq; (try simp (disch := decide) only [fld, fld_hi, fld_lo, Nat.reduceSub]); rfl
  have h2 : (fld q 0 5).toNat = 1 := by
    subst hq; (try simp (disch := decide) only [fld, fld_hi, fld_lo, Nat.reduceSub]); rfl
  rw [major09 q h1, decode09, h2]
  subst hq
  try simp (disch := decide) only [fld, bit, fld_hi, fld_lo, fld_all, bit_hi, bit_lo, bit_ofBool, Nat.reduceSub, fld_nat]
  all_goals first | rfl | (simp_all [checked, control, bit]; done) | grind [checked, control, bit]
theorem vsub (e : Bool) (d : BitVec 6) (a : BitVec 6) (b : BitVec 6) (x : Bool) (y : Bool) : Statement (.vsub e d a b x y) := by
  intro _ _
  change decode (BitVec.ofBool e ++ 0b001001#6 ++ d ++ a ++ b ++ BitVec.ofBool x ++ BitVec.ofBool y ++ 0b00010#5) = _
  generalize hq : BitVec.ofBool e ++ 0b001001#6 ++ d ++ a ++ b ++ BitVec.ofBool x ++ BitVec.ofBool y ++ 0b00010#5 = q
  have h1 : (fld q 25 6).toNat = 9 := by
    subst hq; (try simp (disch := decide) only [fld, fld_hi, fld_lo, Nat.reduceSub]); rfl
  have h2 : (fld q 0 5).toNat = 2 := by
    subst hq; (try simp (disch := decide) only [fld, fld_hi, fld_lo, Nat.reduceSub]); rfl
  rw [major09 q h1, decode09, h2]
  subst hq
  try simp (disch := decide) only [fld, bit, fld_hi, fld_lo, fld_all, bit_hi, bit_lo, bit_ofBool, Nat.reduceSub, fld_nat]
  all_goals first | rfl | (simp_all [checked, control, bit]; done) | grind [checked, control, bit]
theorem vsubb (e : Bool) (d : BitVec 6) (a : BitVec 6) (b : BitVec 6) (x : Bool) (y : Bool) : Statement (.vsubb e d a b x y) := by
  intro _ _
  change decode (BitVec.ofBool e ++ 0b001001#6 ++ d ++ a ++ b ++ BitVec.ofBool x ++ BitVec.ofBool y ++ 0b00011#5) = _
  generalize hq : BitVec.ofBool e ++ 0b001001#6 ++ d ++ a ++ b ++ BitVec.ofBool x ++ BitVec.ofBool y ++ 0b00011#5 = q
  have h1 : (fld q 25 6).toNat = 9 := by
    subst hq; (try simp (disch := decide) only [fld, fld_hi, fld_lo, Nat.reduceSub]); rfl
  have h2 : (fld q 0 5).toNat = 3 := by
    subst hq; (try simp (disch := decide) only [fld, fld_hi, fld_lo, Nat.reduceSub]); rfl
  rw [major09 q h1, decode09, h2]
  subst hq
  try simp (disch := decide) only [fld, bit, fld_hi, fld_lo, fld_all, bit_hi, bit_lo, bit_ofBool, Nat.reduceSub, fld_nat]
  all_goals first | rfl | (simp_all [checked, control, bit]; done) | grind [checked, control, bit]
theorem vmul (e : Bool) (d : BitVec 6) (a : BitVec 6) (b : BitVec 6) (x : Bool) (y : Bool) : Statement (.vmul e d a b x y) := by
  intro _ _
  change decode (BitVec.ofBool e ++ 0b001001#6 ++ d ++ a ++ b ++ BitVec.ofBool x ++ BitVec.ofBool y ++ 0b00100#5) = _
  generalize hq : BitVec.ofBool e ++ 0b001001#6 ++ d ++ a ++ b ++ BitVec.ofBool x ++ BitVec.ofBool y ++ 0b00100#5 = q
  have h1 : (fld q 25 6).toNat = 9 := by
    subst hq; (try simp (disch := decide) only [fld, fld_hi, fld_lo, Nat.reduceSub]); rfl
  have h2 : (fld q 0 5).toNat = 4 := by
    subst hq; (try simp (disch := decide) only [fld, fld_hi, fld_lo, Nat.reduceSub]); rfl
  rw [major09 q h1, decode09, h2]
  subst hq
  try simp (disch := decide) only [fld, bit, fld_hi, fld_lo, fld_all, bit_hi, bit_lo, bit_ofBool, Nat.reduceSub, fld_nat]
  all_goals first | rfl | (simp_all [checked, control, bit]; done) | grind [checked, control, bit]
theorem vmulh (e : Bool) (d : BitVec 6) (a : BitVec 6) (b : BitVec 6) (x : Bool) (y : Bool) : Statement (.vmulh e d a b x y) := by
  intro _ _
  change decode (BitVec.ofBool e ++ 0b001001#6 ++ d ++ a ++ b ++ BitVec.ofBool x ++ BitVec.ofBool y ++ 0b00101#5) = _
  generalize hq : BitVec.ofBool e ++ 0b001001#6 ++ d ++ a ++ b ++ BitVec.ofBool x ++ BitVec.ofBool y ++ 0b00101#5 = q
  have h1 : (fld q 25 6).toNat = 9 := by
    subst hq; (try simp (disch := decide) only [fld, fld_hi, fld_lo, Nat.reduceSub]); rfl
  have h2 : (fld q 0 5).toNat = 5 := by
    subst hq; (try simp (disch := decide) only [fld, fld_hi, fld_lo, Nat.reduceSub]); rfl
  rw [major09 q h1, decode09, h2]
  subst hq
  try simp (disch := decide) only [fld, bit, fld_hi, fld_lo, fld_all, bit_hi, bit_lo, bit_ofBool, Nat.reduceSub, fld_nat]
  all_goals first | rfl | (simp_all [checked, control, bit]; done) | grind [checked, control, bit]
theorem vmad (e : Bool) (d : BitVec 6) (a : BitVec 6) (b : BitVec 6) (x : Bool) (y : Bool) : Statement (.vmad e d a b x y) := by
  intro _ _
  change decode (BitVec.ofBool e ++ 0b001001#6 ++ d ++ a ++ b ++ BitVec.ofBool x ++ BitVec.ofBool y ++ 0b00110#5) = _
  generalize hq : BitVec.ofBool e ++ 0b001001#6 ++ d ++ a ++ b ++ BitVec.ofBool x ++ BitVec.ofBool y ++ 0b00110#5 = q
  have h1 : (fld q 25 6).toNat = 9 := by
    subst hq; (try simp (disch := decide) only [fld, fld_hi, fld_lo, Nat.reduceSub]); rfl
  have h2 : (fld q 0 5).toNat = 6 := by
    subst hq; (try simp (disch := decide) only [fld, fld_hi, fld_lo, Nat.reduceSub]); rfl
  rw [major09 q h1, decode09, h2]
  subst hq
  try simp (disch := decide) only [fld, bit, fld_hi, fld_lo, fld_all, bit_hi, bit_lo, bit_ofBool, Nat.reduceSub, fld_nat]
  all_goals first | rfl | (simp_all [checked, control, bit]; done) | grind [checked, control, bit]
theorem vmin (e : Bool) (d : BitVec 6) (a : BitVec 6) (b : BitVec 6) (x : Bool) (y : Bool) : Statement (.vmin e d a b x y) := by
  intro _ _
  change decode (BitVec.ofBool e ++ 0b001001#6 ++ d ++ a ++ b ++ BitVec.ofBool x ++ BitVec.ofBool y ++ 0b00111#5) = _
  generalize hq : BitVec.ofBool e ++ 0b001001#6 ++ d ++ a ++ b ++ BitVec.ofBool x ++ BitVec.ofBool y ++ 0b00111#5 = q
  have h1 : (fld q 25 6).toNat = 9 := by
    subst hq; (try simp (disch := decide) only [fld, fld_hi, fld_lo, Nat.reduceSub]); rfl
  have h2 : (fld q 0 5).toNat = 7 := by
    subst hq; (try simp (disch := decide) only [fld, fld_hi, fld_lo, Nat.reduceSub]); rfl
  rw [major09 q h1, decode09, h2]
  subst hq
  try simp (disch := decide) only [fld, bit, fld_hi, fld_lo, fld_all, bit_hi, bit_lo, bit_ofBool, Nat.reduceSub, fld_nat]
  all_goals first | rfl | (simp_all [checked, control, bit]; done) | grind [checked, control, bit]
theorem vmax (e : Bool) (d : BitVec 6) (a : BitVec 6) (b : BitVec 6) (x : Bool) (y : Bool) : Statement (.vmax e d a b x y) := by
  intro _ _
  change decode (BitVec.ofBool e ++ 0b001001#6 ++ d ++ a ++ b ++ BitVec.ofBool x ++ BitVec.ofBool y ++ 0b01000#5) = _
  generalize hq : BitVec.ofBool e ++ 0b001001#6 ++ d ++ a ++ b ++ BitVec.ofBool x ++ BitVec.ofBool y ++ 0b01000#5 = q
  have h1 : (fld q 25 6).toNat = 9 := by
    subst hq; (try simp (disch := decide) only [fld, fld_hi, fld_lo, Nat.reduceSub]); rfl
  have h2 : (fld q 0 5).toNat = 8 := by
    subst hq; (try simp (disch := decide) only [fld, fld_hi, fld_lo, Nat.reduceSub]); rfl
  rw [major09 q h1, decode09, h2]
  subst hq
  try simp (disch := decide) only [fld, bit, fld_hi, fld_lo, fld_all, bit_hi, bit_lo, bit_ofBool, Nat.reduceSub, fld_nat]
  all_goals first | rfl | (simp_all [checked, control, bit]; done) | grind [checked, control, bit]
theorem vabs (e : Bool) (d : BitVec 6) (a : BitVec 6) (x : Bool) : Statement (.vabs e d a x) := by
  intro _ _
  change decode (BitVec.ofBool e ++ 0b001001#6 ++ d ++ a ++ 0b000000#6 ++ BitVec.ofBool x ++ 0b001001#6) = _
  generalize hq : BitVec.ofBool e ++ 0b001001#6 ++ d ++ a ++ 0b000000#6 ++ BitVec.ofBool x ++ 0b001001#6 = q
  have h1 : (fld q 25 6).toNat = 9 := by
    subst hq; (try simp (disch := decide) only [fld, fld_hi, fld_lo, Nat.reduceSub]); rfl
  have h2 : (fld q 0 5).toNat = 9 := by
    subst hq; (try simp (disch := decide) only [fld, fld_hi, fld_lo, Nat.reduceSub]); rfl
  rw [major09 q h1, decode09, h2]
  subst hq
  try simp (disch := decide) only [fld, bit, fld_hi, fld_lo, fld_all, bit_hi, bit_lo, bit_ofBool, Nat.reduceSub, fld_nat]
  all_goals first | rfl | (simp_all [checked, control, bit]; done) | grind [checked, control, bit]
theorem vneg (e : Bool) (d : BitVec 6) (a : BitVec 6) (x : Bool) : Statement (.vneg e d a x) := by
  intro _ _
  change decode (BitVec.ofBool e ++ 0b001001#6 ++ d ++ a ++ 0b000000#6 ++ BitVec.ofBool x ++ 0b001010#6) = _
  generalize hq : BitVec.ofBool e ++ 0b001001#6 ++ d ++ a ++ 0b000000#6 ++ BitVec.ofBool x ++ 0b001010#6 = q
  have h1 : (fld q 25 6).toNat = 9 := by
    subst hq; (try simp (disch := decide) only [fld, fld_hi, fld_lo, Nat.reduceSub]); rfl
  have h2 : (fld q 0 5).toNat = 10 := by
    subst hq; (try simp (disch := decide) only [fld, fld_hi, fld_lo, Nat.reduceSub]); rfl
  rw [major09 q h1, decode09, h2]
  subst hq
  try simp (disch := decide) only [fld, bit, fld_hi, fld_lo, fld_all, bit_hi, bit_lo, bit_ofBool, Nat.reduceSub, fld_nat]
  all_goals first | rfl | (simp_all [checked, control, bit]; done) | grind [checked, control, bit]
theorem vand (e : Bool) (d : BitVec 6) (a : BitVec 6) (b : BitVec 6) (x : Bool) (y : Bool) : Statement (.vand e d a b x y) := by
  intro _ _
  change decode (BitVec.ofBool e ++ 0b001001#6 ++ d ++ a ++ b ++ BitVec.ofBool x ++ BitVec.ofBool y ++ 0b01011#5) = _
  generalize hq : BitVec.ofBool e ++ 0b001001#6 ++ d ++ a ++ b ++ BitVec.ofBool x ++ BitVec.ofBool y ++ 0b01011#5 = q
  have h1 : (fld q 25 6).toNat = 9 := by
    subst hq; (try simp (disch := decide) only [fld, fld_hi, fld_lo, Nat.reduceSub]); rfl
  have h2 : (fld q 0 5).toNat = 11 := by
    subst hq; (try simp (disch := decide) only [fld, fld_hi, fld_lo, Nat.reduceSub]); rfl
  rw [major09 q h1, decode09, h2]
  subst hq
  try simp (disch := decide) only [fld, bit, fld_hi, fld_lo, fld_all, bit_hi, bit_lo, bit_ofBool, Nat.reduceSub, fld_nat]
  all_goals first | rfl | (simp_all [checked, control, bit]; done) | grind [checked, control, bit]
theorem vor (e : Bool) (d : BitVec 6) (a : BitVec 6) (b : BitVec 6) (x : Bool) (y : Bool) : Statement (.vor e d a b x y) := by
  intro _ _
  change decode (BitVec.ofBool e ++ 0b001001#6 ++ d ++ a ++ b ++ BitVec.ofBool x ++ BitVec.ofBool y ++ 0b01100#5) = _
  generalize hq : BitVec.ofBool e ++ 0b001001#6 ++ d ++ a ++ b ++ BitVec.ofBool x ++ BitVec.ofBool y ++ 0b01100#5 = q
  have h1 : (fld q 25 6).toNat = 9 := by
    subst hq; (try simp (disch := decide) only [fld, fld_hi, fld_lo, Nat.reduceSub]); rfl
  have h2 : (fld q 0 5).toNat = 12 := by
    subst hq; (try simp (disch := decide) only [fld, fld_hi, fld_lo, Nat.reduceSub]); rfl
  rw [major09 q h1, decode09, h2]
  subst hq
  try simp (disch := decide) only [fld, bit, fld_hi, fld_lo, fld_all, bit_hi, bit_lo, bit_ofBool, Nat.reduceSub, fld_nat]
  all_goals first | rfl | (simp_all [checked, control, bit]; done) | grind [checked, control, bit]
theorem vxor (e : Bool) (d : BitVec 6) (a : BitVec 6) (b : BitVec 6) (x : Bool) (y : Bool) : Statement (.vxor e d a b x y) := by
  intro _ _
  change decode (BitVec.ofBool e ++ 0b001001#6 ++ d ++ a ++ b ++ BitVec.ofBool x ++ BitVec.ofBool y ++ 0b01101#5) = _
  generalize hq : BitVec.ofBool e ++ 0b001001#6 ++ d ++ a ++ b ++ BitVec.ofBool x ++ BitVec.ofBool y ++ 0b01101#5 = q
  have h1 : (fld q 25 6).toNat = 9 := by
    subst hq; (try simp (disch := decide) only [fld, fld_hi, fld_lo, Nat.reduceSub]); rfl
  have h2 : (fld q 0 5).toNat = 13 := by
    subst hq; (try simp (disch := decide) only [fld, fld_hi, fld_lo, Nat.reduceSub]); rfl
  rw [major09 q h1, decode09, h2]
  subst hq
  try simp (disch := decide) only [fld, bit, fld_hi, fld_lo, fld_all, bit_hi, bit_lo, bit_ofBool, Nat.reduceSub, fld_nat]
  all_goals first | rfl | (simp_all [checked, control, bit]; done) | grind [checked, control, bit]
theorem vnot (e : Bool) (d : BitVec 6) (a : BitVec 6) (x : Bool) : Statement (.vnot e d a x) := by
  intro _ _
  change decode (BitVec.ofBool e ++ 0b001001#6 ++ d ++ a ++ 0b000000#6 ++ BitVec.ofBool x ++ 0b001110#6) = _
  generalize hq : BitVec.ofBool e ++ 0b001001#6 ++ d ++ a ++ 0b000000#6 ++ BitVec.ofBool x ++ 0b001110#6 = q
  have h1 : (fld q 25 6).toNat = 9 := by
    subst hq; (try simp (disch := decide) only [fld, fld_hi, fld_lo, Nat.reduceSub]); rfl
  have h2 : (fld q 0 5).toNat = 14 := by
    subst hq; (try simp (disch := decide) only [fld, fld_hi, fld_lo, Nat.reduceSub]); rfl
  rw [major09 q h1, decode09, h2]
  subst hq
  try simp (disch := decide) only [fld, bit, fld_hi, fld_lo, fld_all, bit_hi, bit_lo, bit_ofBool, Nat.reduceSub, fld_nat]
  all_goals first | rfl | (simp_all [checked, control, bit]; done) | grind [checked, control, bit]
theorem vandn (e : Bool) (d : BitVec 6) (a : BitVec 6) (b : BitVec 6) (x : Bool) (y : Bool) : Statement (.vandn e d a b x y) := by
  intro _ _
  change decode (BitVec.ofBool e ++ 0b001001#6 ++ d ++ a ++ b ++ BitVec.ofBool x ++ BitVec.ofBool y ++ 0b01111#5) = _
  generalize hq : BitVec.ofBool e ++ 0b001001#6 ++ d ++ a ++ b ++ BitVec.ofBool x ++ BitVec.ofBool y ++ 0b01111#5 = q
  have h1 : (fld q 25 6).toNat = 9 := by
    subst hq; (try simp (disch := decide) only [fld, fld_hi, fld_lo, Nat.reduceSub]); rfl
  have h2 : (fld q 0 5).toNat = 15 := by
    subst hq; (try simp (disch := decide) only [fld, fld_hi, fld_lo, Nat.reduceSub]); rfl
  rw [major09 q h1, decode09, h2]
  subst hq
  try simp (disch := decide) only [fld, bit, fld_hi, fld_lo, fld_all, bit_hi, bit_lo, bit_ofBool, Nat.reduceSub, fld_nat]
  all_goals first | rfl | (simp_all [checked, control, bit]; done) | grind [checked, control, bit]
theorem vshl (e : Bool) (d : BitVec 6) (a : BitVec 6) (b : BitVec 6) (x : Bool) (y : Bool) : Statement (.vshl e d a b x y) := by
  intro _ _
  change decode (BitVec.ofBool e ++ 0b001001#6 ++ d ++ a ++ b ++ BitVec.ofBool x ++ BitVec.ofBool y ++ 0b10000#5) = _
  generalize hq : BitVec.ofBool e ++ 0b001001#6 ++ d ++ a ++ b ++ BitVec.ofBool x ++ BitVec.ofBool y ++ 0b10000#5 = q
  have h1 : (fld q 25 6).toNat = 9 := by
    subst hq; (try simp (disch := decide) only [fld, fld_hi, fld_lo, Nat.reduceSub]); rfl
  have h2 : (fld q 0 5).toNat = 16 := by
    subst hq; (try simp (disch := decide) only [fld, fld_hi, fld_lo, Nat.reduceSub]); rfl
  rw [major09 q h1, decode09, h2]
  subst hq
  try simp (disch := decide) only [fld, bit, fld_hi, fld_lo, fld_all, bit_hi, bit_lo, bit_ofBool, Nat.reduceSub, fld_nat]
  all_goals first | rfl | (simp_all [checked, control, bit]; done) | grind [checked, control, bit]
theorem vshr (e : Bool) (d : BitVec 6) (a : BitVec 6) (b : BitVec 6) (x : Bool) (y : Bool) : Statement (.vshr e d a b x y) := by
  intro _ _
  change decode (BitVec.ofBool e ++ 0b001001#6 ++ d ++ a ++ b ++ BitVec.ofBool x ++ BitVec.ofBool y ++ 0b10001#5) = _
  generalize hq : BitVec.ofBool e ++ 0b001001#6 ++ d ++ a ++ b ++ BitVec.ofBool x ++ BitVec.ofBool y ++ 0b10001#5 = q
  have h1 : (fld q 25 6).toNat = 9 := by
    subst hq; (try simp (disch := decide) only [fld, fld_hi, fld_lo, Nat.reduceSub]); rfl
  have h2 : (fld q 0 5).toNat = 17 := by
    subst hq; (try simp (disch := decide) only [fld, fld_hi, fld_lo, Nat.reduceSub]); rfl
  rw [major09 q h1, decode09, h2]
  subst hq
  try simp (disch := decide) only [fld, bit, fld_hi, fld_lo, fld_all, bit_hi, bit_lo, bit_ofBool, Nat.reduceSub, fld_nat]
  all_goals first | rfl | (simp_all [checked, control, bit]; done) | grind [checked, control, bit]
theorem vsar (e : Bool) (d : BitVec 6) (a : BitVec 6) (b : BitVec 6) (x : Bool) (y : Bool) : Statement (.vsar e d a b x y) := by
  intro _ _
  change decode (BitVec.ofBool e ++ 0b001001#6 ++ d ++ a ++ b ++ BitVec.ofBool x ++ BitVec.ofBool y ++ 0b10010#5) = _
  generalize hq : BitVec.ofBool e ++ 0b001001#6 ++ d ++ a ++ b ++ BitVec.ofBool x ++ BitVec.ofBool y ++ 0b10010#5 = q
  have h1 : (fld q 25 6).toNat = 9 := by
    subst hq; (try simp (disch := decide) only [fld, fld_hi, fld_lo, Nat.reduceSub]); rfl
  have h2 : (fld q 0 5).toNat = 18 := by
    subst hq; (try simp (disch := decide) only [fld, fld_hi, fld_lo, Nat.reduceSub]); rfl
  rw [major09 q h1, decode09, h2]
  subst hq
  try simp (disch := decide) only [fld, bit, fld_hi, fld_lo, fld_all, bit_hi, bit_lo, bit_ofBool, Nat.reduceSub, fld_nat]
  all_goals first | rfl | (simp_all [checked, control, bit]; done) | grind [checked, control, bit]
theorem vrot (e : Bool) (d : BitVec 6) (a : BitVec 6) (b : BitVec 6) (x : Bool) (y : Bool) : Statement (.vrot e d a b x y) := by
  intro _ _
  change decode (BitVec.ofBool e ++ 0b001001#6 ++ d ++ a ++ b ++ BitVec.ofBool x ++ BitVec.ofBool y ++ 0b10011#5) = _
  generalize hq : BitVec.ofBool e ++ 0b001001#6 ++ d ++ a ++ b ++ BitVec.ofBool x ++ BitVec.ofBool y ++ 0b10011#5 = q
  have h1 : (fld q 25 6).toNat = 9 := by
    subst hq; (try simp (disch := decide) only [fld, fld_hi, fld_lo, Nat.reduceSub]); rfl
  have h2 : (fld q 0 5).toNat = 19 := by
    subst hq; (try simp (disch := decide) only [fld, fld_hi, fld_lo, Nat.reduceSub]); rfl
  rw [major09 q h1, decode09, h2]
  subst hq
  try simp (disch := decide) only [fld, bit, fld_hi, fld_lo, fld_all, bit_hi, bit_lo, bit_ofBool, Nat.reduceSub, fld_nat]
  all_goals first | rfl | (simp_all [checked, control, bit]; done) | grind [checked, control, bit]
theorem vclz (e : Bool) (d : BitVec 6) (a : BitVec 6) (x : Bool) : Statement (.vclz e d a x) := by
  intro _ _
  change decode (BitVec.ofBool e ++ 0b001001#6 ++ d ++ a ++ 0b000000#6 ++ BitVec.ofBool x ++ 0b010100#6) = _
  generalize hq : BitVec.ofBool e ++ 0b001001#6 ++ d ++ a ++ 0b000000#6 ++ BitVec.ofBool x ++ 0b010100#6 = q
  have h1 : (fld q 25 6).toNat = 9 := by
    subst hq; (try simp (disch := decide) only [fld, fld_hi, fld_lo, Nat.reduceSub]); rfl
  have h2 : (fld q 0 5).toNat = 20 := by
    subst hq; (try simp (disch := decide) only [fld, fld_hi, fld_lo, Nat.reduceSub]); rfl
  rw [major09 q h1, decode09, h2]
  subst hq
  try simp (disch := decide) only [fld, bit, fld_hi, fld_lo, fld_all, bit_hi, bit_lo, bit_ofBool, Nat.reduceSub, fld_nat]
  all_goals first | rfl | (simp_all [checked, control, bit]; done) | grind [checked, control, bit]
theorem vffs (e : Bool) (d : BitVec 6) (a : BitVec 6) (x : Bool) : Statement (.vffs e d a x) := by
  intro _ _
  change decode (BitVec.ofBool e ++ 0b001001#6 ++ d ++ a ++ 0b000000#6 ++ BitVec.ofBool x ++ 0b010101#6) = _
  generalize hq : BitVec.ofBool e ++ 0b001001#6 ++ d ++ a ++ 0b000000#6 ++ BitVec.ofBool x ++ 0b010101#6 = q
  have h1 : (fld q 25 6).toNat = 9 := by
    subst hq; (try simp (disch := decide) only [fld, fld_hi, fld_lo, Nat.reduceSub]); rfl
  have h2 : (fld q 0 5).toNat = 21 := by
    subst hq; (try simp (disch := decide) only [fld, fld_hi, fld_lo, Nat.reduceSub]); rfl
  rw [major09 q h1, decode09, h2]
  subst hq
  try simp (disch := decide) only [fld, bit, fld_hi, fld_lo, fld_all, bit_hi, bit_lo, bit_ofBool, Nat.reduceSub, fld_nat]
  all_goals first | rfl | (simp_all [checked, control, bit]; done) | grind [checked, control, bit]
theorem vpopc (e : Bool) (d : BitVec 6) (a : BitVec 6) (x : Bool) : Statement (.vpopc e d a x) := by
  intro _ _
  change decode (BitVec.ofBool e ++ 0b001001#6 ++ d ++ a ++ 0b000000#6 ++ BitVec.ofBool x ++ 0b010110#6) = _
  generalize hq : BitVec.ofBool e ++ 0b001001#6 ++ d ++ a ++ 0b000000#6 ++ BitVec.ofBool x ++ 0b010110#6 = q
  have h1 : (fld q 25 6).toNat = 9 := by
    subst hq; (try simp (disch := decide) only [fld, fld_hi, fld_lo, Nat.reduceSub]); rfl
  have h2 : (fld q 0 5).toNat = 22 := by
    subst hq; (try simp (disch := decide) only [fld, fld_hi, fld_lo, Nat.reduceSub]); rfl
  rw [major09 q h1, decode09, h2]
  subst hq
  try simp (disch := decide) only [fld, bit, fld_hi, fld_lo, fld_all, bit_hi, bit_lo, bit_ofBool, Nat.reduceSub, fld_nat]
  all_goals first | rfl | (simp_all [checked, control, bit]; done) | grind [checked, control, bit]
theorem vbrev (e : Bool) (d : BitVec 6) (a : BitVec 6) (x : Bool) : Statement (.vbrev e d a x) := by
  intro _ _
  change decode (BitVec.ofBool e ++ 0b001001#6 ++ d ++ a ++ 0b000000#6 ++ BitVec.ofBool x ++ 0b010111#6) = _
  generalize hq : BitVec.ofBool e ++ 0b001001#6 ++ d ++ a ++ 0b000000#6 ++ BitVec.ofBool x ++ 0b010111#6 = q
  have h1 : (fld q 25 6).toNat = 9 := by
    subst hq; (try simp (disch := decide) only [fld, fld_hi, fld_lo, Nat.reduceSub]); rfl
  have h2 : (fld q 0 5).toNat = 23 := by
    subst hq; (try simp (disch := decide) only [fld, fld_hi, fld_lo, Nat.reduceSub]); rfl
  rw [major09 q h1, decode09, h2]
  subst hq
  try simp (disch := decide) only [fld, bit, fld_hi, fld_lo, fld_all, bit_hi, bit_lo, bit_ofBool, Nat.reduceSub, fld_nat]
  all_goals first | rfl | (simp_all [checked, control, bit]; done) | grind [checked, control, bit]
theorem vsel (e : Bool) (d : BitVec 6) (a : BitVec 6) (b : BitVec 6) (x : Bool) (y : Bool) : Statement (.vsel e d a b x y) := by
  intro _ _
  change decode (BitVec.ofBool e ++ 0b001001#6 ++ d ++ a ++ b ++ BitVec.ofBool x ++ BitVec.ofBool y ++ 0b11000#5) = _
  generalize hq : BitVec.ofBool e ++ 0b001001#6 ++ d ++ a ++ b ++ BitVec.ofBool x ++ BitVec.ofBool y ++ 0b11000#5 = q
  have h1 : (fld q 25 6).toNat = 9 := by
    subst hq; (try simp (disch := decide) only [fld, fld_hi, fld_lo, Nat.reduceSub]); rfl
  have h2 : (fld q 0 5).toNat = 24 := by
    subst hq; (try simp (disch := decide) only [fld, fld_hi, fld_lo, Nat.reduceSub]); rfl
  rw [major09 q h1, decode09, h2]
  subst hq
  try simp (disch := decide) only [fld, bit, fld_hi, fld_lo, fld_all, bit_hi, bit_lo, bit_ofBool, Nat.reduceSub, fld_nat]
  all_goals first | rfl | (simp_all [checked, control, bit]; done) | grind [checked, control, bit]
theorem vmov (e : Bool) (d : BitVec 6) (a : BitVec 6) (x : Bool) : Statement (.vmov e d a x) := by
  intro _ _
  change decode (BitVec.ofBool e ++ 0b001001#6 ++ d ++ a ++ 0b000000#6 ++ BitVec.ofBool x ++ 0b011001#6) = _
  generalize hq : BitVec.ofBool e ++ 0b001001#6 ++ d ++ a ++ 0b000000#6 ++ BitVec.ofBool x ++ 0b011001#6 = q
  have h1 : (fld q 25 6).toNat = 9 := by
    subst hq; (try simp (disch := decide) only [fld, fld_hi, fld_lo, Nat.reduceSub]); rfl
  have h2 : (fld q 0 5).toNat = 25 := by
    subst hq; (try simp (disch := decide) only [fld, fld_hi, fld_lo, Nat.reduceSub]); rfl
  rw [major09 q h1, decode09, h2]
  subst hq
  try simp (disch := decide) only [fld, bit, fld_hi, fld_lo, fld_all, bit_hi, bit_lo, bit_ofBool, Nat.reduceSub, fld_nat]
  all_goals first | rfl | (simp_all [checked, control, bit]; done) | grind [checked, control, bit]
theorem vaddImm (e : Bool) (d : BitVec 6) (a : BitVec 6) (i : BitVec 10) : Statement (.vaddImm e d a i) := by
  intro _ _
  change decode (BitVec.ofBool e ++ 0b001010#6 ++ d ++ a ++ 0b000#3 ++ i) = _
  generalize hq : BitVec.ofBool e ++ 0b001010#6 ++ d ++ a ++ 0b000#3 ++ i = q
  have h1 : (fld q 25 6).toNat = 10 := by
    subst hq; (try simp (disch := decide) only [fld, fld_hi, fld_lo, Nat.reduceSub]); rfl
  have h2 : (fld q 10 3).toNat = 0 := by
    subst hq; (try simp (disch := decide) only [fld, fld_hi, fld_lo, Nat.reduceSub]); rfl
  rw [major0A q h1, decode0A, h2]
  subst hq
  try simp (disch := decide) only [fld, bit, fld_hi, fld_lo, fld_all, bit_hi, bit_lo, bit_ofBool, Nat.reduceSub, fld_nat]
  all_goals first | rfl | (simp_all [checked, control, bit]; done) | grind [checked, control, bit]
theorem vmulImm (e : Bool) (d : BitVec 6) (a : BitVec 6) (i : BitVec 10) : Statement (.vmulImm e d a i) := by
  intro _ _
  change decode (BitVec.ofBool e ++ 0b001010#6 ++ d ++ a ++ 0b001#3 ++ i) = _
  generalize hq : BitVec.ofBool e ++ 0b001010#6 ++ d ++ a ++ 0b001#3 ++ i = q
  have h1 : (fld q 25 6).toNat = 10 := by
    subst hq; (try simp (disch := decide) only [fld, fld_hi, fld_lo, Nat.reduceSub]); rfl
  have h2 : (fld q 10 3).toNat = 1 := by
    subst hq; (try simp (disch := decide) only [fld, fld_hi, fld_lo, Nat.reduceSub]); rfl
  rw [major0A q h1, decode0A, h2]
  subst hq
  try simp (disch := decide) only [fld, bit, fld_hi, fld_lo, fld_all, bit_hi, bit_lo, bit_ofBool, Nat.reduceSub, fld_nat]
  all_goals first | rfl | (simp_all [checked, control, bit]; done) | grind [checked, control, bit]
theorem vandImm (e : Bool) (d : BitVec 6) (a : BitVec 6) (i : BitVec 10) : Statement (.vandImm e d a i) := by
  intro _ _
  change decode (BitVec.ofBool e ++ 0b001010#6 ++ d ++ a ++ 0b010#3 ++ i) = _
  generalize hq : BitVec.ofBool e ++ 0b001010#6 ++ d ++ a ++ 0b010#3 ++ i = q
  have h1 : (fld q 25 6).toNat = 10 := by
    subst hq; (try simp (disch := decide) only [fld, fld_hi, fld_lo, Nat.reduceSub]); rfl
  have h2 : (fld q 10 3).toNat = 2 := by
    subst hq; (try simp (disch := decide) only [fld, fld_hi, fld_lo, Nat.reduceSub]); rfl
  rw [major0A q h1, decode0A, h2]
  subst hq
  try simp (disch := decide) only [fld, bit, fld_hi, fld_lo, fld_all, bit_hi, bit_lo, bit_ofBool, Nat.reduceSub, fld_nat]
  all_goals first | rfl | (simp_all [checked, control, bit]; done) | grind [checked, control, bit]
theorem vorImm (e : Bool) (d : BitVec 6) (a : BitVec 6) (i : BitVec 10) : Statement (.vorImm e d a i) := by
  intro _ _
  change decode (BitVec.ofBool e ++ 0b001010#6 ++ d ++ a ++ 0b011#3 ++ i) = _
  generalize hq : BitVec.ofBool e ++ 0b001010#6 ++ d ++ a ++ 0b011#3 ++ i = q
  have h1 : (fld q 25 6).toNat = 10 := by
    subst hq; (try simp (disch := decide) only [fld, fld_hi, fld_lo, Nat.reduceSub]); rfl
  have h2 : (fld q 10 3).toNat = 3 := by
    subst hq; (try simp (disch := decide) only [fld, fld_hi, fld_lo, Nat.reduceSub]); rfl
  rw [major0A q h1, decode0A, h2]
  subst hq
  try simp (disch := decide) only [fld, bit, fld_hi, fld_lo, fld_all, bit_hi, bit_lo, bit_ofBool, Nat.reduceSub, fld_nat]
  all_goals first | rfl | (simp_all [checked, control, bit]; done) | grind [checked, control, bit]
theorem vxorImm (e : Bool) (d : BitVec 6) (a : BitVec 6) (i : BitVec 10) : Statement (.vxorImm e d a i) := by
  intro _ _
  change decode (BitVec.ofBool e ++ 0b001010#6 ++ d ++ a ++ 0b100#3 ++ i) = _
  generalize hq : BitVec.ofBool e ++ 0b001010#6 ++ d ++ a ++ 0b100#3 ++ i = q
  have h1 : (fld q 25 6).toNat = 10 := by
    subst hq; (try simp (disch := decide) only [fld, fld_hi, fld_lo, Nat.reduceSub]); rfl
  have h2 : (fld q 10 3).toNat = 4 := by
    subst hq; (try simp (disch := decide) only [fld, fld_hi, fld_lo, Nat.reduceSub]); rfl
  rw [major0A q h1, decode0A, h2]
  subst hq
  try simp (disch := decide) only [fld, bit, fld_hi, fld_lo, fld_all, bit_hi, bit_lo, bit_ofBool, Nat.reduceSub, fld_nat]
  all_goals first | rfl | (simp_all [checked, control, bit]; done) | grind [checked, control, bit]
theorem vshlImm (e : Bool) (d : BitVec 6) (a : BitVec 6) (i : BitVec 6) : Statement (.vshlImm e d a i) := by
  intro _ _
  change decode (BitVec.ofBool e ++ 0b001010#6 ++ d ++ a ++ 0b1010000#7 ++ i) = _
  generalize hq : BitVec.ofBool e ++ 0b001010#6 ++ d ++ a ++ 0b1010000#7 ++ i = q
  have h1 : (fld q 25 6).toNat = 10 := by
    subst hq; (try simp (disch := decide) only [fld, fld_hi, fld_lo, Nat.reduceSub]); rfl
  have h2 : (fld q 10 3).toNat = 5 := by
    subst hq; (try simp (disch := decide) only [fld, fld_hi, fld_lo, Nat.reduceSub]); rfl
  rw [major0A q h1, decode0A, h2]
  subst hq
  try simp (disch := decide) only [fld, bit, fld_hi, fld_lo, fld_all, bit_hi, bit_lo, bit_ofBool, Nat.reduceSub, fld_nat]
  all_goals first | rfl | (simp_all [checked, control, bit]; done) | grind [checked, control, bit]
theorem vshrImm (e : Bool) (d : BitVec 6) (a : BitVec 6) (i : BitVec 6) : Statement (.vshrImm e d a i) := by
  intro _ _
  change decode (BitVec.ofBool e ++ 0b001010#6 ++ d ++ a ++ 0b1100000#7 ++ i) = _
  generalize hq : BitVec.ofBool e ++ 0b001010#6 ++ d ++ a ++ 0b1100000#7 ++ i = q
  have h1 : (fld q 25 6).toNat = 10 := by
    subst hq; (try simp (disch := decide) only [fld, fld_hi, fld_lo, Nat.reduceSub]); rfl
  have h2 : (fld q 10 3).toNat = 6 := by
    subst hq; (try simp (disch := decide) only [fld, fld_hi, fld_lo, Nat.reduceSub]); rfl
  rw [major0A q h1, decode0A, h2]
  subst hq
  try simp (disch := decide) only [fld, bit, fld_hi, fld_lo, fld_all, bit_hi, bit_lo, bit_ofBool, Nat.reduceSub, fld_nat]
  all_goals first | rfl | (simp_all [checked, control, bit]; done) | grind [checked, control, bit]
theorem vsarImm (e : Bool) (d : BitVec 6) (a : BitVec 6) (i : BitVec 6) : Statement (.vsarImm e d a i) := by
  intro _ _
  change decode (BitVec.ofBool e ++ 0b001010#6 ++ d ++ a ++ 0b1110000#7 ++ i) = _
  generalize hq : BitVec.ofBool e ++ 0b001010#6 ++ d ++ a ++ 0b1110000#7 ++ i = q
  have h1 : (fld q 25 6).toNat = 10 := by
    subst hq; (try simp (disch := decide) only [fld, fld_hi, fld_lo, Nat.reduceSub]); rfl
  have h2 : (fld q 10 3).toNat = 7 := by
    subst hq; (try simp (disch := decide) only [fld, fld_hi, fld_lo, Nat.reduceSub]); rfl
  rw [major0A q h1, decode0A, h2]
  subst hq
  try simp (disch := decide) only [fld, bit, fld_hi, fld_lo, fld_all, bit_hi, bit_lo, bit_ofBool, Nat.reduceSub, fld_nat]
  all_goals first | rfl | (simp_all [checked, control, bit]; done) | grind [checked, control, bit]
theorem vli (e : Bool) (d : BitVec 6) (i : BitVec 19) : Statement (.vli e d i) := by
  intro _ _
  change decode (BitVec.ofBool e ++ 0b001011#6 ++ d ++ i) = _
  generalize hq : BitVec.ofBool e ++ 0b001011#6 ++ d ++ i = q
  have h1 : (fld q 25 6).toNat = 11 := by
    subst hq; (try simp (disch := decide) only [fld, fld_hi, fld_lo, Nat.reduceSub]); rfl
  rw [major0B q h1, decode0B]
  subst hq
  try simp (disch := decide) only [fld, bit, fld_hi, fld_lo, fld_all, bit_hi, bit_lo, bit_ofBool, Nat.reduceSub, fld_nat]
  all_goals first | rfl | (simp_all [checked, control, bit]; done) | grind [checked, control, bit]
theorem vlane (e : Bool) (d : BitVec 6) : Statement (.vlane e d) := by
  intro _ _
  change decode (BitVec.ofBool e ++ 0b001100#6 ++ d ++ 0b0000000000000000000#19) = _
  generalize hq : BitVec.ofBool e ++ 0b001100#6 ++ d ++ 0b0000000000000000000#19 = q
  have h1 : (fld q 25 6).toNat = 12 := by
    subst hq; (try simp (disch := decide) only [fld, fld_hi, fld_lo, Nat.reduceSub]); rfl
  have h2 : (fld q 0 5).toNat = 0 := by
    subst hq; (try simp (disch := decide) only [fld, fld_hi, fld_lo, Nat.reduceSub]); rfl
  rw [major0C q h1, decode0C, h2]
  subst hq
  try simp (disch := decide) only [fld, bit, fld_hi, fld_lo, fld_all, bit_hi, bit_lo, bit_ofBool, Nat.reduceSub, fld_nat]
  all_goals first | rfl | (simp_all [checked, control, bit]; done) | grind [checked, control, bit]
theorem vshf (e : Bool) (d : BitVec 6) (a : BitVec 6) (b : BitVec 6) (x : Bool) (y : Bool) : Statement (.vshf e d a b x y) := by
  intro _ _
  change decode (BitVec.ofBool e ++ 0b001100#6 ++ d ++ a ++ b ++ BitVec.ofBool x ++ BitVec.ofBool y ++ 0b00001#5) = _
  generalize hq : BitVec.ofBool e ++ 0b001100#6 ++ d ++ a ++ b ++ BitVec.ofBool x ++ BitVec.ofBool y ++ 0b00001#5 = q
  have h1 : (fld q 25 6).toNat = 12 := by
    subst hq; (try simp (disch := decide) only [fld, fld_hi, fld_lo, Nat.reduceSub]); rfl
  have h2 : (fld q 0 5).toNat = 1 := by
    subst hq; (try simp (disch := decide) only [fld, fld_hi, fld_lo, Nat.reduceSub]); rfl
  rw [major0C q h1, decode0C, h2]
  subst hq
  try simp (disch := decide) only [fld, bit, fld_hi, fld_lo, fld_all, bit_hi, bit_lo, bit_ofBool, Nat.reduceSub, fld_nat]
  all_goals first | rfl | (simp_all [checked, control, bit]; done) | grind [checked, control, bit]
theorem vstep (e : Bool) (d : BitVec 6) (a : BitVec 6) (b : BitVec 6) (x : Bool) : Statement (.vstep e d a b x) := by
  intro _ _
  change decode (BitVec.ofBool e ++ 0b001100#6 ++ d ++ a ++ b ++ BitVec.ofBool x ++ 0b000010#6) = _
  generalize hq : BitVec.ofBool e ++ 0b001100#6 ++ d ++ a ++ b ++ BitVec.ofBool x ++ 0b000010#6 = q
  have h1 : (fld q 25 6).toNat = 12 := by
    subst hq; (try simp (disch := decide) only [fld, fld_hi, fld_lo, Nat.reduceSub]); rfl
  have h2 : (fld q 0 5).toNat = 2 := by
    subst hq; (try simp (disch := decide) only [fld, fld_hi, fld_lo, Nat.reduceSub]); rfl
  rw [major0C q h1, decode0C, h2]
  subst hq
  try simp (disch := decide) only [fld, bit, fld_hi, fld_lo, fld_all, bit_hi, bit_lo, bit_ofBool, Nat.reduceSub, fld_nat]
  all_goals first | rfl | (simp_all [checked, control, bit]; done) | grind [checked, control, bit]
theorem vbcast (e : Bool) (d : BitVec 6) (a : BitVec 6) (b : BitVec 6) (x : Bool) : Statement (.vbcast e d a b x) := by
  intro _ _
  change decode (BitVec.ofBool e ++ 0b001100#6 ++ d ++ a ++ b ++ BitVec.ofBool x ++ 0b000011#6) = _
  generalize hq : BitVec.ofBool e ++ 0b001100#6 ++ d ++ a ++ b ++ BitVec.ofBool x ++ 0b000011#6 = q
  have h1 : (fld q 25 6).toNat = 12 := by
    subst hq; (try simp (disch := decide) only [fld, fld_hi, fld_lo, Nat.reduceSub]); rfl
  have h2 : (fld q 0 5).toNat = 3 := by
    subst hq; (try simp (disch := decide) only [fld, fld_hi, fld_lo, Nat.reduceSub]); rfl
  rw [major0C q h1, decode0C, h2]
  subst hq
  try simp (disch := decide) only [fld, bit, fld_hi, fld_lo, fld_all, bit_hi, bit_lo, bit_ofBool, Nat.reduceSub, fld_nat]
  all_goals first | rfl | (simp_all [checked, control, bit]; done) | grind [checked, control, bit]
theorem vget (e : Bool) (d : BitVec 6) (a : BitVec 6) (b : BitVec 6) (x : Bool) : Statement (.vget e d a b x) := by
  intro _ _
  change decode (BitVec.ofBool e ++ 0b001100#6 ++ d ++ a ++ b ++ BitVec.ofBool x ++ 0b000100#6) = _
  generalize hq : BitVec.ofBool e ++ 0b001100#6 ++ d ++ a ++ b ++ BitVec.ofBool x ++ 0b000100#6 = q
  have h1 : (fld q 25 6).toNat = 12 := by
    subst hq; (try simp (disch := decide) only [fld, fld_hi, fld_lo, Nat.reduceSub]); rfl
  have h2 : (fld q 0 5).toNat = 4 := by
    subst hq; (try simp (disch := decide) only [fld, fld_hi, fld_lo, Nat.reduceSub]); rfl
  rw [major0C q h1, decode0C, h2]
  subst hq
  try simp (disch := decide) only [fld, bit, fld_hi, fld_lo, fld_all, bit_hi, bit_lo, bit_ofBool, Nat.reduceSub, fld_nat]
  all_goals first | rfl | (simp_all [checked, control, bit]; done) | grind [checked, control, bit]
theorem vbfx (e : Bool) (d : BitVec 6) (a : BitVec 6) (b : BitVec 6) (x : Bool) (y : Bool) : Statement (.vbfx e d a b x y) := by
  intro _ _
  change decode (BitVec.ofBool e ++ 0b001100#6 ++ d ++ a ++ b ++ BitVec.ofBool x ++ BitVec.ofBool y ++ 0b00101#5) = _
  generalize hq : BitVec.ofBool e ++ 0b001100#6 ++ d ++ a ++ b ++ BitVec.ofBool x ++ BitVec.ofBool y ++ 0b00101#5 = q
  have h1 : (fld q 25 6).toNat = 12 := by
    subst hq; (try simp (disch := decide) only [fld, fld_hi, fld_lo, Nat.reduceSub]); rfl
  have h2 : (fld q 0 5).toNat = 5 := by
    subst hq; (try simp (disch := decide) only [fld, fld_hi, fld_lo, Nat.reduceSub]); rfl
  rw [major0C q h1, decode0C, h2]
  subst hq
  try simp (disch := decide) only [fld, bit, fld_hi, fld_lo, fld_all, bit_hi, bit_lo, bit_ofBool, Nat.reduceSub, fld_nat]
  all_goals first | rfl | (simp_all [checked, control, bit]; done) | grind [checked, control, bit]
theorem vbfi (e : Bool) (d : BitVec 6) (a : BitVec 6) (b : BitVec 6) (x : Bool) (y : Bool) : Statement (.vbfi e d a b x y) := by
  intro _ _
  change decode (BitVec.ofBool e ++ 0b001100#6 ++ d ++ a ++ b ++ BitVec.ofBool x ++ BitVec.ofBool y ++ 0b00110#5) = _
  generalize hq : BitVec.ofBool e ++ 0b001100#6 ++ d ++ a ++ b ++ BitVec.ofBool x ++ BitVec.ofBool y ++ 0b00110#5 = q
  have h1 : (fld q 25 6).toNat = 12 := by
    subst hq; (try simp (disch := decide) only [fld, fld_hi, fld_lo, Nat.reduceSub]); rfl
  have h2 : (fld q 0 5).toNat = 6 := by
    subst hq; (try simp (disch := decide) only [fld, fld_hi, fld_lo, Nat.reduceSub]); rfl
  rw [major0C q h1, decode0C, h2]
  subst hq
  try simp (disch := decide) only [fld, bit, fld_hi, fld_lo, fld_all, bit_hi, bit_lo, bit_ofBool, Nat.reduceSub, fld_nat]
  all_goals first | rfl | (simp_all [checked, control, bit]; done) | grind [checked, control, bit]
theorem vcmp (e : Bool) (d : BitVec 5) (a : BitVec 6) (b : BitVec 6) (x : Bool) (y : Bool) (c : BitVec 3) : Statement (.vcmp e d a b x y c) := by
  intro _ hg
  replace hg : (decide (c.toNat < 6)) = true := hg
  try simp only [Bool.and_eq_true, decide_eq_true_eq, bne_iff_ne] at hg
  change decode (BitVec.ofBool e ++ 0b0011010#7 ++ d ++ a ++ b ++ BitVec.ofBool x ++ BitVec.ofBool y ++ 0b00#2 ++ c) = _
  generalize hq : BitVec.ofBool e ++ 0b0011010#7 ++ d ++ a ++ b ++ BitVec.ofBool x ++ BitVec.ofBool y ++ 0b00#2 ++ c = q
  have h1 : (fld q 25 6).toNat = 13 := by
    subst hq; (try simp (disch := decide) only [fld, fld_hi, fld_lo, Nat.reduceSub]); rfl
  have h2 : (fld q 0 5).toNat = c.toNat := by
    subst hq; simp (disch := decide) only [fld, fld_hi, fld_lo, fld_nat, fld_all, Nat.reduceSub]
    first | (simp; done) | (simp; omega)
  have hs : c.toNat = 0 ∨ c.toNat = 1 ∨ c.toNat = 2 ∨ c.toNat = 3 ∨ c.toNat = 4 ∨ c.toNat = 5 := by have := hg; omega
  rw [major0D q h1, decode0D]
  rcases hs with k | k | k | k | k | k <;> rw [h2, k]
  all_goals subst hq
  all_goals try simp (disch := decide) only [fld, bit, fld_hi, fld_lo, fld_all, bit_hi, bit_lo, bit_ofBool, Nat.reduceSub, fld_nat]
  all_goals first | rfl | (simp_all [checked, control, bit]; done) | grind [checked, control, bit]
theorem plog (e : Bool) (d : BitVec 5) (a : BitVec 5) (b : BitVec 5) (o : BitVec 3) : Statement (.plog e d a b o) := by
  intro _ hg
  replace hg : (plogOk o a b) = true := hg
  try simp only [Bool.and_eq_true, decide_eq_true_eq, bne_iff_ne] at hg
  change decode (BitVec.ofBool e ++ 0b0011010#7 ++ d ++ 0b0#1 ++ a ++ 0b0#1 ++ b ++ 0b0001#4 ++ o) = _
  generalize hq : BitVec.ofBool e ++ 0b0011010#7 ++ d ++ 0b0#1 ++ a ++ 0b0#1 ++ b ++ 0b0001#4 ++ o = q
  have h1 : (fld q 25 6).toNat = 13 := by
    subst hq; (try simp (disch := decide) only [fld, fld_hi, fld_lo, Nat.reduceSub]); rfl
  have h2 : (fld q 0 5).toNat = 8 + o.toNat := by
    subst hq; simp (disch := decide) only [fld, fld_hi, fld_lo, fld_nat, fld_all, Nat.reduceSub]
    first | (simp; done) | (simp; omega)
  have hs : o.toNat = 0 ∨ o.toNat = 1 ∨ o.toNat = 2 ∨ o.toNat = 3 ∨ o.toNat = 4 ∨ o.toNat = 5 ∨ o.toNat = 6 ∨ o.toNat = 7 := by have := hg; omega
  rw [major0D q h1, decode0D]
  rcases hs with k | k | k | k | k | k | k | k <;> rw [h2, k]
  all_goals subst hq
  all_goals try simp (disch := decide) only [fld, bit, fld_hi, fld_lo, fld_all, bit_hi, bit_lo, bit_ofBool, Nat.reduceSub, fld_nat]
  all_goals simp (disch := decide) only [plogUnused, fld, bit, fld_hi, fld_lo, fld_all, bit_hi, bit_lo, bit_ofBool, Nat.reduceSub, fld_nat]
  all_goals simp_all [checked, plogOk, fld_pred]
theorem fadd (e : Bool) (d : BitVec 6) (a : BitVec 6) (b : BitVec 6) (x : Bool) (y : Bool) : Statement (.fadd e d a b x y) := by
  intro _ _
  change decode (BitVec.ofBool e ++ 0b010000#6 ++ d ++ a ++ b ++ BitVec.ofBool x ++ BitVec.ofBool y ++ 0b00000#5) = _
  generalize hq : BitVec.ofBool e ++ 0b010000#6 ++ d ++ a ++ b ++ BitVec.ofBool x ++ BitVec.ofBool y ++ 0b00000#5 = q
  have h1 : (fld q 25 6).toNat = 16 := by
    subst hq; (try simp (disch := decide) only [fld, fld_hi, fld_lo, Nat.reduceSub]); rfl
  have h2 : (fld q 0 5).toNat = 0 := by
    subst hq; (try simp (disch := decide) only [fld, fld_hi, fld_lo, Nat.reduceSub]); rfl
  rw [major10 q h1, decode10, h2]
  subst hq
  try simp (disch := decide) only [fld, bit, fld_hi, fld_lo, fld_all, bit_hi, bit_lo, bit_ofBool, Nat.reduceSub, fld_nat]
  all_goals first | rfl | (simp_all [checked, control, bit]; done) | grind [checked, control, bit]
theorem fsub (e : Bool) (d : BitVec 6) (a : BitVec 6) (b : BitVec 6) (x : Bool) (y : Bool) : Statement (.fsub e d a b x y) := by
  intro _ _
  change decode (BitVec.ofBool e ++ 0b010000#6 ++ d ++ a ++ b ++ BitVec.ofBool x ++ BitVec.ofBool y ++ 0b00001#5) = _
  generalize hq : BitVec.ofBool e ++ 0b010000#6 ++ d ++ a ++ b ++ BitVec.ofBool x ++ BitVec.ofBool y ++ 0b00001#5 = q
  have h1 : (fld q 25 6).toNat = 16 := by
    subst hq; (try simp (disch := decide) only [fld, fld_hi, fld_lo, Nat.reduceSub]); rfl
  have h2 : (fld q 0 5).toNat = 1 := by
    subst hq; (try simp (disch := decide) only [fld, fld_hi, fld_lo, Nat.reduceSub]); rfl
  rw [major10 q h1, decode10, h2]
  subst hq
  try simp (disch := decide) only [fld, bit, fld_hi, fld_lo, fld_all, bit_hi, bit_lo, bit_ofBool, Nat.reduceSub, fld_nat]
  all_goals first | rfl | (simp_all [checked, control, bit]; done) | grind [checked, control, bit]
theorem fmul (e : Bool) (d : BitVec 6) (a : BitVec 6) (b : BitVec 6) (x : Bool) (y : Bool) : Statement (.fmul e d a b x y) := by
  intro _ _
  change decode (BitVec.ofBool e ++ 0b010000#6 ++ d ++ a ++ b ++ BitVec.ofBool x ++ BitVec.ofBool y ++ 0b00010#5) = _
  generalize hq : BitVec.ofBool e ++ 0b010000#6 ++ d ++ a ++ b ++ BitVec.ofBool x ++ BitVec.ofBool y ++ 0b00010#5 = q
  have h1 : (fld q 25 6).toNat = 16 := by
    subst hq; (try simp (disch := decide) only [fld, fld_hi, fld_lo, Nat.reduceSub]); rfl
  have h2 : (fld q 0 5).toNat = 2 := by
    subst hq; (try simp (disch := decide) only [fld, fld_hi, fld_lo, Nat.reduceSub]); rfl
  rw [major10 q h1, decode10, h2]
  subst hq
  try simp (disch := decide) only [fld, bit, fld_hi, fld_lo, fld_all, bit_hi, bit_lo, bit_ofBool, Nat.reduceSub, fld_nat]
  all_goals first | rfl | (simp_all [checked, control, bit]; done) | grind [checked, control, bit]
theorem fmin (e : Bool) (d : BitVec 6) (a : BitVec 6) (b : BitVec 6) (x : Bool) (y : Bool) : Statement (.fmin e d a b x y) := by
  intro _ _
  change decode (BitVec.ofBool e ++ 0b010000#6 ++ d ++ a ++ b ++ BitVec.ofBool x ++ BitVec.ofBool y ++ 0b00011#5) = _
  generalize hq : BitVec.ofBool e ++ 0b010000#6 ++ d ++ a ++ b ++ BitVec.ofBool x ++ BitVec.ofBool y ++ 0b00011#5 = q
  have h1 : (fld q 25 6).toNat = 16 := by
    subst hq; (try simp (disch := decide) only [fld, fld_hi, fld_lo, Nat.reduceSub]); rfl
  have h2 : (fld q 0 5).toNat = 3 := by
    subst hq; (try simp (disch := decide) only [fld, fld_hi, fld_lo, Nat.reduceSub]); rfl
  rw [major10 q h1, decode10, h2]
  subst hq
  try simp (disch := decide) only [fld, bit, fld_hi, fld_lo, fld_all, bit_hi, bit_lo, bit_ofBool, Nat.reduceSub, fld_nat]
  all_goals first | rfl | (simp_all [checked, control, bit]; done) | grind [checked, control, bit]
theorem fmax (e : Bool) (d : BitVec 6) (a : BitVec 6) (b : BitVec 6) (x : Bool) (y : Bool) : Statement (.fmax e d a b x y) := by
  intro _ _
  change decode (BitVec.ofBool e ++ 0b010000#6 ++ d ++ a ++ b ++ BitVec.ofBool x ++ BitVec.ofBool y ++ 0b00100#5) = _
  generalize hq : BitVec.ofBool e ++ 0b010000#6 ++ d ++ a ++ b ++ BitVec.ofBool x ++ BitVec.ofBool y ++ 0b00100#5 = q
  have h1 : (fld q 25 6).toNat = 16 := by
    subst hq; (try simp (disch := decide) only [fld, fld_hi, fld_lo, Nat.reduceSub]); rfl
  have h2 : (fld q 0 5).toNat = 4 := by
    subst hq; (try simp (disch := decide) only [fld, fld_hi, fld_lo, Nat.reduceSub]); rfl
  rw [major10 q h1, decode10, h2]
  subst hq
  try simp (disch := decide) only [fld, bit, fld_hi, fld_lo, fld_all, bit_hi, bit_lo, bit_ofBool, Nat.reduceSub, fld_nat]
  all_goals first | rfl | (simp_all [checked, control, bit]; done) | grind [checked, control, bit]
theorem fabs (e : Bool) (d : BitVec 6) (a : BitVec 6) (x : Bool) : Statement (.fabs e d a x) := by
  intro _ _
  change decode (BitVec.ofBool e ++ 0b010000#6 ++ d ++ a ++ 0b000000#6 ++ BitVec.ofBool x ++ 0b000101#6) = _
  generalize hq : BitVec.ofBool e ++ 0b010000#6 ++ d ++ a ++ 0b000000#6 ++ BitVec.ofBool x ++ 0b000101#6 = q
  have h1 : (fld q 25 6).toNat = 16 := by
    subst hq; (try simp (disch := decide) only [fld, fld_hi, fld_lo, Nat.reduceSub]); rfl
  have h2 : (fld q 0 5).toNat = 5 := by
    subst hq; (try simp (disch := decide) only [fld, fld_hi, fld_lo, Nat.reduceSub]); rfl
  rw [major10 q h1, decode10, h2]
  subst hq
  try simp (disch := decide) only [fld, bit, fld_hi, fld_lo, fld_all, bit_hi, bit_lo, bit_ofBool, Nat.reduceSub, fld_nat]
  all_goals first | rfl | (simp_all [checked, control, bit]; done) | grind [checked, control, bit]
theorem fneg (e : Bool) (d : BitVec 6) (a : BitVec 6) (x : Bool) : Statement (.fneg e d a x) := by
  intro _ _
  change decode (BitVec.ofBool e ++ 0b010000#6 ++ d ++ a ++ 0b000000#6 ++ BitVec.ofBool x ++ 0b000110#6) = _
  generalize hq : BitVec.ofBool e ++ 0b010000#6 ++ d ++ a ++ 0b000000#6 ++ BitVec.ofBool x ++ 0b000110#6 = q
  have h1 : (fld q 25 6).toNat = 16 := by
    subst hq; (try simp (disch := decide) only [fld, fld_hi, fld_lo, Nat.reduceSub]); rfl
  have h2 : (fld q 0 5).toNat = 6 := by
    subst hq; (try simp (disch := decide) only [fld, fld_hi, fld_lo, Nat.reduceSub]); rfl
  rw [major10 q h1, decode10, h2]
  subst hq
  try simp (disch := decide) only [fld, bit, fld_hi, fld_lo, fld_all, bit_hi, bit_lo, bit_ofBool, Nat.reduceSub, fld_nat]
  all_goals first | rfl | (simp_all [checked, control, bit]; done) | grind [checked, control, bit]
theorem fclass (e : Bool) (d : BitVec 6) (a : BitVec 6) (x : Bool) : Statement (.fclass e d a x) := by
  intro _ _
  change decode (BitVec.ofBool e ++ 0b010000#6 ++ d ++ a ++ 0b000000#6 ++ BitVec.ofBool x ++ 0b000111#6) = _
  generalize hq : BitVec.ofBool e ++ 0b010000#6 ++ d ++ a ++ 0b000000#6 ++ BitVec.ofBool x ++ 0b000111#6 = q
  have h1 : (fld q 25 6).toNat = 16 := by
    subst hq; (try simp (disch := decide) only [fld, fld_hi, fld_lo, Nat.reduceSub]); rfl
  have h2 : (fld q 0 5).toNat = 7 := by
    subst hq; (try simp (disch := decide) only [fld, fld_hi, fld_lo, Nat.reduceSub]); rfl
  rw [major10 q h1, decode10, h2]
  subst hq
  try simp (disch := decide) only [fld, bit, fld_hi, fld_lo, fld_all, bit_hi, bit_lo, bit_ofBool, Nat.reduceSub, fld_nat]
  all_goals first | rfl | (simp_all [checked, control, bit]; done) | grind [checked, control, bit]
theorem frint (e : Bool) (d : BitVec 6) (a : BitVec 6) (x : Bool) : Statement (.frint e d a x) := by
  intro _ _
  change decode (BitVec.ofBool e ++ 0b010000#6 ++ d ++ a ++ 0b000000#6 ++ BitVec.ofBool x ++ 0b001000#6) = _
  generalize hq : BitVec.ofBool e ++ 0b010000#6 ++ d ++ a ++ 0b000000#6 ++ BitVec.ofBool x ++ 0b001000#6 = q
  have h1 : (fld q 25 6).toNat = 16 := by
    subst hq; (try simp (disch := decide) only [fld, fld_hi, fld_lo, Nat.reduceSub]); rfl
  have h2 : (fld q 0 5).toNat = 8 := by
    subst hq; (try simp (disch := decide) only [fld, fld_hi, fld_lo, Nat.reduceSub]); rfl
  rw [major10 q h1, decode10, h2]
  subst hq
  try simp (disch := decide) only [fld, bit, fld_hi, fld_lo, fld_all, bit_hi, bit_lo, bit_ofBool, Nat.reduceSub, fld_nat]
  all_goals first | rfl | (simp_all [checked, control, bit]; done) | grind [checked, control, bit]
theorem fdiv (e : Bool) (d : BitVec 6) (a : BitVec 6) (b : BitVec 6) (x : Bool) (y : Bool) : Statement (.fdiv e d a b x y) := by
  intro _ _
  change decode (BitVec.ofBool e ++ 0b010000#6 ++ d ++ a ++ b ++ BitVec.ofBool x ++ BitVec.ofBool y ++ 0b01001#5) = _
  generalize hq : BitVec.ofBool e ++ 0b010000#6 ++ d ++ a ++ b ++ BitVec.ofBool x ++ BitVec.ofBool y ++ 0b01001#5 = q
  have h1 : (fld q 25 6).toNat = 16 := by
    subst hq; (try simp (disch := decide) only [fld, fld_hi, fld_lo, Nat.reduceSub]); rfl
  have h2 : (fld q 0 5).toNat = 9 := by
    subst hq; (try simp (disch := decide) only [fld, fld_hi, fld_lo, Nat.reduceSub]); rfl
  rw [major10 q h1, decode10, h2]
  subst hq
  try simp (disch := decide) only [fld, bit, fld_hi, fld_lo, fld_all, bit_hi, bit_lo, bit_ofBool, Nat.reduceSub, fld_nat]
  all_goals first | rfl | (simp_all [checked, control, bit]; done) | grind [checked, control, bit]
theorem fcmp (e : Bool) (d : BitVec 5) (a : BitVec 6) (b : BitVec 6) (x : Bool) (y : Bool) (c : BitVec 3) : Statement (.fcmp e d a b x y c) := by
  intro _ _
  change decode (BitVec.ofBool e ++ 0b0100000#7 ++ d ++ a ++ b ++ BitVec.ofBool x ++ BitVec.ofBool y ++ 0b10#2 ++ c) = _
  generalize hq : BitVec.ofBool e ++ 0b0100000#7 ++ d ++ a ++ b ++ BitVec.ofBool x ++ BitVec.ofBool y ++ 0b10#2 ++ c = q
  have h1 : (fld q 25 6).toNat = 16 := by
    subst hq; (try simp (disch := decide) only [fld, fld_hi, fld_lo, Nat.reduceSub]); rfl
  have h2 : (fld q 0 5).toNat = 16 + c.toNat := by
    subst hq; simp (disch := decide) only [fld, fld_hi, fld_lo, fld_nat, fld_all, Nat.reduceSub]
    first | (simp; done) | (simp; omega)
  have hs : c.toNat = 0 ∨ c.toNat = 1 ∨ c.toNat = 2 ∨ c.toNat = 3 ∨ c.toNat = 4 ∨ c.toNat = 5 ∨ c.toNat = 6 ∨ c.toNat = 7 := by omega
  rw [major10 q h1, decode10]
  rcases hs with k | k | k | k | k | k | k | k <;> rw [h2, k]
  all_goals subst hq
  all_goals try simp (disch := decide) only [fld, bit, fld_hi, fld_lo, fld_all, bit_hi, bit_lo, bit_ofBool, Nat.reduceSub, fld_nat]
  all_goals first | rfl | (simp_all [checked, control, bit]; done) | grind [checked, control, bit]
theorem frcp (e : Bool) (d : BitVec 6) (a : BitVec 6) (x : Bool) : Statement (.frcp e d a x) := by
  intro _ _
  change decode (BitVec.ofBool e ++ 0b010001#6 ++ d ++ a ++ 0b000000#6 ++ BitVec.ofBool x ++ 0b000000#6) = _
  generalize hq : BitVec.ofBool e ++ 0b010001#6 ++ d ++ a ++ 0b000000#6 ++ BitVec.ofBool x ++ 0b000000#6 = q
  have h1 : (fld q 25 6).toNat = 17 := by
    subst hq; (try simp (disch := decide) only [fld, fld_hi, fld_lo, Nat.reduceSub]); rfl
  have h2 : (fld q 0 5).toNat = 0 := by
    subst hq; (try simp (disch := decide) only [fld, fld_hi, fld_lo, Nat.reduceSub]); rfl
  rw [major11 q h1, decode11, h2]
  subst hq
  try simp (disch := decide) only [fld, bit, fld_hi, fld_lo, fld_all, bit_hi, bit_lo, bit_ofBool, Nat.reduceSub, fld_nat]
  all_goals first | rfl | (simp_all [checked, control, bit]; done) | grind [checked, control, bit]
theorem frsq (e : Bool) (d : BitVec 6) (a : BitVec 6) (x : Bool) : Statement (.frsq e d a x) := by
  intro _ _
  change decode (BitVec.ofBool e ++ 0b010001#6 ++ d ++ a ++ 0b000000#6 ++ BitVec.ofBool x ++ 0b000001#6) = _
  generalize hq : BitVec.ofBool e ++ 0b010001#6 ++ d ++ a ++ 0b000000#6 ++ BitVec.ofBool x ++ 0b000001#6 = q
  have h1 : (fld q 25 6).toNat = 17 := by
    subst hq; (try simp (disch := decide) only [fld, fld_hi, fld_lo, Nat.reduceSub]); rfl
  have h2 : (fld q 0 5).toNat = 1 := by
    subst hq; (try simp (disch := decide) only [fld, fld_hi, fld_lo, Nat.reduceSub]); rfl
  rw [major11 q h1, decode11, h2]
  subst hq
  try simp (disch := decide) only [fld, bit, fld_hi, fld_lo, fld_all, bit_hi, bit_lo, bit_ofBool, Nat.reduceSub, fld_nat]
  all_goals first | rfl | (simp_all [checked, control, bit]; done) | grind [checked, control, bit]
theorem fsqrt (e : Bool) (d : BitVec 6) (a : BitVec 6) (x : Bool) : Statement (.fsqrt e d a x) := by
  intro _ _
  change decode (BitVec.ofBool e ++ 0b010001#6 ++ d ++ a ++ 0b000000#6 ++ BitVec.ofBool x ++ 0b000010#6) = _
  generalize hq : BitVec.ofBool e ++ 0b010001#6 ++ d ++ a ++ 0b000000#6 ++ BitVec.ofBool x ++ 0b000010#6 = q
  have h1 : (fld q 25 6).toNat = 17 := by
    subst hq; (try simp (disch := decide) only [fld, fld_hi, fld_lo, Nat.reduceSub]); rfl
  have h2 : (fld q 0 5).toNat = 2 := by
    subst hq; (try simp (disch := decide) only [fld, fld_hi, fld_lo, Nat.reduceSub]); rfl
  rw [major11 q h1, decode11, h2]
  subst hq
  try simp (disch := decide) only [fld, bit, fld_hi, fld_lo, fld_all, bit_hi, bit_lo, bit_ofBool, Nat.reduceSub, fld_nat]
  all_goals first | rfl | (simp_all [checked, control, bit]; done) | grind [checked, control, bit]
theorem fexp2 (e : Bool) (d : BitVec 6) (a : BitVec 6) (x : Bool) : Statement (.fexp2 e d a x) := by
  intro _ _
  change decode (BitVec.ofBool e ++ 0b010001#6 ++ d ++ a ++ 0b000000#6 ++ BitVec.ofBool x ++ 0b000011#6) = _
  generalize hq : BitVec.ofBool e ++ 0b010001#6 ++ d ++ a ++ 0b000000#6 ++ BitVec.ofBool x ++ 0b000011#6 = q
  have h1 : (fld q 25 6).toNat = 17 := by
    subst hq; (try simp (disch := decide) only [fld, fld_hi, fld_lo, Nat.reduceSub]); rfl
  have h2 : (fld q 0 5).toNat = 3 := by
    subst hq; (try simp (disch := decide) only [fld, fld_hi, fld_lo, Nat.reduceSub]); rfl
  rw [major11 q h1, decode11, h2]
  subst hq
  try simp (disch := decide) only [fld, bit, fld_hi, fld_lo, fld_all, bit_hi, bit_lo, bit_ofBool, Nat.reduceSub, fld_nat]
  all_goals first | rfl | (simp_all [checked, control, bit]; done) | grind [checked, control, bit]
theorem flog2 (e : Bool) (d : BitVec 6) (a : BitVec 6) (x : Bool) : Statement (.flog2 e d a x) := by
  intro _ _
  change decode (BitVec.ofBool e ++ 0b010001#6 ++ d ++ a ++ 0b000000#6 ++ BitVec.ofBool x ++ 0b000100#6) = _
  generalize hq : BitVec.ofBool e ++ 0b010001#6 ++ d ++ a ++ 0b000000#6 ++ BitVec.ofBool x ++ 0b000100#6 = q
  have h1 : (fld q 25 6).toNat = 17 := by
    subst hq; (try simp (disch := decide) only [fld, fld_hi, fld_lo, Nat.reduceSub]); rfl
  have h2 : (fld q 0 5).toNat = 4 := by
    subst hq; (try simp (disch := decide) only [fld, fld_hi, fld_lo, Nat.reduceSub]); rfl
  rw [major11 q h1, decode11, h2]
  subst hq
  try simp (disch := decide) only [fld, bit, fld_hi, fld_lo, fld_all, bit_hi, bit_lo, bit_ofBool, Nat.reduceSub, fld_nat]
  all_goals first | rfl | (simp_all [checked, control, bit]; done) | grind [checked, control, bit]
theorem fsin (e : Bool) (d : BitVec 6) (a : BitVec 6) (x : Bool) : Statement (.fsin e d a x) := by
  intro _ _
  change decode (BitVec.ofBool e ++ 0b010001#6 ++ d ++ a ++ 0b000000#6 ++ BitVec.ofBool x ++ 0b000101#6) = _
  generalize hq : BitVec.ofBool e ++ 0b010001#6 ++ d ++ a ++ 0b000000#6 ++ BitVec.ofBool x ++ 0b000101#6 = q
  have h1 : (fld q 25 6).toNat = 17 := by
    subst hq; (try simp (disch := decide) only [fld, fld_hi, fld_lo, Nat.reduceSub]); rfl
  have h2 : (fld q 0 5).toNat = 5 := by
    subst hq; (try simp (disch := decide) only [fld, fld_hi, fld_lo, Nat.reduceSub]); rfl
  rw [major11 q h1, decode11, h2]
  subst hq
  try simp (disch := decide) only [fld, bit, fld_hi, fld_lo, fld_all, bit_hi, bit_lo, bit_ofBool, Nat.reduceSub, fld_nat]
  all_goals first | rfl | (simp_all [checked, control, bit]; done) | grind [checked, control, bit]
theorem fcos (e : Bool) (d : BitVec 6) (a : BitVec 6) (x : Bool) : Statement (.fcos e d a x) := by
  intro _ _
  change decode (BitVec.ofBool e ++ 0b010001#6 ++ d ++ a ++ 0b000000#6 ++ BitVec.ofBool x ++ 0b000110#6) = _
  generalize hq : BitVec.ofBool e ++ 0b010001#6 ++ d ++ a ++ 0b000000#6 ++ BitVec.ofBool x ++ 0b000110#6 = q
  have h1 : (fld q 25 6).toNat = 17 := by
    subst hq; (try simp (disch := decide) only [fld, fld_hi, fld_lo, Nat.reduceSub]); rfl
  have h2 : (fld q 0 5).toNat = 6 := by
    subst hq; (try simp (disch := decide) only [fld, fld_hi, fld_lo, Nat.reduceSub]); rfl
  rw [major11 q h1, decode11, h2]
  subst hq
  try simp (disch := decide) only [fld, bit, fld_hi, fld_lo, fld_all, bit_hi, bit_lo, bit_ofBool, Nat.reduceSub, fld_nat]
  all_goals first | rfl | (simp_all [checked, control, bit]; done) | grind [checked, control, bit]
theorem ftanh (e : Bool) (d : BitVec 6) (a : BitVec 6) (x : Bool) : Statement (.ftanh e d a x) := by
  intro _ _
  change decode (BitVec.ofBool e ++ 0b010001#6 ++ d ++ a ++ 0b000000#6 ++ BitVec.ofBool x ++ 0b000111#6) = _
  generalize hq : BitVec.ofBool e ++ 0b010001#6 ++ d ++ a ++ 0b000000#6 ++ BitVec.ofBool x ++ 0b000111#6 = q
  have h1 : (fld q 25 6).toNat = 17 := by
    subst hq; (try simp (disch := decide) only [fld, fld_hi, fld_lo, Nat.reduceSub]); rfl
  have h2 : (fld q 0 5).toNat = 7 := by
    subst hq; (try simp (disch := decide) only [fld, fld_hi, fld_lo, Nat.reduceSub]); rfl
  rw [major11 q h1, decode11, h2]
  subst hq
  try simp (disch := decide) only [fld, bit, fld_hi, fld_lo, fld_all, bit_hi, bit_lo, bit_ofBool, Nat.reduceSub, fld_nat]
  all_goals first | rfl | (simp_all [checked, control, bit]; done) | grind [checked, control, bit]
theorem ffma (e : Bool) (d : BitVec 6) (a : BitVec 6) (b : BitVec 6) (x : Bool) (y : Bool) (o : BitVec 2) : Statement (.ffma e d a b x y o) := by
  intro _ _
  change decode (BitVec.ofBool e ++ 0b010010#6 ++ d ++ a ++ b ++ BitVec.ofBool x ++ BitVec.ofBool y ++ 0b000#3 ++ o) = _
  generalize hq : BitVec.ofBool e ++ 0b010010#6 ++ d ++ a ++ b ++ BitVec.ofBool x ++ BitVec.ofBool y ++ 0b000#3 ++ o = q
  have h1 : (fld q 25 6).toNat = 18 := by
    subst hq; (try simp (disch := decide) only [fld, fld_hi, fld_lo, Nat.reduceSub]); rfl
  have h2 : (fld q 0 5).toNat = o.toNat := by
    subst hq; simp (disch := decide) only [fld, fld_hi, fld_lo, fld_nat, fld_all, Nat.reduceSub]
    first | (simp; done) | (simp; omega)
  have hs : o.toNat = 0 ∨ o.toNat = 1 ∨ o.toNat = 2 ∨ o.toNat = 3 := by omega
  rw [major12 q h1, decode12]
  rcases hs with k | k | k | k <;> rw [h2, k]
  all_goals subst hq
  all_goals try simp (disch := decide) only [fld, bit, fld_hi, fld_lo, fld_all, bit_hi, bit_lo, bit_ofBool, Nat.reduceSub, fld_nat]
  all_goals first | rfl | (simp_all [checked, control, bit]; done) | grind [checked, control, bit]
theorem fflags (e : Bool) (d : BitVec 6) (a : BitVec 6) (b : BitVec 6) : Statement (.fflags e d a b) := by
  intro _ _
  change decode (BitVec.ofBool e ++ 0b010011#6 ++ d ++ a ++ b ++ 0b0000000#7) = _
  generalize hq : BitVec.ofBool e ++ 0b010011#6 ++ d ++ a ++ b ++ 0b0000000#7 = q
  have h1 : (fld q 25 6).toNat = 19 := by
    subst hq; (try simp (disch := decide) only [fld, fld_hi, fld_lo, Nat.reduceSub]); rfl
  have h2 : (fld q 0 7).toNat = 0 := by
    subst hq; (try simp (disch := decide) only [fld, fld_hi, fld_lo, Nat.reduceSub]); rfl
  rw [major13 q h1, decode13, h2]
  subst hq
  try simp (disch := decide) only [fld, bit, fld_hi, fld_lo, fld_all, bit_hi, bit_lo, bit_ofBool, Nat.reduceSub, fld_nat]
  all_goals first | rfl | (simp_all [checked, control, bit]; done) | grind [checked, control, bit]
theorem cvt (e : Bool) (d : BitVec 6) (a : BitVec 6) (t : BitVec 6) (x : Bool) : Statement (.cvt e d a t x) := by
  intro _ hg
  replace hg : (decide (t.toNat < 12)) = true := hg
  try simp only [Bool.and_eq_true, decide_eq_true_eq, bne_iff_ne] at hg
  change decode (BitVec.ofBool e ++ 0b011000#6 ++ d ++ a ++ t ++ BitVec.ofBool x ++ 0b000000#6) = _
  generalize hq : BitVec.ofBool e ++ 0b011000#6 ++ d ++ a ++ t ++ BitVec.ofBool x ++ 0b000000#6 = q
  have h1 : (fld q 25 6).toNat = 24 := by
    subst hq; (try simp (disch := decide) only [fld, fld_hi, fld_lo, Nat.reduceSub]); rfl
  have h2 : (fld q 0 5).toNat = 0 := by
    subst hq; (try simp (disch := decide) only [fld, fld_hi, fld_lo, Nat.reduceSub]); rfl
  rw [major18 q h1, decode18, h2]
  subst hq
  try simp (disch := decide) only [fld, bit, fld_hi, fld_lo, fld_all, bit_hi, bit_lo, bit_ofBool, Nat.reduceSub, fld_nat]
  all_goals first | rfl | (simp_all [checked, control, bit]; done) | grind [checked, control, bit]
theorem unpk (e : Bool) (d : BitVec 6) (a : BitVec 6) (t : BitVec 6) (x : Bool) (p : BitVec 3) : Statement (.unpk e d a t x p) := by
  intro _ hg
  replace hg : (unpkOk t p) = true := hg
  try simp only [Bool.and_eq_true, decide_eq_true_eq, bne_iff_ne] at hg
  change decode (BitVec.ofBool e ++ 0b011000#6 ++ d ++ a ++ t ++ BitVec.ofBool x ++ 0b001#3 ++ p) = _
  generalize hq : BitVec.ofBool e ++ 0b011000#6 ++ d ++ a ++ t ++ BitVec.ofBool x ++ 0b001#3 ++ p = q
  have h1 : (fld q 25 6).toNat = 24 := by
    subst hq; (try simp (disch := decide) only [fld, fld_hi, fld_lo, Nat.reduceSub]); rfl
  have h2 : (fld q 0 5).toNat = 8 + p.toNat := by
    subst hq; simp (disch := decide) only [fld, fld_hi, fld_lo, fld_nat, fld_all, Nat.reduceSub]
    first | (simp; done) | (simp; omega)
  have hs : p.toNat = 0 ∨ p.toNat = 1 ∨ p.toNat = 2 ∨ p.toNat = 3 ∨ p.toNat = 4 ∨ p.toNat = 5 ∨ p.toNat = 6 ∨ p.toNat = 7 := by have := hg; omega
  rw [major18 q h1, decode18]
  rcases hs with k | k | k | k | k | k | k | k <;> rw [h2, k]
  all_goals subst hq
  all_goals try simp (disch := decide) only [fld, bit, fld_hi, fld_lo, fld_all, bit_hi, bit_lo, bit_ofBool, Nat.reduceSub, fld_nat]
  all_goals first | rfl | (simp_all [checked, control, bit]; done) | grind [checked, control, bit]
theorem pack2Bf16 (e : Bool) (d : BitVec 6) (a : BitVec 6) (b : BitVec 6) (x : Bool) (y : Bool) : Statement (.pack2Bf16 e d a b x y) := by
  intro _ _
  change decode (BitVec.ofBool e ++ 0b011001#6 ++ d ++ a ++ b ++ BitVec.ofBool x ++ BitVec.ofBool y ++ 0b00110#5) = _
  generalize hq : BitVec.ofBool e ++ 0b011001#6 ++ d ++ a ++ b ++ BitVec.ofBool x ++ BitVec.ofBool y ++ 0b00110#5 = q
  have h1 : (fld q 25 6).toNat = 25 := by
    subst hq; (try simp (disch := decide) only [fld, fld_hi, fld_lo, Nat.reduceSub]); rfl
  have h2 : (fld q 0 5).toNat = 6 := by
    subst hq; (try simp (disch := decide) only [fld, fld_hi, fld_lo, Nat.reduceSub]); rfl
  rw [major19 q h1, decode19, h2]
  subst hq
  try simp (disch := decide) only [fld, bit, fld_hi, fld_lo, fld_all, bit_hi, bit_lo, bit_ofBool, Nat.reduceSub, fld_nat]
  all_goals first | rfl | (simp_all [checked, control, bit]; done) | grind [checked, control, bit]
theorem pack2F16 (e : Bool) (d : BitVec 6) (a : BitVec 6) (b : BitVec 6) (x : Bool) (y : Bool) : Statement (.pack2F16 e d a b x y) := by
  intro _ _
  change decode (BitVec.ofBool e ++ 0b011001#6 ++ d ++ a ++ b ++ BitVec.ofBool x ++ BitVec.ofBool y ++ 0b00111#5) = _
  generalize hq : BitVec.ofBool e ++ 0b011001#6 ++ d ++ a ++ b ++ BitVec.ofBool x ++ BitVec.ofBool y ++ 0b00111#5 = q
  have h1 : (fld q 25 6).toNat = 25 := by
    subst hq; (try simp (disch := decide) only [fld, fld_hi, fld_lo, Nat.reduceSub]); rfl
  have h2 : (fld q 0 5).toNat = 7 := by
    subst hq; (try simp (disch := decide) only [fld, fld_hi, fld_lo, Nat.reduceSub]); rfl
  rw [major19 q h1, decode19, h2]
  subst hq
  try simp (disch := decide) only [fld, bit, fld_hi, fld_lo, fld_all, bit_hi, bit_lo, bit_ofBool, Nat.reduceSub, fld_nat]
  all_goals first | rfl | (simp_all [checked, control, bit]; done) | grind [checked, control, bit]
theorem pack4E4m3 (e : Bool) (d : BitVec 6) (a : BitVec 5) (b : BitVec 5) (x : Bool) (y : Bool) : Statement (.pack4E4m3 e d a b x y) := by
  intro _ _
  change decode (BitVec.ofBool e ++ 0b011001#6 ++ d ++ a ++ 0b0#1 ++ b ++ 0b0#1 ++ BitVec.ofBool x ++ BitVec.ofBool y ++ 0b01001#5) = _
  generalize hq : BitVec.ofBool e ++ 0b011001#6 ++ d ++ a ++ 0b0#1 ++ b ++ 0b0#1 ++ BitVec.ofBool x ++ BitVec.ofBool y ++ 0b01001#5 = q
  have h1 : (fld q 25 6).toNat = 25 := by
    subst hq; (try simp (disch := decide) only [fld, fld_hi, fld_lo, Nat.reduceSub]); rfl
  have h2 : (fld q 0 5).toNat = 9 := by
    subst hq; (try simp (disch := decide) only [fld, fld_hi, fld_lo, Nat.reduceSub]); rfl
  rw [major19 q h1, decode19, h2]
  subst hq
  try simp (disch := decide) only [fld, bit, fld_hi, fld_lo, fld_all, bit_hi, bit_lo, bit_ofBool, Nat.reduceSub, fld_nat]
  all_goals first | rfl | (simp_all [checked, control, bit]; done) | grind [checked, control, bit]
theorem pack4E5m2 (e : Bool) (d : BitVec 6) (a : BitVec 5) (b : BitVec 5) (x : Bool) (y : Bool) : Statement (.pack4E5m2 e d a b x y) := by
  intro _ _
  change decode (BitVec.ofBool e ++ 0b011001#6 ++ d ++ a ++ 0b0#1 ++ b ++ 0b0#1 ++ BitVec.ofBool x ++ BitVec.ofBool y ++ 0b01010#5) = _
  generalize hq : BitVec.ofBool e ++ 0b011001#6 ++ d ++ a ++ 0b0#1 ++ b ++ 0b0#1 ++ BitVec.ofBool x ++ BitVec.ofBool y ++ 0b01010#5 = q
  have h1 : (fld q 25 6).toNat = 25 := by
    subst hq; (try simp (disch := decide) only [fld, fld_hi, fld_lo, Nat.reduceSub]); rfl
  have h2 : (fld q 0 5).toNat = 10 := by
    subst hq; (try simp (disch := decide) only [fld, fld_hi, fld_lo, Nat.reduceSub]); rfl
  rw [major19 q h1, decode19, h2]
  subst hq
  try simp (disch := decide) only [fld, bit, fld_hi, fld_lo, fld_all, bit_hi, bit_lo, bit_ofBool, Nat.reduceSub, fld_nat]
  all_goals first | rfl | (simp_all [checked, control, bit]; done) | grind [checked, control, bit]
theorem pack4hLo (e : Bool) (d : BitVec 6) (a : BitVec 5) (b : BitVec 5) (x : Bool) (y : Bool) : Statement (.pack4hLo e d a b x y) := by
  intro _ _
  change decode (BitVec.ofBool e ++ 0b011001#6 ++ d ++ a ++ 0b0#1 ++ b ++ 0b0#1 ++ BitVec.ofBool x ++ BitVec.ofBool y ++ 0b10000#5) = _
  generalize hq : BitVec.ofBool e ++ 0b011001#6 ++ d ++ a ++ 0b0#1 ++ b ++ 0b0#1 ++ BitVec.ofBool x ++ BitVec.ofBool y ++ 0b10000#5 = q
  have h1 : (fld q 25 6).toNat = 25 := by
    subst hq; (try simp (disch := decide) only [fld, fld_hi, fld_lo, Nat.reduceSub]); rfl
  have h2 : (fld q 0 5).toNat = 16 := by
    subst hq; (try simp (disch := decide) only [fld, fld_hi, fld_lo, Nat.reduceSub]); rfl
  rw [major19 q h1, decode19, h2]
  subst hq
  try simp (disch := decide) only [fld, bit, fld_hi, fld_lo, fld_all, bit_hi, bit_lo, bit_ofBool, Nat.reduceSub, fld_nat]
  all_goals first | rfl | (simp_all [checked, control, bit]; done) | grind [checked, control, bit]
theorem pack4hHi (e : Bool) (d : BitVec 6) (a : BitVec 5) (b : BitVec 5) (x : Bool) (y : Bool) : Statement (.pack4hHi e d a b x y) := by
  intro _ _
  change decode (BitVec.ofBool e ++ 0b011001#6 ++ d ++ a ++ 0b0#1 ++ b ++ 0b0#1 ++ BitVec.ofBool x ++ BitVec.ofBool y ++ 0b10001#5) = _
  generalize hq : BitVec.ofBool e ++ 0b011001#6 ++ d ++ a ++ 0b0#1 ++ b ++ 0b0#1 ++ BitVec.ofBool x ++ BitVec.ofBool y ++ 0b10001#5 = q
  have h1 : (fld q 25 6).toNat = 25 := by
    subst hq; (try simp (disch := decide) only [fld, fld_hi, fld_lo, Nat.reduceSub]); rfl
  have h2 : (fld q 0 5).toNat = 17 := by
    subst hq; (try simp (disch := decide) only [fld, fld_hi, fld_lo, Nat.reduceSub]); rfl
  rw [major19 q h1, decode19, h2]
  subst hq
  try simp (disch := decide) only [fld, bit, fld_hi, fld_lo, fld_all, bit_hi, bit_lo, bit_ofBool, Nat.reduceSub, fld_nat]
  all_goals first | rfl | (simp_all [checked, control, bit]; done) | grind [checked, control, bit]
theorem bscale (e : Bool) (d : BitVec 6) (a : BitVec 6) (t : BitVec 6) (x : Bool) : Statement (.bscale e d a t x) := by
  intro _ hg
  replace hg : (bscaleOk t) = true := hg
  try simp only [Bool.and_eq_true, decide_eq_true_eq, bne_iff_ne] at hg
  change decode (BitVec.ofBool e ++ 0b011010#6 ++ d ++ a ++ t ++ BitVec.ofBool x ++ 0b000000#6) = _
  generalize hq : BitVec.ofBool e ++ 0b011010#6 ++ d ++ a ++ t ++ BitVec.ofBool x ++ 0b000000#6 = q
  have h1 : (fld q 25 6).toNat = 26 := by
    subst hq; (try simp (disch := decide) only [fld, fld_hi, fld_lo, Nat.reduceSub]); rfl
  have h2 : (fld q 0 5).toNat = 0 := by
    subst hq; (try simp (disch := decide) only [fld, fld_hi, fld_lo, Nat.reduceSub]); rfl
  rw [major1A q h1, decode1A, h2]
  subst hq
  try simp (disch := decide) only [fld, bit, fld_hi, fld_lo, fld_all, bit_hi, bit_lo, bit_ofBool, Nat.reduceSub, fld_nat]
  all_goals first | rfl | (simp_all [checked, control, bit]; done) | grind [checked, control, bit]
theorem qcb (e : Bool) (d : BitVec 6) (a : BitVec 6) (k : BitVec 2) (x : Bool) : Statement (.qcb e d a k x) := by
  intro _ _
  change decode (BitVec.ofBool e ++ 0b011010#6 ++ d ++ a ++ 0b0000#4 ++ k ++ BitVec.ofBool x ++ 0b000001#6) = _
  generalize hq : BitVec.ofBool e ++ 0b011010#6 ++ d ++ a ++ 0b0000#4 ++ k ++ BitVec.ofBool x ++ 0b000001#6 = q
  have h1 : (fld q 25 6).toNat = 26 := by
    subst hq; (try simp (disch := decide) only [fld, fld_hi, fld_lo, Nat.reduceSub]); rfl
  have h2 : (fld q 0 5).toNat = 1 := by
    subst hq; (try simp (disch := decide) only [fld, fld_hi, fld_lo, Nat.reduceSub]); rfl
  rw [major1A q h1, decode1A, h2]
  subst hq
  try simp (disch := decide) only [fld, bit, fld_hi, fld_lo, fld_all, bit_hi, bit_lo, bit_ofBool, Nat.reduceSub, fld_nat]
  all_goals first | rfl | (simp_all [checked, control, bit]; done) | grind [checked, control, bit]
theorem xset (e : Bool) (d : BitVec 6) (a : BitVec 6) (b : BitVec 6) (x : Bool) (y : Bool) : Statement (.xset e d a b x y) := by
  intro _ _
  change decode (BitVec.ofBool e ++ 0b011010#6 ++ d ++ a ++ b ++ BitVec.ofBool x ++ BitVec.ofBool y ++ 0b00010#5) = _
  generalize hq : BitVec.ofBool e ++ 0b011010#6 ++ d ++ a ++ b ++ BitVec.ofBool x ++ BitVec.ofBool y ++ 0b00010#5 = q
  have h1 : (fld q 25 6).toNat = 26 := by
    subst hq; (try simp (disch := decide) only [fld, fld_hi, fld_lo, Nat.reduceSub]); rfl
  have h2 : (fld q 0 5).toNat = 2 := by
    subst hq; (try simp (disch := decide) only [fld, fld_hi, fld_lo, Nat.reduceSub]); rfl
  rw [major1A q h1, decode1A, h2]
  subst hq
  try simp (disch := decide) only [fld, bit, fld_hi, fld_lo, fld_all, bit_hi, bit_lo, bit_ofBool, Nat.reduceSub, fld_nat]
  all_goals first | rfl | (simp_all [checked, control, bit]; done) | grind [checked, control, bit]
theorem cbld (e : Bool) (k : BitVec 2) (a : BitVec 6) (x : Bool) : Statement (.cbld e k a x) := by
  intro _ _
  change decode (BitVec.ofBool e ++ 0b0110110000#10 ++ k ++ a ++ 0b000000#6 ++ BitVec.ofBool x ++ 0b000000#6) = _
  generalize hq : BitVec.ofBool e ++ 0b0110110000#10 ++ k ++ a ++ 0b000000#6 ++ BitVec.ofBool x ++ 0b000000#6 = q
  have h1 : (fld q 25 6).toNat = 27 := by
    subst hq; (try simp (disch := decide) only [fld, fld_hi, fld_lo, Nat.reduceSub]); rfl
  have h2 : (fld q 0 5).toNat = 0 := by
    subst hq; (try simp (disch := decide) only [fld, fld_hi, fld_lo, Nat.reduceSub]); rfl
  rw [major1B q h1, decode1B, h2]
  subst hq
  try simp (disch := decide) only [fld, bit, fld_hi, fld_lo, fld_all, bit_hi, bit_lo, bit_ofBool, Nat.reduceSub, fld_nat]
  all_goals first | rfl | (simp_all [checked, control, bit]; done) | grind [checked, control, bit]
theorem qlat (e : Bool) (d : BitVec 6) (a : BitVec 3) (b : BitVec 6) (x : Bool) (y : Bool) : Statement (.qlat e d a b x y) := by
  intro _ _
  change decode (BitVec.ofBool e ++ 0b011100#6 ++ d ++ a ++ 0b000#3 ++ b ++ BitVec.ofBool x ++ BitVec.ofBool y ++ 0b00000#5) = _
  generalize hq : BitVec.ofBool e ++ 0b011100#6 ++ d ++ a ++ 0b000#3 ++ b ++ BitVec.ofBool x ++ BitVec.ofBool y ++ 0b00000#5 = q
  have h1 : (fld q 25 6).toNat = 28 := by
    subst hq; (try simp (disch := decide) only [fld, fld_hi, fld_lo, Nat.reduceSub]); rfl
  have h2 : (fld q 0 5).toNat = 0 := by
    subst hq; (try simp (disch := decide) only [fld, fld_hi, fld_lo, Nat.reduceSub]); rfl
  rw [major1C q h1, decode1C, h2]
  subst hq
  try simp (disch := decide) only [fld, bit, fld_hi, fld_lo, fld_all, bit_hi, bit_lo, bit_ofBool, Nat.reduceSub, fld_nat]
  all_goals first | rfl | (simp_all [checked, control, bit]; done) | grind [checked, control, bit]
theorem dlat (e : Bool) (d : BitVec 3) (a : BitVec 6) (b : BitVec 6) (x : Bool) (y : Bool) : Statement (.dlat e d a b x y) := by
  intro _ _
  change decode (BitVec.ofBool e ++ 0b011100#6 ++ d ++ 0b000#3 ++ a ++ b ++ BitVec.ofBool x ++ BitVec.ofBool y ++ 0b00001#5) = _
  generalize hq : BitVec.ofBool e ++ 0b011100#6 ++ d ++ 0b000#3 ++ a ++ b ++ BitVec.ofBool x ++ BitVec.ofBool y ++ 0b00001#5 = q
  have h1 : (fld q 25 6).toNat = 28 := by
    subst hq; (try simp (disch := decide) only [fld, fld_hi, fld_lo, Nat.reduceSub]); rfl
  have h2 : (fld q 0 5).toNat = 1 := by
    subst hq; (try simp (disch := decide) only [fld, fld_hi, fld_lo, Nat.reduceSub]); rfl
  rw [major1C q h1, decode1C, h2]
  subst hq
  try simp (disch := decide) only [fld, bit, fld_hi, fld_lo, fld_all, bit_hi, bit_lo, bit_ofBool, Nat.reduceSub, fld_nat]
  all_goals first | rfl | (simp_all [checked, control, bit]; done) | grind [checked, control, bit]
theorem lput (e : Bool) (d : BitVec 6) (a : BitVec 6) (b : BitVec 6) (x : Bool) (y : Bool) : Statement (.lput e d a b x y) := by
  intro _ _
  change decode (BitVec.ofBool e ++ 0b011100#6 ++ d ++ a ++ b ++ BitVec.ofBool x ++ BitVec.ofBool y ++ 0b00010#5) = _
  generalize hq : BitVec.ofBool e ++ 0b011100#6 ++ d ++ a ++ b ++ BitVec.ofBool x ++ BitVec.ofBool y ++ 0b00010#5 = q
  have h1 : (fld q 25 6).toNat = 28 := by
    subst hq; (try simp (disch := decide) only [fld, fld_hi, fld_lo, Nat.reduceSub]); rfl
  have h2 : (fld q 0 5).toNat = 2 := by
    subst hq; (try simp (disch := decide) only [fld, fld_hi, fld_lo, Nat.reduceSub]); rfl
  rw [major1C q h1, decode1C, h2]
  subst hq
  try simp (disch := decide) only [fld, bit, fld_hi, fld_lo, fld_all, bit_hi, bit_lo, bit_ofBool, Nat.reduceSub, fld_nat]
  all_goals first | rfl | (simp_all [checked, control, bit]; done) | grind [checked, control, bit]
theorem lscale (e : Bool) (d : BitVec 6) (a : BitVec 3) (b : BitVec 6) (x : Bool) (y : Bool) : Statement (.lscale e d a b x y) := by
  intro _ _
  change decode (BitVec.ofBool e ++ 0b011101#6 ++ d ++ a ++ 0b000#3 ++ b ++ BitVec.ofBool x ++ BitVec.ofBool y ++ 0b00000#5) = _
  generalize hq : BitVec.ofBool e ++ 0b011101#6 ++ d ++ a ++ 0b000#3 ++ b ++ BitVec.ofBool x ++ BitVec.ofBool y ++ 0b00000#5 = q
  have h1 : (fld q 25 6).toNat = 29 := by
    subst hq; (try simp (disch := decide) only [fld, fld_hi, fld_lo, Nat.reduceSub]); rfl
  have h2 : (fld q 0 5).toNat = 0 := by
    subst hq; (try simp (disch := decide) only [fld, fld_hi, fld_lo, Nat.reduceSub]); rfl
  rw [major1D q h1, decode1D, h2]
  subst hq
  try simp (disch := decide) only [fld, bit, fld_hi, fld_lo, fld_all, bit_hi, bit_lo, bit_ofBool, Nat.reduceSub, fld_nat]
  all_goals first | rfl | (simp_all [checked, control, bit]; done) | grind [checked, control, bit]
theorem lshell (e : Bool) (d : BitVec 6) (a : BitVec 6) (b : BitVec 6) (x : Bool) (y : Bool) : Statement (.lshell e d a b x y) := by
  intro _ _
  change decode (BitVec.ofBool e ++ 0b011101#6 ++ d ++ a ++ b ++ BitVec.ofBool x ++ BitVec.ofBool y ++ 0b00001#5) = _
  generalize hq : BitVec.ofBool e ++ 0b011101#6 ++ d ++ a ++ b ++ BitVec.ofBool x ++ BitVec.ofBool y ++ 0b00001#5 = q
  have h1 : (fld q 25 6).toNat = 29 := by
    subst hq; (try simp (disch := decide) only [fld, fld_hi, fld_lo, Nat.reduceSub]); rfl
  have h2 : (fld q 0 5).toNat = 1 := by
    subst hq; (try simp (disch := decide) only [fld, fld_hi, fld_lo, Nat.reduceSub]); rfl
  rw [major1D q h1, decode1D, h2]
  subst hq
  try simp (disch := decide) only [fld, bit, fld_hi, fld_lo, fld_all, bit_hi, bit_lo, bit_ofBool, Nat.reduceSub, fld_nat]
  all_goals first | rfl | (simp_all [checked, control, bit]; done) | grind [checked, control, bit]
theorem lget (e : Bool) (d : BitVec 6) (a : BitVec 6) (b : BitVec 6) (x : Bool) (y : Bool) : Statement (.lget e d a b x y) := by
  intro _ _
  change decode (BitVec.ofBool e ++ 0b011101#6 ++ d ++ a ++ b ++ BitVec.ofBool x ++ BitVec.ofBool y ++ 0b00010#5) = _
  generalize hq : BitVec.ofBool e ++ 0b011101#6 ++ d ++ a ++ b ++ BitVec.ofBool x ++ BitVec.ofBool y ++ 0b00010#5 = q
  have h1 : (fld q 25 6).toNat = 29 := by
    subst hq; (try simp (disch := decide) only [fld, fld_hi, fld_lo, Nat.reduceSub]); rfl
  have h2 : (fld q 0 5).toNat = 2 := by
    subst hq; (try simp (disch := decide) only [fld, fld_hi, fld_lo, Nat.reduceSub]); rfl
  rw [major1D q h1, decode1D, h2]
  subst hq
  try simp (disch := decide) only [fld, bit, fld_hi, fld_lo, fld_all, bit_hi, bit_lo, bit_ofBool, Nat.reduceSub, fld_nat]
  all_goals first | rfl | (simp_all [checked, control, bit]; done) | grind [checked, control, bit]
theorem lpack (e : Bool) (d : BitVec 6) (a : BitVec 6) (b : BitVec 6) (x : Bool) (y : Bool) : Statement (.lpack e d a b x y) := by
  intro _ _
  change decode (BitVec.ofBool e ++ 0b011101#6 ++ d ++ a ++ b ++ BitVec.ofBool x ++ BitVec.ofBool y ++ 0b00011#5) = _
  generalize hq : BitVec.ofBool e ++ 0b011101#6 ++ d ++ a ++ b ++ BitVec.ofBool x ++ BitVec.ofBool y ++ 0b00011#5 = q
  have h1 : (fld q 25 6).toNat = 29 := by
    subst hq; (try simp (disch := decide) only [fld, fld_hi, fld_lo, Nat.reduceSub]); rfl
  have h2 : (fld q 0 5).toNat = 3 := by
    subst hq; (try simp (disch := decide) only [fld, fld_hi, fld_lo, Nat.reduceSub]); rfl
  rw [major1D q h1, decode1D, h2]
  subst hq
  try simp (disch := decide) only [fld, bit, fld_hi, fld_lo, fld_all, bit_hi, bit_lo, bit_ofBool, Nat.reduceSub, fld_nat]
  all_goals first | rfl | (simp_all [checked, control, bit]; done) | grind [checked, control, bit]
theorem lchk (e : Bool) (d : BitVec 5) (a : BitVec 6) (s : BitVec 2) (x : Bool) : Statement (.lchk e d a s x) := by
  intro _ hg
  replace hg : (decide (s.toNat < 3)) = true := hg
  try simp only [Bool.and_eq_true, decide_eq_true_eq, bne_iff_ne] at hg
  change decode (BitVec.ofBool e ++ 0b0111010#7 ++ d ++ a ++ 0b0000#4 ++ s ++ BitVec.ofBool x ++ 0b000100#6) = _
  generalize hq : BitVec.ofBool e ++ 0b0111010#7 ++ d ++ a ++ 0b0000#4 ++ s ++ BitVec.ofBool x ++ 0b000100#6 = q
  have h1 : (fld q 25 6).toNat = 29 := by
    subst hq; (try simp (disch := decide) only [fld, fld_hi, fld_lo, Nat.reduceSub]); rfl
  have h2 : (fld q 0 5).toNat = 4 := by
    subst hq; (try simp (disch := decide) only [fld, fld_hi, fld_lo, Nat.reduceSub]); rfl
  rw [major1D q h1, decode1D, h2]
  subst hq
  try simp (disch := decide) only [fld, bit, fld_hi, fld_lo, fld_all, bit_hi, bit_lo, bit_ofBool, Nat.reduceSub, fld_nat]
  all_goals first | rfl | (simp_all [checked, control, bit]; done) | grind [checked, control, bit]
theorem tld (e : Bool) (v : BitVec 6) (h : BitVec 6) (c : BitVec 6) (l : Bool) : Statement (.tld e v h c l) := by
  intro _ _
  change decode (BitVec.ofBool e ++ 0b011110#6 ++ v ++ h ++ c ++ BitVec.ofBool l ++ 0b000000#6) = _
  generalize hq : BitVec.ofBool e ++ 0b011110#6 ++ v ++ h ++ c ++ BitVec.ofBool l ++ 0b000000#6 = q
  have h1 : (fld q 25 6).toNat = 30 := by
    subst hq; (try simp (disch := decide) only [fld, fld_hi, fld_lo, Nat.reduceSub]); rfl
  have h2 : (fld q 0 6).toNat = 0 := by
    subst hq; (try simp (disch := decide) only [fld, fld_hi, fld_lo, Nat.reduceSub]); rfl
  rw [major1E q h1, decode1E, h2]
  subst hq
  try simp (disch := decide) only [fld, bit, fld_hi, fld_lo, fld_all, bit_hi, bit_lo, bit_ofBool, Nat.reduceSub, fld_nat]
  all_goals first | rfl | (simp_all [checked, control, bit]; done) | grind [checked, control, bit]
theorem tst (e : Bool) (v : BitVec 6) (h : BitVec 6) (c : BitVec 6) (l : Bool) : Statement (.tst e v h c l) := by
  intro _ _
  change decode (BitVec.ofBool e ++ 0b011110#6 ++ v ++ h ++ c ++ BitVec.ofBool l ++ 0b000001#6) = _
  generalize hq : BitVec.ofBool e ++ 0b011110#6 ++ v ++ h ++ c ++ BitVec.ofBool l ++ 0b000001#6 = q
  have h1 : (fld q 25 6).toNat = 30 := by
    subst hq; (try simp (disch := decide) only [fld, fld_hi, fld_lo, Nat.reduceSub]); rfl
  have h2 : (fld q 0 6).toNat = 1 := by
    subst hq; (try simp (disch := decide) only [fld, fld_hi, fld_lo, Nat.reduceSub]); rfl
  rw [major1E q h1, decode1E, h2]
  subst hq
  try simp (disch := decide) only [fld, bit, fld_hi, fld_lo, fld_all, bit_hi, bit_lo, bit_ofBool, Nat.reduceSub, fld_nat]
  all_goals first | rfl | (simp_all [checked, control, bit]; done) | grind [checked, control, bit]
theorem tlds (e : Bool) (v : BitVec 6) (h : BitVec 6) (c : BitVec 6) : Statement (.tlds e v h c) := by
  intro _ _
  change decode (BitVec.ofBool e ++ 0b011110#6 ++ v ++ h ++ c ++ 0b0000010#7) = _
  generalize hq : BitVec.ofBool e ++ 0b011110#6 ++ v ++ h ++ c ++ 0b0000010#7 = q
  have h1 : (fld q 25 6).toNat = 30 := by
    subst hq; (try simp (disch := decide) only [fld, fld_hi, fld_lo, Nat.reduceSub]); rfl
  have h2 : (fld q 0 6).toNat = 2 := by
    subst hq; (try simp (disch := decide) only [fld, fld_hi, fld_lo, Nat.reduceSub]); rfl
  rw [major1E q h1, decode1E, h2]
  subst hq
  try simp (disch := decide) only [fld, bit, fld_hi, fld_lo, fld_all, bit_hi, bit_lo, bit_ofBool, Nat.reduceSub, fld_nat]
  all_goals first | rfl | (simp_all [checked, control, bit]; done) | grind [checked, control, bit]
theorem talloc (e : Bool) (v : BitVec 6) (h : BitVec 6) (c : BitVec 6) : Statement (.talloc e v h c) := by
  intro _ _
  change decode (BitVec.ofBool e ++ 0b011111#6 ++ v ++ h ++ c ++ 0b0000000#7) = _
  generalize hq : BitVec.ofBool e ++ 0b011111#6 ++ v ++ h ++ c ++ 0b0000000#7 = q
  have h1 : (fld q 25 6).toNat = 31 := by
    subst hq; (try simp (disch := decide) only [fld, fld_hi, fld_lo, Nat.reduceSub]); rfl
  have h2 : (fld q 0 6).toNat = 0 := by
    subst hq; (try simp (disch := decide) only [fld, fld_hi, fld_lo, Nat.reduceSub]); rfl
  rw [major1F q h1, decode1F, h2]
  subst hq
  try simp (disch := decide) only [fld, bit, fld_hi, fld_lo, fld_all, bit_hi, bit_lo, bit_ofBool, Nat.reduceSub, fld_nat]
  all_goals first | rfl | (simp_all [checked, control, bit]; done) | grind [checked, control, bit]
theorem tfree (e : Bool) (v : BitVec 6) (h : BitVec 6) : Statement (.tfree e v h) := by
  intro _ _
  change decode (BitVec.ofBool e ++ 0b011111#6 ++ v ++ h ++ 0b0000000000001#13) = _
  generalize hq : BitVec.ofBool e ++ 0b011111#6 ++ v ++ h ++ 0b0000000000001#13 = q
  have h1 : (fld q 25 6).toNat = 31 := by
    subst hq; (try simp (disch := decide) only [fld, fld_hi, fld_lo, Nat.reduceSub]); rfl
  have h2 : (fld q 0 6).toNat = 1 := by
    subst hq; (try simp (disch := decide) only [fld, fld_hi, fld_lo, Nat.reduceSub]); rfl
  rw [major1F q h1, decode1F, h2]
  subst hq
  try simp (disch := decide) only [fld, bit, fld_hi, fld_lo, fld_all, bit_hi, bit_lo, bit_ofBool, Nat.reduceSub, fld_nat]
  all_goals first | rfl | (simp_all [checked, control, bit]; done) | grind [checked, control, bit]
theorem tinfo (e : Bool) (v : BitVec 6) (h : BitVec 6) : Statement (.tinfo e v h) := by
  intro _ _
  change decode (BitVec.ofBool e ++ 0b011111#6 ++ v ++ h ++ 0b0000000000010#13) = _
  generalize hq : BitVec.ofBool e ++ 0b011111#6 ++ v ++ h ++ 0b0000000000010#13 = q
  have h1 : (fld q 25 6).toNat = 31 := by
    subst hq; (try simp (disch := decide) only [fld, fld_hi, fld_lo, Nat.reduceSub]); rfl
  have h2 : (fld q 0 6).toNat = 2 := by
    subst hq; (try simp (disch := decide) only [fld, fld_hi, fld_lo, Nat.reduceSub]); rfl
  rw [major1F q h1, decode1F, h2]
  subst hq
  try simp (disch := decide) only [fld, bit, fld_hi, fld_lo, fld_all, bit_hi, bit_lo, bit_ofBool, Nat.reduceSub, fld_nat]
  all_goals first | rfl | (simp_all [checked, control, bit]; done) | grind [checked, control, bit]
theorem tfill (e : Bool) (v : BitVec 6) (h : BitVec 6) : Statement (.tfill e v h) := by
  intro _ _
  change decode (BitVec.ofBool e ++ 0b011111#6 ++ v ++ h ++ 0b0000000000011#13) = _
  generalize hq : BitVec.ofBool e ++ 0b011111#6 ++ v ++ h ++ 0b0000000000011#13 = q
  have h1 : (fld q 25 6).toNat = 31 := by
    subst hq; (try simp (disch := decide) only [fld, fld_hi, fld_lo, Nat.reduceSub]); rfl
  have h2 : (fld q 0 6).toNat = 3 := by
    subst hq; (try simp (disch := decide) only [fld, fld_hi, fld_lo, Nat.reduceSub]); rfl
  rw [major1F q h1, decode1F, h2]
  subst hq
  try simp (disch := decide) only [fld, bit, fld_hi, fld_lo, fld_all, bit_hi, bit_lo, bit_ofBool, Nat.reduceSub, fld_nat]
  all_goals first | rfl | (simp_all [checked, control, bit]; done) | grind [checked, control, bit]
theorem twptr (e : Bool) (v : BitVec 6) (h : BitVec 6) : Statement (.twptr e v h) := by
  intro _ _
  change decode (BitVec.ofBool e ++ 0b011111#6 ++ v ++ h ++ 0b0000000000100#13) = _
  generalize hq : BitVec.ofBool e ++ 0b011111#6 ++ v ++ h ++ 0b0000000000100#13 = q
  have h1 : (fld q 25 6).toNat = 31 := by
    subst hq; (try simp (disch := decide) only [fld, fld_hi, fld_lo, Nat.reduceSub]); rfl
  have h2 : (fld q 0 6).toNat = 4 := by
    subst hq; (try simp (disch := decide) only [fld, fld_hi, fld_lo, Nat.reduceSub]); rfl
  rw [major1F q h1, decode1F, h2]
  subst hq
  try simp (disch := decide) only [fld, bit, fld_hi, fld_lo, fld_all, bit_hi, bit_lo, bit_ofBool, Nat.reduceSub, fld_nat]
  all_goals first | rfl | (simp_all [checked, control, bit]; done) | grind [checked, control, bit]
theorem ld (e : Bool) (v : BitVec 6) (b : BitVec 6) (o : BitVec 6) (l : Bool) (w : BitVec 3) : Statement (.ld e v b o l w) := by
  intro _ hg
  replace hg : (decide (w.toNat < 6)) = true := hg
  try simp only [Bool.and_eq_true, decide_eq_true_eq, bne_iff_ne] at hg
  change decode (BitVec.ofBool e ++ 0b100010#6 ++ v ++ b ++ o ++ BitVec.ofBool l ++ 0b000#3 ++ w) = _
  generalize hq : BitVec.ofBool e ++ 0b100010#6 ++ v ++ b ++ o ++ BitVec.ofBool l ++ 0b000#3 ++ w = q
  have h1 : (fld q 25 6).toNat = 34 := by
    subst hq; (try simp (disch := decide) only [fld, fld_hi, fld_lo, Nat.reduceSub]); rfl
  have h2 : (fld q 0 6).toNat = w.toNat := by
    subst hq; simp (disch := decide) only [fld, fld_hi, fld_lo, fld_nat, fld_all, Nat.reduceSub]
    first | (simp; done) | (simp; omega)
  have hs : w.toNat = 0 ∨ w.toNat = 1 ∨ w.toNat = 2 ∨ w.toNat = 3 ∨ w.toNat = 4 ∨ w.toNat = 5 := by have := hg; omega
  rw [major22 q h1, decode22]
  rcases hs with k | k | k | k | k | k <;> rw [h2, k]
  all_goals subst hq
  all_goals try simp (disch := decide) only [fld, bit, fld_hi, fld_lo, fld_all, bit_hi, bit_lo, bit_ofBool, Nat.reduceSub, fld_nat]
  all_goals first | rfl | (simp_all [checked, control, bit]; done) | grind [checked, control, bit]
theorem st (e : Bool) (v : BitVec 6) (b : BitVec 6) (o : BitVec 6) (l : Bool) (w : BitVec 2) : Statement (.st e v b o l w) := by
  intro _ _
  change decode (BitVec.ofBool e ++ 0b100010#6 ++ v ++ b ++ o ++ BitVec.ofBool l ++ 0b0010#4 ++ w) = _
  generalize hq : BitVec.ofBool e ++ 0b100010#6 ++ v ++ b ++ o ++ BitVec.ofBool l ++ 0b0010#4 ++ w = q
  have h1 : (fld q 25 6).toNat = 34 := by
    subst hq; (try simp (disch := decide) only [fld, fld_hi, fld_lo, Nat.reduceSub]); rfl
  have h2 : (fld q 0 6).toNat = 8 + w.toNat := by
    subst hq; simp (disch := decide) only [fld, fld_hi, fld_lo, fld_nat, fld_all, Nat.reduceSub]
    first | (simp; done) | (simp; omega)
  have hs : w.toNat = 0 ∨ w.toNat = 1 ∨ w.toNat = 2 ∨ w.toNat = 3 := by omega
  rw [major22 q h1, decode22]
  rcases hs with k | k | k | k <;> rw [h2, k]
  all_goals subst hq
  all_goals try simp (disch := decide) only [fld, bit, fld_hi, fld_lo, fld_all, bit_hi, bit_lo, bit_ofBool, Nat.reduceSub, fld_nat]
  all_goals first | rfl | (simp_all [checked, control, bit]; done) | grind [checked, control, bit]
theorem ldp (e : Bool) (v : BitVec 6) (b : BitVec 6) (o : BitVec 6) (l : Bool) (w : BitVec 3) : Statement (.ldp e v b o l w) := by
  intro _ hg
  replace hg : (decide (w.toNat < 6)) = true := hg
  try simp only [Bool.and_eq_true, decide_eq_true_eq, bne_iff_ne] at hg
  change decode (BitVec.ofBool e ++ 0b100011#6 ++ v ++ b ++ o ++ BitVec.ofBool l ++ 0b000#3 ++ w) = _
  generalize hq : BitVec.ofBool e ++ 0b100011#6 ++ v ++ b ++ o ++ BitVec.ofBool l ++ 0b000#3 ++ w = q
  have h1 : (fld q 25 6).toNat = 35 := by
    subst hq; (try simp (disch := decide) only [fld, fld_hi, fld_lo, Nat.reduceSub]); rfl
  have h2 : (fld q 0 6).toNat = w.toNat := by
    subst hq; simp (disch := decide) only [fld, fld_hi, fld_lo, fld_nat, fld_all, Nat.reduceSub]
    first | (simp; done) | (simp; omega)
  have hs : w.toNat = 0 ∨ w.toNat = 1 ∨ w.toNat = 2 ∨ w.toNat = 3 ∨ w.toNat = 4 ∨ w.toNat = 5 := by have := hg; omega
  rw [major23 q h1, decode23]
  rcases hs with k | k | k | k | k | k <;> rw [h2, k]
  all_goals subst hq
  all_goals try simp (disch := decide) only [fld, bit, fld_hi, fld_lo, fld_all, bit_hi, bit_lo, bit_ofBool, Nat.reduceSub, fld_nat]
  all_goals first | rfl | (simp_all [checked, control, bit]; done) | grind [checked, control, bit]
theorem stp (e : Bool) (v : BitVec 6) (b : BitVec 6) (o : BitVec 6) (l : Bool) (w : BitVec 2) : Statement (.stp e v b o l w) := by
  intro _ _
  change decode (BitVec.ofBool e ++ 0b100011#6 ++ v ++ b ++ o ++ BitVec.ofBool l ++ 0b0010#4 ++ w) = _
  generalize hq : BitVec.ofBool e ++ 0b100011#6 ++ v ++ b ++ o ++ BitVec.ofBool l ++ 0b0010#4 ++ w = q
  have h1 : (fld q 25 6).toNat = 35 := by
    subst hq; (try simp (disch := decide) only [fld, fld_hi, fld_lo, Nat.reduceSub]); rfl
  have h2 : (fld q 0 6).toNat = 8 + w.toNat := by
    subst hq; simp (disch := decide) only [fld, fld_hi, fld_lo, fld_nat, fld_all, Nat.reduceSub]
    first | (simp; done) | (simp; omega)
  have hs : w.toNat = 0 ∨ w.toNat = 1 ∨ w.toNat = 2 ∨ w.toNat = 3 := by omega
  rw [major23 q h1, decode23]
  rcases hs with k | k | k | k <;> rw [h2, k]
  all_goals subst hq
  all_goals try simp (disch := decide) only [fld, bit, fld_hi, fld_lo, fld_all, bit_hi, bit_lo, bit_ofBool, Nat.reduceSub, fld_nat]
  all_goals first | rfl | (simp_all [checked, control, bit]; done) | grind [checked, control, bit]
theorem lds (e : Bool) (v : BitVec 6) (b : BitVec 6) (n : BitVec 6) (w : BitVec 3) : Statement (.lds e v b n w) := by
  intro _ hg
  replace hg : (decide (w.toNat < 6)) = true := hg
  try simp only [Bool.and_eq_true, decide_eq_true_eq, bne_iff_ne] at hg
  change decode (BitVec.ofBool e ++ 0b100100#6 ++ v ++ b ++ n ++ 0b0000#4 ++ w) = _
  generalize hq : BitVec.ofBool e ++ 0b100100#6 ++ v ++ b ++ n ++ 0b0000#4 ++ w = q
  have h1 : (fld q 25 6).toNat = 36 := by
    subst hq; (try simp (disch := decide) only [fld, fld_hi, fld_lo, Nat.reduceSub]); rfl
  have h2 : (fld q 0 6).toNat = w.toNat := by
    subst hq; simp (disch := decide) only [fld, fld_hi, fld_lo, fld_nat, fld_all, Nat.reduceSub]
    first | (simp; done) | (simp; omega)
  have hs : w.toNat = 0 ∨ w.toNat = 1 ∨ w.toNat = 2 ∨ w.toNat = 3 ∨ w.toNat = 4 ∨ w.toNat = 5 := by have := hg; omega
  rw [major24 q h1, decode24]
  rcases hs with k | k | k | k | k | k <;> rw [h2, k]
  all_goals subst hq
  all_goals try simp (disch := decide) only [fld, bit, fld_hi, fld_lo, fld_all, bit_hi, bit_lo, bit_ofBool, Nat.reduceSub, fld_nat]
  all_goals first | rfl | (simp_all [checked, control, bit]; done) | grind [checked, control, bit]
theorem sts (e : Bool) (v : BitVec 6) (b : BitVec 6) (n : BitVec 6) (w : BitVec 2) : Statement (.sts e v b n w) := by
  intro _ _
  change decode (BitVec.ofBool e ++ 0b100100#6 ++ v ++ b ++ n ++ 0b00010#5 ++ w) = _
  generalize hq : BitVec.ofBool e ++ 0b100100#6 ++ v ++ b ++ n ++ 0b00010#5 ++ w = q
  have h1 : (fld q 25 6).toNat = 36 := by
    subst hq; (try simp (disch := decide) only [fld, fld_hi, fld_lo, Nat.reduceSub]); rfl
  have h2 : (fld q 0 6).toNat = 8 + w.toNat := by
    subst hq; simp (disch := decide) only [fld, fld_hi, fld_lo, fld_nat, fld_all, Nat.reduceSub]
    first | (simp; done) | (simp; omega)
  have hs : w.toNat = 0 ∨ w.toNat = 1 ∨ w.toNat = 2 ∨ w.toNat = 3 := by omega
  rw [major24 q h1, decode24]
  rcases hs with k | k | k | k <;> rw [h2, k]
  all_goals subst hq
  all_goals try simp (disch := decide) only [fld, bit, fld_hi, fld_lo, fld_all, bit_hi, bit_lo, bit_ofBool, Nat.reduceSub, fld_nat]
  all_goals first | rfl | (simp_all [checked, control, bit]; done) | grind [checked, control, bit]
theorem pref (e : Bool) (p : BitVec 1) (b : BitVec 6) (o : BitVec 6) (l : Bool) : Statement (.pref e p b o l) := by
  intro _ _
  change decode (BitVec.ofBool e ++ 0b10010000000#11 ++ p ++ b ++ o ++ BitVec.ofBool l ++ 0b010000#6) = _
  generalize hq : BitVec.ofBool e ++ 0b10010000000#11 ++ p ++ b ++ o ++ BitVec.ofBool l ++ 0b010000#6 = q
  have h1 : (fld q 25 6).toNat = 36 := by
    subst hq; (try simp (disch := decide) only [fld, fld_hi, fld_lo, Nat.reduceSub]); rfl
  have h2 : (fld q 0 6).toNat = 16 := by
    subst hq; (try simp (disch := decide) only [fld, fld_hi, fld_lo, Nat.reduceSub]); rfl
  rw [major24 q h1, decode24, h2]
  subst hq
  try simp (disch := decide) only [fld, bit, fld_hi, fld_lo, fld_all, bit_hi, bit_lo, bit_ofBool, Nat.reduceSub, fld_nat]
  all_goals first | rfl | (simp_all [checked, control, bit]; done) | grind [checked, control, bit]
theorem pflush (e : Bool) : Statement (.pflush e) := by
  intro _ _
  change decode (BitVec.ofBool e ++ 0b1001000000000000000000000010001#31) = _
  generalize hq : BitVec.ofBool e ++ 0b1001000000000000000000000010001#31 = q
  have h1 : (fld q 25 6).toNat = 36 := by
    subst hq; (try simp (disch := decide) only [fld, fld_hi, fld_lo, Nat.reduceSub]); rfl
  have h2 : (fld q 0 6).toNat = 17 := by
    subst hq; (try simp (disch := decide) only [fld, fld_hi, fld_lo, Nat.reduceSub]); rfl
  rw [major24 q h1, decode24, h2]
  subst hq
  try simp (disch := decide) only [fld, bit, fld_hi, fld_lo, fld_all, bit_hi, bit_lo, bit_ofBool, Nat.reduceSub, fld_nat]
  all_goals first | rfl | (simp_all [checked, control, bit]; done) | grind [checked, control, bit]
theorem atom (e : Bool) (v : BitVec 6) (b : BitVec 6) (o : BitVec 6) (l : Bool) (f : BitVec 6) : Statement (.atom e v b o l f) := by
  intro _ hg
  replace hg : (decide (f.toNat < 40)) = true := hg
  try simp only [Bool.and_eq_true, decide_eq_true_eq, bne_iff_ne] at hg
  change decode (BitVec.ofBool e ++ 0b100110#6 ++ v ++ b ++ o ++ BitVec.ofBool l ++ f) = _
  generalize hq : BitVec.ofBool e ++ 0b100110#6 ++ v ++ b ++ o ++ BitVec.ofBool l ++ f = q
  have h1 : (fld q 25 6).toNat = 38 := by
    subst hq; (try simp (disch := decide) only [fld, fld_hi, fld_lo, Nat.reduceSub]); rfl
  rw [major26 q h1, decode26]
  subst hq
  try simp (disch := decide) only [fld, bit, fld_hi, fld_lo, fld_all, bit_hi, bit_lo, bit_ofBool, Nat.reduceSub, fld_nat]
  all_goals first | rfl | (simp_all [checked, control, bit]; done) | grind [checked, control, bit]
theorem atomf (e : Bool) (v : BitVec 6) (b : BitVec 6) (o : BitVec 6) (l : Bool) (f : BitVec 6) : Statement (.atomf e v b o l f) := by
  intro _ hg
  replace hg : (decide (40 ≤ f.toNat) && decide (f.toNat < 55)) = true := hg
  try simp only [Bool.and_eq_true, decide_eq_true_eq, bne_iff_ne] at hg
  change decode (BitVec.ofBool e ++ 0b100110#6 ++ v ++ b ++ o ++ BitVec.ofBool l ++ f) = _
  generalize hq : BitVec.ofBool e ++ 0b100110#6 ++ v ++ b ++ o ++ BitVec.ofBool l ++ f = q
  have h1 : (fld q 25 6).toNat = 38 := by
    subst hq; (try simp (disch := decide) only [fld, fld_hi, fld_lo, Nat.reduceSub]); rfl
  rw [major26 q h1, decode26]
  subst hq
  try simp (disch := decide) only [fld, bit, fld_hi, fld_lo, fld_all, bit_hi, bit_lo, bit_ofBool, Nat.reduceSub, fld_nat]
  all_goals first | rfl | (simp_all [checked, control, bit]; done) | grind [checked, control, bit]
theorem cas (e : Bool) (v : BitVec 5) (b : BitVec 6) (o : BitVec 6) (l : Bool) (s : BitVec 3) : Statement (.cas e v b o l s) := by
  intro _ hg
  replace hg : (decide (s.toNat < 5)) = true := hg
  try simp only [Bool.and_eq_true, decide_eq_true_eq, bne_iff_ne] at hg
  change decode (BitVec.ofBool e ++ 0b100111#6 ++ v ++ 0b0#1 ++ b ++ o ++ BitVec.ofBool l ++ 0b000#3 ++ s) = _
  generalize hq : BitVec.ofBool e ++ 0b100111#6 ++ v ++ 0b0#1 ++ b ++ o ++ BitVec.ofBool l ++ 0b000#3 ++ s = q
  have h1 : (fld q 25 6).toNat = 39 := by
    subst hq; (try simp (disch := decide) only [fld, fld_hi, fld_lo, Nat.reduceSub]); rfl
  have h2 : (fld q 0 6).toNat = s.toNat := by
    subst hq; simp (disch := decide) only [fld, fld_hi, fld_lo, fld_nat, fld_all, Nat.reduceSub]
    first | (simp; done) | (simp; omega)
  have hs : s.toNat = 0 ∨ s.toNat = 1 ∨ s.toNat = 2 ∨ s.toNat = 3 ∨ s.toNat = 4 := by have := hg; omega
  rw [major27 q h1, decode27]
  rcases hs with k | k | k | k | k <;> rw [h2, k]
  all_goals subst hq
  all_goals try simp (disch := decide) only [fld, bit, fld_hi, fld_lo, fld_all, bit_hi, bit_lo, bit_ofBool, Nat.reduceSub, fld_nat]
  all_goals first | rfl | (simp_all [checked, control, bit]; done) | grind [checked, control, bit]
theorem cas64 (e : Bool) (v : BitVec 4) (b : BitVec 6) (o : BitVec 6) (l : Bool) (s : BitVec 3) : Statement (.cas64 e v b o l s) := by
  intro _ hg
  replace hg : (decide (s.toNat < 5)) = true := hg
  try simp only [Bool.and_eq_true, decide_eq_true_eq, bne_iff_ne] at hg
  change decode (BitVec.ofBool e ++ 0b100111#6 ++ v ++ 0b00#2 ++ b ++ o ++ BitVec.ofBool l ++ 0b001#3 ++ s) = _
  generalize hq : BitVec.ofBool e ++ 0b100111#6 ++ v ++ 0b00#2 ++ b ++ o ++ BitVec.ofBool l ++ 0b001#3 ++ s = q
  have h1 : (fld q 25 6).toNat = 39 := by
    subst hq; (try simp (disch := decide) only [fld, fld_hi, fld_lo, Nat.reduceSub]); rfl
  have h2 : (fld q 0 6).toNat = 8 + s.toNat := by
    subst hq; simp (disch := decide) only [fld, fld_hi, fld_lo, fld_nat, fld_all, Nat.reduceSub]
    first | (simp; done) | (simp; omega)
  have hs : s.toNat = 0 ∨ s.toNat = 1 ∨ s.toNat = 2 ∨ s.toNat = 3 ∨ s.toNat = 4 := by have := hg; omega
  rw [major27 q h1, decode27]
  rcases hs with k | k | k | k | k <;> rw [h2, k]
  all_goals subst hq
  all_goals try simp (disch := decide) only [fld, bit, fld_hi, fld_lo, fld_all, bit_hi, bit_lo, bit_ofBool, Nat.reduceSub, fld_nat]
  all_goals first | rfl | (simp_all [checked, control, bit]; done) | grind [checked, control, bit]
theorem ldaq (e : Bool) (v : BitVec 6) (b : BitVec 6) (o : BitVec 6) (l : Bool) (w : BitVec 1) (s : BitVec 3) : Statement (.ldaq e v b o l w s) := by
  intro _ hg
  replace hg : (decide (s.toNat < 5)) = true := hg
  try simp only [Bool.and_eq_true, decide_eq_true_eq, bne_iff_ne] at hg
  change decode (BitVec.ofBool e ++ 0b101000#6 ++ v ++ b ++ o ++ BitVec.ofBool l ++ 0b00#2 ++ w ++ s) = _
  generalize hq : BitVec.ofBool e ++ 0b101000#6 ++ v ++ b ++ o ++ BitVec.ofBool l ++ 0b00#2 ++ w ++ s = q
  have h1 : (fld q 25 6).toNat = 40 := by
    subst hq; (try simp (disch := decide) only [fld, fld_hi, fld_lo, Nat.reduceSub]); rfl
  have h2 : (fld q 0 6).toNat = 0 + 8 * w.toNat + s.toNat := by
    subst hq; simp (disch := decide) only [fld, fld_hi, fld_lo, fld_nat, fld_all, Nat.reduceSub]
    first | (simp; done) | (simp; omega)
  have hs : s.toNat = 0 ∨ s.toNat = 1 ∨ s.toNat = 2 ∨ s.toNat = 3 ∨ s.toNat = 4 := by have := hg; omega
  have hw : w.toNat = 0 ∨ w.toNat = 1 := by omega
  rw [major28 q h1, decode28]
  rcases hw with j | j <;> rcases hs with k | k | k | k | k <;> rw [h2, j, k]
  all_goals subst hq
  all_goals try simp (disch := decide) only [fld, bit, fld_hi, fld_lo, fld_all, bit_hi, bit_lo, bit_ofBool, Nat.reduceSub, fld_nat]
  all_goals first | rfl | (simp_all [checked, control, bit]; done) | grind [checked, control, bit]
theorem strl (e : Bool) (v : BitVec 6) (b : BitVec 6) (o : BitVec 6) (l : Bool) (w : BitVec 1) (s : BitVec 3) : Statement (.strl e v b o l w s) := by
  intro _ hg
  replace hg : (decide (s.toNat < 5)) = true := hg
  try simp only [Bool.and_eq_true, decide_eq_true_eq, bne_iff_ne] at hg
  change decode (BitVec.ofBool e ++ 0b101000#6 ++ v ++ b ++ o ++ BitVec.ofBool l ++ 0b01#2 ++ w ++ s) = _
  generalize hq : BitVec.ofBool e ++ 0b101000#6 ++ v ++ b ++ o ++ BitVec.ofBool l ++ 0b01#2 ++ w ++ s = q
  have h1 : (fld q 25 6).toNat = 40 := by
    subst hq; (try simp (disch := decide) only [fld, fld_hi, fld_lo, Nat.reduceSub]); rfl
  have h2 : (fld q 0 6).toNat = 16 + 8 * w.toNat + s.toNat := by
    subst hq; simp (disch := decide) only [fld, fld_hi, fld_lo, fld_nat, fld_all, Nat.reduceSub]
    first | (simp; done) | (simp; omega)
  have hs : s.toNat = 0 ∨ s.toNat = 1 ∨ s.toNat = 2 ∨ s.toNat = 3 ∨ s.toNat = 4 := by have := hg; omega
  have hw : w.toNat = 0 ∨ w.toNat = 1 := by omega
  rw [major28 q h1, decode28]
  rcases hw with j | j <;> rcases hs with k | k | k | k | k <;> rw [h2, j, k]
  all_goals subst hq
  all_goals try simp (disch := decide) only [fld, bit, fld_hi, fld_lo, fld_all, bit_hi, bit_lo, bit_ofBool, Nat.reduceSub, fld_nat]
  all_goals first | rfl | (simp_all [checked, control, bit]; done) | grind [checked, control, bit]
theorem fence (e : Bool) (s : BitVec 3) : Statement (.fence e s) := by
  intro _ hg
  replace hg : (decide (s.toNat < 5)) = true := hg
  try simp only [Bool.and_eq_true, decide_eq_true_eq, bne_iff_ne] at hg
  change decode (BitVec.ofBool e ++ 0b1010010000000000000000000000#28 ++ s) = _
  generalize hq : BitVec.ofBool e ++ 0b1010010000000000000000000000#28 ++ s = q
  have h1 : (fld q 25 6).toNat = 41 := by
    subst hq; (try simp (disch := decide) only [fld, fld_hi, fld_lo, Nat.reduceSub]); rfl
  rw [major29 q h1, decode29]
  subst hq
  try simp (disch := decide) only [fld, bit, fld_hi, fld_lo, fld_all, bit_hi, bit_lo, bit_ofBool, Nat.reduceSub, fld_nat]
  all_goals first | rfl | (simp_all [checked, control, bit]; done) | grind [checked, control, bit]
theorem atoms (e : Bool) (v : BitVec 6) (b : BitVec 6) (o : BitVec 6) (l : Bool) (f : BitVec 6) : Statement (.atoms e v b o l f) := by
  intro _ hg
  replace hg : (decide (8 ≤ f.toNat) && decide (f.toNat < 48)) = true := hg
  try simp only [Bool.and_eq_true, decide_eq_true_eq, bne_iff_ne] at hg
  change decode (BitVec.ofBool e ++ 0b101001#6 ++ v ++ b ++ o ++ BitVec.ofBool l ++ f) = _
  generalize hq : BitVec.ofBool e ++ 0b101001#6 ++ v ++ b ++ o ++ BitVec.ofBool l ++ f = q
  have h1 : (fld q 25 6).toNat = 41 := by
    subst hq; (try simp (disch := decide) only [fld, fld_hi, fld_lo, Nat.reduceSub]); rfl
  rw [major29 q h1, decode29]
  subst hq
  try simp (disch := decide) only [fld, bit, fld_hi, fld_lo, fld_all, bit_hi, bit_lo, bit_ofBool, Nat.reduceSub, fld_nat]
  rw [if_neg (by omega), if_pos (by omega)]
theorem ctld (e : Bool) (n : BitVec 4) (h : BitVec 6) (c : BitVec 6) : Statement (.ctld e n h c) := by
  intro _ hg
  replace hg : (n != 15#4) = true := hg
  try simp only [Bool.and_eq_true, decide_eq_true_eq, bne_iff_ne] at hg
  change decode (BitVec.ofBool e ++ 0b10101000#8 ++ n ++ h ++ c ++ 0b0000000#7) = _
  generalize hq : BitVec.ofBool e ++ 0b10101000#8 ++ n ++ h ++ c ++ 0b0000000#7 = q
  have h1 : (fld q 25 6).toNat = 42 := by
    subst hq; (try simp (disch := decide) only [fld, fld_hi, fld_lo, Nat.reduceSub]); rfl
  have h2 : (fld q 0 6).toNat = 0 := by
    subst hq; (try simp (disch := decide) only [fld, fld_hi, fld_lo, Nat.reduceSub]); rfl
  rw [major2A q h1, decode2A, h2]
  subst hq
  try simp (disch := decide) only [fld, bit, fld_hi, fld_lo, fld_all, bit_hi, bit_lo, bit_ofBool, Nat.reduceSub, fld_nat]
  all_goals first | rfl | (simp_all [checked, control, bit]; done) | grind [checked, control, bit]
theorem ctinv (e : Bool) (n : BitVec 4) : Statement (.ctinv e n) := by
  intro _ hg
  replace hg : (n != 15#4) = true := hg
  try simp only [Bool.and_eq_true, decide_eq_true_eq, bne_iff_ne] at hg
  change decode (BitVec.ofBool e ++ 0b10101000#8 ++ n ++ 0b0000000000000000001#19) = _
  generalize hq : BitVec.ofBool e ++ 0b10101000#8 ++ n ++ 0b0000000000000000001#19 = q
  have h1 : (fld q 25 6).toNat = 42 := by
    subst hq; (try simp (disch := decide) only [fld, fld_hi, fld_lo, Nat.reduceSub]); rfl
  have h2 : (fld q 0 6).toNat = 1 := by
    subst hq; (try simp (disch := decide) only [fld, fld_hi, fld_lo, Nat.reduceSub]); rfl
  rw [major2A q h1, decode2A, h2]
  subst hq
  try simp (disch := decide) only [fld, bit, fld_hi, fld_lo, fld_all, bit_hi, bit_lo, bit_ofBool, Nat.reduceSub, fld_nat]
  all_goals first | rfl | (simp_all [checked, control, bit]; done) | grind [checked, control, bit]
theorem bixq (e : Bool) (v : BitVec 6) (h : BitVec 6) (c : BitVec 6) : Statement (.bixq e v h c) := by
  intro _ _
  change decode (BitVec.ofBool e ++ 0b101010#6 ++ v ++ h ++ c ++ 0b0000010#7) = _
  generalize hq : BitVec.ofBool e ++ 0b101010#6 ++ v ++ h ++ c ++ 0b0000010#7 = q
  have h1 : (fld q 25 6).toNat = 42 := by
    subst hq; (try simp (disch := decide) only [fld, fld_hi, fld_lo, Nat.reduceSub]); rfl
  have h2 : (fld q 0 6).toNat = 2 := by
    subst hq; (try simp (disch := decide) only [fld, fld_hi, fld_lo, Nat.reduceSub]); rfl
  rw [major2A q h1, decode2A, h2]
  subst hq
  try simp (disch := decide) only [fld, bit, fld_hi, fld_lo, fld_all, bit_hi, bit_lo, bit_ofBool, Nat.reduceSub, fld_nat]
  all_goals first | rfl | (simp_all [checked, control, bit]; done) | grind [checked, control, bit]
theorem kvapp (e : Bool) (v : BitVec 6) (h : BitVec 6) (c : BitVec 5) : Statement (.kvapp e v h c) := by
  intro _ _
  change decode (BitVec.ofBool e ++ 0b101010#6 ++ v ++ h ++ c ++ 0b00000011#8) = _
  generalize hq : BitVec.ofBool e ++ 0b101010#6 ++ v ++ h ++ c ++ 0b00000011#8 = q
  have h1 : (fld q 25 6).toNat = 42 := by
    subst hq; (try simp (disch := decide) only [fld, fld_hi, fld_lo, Nat.reduceSub]); rfl
  have h2 : (fld q 0 6).toNat = 3 := by
    subst hq; (try simp (disch := decide) only [fld, fld_hi, fld_lo, Nat.reduceSub]); rfl
  rw [major2A q h1, decode2A, h2]
  subst hq
  try simp (disch := decide) only [fld, bit, fld_hi, fld_lo, fld_all, bit_hi, bit_lo, bit_ofBool, Nat.reduceSub, fld_nat]
  all_goals first | rfl | (simp_all [checked, control, bit]; done) | grind [checked, control, bit]
theorem dech (e : Bool) (v : BitVec 6) (h : BitVec 6) (c : BitVec 5) : Statement (.dech e v h c) := by
  intro _ _
  change decode (BitVec.ofBool e ++ 0b101011#6 ++ v ++ h ++ c ++ 0b00000000#8) = _
  generalize hq : BitVec.ofBool e ++ 0b101011#6 ++ v ++ h ++ c ++ 0b00000000#8 = q
  have h1 : (fld q 25 6).toNat = 43 := by
    subst hq; (try simp (disch := decide) only [fld, fld_hi, fld_lo, Nat.reduceSub]); rfl
  have h2 : (fld q 0 6).toNat = 0 := by
    subst hq; (try simp (disch := decide) only [fld, fld_hi, fld_lo, Nat.reduceSub]); rfl
  rw [major2B q h1, decode2B, h2]
  subst hq
  try simp (disch := decide) only [fld, bit, fld_hi, fld_lo, fld_all, bit_hi, bit_lo, bit_ofBool, Nat.reduceSub, fld_nat]
  all_goals first | rfl | (simp_all [checked, control, bit]; done) | grind [checked, control, bit]
theorem dec (e : Bool) (v : BitVec 4) (h : BitVec 6) (c : BitVec 5) : Statement (.dec e v h c) := by
  intro _ _
  change decode (BitVec.ofBool e ++ 0b101011#6 ++ v ++ 0b00#2 ++ h ++ c ++ 0b00000001#8) = _
  generalize hq : BitVec.ofBool e ++ 0b101011#6 ++ v ++ 0b00#2 ++ h ++ c ++ 0b00000001#8 = q
  have h1 : (fld q 25 6).toNat = 43 := by
    subst hq; (try simp (disch := decide) only [fld, fld_hi, fld_lo, Nat.reduceSub]); rfl
  have h2 : (fld q 0 6).toNat = 1 := by
    subst hq; (try simp (disch := decide) only [fld, fld_hi, fld_lo, Nat.reduceSub]); rfl
  rw [major2B q h1, decode2B, h2]
  subst hq
  try simp (disch := decide) only [fld, bit, fld_hi, fld_lo, fld_all, bit_hi, bit_lo, bit_ofBool, Nat.reduceSub, fld_nat]
  all_goals first | rfl | (simp_all [checked, control, bit]; done) | grind [checked, control, bit]
theorem enc (e : Bool) (v : BitVec 4) (h : BitVec 6) (c : BitVec 5) (l : Bool) : Statement (.enc e v h c l) := by
  intro _ _
  change decode (BitVec.ofBool e ++ 0b101011#6 ++ v ++ 0b00#2 ++ h ++ c ++ 0b0#1 ++ BitVec.ofBool l ++ 0b000010#6) = _
  generalize hq : BitVec.ofBool e ++ 0b101011#6 ++ v ++ 0b00#2 ++ h ++ c ++ 0b0#1 ++ BitVec.ofBool l ++ 0b000010#6 = q
  have h1 : (fld q 25 6).toNat = 43 := by
    subst hq; (try simp (disch := decide) only [fld, fld_hi, fld_lo, Nat.reduceSub]); rfl
  have h2 : (fld q 0 6).toNat = 2 := by
    subst hq; (try simp (disch := decide) only [fld, fld_hi, fld_lo, Nat.reduceSub]); rfl
  rw [major2B q h1, decode2B, h2]
  subst hq
  try simp (disch := decide) only [fld, bit, fld_hi, fld_lo, fld_all, bit_hi, bit_lo, bit_ofBool, Nat.reduceSub, fld_nat]
  all_goals first | rfl | (simp_all [checked, control, bit]; done) | grind [checked, control, bit]
theorem encf (e : Bool) (v : BitVec 6) (h : BitVec 6) (c : BitVec 5) : Statement (.encf e v h c) := by
  intro _ _
  change decode (BitVec.ofBool e ++ 0b101011#6 ++ v ++ h ++ c ++ 0b00000011#8) = _
  generalize hq : BitVec.ofBool e ++ 0b101011#6 ++ v ++ h ++ c ++ 0b00000011#8 = q
  have h1 : (fld q 25 6).toNat = 43 := by
    subst hq; (try simp (disch := decide) only [fld, fld_hi, fld_lo, Nat.reduceSub]); rfl
  have h2 : (fld q 0 6).toNat = 3 := by
    subst hq; (try simp (disch := decide) only [fld, fld_hi, fld_lo, Nat.reduceSub]); rfl
  rw [major2B q h1, decode2B, h2]
  subst hq
  try simp (disch := decide) only [fld, bit, fld_hi, fld_lo, fld_all, bit_hi, bit_lo, bit_ofBool, Nat.reduceSub, fld_nat]
  all_goals first | rfl | (simp_all [checked, control, bit]; done) | grind [checked, control, bit]
theorem lift (e : Bool) (d : BitVec 6) (a : BitVec 6) : Statement (.lift e d a) := by
  intro _ _
  change decode (BitVec.ofBool e ++ 0b101100#6 ++ d ++ a ++ 0b0000000000000#13) = _
  generalize hq : BitVec.ofBool e ++ 0b101100#6 ++ d ++ a ++ 0b0000000000000#13 = q
  have h1 : (fld q 25 6).toNat = 44 := by
    subst hq; (try simp (disch := decide) only [fld, fld_hi, fld_lo, Nat.reduceSub]); rfl
  have h2 : (fld q 0 7).toNat = 0 := by
    subst hq; (try simp (disch := decide) only [fld, fld_hi, fld_lo, Nat.reduceSub]); rfl
  rw [major2C q h1, decode2C, h2]
  subst hq
  try simp (disch := decide) only [fld, bit, fld_hi, fld_lo, fld_all, bit_hi, bit_lo, bit_ofBool, Nat.reduceSub, fld_nat]
  all_goals first | rfl | (simp_all [checked, control, bit]; done) | grind [checked, control, bit]
theorem lqry (e : Bool) (d : BitVec 6) (a : BitVec 6) : Statement (.lqry e d a) := by
  intro _ _
  change decode (BitVec.ofBool e ++ 0b101100#6 ++ d ++ a ++ 0b0000000000001#13) = _
  generalize hq : BitVec.ofBool e ++ 0b101100#6 ++ d ++ a ++ 0b0000000000001#13 = q
  have h1 : (fld q 25 6).toNat = 44 := by
    subst hq; (try simp (disch := decide) only [fld, fld_hi, fld_lo, Nat.reduceSub]); rfl
  have h2 : (fld q 0 7).toNat = 1 := by
    subst hq; (try simp (disch := decide) only [fld, fld_hi, fld_lo, Nat.reduceSub]); rfl
  rw [major2C q h1, decode2C, h2]
  subst hq
  try simp (disch := decide) only [fld, bit, fld_hi, fld_lo, fld_all, bit_hi, bit_lo, bit_ofBool, Nat.reduceSub, fld_nat]
  all_goals first | rfl | (simp_all [checked, control, bit]; done) | grind [checked, control, bit]
theorem lcan (e : Bool) (d : BitVec 6) (a : BitVec 6) : Statement (.lcan e d a) := by
  intro _ _
  change decode (BitVec.ofBool e ++ 0b101100#6 ++ d ++ a ++ 0b0000000000010#13) = _
  generalize hq : BitVec.ofBool e ++ 0b101100#6 ++ d ++ a ++ 0b0000000000010#13 = q
  have h1 : (fld q 25 6).toNat = 44 := by
    subst hq; (try simp (disch := decide) only [fld, fld_hi, fld_lo, Nat.reduceSub]); rfl
  have h2 : (fld q 0 7).toNat = 2 := by
    subst hq; (try simp (disch := decide) only [fld, fld_hi, fld_lo, Nat.reduceSub]); rfl
  rw [major2C q h1, decode2C, h2]
  subst hq
  try simp (disch := decide) only [fld, bit, fld_hi, fld_lo, fld_all, bit_hi, bit_lo, bit_ofBool, Nat.reduceSub, fld_nat]
  all_goals first | rfl | (simp_all [checked, control, bit]; done) | grind [checked, control, bit]
theorem ginit (e : Bool) (v : BitVec 6) (h : BitVec 6) (c : BitVec 6) : Statement (.ginit e v h c) := by
  intro _ _
  change decode (BitVec.ofBool e ++ 0b101101#6 ++ v ++ h ++ c ++ 0b0000000#7) = _
  generalize hq : BitVec.ofBool e ++ 0b101101#6 ++ v ++ h ++ c ++ 0b0000000#7 = q
  have h1 : (fld q 25 6).toNat = 45 := by
    subst hq; (try simp (disch := decide) only [fld, fld_hi, fld_lo, Nat.reduceSub]); rfl
  have h2 : (fld q 0 6).toNat = 0 := by
    subst hq; (try simp (disch := decide) only [fld, fld_hi, fld_lo, Nat.reduceSub]); rfl
  rw [major2D q h1, decode2D, h2]
  subst hq
  try simp (disch := decide) only [fld, bit, fld_hi, fld_lo, fld_all, bit_hi, bit_lo, bit_ofBool, Nat.reduceSub, fld_nat]
  all_goals first | rfl | (simp_all [checked, control, bit]; done) | grind [checked, control, bit]
theorem gexp (e : Bool) (v : BitVec 6) (h : BitVec 6) (c : BitVec 6) : Statement (.gexp e v h c) := by
  intro _ _
  change decode (BitVec.ofBool e ++ 0b101101#6 ++ v ++ h ++ c ++ 0b0000001#7) = _
  generalize hq : BitVec.ofBool e ++ 0b101101#6 ++ v ++ h ++ c ++ 0b0000001#7 = q
  have h1 : (fld q 25 6).toNat = 45 := by
    subst hq; (try simp (disch := decide) only [fld, fld_hi, fld_lo, Nat.reduceSub]); rfl
  have h2 : (fld q 0 6).toNat = 1 := by
    subst hq; (try simp (disch := decide) only [fld, fld_hi, fld_lo, Nat.reduceSub]); rfl
  rw [major2D q h1, decode2D, h2]
  subst hq
  try simp (disch := decide) only [fld, bit, fld_hi, fld_lo, fld_all, bit_hi, bit_lo, bit_ofBool, Nat.reduceSub, fld_nat]
  all_goals first | rfl | (simp_all [checked, control, bit]; done) | grind [checked, control, bit]
theorem garr (e : Bool) (v : BitVec 6) (h : BitVec 6) (c : BitVec 6) : Statement (.garr e v h c) := by
  intro _ _
  change decode (BitVec.ofBool e ++ 0b101101#6 ++ v ++ h ++ c ++ 0b0000010#7) = _
  generalize hq : BitVec.ofBool e ++ 0b101101#6 ++ v ++ h ++ c ++ 0b0000010#7 = q
  have h1 : (fld q 25 6).toNat = 45 := by
    subst hq; (try simp (disch := decide) only [fld, fld_hi, fld_lo, Nat.reduceSub]); rfl
  have h2 : (fld q 0 6).toNat = 2 := by
    subst hq; (try simp (disch := decide) only [fld, fld_hi, fld_lo, Nat.reduceSub]); rfl
  rw [major2D q h1, decode2D, h2]
  subst hq
  try simp (disch := decide) only [fld, bit, fld_hi, fld_lo, fld_all, bit_hi, bit_lo, bit_ofBool, Nat.reduceSub, fld_nat]
  all_goals first | rfl | (simp_all [checked, control, bit]; done) | grind [checked, control, bit]
theorem gwait (e : Bool) (v : BitVec 6) (h : BitVec 6) (c : BitVec 6) : Statement (.gwait e v h c) := by
  intro _ _
  change decode (BitVec.ofBool e ++ 0b101101#6 ++ v ++ h ++ c ++ 0b0000011#7) = _
  generalize hq : BitVec.ofBool e ++ 0b101101#6 ++ v ++ h ++ c ++ 0b0000011#7 = q
  have h1 : (fld q 25 6).toNat = 45 := by
    subst hq; (try simp (disch := decide) only [fld, fld_hi, fld_lo, Nat.reduceSub]); rfl
  have h2 : (fld q 0 6).toNat = 3 := by
    subst hq; (try simp (disch := decide) only [fld, fld_hi, fld_lo, Nat.reduceSub]); rfl
  rw [major2D q h1, decode2D, h2]
  subst hq
  try simp (disch := decide) only [fld, bit, fld_hi, fld_lo, fld_all, bit_hi, bit_lo, bit_ofBool, Nat.reduceSub, fld_nat]
  all_goals first | rfl | (simp_all [checked, control, bit]; done) | grind [checked, control, bit]
theorem gtry (e : Bool) (v : BitVec 6) (h : BitVec 6) (c : BitVec 6) : Statement (.gtry e v h c) := by
  intro _ _
  change decode (BitVec.ofBool e ++ 0b101101#6 ++ v ++ h ++ c ++ 0b0000100#7) = _
  generalize hq : BitVec.ofBool e ++ 0b101101#6 ++ v ++ h ++ c ++ 0b0000100#7 = q
  have h1 : (fld q 25 6).toNat = 45 := by
    subst hq; (try simp (disch := decide) only [fld, fld_hi, fld_lo, Nat.reduceSub]); rfl
  have h2 : (fld q 0 6).toNat = 4 := by
    subst hq; (try simp (disch := decide) only [fld, fld_hi, fld_lo, Nat.reduceSub]); rfl
  rw [major2D q h1, decode2D, h2]
  subst hq
  try simp (disch := decide) only [fld, bit, fld_hi, fld_lo, fld_all, bit_hi, bit_lo, bit_ofBool, Nat.reduceSub, fld_nat]
  all_goals first | rfl | (simp_all [checked, control, bit]; done) | grind [checked, control, bit]
theorem mma (e : Bool) (n : BitVec 4) (g : BitVec 1) (k : BitVec 1) (s : BitVec 6) (p : BitVec 1) (f : BitVec 6) : Statement (.mma e n g k s p f) := by
  intro _ hg
  replace hg : (mmaFmtOk f && mmaScaleOk f s) = true := hg
  try simp only [Bool.and_eq_true, decide_eq_true_eq, bne_iff_ne] at hg
  change decode (BitVec.ofBool e ++ 0b110000#6 ++ n ++ g ++ 0b00000#5 ++ k ++ s ++ 0b0#1 ++ p ++ f) = _
  generalize hq : BitVec.ofBool e ++ 0b110000#6 ++ n ++ g ++ 0b00000#5 ++ k ++ s ++ 0b0#1 ++ p ++ f = q
  have h1 : (fld q 25 6).toNat = 48 := by
    subst hq; (try simp (disch := decide) only [fld, fld_hi, fld_lo, Nat.reduceSub]); rfl
  rw [major30 q h1, decode30]
  subst hq
  try simp (disch := decide) only [fld, bit, fld_hi, fld_lo, fld_all, bit_hi, bit_lo, bit_ofBool, Nat.reduceSub, fld_nat]
  all_goals first | rfl | (simp_all [checked, control, bit]; done) | grind [checked, control, bit]
theorem mwld (e : Bool) (v : BitVec 6) (h : BitVec 6) (c : BitVec 5) : Statement (.mwld e v h c) := by
  intro _ _
  change decode (BitVec.ofBool e ++ 0b110001#6 ++ v ++ h ++ c ++ 0b00000000#8) = _
  generalize hq : BitVec.ofBool e ++ 0b110001#6 ++ v ++ h ++ c ++ 0b00000000#8 = q
  have h1 : (fld q 25 6).toNat = 49 := by
    subst hq; (try simp (disch := decide) only [fld, fld_hi, fld_lo, Nat.reduceSub]); rfl
  have h2 : (fld q 0 6).toNat = 0 := by
    subst hq; (try simp (disch := decide) only [fld, fld_hi, fld_lo, Nat.reduceSub]); rfl
  rw [major31 q h1, decode31, h2]
  subst hq
  try simp (disch := decide) only [fld, bit, fld_hi, fld_lo, fld_all, bit_hi, bit_lo, bit_ofBool, Nat.reduceSub, fld_nat]
  all_goals first | rfl | (simp_all [checked, control, bit]; done) | grind [checked, control, bit]
theorem mswap (e : Bool) : Statement (.mswap e) := by
  intro _ _
  change decode (BitVec.ofBool e ++ 0b1100010000000000000000000000001#31) = _
  generalize hq : BitVec.ofBool e ++ 0b1100010000000000000000000000001#31 = q
  have h1 : (fld q 25 6).toNat = 49 := by
    subst hq; (try simp (disch := decide) only [fld, fld_hi, fld_lo, Nat.reduceSub]); rfl
  have h2 : (fld q 0 6).toNat = 1 := by
    subst hq; (try simp (disch := decide) only [fld, fld_hi, fld_lo, Nat.reduceSub]); rfl
  rw [major31 q h1, decode31, h2]
  subst hq
  try simp (disch := decide) only [fld, bit, fld_hi, fld_lo, fld_all, bit_hi, bit_lo, bit_ofBool, Nat.reduceSub, fld_nat]
  all_goals first | rfl | (simp_all [checked, control, bit]; done) | grind [checked, control, bit]
theorem mzero (e : Bool) (n : BitVec 4) (x : BitVec 4) : Statement (.mzero e n x) := by
  intro _ _
  change decode (BitVec.ofBool e ++ 0b110010#6 ++ n ++ 0b00000000#8 ++ x ++ 0b000000000#9) = _
  generalize hq : BitVec.ofBool e ++ 0b110010#6 ++ n ++ 0b00000000#8 ++ x ++ 0b000000000#9 = q
  have h1 : (fld q 25 6).toNat = 50 := by
    subst hq; (try simp (disch := decide) only [fld, fld_hi, fld_lo, Nat.reduceSub]); rfl
  have h2 : (fld q 0 9).toNat = 0 := by
    subst hq; (try simp (disch := decide) only [fld, fld_hi, fld_lo, Nat.reduceSub]); rfl
  rw [major32 q h1, decode32, h2]
  subst hq
  try simp (disch := decide) only [fld, bit, fld_hi, fld_lo, fld_all, bit_hi, bit_lo, bit_ofBool, Nat.reduceSub, fld_nat]
  all_goals first | rfl | (simp_all [checked, control, bit]; done) | grind [checked, control, bit]
theorem mrd (e : Bool) (n : BitVec 4) (d : BitVec 6) (x : BitVec 6) : Statement (.mrd e n d x) := by
  intro _ _
  change decode (BitVec.ofBool e ++ 0b110010#6 ++ n ++ d ++ x ++ 0b000000001#9) = _
  generalize hq : BitVec.ofBool e ++ 0b110010#6 ++ n ++ d ++ x ++ 0b000000001#9 = q
  have h1 : (fld q 25 6).toNat = 50 := by
    subst hq; (try simp (disch := decide) only [fld, fld_hi, fld_lo, Nat.reduceSub]); rfl
  have h2 : (fld q 0 9).toNat = 1 := by
    subst hq; (try simp (disch := decide) only [fld, fld_hi, fld_lo, Nat.reduceSub]); rfl
  rw [major32 q h1, decode32, h2]
  subst hq
  try simp (disch := decide) only [fld, bit, fld_hi, fld_lo, fld_all, bit_hi, bit_lo, bit_ofBool, Nat.reduceSub, fld_nat]
  all_goals first | rfl | (simp_all [checked, control, bit]; done) | grind [checked, control, bit]
theorem mwr (e : Bool) (n : BitVec 4) (s : BitVec 6) (x : BitVec 6) : Statement (.mwr e n s x) := by
  intro _ _
  change decode (BitVec.ofBool e ++ 0b110010#6 ++ n ++ s ++ x ++ 0b000000010#9) = _
  generalize hq : BitVec.ofBool e ++ 0b110010#6 ++ n ++ s ++ x ++ 0b000000010#9 = q
  have h1 : (fld q 25 6).toNat = 50 := by
    subst hq; (try simp (disch := decide) only [fld, fld_hi, fld_lo, Nat.reduceSub]); rfl
  have h2 : (fld q 0 9).toNat = 2 := by
    subst hq; (try simp (disch := decide) only [fld, fld_hi, fld_lo, Nat.reduceSub]); rfl
  rw [major32 q h1, decode32, h2]
  subst hq
  try simp (disch := decide) only [fld, bit, fld_hi, fld_lo, fld_all, bit_hi, bit_lo, bit_ofBool, Nat.reduceSub, fld_nat]
  all_goals first | rfl | (simp_all [checked, control, bit]; done) | grind [checked, control, bit]
theorem mrel (e : Bool) : Statement (.mrel e) := by
  intro _ _
  change decode (BitVec.ofBool e ++ 0b1100100000000000000000000000011#31) = _
  generalize hq : BitVec.ofBool e ++ 0b1100100000000000000000000000011#31 = q
  have h1 : (fld q 25 6).toNat = 50 := by
    subst hq; (try simp (disch := decide) only [fld, fld_hi, fld_lo, Nat.reduceSub]); rfl
  have h2 : (fld q 0 9).toNat = 3 := by
    subst hq; (try simp (disch := decide) only [fld, fld_hi, fld_lo, Nat.reduceSub]); rfl
  rw [major32 q h1, decode32, h2]
  subst hq
  try simp (disch := decide) only [fld, bit, fld_hi, fld_lo, fld_all, bit_hi, bit_lo, bit_ofBool, Nat.reduceSub, fld_nat]
  all_goals first | rfl | (simp_all [checked, control, bit]; done) | grind [checked, control, bit]
theorem ppt (e : Bool) (m : BitVec 16) : Statement (.ppt e m) := by
  intro _ _
  change decode (BitVec.ofBool e ++ 0b110010#6 ++ m ++ 0b000000100#9) = _
  generalize hq : BitVec.ofBool e ++ 0b110010#6 ++ m ++ 0b000000100#9 = q
  have h1 : (fld q 25 6).toNat = 50 := by
    subst hq; (try simp (disch := decide) only [fld, fld_hi, fld_lo, Nat.reduceSub]); rfl
  have h2 : (fld q 0 9).toNat = 4 := by
    subst hq; (try simp (disch := decide) only [fld, fld_hi, fld_lo, Nat.reduceSub]); rfl
  rw [major32 q h1, decode32, h2]
  subst hq
  try simp (disch := decide) only [fld, bit, fld_hi, fld_lo, fld_all, bit_hi, bit_lo, bit_ofBool, Nat.reduceSub, fld_nat]
  all_goals first | rfl | (simp_all [checked, control, bit]; done) | grind [checked, control, bit]
theorem launch (e : Bool) (d : BitVec 6) (a : BitVec 6) : Statement (.launch e d a) := by
  intro _ _
  change decode (BitVec.ofBool e ++ 0b110100#6 ++ d ++ a ++ 0b0000000000000#13) = _
  generalize hq : BitVec.ofBool e ++ 0b110100#6 ++ d ++ a ++ 0b0000000000000#13 = q
  have h1 : (fld q 25 6).toNat = 52 := by
    subst hq; (try simp (disch := decide) only [fld, fld_hi, fld_lo, Nat.reduceSub]); rfl
  have h2 : (fld q 0 7).toNat = 0 := by
    subst hq; (try simp (disch := decide) only [fld, fld_hi, fld_lo, Nat.reduceSub]); rfl
  rw [major34 q h1, decode34, h2]
  subst hq
  try simp (disch := decide) only [fld, bit, fld_hi, fld_lo, fld_all, bit_hi, bit_lo, bit_ofBool, Nat.reduceSub, fld_nat]
  all_goals first | rfl | (simp_all [checked, control, bit]; done) | grind [checked, control, bit]
theorem tbar (e : Bool) (a : BitVec 6) : Statement (.tbar e a) := by
  intro _ _
  change decode (BitVec.ofBool e ++ 0b110100000000#12 ++ a ++ 0b0000000000001#13) = _
  generalize hq : BitVec.ofBool e ++ 0b110100000000#12 ++ a ++ 0b0000000000001#13 = q
  have h1 : (fld q 25 6).toNat = 52 := by
    subst hq; (try simp (disch := decide) only [fld, fld_hi, fld_lo, Nat.reduceSub]); rfl
  have h2 : (fld q 0 7).toNat = 1 := by
    subst hq; (try simp (disch := decide) only [fld, fld_hi, fld_lo, Nat.reduceSub]); rfl
  rw [major34 q h1, decode34, h2]
  subst hq
  try simp (disch := decide) only [fld, bit, fld_hi, fld_lo, fld_all, bit_hi, bit_lo, bit_ofBool, Nat.reduceSub, fld_nat]
  all_goals first | rfl | (simp_all [checked, control, bit]; done) | grind [checked, control, bit]
theorem gbar (e : Bool) (a : BitVec 6) : Statement (.gbar e a) := by
  intro _ _
  change decode (BitVec.ofBool e ++ 0b110100000000#12 ++ a ++ 0b0000000000010#13) = _
  generalize hq : BitVec.ofBool e ++ 0b110100000000#12 ++ a ++ 0b0000000000010#13 = q
  have h1 : (fld q 25 6).toNat = 52 := by
    subst hq; (try simp (disch := decide) only [fld, fld_hi, fld_lo, Nat.reduceSub]); rfl
  have h2 : (fld q 0 7).toNat = 2 := by
    subst hq; (try simp (disch := decide) only [fld, fld_hi, fld_lo, Nat.reduceSub]); rfl
  rw [major34 q h1, decode34, h2]
  subst hq
  try simp (disch := decide) only [fld, bit, fld_hi, fld_lo, fld_all, bit_hi, bit_lo, bit_ofBool, Nat.reduceSub, fld_nat]
  all_goals first | rfl | (simp_all [checked, control, bit]; done) | grind [checked, control, bit]
theorem evsig (e : Bool) (d : BitVec 6) (a : BitVec 6) (b : BitVec 6) : Statement (.evsig e d a b) := by
  intro _ _
  change decode (BitVec.ofBool e ++ 0b110100#6 ++ d ++ a ++ b ++ 0b0000011#7) = _
  generalize hq : BitVec.ofBool e ++ 0b110100#6 ++ d ++ a ++ b ++ 0b0000011#7 = q
  have h1 : (fld q 25 6).toNat = 52 := by
    subst hq; (try simp (disch := decide) only [fld, fld_hi, fld_lo, Nat.reduceSub]); rfl
  have h2 : (fld q 0 7).toNat = 3 := by
    subst hq; (try simp (disch := decide) only [fld, fld_hi, fld_lo, Nat.reduceSub]); rfl
  rw [major34 q h1, decode34, h2]
  subst hq
  try simp (disch := decide) only [fld, bit, fld_hi, fld_lo, fld_all, bit_hi, bit_lo, bit_ofBool, Nat.reduceSub, fld_nat]
  all_goals first | rfl | (simp_all [checked, control, bit]; done) | grind [checked, control, bit]
theorem evwait (e : Bool) (a : BitVec 6) (b : BitVec 6) : Statement (.evwait e a b) := by
  intro _ _
  change decode (BitVec.ofBool e ++ 0b110100000000#12 ++ a ++ b ++ 0b0000100#7) = _
  generalize hq : BitVec.ofBool e ++ 0b110100000000#12 ++ a ++ b ++ 0b0000100#7 = q
  have h1 : (fld q 25 6).toNat = 52 := by
    subst hq; (try simp (disch := decide) only [fld, fld_hi, fld_lo, Nat.reduceSub]); rfl
  have h2 : (fld q 0 7).toNat = 4 := by
    subst hq; (try simp (disch := decide) only [fld, fld_hi, fld_lo, Nat.reduceSub]); rfl
  rw [major34 q h1, decode34, h2]
  subst hq
  try simp (disch := decide) only [fld, bit, fld_hi, fld_lo, fld_all, bit_hi, bit_lo, bit_ofBool, Nat.reduceSub, fld_nat]
  all_goals first | rfl | (simp_all [checked, control, bit]; done) | grind [checked, control, bit]
theorem coll (e : Bool) (d : BitVec 6) (a : BitVec 6) : Statement (.coll e d a) := by
  intro _ _
  change decode (BitVec.ofBool e ++ 0b111000#6 ++ d ++ a ++ 0b0000000000000#13) = _
  generalize hq : BitVec.ofBool e ++ 0b111000#6 ++ d ++ a ++ 0b0000000000000#13 = q
  have h1 : (fld q 25 6).toNat = 56 := by
    subst hq; (try simp (disch := decide) only [fld, fld_hi, fld_lo, Nat.reduceSub]); rfl
  have h2 : (fld q 0 7).toNat = 0 := by
    subst hq; (try simp (disch := decide) only [fld, fld_hi, fld_lo, Nat.reduceSub]); rfl
  rw [major38 q h1, decode38, h2]
  subst hq
  try simp (disch := decide) only [fld, bit, fld_hi, fld_lo, fld_all, bit_hi, bit_lo, bit_ofBool, Nat.reduceSub, fld_nat]
  all_goals first | rfl | (simp_all [checked, control, bit]; done) | grind [checked, control, bit]
theorem cwait (e : Bool) (d : BitVec 6) (a : BitVec 6) : Statement (.cwait e d a) := by
  intro _ _
  change decode (BitVec.ofBool e ++ 0b111000#6 ++ d ++ a ++ 0b0000000000001#13) = _
  generalize hq : BitVec.ofBool e ++ 0b111000#6 ++ d ++ a ++ 0b0000000000001#13 = q
  have h1 : (fld q 25 6).toNat = 56 := by
    subst hq; (try simp (disch := decide) only [fld, fld_hi, fld_lo, Nat.reduceSub]); rfl
  have h2 : (fld q 0 7).toNat = 1 := by
    subst hq; (try simp (disch := decide) only [fld, fld_hi, fld_lo, Nat.reduceSub]); rfl
  rw [major38 q h1, decode38, h2]
  subst hq
  try simp (disch := decide) only [fld, bit, fld_hi, fld_lo, fld_all, bit_hi, bit_lo, bit_ofBool, Nat.reduceSub, fld_nat]
  all_goals first | rfl | (simp_all [checked, control, bit]; done) | grind [checked, control, bit]
theorem grpf (e : Bool) (d : BitVec 6) (a : BitVec 6) : Statement (.grpf e d a) := by
  intro _ _
  change decode (BitVec.ofBool e ++ 0b111000#6 ++ d ++ a ++ 0b0000000000010#13) = _
  generalize hq : BitVec.ofBool e ++ 0b111000#6 ++ d ++ a ++ 0b0000000000010#13 = q
  have h1 : (fld q 25 6).toNat = 56 := by
    subst hq; (try simp (disch := decide) only [fld, fld_hi, fld_lo, Nat.reduceSub]); rfl
  have h2 : (fld q 0 7).toNat = 2 := by
    subst hq; (try simp (disch := decide) only [fld, fld_hi, fld_lo, Nat.reduceSub]); rfl
  rw [major38 q h1, decode38, h2]
  subst hq
  try simp (disch := decide) only [fld, bit, fld_hi, fld_lo, fld_all, bit_hi, bit_lo, bit_ofBool, Nat.reduceSub, fld_nat]
  all_goals first | rfl | (simp_all [checked, control, bit]; done) | grind [checked, control, bit]
theorem fstat (e : Bool) (d : BitVec 6) (a : BitVec 6) : Statement (.fstat e d a) := by
  intro _ _
  change decode (BitVec.ofBool e ++ 0b111000#6 ++ d ++ a ++ 0b0000000000011#13) = _
  generalize hq : BitVec.ofBool e ++ 0b111000#6 ++ d ++ a ++ 0b0000000000011#13 = q
  have h1 : (fld q 25 6).toNat = 56 := by
    subst hq; (try simp (disch := decide) only [fld, fld_hi, fld_lo, Nat.reduceSub]); rfl
  have h2 : (fld q 0 7).toNat = 3 := by
    subst hq; (try simp (disch := decide) only [fld, fld_hi, fld_lo, Nat.reduceSub]); rfl
  rw [major38 q h1, decode38, h2]
  subst hq
  try simp (disch := decide) only [fld, bit, fld_hi, fld_lo, fld_all, bit_hi, bit_lo, bit_ofBool, Nat.reduceSub, fld_nat]
  all_goals first | rfl | (simp_all [checked, control, bit]; done) | grind [checked, control, bit]
theorem trap (e : Bool) (n : BitVec 6) : Statement (.trap e n) := by
  intro _ _
  change decode (BitVec.ofBool e ++ 0b111100000000#12 ++ n ++ 0b0000000000000#13) = _
  generalize hq : BitVec.ofBool e ++ 0b111100000000#12 ++ n ++ 0b0000000000000#13 = q
  have h1 : (fld q 25 6).toNat = 60 := by
    subst hq; (try simp (disch := decide) only [fld, fld_hi, fld_lo, Nat.reduceSub]); rfl
  have h2 : (fld q 0 7).toNat = 0 := by
    subst hq; (try simp (disch := decide) only [fld, fld_hi, fld_lo, Nat.reduceSub]); rfl
  rw [major3C q h1, decode3C, h2]
  subst hq
  try simp (disch := decide) only [fld, bit, fld_hi, fld_lo, fld_all, bit_hi, bit_lo, bit_ofBool, Nat.reduceSub, fld_nat]
  all_goals first | rfl | (simp_all [checked, control, bit]; done) | grind [checked, control, bit]
theorem rte (a : BitVec 6) : Statement (.rte a) := by
  intro _ _
  change decode (0b1111100000000#13 ++ a ++ 0b0000000000001#13) = _
  generalize hq : 0b1111100000000#13 ++ a ++ 0b0000000000001#13 = q
  have h1 : (fld q 25 6).toNat = 60 := by
    subst hq; (try simp (disch := decide) only [fld, fld_hi, fld_lo, Nat.reduceSub]); rfl
  have h2 : (fld q 0 7).toNat = 1 := by
    subst hq; (try simp (disch := decide) only [fld, fld_hi, fld_lo, Nat.reduceSub]); rfl
  rw [major3C q h1, decode3C, h2]
  subst hq
  try simp (disch := decide) only [fld, bit, fld_hi, fld_lo, fld_all, bit_hi, bit_lo, bit_ofBool, Nat.reduceSub, fld_nat]
  all_goals first | rfl | (simp_all [checked, control, bit]; done) | grind [checked, control, bit]
theorem ssrd (e : Bool) (d : BitVec 6) (a : BitVec 6) (b : BitVec 6) : Statement (.ssrd e d a b) := by
  intro _ hg
  replace hg : (decide (a.toNat < 8)) = true := hg
  try simp only [Bool.and_eq_true, decide_eq_true_eq, bne_iff_ne] at hg
  change decode (BitVec.ofBool e ++ 0b111100#6 ++ d ++ a ++ b ++ 0b0000010#7) = _
  generalize hq : BitVec.ofBool e ++ 0b111100#6 ++ d ++ a ++ b ++ 0b0000010#7 = q
  have h1 : (fld q 25 6).toNat = 60 := by
    subst hq; (try simp (disch := decide) only [fld, fld_hi, fld_lo, Nat.reduceSub]); rfl
  have h2 : (fld q 0 7).toNat = 2 := by
    subst hq; (try simp (disch := decide) only [fld, fld_hi, fld_lo, Nat.reduceSub]); rfl
  rw [major3C q h1, decode3C, h2]
  subst hq
  try simp (disch := decide) only [fld, bit, fld_hi, fld_lo, fld_all, bit_hi, bit_lo, bit_ofBool, Nat.reduceSub, fld_nat]
  all_goals first | rfl | (simp_all [checked, control, bit]; done) | grind [checked, control, bit]
theorem sswr (e : Bool) (a : BitVec 6) (b : BitVec 6) : Statement (.sswr e a b) := by
  intro _ hg
  replace hg : (decide (a.toNat < 8)) = true := hg
  try simp only [Bool.and_eq_true, decide_eq_true_eq, bne_iff_ne] at hg
  change decode (BitVec.ofBool e ++ 0b111100000000#12 ++ a ++ b ++ 0b0000011#7) = _
  generalize hq : BitVec.ofBool e ++ 0b111100000000#12 ++ a ++ b ++ 0b0000011#7 = q
  have h1 : (fld q 25 6).toNat = 60 := by
    subst hq; (try simp (disch := decide) only [fld, fld_hi, fld_lo, Nat.reduceSub]); rfl
  have h2 : (fld q 0 7).toNat = 3 := by
    subst hq; (try simp (disch := decide) only [fld, fld_hi, fld_lo, Nat.reduceSub]); rfl
  rw [major3C q h1, decode3C, h2]
  subst hq
  try simp (disch := decide) only [fld, bit, fld_hi, fld_lo, fld_all, bit_hi, bit_lo, bit_ofBool, Nat.reduceSub, fld_nat]
  all_goals first | rfl | (simp_all [checked, control, bit]; done) | grind [checked, control, bit]
theorem bkpt (e : Bool) (n : BitVec 6) : Statement (.bkpt e n) := by
  intro _ _
  change decode (BitVec.ofBool e ++ 0b111100000000#12 ++ n ++ 0b0000000000100#13) = _
  generalize hq : BitVec.ofBool e ++ 0b111100000000#12 ++ n ++ 0b0000000000100#13 = q
  have h1 : (fld q 25 6).toNat = 60 := by
    subst hq; (try simp (disch := decide) only [fld, fld_hi, fld_lo, Nat.reduceSub]); rfl
  have h2 : (fld q 0 7).toNat = 4 := by
    subst hq; (try simp (disch := decide) only [fld, fld_hi, fld_lo, Nat.reduceSub]); rfl
  rw [major3C q h1, decode3C, h2]
  subst hq
  try simp (disch := decide) only [fld, bit, fld_hi, fld_lo, fld_all, bit_hi, bit_lo, bit_ofBool, Nat.reduceSub, fld_nat]
  all_goals first | rfl | (simp_all [checked, control, bit]; done) | grind [checked, control, bit]
theorem halt (e : Bool) (a : BitVec 6) : Statement (.halt e a) := by
  intro _ _
  change decode (BitVec.ofBool e ++ 0b111100000000#12 ++ a ++ 0b0000000000101#13) = _
  generalize hq : BitVec.ofBool e ++ 0b111100000000#12 ++ a ++ 0b0000000000101#13 = q
  have h1 : (fld q 25 6).toNat = 60 := by
    subst hq; (try simp (disch := decide) only [fld, fld_hi, fld_lo, Nat.reduceSub]); rfl
  have h2 : (fld q 0 7).toNat = 5 := by
    subst hq; (try simp (disch := decide) only [fld, fld_hi, fld_lo, Nat.reduceSub]); rfl
  rw [major3C q h1, decode3C, h2]
  subst hq
  try simp (disch := decide) only [fld, bit, fld_hi, fld_lo, fld_all, bit_hi, bit_lo, bit_ofBool, Nat.reduceSub, fld_nat]
  all_goals first | rfl | (simp_all [checked, control, bit]; done) | grind [checked, control, bit]
theorem cntrd (e : Bool) (d : BitVec 6) (a : BitVec 6) : Statement (.cntrd e d a) := by
  intro _ _
  change decode (BitVec.ofBool e ++ 0b111100#6 ++ d ++ a ++ 0b0000000000110#13) = _
  generalize hq : BitVec.ofBool e ++ 0b111100#6 ++ d ++ a ++ 0b0000000000110#13 = q
  have h1 : (fld q 25 6).toNat = 60 := by
    subst hq; (try simp (disch := decide) only [fld, fld_hi, fld_lo, Nat.reduceSub]); rfl
  have h2 : (fld q 0 7).toNat = 6 := by
    subst hq; (try simp (disch := decide) only [fld, fld_hi, fld_lo, Nat.reduceSub]); rfl
  rw [major3C q h1, decode3C, h2]
  subst hq
  try simp (disch := decide) only [fld, bit, fld_hi, fld_lo, fld_all, bit_hi, bit_lo, bit_ofBool, Nat.reduceSub, fld_nat]
  all_goals first | rfl | (simp_all [checked, control, bit]; done) | grind [checked, control, bit]
theorem dlogStat (e : Bool) (d : BitVec 6) (a : BitVec 6) : Statement (.dlogStat e d a) := by
  intro _ _
  change decode (BitVec.ofBool e ++ 0b111101#6 ++ d ++ a ++ 0b0000000000000#13) = _
  generalize hq : BitVec.ofBool e ++ 0b111101#6 ++ d ++ a ++ 0b0000000000000#13 = q
  have h1 : (fld q 25 6).toNat = 61 := by
    subst hq; (try simp (disch := decide) only [fld, fld_hi, fld_lo, Nat.reduceSub]); rfl
  have h2 : (fld q 0 7).toNat = 0 := by
    subst hq; (try simp (disch := decide) only [fld, fld_hi, fld_lo, Nat.reduceSub]); rfl
  rw [major3D q h1, decode3D, h2]
  have h3 : (fld q 7 6).toNat = 0 := by
    subst hq; (try simp (disch := decide) only [fld, fld_hi, fld_lo, Nat.reduceSub]); rfl
  rw [h3]
  subst hq
  try simp (disch := decide) only [fld, bit, fld_hi, fld_lo, fld_all, bit_hi, bit_lo, bit_ofBool, Nat.reduceSub, fld_nat]
  all_goals first | rfl | (simp_all [checked, control, bit]; done) | grind [checked, control, bit]
theorem dlogStart (e : Bool) (d : BitVec 6) (a : BitVec 6) : Statement (.dlogStart e d a) := by
  intro _ _
  change decode (BitVec.ofBool e ++ 0b111101#6 ++ d ++ a ++ 0b0000010000000#13) = _
  generalize hq : BitVec.ofBool e ++ 0b111101#6 ++ d ++ a ++ 0b0000010000000#13 = q
  have h1 : (fld q 25 6).toNat = 61 := by
    subst hq; (try simp (disch := decide) only [fld, fld_hi, fld_lo, Nat.reduceSub]); rfl
  have h2 : (fld q 0 7).toNat = 0 := by
    subst hq; (try simp (disch := decide) only [fld, fld_hi, fld_lo, Nat.reduceSub]); rfl
  rw [major3D q h1, decode3D, h2]
  have h3 : (fld q 7 6).toNat = 1 := by
    subst hq; (try simp (disch := decide) only [fld, fld_hi, fld_lo, Nat.reduceSub]); rfl
  rw [h3]
  subst hq
  try simp (disch := decide) only [fld, bit, fld_hi, fld_lo, fld_all, bit_hi, bit_lo, bit_ofBool, Nat.reduceSub, fld_nat]
  all_goals first | rfl | (simp_all [checked, control, bit]; done) | grind [checked, control, bit]
theorem dlogStop (e : Bool) (d : BitVec 6) (a : BitVec 6) : Statement (.dlogStop e d a) := by
  intro _ _
  change decode (BitVec.ofBool e ++ 0b111101#6 ++ d ++ a ++ 0b0000100000000#13) = _
  generalize hq : BitVec.ofBool e ++ 0b111101#6 ++ d ++ a ++ 0b0000100000000#13 = q
  have h1 : (fld q 25 6).toNat = 61 := by
    subst hq; (try simp (disch := decide) only [fld, fld_hi, fld_lo, Nat.reduceSub]); rfl
  have h2 : (fld q 0 7).toNat = 0 := by
    subst hq; (try simp (disch := decide) only [fld, fld_hi, fld_lo, Nat.reduceSub]); rfl
  rw [major3D q h1, decode3D, h2]
  have h3 : (fld q 7 6).toNat = 2 := by
    subst hq; (try simp (disch := decide) only [fld, fld_hi, fld_lo, Nat.reduceSub]); rfl
  rw [h3]
  subst hq
  try simp (disch := decide) only [fld, bit, fld_hi, fld_lo, fld_all, bit_hi, bit_lo, bit_ofBool, Nat.reduceSub, fld_nat]
  all_goals first | rfl | (simp_all [checked, control, bit]; done) | grind [checked, control, bit]
theorem dlogAck (e : Bool) (d : BitVec 6) (a : BitVec 6) : Statement (.dlogAck e d a) := by
  intro _ _
  change decode (BitVec.ofBool e ++ 0b111101#6 ++ d ++ a ++ 0b0000110000000#13) = _
  generalize hq : BitVec.ofBool e ++ 0b111101#6 ++ d ++ a ++ 0b0000110000000#13 = q
  have h1 : (fld q 25 6).toNat = 61 := by
    subst hq; (try simp (disch := decide) only [fld, fld_hi, fld_lo, Nat.reduceSub]); rfl
  have h2 : (fld q 0 7).toNat = 0 := by
    subst hq; (try simp (disch := decide) only [fld, fld_hi, fld_lo, Nat.reduceSub]); rfl
  rw [major3D q h1, decode3D, h2]
  have h3 : (fld q 7 6).toNat = 3 := by
    subst hq; (try simp (disch := decide) only [fld, fld_hi, fld_lo, Nat.reduceSub]); rfl
  rw [h3]
  subst hq
  try simp (disch := decide) only [fld, bit, fld_hi, fld_lo, fld_all, bit_hi, bit_lo, bit_ofBool, Nat.reduceSub, fld_nat]
  all_goals first | rfl | (simp_all [checked, control, bit]; done) | grind [checked, control, bit]
theorem dlogCons (e : Bool) (d : BitVec 6) (a : BitVec 6) : Statement (.dlogCons e d a) := by
  intro _ _
  change decode (BitVec.ofBool e ++ 0b111101#6 ++ d ++ a ++ 0b0001000000000#13) = _
  generalize hq : BitVec.ofBool e ++ 0b111101#6 ++ d ++ a ++ 0b0001000000000#13 = q
  have h1 : (fld q 25 6).toNat = 61 := by
    subst hq; (try simp (disch := decide) only [fld, fld_hi, fld_lo, Nat.reduceSub]); rfl
  have h2 : (fld q 0 7).toNat = 0 := by
    subst hq; (try simp (disch := decide) only [fld, fld_hi, fld_lo, Nat.reduceSub]); rfl
  rw [major3D q h1, decode3D, h2]
  have h3 : (fld q 7 6).toNat = 4 := by
    subst hq; (try simp (disch := decide) only [fld, fld_hi, fld_lo, Nat.reduceSub]); rfl
  rw [h3]
  subst hq
  try simp (disch := decide) only [fld, bit, fld_hi, fld_lo, fld_all, bit_hi, bit_lo, bit_ofBool, Nat.reduceSub, fld_nat]
  all_goals first | rfl | (simp_all [checked, control, bit]; done) | grind [checked, control, bit]
theorem frz (e : Bool) (d : BitVec 6) (a : BitVec 6) : Statement (.frz e d a) := by
  intro _ _
  change decode (BitVec.ofBool e ++ 0b111101#6 ++ d ++ a ++ 0b0000000000001#13) = _
  generalize hq : BitVec.ofBool e ++ 0b111101#6 ++ d ++ a ++ 0b0000000000001#13 = q
  have h1 : (fld q 25 6).toNat = 61 := by
    subst hq; (try simp (disch := decide) only [fld, fld_hi, fld_lo, Nat.reduceSub]); rfl
  have h2 : (fld q 0 7).toNat = 1 := by
    subst hq; (try simp (disch := decide) only [fld, fld_hi, fld_lo, Nat.reduceSub]); rfl
  rw [major3D q h1, decode3D, h2]
  subst hq
  try simp (disch := decide) only [fld, bit, fld_hi, fld_lo, fld_all, bit_hi, bit_lo, bit_ofBool, Nat.reduceSub, fld_nat]
  all_goals first | rfl | (simp_all [checked, control, bit]; done) | grind [checked, control, bit]
theorem icacheFill (p : PackId) : Statement (.icacheFill p) := fun h => nomatch h
theorem loadLaneReturn (p : PackId) (op : Nat) : Statement (.loadLaneReturn p op) := fun h => nomatch h
theorem storeWctReturn (p : PackId) (op : Nat) : Statement (.storeWctReturn p op) := fun h => nomatch h
theorem tileAccessRetire (p : PackId) (op : Nat) : Statement (.tileAccessRetire p op) := fun h => nomatch h
theorem matrixOpRetire (p : PackId) (op : Nat) : Statement (.matrixOpRetire p op) := fun h => nomatch h
theorem decodeUnitRetire (p : PackId) (op : Nat) : Statement (.decodeUnitRetire p op) := fun h => nomatch h
theorem pageFaultPark (p : PackId) : Statement (.pageFaultPark p) := fun h => nomatch h
theorem trapEntry (p : PackId) : Statement (.trapEntry p) := fun h => nomatch h
theorem haltBroadcastArrive (p : PackId) : Statement (.haltBroadcastArrive p) := fun h => nomatch h
theorem mmaArrayStart (p : PackId) (op : Nat) : Statement (.mmaArrayStart p op) := fun h => nomatch h
theorem mwldBufferWrite (p : PackId) (op : Nat) : Statement (.mwldBufferWrite p op) := fun h => nomatch h
theorem pairSlave (p : PackId) (op : Nat) : Statement (.pairSlave p op) := fun h => nomatch h
theorem packSave (p : PackId) : Statement (.packSave p) := fun h => nomatch h
theorem packRetire (p : PackId) : Statement (.packRetire p) := fun h => nomatch h
theorem evwaitReread (p : PackId) : Statement (.evwaitReread p) := fun h => nomatch h
theorem cwaitReread (p : PackId) : Statement (.cwaitReread p) := fun h => nomatch h
theorem granuleClearDone (core : Nat) (start : Nat) : Statement (.granuleClearDone core start) := fun h => nomatch h
theorem teamPlace (g : Nat) : Statement (.teamPlace g) := fun h => nomatch h
theorem gangPlace (g : Nat) : Statement (.gangPlace g) := fun h => nomatch h
theorem evict (g : Nat) : Statement (.evict g) := fun h => nomatch h
theorem teamExit (t : TeamId) : Statement (.teamExit t) := fun h => nomatch h
theorem gridRetire (g : Nat) : Statement (.gridRetire g) := fun h => nomatch h
theorem launchRecordRead (q : Nat) : Statement (.launchRecordRead q) := fun h => nomatch h
theorem waitConditionRead (q : Nat) : Statement (.waitConditionRead q) := fun h => nomatch h
theorem homeLoad (p : PackId) (op : Nat) (line : Nat) : Statement (.homeLoad p op line) := fun h => nomatch h
theorem homeWrite (p : PackId) (op : Nat) (line : Nat) : Statement (.homeWrite p op line) := fun h => nomatch h
theorem homeWritePerform (ctx : Nat) (line : Nat) : Statement (.homeWritePerform ctx line) := fun h => nomatch h
theorem homeAtomic (p : PackId) (op : Nat) (line : Nat) : Statement (.homeAtomic p op line) := fun h => nomatch h
theorem kvappAppend (p : PackId) (op : Nat) : Statement (.kvappAppend p op) := fun h => nomatch h
theorem liftCommandStart (t : TeamId) (ch : Nat) : Statement (.liftCommandStart t ch) := fun h => nomatch h
theorem liftCopy (t : TeamId) (ch : Nat) : Statement (.liftCopy t ch) := fun h => nomatch h
theorem liftDecodeCopy (t : TeamId) (ch : Nat) : Statement (.liftDecodeCopy t ch) := fun h => nomatch h
theorem liftEncodeStore (t : TeamId) (ch : Nat) : Statement (.liftEncodeStore t ch) := fun h => nomatch h
theorem liftAccumulatorLoad (t : TeamId) (ch : Nat) : Statement (.liftAccumulatorLoad t ch) := fun h => nomatch h
theorem liftCommandComplete (t : TeamId) (ch : Nat) : Statement (.liftCommandComplete t ch) := fun h => nomatch h
theorem freeze (ctx : Nat) : Statement (.freeze ctx) := fun h => nomatch h
theorem fullingComplete (ctx : Nat) : Statement (.fullingComplete ctx) := fun h => nomatch h
theorem frzCompletion (ctx : Nat) : Statement (.frzCompletion ctx) := fun h => nomatch h
theorem resume (ctx : Nat) : Statement (.resume ctx) := fun h => nomatch h
theorem resumePlace (ctx : Nat) : Statement (.resumePlace ctx) := fun h => nomatch h
theorem packPromote (p : PackId) : Statement (.packPromote p) := fun h => nomatch h
theorem pairAbort (p : PackId) (op : Nat) : Statement (.pairAbort p op) := fun h => nomatch h
theorem pptTimeout (p : PackId) : Statement (.pptTimeout p) := fun h => nomatch h
theorem sliceExpire (q : Nat) : Statement (.sliceExpire q) := fun h => nomatch h
theorem completionRecordResend (conn : Nat) : Statement (.completionRecordResend conn) := fun h => nomatch h
theorem tailDoorbell (q : Nat) (tail : Word) : Statement (.tailDoorbell q tail) := fun h => nomatch h
theorem queueEnable (q : Nat) : Statement (.queueEnable q) := fun h => nomatch h
theorem queueDisable (q : Nat) : Statement (.queueDisable q) := fun h => nomatch h
theorem registerWrite (off : Nat) (data : List Byte) : Statement (.registerWrite off data) := fun h => nomatch h
theorem queuePollTimer (q : Nat) : Statement (.queuePollTimer q) := fun h => nomatch h
theorem channelTranslate (ctx : Nat) (va : Nat) (write : Bool) : Statement (.channelTranslate ctx va write) := fun h => nomatch h
theorem tableWalk (ctx : Nat) (va : Nat) : Statement (.tableWalk ctx va) := fun h => nomatch h
theorem privateWriteback (core : Nat) (ctx : Nat) (line : Nat) : Statement (.privateWriteback core ctx line) := fun h => nomatch h
theorem eccRetry (site : EccSite) (out : EccOutcome) : Statement (.eccRetry site out) := fun h => nomatch h
theorem liftError (t : TeamId) (ch : Nat) (err : LiftErr) : Statement (.liftError t ch err) := fun h => nomatch h
theorem liftSourcePark (t : TeamId) (ch : Nat) (va : Nat) : Statement (.liftSourcePark t ch va) := fun h => nomatch h
theorem multicastHeldDelivery (t : TeamId) (ch : Nat) (rank : Nat) : Statement (.multicastHeldDelivery t ch rank) := fun h => nomatch h
theorem collectiveWithdraw (ctx : Nat) : Statement (.collectiveWithdraw ctx) := fun h => nomatch h
theorem flitCrcRetry (link : Nat) : Statement (.flitCrcRetry link) := fun h => nomatch h
theorem linkLaneFail (link : Nat) : Statement (.linkLaneFail link) := fun h => nomatch h
theorem linkDown (link : Nat) : Statement (.linkDown link) := fun h => nomatch h
theorem vlPause (link : Nat) (vl : Nat) (paused : Bool) : Statement (.vlPause link vl paused) := fun h => nomatch h
theorem packetAccept (pkt : Packet) : Statement (.packetAccept pkt) := fun h => nomatch h
theorem packetRetransmit (seq : Nat) : Statement (.packetRetransmit seq) := fun h => nomatch h
theorem requestDeadline (seq : Nat) : Statement (.requestDeadline seq) := fun h => nomatch h
theorem routeTableInstall (table : Nat) : Statement (.routeTableInstall table) := fun h => nomatch h
theorem routeTableSwitchover (table : Nat) : Statement (.routeTableSwitchover table) := fun h => nomatch h
theorem routeTableRetire (table : Nat) : Statement (.routeTableRetire table) := fun h => nomatch h
theorem multicastBranchSend (copy : Nat) (branch : Nat) : Statement (.multicastBranchSend copy branch) := fun h => nomatch h
theorem switchWriteback (ctx : Nat) (va : Nat) (data : List Byte) : Statement (.switchWriteback ctx va data) := fun h => nomatch h
theorem skewMeasure (peer : Nat) (skew : Nat) : Statement (.skewMeasure peer skew) := fun h => nomatch h
theorem collBarrier (ctx : Nat) (g : Nat) (seq : Nat) : Statement (.collBarrier ctx g seq) := fun h => nomatch h
theorem collBroadcast (ctx : Nat) (g : Nat) (seq : Nat) (contrib : List (List Nat)) : Statement (.collBroadcast ctx g seq contrib) := fun h => nomatch h
theorem collAllreduce (ctx : Nat) (g : Nat) (seq : Nat) (contrib : List (List Nat)) : Statement (.collAllreduce ctx g seq contrib) := fun h => nomatch h
theorem collReduceScatter (ctx : Nat) (g : Nat) (seq : Nat) (contrib : List (List Nat)) : Statement (.collReduceScatter ctx g seq contrib) := fun h => nomatch h
theorem collAllgather (ctx : Nat) (g : Nat) (seq : Nat) (contrib : List (List Nat)) : Statement (.collAllgather ctx g seq contrib) := fun h => nomatch h
theorem agreementReport (ctx : Nat) (g : Nat) (seq : Nat) (rank : Nat) (rep : UnitReport) : Statement (.agreementReport ctx g seq rank rep) := fun h => nomatch h
theorem collDeadline (ctx : Nat) (g : Nat) (seq : Nat) : Statement (.collDeadline ctx g seq) := fun h => nomatch h
theorem agreementFallback (ctx : Nat) (g : Nat) (seq : Nat) (peers : Nat) (heard : Option DWord) : Statement (.agreementFallback ctx g seq peers heard) := fun h => nomatch h
theorem collStatusWrite (ctx : Nat) (g : Nat) (seq : Nat) : Statement (.collStatusWrite ctx g seq) := fun h => nomatch h
theorem rdmaWrite (conn : Nat) (key : Word) (addr : Nat) (data : List Byte) : Statement (.rdmaWrite conn key addr data) := fun h => nomatch h
theorem rdmaRead (conn : Nat) (key : Word) (addr : Nat) (len : Nat) : Statement (.rdmaRead conn key addr len) := fun h => nomatch h
theorem invalidRequestNak (conn : Nat) : Statement (.invalidRequestNak conn) := fun h => nomatch h
theorem fqResolve (ctx : Nat) (tag : Word) (seq : Nat) : Statement (.fqResolve ctx tag seq) := fun h => nomatch h
theorem fqDecline (ctx : Nat) (tag : Word) (seq : Nat) : Statement (.fqDecline ctx tag seq) := fun h => nomatch h
theorem fqInvalidate (ctx : Nat) (tag : Word) (va : Nat) (len : Nat) : Statement (.fqInvalidate ctx tag va len) := fun h => nomatch h
theorem fqKeyInvalidate (ctx : Nat) (tag : Word) (first : Nat) (count : Nat) : Statement (.fqKeyInvalidate ctx tag first count) := fun h => nomatch h
theorem fqScrub (ctx : Nat) (tag : Word) (pa : Nat) : Statement (.fqScrub ctx tag pa) := fun h => nomatch h
theorem faultReportPost : Statement (.faultReportPost) := fun h => nomatch h
theorem coldReset : Statement (.coldReset) := fun h => nomatch h
theorem bootImageReceive (image : List Byte) : Statement (.bootImageReceive image) := fun h => nomatch h
theorem hbmRecalibrate : Statement (.hbmRecalibrate) := fun h => nomatch h
theorem rowActivationAlert (bank : Nat) : Statement (.rowActivationAlert bank) := fun h => nomatch h
theorem backoffEnd (bank : Nat) : Statement (.backoffEnd bank) := fun h => nomatch h
theorem powerArbiterGrant (bases demand : List Nat) : Statement (.powerArbiterGrant bases demand) := fun h => nomatch h
theorem thermalThrottle (core : Nat) : Statement (.thermalThrottle core) := fun h => nomatch h
theorem thermalRelease (core : Nat) : Statement (.thermalRelease core) := fun h => nomatch h
theorem thermalTrip : Statement (.thermalTrip) := fun h => nomatch h
theorem mgmtReadStatus : Statement (.mgmtReadStatus) := fun h => nomatch h
theorem mgmtReadCap : Statement (.mgmtReadCap) := fun h => nomatch h
theorem mgmtWriteCap (watts : Nat) : Statement (.mgmtWriteCap watts) := fun h => nomatch h
theorem mgmtReadRowThreshold : Statement (.mgmtReadRowThreshold) := fun h => nomatch h
theorem mgmtWriteRowThreshold (n : Nat) : Statement (.mgmtWriteRowThreshold n) := fun h => nomatch h
theorem mgmtWarmReset : Statement (.mgmtWarmReset) := fun h => nomatch h
theorem unassignedWord (w : Word) : Statement (.unassignedWord w) := fun h => nomatch h
theorem completionRecordNak (which : RecordRef) : Statement (.completionRecordNak which) := fun h => nomatch h
theorem connectionFailure (conn : Nat) : Statement (.connectionFailure conn) := fun h => nomatch h
theorem modulePowerOff : Statement (.modulePowerOff) := fun h => nomatch h

end Sys2Proof.Laws.Encoding
end

