-- ==== Sys2Proof/Machine/VkText.lean ====
section
/-! DEFINITION. The text of vkas source (R60): a line's tokens, its constants and constant expressions. Where the rules leave
the assembler open the readings are those of log 58. -/

namespace Sys2Proof.Machine

/-- Why vkas rejects a line (R60-R66, R484). -/
inductive VkError where
  /-- the text is no line of R60 -/
  | text
  /-- a malformed constant, or one outside the range of its place -/
  | constant
  /-- a symbol without a definition, with two, or defined by itself -/
  | symbol
  /-- no such mnemonic, suffix or directive -/
  | unknown
  /-- an instruction that needs a scope and has none (R61) -/
  | scope
  /-- operands that are not those of the form -/
  | operands
  /-- `!` on an operand that is no vector source with a last-use bit (R61) -/
  | lastUse
  /-- a control transfer without `|` (R63) -/
  | runEnd
  /-- a run of more than 24 words (R63) -/
  | runLength
  /-- a register beyond the role's declared count (R63) -/
  | register
  /-- a word that R40 or R58 would fault (R63) -/
  | illegal
  /-- a directive where it may not stand, or what R64 rejects it for -/
  | directive
deriving DecidableEq, Repr

/-- A token: a constant as written, an identifier, an identifier after a point, or a mark. -/
inductive VkTok where
  | num (cs : List Char)
  | name (cs : List Char)
  | dot (cs : List Char)
  | mark (c : Char)
  | shl
  | shr
deriving DecidableEq, Repr

/-- An identifier begins so (R60). -/
def vkStart (c : Char) : Bool := c.isAlpha || c == '_'
/-- It continues so (R60). -/
def vkRest (c : Char) : Bool := c.isAlphanum || c == '_' || c == '.'

/-- The characters of a number after p, and what follows it; the exponent of a decimal literal may have a sign. -/
def vkNumber (dec : Bool) (p : Char) : List Char → List Char × List Char
  | [] => ([], [])
  | c :: cs =>
    if vkRest c || (dec && (p == 'e' || p == 'E') && (c == '+' || c == '-')) then
      let r := vkNumber dec c cs
      (c :: r.1, r.2)
    else ([], c :: cs)

/-- A number that starts with c is decimal: not 0x and not 0b. -/
def vkDecimal (c : Char) (cs : List Char) : Bool := !(c == '0' && (cs.head? == some 'x' || cs.head? == some 'b'))

/-- The marks that may stand alone. -/
def vkMark (c : Char) : Bool := [',', ':', '=', '(', ')', '+', '-', '*', '&', '|', '!', '~'].contains c

/-- The tokens of a line up to its comment (R60). n characters at most. -/
def vkLex : Nat → List Char → Except VkError (List VkTok)
  | 0, _ => .ok []
  | _ + 1, [] => .ok []
  | n + 1, c :: cs =>
    if c == ';' || (c == '/' && cs.head? == some '/') then .ok []
    else if c == ' ' || c == '\t' || c == '\r' then vkLex n cs
    else if vkStart c then do
      let ts ← vkLex n (cs.dropWhile vkRest)
      .ok (.name (c :: cs.takeWhile vkRest) :: ts)
    else if c.isDigit || (c == '.' && (cs.head?.map Char.isDigit).getD false) then do
      let r := vkNumber (vkDecimal c cs) c cs
      let ts ← vkLex n r.2
      .ok (.num (c :: r.1) :: ts)
    else if c == '.' && (cs.head?.map vkStart).getD false then do
      let ts ← vkLex n (cs.dropWhile vkRest)
      .ok (.dot (cs.takeWhile vkRest) :: ts)
    else if c == '<' && cs.head? == some '<' then do .ok (.shl :: (← vkLex n cs.tail))
    else if c == '>' && cs.head? == some '>' then do .ok (.shr :: (← vkLex n cs.tail))
    else if vkMark c then do .ok (.mark c :: (← vkLex n cs))
    else .error .text

/-- The tokens of a line. -/
def vkTokens (cs : List Char) : Except VkError (List VkTok) := vkLex (cs.length + 1) cs

/-- The lines of a source. -/
def vkLines : List Char → List (List Char)
  | [] => [[]]
  | c :: cs =>
    if c == '\n' then [] :: vkLines cs
    else match vkLines cs with
      | [] => [[c]]
      | l :: ls => (c :: l) :: ls

/-- Lower case, for the names that have no case (R60). -/
def vkLower (cs : List Char) : String := String.ofList (cs.map Char.toLower)

/-- The parts of an identifier between its points. -/
def vkParts : List Char → List (List Char)
  | [] => [[]]
  | c :: cs =>
    if c == '.' then [] :: vkParts cs
    else match vkParts cs with
      | [] => [[c]]
      | l :: ls => (c :: l) :: ls

/-! ## Constants -/

/-- The value of a digit. -/
def vkDigit (base : Nat) (c : Char) : Option Nat :=
  let v := if c.isDigit then c.toNat - 48 else if c.isLower then c.toNat - 87 else if c.isUpper then c.toNat - 55 else base
  if v < base then some v else none

/-- The number that digits write after acc; `_` stands between digits only (R60). d: a digit comes before. -/
def vkDigits (base : Nat) (acc : Nat) (d : Bool) : List Char → Option Nat
  | [] => if d then some acc else none
  | c :: cs =>
    if c == '_' then (if d then vkDigits base acc false cs else none)
    else match vkDigit base c with
      | some v => vkDigits base (acc * base + v) true cs
      | none => none

/-- A constant: decimal, 0x hexadecimal or 0b binary (R60). -/
def vkConst (cs : List Char) : Option Nat :=
  match cs with
  | '0' :: 'x' :: r => vkDigits 16 0 false r
  | '0' :: 'b' :: r => vkDigits 2 0 false r
  | r => vkDigits 10 0 false r

/-! ## Expressions -/

/-- −x − 1 of a negative number: its complement. -/
def vkFlip (x : Int) : Nat := (-x - 1).toNat
/-- The numbers below n bits of a that are 0 in b. -/
def vkClear (a b : Nat) : Nat := a - (a &&& b)

/-- Bitwise AND of two's complement numbers. -/
def vkAnd (a b : Int) : Int :=
  if 0 ≤ a then (if 0 ≤ b then (a.toNat &&& b.toNat : Nat) else (vkClear a.toNat (vkFlip b) : Nat))
  else if 0 ≤ b then (vkClear b.toNat (vkFlip a) : Nat)
  else -((vkFlip a ||| vkFlip b : Nat) : Int) - 1

/-- Bitwise OR of two's complement numbers. -/
def vkOr (a b : Int) : Int := -(vkAnd (-a - 1) (-b - 1)) - 1

/-- The operators of R60. -/
inductive VkOp where
  | or | and | shl | shr | add | sub | mul
deriving DecidableEq, Repr

/-- The operator of level l that a token is; a higher level binds more tightly (log 58). -/
def vkOpAt (l : Nat) (t : VkTok) : Option VkOp :=
  match l, t with
  | 0, .mark '|' => some .or
  | 1, .mark '&' => some .and
  | 2, .shl => some .shl
  | 2, .shr => some .shr
  | 3, .mark '+' => some .add
  | 3, .mark '-' => some .sub
  | 4, .mark '*' => some .mul
  | _, _ => none

/-- The result of an operator; a shift by a negative number has none. -/
def VkOp.apply (o : VkOp) (a b : Int) : Except VkError Int :=
  match o with
  | .or => .ok (vkOr a b)
  | .and => .ok (vkAnd a b)
  | .shl => if b < 0 then .error .constant else .ok (a * 2 ^ b.toNat)
  | .shr => if b < 0 then .error .constant else .ok (a / 2 ^ b.toNat)
  | .add => .ok (a + b)
  | .sub => .ok (a - b)
  | .mul => .ok (a * b)

/-- An expression of level l, its part so far if any, and the tokens that follow. op: what the operators do; env: the symbols. n steps
at most. -/
def vkParse (op : VkOp → Int → Int → Except VkError Int) (env : List Char → Except VkError Int) :
    Nat → Nat → Option Int → List VkTok → Except VkError (Int × List VkTok)
  | 0, _, _, _ => .error .text
  | n + 1, l, some v, ts =>
    match ts with
    | [] => .ok (v, [])
    | t :: r =>
      match vkOpAt l t with
      | none => .ok (v, ts)
      | some o => do
        let w ← vkParse op env n (l + 1) none r
        let x ← op o v w.1
        vkParse op env n l (some x) w.2
  | n + 1, l, none, ts =>
    if l < 5 then do
      let w ← vkParse op env n (l + 1) none ts
      vkParse op env n l (some w.1) w.2
    else match ts with
      | .num cs :: r =>
        match vkConst cs with
        | some v => .ok (v, r)
        | none => .error .constant
      | .name cs :: r => do
        let v ← env cs
        .ok (v, r)
      | .mark '-' :: r => do
        let w ← vkParse op env n 5 none r
        .ok (-w.1, w.2)
      | .mark '(' :: r => do
        let w ← vkParse op env n 0 none r
        match w.2 with
        | .mark ')' :: r => .ok (w.1, r)
        | _ => .error .text
      | _ => .error .text

/-- The tokens are all of one expression, with a value (R60). -/
def vkWhole (op : VkOp → Int → Int → Except VkError Int) (env : List Char → Except VkError Int) (ts : List VkTok) : Except VkError Int :=
  match vkParse op env (8 * ts.length + 16) 0 none ts with
  | .ok (v, []) => .ok v
  | .ok _ => .error .text
  | .error e => .error e

/-- The value of a constant expression (R60). -/
def vkEval (env : List Char → Except VkError Int) (ts : List VkTok) : Except VkError Int := vkWhole VkOp.apply env ts

/-- The tokens are one constant expression, whatever its symbols stand for and its operators give (R60): what a `.equ` needs that
nothing uses. It may name a symbol that has no definition, itself among them. DEDUCED, log 58: R64 rejects a `.equ` for its name alone. -/
def vkFormed (ts : List VkTok) : Bool := (vkWhole (fun _ _ _ => .ok 0) (fun _ => .ok 0) ts).isOk

/-- What a symbol stands for: an address in the code, an offset in the data, or an expression of `.equ`. -/
inductive VkSym where
  | code (a : Nat)
  | data (o : Nat)
  | equ (ts : List VkTok)
deriving DecidableEq, Repr

/-- The value of a symbol. base: the data base, once it is known. n definitions deep at most. -/
def vkLookup (syms : List (List Char × VkSym)) (base : Option Nat) : Nat → List Char → Except VkError Int
  | 0, _ => .error .symbol
  | n + 1, x =>
    match syms.find? fun s => s.1 == x with
    | none => .error .symbol
    | some (_, .code a) => .ok a
    | some (_, .data o) => (base.map fun b => ((b + o : Nat) : Int)).elim (.error .symbol) .ok
    | some (_, .equ ts) => vkEval (vkLookup syms base n) ts

/-- The tokens between commas that stand in no parentheses. d: parentheses open. -/
def vkCommas (d : Nat) : List VkTok → List (List VkTok)
  | [] => [[]]
  | t :: ts =>
    if t == .mark ',' && d == 0 then [] :: vkCommas 0 ts
    else
      match vkCommas (if t == .mark '(' then d + 1 else if t == .mark ')' then d - 1 else d) ts with
      | [] => [[t]]
      | l :: ls => (t :: l) :: ls

/-- The operands of a line. -/
def vkSplit (ts : List VkTok) : List (List VkTok) := if ts.isEmpty then [] else vkCommas 0 ts

end Sys2Proof.Machine
end

