-- ==== Sys2Proof/Machine/VkForms.lean ====
section
/-! DEFINITION. The assembly form of every word (R56, R57, R61, R62, and the form in each word's entry): from mnemonic, suffixes
and operands to the instruction, or the reason why vkas rejects the line. -/

namespace Sys2Proof.Machine

/-- The register sets of assembly forms (R10). -/
inductive VkSet where
  | v | s | p | h | a | ct | cb
deriving DecidableEq, Repr

/-- The number of registers of a set (R43). -/
def VkSet.size : VkSet → Nat
  | .v | .s | .h => 64
  | .p => 32
  | .a | .ct => 16
  | .cb => 4

/-- Register number ds of a set. -/
def vkNumbered (k : VkSet) (ds : List Char) : Option (VkSet × Nat) :=
  if !ds.isEmpty && ds.all Char.isDigit && (ds.length == 1 || ds.head? != some '0') then
    match vkConst ds with
    | some n => if n < k.size then some (k, n) else none
    | none => none
  else none

/-- The register that a name names, in either case (R60). -/
def vkRegister (cs : List Char) : Option (VkSet × Nat) :=
  match cs.map Char.toLower with
  | 'c' :: 't' :: ds => vkNumbered .ct ds
  | 'c' :: 'b' :: ds => vkNumbered .cb ds
  | 'v' :: ds => vkNumbered .v ds
  | 's' :: ds => vkNumbered .s ds
  | 'p' :: ds => vkNumbered .p ds
  | 'h' :: ds => vkNumbered .h ds
  | 'a' :: ds => vkNumbered .a ds
  | _ => none

/-- An operand: its tokens, and `!` after it. -/
structure VkOpnd where
  toks : List VkTok
  last : Bool := false
deriving DecidableEq, Repr

/-- The operand that tokens write. -/
def vkOpnd (ts : List VkTok) : VkOpnd :=
  if ts.getLast? == some (.mark '!') then { toks := ts.dropLast, last := true } else { toks := ts }

/-- The register that an operand is. -/
def VkOpnd.reg (o : VkOpnd) : Option (VkSet × Nat) :=
  match o.toks with
  | [.name cs] => vkRegister cs
  | _ => none

/-- The name that an operand is, in lower case, without `!`. -/
def VkOpnd.word (o : VkOpnd) : String :=
  match o.last, o.toks with
  | false, [.name cs] => vkLower cs
  | _, _ => ""

/-- A register of set k, without `!`. -/
def VkOpnd.of (k : VkSet) (o : VkOpnd) : Except VkError Nat :=
  match o.reg with
  | some (j, n) => if j ≠ k then .error .operands else if o.last then .error .lastUse else .ok n
  | none => .error .operands

/-- A register of set k as a field. -/
def VkOpnd.f (k : VkSet) (w : Nat) (o : VkOpnd) : Except VkError (BitVec w) := (o.of k).map (BitVec.ofNat w)
/-- A scalar register. -/
def VkOpnd.s (o : VkOpnd) : Except VkError (BitVec 6) := o.f .s 6
/-- A vector register that takes no `!`. -/
def VkOpnd.v (o : VkOpnd) : Except VkError (BitVec 6) := o.f .v 6
/-- A predicate. -/
def VkOpnd.p (o : VkOpnd) : Except VkError (BitVec 5) := o.f .p 5
/-- A tile handle. -/
def VkOpnd.h (o : VkOpnd) : Except VkError (BitVec 6) := o.f .h 6

/-- A vector source with its last-use bit. -/
def VkOpnd.vx (o : VkOpnd) : Except VkError (BitVec 6 × Bool) :=
  match o.reg with
  | some (.v, n) => .ok (BitVec.ofNat 6 n, o.last)
  | _ => .error .operands

/-- The number of a block of n registers of set k, whose first register is the operand (R44). -/
def VkOpnd.block (k : VkSet) (n w : Nat) (o : VkOpnd) : Except VkError (BitVec w) := do
  let r ← o.of k
  if r % n = 0 then .ok (BitVec.ofNat w (r / n)) else .error .illegal

/-- A block of vector registers as a source with its last-use bit. -/
def VkOpnd.blockx (n w : Nat) (o : VkOpnd) : Except VkError (BitVec w × Bool) := do
  let r ← ({ o with last := false } : VkOpnd).block .v n w
  .ok (r, o.last)

/-- What a form is assembled with: the symbols, which of them are labels, and the word's address. -/
structure VkCtx where
  env   : List Char → Except VkError Int
  label : List Char → Bool
  addr  : Nat

/-- A constant operand from lo to hi; a register or `!` is none (R61). -/
def VkCtx.const (c : VkCtx) (lo hi : Int) (o : VkOpnd) : Except VkError Int :=
  if o.last then .error .lastUse
  else if o.reg.isSome then .error .operands
  else match vkEval c.env o.toks with
    | .ok x => if lo ≤ x ∧ x ≤ hi then .ok x else .error .constant
    | .error e => .error e

/-- An unsigned constant of w bits, not above hi. -/
def VkCtx.num (c : VkCtx) (w hi : Nat) (o : VkOpnd) : Except VkError (BitVec w) := do
  let x ← c.const 0 hi o
  .ok (BitVec.ofNat w x.toNat)

/-- A signed constant of w bits (R42). -/
def VkCtx.imm (c : VkCtx) (w : Nat) (o : VkOpnd) : Except VkError (BitVec w) := do
  let x ← c.const (-(2 ^ (w - 1) : Nat)) ((2 ^ (w - 1) : Nat) - 1) o
  .ok (BitVec.ofInt w x)

/-- The operand is a label: no constant stands for a branch's target (R61, R115). -/
def VkCtx.named (c : VkCtx) (o : VkOpnd) : Bool :=
  match o.toks with
  | [.name cs] => c.label cs
  | _ => false

/-- The offset of a branch to a label, in words of w bits (R42, R115). -/
def VkCtx.target (c : VkCtx) (w : Nat) (o : VkOpnd) : Except VkError (BitVec w) := do
  let _ ← if c.named o then .ok () else .error .operands
  let x ← c.const (-(2 ^ 66 : Nat)) ((2 ^ 66 : Nat) : Int) o
  let d := x - c.addr
  if d % 4 ≠ 0 then .error .constant
  else if d / 4 < -(2 ^ (w - 1) : Nat) ∨ ((2 ^ (w - 1) : Nat) : Int) ≤ d / 4 then .error .constant
  else .ok (BitVec.ofInt w (d / 4))

/-- A form: from the suffixes, the run-end mark and the operands to an instruction. -/
abbrev VkForm := VkCtx → List String → Bool → List VkOpnd → Except VkError Instr

/-- The place of a suffix in a list of suffixes: its code. -/
def vkCode (names : List String) (x : String) : Except VkError Nat :=
  match names.findIdx? fun n => n == x with
  | some k => .ok k
  | none => .error .unknown

/-! ## Suffixes (R56, R57) -/

def vkScopes : List String := ["pack", "team", "gang", "dev", "sys"]
def vkConds : List String := ["eq", "ne", "lt", "le", "gt", "ge"]
def vkLoads : List String := ["n8", "n16", "b32", "b64", "s8", "s16"]
def vkStores : List String := ["b8", "b16", "b32", "b64"]
def vkAtoms : List String := ["add", "and", "or", "xor", "min", "max", "exch", "inc"]
def vkTypes : List String :=
  ["s32", "n32", "s16x2", "n16x2", "s8x4", "n8x4", "s64", "n64", "f32", "f16x2", "bf16x2", "b32"]
def vkRounding : List String := ["rne", "rtz", "rup", "rdn", "rna"]
/-- The format codes of R67, by their place. -/
def vkFormats : List String := ["", "e4m3", "e5m2", "e2m1x", "cb4", "s8", "bf16", "f16", "lat8", "", "f32"]
def vkStatus : List String :=
  ["packw", "lanes", "beats", "lcore", "teamid", "gangid", "gangrank", "role", "packinrole", "depth", "gtc", "lwct", "fflags",
   "fstat", "ctxid", "stale"]
def vkPriv : List String := ["pcore", "faultrec", "sysskew", "leasecfg", "tfab", "keytab", "ptbase", "dlogbase"]

/-- A scope; its absence has a reason of its own (R61). -/
def vkScope (xs : List String) : Except VkError Nat :=
  match xs with
  | [] => .error .scope
  | [x] => vkCode vkScopes x
  | _ => .error .unknown

/-- A form without suffixes. -/
def vkPlain (f : VkCtx → Bool → List VkOpnd → Except VkError Instr) : VkForm := fun c xs e ops =>
  if xs.isEmpty then f c e ops else .error .unknown

/-- A form with one suffix of a list. -/
def vkWith (names : List String) (f : Nat → VkCtx → Bool → List VkOpnd → Except VkError Instr) : VkForm := fun c xs e ops =>
  match xs with
  | [x] => do f (← vkCode names x) c e ops
  | _ => .error .unknown

/-! ## Shapes of operands -/

/-- sd, sa, sb. -/
def vkSSS (k : Bool → BitVec 6 → BitVec 6 → BitVec 6 → Instr) (_ : VkCtx) (e : Bool) (ops : List VkOpnd) : Except VkError Instr :=
  match ops with
  | [d, a, b] => do .ok (k e (← d.s) (← a.s) (← b.s))
  | _ => .error .operands

/-- sd, sa. -/
def vkSS (k : Bool → BitVec 6 → BitVec 6 → Instr) (_ : VkCtx) (e : Bool) (ops : List VkOpnd) : Except VkError Instr :=
  match ops with
  | [d, a] => do .ok (k e (← d.s) (← a.s))
  | _ => .error .operands

/-- One scalar register. -/
def vkS (k : Bool → BitVec 6 → Instr) (_ : VkCtx) (e : Bool) (ops : List VkOpnd) : Except VkError Instr :=
  match ops with
  | [a] => do .ok (k e (← a.s))
  | _ => .error .operands

/-- No operand. -/
def vkNone (k : Bool → Instr) (_ : VkCtx) (e : Bool) (ops : List VkOpnd) : Except VkError Instr :=
  if ops.isEmpty then .ok (k e) else .error .operands

/-- sd, sa and then sb, or a constant for the SI form (R61). -/
def vkSSI (k : Bool → BitVec 6 → BitVec 6 → BitVec 6 → Instr) (j : Bool → BitVec 6 → BitVec 6 → BitVec 10 → Instr)
    (c : VkCtx) (e : Bool) (ops : List VkOpnd) : Except VkError Instr :=
  match ops with
  | [d, a, b] => do
    if b.reg.isSome then .ok (k e (← d.s) (← a.s) (← b.s)) else .ok (j e (← d.s) (← a.s) (← c.imm 10 b))
  | _ => .error .operands

/-- The same for shifts, whose constant is from 0 to 63 (R61). -/
def vkSSN (k : Bool → BitVec 6 → BitVec 6 → BitVec 6 → Instr) (j : Bool → BitVec 6 → BitVec 6 → BitVec 6 → Instr)
    (c : VkCtx) (e : Bool) (ops : List VkOpnd) : Except VkError Instr :=
  match ops with
  | [d, a, b] => do
    if b.reg.isSome then .ok (k e (← d.s) (← a.s) (← b.s)) else .ok (j e (← d.s) (← a.s) (← c.num 6 63 b))
  | _ => .error .operands

/-- vd, va, vb. -/
def vkVVV (k : Bool → BitVec 6 → BitVec 6 → BitVec 6 → Bool → Bool → Instr) (_ : VkCtx) (e : Bool) (ops : List VkOpnd) :
    Except VkError Instr :=
  match ops with
  | [d, a, b] => do
    let r ← a.vx
    let q ← b.vx
    .ok (k e (← d.v) r.1 q.1 r.2 q.2)
  | _ => .error .operands

/-- vd, va. -/
def vkVV (k : Bool → BitVec 6 → BitVec 6 → Bool → Instr) (_ : VkCtx) (e : Bool) (ops : List VkOpnd) : Except VkError Instr :=
  match ops with
  | [d, a] => do
    let r ← a.vx
    .ok (k e (← d.v) r.1 r.2)
  | _ => .error .operands

/-- vd, va and then vb, or a constant for the VI form, which has no last-use bit (R61, R127). -/
def vkVVI (k : Bool → BitVec 6 → BitVec 6 → BitVec 6 → Bool → Bool → Instr) (j : Bool → BitVec 6 → BitVec 6 → BitVec 10 → Instr)
    (c : VkCtx) (e : Bool) (ops : List VkOpnd) : Except VkError Instr :=
  match ops with
  | [d, a, b] => do if b.reg.isSome then vkVVV k c e ops else .ok (j e (← d.v) (← a.v) (← c.imm 10 b))
  | _ => .error .operands

/-- The same for shifts. -/
def vkVVN (k : Bool → BitVec 6 → BitVec 6 → BitVec 6 → Bool → Bool → Instr) (j : Bool → BitVec 6 → BitVec 6 → BitVec 6 → Instr)
    (c : VkCtx) (e : Bool) (ops : List VkOpnd) : Except VkError Instr :=
  match ops with
  | [d, a, b] => do if b.reg.isSome then vkVVV k c e ops else .ok (j e (← d.v) (← a.v) (← c.num 6 63 b))
  | _ => .error .operands

/-- vd, va, sb, or sd, va, sb: the first register of set t. -/
def vkLaneForm (t : VkSet) (k : Bool → BitVec 6 → BitVec 6 → BitVec 6 → Bool → Instr) (_ : VkCtx) (e : Bool) (ops : List VkOpnd) :
    Except VkError Instr :=
  match ops with
  | [d, a, b] => do
    let r ← a.vx
    .ok (k e (← d.f t 6) r.1 (← b.s) r.2)
  | _ => .error .operands

/-- pd, va, vb. -/
def vkPVV (k : Bool → BitVec 5 → BitVec 6 → BitVec 6 → Bool → Bool → Instr) (_ : VkCtx) (e : Bool) (ops : List VkOpnd) :
    Except VkError Instr :=
  match ops with
  | [d, a, b] => do
    let r ← a.vx
    let q ← b.vx
    .ok (k e (← d.p) r.1 q.1 r.2 q.2)
  | _ => .error .operands

/-- sd, pa. -/
def vkSP (k : Bool → BitVec 6 → BitVec 5 → Instr) (_ : VkCtx) (e : Bool) (ops : List VkOpnd) : Except VkError Instr :=
  match ops with
  | [d, a] => do .ok (k e (← d.s) (← a.p))
  | _ => .error .operands

/-- A vector register, a scalar base and a vector offset; `!` belongs to the offset (R53). -/
def vkLoad (k : Bool → BitVec 6 → BitVec 6 → BitVec 6 → Bool → Instr) (_ : VkCtx) (e : Bool) (ops : List VkOpnd) :
    Except VkError Instr :=
  match ops with
  | [v, b, o] => do
    let r ← o.vx
    .ok (k e (← v.v) (← b.s) r.1 r.2)
  | _ => .error .operands

/-- The same with `!` for the data register. -/
def vkStore (k : Bool → BitVec 6 → BitVec 6 → BitVec 6 → Bool → Instr) (_ : VkCtx) (e : Bool) (ops : List VkOpnd) :
    Except VkError Instr :=
  match ops with
  | [v, b, o] => do
    let r ← v.vx
    .ok (k e r.1 (← b.s) (← o.v) r.2)
  | _ => .error .operands

/-- A block of n vector registers, a scalar base and a vector offset. -/
def vkBlockLoad (n w : Nat) (k : Bool → BitVec w → BitVec 6 → BitVec 6 → Bool → Instr) (_ : VkCtx) (e : Bool)
    (ops : List VkOpnd) : Except VkError Instr :=
  match ops with
  | [v, b, o] => do
    let r ← o.vx
    .ok (k e (← v.block .v n w) (← b.s) r.1 r.2)
  | _ => .error .operands

/-- A scalar register, a scalar base and a number (R230). -/
def vkScalarMem (k : Bool → BitVec 6 → BitVec 6 → BitVec 6 → Instr) (c : VkCtx) (e : Bool) (ops : List VkOpnd) :
    Except VkError Instr :=
  match ops with
  | [v, b, n] => do .ok (k e (← v.s) (← b.s) (← c.num 6 63 n))
  | _ => .error .operands

/-- A scalar register, a handle and a scalar register. -/
def vkSHS (k : Bool → BitVec 6 → BitVec 6 → BitVec 6 → Instr) (_ : VkCtx) (e : Bool) (ops : List VkOpnd) : Except VkError Instr :=
  match ops with
  | [v, h, x] => do .ok (k e (← v.s) (← h.h) (← x.s))
  | _ => .error .operands

/-- A scalar register and a handle. -/
def vkSH (k : Bool → BitVec 6 → BitVec 6 → Instr) (_ : VkCtx) (e : Bool) (ops : List VkOpnd) : Except VkError Instr :=
  match ops with
  | [v, h] => do .ok (k e (← v.s) (← h.h))
  | _ => .error .operands

/-- A handle, a scalar offset and a scalar value (R311, R312). -/
def vkGate (k : Bool → BitVec 6 → BitVec 6 → BitVec 6 → Instr) (_ : VkCtx) (e : Bool) (ops : List VkOpnd) : Except VkError Instr :=
  match ops with
  | [h, x, v] => do .ok (k e (← v.s) (← h.h) (← x.s))
  | _ => .error .operands

/-- A register of set t, a handle and an even scalar pair (R277). -/
def vkStream (t : VkSet) (k : Bool → BitVec 6 → BitVec 6 → BitVec 5 → Instr) (_ : VkCtx) (e : Bool) (ops : List VkOpnd) :
    Except VkError Instr :=
  match ops with
  | [v, h, x] => do .ok (k e (← v.f t 6) (← h.h) (← x.block .s 2 5))
  | _ => .error .operands

/-- A word that is a control transfer: it must carry `|` (R50, R63). -/
def vkTransfer (f : VkCtx → List VkOpnd → Except VkError Instr) (c : VkCtx) (e : Bool) (ops : List VkOpnd) : Except VkError Instr :=
  if e then f c ops else .error .runEnd

/-- One scalar register, s63 when none is written (R109, R382). -/
def vkReturn (k : BitVec 6 → Instr) (_ : VkCtx) (ops : List VkOpnd) : Except VkError Instr :=
  match ops with
  | [] => .ok (k 63)
  | [a] => do .ok (k (← a.s))
  | _ => .error .operands

/-- A label (R115). -/
def vkBranch (k : BitVec 22 → Instr) (c : VkCtx) (ops : List VkOpnd) : Except VkError Instr :=
  match ops with
  | [o] => do .ok (k (← c.target 22 o))
  | _ => .error .operands

/-- A scalar register and a label (R115). -/
def vkBranchS (k : BitVec 6 → BitVec 18 → Instr) (c : VkCtx) (ops : List VkOpnd) : Except VkError Instr :=
  match ops with
  | [a, o] => do .ok (k (← a.s) (← c.target 18 o))
  | _ => .error .operands

/-- A number of 6 bits (R381). -/
def vkNumber6 (k : Bool → BitVec 6 → Instr) (c : VkCtx) (e : Bool) (ops : List VkOpnd) : Except VkError Instr :=
  match ops with
  | [n] => do .ok (k e (← c.num 6 63 n))
  | _ => .error .operands

/-! ## Forms of their own -/

/-- `plog.op pd, pa, pb`; an operand that the operation does not use is not written (R130). -/
def vkPlog : VkForm := vkWith ["and", "or", "xor", "andn", "not", "mov", "set", "clr"] fun o _ e ops =>
  let op := BitVec.ofNat 3 o
  match ops with
  | [d, a, b] => do if o < 4 then .ok (.plog e (← d.p) (← a.p) (← b.p) op) else .error .operands
  | [d, a] => do if o = 4 ∨ o = 5 then .ok (.plog e (← d.p) (← a.p) 0 op) else .error .operands
  | [d] => do if 6 ≤ o then .ok (.plog e (← d.p) 0 0 op) else .error .operands
  | _ => .error .operands

/-- A guard: `pN` or `~pN` (R62): GS and GP. -/
def vkGuard (o : VkOpnd) : Option (Bool × Nat) :=
  match o.last, o.toks with
  | false, [.name cs] => match vkRegister cs with
    | some (.p, n) => some (false, n)
    | _ => none
  | false, [.mark '~', .name cs] => match vkRegister cs with
    | some (.p, n) => some (true, n)
    | _ => none
  | _, _ => none

/-- `mode type, rounding[, guard][, sat]` (R62). -/
def vkMode : VkForm := vkPlain fun _ e ops =>
  match ops with
  | t :: r :: rest => do
    let ty ← match t.last, t.toks with
      | false, [.dot cs] => vkCode vkTypes (vkLower cs)
      | _, _ => .error .operands
    let rm ← vkCode vkRounding r.word
    let k := fun (g : Option (Bool × Nat)) (sat : Bool) =>
      Instr.mode e (BitVec.ofNat 4 ty) (BitVec.ofNat 3 rm) (if g.isSome then 1 else 0)
        (if (g.map (·.1)).getD false then 1 else 0) (BitVec.ofNat 5 ((g.map (·.2)).getD 0)) (if sat then 1 else 0)
    match rest with
    | [] => .ok (k none false)
    | [x] => if x.word == "sat" then .ok (k none true) else match vkGuard x with
      | some g => .ok (k (some g) false)
      | none => .error .operands
    | [x, y] => match vkGuard x with
      | some g => if y.word == "sat" then .ok (k (some g) true) else .error .operands
      | none => .error .operands
    | _ => .error .operands
  | _ => .error .operands

/-- The thresholds of HOLD so far, with those of more operands: each name once (R62). -/
def vkThresholds (c : VkCtx) (acc : List (Nat × Nat)) : List VkOpnd → Except VkError (List (Nat × Nat))
  | [] => .ok acc
  | o :: os =>
    match o.toks with
    | .name cs :: .mark '=' :: ts => do
      let k ← vkCode ["ld", "st", "tl", "mx", "dc"] (vkLower cs)
      let n ← c.const 0 31 { toks := ts, last := o.last }
      if acc.any fun a => a.1 == k then .error .operands else vkThresholds c ((k, n.toNat) :: acc) os
    | _ => .error .operands

/-- `hold name=value, …`: a name that is not written is 31 (R62). -/
def vkHold : VkForm := vkPlain fun c e ops => do
    let ts ← vkThresholds c [] ops
    let at_ := fun k => BitVec.ofNat 5 (((ts.find? fun t => t.1 == k).map (·.2)).getD 31)
    .ok (.hold e (at_ 0) (at_ 1) (at_ 2) (at_ 3) (at_ 4))

/-- `srd sd, name` (R105). -/
def vkSrd : VkForm := vkPlain fun _ e ops =>
  match ops with
  | [d, n] => do .ok (.srd e (← d.s) (BitVec.ofNat 6 (← vkCode vkStatus n.word)))
  | _ => .error .operands

/-- `ssrd sd, name, sb`; without an index b is 0 (R383). -/
def vkSsrd : VkForm := vkPlain fun _ e ops =>
  match ops with
  | [d, n] => do .ok (.ssrd e (← d.s) (BitVec.ofNat 6 (← vkCode vkPriv n.word)) 0)
  | [d, n, b] => do .ok (.ssrd e (← d.s) (BitVec.ofNat 6 (← vkCode vkPriv n.word)) (← b.s))
  | _ => .error .operands

/-- `sswr name, sb` (R383). -/
def vkSswr : VkForm := vkPlain fun _ e ops =>
  match ops with
  | [n, b] => do .ok (.sswr e (BitVec.ofNat 6 (← vkCode vkPriv n.word)) (← b.s))
  | _ => .error .operands

/-- `mnem.op.scope vd, sb, vo`, with fn = base + 5 × op + scope (R250). -/
def vkAtomic (names : List String) (base : Nat) (store : Bool)
    (k : BitVec 6 → Bool → BitVec 6 → BitVec 6 → BitVec 6 → Bool → Instr) : VkForm := fun c xs e ops =>
  match xs with
  | x :: scope => do
    let o ← vkCode names x
    let s ← vkScope scope
    (if store then vkStore else vkLoad) (k (BitVec.ofNat 6 (base + 5 * o + s))) c e ops
  | [] => .error .unknown

/-- `mnem.width.scope vd, sb, vo` of LDAQ and STRL (R250). -/
def vkOrdered (store : Bool) (k : BitVec 1 → BitVec 3 → Bool → BitVec 6 → BitVec 6 → BitVec 6 → Bool → Instr) : VkForm :=
  fun c xs e ops =>
  match xs with
  | x :: scope => do
    let w ← vkCode ["b32", "b64"] x
    let s ← vkScope scope
    (if store then vkStore else vkLoad) (k (BitVec.ofNat 1 w) (BitVec.ofNat 3 s)) c e ops
  | [] => .error .unknown

/-- `mnem.scope vd, sb, vo` with a block of n registers, CAS and CAS64 (R250). -/
def vkCas (n w : Nat) (k : BitVec 3 → Bool → BitVec w → BitVec 6 → BitVec 6 → Bool → Instr) : VkForm := fun c xs e ops => do
  let s ← vkScope xs
  vkBlockLoad n w (k (BitVec.ofNat 3 s)) c e ops

/-- `.pair` or `.single`, and `.keep`, in this order (R61): PM and K. -/
def vkPairKeep : List String → Except VkError (Bool × Bool)
  | [] => .ok (false, false)
  | ["single"] => .ok (false, false)
  | ["pair"] => .ok (true, false)
  | ["keep"] => .ok (false, true)
  | ["single", "keep"] => .ok (false, true)
  | ["pair", "keep"] => .ok (true, true)
  | _ => .error .unknown

/-- `mma.fmt[.pair][.keep] aN, vA, vS`; vS is `unit` for unit scales, so v63 cannot be written (R325). -/
def vkMma : VkForm := fun _ xs e ops =>
  match xs, ops with
  | x :: rest, [n, a, s] => do
    let f ← vkCode vkFormats x
    let m ← vkPairKeep rest
    let t ← a.v
    let u ← if s.word == "unit" then .ok 63#6 else s.v
    if t ≠ 0 ∧ t ≠ 32 then .error .illegal
    else if s.word != "unit" && u == 63 then .error .operands
    else .ok (.mma e (← n.f .a 4) (if t = 32 then 1 else 0) (if m.2 then 1 else 0) u (if m.1 then 1 else 0) (BitVec.ofNat 6 f))
  | _, _ => .error .operands

/-! ## The forms by mnemonic -/

/-- Scalar and control words (R101-R115). -/
def vkScalarForms : List (String × VkForm) :=
  [("sadd", vkPlain (vkSSI .sadd .saddImm)), ("ssub", vkPlain (vkSSS .ssub)), ("smul", vkPlain (vkSSI .smul .smulImm)),
   ("smulh", vkPlain (vkSSS .smulh)), ("sand", vkPlain (vkSSI .sand .sandImm)), ("sor", vkPlain (vkSSI .sor .sorImm)),
   ("sxor", vkPlain (vkSSI .sxor .sxorImm)), ("sandn", vkPlain (vkSSS .sandn)), ("sshl", vkPlain (vkSSN .sshl .sshlImm)),
   ("sshr", vkPlain (vkSSN .sshr .sshrImm)), ("ssar", vkPlain (vkSSN .ssar .ssarImm)), ("smin", vkPlain (vkSSS .smin)),
   ("smax", vkPlain (vkSSS .smax)), ("sclz", vkPlain (vkSS .sclz)), ("spopc", vkPlain (vkSS .spopc)),
   ("ssel", vkPlain (vkSSS .ssel)), ("smov", vkPlain (vkSS .smov)),
   ("scmp", vkWith (vkConds ++ ["ltn", "gen"]) fun o => vkSSS fun e d a b => .scmp e d a b (BitVec.ofNat 3 o)),
   ("sli", vkPlain fun c e ops => match ops with
     | [d, i] => do .ok (.sli e (← d.s) (← c.imm 19 i))
     | _ => .error .operands),
   ("shi", vkPlain fun c e ops => match ops with
     | [d, q, i] => do .ok (.shi e (← d.s) (← c.num 2 3 q) (← c.num 16 65535 i))
     | _ => .error .operands),
   ("mskp", vkPlain (vkSP .mskp)), ("mskn", vkPlain (vkSP .mskn)), ("msks", vkPlain (vkS .msks)), ("mskg", vkPlain (vkS .mskg)),
   ("mskpop", vkPlain (vkSP .mskpop)), ("mskff", vkPlain (vkSP .mskff)), ("modeg", vkPlain (vkS .modeg)),
   ("modes", vkPlain (vkS .modes)), ("srd", vkSrd), ("nop", vkPlain (vkNone .nop)), ("yield", vkPlain (vkNone .yield)),
   ("exit", vkPlain (vkTransfer fun _ ops => if ops.isEmpty then .ok .exit else .error .operands)),
   ("ret", vkPlain (vkTransfer (vkReturn .ret))),
   ("jmp", vkPlain (vkTransfer fun _ ops => match ops with
     | [a] => do .ok (.jmp (← a.s))
     | _ => .error .operands)),
   ("mode", vkMode), ("hold", vkHold),
   ("bra", vkPlain (vkTransfer (vkBranch .bra))), ("call", vkPlain (vkTransfer (vkBranch .call))),
   ("bemz", vkPlain (vkTransfer (vkBranch .bemz))), ("bemf", vkPlain (vkTransfer (vkBranch .bemf))),
   ("bz", vkPlain (vkTransfer (vkBranchS .bz))), ("bnz", vkPlain (vkTransfer (vkBranchS .bnz)))]

/-- Integer and lane words (R118-R133). -/
def vkIntegerForms : List (String × VkForm) :=
  [("vadd", vkPlain (vkVVI .vadd .vaddImm)), ("vaddc", vkPlain (vkVVV .vaddc)), ("vsub", vkPlain (vkVVV .vsub)),
   ("vsubb", vkPlain (vkVVV .vsubb)), ("vmul", vkPlain (vkVVI .vmul .vmulImm)), ("vmulh", vkPlain (vkVVV .vmulh)),
   ("vmad", vkPlain (vkVVV .vmad)), ("vmin", vkPlain (vkVVV .vmin)), ("vmax", vkPlain (vkVVV .vmax)),
   ("vabs", vkPlain (vkVV .vabs)), ("vneg", vkPlain (vkVV .vneg)), ("vand", vkPlain (vkVVI .vand .vandImm)),
   ("vor", vkPlain (vkVVI .vor .vorImm)), ("vxor", vkPlain (vkVVI .vxor .vxorImm)), ("vnot", vkPlain (vkVV .vnot)),
   ("vandn", vkPlain (vkVVV .vandn)), ("vshl", vkPlain (vkVVN .vshl .vshlImm)), ("vshr", vkPlain (vkVVN .vshr .vshrImm)),
   ("vsar", vkPlain (vkVVN .vsar .vsarImm)), ("vrot", vkPlain (vkVVV .vrot)), ("vclz", vkPlain (vkVV .vclz)),
   ("vffs", vkPlain (vkVV .vffs)), ("vpopc", vkPlain (vkVV .vpopc)), ("vbrev", vkPlain (vkVV .vbrev)),
   ("vsel", vkPlain (vkVVV .vsel)), ("vmov", vkPlain (vkVV .vmov)),
   ("vli", vkPlain fun c e ops => match ops with
     | [d, i] => do .ok (.vli e (← d.v) (← c.imm 19 i))
     | _ => .error .operands),
   ("vlane", vkPlain fun _ e ops => match ops with
     | [d] => do .ok (.vlane e (← d.v))
     | _ => .error .operands),
   ("vshf", vkPlain (vkVVV .vshf)), ("vstep", vkPlain (vkLaneForm .v .vstep)), ("vbcast", vkPlain (vkLaneForm .v .vbcast)),
   ("vget", vkPlain (vkLaneForm .s .vget)), ("vbfx", vkPlain (vkVVV .vbfx)), ("vbfi", vkPlain (vkVVV .vbfi)),
   ("vcmp", vkWith vkConds fun o => vkPVV fun e d a b x y => .vcmp e d a b x y (BitVec.ofNat 3 o)), ("plog", vkPlog)]

/-- Float, conversion and lattice words (R139-R182). -/
def vkFloatForms : List (String × VkForm) :=
  [("fadd", vkPlain (vkVVV .fadd)), ("fsub", vkPlain (vkVVV .fsub)), ("fmul", vkPlain (vkVVV .fmul)),
   ("fmin", vkPlain (vkVVV .fmin)), ("fmax", vkPlain (vkVVV .fmax)), ("fabs", vkPlain (vkVV .fabs)),
   ("fneg", vkPlain (vkVV .fneg)), ("fclass", vkPlain (vkVV .fclass)), ("frint", vkPlain (vkVV .frint)),
   ("fdiv", vkPlain (vkVVV .fdiv)),
   ("fcmp", vkWith (vkConds ++ ["un", "ord"]) fun o => vkPVV fun e d a b x y => .fcmp e d a b x y (BitVec.ofNat 3 o)),
   ("frcp", vkPlain (vkVV .frcp)), ("frsq", vkPlain (vkVV .frsq)), ("fsqrt", vkPlain (vkVV .fsqrt)),
   ("fexp2", vkPlain (vkVV .fexp2)), ("flog2", vkPlain (vkVV .flog2)), ("fsin", vkPlain (vkVV .fsin)),
   ("fcos", vkPlain (vkVV .fcos)), ("ftanh", vkPlain (vkVV .ftanh)),
   ("ffma", vkWith ["fma", "fms", "fnma", "fnms"] fun o => vkVVV fun e d a b x y => .ffma e d a b x y (BitVec.ofNat 2 o)),
   ("fflags", vkPlain (vkSSS .fflags)),
   ("cvt", vkWith vkTypes fun o => vkVV fun e d a x => .cvt e d a (BitVec.ofNat 6 o) x),
   ("unpk", vkWith vkFormats fun o c e ops => match ops with
     | [d, a, n] => do
       let r ← a.vx
       .ok (.unpk e (← d.v) r.1 (BitVec.ofNat 6 o) r.2 (← c.num 3 7 n))
     | _ => .error .operands),
   ("pack2", vkWith ["bf16", "f16"] fun o => vkVVV fun e d a b x y => if o = 0 then .pack2Bf16 e d a b x y else .pack2F16 e d a b x y),
   ("pack4", vkWith ["e4m3", "e5m2"] fun o _ e ops => match ops with
     | [d, a, b] => do
       let r ← a.blockx 2 5
       let q ← b.blockx 2 5
       let v ← d.v
       .ok (if o = 0 then .pack4E4m3 e v r.1 q.1 r.2 q.2 else .pack4E5m2 e v r.1 q.1 r.2 q.2)
     | _ => .error .operands),
   ("pack4h", vkWith ["lo", "hi"] fun o _ e ops => match ops with
     | [d, a, b] => do
       let r ← a.blockx 2 5
       let q ← b.blockx 2 5
       let v ← d.v
       .ok (if o = 0 then .pack4hLo e v r.1 q.1 r.2 q.2 else .pack4hHi e v r.1 q.1 r.2 q.2)
     | _ => .error .operands),
   ("bscale", vkWith vkFormats fun o => vkVV fun e d a x => .bscale e d a (BitVec.ofNat 6 o) x),
   ("qcb", vkPlain fun _ e ops => match ops with
     | [d, a, k] => do
       let r ← a.vx
       .ok (.qcb e (← d.v) r.1 (← k.f .cb 2) r.2)
     | _ => .error .operands),
   ("xset", vkPlain (vkVVV .xset)),
   ("cbld", vkPlain fun _ e ops => match ops with
     | [k, a] => do
       let r ← a.vx
       .ok (.cbld e (← k.f .cb 2) r.1 r.2)
     | _ => .error .operands),
   ("qlat", vkPlain fun _ e ops => match ops with
     | [d, a, b] => do
       let r ← a.blockx 8 3
       let q ← b.vx
       .ok (.qlat e (← d.v) r.1 q.1 r.2 q.2)
     | _ => .error .operands),
   ("dlat", vkPlain fun _ e ops => match ops with
     | [d, a, b] => do
       let r ← a.vx
       let q ← b.vx
       .ok (.dlat e (← d.block .v 8 3) r.1 q.1 r.2 q.2)
     | _ => .error .operands),
   ("lput", vkPlain (vkVVV .lput)),
   ("lscale", vkPlain fun _ e ops => match ops with
     | [d, a, b] => do
       let r ← a.blockx 8 3
       let q ← b.vx
       .ok (.lscale e (← d.v) r.1 q.1 r.2 q.2)
     | _ => .error .operands),
   ("lshell", vkPlain (vkVVV .lshell)), ("lget", vkPlain (vkVVV .lget)), ("lpack", vkPlain (vkVVV .lpack)),
   ("lchk", vkPlain fun c e ops => match ops with
     | [d, a, n] => do
       let r ← a.vx
       .ok (.lchk e (← d.p) r.1 (← c.num 2 2 n) r.2)
     | _ => .error .operands)]

/-- Tile, memory and atomic words (R198-R256). -/
def vkMemoryForms : List (String × VkForm) :=
  [("tld", vkPlain fun _ e ops => match ops with
     | [v, h, x] => do
       let r ← x.vx
       .ok (.tld e (← v.v) (← h.h) r.1 r.2)
     | _ => .error .operands),
   ("tst", vkPlain fun _ e ops => match ops with
     | [v, h, x] => do
       let r ← v.vx
       .ok (.tst e r.1 (← h.h) (← x.v) r.2)
     | _ => .error .operands),
   ("tlds", vkPlain (vkSHS .tlds)), ("talloc", vkPlain (vkSHS .talloc)), ("tfree", vkPlain (vkSH .tfree)),
   ("tinfo", vkPlain (vkSH .tinfo)), ("twptr", vkPlain (vkSH .twptr)),
   ("tfill", vkPlain fun _ e ops => match ops with
     | [h, a] => do .ok (.tfill e (← a.s) (← h.h))
     | _ => .error .operands),
   ("ld", vkWith vkLoads fun w => vkLoad fun e v b o l => .ld e v b o l (BitVec.ofNat 3 w)),
   ("st", vkWith vkStores fun w => vkStore fun e v b o l => .st e v b o l (BitVec.ofNat 2 w)),
   ("ldp", vkWith vkLoads fun w => vkLoad fun e v b o l => .ldp e v b o l (BitVec.ofNat 3 w)),
   ("stp", vkWith vkStores fun w => vkStore fun e v b o l => .stp e v b o l (BitVec.ofNat 2 w)),
   ("lds", vkWith vkLoads fun w => vkScalarMem fun e v b n => .lds e v b n (BitVec.ofNat 3 w)),
   ("sts", vkWith vkStores fun w => vkScalarMem fun e v b n => .sts e v b n (BitVec.ofNat 2 w)),
   ("pref", vkWith ["l2", "l1"] fun p _ e ops => match ops with
     | [b, o] => do
       let r ← o.vx
       .ok (.pref e (BitVec.ofNat 1 p) (← b.s) r.1 r.2)
     | _ => .error .operands),
   ("pflush", vkPlain (vkNone .pflush)),
   ("atom", vkAtomic vkAtoms 0 false fun f e v b o l => .atom e v b o l f),
   ("atomf", vkAtomic ["add", "min", "max"] 40 false fun f e v b o l => .atomf e v b o l f),
   ("atoms", vkAtomic vkAtoms 8 true fun f e v b o l => .atoms e v b o l f),
   ("cas", vkCas 2 5 fun s e v b o l => .cas e v b o l s), ("cas64", vkCas 4 4 fun s e v b o l => .cas64 e v b o l s),
   ("ldaq", vkOrdered false fun w s e v b o l => .ldaq e v b o l w s),
   ("strl", vkOrdered true fun w s e v b o l => .strl e v b o l w s),
   ("fence", fun _ xs e ops => do
     let s ← vkScope xs
     if ops.isEmpty then .ok (.fence e (BitVec.ofNat 3 s)) else .error .operands)]

/-- Stream, lift, gate and matrix words (R277-R332). -/
def vkEngineForms : List (String × VkForm) :=
  [("ctld", vkPlain fun _ e ops => match ops with
     | [n, h, x] => do .ok (.ctld e (← n.f .ct 4) (← h.h) (← x.s))
     | _ => .error .operands),
   ("ctinv", vkPlain fun _ e ops => match ops with
     | [n] => do .ok (.ctinv e (← n.f .ct 4))
     | _ => .error .operands),
   ("bixq", vkPlain (vkSSS .bixq)), ("kvapp", vkPlain (vkStream .s .kvapp)), ("dech", vkPlain (vkStream .v .dech)),
   ("dec", vkPlain fun _ e ops => match ops with
     | [v, h, x] => do .ok (.dec e (← v.block .v 4 4) (← h.h) (← x.block .s 2 5))
     | _ => .error .operands),
   ("enc", vkPlain fun _ e ops => match ops with
     | [v, h, x] => do
       let r ← v.blockx 4 4
       .ok (.enc e r.1 (← h.h) (← x.block .s 2 5) r.2)
     | _ => .error .operands),
   ("encf", vkPlain (vkStream .s .encf)), ("lift", vkPlain (vkSS .lift)), ("lqry", vkPlain (vkSS .lqry)),
   ("lcan", vkPlain (vkSS .lcan)), ("ginit", vkPlain (vkGate .ginit)), ("gexp", vkPlain (vkGate .gexp)),
   ("garr", vkPlain (vkGate .garr)), ("gwait", vkPlain (vkGate .gwait)), ("gtry", vkPlain (vkSHS .gtry)),
   ("mma", vkMma), ("mwld", vkPlain (vkStream .s .mwld)), ("mswap", vkPlain (vkNone .mswap)),
   ("mzero", vkPlain fun c e ops => match ops with
     | [n, k] => do
       let x ← c.const 1 16 k
       .ok (.mzero e (← n.f .a 4) (BitVec.ofNat 4 (x.toNat - 1)))
     | _ => .error .operands),
   ("mrd", vkPlain fun _ e ops => match ops with
     | [d, n, x] => do .ok (.mrd e (← n.f .a 4) (← d.v) (← x.v))
     | _ => .error .operands),
   ("mwr", vkPlain fun _ e ops => match ops with
     | [n, d, x] => do .ok (.mwr e (← n.f .a 4) (← d.v) (← x.v))
     | _ => .error .operands),
   ("mrel", vkPlain (vkNone .mrel)),
   ("ppt", vkPlain fun c e ops => match ops with
     | [m] => do .ok (.ppt e (← c.num 16 65535 m))
     | _ => .error .operands)]

/-- Launch, fabric and system words (R352-R431). -/
def vkSystemForms : List (String × VkForm) :=
  [("launch", vkPlain (vkSS .launch)), ("tbar", vkPlain (vkS .tbar)), ("gbar", vkPlain (vkS .gbar)),
   ("evsig", vkPlain (vkSSS .evsig)),
   ("evwait", vkPlain (vkSS .evwait)), ("coll", vkPlain (vkSS .coll)), ("cwait", vkPlain (vkSS .cwait)),
   ("grpf", vkPlain (vkSS .grpf)), ("fstat", vkPlain (vkSS .fstat)), ("trap", vkPlain (vkNumber6 .trap)),
   ("bkpt", vkPlain (vkNumber6 .bkpt)), ("rte", vkPlain (vkTransfer (vkReturn .rte))), ("ssrd", vkSsrd), ("sswr", vkSswr),
   ("halt", vkPlain (vkS .halt)), ("cntrd", vkPlain (vkSS .cntrd)),
   ("dlog", vkWith ["stat", "start", "stop", "ack", "cons"] fun o => vkSS fun e d a => match o with
     | 0 => .dlogStat e d a
     | 1 => .dlogStart e d a
     | 2 => .dlogStop e d a
     | 3 => .dlogAck e d a
     | _ => .dlogCons e d a),
   ("frz", vkPlain (vkSS .frz))]

/-- Every form. -/
def vkForms : List (String × VkForm) :=
  vkScalarForms ++ vkIntegerForms ++ vkFloatForms ++ vkMemoryForms ++ vkEngineForms ++ vkSystemForms

/-- The instruction that a mnemonic with its suffixes and operands writes. -/
def vkInstr (c : VkCtx) (mnemonic : List Char) (e : Bool) (ops : List VkOpnd) : Except VkError Instr :=
  match (vkParts mnemonic).map vkLower with
  | m :: xs =>
    match vkForms.find? fun f => f.1 == m with
    | some f => f.2 c xs e ops
    | none => .error .unknown
  | [] => .error .unknown

end Sys2Proof.Machine
end

