-- ==== Sys2Proof/Machine/Vkas.lean ====
section
/-! DEFINITION. The assembler vkas (R60-R66, R345, R484): from source text to one image, or the first line that it rejects and why.
It reads the source twice: the first pass places every word and every datum, the second evaluates the operands and emits. -/

namespace Sys2Proof.Machine

/-- A role that a kernel declares (R64), and the address of its entry. -/
structure VkRole where
  name  : List Char
  kind  : RoleKind
  packs : Nat
  vregs : Nat
  plim  : Nat
  entry : Option Nat := none
deriving DecidableEq, Repr

/-- A kernel (R64): its roles, its trap label, its tile-memory bytes and accumulator tiles. -/
structure VkKernel where
  name  : List Char
  roles : List VkRole := []
  trap  : Option (List Char) := none
  tiles : Nat × Nat := (0, 0)
deriving DecidableEq, Repr

/-- What a line places. -/
inductive VkItem where
  /-- a word: its kernel, its role, its mnemonic, `|` and its operands -/
  | word (kernel : List Char) (role : Option (List Char)) (m : List Char) (e : Bool) (ops : List VkOpnd)
  /-- NOP words; counted: they count toward the run in which they stand (R65) -/
  | nops (n : Nat) (counted : Bool)
  /-- a kernel begins: no run goes on into it -/
  | kernel (name : List Char)
  | zeros (n : Nat)
  /-- values of w bytes -/
  | values (w : Nat) (vs : List (List VkTok))
  | floats (vs : List (List VkTok))
  | ctable (rows : List (List (List VkTok)))
  | layout (kws : List (List VkTok))
  | launch (kernel : List Char) (kws : List (List VkTok))
deriving DecidableEq, Repr

/-- The section that a line stands in. -/
inductive VkSection where
  | outside | code | data
deriving DecidableEq, Repr

/-- A rejected line: its number from 1 (0: the bases), and why. -/
structure VkReject where
  line : Nat
  why  : VkError
deriving DecidableEq, Repr

/-- The first pass: symbols, kernels (the last one is open inside a kernel), items with line and address or data offset, and
where it stands. -/
structure VkScan where
  syms    : List (List Char × VkSym) := []
  kernels : List VkKernel := []
  items   : List (Nat × Nat × VkItem) := []
  code    : Nat
  data    : Nat := 0
  sect    : VkSection := .outside
  role    : Option (List Char) := none
  /-- labels that wait for what they name -/
  labels  : List (List Char) := []
  /-- rows of a `.ctable` still to come, its line and offset, and those read -/
  rows    : Option (Nat × Nat × Nat × List (List (List VkTok))) := none
deriving Repr

/-- The next multiple of n. -/
def vkUp (x n : Nat) : Nat := (x + n - 1) / n * n

/-- Define a symbol, once (R64). -/
def VkScan.define (s : VkScan) (x : List Char) (v : VkSym) : Except VkError VkScan :=
  if s.syms.any fun y => y.1 == x then .error .symbol else .ok { s with syms := s.syms ++ [(x, v)] }

/-- The labels that wait name what stands here (log 58). -/
def VkScan.bind (s : VkScan) : Except VkError VkScan :=
  let here := if s.sect = .code then VkSym.code s.code else VkSym.data s.data
  if s.labels.isEmpty then .ok s
  else if s.sect = .outside then .error .directive
  else s.labels.foldlM (fun (t : VkScan) x => t.define x here) { s with labels := [] }

/-- Place an item of the code. -/
def VkScan.putCode (s : VkScan) (ln n : Nat) (i : VkItem) : Except VkError VkScan := do
  let s ← s.bind
  .ok { s with items := s.items ++ [(ln, s.code, i)], code := s.code + n }

/-- Place an item of n bytes in the data. -/
def VkScan.putData (s : VkScan) (ln n : Nat) (i : VkItem) : Except VkError VkScan := do
  let s ← s.bind
  .ok { s with items := s.items ++ [(ln, s.data, i)], data := s.data + n }

/-- Pad the data to a multiple of n before a record; labels before it name the record (R66, log 58). -/
def VkScan.padRecord (s : VkScan) (ln n : Nat) : VkScan :=
  let k := vkUp s.data n - s.data
  { s with items := s.items ++ [(ln, s.data, .zeros k)], data := s.data + k }

/-- The symbols known so far; a label of the data has no address yet. -/
def VkScan.env (s : VkScan) : List Char → Except VkError Int := vkLookup s.syms none (s.syms.length + 1)

/-- A natural number that must be known in the first pass. -/
def VkScan.nat (s : VkScan) (ts : List VkTok) : Except VkError Nat := do
  let x ← vkEval s.env ts
  if 0 ≤ x then .ok x.toNat else .error .constant

/-- The open kernel changes. -/
def VkScan.onKernel (s : VkScan) (f : VkKernel → VkKernel) : VkScan :=
  match s.kernels.getLast? with
  | some k => { s with kernels := s.kernels.dropLast ++ [f k] }
  | none => s

/-- The open kernel. -/
def VkScan.kernel (s : VkScan) : Except VkError VkKernel :=
  match s.sect, s.kernels.getLast? with
  | .code, some k => .ok k
  | _, _ => .error .directive

/-- An operand that is one identifier. -/
def vkName (ts : List VkTok) : Except VkError (List Char) :=
  match ts with
  | [.name cs] => .ok cs
  | _ => .error .operands

/-- The kinds of role by name (R64). -/
def vkKind (x : String) : Except VkError RoleKind :=
  match x with
  | "general" => .ok .general
  | "copy" => .ok .copy
  | "matrix" => .ok .matrix
  | "epilogue" => .ok .epilogue
  | _ => .error .operands

/-- `.role name, kind, packs, vregs, plim` (R64). -/
def VkScan.addRole (s : VkScan) (ops : List (List VkTok)) : Except VkError VkScan := do
  let k ← s.kernel
  match ops with
  | [n, d, p, v, l] =>
    let name ← vkName n
    let kind ← vkKind (vkLower (← vkName d))
    let packs ← s.nat p
    let vregs ← s.nat v
    let plim ← s.nat l
    if packs < 1 ∨ 32 < packs ∨ vregs < 8 ∨ 64 < vregs ∨ vregs % 8 ≠ 0 ∨ plim % 4 ≠ 0 ∨ 65536 < plim then .error .constant
    else if 4 ≤ k.roles.length ∨ 32 < (k.roles.map (·.packs)).foldl (· + ·) packs then .error .directive
    else if k.roles.any fun r => r.name == name then .error .symbol
    else .ok (s.onKernel fun k => { k with roles := k.roles ++ [{ name, kind, packs, vregs, plim }] })
  | _ => .error .operands

/-- `.entry role`: the next word is its entry point (R64). -/
def VkScan.addEntry (s : VkScan) (ops : List (List VkTok)) : Except VkError VkScan := do
  let k ← s.kernel
  match ops with
  | [n] =>
    let name ← vkName n
    match k.roles.find? fun r => r.name == name with
    | none => .error .directive
    | some r =>
      if r.entry.isSome then .error .directive
      else .ok { s.onKernel (fun k => { k with roles := k.roles.map fun r =>
          if r.name == name then { r with entry := some s.code } else r }) with role := some name }
  | _ => .error .operands

/-- `.align n` (R64): zero bytes in data, NOP words in a kernel. -/
def VkScan.align (s : VkScan) (ln : Nat) (ops : List (List VkTok)) : Except VkError VkScan :=
  match ops with
  | [t] => do
    let n ← s.nat t
    if !([0, 1, 2, 3, 4, 5, 6, 7, 8, 9, 10, 11, 12].any fun k => n == 2 ^ k) then .error .directive
    else match s.sect with
      | .outside => .error .directive
      | .data => s.putData ln (vkUp s.data n - s.data) (.zeros (vkUp s.data n - s.data))
      | .code =>
        if n < 4 then .error .directive
        else s.putCode ln (vkUp s.code n - s.code) (.nops ((vkUp s.code n - s.code) / 4) true)
  | _ => .error .operands

/-- A directive that opens or closes a section, or tells of a kernel (R64). -/
def VkScan.kernelDirective (s : VkScan) (ln : Nat) (d : String) (ops : List (List VkTok)) : Except VkError VkScan :=
  match d, ops with
  | "kernel", [n] => do
    let name ← vkName n
    let s ← s.bind
    if s.sect = .code then .error .directive
    else if s.kernels.any fun k => k.name == name then .error .symbol
    else
      let k := vkUp s.code 64 - s.code
      .ok { s with
        kernels := s.kernels ++ [{ name }], sect := .code, role := none, code := s.code + k
        items := s.items ++ [(ln, s.code, .nops (k / 4) false), (ln, s.code + k, .kernel name)] }
  | "endk", [] => do
    let k ← s.kernel
    let s ← s.bind
    if k.roles.any fun r => r.entry.isNone then .error .directive else .ok { s with sect := .outside, role := none }
  | "data", [] => do
    let s ← s.bind
    if s.sect = .code then .error .directive else .ok { s with sect := .data }
  | "role", _ => s.addRole ops
  | "entry", _ => s.addEntry ops
  | "trap", [ts] => do
    let k ← s.kernel
    let label ← vkName ts
    if k.trap.isSome then .error .directive else .ok (s.onKernel fun k => { k with trap := some label })
  | "tiles", [b, a] => do
    let _ ← s.kernel
    let bytes ← s.nat b
    let acc ← s.nat a
    if 393216 < bytes ∨ 16 < acc then .error .directive else .ok (s.onKernel fun k => { k with tiles := (bytes, acc) })
  | _, _ => .error .operands

/-- A directive of the data section (R64). -/
def VkScan.dataDirective (s : VkScan) (ln : Nat) (d : String) (ops : List (List VkTok)) : Except VkError VkScan :=
  if s.sect ≠ .data then .error .directive
  else
    let values := fun w => if ops.isEmpty then .error .operands else s.putData ln (w * ops.length) (.values w ops)
    match d, ops with
    | "byte", _ => values 1
    | "half", _ => values 2
    | "word", _ => values 4
    | "dword", _ => values 8
    | "float", _ => if ops.isEmpty then .error .operands else s.putData ln (4 * ops.length) (.floats ops)
    | "ctable", [n, k] => do
      let name ← vkName n
      let c ← s.nat k
      let s ← s.bind
      let s ← s.define name (.data s.data)
      if c = 0 ∨ 64 < c then .error .directive
      else .ok { s with rows := some (c, ln, s.data, []), data := s.data + 4 + 4 * c }
    | "layout", n :: kws => do
      let name ← vkName n
      let s ← (s.padRecord ln 128).bind
      let s ← s.define name (.data s.data)
      s.putData ln 128 (.layout kws)
    | "launch", n :: kws => do
      let name ← vkName n
      (s.padRecord ln 256).putData ln 256 (.launch name kws)
    | _, _ => .error .operands

/-- A directive. -/
def VkScan.directive (s : VkScan) (ln : Nat) (d : String) (ops : List (List VkTok)) : Except VkError VkScan :=
  if ["kernel", "endk", "data", "role", "entry", "trap", "tiles"].contains d then s.kernelDirective ln d ops
  else if ["byte", "half", "word", "dword", "float", "ctable", "layout", "launch"].contains d then s.dataDirective ln d ops
  else match d, ops with
    | "align", _ => s.align ln ops
    | "equ", [n, ts] => do
      let _ ← if vkFormed ts then .ok () else .error .text
      s.define (← vkName n) (.equ ts)
    | _, _ => .error .unknown

/-- A row of a `.ctable`. -/
def VkScan.row (s : VkScan) (c ln at_ : Nat) (rows : List (List (List VkTok))) (ts : List VkTok) : VkScan :=
  let rows := rows ++ [vkSplit ts]
  if c = 1 then { s with rows := none, items := s.items ++ [(ln, at_, .ctable rows)] }
  else { s with rows := some (c - 1, ln, at_, rows) }

/-- A directive or an instruction (R60, R61). -/
def VkScan.body (s : VkScan) (ln : Nat) (ts : List VkTok) : Except VkError VkScan :=
  match ts with
  | [] => .ok s
  | .dot d :: rest => s.directive ln (vkLower d) (vkSplit rest)
  | .name m :: rest => do
    let k ← s.kernel
    let e := rest.getLast? == some (.mark '|')
    let ops := (vkSplit (if e then rest.dropLast else rest)).map vkOpnd
    s.putCode ln 4 (.word k.name s.role m e ops)
  | _ => .error .text

/-- One line of the first pass: a label, and a directive or an instruction (R60). -/
def VkScan.line (s : VkScan) (ln : Nat) (cs : List Char) : Except VkError VkScan := do
  let ts ← vkTokens cs
  match s.rows with
  | some (c, l, at_, rows) => if ts.isEmpty then .ok s else .ok (s.row c l at_ rows ts)
  | none =>
    match ts with
    | .name x :: .mark ':' :: rest => ({ s with labels := s.labels ++ [x] } : VkScan).body ln rest
    | _ => s.body ln ts

/-- The first pass. -/
def vkScan (base : Nat) (src : List Char) : Except VkReject VkScan := do
  let lines := vkLines src
  let s ← lines.zipIdx.foldlM (fun (s : VkScan) (l : List Char × Nat) =>
    match s.line (l.2 + 1) l.1 with
    | .ok t => .ok t
    | .error e => .error { line := l.2 + 1, why := e }) { code := base }
  match s.bind with
  | .error e => .error { line := lines.length, why := e }
  | .ok s => if s.sect = .code ∨ s.rows.isSome then .error { line := lines.length, why := .directive } else .ok s

/-! ## The second pass -/

/-- The words that end a run wherever they stand: those that block (R48). -/
def vkBlocks (i : Instr) : Bool :=
  match i with
  | .hold .. | .gwait .. | .tbar .. | .gbar .. | .evwait .. | .cwait .. => true
  | _ => false

/-- The roles that a word is checked against: its own, or above the first `.entry` those of its kernel (R66). -/
def VkKernel.under (k : VkKernel) (role : Option (List Char)) : List VkRole :=
  match role with
  | some n => k.roles.filter fun r => r.name == n
  | none => k.roles

/-- The largest declared count of the roles; without a role none is declared, and the largest is allowed. -/
def vkCount (rs : List VkRole) : Nat := if rs.isEmpty then 64 else (rs.map (·.vregs)).foldl max 0

/-- The word of an instruction, as long as its roles may hold and issue it (R63, R66): it decodes to that instruction (R40), its
registers exist (R44), and a role may issue it (R58). -/
def vkWord (rs : List VkRole) (i : Instr) : Except VkError Word :=
  if decode (encode i) ≠ .ok i then .error .illegal
  else if !namesOk (vkCount rs) 16 0 i then .error .register
  else if !(roleOk .general i || rs.any fun r => roleOk r.kind i) then .error .illegal
  else .ok (encode i)

/-- The bytes of a value of w bytes (R64). -/
def vkValue (env : List Char → Except VkError Int) (w : Nat) (ts : List VkTok) : Except VkError (List Byte) := do
  let x ← vkEval env ts
  if x < -(2 ^ (8 * w - 1) : Nat) ∨ ((2 ^ (8 * w) : Nat) : Int) ≤ x then .error .constant else .ok (toBytes (wrapNat x (8 * w)) w)

/-- The digits of a decimal literal: their number, how many stand after the point, and what follows. -/
def vkMantissa (acc frac : Nat) (point any : Bool) : List Char → Option (Nat × Nat × List Char)
  | [] => if any then some (acc, frac, []) else none
  | c :: cs =>
    if c.isDigit then vkMantissa (10 * acc + (c.toNat - 48)) (if point then frac + 1 else frac) point true cs
    else if c == '.' && !point then vkMantissa acc frac true any cs
    else if any then some (acc, frac, c :: cs) else none

/-- The exponent of a decimal literal. -/
def vkExponent (cs : List Char) : Option Int :=
  match cs with
  | [] => some 0
  | e :: rest =>
    if e != 'e' && e != 'E' then none
    else match rest with
      | '-' :: ds => if ds.all Char.isDigit then (vkConst ds).map fun n => -(n : Int) else none
      | '+' :: ds => if ds.all Char.isDigit then (vkConst ds).map fun n => (n : Int) else none
      | ds => if ds.all Char.isDigit then (vkConst ds).map fun n => (n : Int) else none

/-- The number of a decimal literal with its sign, exact up to a sticky rest (R64). -/
def vkDecimalNum (neg : Bool) (cs : List Char) : Option Num :=
  match vkMantissa 0 0 false false cs with
  | none => none
  | some (m, f, rest) =>
    match vkExponent rest with
    | none => none
    | some x =>
      let k := x - f
      if 0 ≤ k then some ⟨neg, m * 10 ^ k.toNat, 0, false⟩
      else
        let d := 10 ^ (-k).toNat
        let g := bitLen d
        some (divNum ⟨neg, m <<< g, -(g : Int), false⟩ ⟨false, d, 0, false⟩)

/-- The bytes of a `.float` value (R64). -/
def vkFloat (ts : List VkTok) : Except VkError (List Byte) :=
  let r := match ts with
    | [.num cs] => vkDecimalNum false cs
    | [.mark '-', .num cs] => vkDecimalNum true cs
    | [.mark '+', .num cs] => vkDecimalNum false cs
    | _ => none
  match r with
  | some x => .ok (toBytes (roundTo fp32 rmRNE false x).1 4)
  | none => .error .constant

/-- A code-table entry: base, extra, length (R269). -/
def vkRow (env : List Char → Except VkError Int) (ops : List (List VkTok)) : Except VkError Word :=
  match ops with
  | [b, x, l] => do
    let b ← vkEval env b
    let x ← vkEval env x
    let l ← vkEval env l
    if 0 ≤ b ∧ b < 65536 ∧ 0 ≤ x ∧ x < 32 ∧ 0 ≤ l ∧ l < 16 then
      .ok (BitVec.ofNat 32 (b.toNat * 2 ^ 16 + x.toNat * 2 ^ 11 + l.toNat))
    else .error .constant
  | _ => .error .operands

/-- The record of a `.ctable`: the header with the largest length, and the entries; CTLD must accept it (R64, R65). -/
def vkTable (env : List Char → Except VkError Int) (rows : List (List (List VkTok))) : Except VkError (List Byte) := do
  let ws ← rows.mapM (vkRow env)
  let most := (ws.map fun w => bitsOf w 3 0).foldl max 0
  let all := BitVec.ofNat 32 (0xC7 * 2 ^ 24 + rows.length * 2 ^ 16 + most * 2 ^ 12) :: ws
  if (ctDefect all).isSome then .error .directive else .ok ((all.map fun w => toBytes w.toNat 4).flatten)

/-- The keyword operands `name=value`, each once and each one of a list; in either case (log 58). -/
def vkKeywords (names : List String) (acc : List (String × List VkTok)) :
    List (List VkTok) → Except VkError (List (String × List VkTok))
  | [] => .ok acc
  | o :: os =>
    match o with
    | .name cs :: .mark '=' :: ts =>
      let x := vkLower cs
      if !names.contains x || acc.any fun a => a.1 == x then .error .directive else vkKeywords names (acc ++ [(x, ts)]) os
    | _ => .error .operands

/-- The value of a keyword, from 0 up to w bits; dflt when it is not written. -/
def vkField (env : List Char → Except VkError Int) (kws : List (String × List VkTok)) (x : String) (w dflt : Nat) :
    Except VkError Nat :=
  match kws.find? fun k => k.1 == x with
  | none => .ok dflt
  | some k => do
    let v ← vkEval env k.2
    if 0 ≤ v ∧ v < ((2 ^ w : Nat) : Int) then .ok v.toNat else .error .constant

/-- A register name of set k, without `!`, or its number (R484). -/
def vkSlot (env : List Char → Except VkError Int) (kws : List (String × List VkTok)) (x : String) (k : VkSet) (w : Nat) :
    Except VkError Nat :=
  match (kws.find? fun a => a.1 == x).bind fun a => ({ toks := a.2 } : VkOpnd).reg with
  | some (j, n) => if j = k then .ok n else .error .constant
  | none => vkField env kws x w 0

/-- The format of a layout: a name, with or without a point, or a code (R484). -/
def vkFormat (env : List Char → Except VkError Int) (kws : List (String × List VkTok)) : Except VkError Nat :=
  let named := match (kws.find? fun k => k.1 == "fmt").map (·.2) with
    | some [.name cs] => vkFormats.findIdx? fun f => f == vkLower cs
    | some [.dot cs] => vkFormats.findIdx? fun f => f == vkLower cs
    | _ => none
  match named with
  | some f => .ok f
  | none => vkField env kws "fmt" 4 0

/-- The logarithm of a tile side (R484). -/
def vkSide (env : List Char → Except VkError Int) (kws : List (String × List VkTok)) (x : String) : Except VkError Nat := do
  let n ← vkField env kws x 9 0
  match [3, 4, 5, 6, 7, 8].find? fun k => n == 2 ^ k with
  | some k => .ok k
  | none => .error .directive

/-- The layout record of a `.layout` at address a (R260, R484). -/
def vkLayout (env : List Char → Except VkError Int) (a : Nat) (ops : List (List VkTok)) : Except VkError (List Byte) := do
  let kws ← vkKeywords
    ["fmt", "tilerows", "tilecols", "dim0", "dim1", "dim2", "dim3", "data", "bidx", "aptr", "ddbase", "dsize", "tid", "key",
     "ct", "cb", "encr", "dd", "ao", "ddlog"] [] ops
  let f := fun x w lo dflt => (vkField env kws x w dflt).map fun v => v * 2 ^ lo
  let parts ← [f "ddlog" 5 576 0, f "ddbase" 64 512 0, f "tid" 64 448 0, f "aptr" 64 384 0, f "bidx" 64 320 0, f "dsize" 34 256 0,
    f "data" 64 192 0, f "dim3" 32 160 1, f "dim2" 32 128 1, f "dim1" 32 96 1, f "dim0" 32 64 1,
    (vkFormat env kws).map (· * 2 ^ 52), (vkSlot env kws "ct" .ct 4).map (· * 2 ^ 48), (vkSide env kws "tilerows").map (· * 2 ^ 44),
    (vkSide env kws "tilecols").map (· * 2 ^ 40), f "encr" 1 39 0, f "dd" 1 38 0, f "ao" 1 37 0,
    (vkSlot env kws "cb" .cb 2).map (· * 2 ^ 32), f "key" 16 16 0].mapM id
  let r := parts.foldl (· + ·) (0x4C * 2 ^ 56)
  if layBad a r ∨ 24 < layDDLog r then .error .directive else .ok (toBytes r 128)

/-- The extents of a grid: one, or two or three in parentheses (R345). -/
def vkGrid (env : List Char → Except VkError Int) (kws : List (String × List VkTok)) : Except VkError (List Nat) :=
  match (kws.find? fun k => k.1 == "grid").map (·.2) with
  | none => .ok [1, 1, 1]
  | some ts =>
    let inner := vkCommas 0 (ts.drop 1).dropLast
    let es := if ts.head? == some (.mark '(') && ts.getLast? == some (.mark ')') && decide (2 ≤ inner.length) then inner else [ts]
    if 3 < es.length then .error .operands
    else do
      let xs ← es.mapM (vkEval env)
      if xs.all fun x => decide (1 ≤ x) && decide (x ≤ 65535) then .ok ((xs.map Int.toNat ++ [1, 1]).take 3) else .error .constant

/-- The span of a role in a launch record (R343). -/
def vkSpan (r : VkRole) : Nat :=
  let kind := match r.kind with
    | .general => 0
    | .copy => 1
    | .matrix => 2
    | .epilogue => 3
  kind * 2 ^ 126 + (r.packs - 1) * 2 ^ 121 + (r.vregs / 8 - 1) * 2 ^ 118 + r.plim * 2 ^ 64 + r.entry.getD 0

/-- The launch record of a `.launch` (R66, R343, R345). -/
def vkLaunch (env : List Char → Except VkError Int) (kernels : List VkKernel) (name : List Char) (ops : List (List VkTok)) :
    Except VkError (List Byte) := do
  let kws ← vkKeywords ["grid", "gang", "acc", "parea", "ctpre", "cevt", "wait", "wval"] [] ops
  match kernels.find? fun k => k.name == name with
  | none => .error .symbol
  | some k => do
    let grid ← vkGrid env kws
    let gang ← vkField env kws "gang" 4 0
    let acc ← vkField env kws "acc" 5 k.tiles.2
    let parea ← vkField env kws "parea" 64 0
    let ctpre ← vkField env kws "ctpre" 64 0
    let cevt ← vkField env kws "cevt" 64 0
    let wait ← vkField env kws "wait" 64 0
    let wval ← vkField env kws "wval" 64 0
    let trap ← match k.trap with
      | none => .ok 0
      | some x => env x
    if k.roles.isEmpty ∨ (k.roles.any fun r => r.entry.getD 0 == 0) ∨ 12 < gang ∨ acc < k.tiles.2 ∨ 16 < acc ∨ parea % 256 ≠ 0 ∨ ctpre % 4 ≠ 0 ∨ cevt % 8 ≠ 0 ∨ wait % 8 ≠ 0
        ∨ trap < 0 ∨ ((2 ^ 64 : Nat) : Int) ≤ trap ∨ trap % 4 ≠ 0 then .error .constant
    else
      let spans := k.roles.zipIdx.foldl (fun n r => n + vkSpan r.1 * 2 ^ (512 + 128 * r.2)) 0
      let extents := grid.zipIdx.foldl (fun n g => n + g.1 * 2 ^ (64 + 16 * g.2)) 0
      .ok (toBytes
        (spans + wval * 2 ^ 448 + wait * 2 ^ 384 + cevt * 2 ^ 320 + parea * 2 ^ 256 + ctpre * 2 ^ 192 + trap.toNat * 2 ^ 128
          + extents + 0x4E * 2 ^ 56 + (k.roles.length - 1) * 2 ^ 54 + gang * 2 ^ 48 + acc * 2 ^ 43 + k.tiles.1 * 2 ^ 24) 256)

/-- The second pass: the bytes so far of code and data, and the words of the run so far. -/
structure VkOut where
  code : List Byte := []
  data : List Byte := []
  run  : Nat := 0
deriving DecidableEq, Repr

/-- n words more that do not end the run, and then whether the last one does: at most 24 stand in a run (R63). -/
def VkOut.count (o : VkOut) (n : Nat) (ends : Bool) : Except VkError VkOut :=
  if 24 < o.run + n then .error .runLength else .ok { o with run := if ends then 0 else o.run + n }

/-- The labels of a scan with their addresses. -/
def vkLabels (base : Nat) (syms : List (List Char × VkSym)) : List (List Char × Nat) :=
  syms.filterMap fun s => match s.2 with
    | .code a => some (s.1, a)
    | .data o => some (s.1, base + o)
    | .equ _ => none

/-- Emit an item; env: the symbols, labels: those that are labels. -/
def vkEmit (env : List Char → Except VkError Int) (labels : List (List Char × Nat)) (kernels : List VkKernel) (base at_ : Nat) (i : VkItem) (o : VkOut) :
    Except VkError VkOut :=
  let put := fun (bs : List Byte) => { o with data := o.data ++ bs }
  match i with
  | .kernel name => do
    let _ ← match (kernels.find? fun k => k.name == name).bind (·.trap) with
      | some x => if labels.any fun l => l.1 == x then env x else .error .symbol
      | none => .ok 0
    .ok { o with run := 0 }
  | .nops n counted => do
    let bs := (List.replicate n (toBytes (encode (.nop false)).toNat 4)).flatten
    let o ← if counted then o.count n false else .ok o
    .ok { o with code := o.code ++ bs }
  | .word kernel role m e ops =>
    match kernels.find? fun k => k.name == kernel with
    | none => .error .symbol
    | some k => do
      let j ← vkInstr { env := env, label := fun x => labels.any fun l => l.1 == x, addr := at_ } m e ops
      let w ← vkWord (k.under role) j
      let o ← o.count 1 (e || vkBlocks j)
      .ok { o with code := o.code ++ toBytes w.toNat 4 }
  | .zeros n => .ok (put (List.replicate n 0))
  | .values w vs => (vs.mapM (vkValue env w)).map fun bs => put bs.flatten
  | .floats vs => (vs.mapM vkFloat).map fun bs => put bs.flatten
  | .ctable rows => (vkTable env rows).map put
  | .layout kws => (vkLayout env (base + at_) kws).map put
  | .launch k kws => (vkLaunch env kernels k kws).map put

/-- An image: code and data with their bases, and the addresses of the labels (R66). -/
structure VkImage where
  codeBase : Nat
  dataBase : Nat
  code     : List Byte
  data     : List Byte
  labels   : List (List Char × Nat)
deriving DecidableEq, Repr

/-- The image of a source with the code at cb and the data at db, or after the code (R66); a given db may let them overlap (log 58). -/
def vkas (src : List Char) (cb : Nat) (db : Option Nat) : Except VkReject VkImage := do
  if cb % 4096 ≠ 0 ∨ db.getD 0 % 4096 ≠ 0 then .error { line := 0, why := .constant }
  else
    let s ← vkScan cb src
    let base := db.getD (vkUp s.code 4096)
    let env := vkLookup s.syms (some base) (s.syms.length + 1)
    let o ← s.items.foldlM (fun (o : VkOut) (i : Nat × Nat × VkItem) =>
      match vkEmit env (vkLabels base s.syms) s.kernels base i.2.1 i.2.2 o with
      | .ok p => .ok p
      | .error e => .error { line := i.1, why := e }) {}
    .ok { codeBase := cb, dataBase := base, code := o.code, data := o.data, labels := vkLabels base s.syms }

end Sys2Proof.Machine
end

