-- ==== Sys2Proof/Laws/Vkas.lean ====
section
/-! SUPPORT. What the assembler promises of what it emits (R63, R64, R66). -/

namespace Sys2Proof.Machine

/-- A word that vkas emits decodes to the instruction written, and its registers exist. -/
theorem vkWord_ok {rs : List VkRole} {i : Instr} {w : Word} (h : vkWord rs i = .ok w) :
    w = encode i ∧ decode w = .ok i ∧ namesOk (vkCount rs) 16 0 i = true := by
  unfold vkWord at h
  split at h
  · cases h
  · split at h
    · cases h
    · split at h
      · cases h
      · cases h
        simp_all

/-- A run never grows beyond 24 words (R63). -/
theorem VkOut.count_run {o p : VkOut} {n : Nat} {e : Bool} (h : o.count n e = .ok p) : p.run ≤ 24 := by
  unfold VkOut.count at h
  split at h
  · cases h
  · cases h
    cases e <;> simp <;> omega

/-- Counting a run emits nothing. -/
theorem VkOut.count_bytes {o p : VkOut} {n : Nat} {e : Bool} (h : o.count n e = .ok p) : p.code = o.code ∧ p.data = o.data := by
  unfold VkOut.count at h
  split at h <;> cases h
  exact ⟨rfl, rfl⟩

/-- A symbol is defined once (R64). -/
theorem VkScan.define_new {s t : VkScan} {x : List Char} {v : VkSym} (h : s.define x v = .ok t) :
    (s.syms.any fun y => y.1 == x) = false ∧ t.syms = s.syms ++ [(x, v)] := by
  unfold VkScan.define at h
  split at h
  · cases h
  · rename_i hn
    cases h
    exact ⟨Bool.eq_false_iff.mpr hn, rfl⟩

/-- An accepted code table is one that CTLD accepts (R65). -/
theorem vkTable_accepted {env : List Char → Except VkError Int} {rows : List (List (List VkTok))} {bs : List Byte}
    (h : vkTable env rows = .ok bs) : ∃ ws, ctDefect ws = none ∧ bs = (ws.map fun w => toBytes w.toNat 4).flatten := by
  unfold vkTable at h
  simp only [bind, Except.bind] at h
  split at h
  · cases h
  · split at h
    · cases h
    · cases h
      rename_i hn
      exact ⟨_, Option.not_isSome_iff_eq_none.mp hn, rfl⟩

end Sys2Proof.Machine
end

