-- ==== Sys2Proof/Tests/Slice0.lean ====
section
/-! SUPPORT. Small tests: words written out from the encodings of the spec, ill-formed terms that WellFormed refuses, single steps
whose results are worked out from the spec by hand, and states that meet the hypotheses of the statements. -/

namespace Sys2Proof.Tests

open Sys2Proof.Machine Sys2Proof.Safety

/-! ## Helpers -/

/-- A pack of the first team, running, with the scalar registers given. -/
def pkS (regs : Tab DWord) : Pack := { firstPack with sregs := regs }
/-- The machine with that pack alone. -/
def st (p : Pack) : State := { State.reset with pk := p, tm := firstTeam, boot := .running }
/-- The machine whose pack holds the scalar registers given. -/
def stS (regs : Tab DWord) : State := st (pkS regs)
/-- The machine with every register zero. -/
def st0 : State := stS []
/-- The state after an instruction. -/
def after (i : Instr) (s : State) : State :=
  match exec i s with
  | .next t => t
  | _ => State.reset
/-- Every lane of a register. -/
def fill (x : Word) : Lanes := ofLanes fun _ => x

def issuesB (i : Instr) (s : State) : Bool := (checkWord s.tm s.pk i).isNone && !mustStall s.pk i

theorem issues_of {i : Instr} {s : State} (h : issuesB i s = true) : Issues i s := by
  simp only [issuesB, Bool.and_eq_true, Option.isNone_iff_eq_none, Bool.not_eq_true'] at h
  exact h

/-- Every one of the words issues. -/
def Issuing (s : State) (l : List Instr) : Prop := ∀ i ∈ l, Issues i s

theorem issuing_of {s : State} {l : List Instr} (h : (l.all fun i => issuesB i s) = true) : Issuing s l :=
  fun i hi => issues_of (List.all_eq_true.mp h i hi)

/-! ## Decoding: a word of every encoding, its fields filled in at their places -/

/-- Each word decodes to its instruction. -/
def Decodes (l : List (Word × Instr)) : Prop := ∀ q ∈ l, decode q.1 = .ok q.2

theorem decodes_of {l : List (Word × Instr)} (h : (l.all fun q => decide (decode q.1 = .ok q.2)) = true) : Decodes l :=
  fun q hq => of_decide_eq_true (List.all_eq_true.mp h q hq)

theorem test_decode_00 : Decodes [
    (0x807A0A81, .sadd true 15 16 21), (0x00251402, .ssub false 4 40 40),
    (0x006D0B03, .smul false 13 40 22), (0x812B9C04, .smulh true 37 28 56),
    (0x804A5685, .sand true 9 18 45), (0x81AA8786, .sor true 53 20 15),
    (0x012DFE07, .sxor false 37 47 60), (0x00ADE688, .sandn false 21 47 13),
    (0x80041089, .sshl true 0 32 33), (0x8119A90A, .sshr true 35 13 18),
    (0x81C87E8B, .ssar true 57 3 61), (0x0001DF0C, .smin false 0 14 62),
    (0x8197388D, .smax true 50 57 49), (0x0062400E, .sclz false 12 18),
    (0x81B9400F, .spopc true 55 10), (0x80DDB390, .ssel true 27 45 39)] := decodes_of (by decide)
theorem test_decode_00_2 : Decodes [
    (0x805AA011, .smov true 11 21), (0x80FBAE9A, .scmp true 31 29 29 2)] := decodes_of (by decide)
theorem test_decode_01 : Decodes [
    (0x0365E056, .saddImm false 44 47 86), (0x02AF048B, .smulImm false 21 56 139),
    (0x83A4898B, .sandImm true 52 36 395), (0x832BCC53, .sorImm true 37 30 83),
    (0x821A719F, .sxorImm true 3 19 415), (0x035DF42A, .sshlImm false 43 47 42),
    (0x03CBD831, .sshrImm false 57 30 49), (0x02497C30, .ssarImm false 9 11 48)] := decodes_of (by decide)
theorem test_decode_02 : Decodes [
    (0x05B702A3, .sli false 54 459427)] := decodes_of (by decide)
theorem test_decode_03 : Decodes [
    (0x86526C12, .shi true 10 1 27666)] := decodes_of (by decide)
theorem test_decode_04 : Decodes [
    (0x080B4000, .mskp false 1 26), (0x08A30001, .mskn false 20 24),
    (0x88048002, .msks true 36), (0x08E00003, .mskg false 28),
    (0x89008004, .mskpop true 32 4), (0x89584005, .mskff true 43 2),
    (0x88D80006, .modeg true 27), (0x8802C007, .modes true 22),
    (0x09716008, .srd false 46 11), (0x08000009, .nop false),
    (0x8800000A, .yield true), (0x8800000B, .exit),
    (0x8803A00C, .ret 29), (0x8806000D, .jmp 48)] := decodes_of (by decide)
theorem test_decode_05 : Decodes [
    (0x0A138800, .mode false 0 4 1 1 17 0)] := decodes_of (by decide)
theorem test_decode_06 : Decodes [
    (0x0D46C3BB, .hold false 20 13 16 29 27)] := decodes_of (by decide)
theorem test_decode_07 : Decodes [
    (0x8E01E131, .bra 123185), (0x8E515C6A, .call 1137770),
    (0x8E931137, .bemz 1249591), (0x8EEC129C, .bemf 2888348)] := decodes_of (by decide)
theorem test_decode_08 : Decodes [
    (0x90C818DD, .bz 25 6365), (0x90DE2B04, .bnz 27 142084)] := decodes_of (by decide)
theorem test_decode_09 : Decodes [
    (0x13ACBFE0, .vadd false 53 37 63 true true), (0x93C7C101, .vaddc true 56 62 2 false false),
    (0x928FABE2, .vsub true 17 61 23 true true), (0x12AEDBA3, .vsubb false 21 54 55 false true),
    (0x133B2444, .vmul false 39 25 8 true false), (0x92B27F65, .vmulh true 22 19 62 true true),
    (0x13ED9B46, .vmad false 61 44 54 true false), (0x130D4E67, .vmin false 33 42 28 true true),
    (0x12AD82C8, .vmax false 21 44 5 true false), (0x12C1E049, .vabs false 24 15 true),
    (0x932A400A, .vneg true 37 18 false), (0x92CADBEB, .vand true 25 22 55 true true),
    (0x936312AC, .vor true 44 24 37 false true), (0x12AEEBCD, .vxor false 21 55 23 true false),
    (0x9332400E, .vnot true 38 18 false), (0x92B70F4F, .vandn true 22 56 30 true false)] := decodes_of (by decide)
theorem test_decode_09_2 : Decodes [
    (0x938AE3F0, .vshl true 49 23 7 true true), (0x930DEC31, .vshr true 33 47 24 false true),
    (0x121F69F2, .vsar false 3 59 19 true true), (0x121AB333, .vrot false 3 21 38 false true),
    (0x93B20054, .vclz true 54 16 true), (0x12A58055, .vffs false 20 44 true),
    (0x13698016, .vpopc false 45 12 false), (0x936D8017, .vbrev true 45 44 false),
    (0x1200ED98, .vsel false 0 7 27 false false), (0x13C42019, .vmov false 56 33 false)] := decodes_of (by decide)
theorem test_decode_0A : Decodes [
    (0x14F78121, .vaddImm false 30 60 289), (0x94CDA736, .vmulImm true 25 45 822),
    (0x95A20AFB, .vandImm true 52 16 763), (0x95E80C9A, .vorImm true 61 0 154),
    (0x95F35300, .vxorImm true 62 26 768), (0x14275418, .vshlImm false 4 58 24),
    (0x14D79810, .vshrImm false 26 60 16), (0x946F7C12, .vsarImm true 13 59 18)] := decodes_of (by decide)
theorem test_decode_0B : Decodes [
    (0x974B6E54, .vli true 41 224852)] := decodes_of (by decide)
theorem test_decode_0C : Decodes [
    (0x99100000, .vlane true 34), (0x191CE901, .vshf false 35 39 18 false false),
    (0x98554902, .vstep true 10 42 18 false), (0x190D4143, .vbcast false 33 42 2 true),
    (0x99443C44, .vget true 40 33 56 true), (0x19F4E9C5, .vbfx false 62 39 19 true false),
    (0x192B92C6, .vbfi false 37 28 37 true false)] := decodes_of (by decide)
theorem test_decode_0D : Decodes [
    (0x9A3B69A1, .vcmp true 7 27 19 false true 1), (0x9AA0658B, .plog true 20 3 11 3)] := decodes_of (by decide)
theorem test_decode_10 : Decodes [
    (0x21AE9320, .fadd false 53 52 38 false true), (0xA1488E81, .fsub true 41 4 29 false false),
    (0xA158E802, .fmul true 43 7 16 false false), (0x206BEBA3, .fmin false 13 31 23 false true),
    (0x20750AA4, .fmax false 14 40 21 false true), (0x21C34045, .fabs false 56 26 true),
    (0xA0028006, .fneg true 0 20 false), (0x21C20047, .fclass false 56 16 true),
    (0xA16D2048, .frint true 45 41 true), (0x21679509, .fdiv false 44 60 42 false false),
    (0xA0C7B957, .fcmp true 24 61 50 true false 7)] := decodes_of (by decide)
theorem test_decode_11 : Decodes [
    (0x23456000, .frcp false 40 43 false), (0xA3D52001, .frsq true 58 41 false),
    (0xA2934042, .fsqrt true 18 26 true), (0x225D2003, .fexp2 false 11 41 false),
    (0xA2188044, .flog2 true 3 4 true), (0xA2A28045, .fsin true 20 20 true),
    (0x22D90006, .fcos false 27 8 false), (0xA3996007, .ftanh true 51 11 false)] := decodes_of (by decide)
theorem test_decode_12 : Decodes [
    (0x25D11CC0, .ffma false 58 8 57 true false 0)] := decodes_of (by decide)
theorem test_decode_13 : Decodes [
    (0xA6101100, .fflags true 2 0 34)] := decodes_of (by decide)
theorem test_decode_18 : Decodes [
    (0x313EE240, .cvt false 39 55 4 true), (0x306F0089, .unpk false 13 56 1 false 1)] := decodes_of (by decide)
theorem test_decode_19 : Decodes [
    (0xB34620C6, .pack2Bf16 true 40 49 1 true false), (0xB2BA3E47, .pack2F16 true 23 17 60 true false),
    (0x33F08A09, .pack4E4m3 false 62 2 10 false false), (0x32F6DD2A, .pack4E5m2 false 30 27 29 false true),
    (0x33978630, .pack4hLo false 50 30 6 false true), (0x32A65311, .pack4hHi false 20 25 19 false false)] := decodes_of (by decide)
theorem test_decode_1A : Decodes [
    (0xB4B900C0, .bscale true 23 8 1 true), (0xB555A041, .qcb true 42 45 0 true),
    (0xB5D001E2, .xset true 58 0 3 true true)] := decodes_of (by decide)
theorem test_decode_1B : Decodes [
    (0xB612C040, .cbld true 2 22 true)] := decodes_of (by decide)
theorem test_decode_1C : Decodes [
    (0xB88B1860, .qlat true 17 3 48 true true), (0xB8C69701, .dlat true 3 52 46 false false),
    (0xB805F782, .lput true 0 47 47 false false)] := decodes_of (by decide)
theorem test_decode_1D : Decodes [
    (0x3A7D0C60, .lscale false 15 5 24 true true), (0xBAA9F4E1, .lshell true 21 15 41 true true),
    (0xBAD87002, .lget true 27 3 32 false false), (0xBB2089A3, .lpack true 36 4 19 false true),
    (0xBA9540C4, .lchk true 18 42 1 true)] := decodes_of (by decide)
theorem test_decode_1E : Decodes [
    (0xBC202AC0, .tld true 4 1 21 true), (0xBD6F94C1, .tst true 45 60 41 true),
    (0x3C42F202, .tlds false 8 23 36)] := decodes_of (by decide)
theorem test_decode_1F : Decodes [
    (0xBE20F880, .talloc true 4 7 49), (0x3FF28001, .tfree false 62 20),
    (0xBF880002, .tinfo true 49 0), (0xBFC68003, .tfill true 56 52),
    (0xBFC14004, .twptr true 56 10)] := decodes_of (by decide)
theorem test_decode_22 : Decodes [
    (0x4470E502, .ld false 14 7 10 false 2), (0xC53647C8, .st true 38 50 15 true 0)] := decodes_of (by decide)
theorem test_decode_23 : Decodes [
    (0xC78EAE04, .ldp true 49 53 28 false 4), (0xC681B98A, .stp true 16 13 51 false 2)] := decodes_of (by decide)
theorem test_decode_24 : Decodes [
    (0x495A6185, .lds false 43 19 3 5), (0x48734D8A, .sts false 14 26 27 2),
    (0xC80BE050, .pref true 1 31 0 true), (0x48000011, .pflush false)] := decodes_of (by decide)
theorem test_decode_26 : Decodes [
    (0xCC9B350B, .atom true 19 25 42 false 11), (0xCC2E39F6, .atomf true 5 49 51 true 54)] := decodes_of (by decide)
theorem test_decode_27 : Decodes [
    (0x4F871142, .cas false 24 56 34 true 2), (0xCFA7248B, .cas64 true 13 57 9 false 3)] := decodes_of (by decide)
theorem test_decode_28 : Decodes [
    (0x516BD38B, .ldaq false 45 30 39 false 1 3), (0x5058DC9C, .strl false 11 6 57 false 1 4)] := decodes_of (by decide)
theorem test_decode_29 : Decodes [
    (0xD2000002, .fence true 2), (0x539D4E6E, .atoms false 51 42 28 true 46)] := decodes_of (by decide)
theorem test_decode_2A : Decodes [
    (0x543F0900, .ctld false 7 56 18), (0xD4380001, .ctinv true 7),
    (0x55594582, .bixq false 43 10 11), (0xD4225E03, .kvapp true 4 18 30)] := decodes_of (by decide)
theorem test_decode_2B : Decodes [
    (0xD7592B00, .dech true 43 9 11), (0x57413F01, .dec false 10 9 31),
    (0x57A5E542, .enc false 13 47 5 true), (0x56B17A03, .encf false 22 11 26)] := decodes_of (by decide)
theorem test_decode_2C : Decodes [
    (0xD8E36000, .lift true 28 27), (0xD86B6001, .lqry true 13 27),
    (0x59FF8002, .lcan false 63 60)] := decodes_of (by decide)
theorem test_decode_2D : Decodes [
    (0x5B64A600, .ginit false 44 37 12), (0x5A266401, .gexp false 4 51 8),
    (0xDBBCBE82, .garr true 55 37 61), (0xDB8EFB83, .gwait true 49 55 55),
    (0xDAF48084, .gtry true 30 36 1)] := decodes_of (by decide)
theorem test_decode_30 : Decodes [
    (0x61305542, .mma false 9 1 1 21 1 2)] := decodes_of (by decide)
theorem test_decode_31 : Decodes [
    (0xE2998A00, .mwld true 19 12 10), (0xE2000001, .mswap true)] := decodes_of (by decide)
theorem test_decode_32 : Decodes [
    (0xE5801C00, .mzero true 12 14), (0xE55D3401, .mrd true 10 58 26),
    (0xE599B402, .mwr true 12 51 26), (0x64000003, .mrel false),
    (0xE5242604, .ppt true 37395)] := decodes_of (by decide)
theorem test_decode_34 : Decodes [
    (0x68834000, .launch false 16 26), (0x6802A001, .tbar false 21),
    (0xE807C002, .gbar true 62), (0x6841DF83, .evsig false 8 14 63),
    (0x6805CA04, .evwait false 46 20)] := decodes_of (by decide)
theorem test_decode_38 : Decodes [
    (0x7038A000, .coll false 7 5), (0xF05F8001, .cwait true 11 60),
    (0xF151C002, .grpf true 42 14), (0xF18A6003, .fstat true 49 19)] := decodes_of (by decide)
theorem test_decode_3C : Decodes [
    (0x78040000, .trap false 32), (0xF807E001, .rte 63),
    (0x78C0D602, .ssrd false 24 6 44), (0x7800AF03, .sswr false 5 30),
    (0x78020004, .bkpt false 16), (0x7806C005, .halt false 54),
    (0xF91B2006, .cntrd true 35 25)] := decodes_of (by decide)
theorem test_decode_3D : Decodes [
    (0x7A5BE000, .dlogStat false 11 31), (0x7B8A0080, .dlogStart false 49 16),
    (0x7A0DA100, .dlogStop false 1 45), (0x7A104180, .dlogAck false 2 2),
    (0xFBC00200, .dlogCons true 56 0), (0x7BE28001, .frz false 60 20)] := decodes_of (by decide)

/-- Words that no encoding assigns, with the reason of each (R40, R59). -/
theorem test_decode_illegal :
    decode 0x00000000 = .illegal 2 ∧ decode 0xFFFFFFFF = .illegal 3 ∧ decode 0x0E800005 = .illegal 5 ∧
      decode (0x0B031C00 ||| 0x001C0000) = .illegal 4 ∧ decode 0x00000001 = .ok (.sadd false 0 0 0) := by decide

/-! ## Ill-formed terms, one for each check of WellFormed -/

theorem test_illformed_words : ([.srd false 0 16, .mode false 12 0 0 0 0 0, .mode false 0 5 0 0 0 0, .vcmp false 0 0 0 false false 6,
    .plog false 0 0 1 4, .plog false 0 1 0 6, .cvt false 0 0 12 false, .unpk false 0 0 6 false 2, .unpk false 0 0 0 false 0,
    .bscale false 0 0 4 false, .lchk false 0 0 3 false, .ld false 0 0 0 false 6, .ldp false 0 0 0 false 6, .lds false 0 0 0 6,
    .atom false 0 0 0 false 40, .atomf false 0 0 0 false 39, .atomf false 0 0 0 false 55, .cas false 0 0 0 false 5,
    .cas64 false 0 0 0 false 5, .ldaq false 0 0 0 false 0 5, .strl false 0 0 0 false 0 5, .fence false 5, .atoms false 0 0 0 false 7,
    .atoms false 0 0 0 false 48, .ctld false 15 0 0, .ctinv false 15, .mma false 0 0 0 63 0 4, .mma false 0 0 0 0 0 5,
    .ssrd false 0 8 0, .sswr false 8 0] : List Instr).all (fun i => !wellFormed i) = true := by decide

theorem test_illformed_events :
    let t : TeamId := { grid := 0, team := 0 }
    ([.sliceExpire 64, .completionRecordResend 256, .tailDoorbell 64 0, .queueEnable 64, .queueDisable 64, .queuePollTimer 64,
      .launchRecordRead 64, .waitConditionRead 64, .liftCommandStart t 8, .liftCopy t 8, .liftDecodeCopy t 8, .liftEncodeStore t 8,
      .liftAccumulatorLoad t 8, .liftCommandComplete t 8, .liftError t 8 { code := 0, rsn := 0, addr := 0, coord := 0, bit := 0 },
      .liftSourcePark t 8 0, .multicastHeldDelivery t 8 0, .multicastHeldDelivery t 0 12, .flitCrcRetry 24, .linkLaneFail 24,
      .linkDown 24, .vlPause 24 0 true, .vlPause 0 4 true, .collBarrier 1 64 0, .collBroadcast 1 64 0 [], .collAllreduce 1 64 0 [],
      .collReduceScatter 1 64 0 [], .collAllgather 1 64 0 [], .agreementReport 1 64 0 0 { unit := 0, rsn := 0 }, .agreementReport 1 0 0 0 { unit := 2, rsn := 0 }, .collDeadline 1 64 0,
      .agreementFallback 1 64 0 0 none, .collStatusWrite 1 64 0, .thermalThrottle 72, .thermalRelease 72, .mgmtWriteCap 799,
      .mgmtWriteRowThreshold 255, .mgmtWriteRowThreshold 65536, .completionRecordNak { conn := 256, back := 0 },
      .connectionFailure 256] : List Instr).all (fun i => !wellFormed i) = true := by decide

section

set_option Elab.async false

/-! ## Single steps. Expected values are worked out from the rules named. -/

/-- A scalar register after a word. -/
def sAfter (i : Instr) (regs : Tab DWord) (d : Nat) : DWord := (after i (stS regs)).pk.s d
/-- A lane of a register after a word, under a mode, from registers that hold the same word in every lane. -/
def vAfter (i : Instr) (mode : BitVec 15) (regs : Tab Word) (d l : Nat) : Word :=
  let p : Pack := { pkS [(1, 3)] with mode := mode, vregs := regs.map fun q => (q.1, fill q.2), live := allOnes }
  lane ((after i (st p)).pk.v d) l
/-- The sticky flags after it. -/
def fAfter (i : Instr) (mode : BitVec 15) (regs : Tab Word) : BitVec 8 :=
  let p : Pack := { pkS [(1, 3)] with mode := mode, vregs := regs.map fun q => (q.1, fill q.2), live := allOnes }
  (after i (st p)).pk.fflags
/-- The mode word of an element type (R46). -/
def tyMode (t : Nat) : BitVec 15 := BitVec.ofNat 15 (t * 2 ^ 11)

theorem test_sadd_wraps : sAfter (.sadd false 1 2 3) [(2, 0xFFFFFFFFFFFFFFFF), (3, 2)] 1 = 1 := by decide +kernel
theorem test_sadd_same_register : sAfter (.sadd false 2 2 2) [(2, 7)] 2 = 14 := by decide +kernel
theorem test_ssub_wraps : sAfter (.ssub false 1 2 3) [(3, 1)] 1 = 0xFFFFFFFFFFFFFFFF := by decide +kernel
theorem test_smulh_signed : sAfter (.smulh false 1 2 3) [(2, 0xFFFFFFFFFFFFFFFE), (3, 3)] 1 = 0xFFFFFFFFFFFFFFFF := by decide +kernel
theorem test_sandn : sAfter (.sandn false 1 2 3) [(2, 0xFF), (3, 0x0F)] 1 = 0xF0 := by decide +kernel
theorem test_sshl_past_width : sAfter (.sshl false 1 2 3) [(2, 1), (3, 64)] 1 = 0 := by decide +kernel
theorem test_ssar_past_width : sAfter (.ssar false 1 2 3) [(2, 0x8000000000000000), (3, 100)] 1 = 0xFFFFFFFFFFFFFFFF := by decide +kernel
theorem test_sclz_zero : sAfter (.sclz false 1 2) [] 1 = 64 := by decide +kernel
theorem test_spopc : sAfter (.spopc false 1 2) [(2, 0xFFFF0000FFFF0001)] 1 = 33 := by decide +kernel
theorem test_smin_signed : sAfter (.smin false 1 2 3) [(2, 0xFFFFFFFFFFFFFFFF), (3, 1)] 1 = 0xFFFFFFFFFFFFFFFF := by decide +kernel
theorem test_ssel_zero_takes_b : sAfter (.ssel false 1 2 3) [(2, 5), (3, 6)] 1 = 6 := by decide +kernel
theorem test_scmp_lt_signed : sAfter (.scmp false 1 2 3 2) [(2, 0xFFFFFFFFFFFFFFFF), (3, 1)] 1 = 1 := by decide +kernel
theorem test_scmp_ltn_unsigned : sAfter (.scmp false 1 2 3 6) [(2, 0xFFFFFFFFFFFFFFFF), (3, 1)] 1 = 0 := by decide +kernel
theorem test_saddImm_sign : sAfter (.saddImm false 1 2 0x3FF) [(2, 5)] 1 = 4 := by decide +kernel
theorem test_sli_sign : sAfter (.sli false 1 0x40000) [] 1 = 0xFFFFFFFFFFFC0000 := by decide +kernel
theorem test_shi_quarter : sAfter (.shi false 1 2 0xABCD) [(1, 0x1111222233334444)] 1 = 0x1111ABCD33334444 := by decide +kernel
theorem test_mskff_none : sAfter (.mskff false 1 2) [] 1 = 64 := by decide +kernel
theorem test_mskp_returns_old_em : sAfter (.mskp false 1 2) [] 1 = 0xFFFFFFFFFFFFFFFF := by decide +kernel
theorem test_mskp_clears_em : (after (.mskp false 1 2) st0).pk.em = 0 := by decide +kernel
theorem test_mskpop : sAfter (.mskpop false 1 2) [] 1 = 0 := by decide +kernel
theorem test_srd_cbuild : sAfter (.srd false 1 0) [] 1 = 64 := by decide +kernel
theorem test_modes_reserved_type_traps : ((after (.modes false 2) (stS [(2, 0x6000)])).pk.frec.cause, (after (.modes false 2) (stS [(2, 0x6000)])).pk.mode) = (1, 0) := by decide +kernel
theorem test_call_links : (let t := after (.call (-2)) st0; (t.pk.pc, t.pk.s 63)) = (0x1FF8, 0x2004) := by decide +kernel
theorem test_bemz_taken : (after (.bemz 3) (st { pkS [] with em := 0 })).pk.pc = 0x200C := by decide +kernel
theorem test_bnz_not_taken : (after (.bnz 5 3) st0).pk.pc = 0x2004 := by decide +kernel
theorem test_ret : (after (.ret 63) (stS [(63, 0x4000)])).pk.pc = 0x4000 := by decide +kernel
theorem test_jmp_misaligned_traps : (after (.jmp 5) (stS [(5, 0x4002)])).pk.frec.reason = 5 := by decide +kernel
theorem test_hold_met : (after (.hold false 0 0 0 0 0) st0).pk.pc = 0x2004 := by decide +kernel
theorem test_exit : (after .exit st0).pk.status = .exiting := by decide +kernel
theorem test_yield_makes_youngest : (after (.yield false) { st0 with gtc := 9 }).pk.since = 9 := by decide +kernel
theorem test_vadd_s32_wraps : vAfter (.vadd false 5 2 3 false false) (tyMode 0) [(2, 0x7FFFFFFF), (3, 1)] 5 17 = 0x80000000 := by decide +kernel
theorem test_vadd_s8x4_elements : vAfter (.vadd false 5 2 3 false false) (tyMode 4) [(2, 0x7F01FF80), (3, 0x01010101)] 5 63 = 0x80020081 := by decide +kernel
theorem test_vadd_s8x4_saturates : vAfter (.vadd false 5 2 3 false false) (tyMode 4 + 1) [(2, 0x7F01FF80), (3, 0x01010101)] 5 0 = 0x7F020081 := by decide +kernel
theorem test_vadd_saturation_flag : fAfter (.vadd false 5 2 3 false false) (tyMode 4 + 1) [(2, 0x7F01FF80), (3, 0x01010101)] = 0x40 := by decide +kernel
theorem test_vsub_n16x2_saturates : vAfter (.vsub false 5 2 3 false false) (tyMode 3 + 1) [(2, 0x00010005), (3, 0x00020003)] 5 1 = 0x00000002 := by decide +kernel
theorem test_vmul_s64_pair : vAfter (.vmul false 6 2 4 false false) (tyMode 6) [(2, 2), (3, 0), (4, 0xFFFFFFFF), (5, 0xFFFFFFFF)] 7 9 = 0xFFFFFFFF := by decide +kernel
theorem test_vmulh_s32 : vAfter (.vmulh false 5 2 3 false false) (tyMode 0) [(2, 0xFFFFFFFF), (3, 1)] 5 0 = 0xFFFFFFFF := by decide +kernel
theorem test_vmulh_n32 : vAfter (.vmulh false 5 2 3 false false) (tyMode 1) [(2, 0xFFFFFFFF), (3, 2)] 5 0 = 1 := by decide +kernel
theorem test_vaddc : vAfter (.vaddc false 5 2 3 false false) (tyMode 1) [(2, 0xFFFFFFFF), (3, 1)] 5 3 = 1 := by decide +kernel
theorem test_vsubb : vAfter (.vsubb false 5 2 3 false false) (tyMode 1) [(2, 1), (3, 2)] 5 3 = 1 := by decide +kernel
theorem test_vshl_by_width : vAfter (.vshl false 5 2 3 false false) (tyMode 0) [(2, 1), (3, 32)] 5 3 = 0 := by decide +kernel
theorem test_vsar_past_width : vAfter (.vsar false 5 2 3 false false) (tyMode 0) [(2, 0x80000000), (3, 0xFFFFFFFF)] 5 3 = 0xFFFFFFFF := by decide +kernel
theorem test_vrot_n16x2 : vAfter (.vrot false 5 2 3 false false) (tyMode 3) [(2, 0x80018001), (3, 0x00010011)] 5 3 = 0x00030003 := by decide +kernel
theorem test_vclz_s8x4 : vAfter (.vclz false 5 2 false) (tyMode 4) [(2, 0x00018040)] 5 3 = 0x08070001 := by decide +kernel
theorem test_vffs_zero : vAfter (.vffs false 5 2 false) (tyMode 0) [] 5 3 = 32 := by decide +kernel
theorem test_vbrev_n16x2 : vAfter (.vbrev false 5 2 false) (tyMode 3) [(2, 0x00018000)] 5 3 = 0x80000001 := by decide +kernel
theorem test_vabs_min_wraps : vAfter (.vabs false 5 2 false) (tyMode 0) [(2, 0x80000000)] 5 3 = 0x80000000 := by decide +kernel
theorem test_vaddImm_sign : vAfter (.vaddImm false 5 2 0x3FE) (tyMode 2) [(2, 0x00010002)] 5 3 = 0xFFFF0000 := by decide +kernel
theorem test_vli_sign : vAfter (.vli false 5 0x40000) 0 [] 5 3 = 0xFFFC0000 := by decide +kernel
theorem test_vlane : vAfter (.vlane false 5) 0 [] 5 63 = 63 := by decide +kernel
theorem test_vstep_wraps_round : (let p : Pack := { pkS [(1, 3)] with vregs := [(2, ofLanes fun l => BitVec.ofNat 32 l)], live := allOnes }; lane ((after (.vstep false 5 2 1 false) (st p)).pk.v 5) 62) = 1 := by decide +kernel
theorem test_vbfx_signed : vAfter (.vbfx false 5 2 3 false false) (tyMode 0) [(2, 0x00000F00), (3, 0x00000408)] 5 0 = 0xFFFFFFFF := by decide +kernel
theorem test_vbfi : vAfter (.vbfi false 5 2 3 false false) (tyMode 0) [(5, 0xFFFFFFFF), (2, 0x0), (3, 0x00000408)] 5 0 = 0xFFFFF0FF := by decide +kernel
theorem test_vsel_without_guard : vAfter (.vsel false 5 2 3 false false) 0 [(2, 7), (3, 9)] 5 0 = 7 := by decide +kernel
theorem test_last_use_frees : (let p : Pack := { pkS [] with vregs := [(2, fill 5)], live := allOnes }; let t := after (.vmov false 5 2 true) (st p); (t.pk.isLive 2, lane (t.pk.v 2) 0, lane (t.pk.v 5) 0)) = (false, 0, 5) := by decide +kernel
theorem test_stale_read : (let t := after (.vmov false 5 2 false) st0; (t.pk.staleCount, t.pk.staleFirst, t.pk.staleSeen)) = (1, 2, true) := by decide +kernel
theorem test_vcmp_all_elements : (let p : Pack := { pkS [] with mode := tyMode 4, vregs := [(2, fill 0x01010101), (3, fill 0x01010102)], live := allOnes }; (after (.vcmp false 1 2 3 false false 0) (st p)).pk.p 1) = 0 := by decide +kernel
theorem test_plog_true : (after (.plog false 1 0 0 6) st0).pk.p 1 = allOnes := by decide +kernel
theorem test_fadd_f32 : vAfter (.fadd false 5 2 3 false false) (tyMode 8) [(2, 0x3F800000), (3, 0x40000000)] 5 0 = 0x40400000 := by decide +kernel
theorem test_fadd_inf_minus_inf : vAfter (.fadd false 5 2 3 false false) (tyMode 8) [(2, 0x7F800000), (3, 0xFF800000)] 5 0 = 0x7FC00000 := by decide +kernel
theorem test_fadd_invalid_flag : fAfter (.fadd false 5 2 3 false false) (tyMode 8) [(2, 0x7F800000), (3, 0xFF800000)] = 1 := by decide +kernel
theorem test_fsub_zero_sign : vAfter (.fsub false 5 2 3 false false) (tyMode 8) [(2, 0x3F800000), (3, 0x3F800000)] 5 0 = 0 := by decide +kernel
theorem test_fmul_f16x2 : vAfter (.fmul false 5 2 3 false false) (tyMode 9) [(2, 0x3C004000), (3, 0x40004000)] 5 0 = 0x40004400 := by decide +kernel
theorem test_fdiv_by_zero : vAfter (.fdiv false 5 2 3 false false) (tyMode 8) [(2, 0xBF800000), (3, 0)] 5 0 = 0xFF800000 := by decide +kernel
theorem test_fdiv_zero_flag : fAfter (.fdiv false 5 2 3 false false) (tyMode 8) [(2, 0xBF800000), (3, 0)] = 2 := by decide +kernel
theorem test_fmin_zero_signs : vAfter (.fmin false 5 2 3 false false) (tyMode 8) [(2, 0), (3, 0x80000000)] 5 0 = 0x80000000 := by decide +kernel
theorem test_fneg : vAfter (.fneg false 5 2 false) (tyMode 10) [(2, 0x3F80BF80)] 5 0 = 0xBF803F80 := by decide +kernel
theorem test_frint_to_even : vAfter (.frint false 5 2 false) (tyMode 8) [(2, 0x40200000)] 5 0 = 0x40000000 := by decide +kernel
theorem test_ffma_exact : vAfter (.ffma false 5 2 3 false false 0) (tyMode 8) [(2, 0x40000000), (3, 0x40400000), (5, 0x3F800000)] 5 0 = 0x40E00000 := by decide +kernel
theorem test_fsqrt : vAfter (.fsqrt false 5 2 false) (tyMode 8) [(2, 0x40800000)] 5 0 = 0x40000000 := by decide +kernel
theorem test_frcp : vAfter (.frcp false 5 2 false) (tyMode 8) [(2, 0x40000000)] 5 0 = 0x3F000000 := by decide +kernel
theorem test_fexp2_exact : vAfter (.fexp2 false 5 2 false) (tyMode 8) [(2, 0x40400000)] 5 0 = 0x41000000 := by decide +kernel
theorem test_flog2_exact : vAfter (.flog2 false 5 2 false) (tyMode 8) [(2, 0x41000000)] 5 0 = 0x40400000 := by decide +kernel
theorem test_fcmp_nan_unordered : (let p : Pack := { pkS [] with mode := tyMode 8, vregs := [(2, fill 0x7FC00000), (3, fill 0)], live := allOnes }; (after (.fcmp false 1 2 3 false false 0) (st p)).pk.p 1) = 0 := by decide +kernel
theorem test_fflags_clears_and_sets : (let p : Pack := { pkS [(2, 0x20), (3, 0x01)] with fflags := 0x03 }; let t := after (.fflags false 1 2 3) (st p); (t.pk.s 1, t.pk.fflags)) = (3, 0x22) := by decide +kernel
theorem test_cvt_f32_s32 : vAfter (.cvt false 5 2 0 false) (tyMode 8) [(2, 0xC0200000)] 5 0 = 0xFFFFFFFE := by decide +kernel
theorem test_cvt_s32_f32 : vAfter (.cvt false 5 2 8 false) (tyMode 0) [(2, 0xFFFFFFFF)] 5 0 = 0xBF800000 := by decide +kernel
theorem test_unpk_e4m3 : vAfter (.unpk false 5 2 1 false 0) 0 [(2, 0x00000038)] 5 0 = 0x3F800000 := by decide +kernel
theorem test_pack2_f16 : vAfter (.pack2F16 false 5 2 3 false false) 0 [(2, 0x3F800000), (3, 0x40000000)] 5 0 = 0x40003C00 := by decide +kernel
theorem test_trap_entry : (let t := after (.trap false 5) (stS [(59, 7)]); (t.pk.pc, t.pk.h, t.pk.s 59, t.pk.s 63, t.pk.frame.s59)) = (0x1000, true, 0x2000, 0x2004, 7) := by decide +kernel
theorem test_trap_cause_word : (after (.trap false 5) st0).pk.s 60 = 0x0000000500FF0015 := by decide +kernel
theorem test_rte_outside_handler : (after (.rte 63) st0).pk.frec.reason = 10 := by decide +kernel
theorem test_rte_restores : (let t := after (.rte 63) (st { pkS [(63, 0x3000)] with h := true, frame := { s59 := 7, em := 5 } }); (t.pk.pc, t.pk.h, t.pk.s 59, t.pk.em)) = (0x3000, false, 7, 5) := by decide +kernel
theorem test_ssrd_unprivileged_traps : (after (.ssrd false 1 0 0) (st { pkS [] with priv := false })).pk.frec.cause = 2 := by decide +kernel
theorem test_ssrd_sysskew : sAfter (.ssrd false 1 2 0) [] 1 = 32 := by decide +kernel
theorem test_sswr_ptbase_reserved_bits : ((after (.sswr false 6 2) (stS [(2, 0xFFFFFFFFFFFFFFFF)])).ctx 1).ptbase = 0x1FFFFFFFC000 := by decide +kernel
theorem test_cntrd_words_issued : ((after (.nop false) st0).core 0).count = [(6, 1)] := by decide +kernel
theorem test_dlog_stat : sAfter (.dlogStat false 1 2) [] 1 = 0 := by decide +kernel
theorem test_talloc_bad_descriptor : sAfter (.talloc false 1 0 2) [] 1 ≠ 0 := by decide +kernel
theorem test_tfree_unallocated : sAfter (.tfree false 1 3) [] 1 = 1 := by decide +kernel
theorem test_tinfo_unallocated : sAfter (.tinfo false 1 3) [(1, 9)] 1 = 0 := by decide +kernel
theorem test_mzero_waits_for_the_array : (after (.mzero false 2 0) st0).agenda = [.mmaArrayStart firstPack.id 3] := by decide +kernel
theorem test_ppt_point : (let t := after (.ppt false 7) st0; (t.pk.atPpt, t.pk.liveSet)) = (true, 7) := by decide +kernel
theorem test_ld_outside_the_space : (after (.ld false 5 2 7 false 2) (stS [(2, 0xFFFFFFFFFFFFFFFF)])).pk.pend.cause = 5 := by decide +kernel
theorem test_ld_misaligned : (after (.ld false 5 2 7 false 2) (stS [(2, 2)])).pk.pend.cause = 3 := by decide +kernel
theorem test_ld_counts : (after (.ld false 5 2 7 false 2) (stS [(2, 128)])).pk.counter .ld = 1 := by decide +kernel
theorem test_fence_waits : (after (.fence false 1) (st { pkS [] with lwct := 5 })).pk.pc = 0x2000 := by decide +kernel
theorem test_fence_passes : (after (.fence false 1) { (st { pkS [] with lwct := 5 }) with gtc := 5 }).pk.pc = 0x2004 := by decide +kernel

/-! ## States that meet the hypotheses of the statements -/

/-- The words of each list issue in st0, with every register zero, in a privileged matrix pack. -/
theorem witness_ScalarArithmetic : Issuing st0 [.sadd false 1 2 3, .ssub false 1 2 3, .smul false 1 2 3, .smulh true 63 63 63,
    .sand false 1 2 3, .sor false 1 2 3, .sxor false 1 2 3, .sandn false 1 2 3, .smin false 1 2 3, .smax false 1 2 3, .smov false 1 2,
    .sclz false 1 2, .spopc false 1 2, .ssel false 1 2 3, .sshl false 1 2 3, .sshr false 1 2 3, .ssar false 0 0 0] :=
  issuing_of (by decide)

theorem witness_ScalarCompare : Issuing st0 [.scmp false 1 2 3 0, .scmp true 1 2 3 7] := issuing_of (by decide)

theorem witness_ScalarImmediate : Issuing st0 [.saddImm false 1 2 0x1FF, .smulImm false 1 2 0x200, .sandImm false 1 2 0,
    .sorImm false 1 2 0, .sxorImm false 1 2 0, .sshlImm false 1 2 63, .sshrImm false 1 2 0, .ssarImm false 1 2 63, .sli false 1 0,
    .shi false 1 3 0] := issuing_of (by decide)

theorem witness_MaskWords : Issuing st0 [.mskp false 1 2, .mskn false 1 2, .msks false 1, .mskg false 1, .mskpop false 1 31,
    .mskff false 1 31] := issuing_of (by decide)

/-- A value that MODES accepts at the edge, and the first that it does not. -/
theorem witness_ModeWords : Issuing (stS [(1, 0x5CFF), (2, 0x5500), (3, 0x6000)])
      [.modeg false 1, .modes false 1, .modes false 2, .modes false 3, .mode false 11 4 1 1 31 1] ∧
    (0x5CFF : Nat) / 2 ^ 11 % 16 < 12 ∧ (0x5CFF : Nat) / 2 ^ 8 % 8 < 5 ∧ ¬ (0x5500 : Nat) / 2 ^ 8 % 8 < 5 ∧
    ¬ (0x6000 : Nat) / 2 ^ 11 % 16 < 12 := ⟨issuing_of (by decide), by decide⟩

/-- s1 to s11 hold the numbers of counters at the edges of the ranges of CNTRD. -/
theorem witness_StatusWords :
    Issuing (stS [(1, 0), (2, 1), (3, 2), (4, 6), (5, 7), (6, 8), (7, 9), (8, 10), (9, 16), (10, 17), (11, 18)])
      ([.srd false 20 0, .srd false 20 15, .nop false, .yield false, .yield true] ++
        ([1, 2, 3, 4, 5, 6, 7, 8, 9, 10, 11].map fun r => .cntrd false 20 r)) ∧ (15 : Nat) < 16 :=
  ⟨issuing_of (by decide), by decide⟩

theorem witness_ControlTransfers : Issuing st0 [.ret 1, .jmp 1, .bra 1, .call 1, .bemz 1, .bemf 1, .bz 1 1, .bnz 1 1] :=
  issuing_of (by decide)

/-- An outstanding store of the pack of st0. -/
def oneStore : Op := { id := 7, ctr := .st, word := .sts false 1 2 0 2, fpc := 0x1000, mask := allOnes }
/-- A pending record. -/
def pendOne : FaultRec := { cause := cALIGN, amask := 1, count := 1 }

theorem witness_ExitAndHold :
    Issuing st0 [.exit, .hold false 0 0 0 0 0, .hold false 31 31 31 31 31] ∧ st0.pk.hasPending = false ∧
    Issuing (st { pkS [] with ops := [oneStore] }) [.hold false 0 0 0 0 0, .hold false 0 1 0 0 0] ∧
    ({ pkS [] with ops := [oneStore] } : Pack).counter .st = 1 ∧
    Issuing (st { pkS [] with pend := pendOne }) [.exit, .hold false 0 0 0 0 0] ∧
    (st { pkS [] with pend := pendOne }).pk.hasPending = true :=
  ⟨issuing_of (by decide), rfl, issuing_of (by decide), by decide, issuing_of (by decide), rfl⟩

theorem witness_IntegerArithmetic : Issuing st0 [.vadd false 1 2 3 false false, .vsub false 1 2 3 true true, .vmul false 1 2 3 false false,
    .vmulh false 1 2 3 false false, .vmad false 1 2 3 false false, .vmin false 1 2 3 false false, .vmax false 1 2 3 false false,
    .vabs false 1 2 false, .vneg false 1 2 false, .vmov false 63 62 true] ∧
    Issuing (st { pkS [] with mode := tyMode 6 }) [.vadd false 62 2 4 false false] := ⟨issuing_of (by decide), issuing_of (by decide)⟩

/-- Results in range, at each bound and one past it, of .s8x4 and .n8x4. -/
theorem witness_SaturationClamps : (4 : Nat) < 12 ∧ (elemTy 4).sg = true ∧ (elemTy 4).w = 8 ∧ (elemTy 5).sg = false ∧
    ((-129 : Int) < -128 ∧ (-128 : Int) ≤ 127 ∧ (127 : Int) < 128 ∧ (-1 : Int) < 0 ∧ (255 : Int) < 256) := by decide

theorem witness_IntegerBits : Issuing st0 [.vand false 1 2 3 false false, .vor false 1 2 3 false false, .vxor false 1 2 3 false false,
    .vnot false 1 2 false, .vandn false 1 2 3 false false, .vaddc false 1 2 3 false false, .vsubb false 1 2 3 false false,
    .vshl false 1 2 3 false false, .vshr false 1 2 3 false false, .vsar false 1 2 3 false false, .vrot false 1 2 3 false false,
    .vclz false 1 2 false, .vffs false 1 2 false, .vpopc false 1 2 false, .vbrev false 1 2 false, .vaddImm false 1 2 0x200,
    .vmulImm false 1 2 0, .vandImm false 1 2 0, .vorImm false 1 2 0, .vxorImm false 1 2 0, .vshlImm false 1 2 63,
    .vshrImm false 1 2 32, .vsarImm false 1 2 63] := issuing_of (by decide)

theorem witness_LaneWords : Issuing st0 [.vsel false 1 2 3 false false, .vli false 1 0x40000, .vlane false 1,
    .vshf false 1 2 3 false false, .vstep false 1 2 3 false, .vbcast false 1 2 3 false, .vget false 1 2 3 false,
    .vbfx false 1 2 3 false false, .vbfi false 1 2 3 false false] := issuing_of (by decide)

theorem witness_PredicateWords : Issuing st0 [.vcmp false 1 2 3 false false 0, .vcmp false 31 2 3 false false 5, .plog false 1 2 3 0,
    .plog false 1 0 0 7] ∧ (5 : BitVec 3).toNat < 6 := ⟨issuing_of (by decide), by decide⟩

theorem witness_FloatWords : Issuing st0 [.fadd false 1 2 3 false false, .fsub false 1 2 3 false false, .fmul false 1 2 3 false false,
    .fdiv false 1 2 3 false false, .fmin false 1 2 3 false false, .fmax false 1 2 3 false false, .fabs false 1 2 false,
    .fneg false 1 2 false, .fclass false 1 2 false, .frint false 1 2 false, .ffma false 1 2 3 false false 3, .frcp false 1 2 false,
    .frsq false 1 2 false, .fsqrt false 1 2 false, .fexp2 false 1 2 false, .flog2 false 1 2 false, .fsin false 1 2 false,
    .fcos false 1 2 false, .ftanh false 1 2 false] := issuing_of (by decide)

theorem witness_FloatCompareAndFlags : Issuing st0 [.fcmp false 1 2 3 false false 0, .fcmp false 1 2 3 false false 7,
    .fflags false 1 2 3] := issuing_of (by decide)

theorem witness_Conversions : Issuing st0 [.cvt false 2 4 6 false, .unpk false 1 2 3 false 7, .pack2Bf16 false 1 2 3 false false,
    .pack2F16 false 1 2 3 false false, .pack4E4m3 false 1 2 4 false false, .pack4E5m2 false 1 2 4 false false,
    .pack4hLo false 1 2 4 false false, .pack4hHi false 1 2 4 false false] := issuing_of (by decide)

/-- v1 holds in its first half-words what a lane function gives. -/
def bookPack (f : Nat → Nat) : Pack := { pkS [] with vregs := [(1, ofLanes fun l => BitVec.ofNat 32 (f l))], live := allOnes }
/-- The half-word list that CBLD reads from v1. -/
def bookOf (p : Pack) : List Nat := (List.range 16).map fun j => ((lane (p.v 1) (j / 2)).toNat / 2 ^ (16 * (j % 2))) % 2 ^ 16

/-- A rising codebook, and one whose entries are equal; a team with a codebook and one without. -/
theorem witness_ScalesAndCodebooks :
    Issuing st0 [.bscale false 1 2 1 false, .qcb false 1 2 3 false, .xset false 1 2 3 false false] ∧ st0.tm.book 3 = [] ∧
    st0.pk.active ≠ 0 ∧ Issuing (st { pkS [] with em := 0 }) [.qcb false 1 2 3 false] ∧ (st { pkS [] with em := 0 }).pk.active = 0 ∧
    ({ firstTeam with cb := [(3, [1, 2])] } : Team).book 3 ≠ [] ∧
    Issuing { st0 with tm := { firstTeam with cb := [(3, [1, 2])] } } [.qcb false 1 2 3 false] ∧
    (let p := bookPack fun l => (0x3C00 + 2 * l) + (0x3C00 + 2 * l + 1) * 2 ^ 16
     Issuing (st p) [.cbld false 1 1 false] ∧ badEntry 0 (bookOf p) = none) ∧
    (let p := bookPack fun _ => 0x3C003C00
     Issuing (st p) [.cbld false 1 1 false] ∧ badEntry 0 (bookOf p) = some 0) :=
  ⟨issuing_of (by decide), by decide +kernel, by decide +kernel, issuing_of (by decide), by decide +kernel, by decide +kernel,
   issuing_of (by decide), ⟨issuing_of (by decide +kernel), by decide +kernel⟩, ⟨issuing_of (by decide +kernel), by decide +kernel⟩⟩

/-- Lane 5 of v8 holds a reserved code; the other lanes hold code 0. -/
def reservedPack : Pack :=
  { pkS [] with vregs := [(8, ofLanes fun l => if l = 5 then 0xDE33 else 0)], live := allOnes }

theorem witness_LatticeWords :
    Issuing st0 [.qlat false 8 0 16 false false, .dlat false 2 8 24 false false, .lput false 8 9 10 false false,
      .lscale false 1 0 2 false false, .lshell false 1 8 9 false false, .lget false 1 8 9 false false, .lpack false 1 2 3 false false,
      .lchk false 1 2 2 false] ∧
    (∀ l, l < 64 → latReserved (st0.pk.codeAt 8 24 l) = false) ∧
    Issuing (st reservedPack) [.dlat false 2 8 24 false false, .lput false 8 9 10 false false, .lshell false 1 8 9 false false,
      .lget false 1 8 9 false false] ∧
    (reservedPack.active.getLsbD 5 && latReserved (reservedPack.codeAt 8 24 5)) = true ∧
    (∀ k, k < 5 → (reservedPack.active.getLsbD k && latReserved (reservedPack.codeAt 8 24 k)) = false) ∧
    (ctlPM (reservedPack.vl 9 5)).testBit (ctlK (reservedPack.vl 9 5)) = false :=
  ⟨issuing_of (by decide), by decide +kernel, issuing_of (by decide +kernel), by decide +kernel, by decide +kernel, by decide +kernel⟩

/-! ### Tiles, memory, gates and streams -/

/-- A team that holds the bytes given in tile 1, of 16 by 16 elements of 4 bytes. -/
def tiled (bytes : List Byte) (t : Team) : Team :=
  { t with
    handles := [(1, some { desc := 0x8000000200100010, store := t.id, sid := 1, rows := 16, cols := 16, eb := 4 })]
    allocs := [{ sid := 1, start := 0, len := 1, owner := t.id }]
    tmem := bytes.zipIdx.foldl (fun m b => Tab.set 0 m b.2 b.1) [] }
/-- Tile 1. -/
def hd1 : Handle := { desc := 0x8000000200100010, store := firstTeam.id, sid := 1, rows := 16, cols := 16, eb := 4 }
/-- Its storage. -/
def al1 : Alloc := { sid := 1, start := 0, len := 1, owner := firstTeam.id }
/-- The machine with tile 1. -/
def stT (bytes : List Byte) (p : Pack) : State := { st p with tm := tiled bytes firstTeam }

theorem tile1 (bytes : List Byte) (p : Pack) : (stT bytes p).tileOf (stT bytes p).tm 1 = .ok (hd1, al1) := rfl
theorem tile2 (bytes : List Byte) (p : Pack) : (stT bytes p).tileOf (stT bytes p).tm 2 = .error 1 := rfl

/-- The name of the first pack, and of its team. -/
def p0 : PackId := firstPack.id
def t0 : TeamId := firstTeam.id
/-- Tile 1 in a gang of two, whose member 1 is not there. -/
def stG : State := { stT [] (pkS []) with tm := { tiled [] firstTeam with gang := 2 } }
/-- The table of the core is full. -/
def stFull : State := { stT [] (pkS []) with tm := { tiled [] firstTeam with handles := (List.range 256).map fun k => (k + 100, some hd1) } }

theorem witness_TileHandles :
    let s := stT [] (pkS [(2, 0x200100010)])
    Issuing s [.talloc false 3 2 2, .talloc false 3 1 2, .tfree false 3 1, .tfree false 3 2, .tinfo false 3 1, .tinfo false 3 2,
      .twptr false 3 1, .twptr false 3 2] ∧
    -- a handle in use, and one that is free; a malformed descriptor and a sound one; of level 1 without a gang
    s.tm.handle 1 ≠ none ∧ s.tm.handle 2 = none ∧ ((0 : Nat) / 2 ^ 16 % 2 ^ 16 = 0) ∧
    ((0x200100010 : Nat) / 2 ^ 16 % 2 ^ 16 = 16 ∧ (0x200100010 : Nat) % 2 ^ 16 * 16 * 4 ≤ 393216 ∧ (0x200100010 : Nat) < 2 ^ 34) ∧
    ((2 ^ 48 + 0x200100010 : Nat) / 2 ^ 48 % 4 = 1 ∧ s.tm.gang = 0) ∧
    -- bindings to tile 1 and to none, in a gang, and a member that is not there
    ((2 ^ 48 + 2 ^ 50 + 2 ^ 56 : Nat).testBit 50 = true ∧ stG.tm.handle 1 = some hd1 ∧ stG.tm.handle 5 = none ∧ hd1.store = stG.tm.id ∧
      descB hd1.desc.toNat = false ∧ stG.team? stG.tm.id = some stG.tm ∧ stG.tm.status = .resident ∧ stG.team? (stG.tm.member 1) = none ∧
      stG.tm.gangRank = 0) ∧
    -- room in the table or none; a free run or none
    s.tableRoom s.tm s.tm = true ∧ stFull.tableRoom stFull.tm stFull.tm = false ∧ stFull.tableUse 0 = 256 ∧ s.tableUse 0 < 256 ∧
    firstFit s.tm.busyRuns s.tm.granules 1 0 (s.tm.granules + 1) = some 1 ∧
    firstFit s.tm.busyRuns s.tm.granules 384 0 (s.tm.granules + 1) = none := by
  refine ⟨issuing_of ?_, ?_, ?_, ?_, ?_, ?_, ⟨?_, ?_, ?_, ?_, ?_, ?_, ?_, ?_, ?_⟩, ?_, ?_, ?_, ?_, ?_, ?_⟩ <;> decide +kernel

theorem witness_FirstFitIsLowest : (0 : Nat) < 1 ∧ (firstFit [(0, 2), (3, 1)] 5 1 0 6) = some 2 ∧
    (firstFit [(0, 5)] 5 1 0 6) = none := by decide

/-- Lane l of v2 names row l mod 16, column 0; in v3 every lane names row 16, outside tile 1. -/
def coordPack : Pack := { pkS [(4, 0x100000)] with vregs := [(2, ofLanes fun l => BitVec.ofNat 32 (l % 16 * 2 ^ 16)), (3, fill 0x100000)], live := allOnes }

theorem witness_TileAccess :
    let s := stT [1, 2, 3, 4] coordPack
    Issuing s [.tld false 5 1 2 false, .tst false 5 1 2 false, .tlds false 5 1 2, .tfill false 5 1, .tld false 5 2 2 false,
      .tld false 5 1 3 false, .tlds false 5 2 2, .tst false 5 2 2 false, .tst false 5 1 3 false, .tlds false 5 1 4, .tfill false 5 2] ∧
    s.tileOf s.tm 2 = .error 1 ∧ hd1.offset ((s.pk.s 4).toNat % 2 ^ 32) = none ∧ al1.poison = [] ∧
    (∀ n, n < 64 → (hd1.offset (s.pk.vl 2 n)).isSome = true) ∧ (hd1.offset (s.pk.vl 3 0)).isSome = false ∧
    hd1.offset ((s.pk.s 2).toNat % 2 ^ 32) = some 0 ∧ al1.poisoned 0 = false :=
  ⟨issuing_of (by decide +kernel), rfl, by decide +kernel, rfl, by decide +kernel, by decide +kernel, by decide +kernel, by decide +kernel⟩

theorem witness_MemoryWords : Issuing st0 [.ld false 5 2 7 false 5, .ld false 6 2 7 false 3, .st false 5 2 7 false 0, .ldp false 5 2 7 false 2,
    .stp false 5 2 7 false 2, .lds false 5 2 3 3, .sts false 5 2 3 3, .pflush false, .pref false 0 2 7 false] ∧
    (5 : BitVec 3).toNat < 6 ∧ (0xFFFF : Nat) < 2 ^ (8 * loadSize 5) ∧ (2 ^ 64 - 1 : Nat) < 2 ^ (8 * loadSize 3) :=
  ⟨issuing_of (by decide), by decide⟩

/-- At the edges of the address space and of an access. -/
theorem witness_AddressChecks : (0 : Nat) < 4 ∧ (0 : Int) ≤ 2 ^ 45 - 4 ∧ ¬ (2 ^ 45 : Int) < 2 ^ 45 ∧ ((4 : Int) ∣ 2 ^ 45 - 4) ∧
    ¬ ((4 : Int) ∣ 2 ^ 45 - 2) ∧ (roleOf firstTeam firstPack).plim = 65536 := by decide

theorem witness_AtomicWords : Issuing st0 [.atom false 4 2 6 false 3, .atomf false 4 2 6 false 40, .atoms false 4 2 6 false 8,
    .cas false 2 2 6 false 0, .cas64 false 1 2 6 false 4] ∧
    Issuing (st { pkS [] with mode := tyMode 7 }) [.atom false 4 2 6 false 3, .atoms false 4 2 6 false 8] ∧
    -- the largest operands, one lane at the end of a line, and a line at its home
    (2 ^ 32 - 1 : Nat) < 2 ^ 32 ∧ ((9 : Nat) ≤ 10 ∧ (8 : Nat) ≤ 8) ∧ 124 + atomBytes 0 0 = 128 ∧
    (let h : HomeLine := { ctx := 1, line := 0x800, data := 0, perm := { w := true }, phys := 0 }
     ∃ u, ({ st0 with l2 := [h] } : State).findLine 1 0x800 = (.home h, u) ∧ h.perm.w = true ∧ h.poison = false) :=
  ⟨issuing_of (by decide), issuing_of (by decide), by decide, by decide, by decide, _, rfl, rfl, rfl⟩

/-- With nothing outstanding; with the GTC one tick short of the last WCT; with an outstanding store. -/
theorem witness_OrderingWords :
    Issuing st0 [.ldaq false 6 2 7 false 1 4, .strl false 5 2 7 false 0 0, .strl false 6 2 7 false 1 3, .fence false 0, .fence false 4] ∧
    st0.pk.counter .ld = 0 ∧ st0.pk.counter .st = 0 ∧ st0.pk.counter .tl = 0 ∧ st0.pk.counter .dc = 0 ∧ st0.pk.replay = [] ∧
    st0.pk.lwct ≤ st0.gtc ∧ ¬ st0.pk.lwct + st0.eps ≤ st0.gtc ∧
    Issuing (st { pkS [] with ops := [oneStore] }) [.strl false 5 2 7 false 0 0, .fence false 0] ∧
    (st { pkS [] with ops := [oneStore] }).pk.counter .st ≠ 0 := by
  refine ⟨issuing_of (by decide), ?_, ?_, ?_, ?_, ?_, ?_, ?_, issuing_of (by decide), ?_⟩ <;> decide +kernel

/-- A team whose channel 0 is as given. -/
def lifting (q : LiftQueue) (s : State) : State := { s with tm := { s.tm with lift := [(0, q)] } }
/-- A queued command. -/
def cmd1 : LiftCmd := ⟨1, 0⟩

theorem witness_LiftWords :
    let s := stT [] (pkS [(2, 2 ^ 32), (3, 0x40), (4, 2 ^ 32 + 32), (5, 2 ^ 32 + 1024), (6, 2 ^ 33)])
    let gone : State := { s with tm := { s.tm with allocs := [] } }
    let kept := fun q : LiftQueue => lifting q { s with pk := { s.pk with lifting := some 0 } }
    -- LIFT: no handle, a misplaced block, a block past the end, no storage, a halted, a full and a free queue
    Issuing s [.lift false 7 2, .lift false 7 4, .lift false 7 5, .lift false 7 6, .lqry false 7 2, .lqry false 7 3, .lcan false 7 0] ∧
    s.pk.lifting = none ∧ s.tm.handle 2 = none ∧ s.tm.handle 1 = some hd1 ∧ (32 : Nat) % 64 ≠ 0 ∧ hd1.bytes < 1024 + 64 ∧
    (Issuing gone [.lift false 7 2] ∧ gone.storage hd1 = none) ∧ s.storage hd1 = some al1 ∧ 64 ≤ hd1.bytes ∧ al1.poisonedIn 0 64 = false ∧
    (s.tm.queue 0).halted = false ∧ (s.tm.queue 0).cmds.length < 16 ∧
    Issuing (lifting { halted := true } s) [.lift false 7 2] ∧ ((lifting { halted := true } s).tm.queue 0).halted = true ∧
    Issuing (lifting { cmds := List.replicate 16 cmd1 } s) [.lift false 7 2] ∧
    16 ≤ ((lifting { cmds := List.replicate 16 cmd1 } s).tm.queue 0).cmds.length ∧
    -- a block that waits for room
    (Issuing (kept { cmds := List.replicate 16 cmd1 }) [.lift false 7 2] ∧ Issuing (kept {}) [.lift false 7 2] ∧
      (kept {}).pk.lifting = some 0) ∧
    -- LCAN with no block half delivered, and with one
    (s.tm.queue 0).held = [] ∧ (s.tm.queue 0).rest = [] ∧
    Issuing (lifting { held := [⟨0, 0, []⟩] } s) [.lcan false 7 0] ∧ ((lifting { held := [⟨0, 0, []⟩] } s).tm.queue 0).held ≠ [] := by
  refine ⟨issuing_of ?_, ?_, ?_, ?_, ?_, ?_, ⟨issuing_of ?_, ?_⟩, ?_, ?_, ?_, ?_, ?_, issuing_of ?_, ?_, issuing_of ?_, ?_,
    ⟨issuing_of ?_, issuing_of ?_, ?_⟩, ?_, ?_, issuing_of ?_, ?_⟩ <;> decide +kernel

/-- A gate of phase 0 that expects one event, and has had none. -/
def gate1 : Nat := 0x6A * 2 ^ 120 + 1 * 2 ^ 64 + 1

theorem witness_GateEvents : (1 : Nat) < 2 ^ 32 ∧ gate1 < 2 ^ 128 ∧ (gateEvent gate1 1 false).isSome = true ∧
    gateEvent gate1 (2 ^ 32 - 1) true = none := by decide +kernel

theorem witness_GateWords :
    let s := stT (toBytes gate1 16) (pkS [(3, 1), (4, 0)])
    Issuing s [.ginit false 3 1 4, .gexp false 3 1 4, .garr false 3 1 4, .garr false 4 1 4, .gtry false 3 1 4, .gwait false 3 1 4,
      .gwait false 4 1 4] ∧
    s.gateAt s.tm 1 0 = .ok (hd1, al1, gate1) ∧ s.liveGate s.tm 1 0 = .ok (hd1, al1, gate1) ∧ (gateEvent gate1 1 true).isSome = true ∧
    (gateEvent gate1 1 false).isSome = true ∧ releaseWaits 1 s = false ∧ gERR gate1 = false ∧ s.pk.hasPending = false ∧
    gPH gate1 = 0 ∧
    Issuing { s with pk := { s.pk with lwct := 1 } } [.garr false 3 1 4] ∧ releaseWaits 1 { s with pk := { s.pk with lwct := 1 } } = true := by
  have h : (stT (toBytes gate1 16) (pkS [(3, 1), (4, 0)])).gateAt (tiled (toBytes gate1 16) firstTeam) 1 0 = .ok (hd1, al1, gate1) := by
    have e : ofBytes ((stT (toBytes gate1 16) (pkS [(3, 1), (4, 0)])).tileBytes hd1 al1 0 16) = gate1 := by decide +kernel
    exact congrArg (fun g => Except.ok (hd1, al1, g)) e
  refine ⟨issuing_of (by decide +kernel), h, ?_, ?_, ?_, ?_, ?_, ?_, ?_, issuing_of (by decide +kernel), ?_⟩
  · show State.liveGate _ (tiled (toBytes gate1 16) firstTeam) 1 0 = _
    rw [State.liveGate, h]; rfl
  all_goals decide +kernel

/-! Records that are read: the answer of a read, and the state it leaves. -/

def rdB (s t : State) (va n al : Nat) : Bool :=
  !s.storeHeld (lineSpan va n) && (s.pk.declinedIn va n).isNone && match t.readVirt s.pk.id s.tm.core s.tm.ctx va n al with
  | (.ok _, _, none) => true
  | _ => false
def rdX (s t : State) (va n al : Nat) : Nat :=
  match t.readVirt s.pk.id s.tm.core s.tm.ctx va n al with
  | (.ok x, _, none) => x
  | _ => 0
def rdU (s t : State) (va n al : Nat) : State := (t.readVirt s.pk.id s.tm.core s.tm.ctx va n al).2.1

theorem rd_of {s t : State} {va n al : Nat} (h : rdB s t va n al = true) : Reads s t va n al (rdX s t va n al) (rdU s t va n al) := by
  simp only [rdB, Bool.and_eq_true, Bool.not_eq_true', Option.isNone_iff_eq_none] at h
  refine ⟨h.1.1, h.1.2, ?_⟩
  have h := h.2
  unfold rdX rdU
  split at h
  · rename_i e; rw [e]
  · cases h

/-- A line of memory at its home, readable, writable and executable, holding a number from its first byte on. -/
def memLineAt (a x : Nat) : HomeLine :=
  { ctx := 1, line := a / 128, data := BitVec.ofNat 1024 x, perm := { r := true, w := true, x := true }, phys := a, dcopy := true }
/-- The machine with those lines of memory. -/
def withMem (l : List (Nat × Nat)) (s : State) : State := { s with l2 := l.map fun q => memLineAt q.1 q.2 }

/-- The layout record of a tensor of one element of format 6 and fixed width, its index at 0x30000. -/
def lay1 : Nat :=
  0x4C * 2 ^ 56 + 6 * 2 ^ 52 + 15 * 2 ^ 48 + 3 * 2 ^ 44 + 3 * 2 ^ 40 + (2 ^ 64 + 2 ^ 96 + 2 ^ 128 + 2 ^ 160) + 0x20000 * 2 ^ 192 +
    4096 * 2 ^ 256 + 0x30000 * 2 ^ 320 + 0x30800 * 2 ^ 384
/-- A stream of one element of format 6 in tile 1, and its descriptor in s10 and s11. -/
def stream1 : List Byte := toBytes 0xA6F00000 4
def desc1 : Nat := 6 * 2 ^ 60 + 15 * 2 ^ 56

/-- A code table of one symbol of length 1. -/
def table1 : List Byte := toBytes (0xC7 * 2 ^ 24 + 2 ^ 16 + 2 ^ 12) 4 ++ toBytes 1 4

theorem exists_ok {x : Except ε α} (h : (match x with | .ok _ => true | _ => false) = true) : ∃ b, x = .ok b := by
  cases x with
  | ok b => exact ⟨b, rfl⟩
  | error _ => cases h

/-- A machine with a stream in tile 1, and a layout record at 0x10000 whose index entry at 0x30000 is empty. -/
def stStream : State :=
  withMem [(0x10000, lay1), (0x30000, 0)] (stT stream1
    (pkS [(10, dw desc1), (12, dw desc1), (13, 0x100000030), (14, 0x10000), (15, 0x40000)]))

theorem witness_StreamWords :
    let s := stStream
    let z := stT [] (pkS [])
    let w := stT table1 (pkS [])
    Issuing s [.bixq false 5 14 16, .dech false 5 1 5, .dec false 1 1 5, .enc false 1 1 5 false, .encf false 5 1 6, .kvapp false 5 1 7,
      .ctinv false 14] ∧
    -- CTLD of an accepted table, and of a record with a defect
    (Issuing w [.ctld false 2 1 2] ∧ w.tileOf w.tm 1 = .ok (hd1, al1) ∧
      ctDefect ((List.range 2).map fun j => BitVec.ofNat 32 (ofBytes (w.tileBytes hd1 al1 (4 * j) 4))) = none ∧
      ctCount (BitVec.ofNat 32 (ofBytes (w.tileBytes hd1 al1 0 4))) = 1) ∧
    (Issuing z [.ctld false 2 1 2] ∧ ctCount (BitVec.ofNat 32 (ofBytes (z.tileBytes hd1 al1 0 4))) = 0 ∧
      ctDefect [BitVec.ofNat 32 (ofBytes (z.tileBytes hd1 al1 0 4))] = some 0xFF) ∧
    s.tileOf s.tm 1 = .ok (hd1, al1) ∧ sdescBad desc1 0 = false ∧ sdescBad desc1 0x100000030 = false ∧
    -- BIXQ
    (ReadsLayout s 0x10000 (rdX s s 0x10000 128 128) (rdU s s 0x10000 128 128) ∧ blockOf (rdX s s 0x10000 128 128) 0 = some 0 ∧
      layBidx (rdX s s 0x10000 128 128) = 0x30000 ∧
      (let t := rdU s s 0x10000 128 128
       Reads s t 0x30000 8 8 (rdX s t 0x30000 8 8) (rdU s t 0x30000 8 8) ∧ entBad (rdX s s 0x10000 128 128) (rdX s t 0x30000 8 8) = false)) ∧
    -- DECH, DEC, ENC and ENCF
    (∃ b, parseBlock ((sdesc desc1 0).expect s.tm 0) (streamBytes s (sdesc desc1 0) hd1 al1) = .ok b) ∧
    (∃ b, parseBlock ((sdesc desc1 0).expect s.tm 1) (streamBytes s (sdesc desc1 0) hd1 al1) = .ok b) ∧
    (∀ o n, al1.poisonedIn o n = false) ∧
    (∃ r, encode64 s.tm s.pk 1 (sdesc desc1 0) (streamBytes s (sdesc desc1 0) hd1 al1) = .ok r) ∧ encIdxOk (sdesc desc1 0) = true ∧
    (sdesc desc1 0x100000030).idx = (sdesc desc1 0x100000030).total ∧ ((sdesc desc1 0x100000030).bit + 255) / 256 = 1 ∧
    (streamBytes s (sdesc desc1 0x100000030) hd1 al1).length = 1024 ∧
    -- KVAPP
    layBlocks (rdX s s 0x10000 128 128) = 1 ∧ layENCR (rdX s s 0x10000 128 128) = false ∧ layFmt (rdX s s 0x10000 128 128) = 6 ∧
    parseHeader (ofBytes ((s.tileBytes hd1 al1 0 32).take 4)) = some { fmt := 6, slot := 15, xp := false } := by
  refine ⟨issuing_of (by decide +kernel), ⟨issuing_of (by decide +kernel), rfl, ?_, ?_⟩, ⟨issuing_of (by decide +kernel), ?_, ?_⟩, rfl, ?_, ?_,
    ⟨⟨?_, rd_of ?_, ?_⟩, ?_, ?_, rd_of ?_, ?_⟩, exists_ok ?_, exists_ok ?_, fun _ _ => rfl, exists_ok ?_, ?_, ?_, ?_, ?_, ?_, ?_, ?_, ?_⟩ <;>
    decide +kernel

/-- A team with weights of format 1 in its array. -/
def weighted (t : Team) : Team := { t with active := { fmt := 1 } }
/-- Two teams of one gang on cores 0 and 1, both with weights of format 1. -/
def pairS : State :=
  { st0 with
    tm := { weighted firstTeam with gang := 2 }
    teams := [{ weighted firstTeam with id := { grid := 0, team := 1 }, gang := 2, core := 1 }] }

theorem witness_MatrixWords :
    let s : State := { st0 with tm := weighted firstTeam }
    let r := rdX stStream { stStream with pk := { stStream.pk with atPpt := false } } 0x10000 128 128
    Issuing s [.mma false 0 0 0 63 0 1, .mma false 13 1 1 63 0 1, .mswap false, .mzero false 0 2, .mrd false 0 5 6, .mwr false 0 5 6, .mrel false,
      .ppt false 7] ∧ mmaCombo 1 1 = true ∧ s.tm.heldTiles = 0 ∧ s.tm.firstBad 13 3 = none ∧ s.arrayBusy 0 = false ∧
    -- MRD and MWR on a tile that is not valid, with active lanes and with none
    (let b : State := { st0 with tm := { firstTeam with accBad := 1 } }
     let z : State := { b with pk := { b.pk with em := 0 } }
     Issuing b [.mrd false 0 5 6, .mwr false 0 5 6] ∧ b.pk.active ≠ 0 ∧ b.tm.firstBad 0 1 = some 0 ∧ b.tm.heldTiles &&& tileMask 0 1 = 0 ∧
       b.arrayBusy b.tm.core = false ∧ Issuing z [.mrd false 0 5 6, .mwr false 0 5 6] ∧ z.pk.active = 0) ∧
    Issuing pairS [.mma false 0 0 0 63 1 1] ∧ (pairS.pairOk pairS.tm 0).isSome = true ∧ pairS.arrayBusy 1 = false ∧
    ((pairS.pairOk pairS.tm 0).map fun m => (m.heldTiles, m.firstBad 0 3)) = some (0, none) ∧
    Issuing stStream [.mwld false 16 1 7] ∧ stStream.arrayBusy 0 = false ∧ stStream.tileOf stStream.tm 1 = .ok (hd1, al1) ∧
    ReadsLayout { stStream with pk := { stStream.pk with atPpt := false } } 0x10000 r
      (rdU stStream { stStream with pk := { stStream.pk with atPpt := false } } 0x10000 128 128) ∧
    (blockOf r 0x40000).isSome = false ∧ (blockOf r 0).isSome = true ∧ fmtWeight (layFmt r) = true ∧
    placeBad 0 (layFmt r) (blockRows r 0) (blockCols r 0) = false ∧ stStream.tm.shadow.fmt = 0 ∧
    (∃ b, parseBlock { fmt := layFmt r, rows := blockRows r 0, cols := blockCols r 0, upTo := blockRows r 0 * blockCols r 0,
                       ct := stStream.tm.slotTable, book := stStream.tm.book (layCB r) } (stStream.tileBytes hd1 al1 0 1024) = .ok b) := by
  refine ⟨issuing_of (by decide +kernel), ?_, ?_, ?_, ?_, ⟨issuing_of ?_, ?_, ?_, ?_, ?_, issuing_of ?_, ?_⟩, issuing_of (by decide +kernel), ?_, ?_, ?_,
    issuing_of (by decide +kernel), ?_, rfl,
    ⟨?_, rd_of (s := stStream) ?_, ?_⟩, ?_, ?_, ?_, ?_, ?_, exists_ok ?_⟩ <;> decide +kernel
/-! ### Launches, the fabric, traps and freezes -/

/-- The check of a launch record that LAUNCH reads. -/
def launchCheck (s t : State) (r : Nat) : Checked × State := t.checkRecord (preloadAgent s.pk.id) s.tm.core s.tm.ctx r
/-- Its answer where the record is malformed. -/
def malformedWith (c : Checked × State) (n : Nat) : Bool := match c.1 with | .malformed m => m == n | _ => false
/-- Whether the record is accepted with nothing preloaded. -/
def goodEmpty (c : Checked × State) : Bool := match c.1 with | .good [] => true | _ => false

theorem malformed_of {c : Checked × State} {n : Nat} (h : malformedWith c n = true) : c = (.malformed n, c.2) := by
  obtain ⟨a, u⟩ := c
  cases a <;> simp_all [malformedWith]

theorem good_of {c : Checked × State} (h : goodEmpty c = true) : c = (.good [], c.2) := by
  obtain ⟨a, u⟩ := c
  cases a with
  | good l => cases l <;> simp_all [goodEmpty]
  | _ => simp [goodEmpty] at h

/-- The answer of a blocking word's read, and the state it leaves. -/
def rwB (s : State) (va : Nat) : Bool := match (s.readWait s.pk va).1 with | .ok _ => true | _ => false
def rwX (s : State) (va : Nat) : List Byte := match (s.readWait s.pk va).1 with | .ok b => b | _ => []

theorem rw_of {s : State} {va : Nat} (h : rwB s va = true) : s.readWait s.pk va = (.ok (rwX s va), (s.readWait s.pk va).2) := by
  unfold rwB at h
  unfold rwX
  generalize s.readWait s.pk va = x at *
  obtain ⟨a, u⟩ := x
  cases a <;> simp_all

/-- A launch record of one team of one pack at 0x40000, one of zeros at 0x40100, and a launch of each. -/
def launchRec : Nat := 0x4E * 2 ^ 56 + 2 ^ 64 + 2 ^ 80 + 2 ^ 96 + 0x2000 * 2 ^ 512
def stLaunch : State :=
  withMem [(0x40000, launchRec), (0x40080, 0), (0x40100, 0), (0x40180, 0)] (stS [(2, 0x40000), (3, 0x40100)])
/-- 256 children of the grid of st0 that wait for admission. -/
def manyChildren (s : State) : State :=
  { s with grids := List.replicate 256 { idx := 5, ctx := 1, queue := 0, parent := some 0, record := 0 } }
/-- The time at which every release of st0 is complete. -/
def late (s : State) : State := { s with gtc := 1000000 }

theorem witness_LaunchWords :
    let s := stLaunch
    let m := manyChildren stLaunch
    let r := rdX s s 0x40000 256 256
    let t := rdU s s 0x40000 256 256
    let tm := rdU m m 0x40000 256 256
    -- refused by depth, and by the pack that asks
    (Issuing { s with tm := { s.tm with depth := 10 } } [.launch false 5 2]) ∧
    (Issuing (st { pkS [] with id := { firstPack.id with pir := 1 } }) [.launch false 5 2]) ∧ st0.tm.depth ≠ 10 ∧
    -- a malformed record
    (Issuing s [.launch false 5 2, .launch false 5 3] ∧ s.pk.id.role = 0 ∧ s.pk.id.pir = 0 ∧ releaseWaits 3 s = false ∧
      Reads s s 0x40100 256 256 (rdX s s 0x40100 256 256) (rdU s s 0x40100 256 256) ∧
      ∃ n u, launchCheck s (rdU s s 0x40100 256 256) (rdX s s 0x40100 256 256) = (.malformed n, u)) ∧
    -- a good one, with room for it and without
    (Reads s s 0x40000 256 256 r t ∧ launchCheck s t r = (.good [], (launchCheck s t r).2) ∧
      ((launchCheck s t r).2.dropFetched (preloadAgent s.pk.id)).pendingChildren (s.rootQueue s.tm) < 256) ∧
    (Issuing m [.launch false 5 2] ∧ releaseWaits 3 m = false ∧ Reads m m 0x40000 256 256 (rdX m m 0x40000 256 256) tm ∧
      launchCheck m tm r = (.good [], (launchCheck m tm r).2) ∧
      256 ≤ ((launchCheck m tm r).2.dropFetched (preloadAgent m.pk.id)).pendingChildren (m.rootQueue m.tm)) ∧
    -- barriers and event words, of value 7 at 0x40000
    (Issuing s [.tbar false 4, .gbar false 4] ∧ s.pk.hasPending = false ∧ releaseWaits 1 s = false ∧ releaseWaits 2 s = false) ∧
    (Issuing (late s) [.evsig false 5 2 3] ∧ releaseWaits 4 (late s) = false) ∧
    (let w := withMem [(0x40000, 7)] (stS [(2, 0x40000), (3, 7), (4, 8)])
     let d : State := { w with pk := { w.pk with declined := some (0, 0x40004) } }
     Issuing w [.evwait false 2 3, .evwait false 2 4] ∧ w.pk.hasPending = false ∧ w.pk.declinedIn 0x40000 8 = none ∧
      Issuing d [.evwait false 2 3] ∧ d.pk.declinedIn 0x40000 8 = some 0x40004 ∧
      w.readWait w.pk 0x40000 = (.ok (rwX w 0x40000), (w.readWait w.pk 0x40000).2) ∧ 7 ≤ ofBytes (rwX w 0x40000) ∧
      ofBytes (rwX w 0x40000) < 8) := by
  refine ⟨issuing_of ?_, issuing_of ?_, ?_, ⟨issuing_of ?_, ?_, ?_, ?_, rd_of ?_, 1, _, malformed_of ?_⟩, ⟨rd_of ?_, good_of ?_, ?_⟩,
    ⟨issuing_of ?_, ?_, rd_of ?_, good_of ?_, ?_⟩, ⟨issuing_of ?_, ?_, ?_, ?_⟩, ⟨issuing_of ?_, ?_⟩,
    ⟨issuing_of ?_, ?_, ?_, issuing_of ?_, ?_, rw_of ?_, ?_, ?_⟩⟩ <;>
    decide +kernel

/-- The first pack alone opens its barrier; with a sibling it waits; one of two that the felt counted opens it when it comes again. -/
theorem witness_BarrierOpens :
    let two : State := { st0 with packs := [{ firstPack with id := { firstPack.id with pir := 1 } }] }
    let back : State := { two with tm := { two.tm with tbar := [(0, 2)], tkept := [(0, 1)] } }
    Issuing st0 [.tbar false 4] ∧ Issuing two [.tbar false 4] ∧ Issuing back [.tbar false 4] ∧ st0.pk.status = .running ∧
    st0.pk.hasPending = false ∧ releaseWaits 1 st0 = false ∧ releaseWaits 1 two = false ∧ releaseWaits 1 back = false ∧
    st0.tm.id = st0.pk.id.teamId ∧ Tab.get 0 st0.tm.tkept 0 = 0 ∧ Tab.get 0 back.tm.tkept 0 ≠ 0 ∧
    (st0.members st0.tm false).length ≤ Tab.get 0 st0.tm.tbar 0 + 1 ∧ Tab.get 0 two.tm.tbar 0 + 1 < (two.members two.tm false).length ∧
    (back.members back.tm false).length ≤ Tab.get 0 back.tm.tbar 0 := by
  refine ⟨issuing_of ?_, issuing_of ?_, issuing_of ?_, ?_, ?_, ?_, ?_, ?_, ?_, ?_, ?_, ?_, ?_, ?_⟩ <;> decide +kernel

/-- Group 0 of context 1, formed of two members. -/
def formed (s : State) : State := s.onGroup 1 0 fun _ => { state := 2, members := [0, 1] }
/-- A BARRIER descriptor at 0x40000, one of zeros at 0x40080, group records of member 0 at 0x40100, of 0 twice at 0x40280 and of 5 at
0x40300, and final and unfinished status words at 0x40188 and 0x40208. -/
def stFabric : State :=
  late (withMem [(0x40000, 0x43 * 2 ^ 56), (0x40080, 0), (0x40100, 0x47 * 2 ^ 56 + 1 + 2 ^ 128), (0x40180, 2 ^ 127), (0x40200, 0),
      (0x40280, 0x47 * 2 ^ 56 + 2 + 2 ^ 128), (0x40300, 0x47 * 2 ^ 56 + 1 + 2 ^ 128 + 5 * 2 ^ 512)]
    (stS [(2, 0x40000), (3, 0x40080), (4, 0x40100), (6, 0x40180), (7, 0x40200), (8, 0x40280), (9, 0x40300)]))
/-- The state in which GRPF at va reads its member words, and the home's answer for n of them. -/
def openedAt (s : State) (va : Nat) : State := (rdU s s va 64 64).openGroup s va (rdX s s va 64 64) 5
def membersRead (s : State) (va n : Nat) : LiftRead × State :=
  (openedAt s va).homeRead s.pk.id s.tm.core s.tm.ctx [(((va + 64 : Nat) : Int), 4 * n)]
/-- Whether a read at the home has its bytes, and those bytes. -/
def gotB (x : LiftRead × State) : Bool := match x.1 with | .ok _ => true | _ => false
def gotX (x : LiftRead × State) : List Byte := match x.1 with | .ok b => b | _ => []

theorem got_of {x : LiftRead × State} (h : gotB x = true) : x = (.ok (gotX x), x.2) := by
  obtain ⟨a, u⟩ := x
  cases a <;> simp_all [gotB, gotX]

theorem witness_FabricWords :
    let s := formed stFabric
    let n := stFabric
    let g := fun va k => membersRead n va k
    let words := fun va k => (List.range k).map fun i => ofBytes (gotX (membersRead n va k)) / 2 ^ (32 * i) % 2 ^ 32
    (Issuing s [.coll false 5 2, .coll false 5 3] ∧ releaseWaits 4 s = false ∧
      Reads s s 0x40000 64 64 (rdX s s 0x40000 64 64) (rdU s s 0x40000 64 64) ∧
      cdGroup (rdX s s 0x40000 64 64) = 0 ∧ ((rdU s s 0x40000 64 64).group 1 0).state = 2 ∧
      cdBad (rdX s s 0x40000 64 64) 2 = false ∧ ((rdU s s 0x40000 64 64).group 1 0).colls.length < 16 ∧
      Reads s s 0x40080 64 64 (rdX s s 0x40080 64 64) (rdU s s 0x40080 64 64) ∧ cdBad (rdX s s 0x40080 64 64) 2 = true ∧
      (let m := s.onGroup 1 0 fun k => { k with colls := List.replicate 16 { seq := 1, desc := 0, addr := 0, issuer := p0, start := 0 } }
       16 ≤ ((rdU m m 0x40000 64 64).group 1 0).colls.length)) ∧
    (Issuing n [.coll false 5 2] ∧ releaseWaits 4 n = false ∧
      Reads n n 0x40000 64 64 (rdX n n 0x40000 64 64) (rdU n n 0x40000 64 64) ∧ ((rdU n n 0x40000 64 64).group 1 0).state ≠ 2 ∧
      cdBad (rdX n n 0x40000 64 64) (cdRoot (rdX n n 0x40000 64 64) + 1) = false) ∧
    (Issuing n [.cwait false 5 6, .cwait false 5 7] ∧ n.pk.hasPending = false ∧ n.pk.declinedIn 0x40188 8 = none ∧
      n.readWait n.pk 0x40188 = (.ok (rwX n 0x40188), (n.readWait n.pk 0x40188).2) ∧ (ofBytes (rwX n 0x40188)).testBit 63 = true ∧
      n.readWait n.pk 0x40208 = (.ok (rwX n 0x40208), (n.readWait n.pk 0x40208).2) ∧ (ofBytes (rwX n 0x40208)).testBit 63 = false) ∧
    (Issuing n [.grpf false 5 3, .grpf false 5 4, .grpf false 5 8, .grpf false 5 9] ∧
      Reads n n 0x40080 64 64 (rdX n n 0x40080 64 64) (rdU n n 0x40080 64 64) ∧ grpBad (rdX n n 0x40080 64 64) = true ∧
      Reads n n 0x40100 64 64 (rdX n n 0x40100 64 64) (rdU n n 0x40100 64 64) ∧ grpBad (rdX n n 0x40100 64 64) = false ∧
      rdX n n 0x40100 64 64 % 2 ^ 18 = 1 ∧ ((rdU n n 0x40100 64 64).group 1 0).reading = false ∧
      g 0x40100 1 = (.ok (gotX (g 0x40100 1)), (g 0x40100 1).2) ∧ words 0x40100 1 = [0] ∧ n.device = 0 ∧
      g 0x40280 2 = (.ok (gotX (g 0x40280 2)), (g 0x40280 2).2) ∧ ¬ (words 0x40280 2).Nodup ∧
      g 0x40300 1 = (.ok (gotX (g 0x40300 1)), (g 0x40300 1).2) ∧ words 0x40300 1 = [5]) ∧
    Issuing n [.fstat false 5 2] := by
  refine ⟨⟨issuing_of ?_, ?_, rd_of ?_, ?_, ?_, ?_, ?_, rd_of ?_, ?_, ?_⟩, ⟨issuing_of ?_, ?_, rd_of ?_, ?_, ?_⟩,
    ⟨issuing_of ?_, ?_, ?_, rw_of ?_, ?_, rw_of ?_, ?_⟩,
    ⟨issuing_of ?_, rd_of ?_, ?_, rd_of ?_, ?_, ?_, ?_, got_of ?_, ?_, ?_, got_of ?_, ?_, got_of ?_, ?_⟩, issuing_of ?_⟩ <;>
    decide +kernel

/-- Inside the handler. -/
def handling (s : State) : State := { s with pk := { s.pk with h := true } }

theorem witness_TrapEntry :
    st0.pk.ops = [] ∧ st0.pk.h = false ∧ st0.tm.trap ≠ 0 ∧ st0.tm.id = st0.pk.id.teamId ∧ (illegal 0 1).cause ≠ 0 ∧
    (illegal 0 1).cause ≠ cGANG ∧ (handling st0).pk.ops = [] ∧ (handling st0).pk.h = true ∧ st0.tm.halt = none ∧
    ({ firstTeam with trap := 0 } : Team).trap = 0 ∧ ({ firstTeam with halt := some (illegal 0 1) } : Team).halt = some (illegal 0 1) ∧
    -- a trap that is delivered, for the pending record and for a precise fault
    st0.pack? st0.pk.id = some st0.pk ∧ (st0.teamOf st0.pk).trap ≠ 0 ∧ st0.pk.due.cause = 0 ∧ st0.pk.pend.cause ≠ cGANG ∧
    ({ st0.pk with due := illegal 0 1 } : Pack).due.cause ≠ 0 ∧
    -- the first deferred fault and a later one, of a lane and of all lanes
    (st0.pk.pend.count = 0 ∧ pendOne.count ≠ 0 ∧ ([(5, 7)] : List (Nat × Nat)).map (·.1) = [5] ∧
      maskOf ((List.range 64).map fun l => l) = allOnes ∧ maskOf [5] ≠ allOnes) := by
  refine ⟨?_, ?_, ?_, ?_, ?_, ?_, ?_, ?_, ?_, ?_, ?_, rfl, ?_, ?_, ?_, ?_, ?_, ?_, ?_, ?_, ?_⟩ <;> decide +kernel

theorem witness_TrapWords :
    let s := handling (stS [(1, 0x2002)])
    Issuing st0 [.trap false 7, .bkpt false 7, .rte 2, .halt false 2] ∧ Issuing (stS [(1, 1), (3, 3)]) [.halt false 1, .halt false 3] ∧ st0.team? t0 = some st0.tm ∧ st0.pk.h = false ∧ Issuing s [.rte 1, .rte 2] ∧ s.pk.h = true ∧
    (s.pk.s 1).toNat % 4 ≠ 0 ∧ (s.pk.s 2).toNat % 4 = 0 ∧ (st0.pk.s 2).toNat % 4 = 0 ∧ st0.tm.id = st0.pk.id.teamId := by
  refine ⟨issuing_of ?_, issuing_of ?_, rfl, ?_, issuing_of ?_, ?_⟩ <;> decide

theorem witness_SpecialRegisters :
    Issuing st0 [.ssrd false 20 0 1, .ssrd false 20 7 1, .sswr false 0 1, .sswr false 1 1, .sswr false 2 1, .sswr false 3 1, .sswr false 4 1,
      .sswr false 5 1, .sswr false 6 1, .sswr false 7 1] ∧
    (7 : BitVec 6).toNat < 8 ∧ 8 ≤ (8 : BitVec 6).toNat := ⟨issuing_of (by decide), by decide⟩

/-- Freezes of context 2 and of context 1, and a malformed one, of which s2, s3 and s4 name the descriptors. -/
def stFreeze : State :=
  withMem [(0x40000, 0x46 * 2 ^ 56 + 2), (0x40080, 0x46 * 2 ^ 56 + 1), (0x40100, 0)] (stS [(1, 1), (2, 0x40000), (3, 0x40080), (4, 0x40100)])
/-- A freeze under way. -/
def frozen1 : FrzWork := { isResume := false, issuer := firstPack.id, ictx := 1, felt := 0, limit := 0, evt := 0, isSelf := false, dlogbase := 0, dreg := 0 }

theorem witness_FreezeWords :
    let s := stFreeze
    let log := fun n : Nat => st0.onCtx 1 fun c => { c with dlogbase := dw n }
    let on := st0.onCtx 0 fun c => { c with dlogEn := true }
    let busy := s.onCtx 2 fun c => { c with frz := some frozen1 }
    let x := rdX s s 0x40000 64 64
    let y := rdX s s 0x40080 64 64
    Issuing st0 [.dlogStat false 5 1, .dlogStart false 5 1, .dlogStop false 5 1, .dlogAck false 5 1, .dlogCons false 5 1] ∧
    (((log 12).ctx 0).dlogEn = false ∧ 12 ≤ ((log 12).ctx 1).dlogbase.toNat % 2 ^ 5 ∧ ((log 30).ctx 1).dlogbase.toNat % 2 ^ 5 ≤ 30 ∧
      ((log 11).ctx 1).dlogbase.toNat % 2 ^ 5 < 12 ∧ 30 < ((log 31).ctx 1).dlogbase.toNat % 2 ^ 5 ∧ (on.ctx 0).dlogEn = true) ∧
    (Issuing on [.dlogStart false 5 1]) ∧
    ((0 : BitVec 32) - 0 ≤ (0 : BitVec 32) - 0 ∧ (0 : BitVec 32) - 0 < (1 : BitVec 32) - 0) ∧
    (Issuing (stS [(1, 2 ^ 32)]) [.dlogAck false 5 1]) ∧
    (Issuing s [.frz false 5 2, .frz false 5 3, .frz false 5 4]) ∧
    (Reads s s 0x40000 64 64 x (rdU s s 0x40000 64 64) ∧ fdBad x = false ∧ x % 2 ^ 16 = 2 ∧
      ((rdU s s 0x40000 64 64).ctx 2).frz = none ∧ (frzWork s x 5).isSelf = false) ∧
    (Reads s s 0x40080 64 64 y (rdU s s 0x40080 64 64) ∧ fdBad y = false ∧ y % 2 ^ 16 = 1 ∧
      ((rdU s s 0x40080 64 64).ctx 1).frz = none ∧ (frzWork s y 5).isSelf = true) ∧
    (Reads s s 0x40100 64 64 (rdX s s 0x40100 64 64) (rdU s s 0x40100 64 64) ∧ fdBad (rdX s s 0x40100 64 64) = true) ∧
    (Issuing busy [.frz false 5 2] ∧ Reads busy busy 0x40000 64 64 (rdX busy busy 0x40000 64 64) (rdU busy busy 0x40000 64 64) ∧
      fdBad (rdX busy busy 0x40000 64 64) = false ∧ ((rdU busy busy 0x40000 64 64).ctx 2).frz.isSome = true) := by
  refine ⟨issuing_of ?_, ⟨?_, ?_, ?_, ?_, ?_, ?_⟩, issuing_of ?_, ?_, issuing_of ?_, issuing_of ?_, ⟨rd_of ?_, ?_, ?_, ?_, ?_⟩, ⟨rd_of ?_, ?_, ?_, ?_, ?_⟩,
    ⟨rd_of ?_, ?_⟩, ⟨issuing_of ?_, rd_of ?_, ?_, ?_⟩⟩ <;> decide +kernel
/-! ### Events of packs, the array and memory -/

theorem any_of {x : Option α} {f : α → Bool} (h : x.any f = true) : ∃ a, x = some a ∧ f a = true := by
  cases x with
  | none => simp at h
  | some a => exact ⟨a, rfl, by simpa using h⟩

theorem fst_ok {x : Except ε α × β} (h : (match x.1 with | .ok _ => true | _ => false) = true) : ∃ a, x = (.ok a, x.2) := by
  obtain ⟨a, u⟩ := x
  cases a with
  | ok b => exact ⟨b, rfl⟩
  | error _ => cases h

/-- The machine whose first pack has the status given. -/
def stP (x : PStatus) : State := st { pkS [] with status := x }
/-- The machine whose first pack waits for w, with 7 at 0x40000 and a final status word at 0x40080. -/
def stW (w : Wait) : State := withMem [(0x40000, 7), (0x40080, 2 ^ 63)] (st { pkS [] with status := .waiting, wait := w })
/-- A report ring of 16 entries. -/
def ringed (s : State) : State := { s with fq := 4 * 2 ^ 112 }

theorem witness_PackEvents :
    (stP .fetching).pack? p0 = some { pkS [] with status := .fetching } ∧
    (stP .trapping).pack? p0 = some { pkS [] with status := .trapping } ∧ (pkS []).ops = [] ∧ (pkS []).replay = [] ∧
    st0.pack? p0 = some st0.pk ∧ st0.pk.status = .running ∧
    (stP .ready).pack? p0 = some { pkS [] with status := .ready } ∧
    [PStatus.vacant, .retired, .halted, .running].contains PStatus.ready = false ∧
    (stP .saving).pack? p0 = some { pkS [] with status := .saving } ∧ (stP .saving).pairWrites firstTeam = false ∧
    (stP .exiting).pack? p0 = some { pkS [] with status := .exiting } ∧
    (ringed (stP .halted)).pack? p0 = some { pkS [] with status := .halted } ∧ (ringed (stP .halted)).reportRoom = true ∧
    (ringed (stP .halted)).waiting = [] ∧
    (let e := stW (.event 0x40000 7)
     e.pack? p0 = some e.pk ∧ e.readWait e.pk 0x40000 = (.ok (rwX e 0x40000), (e.readWait e.pk 0x40000).2) ∧
       7 ≤ ofBytes (rwX e 0x40000) ∧ ofBytes (rwX e 0x40000) < 8) ∧
    (let e := stW (.status 0x40000 5)
     e.pack? p0 = some e.pk ∧ e.readWait e.pk 0x40000 = (.ok (rwX e 0x40000), (e.readWait e.pk 0x40000).2) ∧
       (ofBytes (rwX e 0x40000)).testBit 63 = false) ∧
    (let e := stW (.status 0x40080 5)
     e.pack? p0 = some e.pk ∧ e.readWait e.pk 0x40080 = (.ok (rwX e 0x40080), (e.readWait e.pk 0x40080).2) ∧
       (ofBytes (rwX e 0x40080)).testBit 63 = true) ∧
    (st { pkS [] with saveDue := true }).pack? p0 = some { pkS [] with saveDue := true } ∧
    -- a ready pack whose line is cached is promoted at 4 GHz after 1,024 ticks, one whose line is not is not
    (let s := (stP .ready).onCore firstTeam.core fun c => { c with icache := [(1, 0x2000 / 128)] }
     let k := { pkS [] with status := .ready }
     s.pack? p0 = some k ∧ s.lineCached (s.teamOf k) k = true ∧ k.promoted = none ∧ (s.core (s.teamOf k).core).clocks = [] ∧
       (s.core (s.teamOf k).core).clock = 32 ∧ s.promotesAt k = some (k.since + 1024) ∧ (stP .ready).lineCached (s.teamOf k) k = false) := by
  refine ⟨rfl, rfl, rfl, rfl, rfl, rfl, rfl, rfl, rfl, ?_, rfl, rfl, ?_, rfl, ⟨rfl, rw_of ?_, ?_, ?_⟩, ⟨rfl, rw_of ?_, ?_⟩, ⟨rfl, rw_of ?_, ?_⟩,
    rfl, ⟨rfl, ?_, ?_, ?_, ?_, ?_, ?_⟩⟩ <;> decide +kernel

/-- A pack of a vector role of 16 registers, unprivileged. -/
def vectorTeam : Team := { firstTeam with roles := [{ kind := .general, packs := 1, vregs := 16, plim := 65536, entry := 0x2000 }] }
def plainPack : Pack := { pkS [] with priv := false }

theorem witness_DefectiveWords :
    isWord (.vadd false 1 2 16 false false) = true ∧
    (checkWord vectorTeam plainPack (.vadd false 1 2 16 false false)).any (fun _ => true) = true ∧
    checkWord st0.tm { pkS [] with acquire := some 7 } (.ld false 5 2 7 false 2) = none ∧
    mustStall { pkS [] with acquire := some 7 } (.ld false 5 2 7 false 2) = true ∧
    ({ pkS [] with runpos := 24 } : Pack).runpos = 24 ∧ (pkS []).runpos ≠ 24 ∧ decode 0x0E800005 = .illegal 5 ∧
    decode 0x5A082141 = .lastUse (.gexp false 1 1 2) ∧
    badTarget (pkS [(2, 2)]) (.jmp 2) = true ∧ badTarget plainPack (.jmp 2) = false ∧
    namesOk (roleOf vectorTeam plainPack).vregs vectorTeam.accs plainPack.ty (.vadd false 1 2 16 false false) = false ∧
    badTarget plainPack (.mswap false) = false ∧
    namesOk (roleOf vectorTeam plainPack).vregs vectorTeam.accs plainPack.ty (.mswap false) = true ∧
    roleOk (roleOf vectorTeam plainPack).kind (.mswap false) = false ∧
    (badTarget plainPack (.ssrd false 1 0 0) = false ∧
      namesOk (roleOf vectorTeam plainPack).vregs vectorTeam.accs plainPack.ty (.ssrd false 1 0 0) = true ∧
      roleOk (roleOf vectorTeam plainPack).kind (.ssrd false 1 0 0) = true) := by
  refine ⟨?_, ?_, ?_, ?_, ?_, ?_, ?_, ?_, ?_, ?_, ?_, ?_, ?_, ?_, ?_, ?_, ?_⟩ <;> decide +kernel

/-- MRD and MSWAP in a general, an epilogue and a matrix role, by their major opcodes. -/
theorem witness_RolesAndPrivilege :
    plainPack.runpos ≠ 24 ∧ plainPack.priv = false ∧ isWord (.mrd false 0 5 6) = true ∧ isWord (.mswap false) = true ∧
    (encode (.mrd false 0 5 6)).extractLsb' 25 6 ∈ [0x30#6, 0x31#6, 0x32#6] ∧
    (encode (.mswap false)).extractLsb' 25 6 ∈ [0x30#6, 0x31#6, 0x32#6] ∧
    (∀ k ∈ [RoleKind.general, .epilogue, .matrix],
      let t : Team := { firstTeam with roles := [{ kind := k, packs := 1, vregs := 16, plim := 65536, entry := 0x2000 }] }
      (roleOf t plainPack).kind = k ∧ namesOk (roleOf t plainPack).vregs t.accs plainPack.ty (.mrd false 0 5 6) = true ∧
        namesOk (roleOf t plainPack).vregs t.accs plainPack.ty (.mswap false) = true) := by
  refine ⟨?_, ?_, ?_, ?_, ?_, ?_, ?_⟩ <;> decide

/-- The machine whose first pack has operation o outstanding. -/
def stO (o : Op) : State := st { pkS [] with ops := [o] }
/-- An operation numbered 3 of counter c and word i. -/
def op3 (c : Counter) (i : Instr) : Op := { id := 3, ctr := c, word := i, fpc := 0x2000, mask := allOnes }

/-- It is the operation that events name. -/
def HasO (o : Op) : Prop := HasOp (stO o) p0 3 { pkS [] with ops := [o] } o

theorem hasOp_of (o : Op) (h : o.id = 3) : HasO o := by
  refine ⟨rfl, ?_⟩
  simp [Pack.op?, h]

/-- A page of context 1 at 0x40000, as a TLB holds it. -/
def page1 : Xlate := { ctx := 1, base := 0x40000, size := 65536, perm := { r := true, w := true }, acc := true }

/-- A page as the TLBs of the four base dies hold it. -/
def onDies (x : Xlate) : List Xlate := (List.range 4).map fun d => { x with die := d }

theorem die_lt (l : Nat) : dieOf l < 4 := by
  have := (Config.homeSlice l).isLt
  unfold dieOf
  omega

/-- A page held so is found whichever slice is the home of its line. -/
theorem translate_onDies {s : State} {ts us : List Xlate} {x : Xlate} {ctx va : Nat} (h : s.tlb = ts ++ (onDies x ++ us))
    (hn : ∀ t ∈ ts, t.covers ctx va = false) (hc : x.covers ctx va = true) (ha : x.acc = true) :
    s.translate ctx va = (some { x with die := dieOf (va / 128) }, s) := by
  have e : (ts.find? fun t => t.covers ctx va && t.die == dieOf (va / 128)) = none := by
    rw [List.find?_eq_none]
    intro t ht
    simp [hn t ht]
  have c : ∀ d, ({ x with die := d } : Xlate).covers ctx va = true := fun _ => hc
  have f : (s.tlb.find? fun t => t.covers ctx va && t.die == dieOf (va / 128)) = some { x with die := dieOf (va / 128) } := by
    rw [h, List.find?_append, e]
    have := die_lt (va / 128)
    generalize dieOf (va / 128) = d at *
    have : d = 0 ∨ d = 1 ∨ d = 2 ∨ d = 3 := by omega
    rcases this with h | h | h | h <;> subst h <;> simp [onDies, List.range, List.range.loop, List.find?, c]
  simp only [State.translate]
  rw [f]
  simp [ha]

/-- A page of this device that may be written refuses nothing. -/
theorem refuses_onDies {s : State} {ts us : List Xlate} {x : Xlate} {ctx va : Nat} (h : s.tlb = ts ++ (onDies x ++ us))
    (hn : ∀ t ∈ ts, t.covers ctx va = false) (hc : x.covers ctx va = true) (ha : x.acc = true) (hw : x.perm.w = true) (hp : x.pw = false)
    (hv : va < 2 ^ 45) : s.pageRefuses ctx va = (false, s) := by
  rw [State.pageRefuses, if_neg (by omega), translate_onDies h hn hc ha]
  simp [hw, hp]

/-- The machine of stStream with what an append of block 0 of lay1 needs: its lines, and its pages. -/
def stAppend : State :=
  { withMem [(0x10000, lay1), (0x30000, 0), (0x30800, 0), (0x20000, 0)] stStream with
    tlb := onDies { page1 with base := 0x30000 } ++ onDies { page1 with base := 0x20000 } }
def append1 : Append := { ctx := 1, rec_ := lay1, b := 0, len := 1, data := toBytes 0xA6F00000 (32 * 1) }

theorem append_entry : ∃ en w u, stAppend.append append1 none = (.entry en w, u) := by
  have i : ∀ va, va = 0x30000 ∨ va = 0x30800 → stAppend.pageRefuses 1 va = (false, stAppend) := by
    rintro va (rfl | rfl) <;> exact refuses_onDies (ts := []) rfl (by simp) (by decide) rfl rfl rfl (by decide)
  have d : ∀ s : State, s.tlb = stAppend.tlb → s.pageRefuses 1 0x20000 = (false, s) := fun s h =>
    refuses_onDies (us := []) (x := { page1 with base := 0x20000 }) h (by decide) (by decide) rfl rfl rfl (by decide)
  have f : stAppend.firstRefusal append1.ctx [layAptr append1.rec_, layBidx append1.rec_ + 8 * append1.b] = (none, stAppend) := by
    rw [show append1.ctx = 1 from rfl, show layAptr append1.rec_ = 0x30800 by decide +kernel,
      show layBidx append1.rec_ + 8 * append1.b = 0x30000 by decide +kernel]
    simp [State.firstRefusal, i]
  rw [State.append, f]
  dsimp only
  rw [if_neg (by decide +kernel), if_neg (by decide +kernel), if_neg (by decide +kernel)]
  generalize hp : pageStarts _ _ = ps
  have hps : ps = [0x20000] := by rw [← hp]; decide +kernel
  subst hps
  rw [show append1.ctx = 1 from rfl, State.firstRefusal, d _ (by decide +kernel)]
  dsimp only [State.firstRefusal]
  rw [if_pos (by decide +kernel)]
  exact ⟨_, _, _, rfl⟩

theorem witness_RetireEvents :
    HasO (op3 .ld (.ld false 5 2 7 false 2)) ∧
    -- destinations: a pair, a single register, a scalar register
    ({ op3 .ld (.ld false 6 2 7 false 3) with vdst := [6, 7] } : Op).vdst = destOf true 6 ∧
    ({ op3 .ld (.ld false 5 2 7 false 2) with vdst := [5] } : Op).vdst = destOf false 5 ∧
    ((op3 .ld (.lds false 5 2 3 3)).vdst = [] ∧ ({ op3 .ld (.lds false 5 2 3 3) with sdst := [5] } : Op).sdst = [5]) ∧
    (op3 .ld (.ld false 5 2 7 false 2)).addrs = [] ∧
    HasO (op3 .st (.st false 5 2 7 false 2)) ∧
    HasO (op3 .tl (.tlds false 5 1 2)) ∧
    (let o := { op3 .mx (.mzero false 0 0) with args := [1, 0] }
     HasO o ∧ o.atArray = false ∧ isPair o.word = false) ∧
    (let o := { op3 .dc (.bixq false 5 2 3) with sdst := [5] }
     HasO o ∧ o.sdst ≠ []) ∧
    (let o := { op3 .dc (.kvapp false 5 1 7) with args := [0x10000, lay1, 0, 1, 0xA6F00000] }
     let s := { stAppend with pk := { stAppend.pk with ops := [o] } }
     HasOp s p0 3 s.pk o ∧ s.teamOf s.pk = s.tm ∧ append1.ctx = s.tm.ctx ∧ ∃ en w u, stAppend.append append1 none = (.entry en w, u)) := by
  refine ⟨hasOp_of _ rfl, ?_, ?_, ⟨?_, ?_⟩, ?_, hasOp_of _ rfl, hasOp_of _ rfl, ⟨hasOp_of _ rfl, ?_, ?_⟩, ⟨hasOp_of _ rfl, ?_⟩,
    ⟨⟨rfl, rfl⟩, ?_, ?_, append_entry⟩⟩ <;> decide +kernel

/-- An operation that the array has. -/
def opA (i : Instr) (args : List Nat) : Op := { op3 .mx i with args := args }
theorem atArray_of (o : Op) (h : o.id = 3) (a : o.atArray = true) : (stO o).arrayOp? p0 3 = some (firstTeam, o) := by
  show (((some { pkS [] with ops := [o] } : Option Pack).bind fun k => ((k.op? 3).filter Op.atArray).map fun o => ((stO o).teamOf k, o))) = _
  simp only [Option.bind_some, Pack.op?, List.find?, h]
  simp [Option.filter, a]
  rfl

theorem witness_MatrixEvents :
    (stO (opA (.mma false 0 0 0 63 0 1) [0, 4])).arrayOp? p0 3 = some (firstTeam, opA (.mma false 0 0 0 63 0 1) [0, 4]) ∧
    (stO (opA (.mswap false) [0])).arrayOp? p0 3 = some (firstTeam, opA (.mswap false) [0]) ∧
    (stO (opA (.mzero false 0 2) [0])).arrayOp? p0 3 = some (firstTeam, opA (.mzero false 0 2) [0]) ∧
    (stO (opA (.mrd false 0 5 6) [0])).arrayOp? p0 3 = some (firstTeam, opA (.mrd false 0 5 6) [0]) ∧
    (stO (opA (.mwld false 16 1 7) [0, 0, 6])).arrayOp? p0 3 = some (firstTeam, opA (.mwld false 16 1 7) [0, 0, 6]) ∧
    (stO (opA (.mma false 0 0 0 63 1 1) [0, 4])).arrayOp? p0 3 = some (firstTeam, opA (.mma false 0 0 0 63 1 1) [0, 4]) ∧
    isPair (opA (.mma false 0 0 0 63 1 1) [0, 4]).word = true ∧
    HasO (opA (.mma false 0 0 0 63 1 1) [2, 4]) ∧
    (stO (opA (.mwr false 0 5 6) [0])).arrayOp? p0 3 = some (firstTeam, opA (.mwr false 0 5 6) [0]) ∧
    -- a pair operation whose follow array is slaved, and its partner
    (let o := opA (.mma false 0 0 0 63 1 1) [2, 4]
     let s : State := { pairS with pk := { pairS.pk with ops := [o] } }
     s.arrayOp? p0 3 = some (s.tm, o) ∧ (o.args[0]?).getD 0 = 2 ∧ ((s.claimArray s.tm).partner s.tm).isSome = true) :=
  ⟨atArray_of _ rfl rfl, atArray_of _ rfl rfl, atArray_of _ rfl rfl, atArray_of _ rfl rfl, atArray_of _ rfl rfl, atArray_of _ rfl rfl, rfl,
   hasOp_of _ rfl, atArray_of _ rfl rfl, rfl, rfl, by decide +kernel⟩

/-- An operation of lane 0 at an address, with value 5. -/
def opM (c : Counter) (i : Instr) (a : Nat) : Op := { op3 c i with addrs := [(0, a)], vals := [(0, 5)] }
/-- The machine with that operation, and memory at 0x40000. -/
def stM (o : Op) : State := withMem [(0x40000, 7)] (stO o)

theorem witness_MemoryEvents :
    let line := 0x40000 / 128
    let ld := stM (opM .ld (.ld false 5 2 7 false 2) 0x40000)
    let wr := stM (opM .st (.st false 5 2 7 false 2) 0x40000)
    let at_ := stM { opM .ld (.atom false 4 2 6 false 3) 0x40000 with ty := 0 }
    let q := stM (opM .ld (.ldp false 5 2 7 false 2) 0)
    let w := stM (opM .st (.stp false 5 2 7 false 2) 0)
    let f := stM (opM .st (.pflush false) 0x40000)
    -- HOME_LOAD and HOME_WRITE, shared and private
    (((ld.lineOp p0 3 line).any fun q => !isPrivateWord q.2.2.word) = true ∧
      (match (ld.loadLine (some p0) ld.tm.core ld.tm.ctx line).1 with | .data _ => true | _ => false) = true) ∧
    ((q.lineOp p0 3 (laneLine q.tm q.pk (opM .ld (.ldp false 5 2 7 false 2) 0) (0, 0))).any fun q => isPrivateWord q.2.2.word) = true ∧
    (((wr.lineOp p0 3 line).any fun q => !isPrivateWord q.2.2.word) = true ∧
      ∃ x, wr.storeLine wr.tm.ctx line [(0, 5), (1, 0), (2, 0), (3, 0)] false (some p0) =
        (.ok x, (wr.storeLine wr.tm.ctx line [(0, 5), (1, 0), (2, 0), (3, 0)] false (some p0)).2)) ∧
    ((w.lineOp p0 3 (laneLine w.tm w.pk (opM .st (.stp false 5 2 7 false 2) 0) (0, 0))).any fun q => isPrivateWord q.2.2.word) = true ∧
    ((f.lineOp p0 3 (laneLine f.tm f.pk (opM .st (.pflush false) 0x40000) (0, 0x40000))).any fun q => q.2.2.word == .pflush false) = true ∧
    -- HOME_ATOMIC
    (((at_.lineOp p0 3 line).any fun q => atomOf q.2.2 == (0, 0) && atomLanes q.2.2 [(0, 0x40000)] == [(0, 0, 5, 0)]) = true ∧
      ∃ x, at_.atomAt at_.tm.ctx line 0 0 [(0, 0, 5, 0)] (some p0) = (.ok x, (at_.atomAt at_.tm.ctx line 0 0 [(0, 0, 5, 0)] (some p0)).2)) ∧
    -- HOME_WRITE_PERFORM, CHANNEL_TRANSLATE, PRIVATE_WRITEBACK, GRANULE_CLEAR_DONE
    (let h := { memLineAt 0x40000 7 with pend := [{ wct := 9, bytes := [(0, 5)] }] }
     ({ st0 with l2 := [h] } : State).l2.find? (fun h => h.ctx == 1 && h.line == line) = some h ∧ h.pend = [{ wct := 9, bytes := [(0, 5)] }]) ∧
    (∃ x, ({ st0 with tlb := onDies page1 } : State).translate 1 0x40010 = (some x, { st0 with tlb := onDies page1 }) ∧ x.perm.w = true) ∧
    (let x : L1Line := { core := 0, ctx := 1, line := 9, data := 0, perm := {}, owner := some p0, dirty := true }
     ({ st0 with l1 := [x] } : State).l1.find? (fun x => x.core == 0 && x.ctx == 1 && x.line == 9 && x.owner.isSome && x.dirty) = some x) ∧
    ((({ st0 with tm := { firstTeam with clearing := [(3, 1)] } } : State).allTeams.find? fun t =>
      t.core == 0 && decide (t.gbase ≤ 3) && decide (3 < t.gbase + t.granules) && t.clearing.any fun r => t.gbase + r.1 == 3).any
        fun _ => true) = true ∧
    -- ECC_RETRY of another site than an L1 line, and of one
    ((∀ c x n, EccSite.vreg p0 5 0 ≠ .l1 c x n) ∧
      (let x : L1Line := { core := 0, ctx := 1, line := 9, data := 0, perm := {} }
       ({ st0 with l1 := [x] } : State).l1.find? (fun l => l.core == 0 && l.ctx == 1 && l.line == 9) = some x)) ∧
    -- a lease taken at the home, before a write that is pending there and with none
    (∀ ws ∈ [[], [({ wct := 9, bytes := [(0, 5)] } : PendWrite)]],
      let h := { memLineAt 0x40000 7 with pend := ws, perm := { r := true, lc := 3 } }
      let s : State := { st0 with l2 := [h] }
      ∃ u, (s.awaitOwn none 1 line).l1Hit 0 1 line = none ∧ (s.awaitOwn none 1 line).findLine 1 line = (.home h, u) ∧ h.perm.r = true ∧
        h.poison = false ∧ (∀ w ∈ h.pend, w.lift = false) ∧ u.l1.length < 8192 ∧ u.l2.length < 57344) ∧
    -- D set with the dirty log off, full, and with room
    (let s := fun (f : Ctx → Ctx) => st0.onCtx 1 f
     page1.dirty = false ∧ ((s id).ctx 1).dlogEn = false ∧
       (let c := (s fun c => { c with dlogEn := true, dlogSize := 12, dlogP := 512 }).ctx 1
        c.dlogEn = true ∧ c.dlogOvf = false ∧ (c.dlogP - c.dlogC).toNat = 2 ^ c.dlogSize / 8) ∧
       (let c := (s fun c => { c with dlogEn := true, dlogSize := 12, dlogP := 511 }).ctx 1
        c.dlogEn = true ∧ c.dlogOvf = false ∧ (c.dlogP - c.dlogC).toNat ≠ 2 ^ c.dlogSize / 8)) := by
  refine ⟨⟨?_, ?_⟩, ?_, ⟨?_, fst_ok ?_⟩, ?_, ?_, ⟨?_, fst_ok ?_⟩, ⟨rfl, rfl⟩,
    ⟨_, translate_onDies (ts := []) (us := []) (x := page1) rfl (by simp) (by decide) rfl, rfl⟩, rfl, ?_, ⟨by simp, rfl⟩, ?leases, ?_⟩
  case leases =>
    intro ws hw
    simp only [List.mem_cons, List.not_mem_nil, or_false] at hw
    rcases hw with rfl | rfl <;> exact ⟨_, rfl, rfl, rfl, rfl, by decide, by decide, by decide⟩
  all_goals decide +kernel
/-! ### Events of the launch unit, the lift engine, freezes, the fabric, the host and management -/

/-- A grid of queue 0 that waits to be placed, of record r. -/
def stGrid (r : Nat) : State := { st0 with grids := [{ idx := 5, ctx := 1, queue := 0, go := true, record := BitVec.ofNat 2048 r }] }
/-- Only cores 0 and 1 work, queue 0 has priority 1, and a gang of two teams needs all accumulator tiles of both. -/
def stEvict : State :=
  { stGrid (launchRec + 16 * 2 ^ 43 + 2 * 2 ^ 48 + 2 ^ 64) with
    fused := (List.range 36).drop 1, queues := [(0, { desc := BitVec.ofNat 512 (2 ^ 101) })] }
/-- Queue 0 of context 1 with its ring at 0x40000, of 2 records of which one is queued. -/
def queue1 : HQueue := { desc := BitVec.ofNat 512 (0x40000 + 2 ^ 64 + 2 ^ 100 + 2 ^ 104 + 2 ^ 112 + 2 ^ 128) }
/-- The answer of the read of the record at the head. -/
def recordRead (s : State) : LiftRead × State := s.homeRead (queueAgent 0 0 0) 0 1 [((0x40000 : Nat), 256)]
/-- The machine of stLaunch with that queue. -/
def stQueue : State := { stLaunch with queues := [(0, queue1)] }

theorem witness_LaunchEvents :
    ((stGrid launchRec).choice.any fun c => c.2.unit.team.grid == 5 && c.2.victims.isEmpty && (stGrid launchRec).unitGang c.2.unit == 0) = true ∧
    ((stGrid (launchRec + 2 ^ 48)).choice.any fun c =>
      c.2.unit.team.grid == 5 && c.2.victims.isEmpty && (stGrid (launchRec + 2 ^ 48)).unitGang c.2.unit != 0) = true ∧
    (stEvict.choice.any fun c => c.2.unit.team.grid == 5 && !c.2.victims.isEmpty) = true ∧
    (let s := stP .retired
     s.team? t0 = some firstTeam ∧ s.packsOf t0 ≠ [] ∧ (s.packsOf t0).all (fun k => k.status == .retired) = true ∧
       (∀ c, c < 8 → (firstTeam.queue c).cmds = []) ∧ s.pairWrites firstTeam = false ∧ firstTeam.halt = none ∧
       -- and of a halted team, whose queue still had a command
       (let m := lifting { cmds := [cmd1] } { s with tm := { firstTeam with halt := some {} } }
        m.team? t0 = some m.tm ∧ m.tm.halt.isSome = true ∧ (m.tm.queue 0).cmds ≠ [] ∧ (∀ c, c < 8 → (m.tm.cancelLifts.queue c).cmds = []) ∧
          (m.onTeam t0 Team.cancelLifts).pairWrites m.tm.cancelLifts = false)) ∧
    (let k : Grid := { idx := 5, ctx := 1, queue := 0, parent := some 0, record := BitVec.ofNat 2048 launchRec, texit := 1, nextT := 1 }
     ({ st0 with grids := [k] } : State).grid? 5 = some k ∧ grTeams k.record.toNat ≤ k.texit ∧ k.nextT ≤ k.texit ∧ k.parent ≠ some 5 ∧
       ({ st0 with grids := [{ k with parent := none }] } : State).grid? 5 = some { k with parent := none } ∧
       ({ st0 with grids := [{ k with parent := none }] } : State).recordsFull 0 = false) ∧
    (let s := stQueue
     let a := recordRead s
     let r := ofBytes (gotX a)
     s.queue 0 = queue1 ∧ queue1.en = true ∧ queue1.head ≠ queue1.tail ∧ queue1.wait = none ∧
       queue1.ring + 256 * (queue1.head % 2 ^ queue1.logsz) = 0x40000 ∧ queue1.ctx = 1 ∧ a = (.ok (gotX a), a.2) ∧
       a.2.checkRecord (queueAgent 0 0 0) 0 1 r = (.good [], (a.2.checkRecord (queueAgent 0 0 0) 0 1 r).2)) ∧
    (st0.queue 0).en = false ∧ st0.ringFits (st0.queue 0) = true ∧
    (let s : State := { stGrid launchRec with tm := { firstTeam with id := { grid := 5, team := 0 } }, queues := [(0, { queue1 with slice := 1000 })] }
     ((s.countSlice 0).queue 0).sliceOut = true ∧ (s.countSlice 0).queuePlaced 0 ≠ [] ∧
       (((s.countSlice 0).ctx ((s.countSlice 0).queue 0).ctx).frz = none)) ∧ stQueue.boot = .running := by
  refine ⟨?_, ?_, ?_, ⟨rfl, ?_, ?_, ?_, ?_, rfl, ⟨rfl, rfl, ?_, ?_, ?_⟩⟩, ⟨rfl, ?_, ?_, ?_, rfl, ?_⟩, ⟨rfl, ?_, ?_, ?_, ?_, ?_, got_of ?_, good_of ?_⟩, ?_, ?_, ⟨?_, ?_, ?_⟩, rfl⟩ <;>
    decide +kernel

/-- A full ring, and one record too many. -/
theorem witness_QueueWrites : (63 : Nat) < 64 ∧ (64 : Nat) ≤ 64 ∧ (2 : Nat) < 2 ^ 32 ∧ ¬ 2 ^ queue1.logsz < (2 + 2 ^ 32 - queue1.head) % 2 ^ 32 ∧
    2 ^ queue1.logsz < (3 + 2 ^ 32 - queue1.head) % 2 ^ 32 := by decide +kernel

/-- Commands on channel 0 with gate 0 and destination byte 32 of tile 1: a copy of 4 bytes at 0x40000, and, of operation op, a walk
of one block of the tensor of lay1; an accumulator-load has no destination tile. -/
def copyCmd : Nat := 0x4B * 2 ^ 56 + 2 ^ 40 + 2 ^ 34 + 0x40000 * 2 ^ 64 + 32 * 2 ^ 128 + 2 ^ 174 + 4 * 2 ^ 224
def walkCmd (op : Nat) : Nat :=
  0x4B * 2 ^ 56 + op * 2 ^ 52 + 2 ^ 44 + 2 ^ 40 + 2 ^ 34 + 0x10000 * 2 ^ 64 + (if op = 3 then 0 else 32 * 2 ^ 128 + 2 ^ 174) + 2 ^ 224
/-- The machine whose channel 0 stands as f makes it, with command c at its head, and a gate in tile 1. -/
def stLift (c : Nat) (f : LiftQueue → LiftQueue) : State :=
  lifting (f { cmds := [⟨1, BitVec.ofNat 512 c⟩] }) (withMem [(0x10000, lay1), (0x30000, 0), (0x40000, 7)] (stT (toBytes gate1 16) (pkS [])))
/-- A command under way. -/
def begun (q : LiftQueue) : LiftQueue := { q with active := true, rec_ := lay1 }

theorem lift_team (c : Nat) (f : LiftQueue → LiftQueue) : (stLift c f).team? t0 = some (stLift c f).tm := rfl

/-- It is the turn of team 0 on channel 0, with command c of operation op under way. -/
def turnB (s : State) (op c : Nat) : Bool :=
  (s.tm.queue 0).cmds[0]?.map (·.blk.toNat) == some c && (s.tm.queue 0).active && lcOp c == op && s.tm.status == .resident
    && (s.tm.queue 0).rest.isEmpty && (s.heldHere s.tm (s.tm.queue 0)).isNone && s.mayBegin s.tm 0
    && (s.channelTurn s.tm.core 0).map (·.id) == some t0
    && (lcUnit c).all fun u => (s.unitTurn s.tm.core u).map (·.1) == some 0

theorem witness_LiftEvents :
    -- the start of a copy, of a walk, and a refusal
    (let s := stLift copyCmd id
     (s.tm.queue 0).cmds ≠ [] ∧ (s.tm.queue 0).halted = false ∧ (s.tm.queue 0).parked = false ∧ (s.tm.queue 0).active = false ∧
       s.tm.status = .resident ∧ s.tm.halt = none ∧ s.arrayTiles s.tm &&& lcAccTiles copyCmd s.tm.accs = 0 ∧ s.lcReason s.tm copyCmd none = none ∧ lcRec copyCmd = false) ∧
    (let s := stLift (walkCmd 1) id
     let r := s.channelRead s.tm 0 [((lcSrc (walkCmd 1) : Int), 128)]
     s.lcReason s.tm (walkCmd 1) none = none ∧ lcRec (walkCmd 1) = true ∧ r = (.ok (gotX r), r.2) ∧
       layBad (lcSrc (walkCmd 1)) (ofBytes (gotX r)) = false ∧ r.2.lcReason s.tm (walkCmd 1) (some (ofBytes (gotX r))) = none ∧
       s.arrayTiles s.tm &&& lcAccTiles (walkCmd 1) s.tm.accs = 0) ∧
    (let s := stLift 0 id
     s.lcReason s.tm 0 none = some 1 ∧ s.arrayTiles s.tm &&& lcAccTiles 0 s.tm.accs = 0) ∧
    -- blocks of each operation
    (let s := stLift copyCmd begun
     let r := s.channelRead s.tm 0 (runSegments copyCmd 0 4)
     turnB s 0 copyCmd = true ∧ lcRec copyCmd = false ∧ r = (.ok (gotX r), r.2) ∧ min (lcPlainBytes copyCmd) (0 + 4096) = 4) ∧
    (turnB (stLift (walkCmd 0) begun) 0 (walkCmd 0) = true ∧ lcRec (walkCmd 0) = true ∧
      turnB (stLift (walkCmd 1) begun) 1 (walkCmd 1) = true ∧ turnB (stLift (walkCmd 3) begun) 3 (walkCmd 3) = true) ∧
    (let s := stLift (walkCmd 2) begun
     let q := s.tm.queue 0
     turnB s 2 (walkCmd 2) = true ∧ s.tm.handle (lcDH (walkCmd 2)) = some hd1 ∧ s.storage hd1 = some al1 ∧
       (∀ o n, al1.poisonedIn o n = false) ∧ layCT q.rec_ = 15 ∧ layFmt q.rec_ ≠ 4 ∧
       ∃ bs, encodeBlock (layFmt q.rec_) (layCT q.rec_) (fun n => Tab.get [] q.table n) (q.book.map (·.toNat))
         (blockRows q.rec_ (itemCoord (walkCmd 2) 0)) (blockCols q.rec_ (itemCoord (walkCmd 2) 0))
         (fun k => ofBytes (s.tileBytes hd1 al1 ((sourceSpan q (walkCmd 2)).1 +
           4 * (k / blockCols q.rec_ (itemCoord (walkCmd 2) 0) * 2 ^ layLC q.rec_ + k % blockCols q.rec_ (itemCoord (walkCmd 2) 0))) 4)) = .ok bs) ∧
    -- a block delivered in steps, the first of two and the last; one that goes whole
    (let s := stLift copyCmd begun
     ((s.countGates copyCmd 0 (countSteps false 4) (s.named s.tm copyCmd)).any fun _ => true) = true ∧
     (∀ n ∈ s.named s.tm copyCmd, n.status = .resident) ∧ lcOp copyCmd = 0) ∧
    (let r := stLift copyCmd fun q => { begun q with rest := List.replicate 40 7 }
     (r.tm.queue 0).rest ≠ [] ∧ ((r.tm.queue 0).rest.take 32).length = 32 ∧
       ((r.countGates copyCmd 0 [32] (r.named r.tm copyCmd)).any fun _ => true) = true ∧
       (let w := stLift (walkCmd 1) fun q => { begun q with rest := [7, 7, 7, 7] }
        lcOp (walkCmd 1) = 1 ∧ (w.tm.queue 0).rest ≠ [] ∧ ((w.countGates (walkCmd 1) 0 [4] (w.named w.tm (walkCmd 1))).any fun _ => true) = true)) ∧
    -- completion, an error, a park, and a held part
    (let s := stLift copyCmd fun q => { begun q with drain := some 0 }
     let q := s.tm.queue 0
     q.drain = some 0 ∧ q.active = true ∧ q.halted = false ∧ q.parked = false ∧ q.held = [] ∧ q.stop = false ∧
       (((s.waitUntil 0).countGates copyCmd 1 [1] ((s.waitUntil 0).named s.tm copyCmd)).any fun _ => true) = true) ∧
    (let s := stLift copyCmd fun q => { begun q with held := [⟨0, 32, [7]⟩] }
     (s.tm.queue 0).held.find? (fun h => h.rank == 0) = some ⟨0, 32, [7]⟩ ∧ s.team? (s.tm.member 0) = some s.tm ∧ s.tm.status = .resident ∧
       ((s.countGates copyCmd 0 (countSteps false 1) [s.tm]).any fun _ => true) = true) ∧
    -- an error that waits for the end of a block, and at that end
    (let s := stLift copyCmd fun q => { begun q with rest := [7] }
     (s.tm.queue 0).rest ≠ [] ∧ (s.tm.queue 0).active = true ∧ ((stLift copyCmd begun).tm.queue 0).rest = [] ∧
       ((stLift copyCmd begun).tm.queue 0).held = []) := by
  refine ⟨⟨?_, ?_, ?_, ?_, ?_, ?_, ?_, ?_, ?_⟩, ⟨?_, ?_, got_of ?_, ?_, ?_, ?_⟩, ⟨?_, ?_⟩, ⟨?_, ?_, got_of ?_, ?_⟩, ⟨?_, ?_, ?_, ?_⟩,
    ⟨?_, ?_, ?_, fun _ _ => rfl, ?_, ?_, exists_ok ?_⟩, ⟨?_, ?_, ?_⟩, ⟨?_, ?_, ?_, ?_, ?_, ?_⟩, ⟨?_, ?_, ?_, ?_, ?_, ?_, ?_⟩, ⟨?_, rfl, ?_, ?_⟩, ⟨?_, ?_, ?_, ?_⟩⟩ <;>
    decide +kernel

/-- Context 2 under a freeze or a resume; the machine holds nothing of it. -/
def stFrz (f : FrzWork) : State := st0.onCtx 2 fun c => { c with frz := some f }
/-- A felt of context 2 with no queue, grid, team or pack, written out by R392: magic, version, 64 lanes, the length and the CRC. -/
def felt2 : Nat := 2 + 64 * 2 ^ 32 + 1 * 2 ^ 40 + 0xF317 * 2 ^ 48 + 128 * 2 ^ 64 + 0x0A9172FA * 2 ^ 384
/-- That felt at 0x50000 of context 1. -/
def feltAt (s : State) : State := withMem [(0x50000, felt2)] s

theorem crc_append (c : Nat) (a b : List Byte) : crcFrom c (a ++ b) = crcFrom (crcFrom c a) b := by simp [crcFrom]

/-- The CRC of the felt with its CRC field zero. -/
theorem felt_crc : crc32 (toBytes (felt2 % 2 ^ 384) 16 ++ List.replicate 112 0) = 0x0A9172FA := by
  have e : (List.replicate 112 0 : List Byte) = List.replicate 16 0 ++ (List.replicate 16 0 ++ (List.replicate 16 0 ++ (List.replicate 16 0 ++
    (List.replicate 16 0 ++ (List.replicate 16 0 ++ List.replicate 16 0))))) := by decide +kernel
  rw [crc32, e]
  simp only [crc_append]
  rw [show crcFrom 0xFFFFFFFF (toBytes (felt2 % 2 ^ 384) 16) = 1547377133 by decide +kernel]
  rw [show crcFrom 1547377133 (List.replicate 16 0) = 691559385 by decide +kernel]
  rw [show crcFrom 691559385 (List.replicate 16 0) = 3050730013 by decide +kernel]
  rw [show crcFrom 3050730013 (List.replicate 16 0) = 2805007128 by decide +kernel]
  rw [show crcFrom 2805007128 (List.replicate 16 0) = 3707176656 by decide +kernel]
  rw [show crcFrom 3707176656 (List.replicate 16 0) = 2312481944 by decide +kernel]
  rw [show crcFrom 2312481944 (List.replicate 16 0) = 1297763849 by decide +kernel]
  rw [show crcFrom 1297763849 (List.replicate 16 0) = 4117662981 by decide +kernel]
  rfl

/-- A resume from it. -/
def resume1 : FrzWork := { frozen1 with isResume := true, felt := 0x50000 }
/-- The reads of the felt. -/
def feltRead (s : State) : LiftRead × State := s.homeRead (feltReader 2) 0 1 [((0x50000 : Nat), 128)]

theorem witness_FreezeEvents :
    ((stFrz frozen1).ctx 2).frz = some frozen1 ∧ frozen1.isResume = false ∧ frozen1.phase = 0 ∧
    (let f := { frozen1 with phase := 1 }
     ((stFrz f).ctx 2).frz = some f ∧ (stFrz f).frzReady 2 f = true) ∧
    (let f := { frozen1 with phase := 2 }
     ((stFrz f).ctx 2).frz = some f ∧ (stFrz f).frzReady 2 f = true ∧ (stFrz f).collsOpen 2 = false ∧
       -- with a group still forming, T_fab after fulling began
       (let s := (late (stFrz f)).onGroup 2 0 fun _ => { state := 1 }
        (s.ctx 2).frz = some f ∧ s.frzReady 2 f = true ∧ s.collsOpen 2 = true)) ∧
    (let f := { frozen1 with phase := 3 }
     ((stFrz f).ctx 2).frz = some f ∧ (stFrz f).frzReady 2 f = true ∧ f.failed = false ∧ (stFrz { f with failed := true }).frzReady 2 { f with failed := true } = true) ∧
    (let f := { frozen1 with phase := 4 }
     ((stFrz f).ctx 2).frz = some f ∧ (stFrz f).requests.any (fun r => r.pack == feltWriter 2) = false) ∧
    (let f := { resume1 with phase := 1 }
     ((stFrz f).ctx 2).frz = some f ∧ f.isResume = true) ∧
    (let s := feltAt (stFrz resume1)
     let h := gotX (feltRead s)
     let t := (feltRead s).2
     let bs := gotX (feltRead t)
     let u := (feltRead t).2
     (s.ctx 2).frz = some resume1 ∧ feltRead s = (.ok h, t) ∧ numAt h 0 8 / 2 ^ 48 % 2 ^ 16 = 0xF317 ∧ numAt h 0 8 / 2 ^ 40 % 2 ^ 8 ≤ 1 ∧
       numAt h 0 8 / 2 ^ 32 % 2 ^ 8 = 64 ∧ numAt h 8 8 = 128 ∧ feltRead t = (.ok bs, u) ∧ 128 ≤ bs.length ∧
       bs.take 48 ++ ((bs.drop 48).take 4).map (fun _ => 0) ++ bs.drop 52 = toBytes (felt2 % 2 ^ 384) 16 ++ List.replicate 112 0 ∧
       numAt h 48 4 = 0x0A9172FA ∧
       ((readBody u 2 h (bs.drop 128)).any fun f => f.grids.isEmpty && !u.feltBusy 2 f.queues) = true) := by
  refine ⟨?_, ?_, ?_, ⟨?_, ?_⟩, ⟨?_, ?_, ?_, ⟨?_, ?_, ?_⟩⟩, ⟨?_, ?_, ?_, ?_⟩, ⟨?_, ?_⟩, ⟨?_, ?_⟩, ⟨?_, got_of ?_, ?_, ?_, ?_, ?_, got_of ?_, ?_, ?_, ?_, ?_⟩⟩ <;> decide +kernel
/-- A request of the first pack to device 3, and the packets that answer it. -/
def ask3 : Packet := { src := 0, dst := 3, vl := 0, select := 0, slot := 0, seq := 9, deadline := 500, body := .load 1 0x40000 0 }
def req3 : Request := { seq := 9, pack := p0, op := 3, line := 0x800, deadline := 500, pkt := ask3 }
def done3 : Packet := { ask3 with src := 3, dst := 0, vl := 1, body := .storeDone 77 }
/-- The machine with that request, and with a request of device 3 answered before. -/
def stAsk : State := { st0 with requests := [req3], accepted := [{ src := 0, vl := 0, seq := 9, until_ := 500, reply := some done3 }] }

theorem witness_FabricEvents :
    ({ st0 with routing := { incoming := some 3 } } : State).routing.incoming = some 3 ∧
    ({ st0 with routing := { old := some (3, 8) } } : State).routing.old = some (3, 8) ∧
    -- a copy of two branches; links that are up, down and paused; a branch, a switch
    (let k : McCopy := { id := 4, pkt := ask3, ctx := 1, group := 0, seq := 1, pending := [1, 2] }
     let s : State := { st0 with copies := [k] }
     s.copies.find? (fun c => c.id == 4) = some k ∧ k.injected = true ∧ ({ k with injected := false } : McCopy).injected = false ∧ k.pending.contains 1 = true ∧ (s.copies.filter fun c => c.pending.contains 2) = [k] ∧
       (2 : Nat) < 2 ^ 17) ∧
    ((23 : Nat) < 24 ∧ st0.canInject ask3 = true ∧
      ({ st0 with links := (List.range 24).map fun n => (n, { lanes := 0 }) } : State).canInject ask3 = false) ∧
    -- a request before T_fab ÷ 8 before its deadline and after it
    ((stAsk.waitUntil (req3.sent + stAsk.tfabTicks / 8)).gtc = 2500 ∧
      ({ req3 with deadline := 2501 } : Request).deadline = 2501 ∧ req3.deadline ≤ 2500) ∧
    -- a packet that comes after an earlier one of its slot and line that is not answered, and one of another line
    (let s : State := { st0 with accepted := [{ src := 0, vl := 0, seq := 8, until_ := 500, reply := none, slot := 0, line := some 0x800 }] }
     s.behind ask3 = true ∧ s.behind { ask3 with body := .load 1 0x40080 0 } = false ∧ s.closedFor ask3.body = false ∧
       (s.accepted.filter fun a => decide (s.gtc ≤ a.until_)).find? (fun a => a.src == ask3.src && a.vl == ask3.vl && a.seq == ask3.seq) = none) ∧
    ({ ask3 with body := .decision 1 0 1 0 } : Packet).body = .decision 1 0 1 0 ∧ (st0.group 1 0).state ≠ 1 ∧ ({ ask3 with body := .ack } : Packet).body = .ack ∧
    -- a packet of which the one before it has not arrived, and one not acknowledged, before and after its deadline
    (st0.behind { ask3 with prior := some (8, 500) } = true ∧ (late st0).behind { ask3 with prior := some (8, 500) } = false) ∧
    (let s : State := { st0 with unacked := [{ pkt := { ask3 with deadline := 3000 }, due := [3], sent := 0 }] }
     s.requests.find? (fun r => r.seq == 9) = none ∧ s.unacked.find? (fun x => x.pkt.seq == 9) = some { pkt := { ask3 with deadline := 3000 }, due := [3], sent := 0 } ∧
       (s.waitUntil (0 + s.tfabTicks / 8)).gtc < 3000 ∧ ask3.deadline ≤ (s.waitUntil (0 + s.tfabTicks / 8)).gtc) ∧
    stAsk.requests.find? (fun r => r.seq == 9) = some req3 ∧ respEnd done3.body = some (.stored 77) ∧
    stAsk.requests.find? (fun r => r.seq == done3.seq && r.pkt.dst == done3.src) = some req3 ∧
    stAsk.gtc ≤ req3.deadline ∧ req3.deadline < (late stAsk).gtc ∧ respEnd ask3.body = none ∧
    ((stAsk.accepted.filter fun a => decide (stAsk.gtc ≤ a.until_)).find? fun a => a.src == ask3.src && a.vl == ask3.vl && a.seq == ask3.seq).any
      (fun a => a.reply == some done3) = true ∧
    (st0.accepted.filter fun a => decide (st0.gtc ≤ a.until_)).find? (fun a => a.src == ask3.src && a.vl == ask3.vl && a.seq == ask3.seq) = none ∧
    (32 : Nat) ≤ st0.sysskew.toNat % 2 ^ 16 ∧ st0.sysskew.toNat % 2 ^ 16 < 33 := by
  refine ⟨rfl, rfl, ⟨?_, ?_, ?_, ?_, ?_, ?_⟩, ⟨?_, ?_, ?_⟩, ⟨?_, ?_, ?_⟩, ⟨?_, ?_, ?_, ?_⟩, rfl, ?_, rfl, ⟨?_, ?_⟩, ⟨?_, ?_, ?_, ?_⟩, rfl, rfl, rfl, ?_, ?_, rfl, ?_, ?_, ?_, ?_⟩ <;> decide +kernel

/-- Collective 1 of group 0, undecided and decided. -/
def coll1 : Coll := { seq := 1, desc := 0, addr := 0x40000, issuer := p0, start := 0 }
def stColl (c : Coll) : State := st0.onGroup 1 0 fun _ => { state := 2, members := [0, 1], colls := [c] }

/-- An all-reduce of one .u32 element at 0x40000 into 0x40080, with 5 in it, and the machine of rank 0 of two that runs it. -/
def desc2 : Nat := 0x43 * 2 ^ 56 + 2 * 2 ^ 52 + 4 * 2 ^ 44 + 2 ^ 128 + 0x40000 * 2 ^ 192 + 0x40080 * 2 ^ 256
def stReduce (d : Nat) (xs : List (Nat × Nat)) : State :=
  (withMem xs st0).onGroup 1 0 fun _ => { state := 2, members := [0, 1], colls := [{ coll1 with desc := BitVec.ofNat 512 d }] }

theorem witness_CollectiveEvents :
    (let s := stReduce desc2 [(0x40000, 5), (0x40080, 0)]
     let r := s.ownElems 1 0x40000 1 4
     s.coll? 1 0 1 = some { coll1 with desc := BitVec.ofNat 512 desc2 } ∧ s.ownRank 1 0 = some 0 ∧ (s.group 1 0).state = 2 ∧ cdOp desc2 = 2 ∧
       cdSrc desc2 = 0x40000 ∧ cdReads desc2 2 = 1 ∧ cdSize desc2 = 4 ∧ contributes desc2 0 = true ∧ r.1.isOk = true ∧
       arrived desc2 2 0 [[], [7]] = true ∧ arrived desc2 2 0 [[], []] = false ∧
       ((s.group 1 0).colls.find? fun k => k.agree.verdict.isNone && !k.ended).map (·.seq) = some 1 ∧
       -- DST is there, and the whole of it below 2^45
       cdDst desc2 + 4 ≤ 2 ^ 45 ∧ (s.ownWrite 1 (cdDst desc2) (toBytes 12 4) [0] 0).1.isNone = true ∧ (0 : Nat) < cdCount desc2) ∧
    -- a barrier, to which nobody contributes; a page that is not there
    (contributes (0x43 * 2 ^ 56) 0 = false ∧ arrived (0x43 * 2 ^ 56) 2 0 [[], []] = true ∧ cdOp (0x43 * 2 ^ 56) = 0) ∧
    (let s := stReduce desc2 []
     (s.ownElems 1 0x40000 1 4).1.isOk = false) ∧
    -- a broadcast from rank 1 has not arrived at rank 0
    (contributes (desc2 - 2 ^ 52 + 1) 0 = false ∧ arrived (desc2 - 2 ^ 52 + 1) 2 0 [[], []] = false) ∧
    ((stColl coll1).group 1 0).state = 2 ∧ (stColl coll1).coll? 1 0 1 = some coll1 ∧
    (stColl { coll1 with agree := { verdict := some (0, 0, 0) } }).coll? 1 0 1 = some { coll1 with agree := { verdict := some (0, 0, 0) } } ∧
    -- reports of a collective to come, and of the one under way, and of a forming group
    (((stColl coll1).onGroup 1 0 fun k => { k with count := 1 }).group 1 0).ahead 2 = true ∧
    (((stColl coll1).onGroup 1 0 fun k => { k with count := 1 }).group 1 0).ahead 1 = false ∧
    ((stColl coll1).group 1 0).lone = none ∧ ((st0.onGroup 1 0 fun _ => { state := 2, lone := some 5, colls := [coll1] }).group 1 0).lone ≠ none ∧
    ((st0.onGroup 1 0 fun _ => { state := 1 }).group 1 0).lone = none ∧ ((st0.onGroup 1 0 fun _ => { state := 1, lone := some 5 }).group 1 0).lone ≠ none ∧
    ((st0.onGroup 1 0 fun _ => { state := 1 }).group 1 0).state = 1 ∧ ((st0.onGroup 1 0 fun _ => { state := 1 }).group 1 0).ahead 0 = false ∧
    (1 : Nat) < 2 ^ 8 ∧ (0 : Nat) = 0 ∧ (1 : Nat) ≠ 0 := by
  refine ⟨⟨?_, ?_, ?_, ?_, ?_, ?_, ?_, ?_, ?_, ?_, ?_, ?_, ?_, ?_, ?_⟩, ⟨?_, ?_, ?_⟩, ?_, ⟨?_, ?_⟩, ?_, ?_, ?_, ?_, ?_, ?_, ?_, ?_, ?_, ?_, ?_, ?_, ?_, ?_⟩ <;>
    decide +kernel

theorem witness_CollectiveResults :
    (stColl { coll1 with agree := { verdict := some (0, 0, 0) } }).coll? 1 0 1 = some { coll1 with agree := { verdict := some (0, 0, 0) } } ∧
    ((stColl coll1).group 1 0).state = 2 ∧ ((cdFmt 0).isNaN 0x7FC00001 = true ∧ (cdFmt 1).isNaN 0x7FC1 = true ∧ (cdFmt 2).isNaN 0x7E01 = true) ∧
    (3 : Nat) ≤ 3 ∧ (2 : Nat) < 3 ∧
    -- ranks 3 and 5 of 6 failed, 3 first of them; all of two have completed, and one of two
    (∀ r x, (r, x) ∈ [(5, 2), (3, 4), (0, 0)] → x ≠ 0 → 3 < r ∨ (3 = r ∧ (4 : Nat) = x)) ∧
    (∀ r x, (r, x) ∈ [(1, 0), (0, 0)] → (x : Nat) = 0 ∧ r < 2) ∧
    -- the first unit has decided, the other not, and one unit is out of reach
    (verdictOf [(0, 0), (1, 0)] 2 = some (0, 0, 0x3FFFF) ∧ verdictOf [(0, 0)] 2 = none ∧
      ({ reports := [(0, 0, 0)] } : Agreement).verdict = none ∧ (∀ x, (0, 1, x) ∉ [(0, 0, (0 : Nat))]) ∧
      -- a form that differs from the first one heard
      (([(0, [2, 5])] : List (Nat × List Nat)).find? fun f => f.1 == 0).any (fun f => f.2 != [2, 6]) = true) := by
  refine ⟨?_, ?_, ?_, ?_, ?_, ?_, ?_, ?_, ?_, ?_, ?_, ?_⟩ <;>
    first | decide +kernel | (intro r x h; simp only [List.mem_cons, Prod.mk.injEq, List.not_mem_nil, or_false] at h; omega) | simp

/-- The lines of memory that the host may reach in context 1, and those that it may not. -/
theorem witness_HostEvents :
    let s := withMem [(0x40000, 7)] st0
    keyContext 0x10000 = some 1 ∧ (0x10000 : Word) ≠ 0xFFFF0001 ∧ (0x10000 : Word) ≠ 0xFFFF0002 ∧ (0x40000 : Nat) + 4 ≤ 2 ^ 45 ∧
    (s.hostMayAll 1 true (lineSpan 0x40000 4)).1 = true ∧ (st0.hostMayAll 1 true (lineSpan 0x40000 4)).1 = false ∧
    ((s.virtRead 1 0x40000 4 (lineSpan 0x40000 4)).1.any fun _ => true) = true ∧ (st0.virtRead 1 0x40000 4 (lineSpan 0x40000 4)).1 = none ∧
    (0 : Nat) + 8 ≤ st0.capacity ∧ st0.capacity < st0.capacity - 8 + 9 ∧ st0.down.contains 0 = false ∧
    (let r : CompRec := { conn := 2, queue := 0, hva := 0, key := 0, rec_ := 0 }
     let s : State := { st0 with out := [.record r, .ack 1, .record r], past := 1 }
     sentRecord 2 0 (s.out.drop s.past) = some r ∧ st0.heldRecs.contains r = false ∧
       (st0.heldRecs.filter fun r => r.conn == 2).length < 64) ∧
    (let r : Report := { seq := 4, kind := 1, ctx := 1 }
     ({ st0 with open_ := [(r, .pack p0)] } : State).openReport 1 4 = some (r, .pack p0)) ∧
    (2 ^ 16 ∣ 0 ∧ 2 ^ 16 ∣ 65536 ∧ ¬ 2 ^ 16 ∣ 1 ∧ 2 ^ 7 ∣ 128 ∧ ¬ 2 ^ 7 ∣ 64) := by
  refine ⟨?_, ?_, ?_, ?_, ?_, ?_, ?_, ?_, ?_, ?_, ?_, ⟨?_, ?_, ?_⟩, ?_, ?_⟩ <;> decide +kernel

/-- An image of no bytes is accepted or it is not: which, the model leaves open (log 9). -/
theorem witness_PowerEvents :
    (799 : Nat) < 800 ∧ (800 : Nat) ≤ 800 ∧ (255 : Nat) < 256 ∧ (256 ≤ (256 : Nat) ∧ (65535 : Nat) ≤ 65535) ∧ (65535 : Nat) < 65536 ∧
    State.reset.boot = .waiting ∧ ([] : List Byte).length ≤ 2 ^ 26 ∧
    (Config.imageAccepted [] = true ∨ Config.imageAccepted [] = false) ∧ State.reset.training = [] ∧
    ({ st0 with training := [{ site := 0, serial := 0, delays := 0, refs := 0 }] } : State).training ≠ [] ∧ (st0.cores.map (·.1)).Nodup ∧
    (∃ ts, ({ st0 with flash := some (ts, trainCrc ts) } : State).flash = some (ts, trainCrc ts) ∧
      (ts.map fun k => (k.site, k.serial)) = st0.sites.map fun k => (k, Tab.get 0 st0.serials k)) ∧
    -- a row whose count has reached the threshold, and a bank in back-off
    (let s : State := { st0 with acts := List.replicate 2048 7 }
     s.rowThreshold ≤ s.rowCount (Config.dramRow 7)) ∧
    (({ st0 with backoff := [(5, 350)] } : State).backoff.any fun x => x.1 == 5) = true ∧
    (st0.backoff.all fun x => x.1 != 5) = true ∧
    (let s : State := { st0 with backoff := [(5, 350)] }
     s.backoff.find? (fun x => x.1 == 5) = some (5, 350) ∧ s.again.contains 5 = false ∧ s.gtc < 350 ∧ (5, 350).2 ≤ (late s).gtc ∧
       ({ s with again := [5] } : State).again.contains 5 = true ∧ s.endBackoffs.backoff = [(5, 350)]) ∧
    State.reset.boot ≠ .off ∧ ({ st0 with boot := .off } : State).boot = .off ∧
    (let s := st0.onCore 3 fun k => { k with hot := true }
     [0, 0, 0, 9][3]? = some 9 ∧ s.working 3 = true ∧ (s.core 3).hot = true ∧ (List.replicate 16 7)[15]? = some 7) := by
  refine ⟨?_, ?_, ?_, ?_, ?_, ?_, ?_, (by cases Config.imageAccepted [] <;> simp), ?_, ?_, ?_,
    ⟨st0.sites.map fun k => { site := k, serial := Tab.get 0 st0.serials k, delays := 0, refs := 0 }, rfl, ?_⟩, ?rows, ?_, ?_, ⟨?_, ?_, ?_, ?_, ?_, ?_⟩,
    ?_, ?_, ⟨?_, ?_, ?_, ?_⟩⟩
  case rows =>
    have e : (List.replicate 2048 7).filter (fun a => Config.dramRow a == Config.dramRow 7) = List.replicate 2048 7 := by
      rw [List.filter_eq_self]
      intro a ha
      simp [List.eq_of_mem_replicate ha]
    show 2048 ≤ ((List.replicate 2048 7).filter fun a => Config.dramRow a == Config.dramRow 7).length
    exact Nat.le_of_eq ((congrArg List.length e).trans List.length_replicate).symm
  all_goals decide +kernel

/-! ### The machine as a whole -/

theorem witness_EncodingRoundTrip : isWord (.ffma true 63 62 61 true false 3) = true ∧ wellFormed (.ffma true 63 62 61 true false 3) = true := by
  decide

theorem witness_EncodingUnique : decode 0x80282101 = .ok (.sadd true 5 1 2) ∧ decode 0x3E10A080 = .ok (.talloc false 2 5 1) := by decide

/-- Whether the fetch of s gives word w. -/
def fetches (s : State) (w : Word) : Bool := match s.fetch.1 with | .word x => x == w | _ => false

theorem fetch_of {s : State} {w : Word} (h : fetches s w = true) : s.fetch = (.word w, s.fetch.2) := by
  unfold fetches at h
  generalize s.fetch = x at *
  obtain ⟨a, u⟩ := x
  cases a <;> simp_all

theorem witness_StepRunsWord :
    let s := State.reset.withFetchWord 32 0x80282101
    let t := ({ s with gtc := s.gtc + s.pace, turns := s.turns.drop 1 } : State).timers
    s.turns = .issue :: s.turns.drop 1 ∧ t.boot = .running ∧ t.pk.status = .running ∧ t.pk.parkDue = false ∧ t.fetch = (.word 0x80282101, t.fetch.2) ∧
    decode 0x80282101 = .ok (.sadd true 5 1 2) ∧ eccScalar t.fetch.2.pk (.sadd true 5 1 2) = none ∧
    eccLanes t.fetch.2.tm t.fetch.2.pk (.sadd true 5 1 2) = 0 ∧ (∃ n, exec (.sadd true 5 1 2) t.fetch.2 = .next n) := by
  refine ⟨?_, ?_, ?_, ?_, fetch_of ?_, ?_, ?_, ?_, _, rfl⟩ <;> decide +kernel

/-- The last word below 2^45, on a line at its home. -/
theorem witness_FetchReadsHome :
    let s := withMem [(2 ^ 45 - 128, 0)] (st { pkS [] with pc := 2 ^ 45 - 4 })
    let h := memLineAt (2 ^ 45 - 128) 0
    s.pk.pc.toNat < 2 ^ 45 ∧ s.pk.pc.toNat % 4 = 0 ∧ s.l2.find? (fun h => h.ctx == s.tm.ctx && h.line == s.pk.pc.toNat / 128) = some h ∧
    (h.settle s.gtc).perm.x = true ∧ (h.settle s.gtc).poison = false ∧ s.pk.declined ≠ some (3, s.pk.pc.toNat) := by
  refine ⟨?_, ?_, ?_, ?_, ?_, ?_⟩ <;> decide +kernel

theorem witness_MemoryStaysCanonical : MemoryWf State.reset ∧ ∃ t, step State.reset = .next t := ⟨rfl, _, rfl⟩

/-- Memories in their form; a state with a freed register, whose step answers a next state. -/
theorem witness_ReadAfterWrite : Memory.wf [] = true ∧ Memory.wf [(3, 1), (4, 9)] = true ∧ (st0.pk.isLive 5 = false ∧ st0.pk.v 5 = 0) ∧
    (∀ p ∈ State.reset.allPacks, FreedReadZero p) ∧ ∃ t, step State.reset = .next t := by
  refine ⟨by decide, by decide, ⟨by decide, by decide +kernel⟩, ?_, _, rfl⟩
  intro p hp
  simp only [State.allPacks, State.reset, List.mem_cons, List.not_mem_nil, or_false] at hp
  subst hp
  intro r _ _
  rfl

/-- What reset states has no hypothesis; queues and contexts are those of reset. -/
theorem witness_ResetState : State.reset.queue 63 = {} ∧ (State.reset.ctx 65535).ptbase = 0 := by decide +kernel

/-- Every word stands in the table of R39: two words of different majors. -/
theorem witness_DecodingWords : decode 0x78202282 = .ok (.ssrd false 4 1 5) ∧ decode 0x0E800005 = .illegal 5 := by decide
/-! ## The assembler (R60-R66) -/

/-- The words of the code of a source at base 4096; none where it is rejected. -/
def vkWords (src : String) : List Nat :=
  match vkas src.toList 4096 none with
  | .ok i => (List.range (i.code.length / 4)).map fun k => ofBytes ((i.code.drop (4 * k)).take 4)
  | .error _ => []
/-- The words of its data. -/
def vkData (src : String) : List Nat :=
  match vkas src.toList 4096 none with
  | .ok i => (List.range (i.data.length / 4)).map fun k => ofBytes ((i.data.drop (4 * k)).take 4)
  | .error _ => []
/-- The line that is rejected and why. -/
def vkWhy (src : String) : Option (Nat × VkError) :=
  match vkas src.toList 4096 none with
  | .ok _ => none
  | .error e => some (e.line, e.why)

/-- The words of the example of R63. -/
theorem test_vkas_words :
    vkWords ".kernel k\n.role r, general, 1, 8, 0\n.entry r\nvadd v3, v1!, v2\nmode .f32, rne, ~p3, sat ; x\nhold ld=0\n.endk" =
      [0x12182140, 0x0B031C00, 0x0C0FFFFF] := by decide +kernel

/-- The code table of R271: its header has K = 3. -/
theorem test_vkas_ctable :
    vkData ".data\n.ctable t, 4\n0, 0, 1\n0x38, 0, 2\n0xB8, 0, 3\n0x30, 3, 3\n" =
      [0xC7043000, 0x00000001, 0x00380002, 0x00B80003, 0x00301803] := by decide +kernel

/-- A control transfer without `|` is rejected (R63). -/
theorem test_vkas_run_end : vkWhy ".kernel k\n.role r, general, 1, 8, 0\n.entry r\nl: bra l\n.endk" = some (4, .runEnd) := by decide +kernel

/-- A run that alignment makes longer than 24 words is rejected (R63, R65). -/
theorem test_vkas_run_length :
    vkWhy ".kernel k\n.role r, general, 1, 8, 0\n.entry r\nnop\n.align 128\nexit |\n.endk" = some (5, .runLength) := by decide +kernel

/-- A register beyond the role's count is rejected (R63). -/
theorem test_vkas_register : vkWhy ".kernel k\n.role r, general, 1, 8, 0\n.entry r\nvlane v8\n.endk" = some (4, .register) := by
  decide +kernel

/-- Dwords 0, 1, 8 and 9 of a launch record (R343, R345). -/
theorem test_vkas_launch :
    let d := vkData
      ".kernel k\n.role r, copy, 2, 16, 8\n.tiles 4096, 3\n.entry r\nexit |\n.endk\n.data\n.launch k, grid=(2,3), gang=1"
    (d.take 4, (d.drop 16).take 4) = ([0, 0x4E011810, 0x00030002, 1], [0x1000, 0, 8, 0x42400000]) := by decide +kernel

end

end Sys2Proof.Tests
end

section
/-! SUPPORT. The instruction words of spec/02: the mode register (R46, R111), and the words that R58 confines to a role or to a
privileged pack. -/

namespace Sys2Proof.Proofs

open Sys2Proof.Machine Sys2Proof.Safety

/-! ## The mode register (R46, R111) -/

/-- MODEG names no vector register. -/
theorem consume_modeg (p : Pack) (e : Bool) (d : BitVec 6) : p.consume (.modeg e d) = p := consume_none p _ rfl rfl

/-- MODES names no vector register. -/
theorem consume_modes (p : Pack) (e : Bool) (a : BitVec 6) : p.consume (.modes e a) = p := consume_none p _ rfl rfl

/-- MODE names no vector register. -/
theorem consume_mode (p : Pack) (e : Bool) (t : BitVec 4) (r : BitVec 3) (g n : BitVec 1) (q : BitVec 5) (u : BitVec 1) :
    p.consume (.mode e t r g n q u) = p := consume_none p _ rfl rfl

/-- A word that leaves its pack's sources alone and writes the mode register. -/
theorem setsMode {i : Instr} {s : State} {f : Pack → BitVec 15} (h : Issues i s) (hc : s.pk.consume i = s.pk)
    (he : exec i s = .next (packWord i s fun p q => { q with mode := f p })) :
    PackOnly i s fun p q => q = { stepped p q with mode := f p } := by
  refine packWord_packOnly h he ?_ ?_
  · rw [hc]; exact ⟨rfl, rfl, rfl, rfl, rfl⟩
  · intro q pc rp st si pp
    subst q
    rw [hc]; rfl

/-- The values that the mode register can hold (R46). -/
theorem modeOk_iff (x : DWord) :
    modeOk x = true ↔ x.toNat < 2 ^ 15 ∧ x.toNat / 2 ^ 11 % 16 < 12 ∧ x.toNat / 2 ^ 8 % 8 < 5 := by
  have hx := x.isLt
  simp only [modeOk, bitsOf, bitsAt, Nat.shiftRight_eq_div_pow, Bool.and_eq_true, beq_iff_eq, decide_eq_true_eq]
  omega

/-- MODES of a value that the mode register can hold writes it. -/
theorem exec_modes_of_modeOk {e : Bool} {a : BitVec 6} {s : State} (h : Issues (.modes e a) s)
    (hx : modeOk (s.pk.s a.toNat) = true) :
    exec (.modes e a) s = .next (packWord (.modes e a) s fun p q => { q with mode := (p.s a.toNat).setWidth 15 }) := by
  show Host.Outcome.next _ = _
  rw [packWord, issueWord_done h (if_pos hx), issueWord_done h rfl]

/-- MODES of any other value is ILLEGAL. -/
theorem traps_modes_of_not_modeOk {e : Bool} {a : BitVec 6} {s : State} (h : Issues (.modes e a) s)
    (hx : ¬ modeOk (s.pk.s a.toNat) = true) : Traps (.modes e a) s (illegal (encode (.modes e a)) 4) :=
  congrArg Host.Outcome.next (issueWord_trap h (if_neg hx))

/-- Fields joined, as a number. -/
theorem toNat_append_eq_add {n m : Nat} (x : BitVec n) (y : BitVec m) : (x ++ y).toNat = x.toNat * 2 ^ m + y.toNat := by
  rw [BitVec.toNat_append, ← Nat.shiftLeft_add_eq_or_of_lt y.isLt, Nat.shiftLeft_eq]

/-- The mode register of MODE, as the sum of its fields in their places. -/
theorem modeWord_eq (t : BitVec 4) (r : BitVec 3) (g n : BitVec 1) (p : BitVec 5) (u : BitVec 1) :
    modeWord t r g n p u = BitVec.ofNat 15
      (t.toNat * 2 ^ 11 + r.toNat * 2 ^ 8 + g.toNat * 2 ^ 7 + n.toNat * 2 ^ 6 + p.toNat * 2 + u.toNat) := by
  apply BitVec.eq_of_toNat_eq
  simp only [modeWord, toNat_append_eq_add, BitVec.toNat_ofNat]
  omega

/-- The mode register of MODE stands in bits 24:10 of its word (R111). -/
theorem modeWord_eq_field (e : Bool) (t : BitVec 4) (r : BitVec 3) (g n : BitVec 1) (p : BitVec 5) (u : BitVec 1) :
    modeWord t r g n p u = (encode (.mode e t r g n p u)).extractLsb' 10 15 := by
  apply BitVec.eq_of_toNat_eq
  simp only [modeWord, encode, BitVec.extractLsb'_toNat, toNat_append_eq_add, Nat.shiftRight_eq_div_pow, BitVec.toNat_ofNat]
  omega

/-- A pack starts with its mode register 0 (R46). -/
theorem mode_of_mem_newPacks {g : Grid} {t : TeamId} {roles : List Role} {now : Nat} {k : Pack}
    (hk : k ∈ newPacks g t roles now) : k.mode = 0 := by
  obtain ⟨l, hl, hkl⟩ := List.mem_flatten.mp hk
  obtain ⟨_, _, rfl⟩ := List.mem_mapIdx.mp hl
  obtain ⟨_, _, rfl⟩ := List.mem_map.mp hkl
  rfl

/-- Settles O5: each word writes what it names, and the fields of MODE are joined in the order in which its word holds them. -/
theorem modeWords : Obligations.ModeWords := by
  refine ⟨fun e d s h => ?_, fun e a s h => ?_, fun e t r g n p u s h => ?_, fun _ _ _ _ _ => mode_of_mem_newPacks⟩
  · exact writesScalar h rfl (consume_modeg ..) rfl
  · dsimp only
    split
    next hx => exact setsMode h (consume_modes ..) (exec_modes_of_modeOk h ((modeOk_iff _).mpr hx))
    next hx => exact traps_modes_of_not_modeOk h fun ho => hx ((modeOk_iff _).mp ho)
  · dsimp only
    rw [← modeWord_eq]
    exact ⟨setsMode h (consume_mode ..) rfl, modeWord_eq_field e t r g n p u⟩

/-! ## Every word goes through the checks of R59 -/

/-- The meaning of a word is given by way of the checks and interlocks of its issue. -/
theorem exec_eq_issueWord {i : Instr} (hi : isWord i = true) (s : State) : ∃ body, exec i s = .next (issueWord i s body) := by
  cases i <;> cases hi <;> exact ⟨_, rfl⟩

/-- A word with a defect raises its fault and has no other effect (R40). -/
theorem traps_of_checkWord {i : Instr} {s : State} {f : FaultRec} (hi : isWord i = true) (hf : checkWord s.tm s.pk i = some f) :
    Traps i s f := by
  obtain ⟨body, he⟩ := exec_eq_issueWord hi s
  rw [Traps, he, issueWord, hf]

/-- The checks that are left of a word that is not the 25th of its run and names what it may. -/
theorem checkWord_of_names {t : Team} {p : Pack} {i : Instr} (hr : p.runpos ≠ 24) (hb : badTarget p i = false)
    (hn : namesOk (roleOf t p).vregs t.accs p.ty i = true) :
    checkWord t p i =
      if roleOk (roleOf t p).kind i = false then some (illegal (encode i) 8)
      else if isPrivileged i = true ∧ p.priv = false then some { precise cPRIV 0 with aux := (encode i).setWidth 64 }
      else none := by
  simp [checkWord, hr, hb, hn, dw]

/-! ## Privileged words (R58) -/

/-- The privileged words: SSRD, SSWR, HALT, the DLOG words and FRZ. -/
inductive PrivilegedWord : Instr → Prop
  | ssrd e d a b : PrivilegedWord (.ssrd e d a b)
  | sswr e a b : PrivilegedWord (.sswr e a b)
  | halt e a : PrivilegedWord (.halt e a)
  | dlogStat e d a : PrivilegedWord (.dlogStat e d a)
  | dlogStart e d a : PrivilegedWord (.dlogStart e d a)
  | dlogStop e d a : PrivilegedWord (.dlogStop e d a)
  | dlogAck e d a : PrivilegedWord (.dlogAck e d a)
  | dlogCons e d a : PrivilegedWord (.dlogCons e d a)
  | frz e d a : PrivilegedWord (.frz e d a)

theorem PrivilegedWord.isWord {i : Instr} (h : PrivilegedWord i) : isWord i = true := by cases h <;> rfl

theorem PrivilegedWord.badTarget {i : Instr} (h : PrivilegedWord i) (p : Pack) : badTarget p i = false := by cases h <;> rfl

/-- A privileged word names scalar registers alone. -/
theorem PrivilegedWord.namesOk {i : Instr} (h : PrivilegedWord i) (n m ty : Nat) : namesOk n m ty i = true := by cases h <;> rfl

/-- Those of major 0x3D are DLOG and FRZ. -/
theorem PrivilegedWord.majorOf {i : Instr} (h : PrivilegedWord i) : majorOf i = 0x3C ∨ majorOf i = 0x3D := by
  cases h <;> simp (disch := decide) only [Machine.majorOf, fld, encode, Laws.fld_hi, Laws.fld_lo, Nat.reduceSub] <;> decide

theorem PrivilegedWord.isPrivileged {i : Instr} (h : PrivilegedWord i) : isPrivileged i = true := by
  cases h <;> simp (disch := decide) only [Machine.isPrivileged, Machine.majorOf, fld, encode, Laws.fld_hi, Laws.fld_lo,
    Nat.reduceSub] <;> decide

/-- The majors of the matrix words. -/
theorem isMatrixWord_iff_majorOf (i : Instr) :
    isMatrixWord i = true ↔ majorOf i = 0x30 ∨ majorOf i = 0x31 ∨ majorOf i = 0x32 := by
  simp [isMatrixWord, or_assoc]

/-- A privileged word is no matrix word. -/
theorem PrivilegedWord.isMatrixWord {i : Instr} (h : PrivilegedWord i) : isMatrixWord i = false := by
  rw [Bool.eq_false_iff, ne_eq, isMatrixWord_iff_majorOf]
  have := h.majorOf
  omega

/-- In a pack that is not privileged it raises PRIV. -/
theorem PrivilegedWord.traps {i : Instr} (h : PrivilegedWord i) {s : State} (hr : s.pk.runpos ≠ 24) (hp : s.pk.priv = false) :
    Traps i s { precise cPRIV 0 with aux := (encode i).setWidth 64 } := by
  have hk : ∀ k, roleOk k i = true := fun k => by simp [roleOk, h.isMatrixWord]
  refine traps_of_checkWord h.isWord ?_
  rw [checkWord_of_names hr (h.badTarget _) (h.namesOk ..), hk, if_neg Bool.noConfusion, if_pos ⟨h.isPrivileged, hp⟩]

/-! ## Words of majors 0x30 to 0x32 (R58) -/

/-- The major opcode of a matrix word, as the field of its encoding. -/
theorem isMatrixWord_of_field {i : Instr} (h : (encode i).extractLsb' 25 6 ∈ [0x30#6, 0x31#6, 0x32#6]) : isMatrixWord i = true := by
  rw [isMatrixWord_iff_majorOf, majorOf, fld]
  simp only [List.mem_cons, List.not_mem_nil, or_false] at h
  rcases h with h | h | h <;> rw [h] <;> decide

/-- JMP and RET, which alone have a target in a register, are of major 0x04. -/
theorem badTarget_of_isMatrixWord {i : Instr} (h : isMatrixWord i = true) (p : Pack) : badTarget p i = false := by
  rw [isMatrixWord_iff_majorOf] at h
  unfold badTarget
  split
  case h_3 => rfl
  all_goals
    simp (disch := decide) only [majorOf, fld, encode, Laws.fld_hi, Nat.reduceSub] at h
    exact absurd h (by decide)

/-- No matrix word is privileged. -/
theorem isPrivileged_of_isMatrixWord {i : Instr} (h : isMatrixWord i = true) : isPrivileged i = false := by
  have hp : ¬ PrivilegedWord i := fun hp => by simp [hp.isMatrixWord] at h
  rw [isMatrixWord_iff_majorOf] at h
  unfold isPrivileged
  rw [Bool.or_eq_false_iff]
  refine ⟨by rw [beq_eq_false_iff_ne]; omega, ?_⟩
  split
  · exact absurd (.ssrd ..) hp
  · exact absurd (.sswr ..) hp
  · exact absurd (.halt ..) hp
  · rfl

/-- MRD may issue in a matrix role and in an epilogue role. -/
theorem roleOk_mrd_iff {e : Bool} {n : BitVec 4} {d x : BitVec 6} (h : isMatrixWord (.mrd e n d x) = true) (k : RoleKind) :
    roleOk k (.mrd e n d x) = true ↔ k = .matrix ∨ k = .epilogue := by
  simp only [roleOk, h, Bool.not_true, Bool.false_or, Bool.and_true, Bool.or_eq_true, beq_iff_eq]

/-- Any other matrix word may issue in a matrix role alone. -/
theorem roleOk_iff_of_ne_mrd {i : Instr} (h : isMatrixWord i = true) (hi : ∀ e n d x, i ≠ .mrd e n d x) (k : RoleKind) :
    roleOk k i = true ↔ k = .matrix := by
  unfold roleOk
  split
  · exact absurd rfl (hi _ _ _ _)
  · simp only [h, Bool.not_true, Bool.false_or, Bool.and_false, Bool.or_false, beq_iff_eq]

/-- A matrix word that names what it may has no defect but its role. -/
theorem checkWord_matrixWord {t : Team} {p : Pack} {i : Instr} (hm : isMatrixWord i = true) (hr : p.runpos ≠ 24)
    (hn : namesOk (roleOf t p).vregs t.accs p.ty i = true) :
    checkWord t p i = if roleOk (roleOf t p).kind i = false then some (illegal (encode i) 8) else none := by
  simp [checkWord_of_names hr (badTarget_of_isMatrixWord hm p) hn, isPrivileged_of_isMatrixWord hm]

/-- Of the checks of R59, a matrix word that names what it may can fail that of its role alone. -/
theorem matrixWord_legal_or_traps {i : Instr} {s : State} {legal : Prop} (hi : isWord i = true) (hm : isMatrixWord i = true)
    (hr : s.pk.runpos ≠ 24) (hn : namesOk (roleOf s.tm s.pk).vregs s.tm.accs s.pk.ty i = true)
    (hk : roleOk (roleOf s.tm s.pk).kind i = true ↔ legal) :
    (legal → checkWord s.tm s.pk i = none) ∧ (¬ legal → Traps i s (illegal (encode i) 8)) := by
  have hc := checkWord_matrixWord hm hr hn
  refine ⟨fun hl => ?_, fun hl => traps_of_checkWord hi ?_⟩
  · rw [hc, if_neg (by rw [hk.mpr hl]; exact Bool.noConfusion)]
  · rw [hc, if_pos (Bool.eq_false_iff.mpr fun h => hl (hk.mp h))]

/-- Settles O40, by the order of the checks of R59: a privileged word can fail the last of them alone, a matrix word that of its
role. -/
theorem rolesAndPrivilege : Obligations.RolesAndPrivilege := by
  refine ⟨fun i s hi hr hp => ?_, fun i s hi hm hr hn => ?_⟩
  · have hw : PrivilegedWord i := by
      split at hi
      · exact .ssrd ..
      · exact .sswr ..
      · exact .halt ..
      · exact .dlogStat ..
      · exact .dlogStart ..
      · exact .dlogStop ..
      · exact .dlogAck ..
      · exact .dlogCons ..
      · exact .frz ..
      · exact hi.elim
    exact hw.traps hr hp
  · have hm := isMatrixWord_of_field hm
    refine matrixWord_legal_or_traps hi hm hr hn ?_
    split
    · exact roleOk_mrd_iff hm _
    next hne => exact roleOk_iff_of_ne_mrd hm hne _

end Sys2Proof.Proofs
end

section
/-! SUPPORT. The trap words and HALT of spec/16 (R381, R382, R384): trap entry by TRAP and BKPT, the return of RTE, and what a halt
of teams and grids changes. -/

namespace Sys2Proof.Proofs

open Sys2Proof.Machine Sys2Proof.Safety Sys2Proof.Laws

/-! ## TRAP and BKPT (R381) -/

/-- TRAP takes its trap with the return at the word after it. -/
theorem happens_trap {e : Bool} {n : BitVec 6} {s : State} (h : Issues (.trap e n) s) :
    Happens (.trap e n) s (s.trapDue { precise cSWTRAP 0 with detail := n.toNat, fpc := s.pk.pc, tpc := s.pk.pc + 4 }) :=
  congrArg Host.Outcome.next (issueWord_held h rfl)

/-- BKPT takes its trap with the return at itself. -/
theorem happens_bkpt {e : Bool} {n : BitVec 6} {s : State} (h : Issues (.bkpt e n) s) :
    Happens (.bkpt e n) s (s.trapDue { precise cBREAK 0 with detail := n.toNat, fpc := s.pk.pc, tpc := s.pk.pc }) :=
  congrArg Host.Outcome.next (issueWord_trap (f := { precise cBREAK 0 with detail := n.toNat }) h rfl)

/-! ## RTE (R382) -/

/-- RTE with bit E cleared, as its fields joined. -/
theorem encode_rte_without_e (a : BitVec 6) :
    encode (.rte a) &&& 0x7FFFFFFF = 0b0111100000000#13 ++ a ++ 0b0000000000001#13 := by
  change 0b1111100000000#13 ++ a ++ 0b0000000000001#13 &&& 0b0111111111111#13 ++ BitVec.allOnes 6 ++ BitVec.allOnes 13 = _
  rw [BitVec.and_append, BitVec.and_append, BitVec.and_allOnes]
  rfl

/-- A word of RTE must carry E = 1 (R50). -/
theorem decode_rte_without_e (a : BitVec 6) : decode (encode (.rte a) &&& 0x7FFFFFFF) = .illegal 5 := by
  rw [encode_rte_without_e]
  generalize hw : 0b0111100000000#13 ++ a ++ 0b0000000000001#13 = w
  have hmajor : (fld w 25 6).toNat = 0x3C := by
    subst hw; simp (disch := decide) only [fld, fld_hi, Nat.reduceSub]; rfl
  have hop : (fld w 0 7).toNat = 1 := by
    subst hw; simp (disch := decide) only [fld, fld_lo]; rfl
  have hreserved : (fld w 7 6 != 0#6 || fld w 19 6 != 0#6) = false := by
    subst hw; simp (disch := decide) only [fld, fld_hi, fld_lo, Nat.reduceSub]; rfl
  have he : bit w 31 = false := by
    subst hw; simp (disch := decide) only [bit, bit_hi, Nat.reduceSub]; rfl
  rw [major3C w hmajor, decode3C, hop]
  simp only [control, hreserved, he, Bool.false_eq_true, if_false]

/-- RTE names no vector register. -/
theorem consume_rte (p : Pack) (a : BitVec 6) : p.consume (.rte a) = p := consume_none p _ rfl rfl

/-- RTE outside a handler is ILLEGAL with reason 10. -/
theorem traps_rte_outside_handler {a : BitVec 6} {s : State} (h : Issues (.rte a) s) (hh : s.pk.h = false) :
    Traps (.rte a) s (illegal (encode (.rte a)) 10) :=
  congrArg Host.Outcome.next (issueWord_trap h (if_pos (by rw [hh]; rfl)))

/-- RTE to a misaligned target is ILLEGAL with reason 5, the handler still on. -/
theorem traps_rte_misaligned {a : BitVec 6} {s : State} (h : Issues (.rte a) s) (hh : s.pk.h = true)
    (hx : (s.pk.s a.toNat).toNat % 4 ≠ 0) : Traps (.rte a) s (illegal (encode (.rte a)) 5) :=
  congrArg Host.Outcome.next (issueWord_trap h ((if_neg (by simp [hh])).trans (if_pos hx)))

/-- RTE of a handler leaves the trap for its target. -/
theorem exec_rte_in_handler {a : BitVec 6} {s : State} (h : Issues (.rte a) s) (hh : s.pk.h = true)
    (hx : (s.pk.s a.toNat).toNat % 4 = 0) :
    exec (.rte a) s = .next { s.countWord with
      pk := { s.pk.leaveTrap (s.pk.s a.toNat) with since := s.gtc, declined := none } } := by
  have he : exec (.rte a) s = .next (State.countWord { s with
      pk := { (s.pk.consume (.rte a)).leaveTrap (s.pk.s a.toNat) with since := s.gtc, declined := none } }) :=
    congrArg Host.Outcome.next (issueWord_own h ((if_neg (by simp [hh])).trans (if_neg (not_not.mpr hx))))
  rw [consume_rte] at he
  exact he

/-- A scalar register after a return. -/
theorem s_leaveTrap (p : Pack) (x : DWord) (k : Nat) :
    (p.leaveTrap x).s k =
      if k = 63 then p.frame.s63 else if k = 62 then p.frame.s62 else if k = 61 then p.frame.s61
      else if k = 60 then p.frame.s60 else if k = 59 then p.frame.s59 else p.s k := by
  change (((((p.setS 59 _).setS 60 _).setS 61 _).setS 62 _).setS 63 _).s k = _
  simp only [Pack.s_setS]

/-- A return leaves s0 to s58 as they were. -/
theorem s_leaveTrap_of_lt (p : Pack) (x : DWord) {k : Nat} (h : k < 59) : (p.leaveTrap x).s k = p.s k := by
  rw [s_leaveTrap, if_neg (by omega), if_neg (by omega), if_neg (by omega), if_neg (by omega), if_neg (by omega)]

/-- A return takes s59 to s63 from the frame. -/
theorem s_leaveTrap_of_frame (p : Pack) (x : DWord) :
    (p.leaveTrap x).s 59 = p.frame.s59 ∧ (p.leaveTrap x).s 60 = p.frame.s60 ∧ (p.leaveTrap x).s 61 = p.frame.s61 ∧
      (p.leaveTrap x).s 62 = p.frame.s62 ∧ (p.leaveTrap x).s 63 = p.frame.s63 := by
  simp [s_leaveTrap]

/-! ## The team halt (R364, R367) -/

/-- The team that was changed is the changed team. -/
theorem team_onTeam {s : State} {t : TeamId} {k : Team} {f : Team → Team} (h : s.team? t = some k)
    (hf : ∀ k, (f k).id = k.id) : (s.onTeam t f).team? t = some (f k) := by
  unfold State.team? at *; unfold State.onTeam
  split at h
  next e => cases h; simp [e, hf]
  next e =>
    simp only [e, if_false]
    exact find_replaceFirst _ f (fun a ha => by rwa [hf]) _ _ h

/-- Stopping its lift queues does not rename a team. -/
theorem cancelLifts_id (t : Team) : t.cancelLifts.id = t.id :=
  List.foldlRecOn (List.range 8) Team.cancelLift (motive := fun u : Team => u.id = t.id) rfl fun _ hu _ _ => hu

/-- A team that halts takes the fault, and one already halting keeps its first. -/
theorem halt_haltTeam {s : State} {m : TeamId} {k : Team} (f : FaultRec) (h : s.team? m = some k) :
    ((s.haltTeam m none f).team? m).map (·.halt) = some (if k.halt = none then some f else k.halt) := by
  have ht : (s.haltTeam m none f).team? m = some { k.cancelLifts with halt := k.halt.orElse fun _ => some f } :=
    team_onTeam h cancelLifts_id
  rw [ht, Option.map_some]
  cases k.halt <;> rfl

/-- A team halt leaves memory alone. -/
theorem haltTeam_hbm (s : State) (t : TeamId) (p : Option PackId) (f : FaultRec) : (s.haltTeam t p f).hbm = s.hbm := by
  cases p <;> simp [State.haltTeam]

/-- A halt that no pack of the team raises leaves the issuing pack where it is until the broadcast reaches it. -/
theorem haltTeam_none_pk (s : State) (t : TeamId) (f : FaultRec) : (s.haltTeam t none f).pk = s.pk := by
  simp [State.haltTeam]

/-- The pack that raises the halt is halted. -/
theorem haltTeam_self_status (s : State) (t : TeamId) (f : FaultRec) :
    (s.haltTeam t (some s.pk.id) f).pk.status = .halted := by
  simp [State.haltTeam, State.onPack]

/-- The teams of ts that are not halting yet halt with fault f, in order. -/
def haltTeams (f : FaultRec) (s : State) (ts : List TeamId) : State :=
  ts.foldl (fun s m => if ((s.team? m).bind (·.halt)).isSome then s else s.haltTeam m none f) s

/-- Halting teams keeps what halting one of them keeps. -/
theorem haltTeams_keeps {α : Type} (g : State → α) {f : FaultRec} (hg : ∀ s m, g (State.haltTeam s m none f) = g s)
    (s : State) (ts : List TeamId) : g (haltTeams f s ts) = g s := by
  refine List.foldlRecOn ts _ (motive := fun t : State => g t = g s) rfl fun t ht m _ => ?_
  split
  · exact ht
  · rw [hg, ht]

/-! ## HALT (R384) -/

/-- No grid is cancelled where none is in the scope. -/
theorem cancelGrids_nil (s : State) : s.cancelGrids [] = s := by
  simp [State.cancelGrids, State.push, replaceAll]

/-- The grids that HALT cancels are marked. -/
theorem cancelled_of_mem_cancelGrids {s : State} {gs : List Nat} {g : Grid} (hg : g ∈ (s.cancelGrids gs).grids)
    (hi : g.idx ∈ gs) : g.cancelled = true := by
  obtain ⟨k, -, rfl⟩ := List.mem_map.mp hg
  dsimp only at hi ⊢
  split
  · rfl
  next hk =>
    rw [if_neg hk] at hi
    exact absurd (List.contains_iff_mem.mpr hi) hk

/-- No team of a grid that HALT cancels is left to be placed. -/
theorem not_mem_of_mem_incoming_cancelGrids {s : State} {gs : List Nat} {i : Incoming} (hi : i ∈ (s.cancelGrids gs).incoming) :
    i.unit.team.grid ∉ gs := by
  simpa using (List.mem_filter.mp hi).2

/-- The scopes of HALT past the first: the gang, or the grid and all below it. -/
theorem haltScope_of_ne_zero (s : State) (t : Team) {n : Nat} (h : n ≠ 0) :
    s.haltScope t n =
      if n = 1 then (t.gangTeams, [])
      else
        let gs := s.under t.id.grid s.grids.length
        ((s.allTeams.filter fun m => gs.contains m.id.grid && (m.status == .resident || m.status == .evicted)).map (·.id), gs) := by
  match n with
  | 1 => rfl
  | n + 2 => rfl

/-- The fault with which the teams of a HALT halt. -/
def haltFault (p : Pack) : FaultRec := { precise cSWTRAP 0xFF with detail := 0xFF, fpc := p.pc, tpc := p.pc }

/-- HALT names no vector register. -/
theorem consume_halt (p : Pack) (e : Bool) (a : BitVec 6) : p.consume (.halt e a) = p := consume_none p _ rfl rfl

/-- HALT halts its own team, then the others of its scope, and cancels the grids of the scope. -/
theorem leaves_halt {e : Bool} {a : BitVec 6} {s : State} (h : Issues (.halt e a) s) :
    let r := s.haltScope s.tm ((s.pk.s a.toNat).toNat % 4)
    Leaves (.halt e a) s
      ((haltTeams (haltFault s.pk) (s.haltTeam s.tm.id (some s.pk.id) (haltFault s.pk)) (r.1.filter (· != s.tm.id))).cancelGrids r.2) := by
  have he := issueWord_own h (body := fun u t =>
    let r := t.haltScope t.tm ((u.pk.s a.toNat).toNat % 4)
    .own ((haltTeams (haltFault u.pk) (t.haltTeam t.tm.id (some t.pk.id) (haltFault u.pk)) (r.1.filter (· != t.tm.id))).cancelGrids
      r.2)) rfl
  rw [consume_halt] at he
  exact congrArg Host.Outcome.next he

/-- HALT of scope 0 halts its team alone. -/
theorem leaves_halt_team {e : Bool} {a : BitVec 6} {s : State} (h : Issues (.halt e a) s) (hn : (s.pk.s a.toNat).toNat % 4 = 0) :
    Leaves (.halt e a) s (s.haltTeam s.tm.id (some s.pk.id) (haltFault s.pk)) := by
  have he := leaves_halt h
  have hothers : [s.tm.id].filter (· != s.tm.id) = [] := by simp
  simpa only [hn, State.haltScope, hothers, haltTeams, List.foldl_nil, cancelGrids_nil] using he

/-- Whatever its scope, HALT stops the pack that issues it and leaves memory alone. -/
theorem exec_halt_stops {e : Bool} {a : BitVec 6} {s : State} (h : Issues (.halt e a) s) :
    ∃ t, exec (.halt e a) s = .next t ∧ t.hbm = s.hbm ∧ t.pk.status = .halted := by
  refine ⟨_, leaves_halt h, ?_, ?_⟩
  · exact (haltTeams_keeps State.hbm (fun s m => haltTeam_hbm s m none _) _ _).trans (haltTeam_hbm ..)
  · exact (haltTeams_keeps (·.pk.status) (fun s m => by rw [haltTeam_none_pk]) _ _).trans (haltTeam_self_status ..)

/-- Settles O35: TRAP, BKPT and RTE by the way each ends its issue, HALT by its scope, and the frame of the halts that it makes. -/
theorem trapWords : Obligations.TrapWords := by
  refine ⟨fun e n s => happens_trap, fun e n s => happens_bkpt, fun a s h => ?_, fun e a s => leaves_halt_team, fun e a s h hn => ?_,
    fun s m k f => halt_haltTeam f, fun s gs => ⟨fun g => cancelled_of_mem_cancelGrids, fun i => not_mem_of_mem_incoming_cancelGrids⟩,
    fun e a s h => ?_⟩
  · exact ⟨decode_rte_without_e a, traps_rte_outside_handler h, traps_rte_misaligned h, fun hh hx =>
      ⟨_, exec_rte_in_handler h hh hx, rfl, fun _ => s_leaveTrap_of_lt s.pk (s.pk.s a.toNat),
        s_leaveTrap_of_frame s.pk (s.pk.s a.toNat)⟩⟩
  · have he := leaves_halt h
    rw [haltScope_of_ne_zero _ _ hn] at he
    by_cases hgang : (s.pk.s a.toNat).toNat % 4 = 1
    · simp only [if_pos hgang] at he ⊢
      exact he
    · simp only [if_neg hgang] at he ⊢
      exact he
  · obtain ⟨t, ht, hm, hs⟩ := exec_halt_stops h
    exact ⟨t, ht, hm, fun _ => hs⟩

end Sys2Proof.Proofs
end

section
/-! SUPPORT. The encodings of spec/02 and of the groups (R39-R41): a word that decodes is the encoding of what it decodes to, and
the encoding of a well-formed instruction decodes to it. -/

namespace Sys2Proof.Proofs

open Sys2Proof.Laws

set_option Elab.async false

/-! ## Fields of a word, as numbers -/

theorem fld_toNat (w : Word) (lo n : Nat) : (fld w lo n).toNat = w.toNat / 2 ^ lo % 2 ^ n := by
  rw [fld, BitVec.extractLsb'_toNat, Nat.shiftRight_eq_div_pow]

theorem bit_toNat (w : Word) (k : Nat) : (bit w k).toNat = w.toNat / 2 ^ k % 2 := by
  rw [bit, BitVec.getLsbD, Nat.testBit_eq_decide_div_mod_eq]
  rcases Nat.mod_two_eq_zero_or_one (w.toNat / 2 ^ k) with h | h <;> simp [h]

theorem bit_eq_false_iff {w : Word} {k : Nat} : bit w k = false ↔ w.toNat / 2 ^ k % 2 = 0 := by
  rw [← bit_toNat]; cases bit w k <;> simp

theorem bit_eq_true_iff {w : Word} {k : Nat} : bit w k = true ↔ w.toNat / 2 ^ k % 2 = 1 := by
  rw [← bit_toNat]; cases bit w k <;> simp

/-- A field whose number is known is that literal. -/
theorem literal_eq_fld {w : Word} {lo n k : Nat} (h : (fld w lo n).toNat = k) : BitVec.ofNat n k = fld w lo n := by
  rw [← h, BitVec.ofNat_toNat, BitVec.setWidth_eq]

/-- A bit of a word is its field of one bit. -/
theorem ofBool_bit_eq_fld {w : Word} {k : Nat} : BitVec.ofBool (bit w k) = fld w k 1 := by
  apply BitVec.eq_of_toNat_eq
  rw [BitVec.toNat_ofBool, bit_toNat, fld_toNat, Nat.pow_one]

/-- Two adjacent fields of a word, joined, are one field. -/
theorem append_eq_fld {w : Word} {lo n m : Nat} {x : BitVec n} {y : BitVec m} (hx : x = fld w (lo + m) n) (hy : y = fld w lo m) :
    x ++ y = fld w lo (n + m) := by
  subst hx hy
  apply BitVec.eq_of_toNat_eq
  rw [toNat_append_eq_add, fld_toNat, fld_toNat, fld_toNat, Nat.add_comm n m, Nat.pow_add, Nat.pow_add, Nat.mod_mul,
    Nat.div_div_eq_div_mul]
  ring

/-! ## What a decoder answers for a word -/

/-- What the answer d for w accepts, if anything, is a well-formed instruction word whose encoding is w. -/
def Faithful (w : Word) (d : Decoded) : Prop := ∀ i, d = .ok i → isWord i = true ∧ wellFormed i = true ∧ encode i = w

/-- The answer is faithful when the encoding, field by field, is what the word holds: an operand its field, an opcode or an unused field
the value that the table has found there. -/
theorem Faithful.ok {w : Word} {i : Instr} (hi : isWord i = true := by rfl)
    (hf : wellFormed i = true := by
      first
      | rfl
      | simp only [wellFormed.eq_def, ← BitVec.toNat_inj, BitVec.toNat_ofNat, fld_toNat, bit_eq_false_iff, bit_eq_true_iff, plogOk,
          plogUnused, Bool.and_eq_false_iff, Bool.or_eq_true, beq_iff_eq, beq_eq_false_iff_ne, bne_iff_ne, ne_eq, Nat.reducePow,
          Nat.reduceMod, Nat.reduceAdd, Bool.or_eq_false_iff, bne_eq_false_iff_eq, decide_eq_true_eq, decide_eq_false_iff_not,
          Bool.and_eq_true] at *
        omega)
    (he : encode i = fld w 0 32 := by
      unfold encode
      repeat' apply append_eq_fld
      all_goals first
      | rfl
      | exact ofBool_bit_eq_fld
      | exact literal_eq_fld ‹_›
      | simp only [← BitVec.toNat_inj, BitVec.toNat_ofNat, fld_toNat, bit_eq_false_iff, bit_eq_true_iff, Nat.reducePow, Nat.reduceMod,
          Nat.reduceAdd, Bool.or_eq_false_iff, bne_eq_false_iff_eq, decide_eq_true_eq, decide_eq_false_iff_not, Bool.and_eq_true] at *
        omega) : Faithful w (.ok i) := by
  rintro _ ⟨⟩
  exact ⟨hi, hf, he.trans (fld_all w)⟩

theorem Faithful.illegal (w : Word) (n : Nat) : Faithful w (.illegal n) := nofun

theorem Faithful.checked {w : Word} {r n l : Bool} {i : Instr} (h : r = false → n = false → l = false → Faithful w (.ok i)) :
    Faithful w (checked r n l i) := by
  unfold Sys2Proof.checked
  split
  · exact nofun
  next hr =>
    split
    · exact nofun
    next hn =>
      split
      · exact nofun
      next hl => exact h (Bool.eq_false_iff.mpr hr) (Bool.eq_false_iff.mpr hn) (Bool.eq_false_iff.mpr hl)

theorem Faithful.control {w : Word} {r : Bool} {i : Instr} (h : r = false → bit w 31 = true → Faithful w (.ok i)) :
    Faithful w (control w r i) := by
  unfold Sys2Proof.control
  split
  · exact nofun
  next hr =>
    split
    next he => exact h (Bool.eq_false_iff.mpr hr) he
    · exact nofun

/-! ## The table of each major opcode

Of a word that the table accepts, the fields that the instruction does not hold have the values that the encoding writes: those of
the two opcodes, those that must be 0, and the bits of a register name that must be 0. -/

theorem faithful_decode00 {w : Word} (_ : (fld w 25 6).toNat = 0) : Faithful w (decode00 w) := by
  unfold decode00
  repeat' split
  all_goals first
    | exact .illegal _ _
    | exact .ok
    | exact .checked fun _ _ _ => .ok

theorem faithful_decode01 {w : Word} (_ : (fld w 25 6).toNat = 1) : Faithful w (decode01 w) := by
  unfold decode01
  repeat' split
  all_goals first
    | exact .illegal _ _
    | exact .ok
    | exact .checked fun _ _ _ => .ok

theorem faithful_decode02 {w : Word} (_ : (fld w 25 6).toNat = 2) : Faithful w (decode02 w) := by
  unfold decode02
  all_goals first
    | exact .illegal _ _
    | exact .ok

theorem faithful_decode03 {w : Word} (_ : (fld w 25 6).toNat = 3) : Faithful w (decode03 w) := by
  unfold decode03
  all_goals first
    | exact .illegal _ _
    | exact .ok
    | exact .checked fun _ _ _ => .ok

theorem faithful_decode04 {w : Word} (_ : (fld w 25 6).toNat = 4) : Faithful w (decode04 w) := by
  unfold decode04
  repeat' split
  all_goals first
    | exact .illegal _ _
    | exact .ok
    | exact .checked fun _ _ _ => .ok
    | exact .control fun _ _ => .ok

theorem faithful_decode05 {w : Word} (_ : (fld w 25 6).toNat = 5) : Faithful w (decode05 w) := by
  unfold decode05
  all_goals first
    | exact .illegal _ _
    | exact .ok
    | exact .checked fun _ _ _ => .ok

theorem faithful_decode06 {w : Word} (_ : (fld w 25 6).toNat = 6) : Faithful w (decode06 w) := by
  unfold decode06
  all_goals first
    | exact .illegal _ _
    | exact .ok

theorem faithful_decode07 {w : Word} (_ : (fld w 25 6).toNat = 7) : Faithful w (decode07 w) := by
  unfold decode07
  repeat' split
  all_goals first
    | exact .illegal _ _
    | exact .ok
    | exact .checked fun _ _ _ => .ok
    | exact .control fun _ _ => .ok

theorem faithful_decode08 {w : Word} (_ : (fld w 25 6).toNat = 8) : Faithful w (decode08 w) := by
  unfold decode08
  repeat' split
  all_goals first
    | exact .illegal _ _
    | exact .ok
    | exact .checked fun _ _ _ => .ok
    | exact .control fun _ _ => .ok

theorem faithful_decode09 {w : Word} (_ : (fld w 25 6).toNat = 9) : Faithful w (decode09 w) := by
  unfold decode09
  repeat' split
  all_goals first
    | exact .illegal _ _
    | exact .ok
    | exact .checked fun _ _ _ => .ok

theorem faithful_decode0A {w : Word} (_ : (fld w 25 6).toNat = 10) : Faithful w (decode0A w) := by
  unfold decode0A
  repeat' split
  all_goals first
    | exact .illegal _ _
    | exact .ok
    | exact .checked fun _ _ _ => .ok

theorem faithful_decode0B {w : Word} (_ : (fld w 25 6).toNat = 11) : Faithful w (decode0B w) := by
  unfold decode0B
  all_goals first
    | exact .illegal _ _
    | exact .ok

theorem faithful_decode0C {w : Word} (_ : (fld w 25 6).toNat = 12) : Faithful w (decode0C w) := by
  unfold decode0C
  repeat' split
  all_goals first
    | exact .illegal _ _
    | exact .ok
    | exact .checked fun _ _ _ => .ok

theorem faithful_decode0D {w : Word} (_ : (fld w 25 6).toNat = 13) : Faithful w (decode0D w) := by
  unfold decode0D
  repeat' split
  all_goals first
    | exact .illegal _ _
    | exact .ok
    | exact .checked fun _ _ _ => .ok

theorem faithful_decode10 {w : Word} (_ : (fld w 25 6).toNat = 16) : Faithful w (decode10 w) := by
  unfold decode10
  repeat' split
  all_goals first
    | exact .illegal _ _
    | exact .ok
    | exact .checked fun _ _ _ => .ok

theorem faithful_decode11 {w : Word} (_ : (fld w 25 6).toNat = 17) : Faithful w (decode11 w) := by
  unfold decode11
  repeat' split
  all_goals first
    | exact .illegal _ _
    | exact .ok
    | exact .checked fun _ _ _ => .ok

theorem faithful_decode12 {w : Word} (_ : (fld w 25 6).toNat = 18) : Faithful w (decode12 w) := by
  unfold decode12
  repeat' split
  all_goals first
    | exact .illegal _ _
    | exact .ok

theorem faithful_decode13 {w : Word} (_ : (fld w 25 6).toNat = 19) : Faithful w (decode13 w) := by
  unfold decode13
  repeat' split
  all_goals first
    | exact .illegal _ _
    | exact .ok

theorem faithful_decode18 {w : Word} (_ : (fld w 25 6).toNat = 24) : Faithful w (decode18 w) := by
  unfold decode18
  repeat' split
  all_goals first
    | exact .illegal _ _
    | exact .ok
    | exact .checked fun _ _ _ => .ok
    | exact .checked fun _ _ _ => .ok (hf := by simp_all [wellFormed.eq_def])

theorem faithful_decode19 {w : Word} (_ : (fld w 25 6).toNat = 25) : Faithful w (decode19 w) := by
  unfold decode19
  repeat' split
  all_goals first
    | exact .illegal _ _
    | exact .ok
    | exact .checked fun _ _ _ => .ok

theorem faithful_decode1A {w : Word} (_ : (fld w 25 6).toNat = 26) : Faithful w (decode1A w) := by
  unfold decode1A
  repeat' split
  all_goals first
    | exact .illegal _ _
    | exact .ok
    | exact .checked fun _ _ _ => .ok
    | exact .checked fun _ _ _ => .ok (hf := by simp_all [wellFormed.eq_def])

theorem faithful_decode1B {w : Word} (_ : (fld w 25 6).toNat = 27) : Faithful w (decode1B w) := by
  unfold decode1B
  repeat' split
  all_goals first
    | exact .illegal _ _
    | exact .ok
    | exact .checked fun _ _ _ => .ok

theorem faithful_decode1C {w : Word} (_ : (fld w 25 6).toNat = 28) : Faithful w (decode1C w) := by
  unfold decode1C
  repeat' split
  all_goals first
    | exact .illegal _ _
    | exact .ok
    | exact .checked fun _ _ _ => .ok

theorem faithful_decode1D {w : Word} (_ : (fld w 25 6).toNat = 29) : Faithful w (decode1D w) := by
  unfold decode1D
  repeat' split
  all_goals first
    | exact .illegal _ _
    | exact .ok
    | exact .checked fun _ _ _ => .ok

theorem faithful_decode1E {w : Word} (_ : (fld w 25 6).toNat = 30) : Faithful w (decode1E w) := by
  unfold decode1E
  repeat' split
  all_goals first
    | exact .illegal _ _
    | exact .ok
    | exact .checked fun _ _ _ => .ok

theorem faithful_decode1F {w : Word} (_ : (fld w 25 6).toNat = 31) : Faithful w (decode1F w) := by
  unfold decode1F
  repeat' split
  all_goals first
    | exact .illegal _ _
    | exact .ok
    | exact .checked fun _ _ _ => .ok

theorem faithful_decode22 {w : Word} (_ : (fld w 25 6).toNat = 34) : Faithful w (decode22 w) := by
  unfold decode22
  repeat' split
  all_goals first
    | exact .illegal _ _
    | exact .ok

theorem faithful_decode23 {w : Word} (_ : (fld w 25 6).toNat = 35) : Faithful w (decode23 w) := by
  unfold decode23
  repeat' split
  all_goals first
    | exact .illegal _ _
    | exact .ok

theorem faithful_decode24 {w : Word} (_ : (fld w 25 6).toNat = 36) : Faithful w (decode24 w) := by
  unfold decode24
  repeat' split
  all_goals first
    | exact .illegal _ _
    | exact .ok
    | exact .checked fun _ _ _ => .ok

theorem faithful_decode26 {w : Word} (_ : (fld w 25 6).toNat = 38) : Faithful w (decode26 w) := by
  unfold decode26
  repeat' split
  all_goals first
    | exact .illegal _ _
    | exact .ok

theorem faithful_decode27 {w : Word} (_ : (fld w 25 6).toNat = 39) : Faithful w (decode27 w) := by
  unfold decode27
  repeat' split
  all_goals first
    | exact .illegal _ _
    | exact .ok
    | exact .checked fun _ _ _ => .ok

theorem faithful_decode28 {w : Word} (_ : (fld w 25 6).toNat = 40) : Faithful w (decode28 w) := by
  unfold decode28
  repeat' split
  all_goals first
    | exact .illegal _ _
    | exact .ok

theorem faithful_decode29 {w : Word} (_ : (fld w 25 6).toNat = 41) : Faithful w (decode29 w) := by
  unfold decode29
  repeat' split
  all_goals first
    | exact .illegal _ _
    | exact .ok
    | exact .checked fun _ _ _ => .ok

theorem faithful_decode2A {w : Word} (_ : (fld w 25 6).toNat = 42) : Faithful w (decode2A w) := by
  unfold decode2A
  repeat' split
  all_goals first
    | exact .illegal _ _
    | exact .ok
    | exact .checked fun _ _ _ => .ok

theorem faithful_decode2B {w : Word} (_ : (fld w 25 6).toNat = 43) : Faithful w (decode2B w) := by
  unfold decode2B
  repeat' split
  all_goals first
    | exact .illegal _ _
    | exact .ok
    | exact .checked fun _ _ _ => .ok

theorem faithful_decode2C {w : Word} (_ : (fld w 25 6).toNat = 44) : Faithful w (decode2C w) := by
  unfold decode2C
  repeat' split
  all_goals first
    | exact .illegal _ _
    | exact .ok
    | exact .checked fun _ _ _ => .ok

theorem faithful_decode2D {w : Word} (_ : (fld w 25 6).toNat = 45) : Faithful w (decode2D w) := by
  unfold decode2D
  repeat' split
  all_goals first
    | exact .illegal _ _
    | exact .ok
    | exact .checked fun _ _ _ => .ok

theorem faithful_decode30 {w : Word} (_ : (fld w 25 6).toNat = 48) : Faithful w (decode30 w) := by
  unfold decode30
  repeat' split
  all_goals first
    | exact .illegal _ _
    | exact .ok
    | exact .checked fun _ _ _ => .ok
    | exact .checked fun _ _ _ => .ok (hf := by simp_all [wellFormed.eq_def])

theorem faithful_decode31 {w : Word} (_ : (fld w 25 6).toNat = 49) : Faithful w (decode31 w) := by
  unfold decode31
  repeat' split
  all_goals first
    | exact .illegal _ _
    | exact .ok
    | exact .checked fun _ _ _ => .ok

theorem faithful_decode32 {w : Word} (_ : (fld w 25 6).toNat = 50) : Faithful w (decode32 w) := by
  unfold decode32
  repeat' split
  all_goals first
    | exact .illegal _ _
    | exact .ok
    | exact .checked fun _ _ _ => .ok

theorem faithful_decode34 {w : Word} (_ : (fld w 25 6).toNat = 52) : Faithful w (decode34 w) := by
  unfold decode34
  repeat' split
  all_goals first
    | exact .illegal _ _
    | exact .ok
    | exact .checked fun _ _ _ => .ok

theorem faithful_decode38 {w : Word} (_ : (fld w 25 6).toNat = 56) : Faithful w (decode38 w) := by
  unfold decode38
  repeat' split
  all_goals first
    | exact .illegal _ _
    | exact .ok
    | exact .checked fun _ _ _ => .ok

theorem faithful_decode3C {w : Word} (_ : (fld w 25 6).toNat = 60) : Faithful w (decode3C w) := by
  unfold decode3C
  repeat' split
  all_goals first
    | exact .illegal _ _
    | exact .ok
    | exact .checked fun _ _ _ => .ok
    | exact .control fun _ _ => .ok

theorem faithful_decode3D {w : Word} (_ : (fld w 25 6).toNat = 61) : Faithful w (decode3D w) := by
  unfold decode3D
  repeat' split
  all_goals first
    | exact .illegal _ _
    | exact .ok
    | exact .checked fun _ _ _ => .ok

/-- The decoder is faithful: each major opcode has its own table, a reserved one none. -/
theorem faithful_decode (w : Word) : Faithful w (decode w) := by
  unfold decode
  split
  · exact faithful_decode00 ‹_›
  · exact faithful_decode01 ‹_›
  · exact faithful_decode02 ‹_›
  · exact faithful_decode03 ‹_›
  · exact faithful_decode04 ‹_›
  · exact faithful_decode05 ‹_›
  · exact faithful_decode06 ‹_›
  · exact faithful_decode07 ‹_›
  · exact faithful_decode08 ‹_›
  · exact faithful_decode09 ‹_›
  · exact faithful_decode0A ‹_›
  · exact faithful_decode0B ‹_›
  · exact faithful_decode0C ‹_›
  · exact faithful_decode0D ‹_›
  · exact faithful_decode10 ‹_›
  · exact faithful_decode11 ‹_›
  · exact faithful_decode12 ‹_›
  · exact faithful_decode13 ‹_›
  · exact faithful_decode18 ‹_›
  · exact faithful_decode19 ‹_›
  · exact faithful_decode1A ‹_›
  · exact faithful_decode1B ‹_›
  · exact faithful_decode1C ‹_›
  · exact faithful_decode1D ‹_›
  · exact faithful_decode1E ‹_›
  · exact faithful_decode1F ‹_›
  · exact faithful_decode22 ‹_›
  · exact faithful_decode23 ‹_›
  · exact faithful_decode24 ‹_›
  · exact faithful_decode26 ‹_›
  · exact faithful_decode27 ‹_›
  · exact faithful_decode28 ‹_›
  · exact faithful_decode29 ‹_›
  · exact faithful_decode2A ‹_›
  · exact faithful_decode2B ‹_›
  · exact faithful_decode2C ‹_›
  · exact faithful_decode2D ‹_›
  · exact faithful_decode30 ‹_›
  · exact faithful_decode31 ‹_›
  · exact faithful_decode32 ‹_›
  · exact faithful_decode34 ‹_›
  · exact faithful_decode38 ‹_›
  · exact faithful_decode3C ‹_›
  · exact faithful_decode3D ‹_›
  · exact .illegal _ _

/-- Settles O54: the decoder of each major opcode is faithful. -/
theorem encodingUnique : Obligations.EncodingUnique := faithful_decode

/-! ## Every constructor's round trip -/

/-- Decoding the encoding of an instruction, by its constructor. -/
theorem decode_encode : ∀ i, Encoding.Statement i
  | .sadd a0 a1 a2 a3 => Encoding.sadd a0 a1 a2 a3
  | .ssub a0 a1 a2 a3 => Encoding.ssub a0 a1 a2 a3
  | .smul a0 a1 a2 a3 => Encoding.smul a0 a1 a2 a3
  | .smulh a0 a1 a2 a3 => Encoding.smulh a0 a1 a2 a3
  | .sand a0 a1 a2 a3 => Encoding.sand a0 a1 a2 a3
  | .sor a0 a1 a2 a3 => Encoding.sor a0 a1 a2 a3
  | .sxor a0 a1 a2 a3 => Encoding.sxor a0 a1 a2 a3
  | .sandn a0 a1 a2 a3 => Encoding.sandn a0 a1 a2 a3
  | .sshl a0 a1 a2 a3 => Encoding.sshl a0 a1 a2 a3
  | .sshr a0 a1 a2 a3 => Encoding.sshr a0 a1 a2 a3
  | .ssar a0 a1 a2 a3 => Encoding.ssar a0 a1 a2 a3
  | .smin a0 a1 a2 a3 => Encoding.smin a0 a1 a2 a3
  | .smax a0 a1 a2 a3 => Encoding.smax a0 a1 a2 a3
  | .sclz a0 a1 a2 => Encoding.sclz a0 a1 a2
  | .spopc a0 a1 a2 => Encoding.spopc a0 a1 a2
  | .ssel a0 a1 a2 a3 => Encoding.ssel a0 a1 a2 a3
  | .smov a0 a1 a2 => Encoding.smov a0 a1 a2
  | .scmp a0 a1 a2 a3 a4 => Encoding.scmp a0 a1 a2 a3 a4
  | .saddImm a0 a1 a2 a3 => Encoding.saddImm a0 a1 a2 a3
  | .smulImm a0 a1 a2 a3 => Encoding.smulImm a0 a1 a2 a3
  | .sandImm a0 a1 a2 a3 => Encoding.sandImm a0 a1 a2 a3
  | .sorImm a0 a1 a2 a3 => Encoding.sorImm a0 a1 a2 a3
  | .sxorImm a0 a1 a2 a3 => Encoding.sxorImm a0 a1 a2 a3
  | .sshlImm a0 a1 a2 a3 => Encoding.sshlImm a0 a1 a2 a3
  | .sshrImm a0 a1 a2 a3 => Encoding.sshrImm a0 a1 a2 a3
  | .ssarImm a0 a1 a2 a3 => Encoding.ssarImm a0 a1 a2 a3
  | .sli a0 a1 a2 => Encoding.sli a0 a1 a2
  | .shi a0 a1 a2 a3 => Encoding.shi a0 a1 a2 a3
  | .mskp a0 a1 a2 => Encoding.mskp a0 a1 a2
  | .mskn a0 a1 a2 => Encoding.mskn a0 a1 a2
  | .msks a0 a1 => Encoding.msks a0 a1
  | .mskg a0 a1 => Encoding.mskg a0 a1
  | .mskpop a0 a1 a2 => Encoding.mskpop a0 a1 a2
  | .mskff a0 a1 a2 => Encoding.mskff a0 a1 a2
  | .modeg a0 a1 => Encoding.modeg a0 a1
  | .modes a0 a1 => Encoding.modes a0 a1
  | .srd a0 a1 a2 => Encoding.srd a0 a1 a2
  | .nop a0 => Encoding.nop a0
  | .yield a0 => Encoding.yield a0
  | .ret a0 => Encoding.ret a0
  | .jmp a0 => Encoding.jmp a0
  | .mode a0 a1 a2 a3 a4 a5 a6 => Encoding.mode a0 a1 a2 a3 a4 a5 a6
  | .hold a0 a1 a2 a3 a4 a5 => Encoding.hold a0 a1 a2 a3 a4 a5
  | .bra a0 => Encoding.bra a0
  | .call a0 => Encoding.call a0
  | .bemz a0 => Encoding.bemz a0
  | .bemf a0 => Encoding.bemf a0
  | .bz a0 a1 => Encoding.bz a0 a1
  | .bnz a0 a1 => Encoding.bnz a0 a1
  | .vadd a0 a1 a2 a3 a4 a5 => Encoding.vadd a0 a1 a2 a3 a4 a5
  | .vaddc a0 a1 a2 a3 a4 a5 => Encoding.vaddc a0 a1 a2 a3 a4 a5
  | .vsub a0 a1 a2 a3 a4 a5 => Encoding.vsub a0 a1 a2 a3 a4 a5
  | .vsubb a0 a1 a2 a3 a4 a5 => Encoding.vsubb a0 a1 a2 a3 a4 a5
  | .vmul a0 a1 a2 a3 a4 a5 => Encoding.vmul a0 a1 a2 a3 a4 a5
  | .vmulh a0 a1 a2 a3 a4 a5 => Encoding.vmulh a0 a1 a2 a3 a4 a5
  | .vmad a0 a1 a2 a3 a4 a5 => Encoding.vmad a0 a1 a2 a3 a4 a5
  | .vmin a0 a1 a2 a3 a4 a5 => Encoding.vmin a0 a1 a2 a3 a4 a5
  | .vmax a0 a1 a2 a3 a4 a5 => Encoding.vmax a0 a1 a2 a3 a4 a5
  | .vabs a0 a1 a2 a3 => Encoding.vabs a0 a1 a2 a3
  | .vneg a0 a1 a2 a3 => Encoding.vneg a0 a1 a2 a3
  | .vand a0 a1 a2 a3 a4 a5 => Encoding.vand a0 a1 a2 a3 a4 a5
  | .vor a0 a1 a2 a3 a4 a5 => Encoding.vor a0 a1 a2 a3 a4 a5
  | .vxor a0 a1 a2 a3 a4 a5 => Encoding.vxor a0 a1 a2 a3 a4 a5
  | .vnot a0 a1 a2 a3 => Encoding.vnot a0 a1 a2 a3
  | .vandn a0 a1 a2 a3 a4 a5 => Encoding.vandn a0 a1 a2 a3 a4 a5
  | .vshl a0 a1 a2 a3 a4 a5 => Encoding.vshl a0 a1 a2 a3 a4 a5
  | .vshr a0 a1 a2 a3 a4 a5 => Encoding.vshr a0 a1 a2 a3 a4 a5
  | .vsar a0 a1 a2 a3 a4 a5 => Encoding.vsar a0 a1 a2 a3 a4 a5
  | .vrot a0 a1 a2 a3 a4 a5 => Encoding.vrot a0 a1 a2 a3 a4 a5
  | .vclz a0 a1 a2 a3 => Encoding.vclz a0 a1 a2 a3
  | .vffs a0 a1 a2 a3 => Encoding.vffs a0 a1 a2 a3
  | .vpopc a0 a1 a2 a3 => Encoding.vpopc a0 a1 a2 a3
  | .vbrev a0 a1 a2 a3 => Encoding.vbrev a0 a1 a2 a3
  | .vsel a0 a1 a2 a3 a4 a5 => Encoding.vsel a0 a1 a2 a3 a4 a5
  | .vmov a0 a1 a2 a3 => Encoding.vmov a0 a1 a2 a3
  | .vaddImm a0 a1 a2 a3 => Encoding.vaddImm a0 a1 a2 a3
  | .vmulImm a0 a1 a2 a3 => Encoding.vmulImm a0 a1 a2 a3
  | .vandImm a0 a1 a2 a3 => Encoding.vandImm a0 a1 a2 a3
  | .vorImm a0 a1 a2 a3 => Encoding.vorImm a0 a1 a2 a3
  | .vxorImm a0 a1 a2 a3 => Encoding.vxorImm a0 a1 a2 a3
  | .vshlImm a0 a1 a2 a3 => Encoding.vshlImm a0 a1 a2 a3
  | .vshrImm a0 a1 a2 a3 => Encoding.vshrImm a0 a1 a2 a3
  | .vsarImm a0 a1 a2 a3 => Encoding.vsarImm a0 a1 a2 a3
  | .vli a0 a1 a2 => Encoding.vli a0 a1 a2
  | .vlane a0 a1 => Encoding.vlane a0 a1
  | .vshf a0 a1 a2 a3 a4 a5 => Encoding.vshf a0 a1 a2 a3 a4 a5
  | .vstep a0 a1 a2 a3 a4 => Encoding.vstep a0 a1 a2 a3 a4
  | .vbcast a0 a1 a2 a3 a4 => Encoding.vbcast a0 a1 a2 a3 a4
  | .vget a0 a1 a2 a3 a4 => Encoding.vget a0 a1 a2 a3 a4
  | .vbfx a0 a1 a2 a3 a4 a5 => Encoding.vbfx a0 a1 a2 a3 a4 a5
  | .vbfi a0 a1 a2 a3 a4 a5 => Encoding.vbfi a0 a1 a2 a3 a4 a5
  | .vcmp a0 a1 a2 a3 a4 a5 a6 => Encoding.vcmp a0 a1 a2 a3 a4 a5 a6
  | .plog a0 a1 a2 a3 a4 => Encoding.plog a0 a1 a2 a3 a4
  | .fadd a0 a1 a2 a3 a4 a5 => Encoding.fadd a0 a1 a2 a3 a4 a5
  | .fsub a0 a1 a2 a3 a4 a5 => Encoding.fsub a0 a1 a2 a3 a4 a5
  | .fmul a0 a1 a2 a3 a4 a5 => Encoding.fmul a0 a1 a2 a3 a4 a5
  | .fmin a0 a1 a2 a3 a4 a5 => Encoding.fmin a0 a1 a2 a3 a4 a5
  | .fmax a0 a1 a2 a3 a4 a5 => Encoding.fmax a0 a1 a2 a3 a4 a5
  | .fabs a0 a1 a2 a3 => Encoding.fabs a0 a1 a2 a3
  | .fneg a0 a1 a2 a3 => Encoding.fneg a0 a1 a2 a3
  | .fclass a0 a1 a2 a3 => Encoding.fclass a0 a1 a2 a3
  | .frint a0 a1 a2 a3 => Encoding.frint a0 a1 a2 a3
  | .fdiv a0 a1 a2 a3 a4 a5 => Encoding.fdiv a0 a1 a2 a3 a4 a5
  | .fcmp a0 a1 a2 a3 a4 a5 a6 => Encoding.fcmp a0 a1 a2 a3 a4 a5 a6
  | .frcp a0 a1 a2 a3 => Encoding.frcp a0 a1 a2 a3
  | .frsq a0 a1 a2 a3 => Encoding.frsq a0 a1 a2 a3
  | .fsqrt a0 a1 a2 a3 => Encoding.fsqrt a0 a1 a2 a3
  | .fexp2 a0 a1 a2 a3 => Encoding.fexp2 a0 a1 a2 a3
  | .flog2 a0 a1 a2 a3 => Encoding.flog2 a0 a1 a2 a3
  | .fsin a0 a1 a2 a3 => Encoding.fsin a0 a1 a2 a3
  | .fcos a0 a1 a2 a3 => Encoding.fcos a0 a1 a2 a3
  | .ftanh a0 a1 a2 a3 => Encoding.ftanh a0 a1 a2 a3
  | .ffma a0 a1 a2 a3 a4 a5 a6 => Encoding.ffma a0 a1 a2 a3 a4 a5 a6
  | .fflags a0 a1 a2 a3 => Encoding.fflags a0 a1 a2 a3
  | .cvt a0 a1 a2 a3 a4 => Encoding.cvt a0 a1 a2 a3 a4
  | .unpk a0 a1 a2 a3 a4 a5 => Encoding.unpk a0 a1 a2 a3 a4 a5
  | .pack2Bf16 a0 a1 a2 a3 a4 a5 => Encoding.pack2Bf16 a0 a1 a2 a3 a4 a5
  | .pack2F16 a0 a1 a2 a3 a4 a5 => Encoding.pack2F16 a0 a1 a2 a3 a4 a5
  | .pack4E4m3 a0 a1 a2 a3 a4 a5 => Encoding.pack4E4m3 a0 a1 a2 a3 a4 a5
  | .pack4E5m2 a0 a1 a2 a3 a4 a5 => Encoding.pack4E5m2 a0 a1 a2 a3 a4 a5
  | .pack4hLo a0 a1 a2 a3 a4 a5 => Encoding.pack4hLo a0 a1 a2 a3 a4 a5
  | .pack4hHi a0 a1 a2 a3 a4 a5 => Encoding.pack4hHi a0 a1 a2 a3 a4 a5
  | .bscale a0 a1 a2 a3 a4 => Encoding.bscale a0 a1 a2 a3 a4
  | .qcb a0 a1 a2 a3 a4 => Encoding.qcb a0 a1 a2 a3 a4
  | .xset a0 a1 a2 a3 a4 a5 => Encoding.xset a0 a1 a2 a3 a4 a5
  | .cbld a0 a1 a2 a3 => Encoding.cbld a0 a1 a2 a3
  | .qlat a0 a1 a2 a3 a4 a5 => Encoding.qlat a0 a1 a2 a3 a4 a5
  | .dlat a0 a1 a2 a3 a4 a5 => Encoding.dlat a0 a1 a2 a3 a4 a5
  | .lput a0 a1 a2 a3 a4 a5 => Encoding.lput a0 a1 a2 a3 a4 a5
  | .lscale a0 a1 a2 a3 a4 a5 => Encoding.lscale a0 a1 a2 a3 a4 a5
  | .lshell a0 a1 a2 a3 a4 a5 => Encoding.lshell a0 a1 a2 a3 a4 a5
  | .lget a0 a1 a2 a3 a4 a5 => Encoding.lget a0 a1 a2 a3 a4 a5
  | .lpack a0 a1 a2 a3 a4 a5 => Encoding.lpack a0 a1 a2 a3 a4 a5
  | .lchk a0 a1 a2 a3 a4 => Encoding.lchk a0 a1 a2 a3 a4
  | .tld a0 a1 a2 a3 a4 => Encoding.tld a0 a1 a2 a3 a4
  | .tst a0 a1 a2 a3 a4 => Encoding.tst a0 a1 a2 a3 a4
  | .tlds a0 a1 a2 a3 => Encoding.tlds a0 a1 a2 a3
  | .talloc a0 a1 a2 a3 => Encoding.talloc a0 a1 a2 a3
  | .tfree a0 a1 a2 => Encoding.tfree a0 a1 a2
  | .tinfo a0 a1 a2 => Encoding.tinfo a0 a1 a2
  | .tfill a0 a1 a2 => Encoding.tfill a0 a1 a2
  | .twptr a0 a1 a2 => Encoding.twptr a0 a1 a2
  | .ld a0 a1 a2 a3 a4 a5 => Encoding.ld a0 a1 a2 a3 a4 a5
  | .st a0 a1 a2 a3 a4 a5 => Encoding.st a0 a1 a2 a3 a4 a5
  | .ldp a0 a1 a2 a3 a4 a5 => Encoding.ldp a0 a1 a2 a3 a4 a5
  | .stp a0 a1 a2 a3 a4 a5 => Encoding.stp a0 a1 a2 a3 a4 a5
  | .lds a0 a1 a2 a3 a4 => Encoding.lds a0 a1 a2 a3 a4
  | .sts a0 a1 a2 a3 a4 => Encoding.sts a0 a1 a2 a3 a4
  | .pref a0 a1 a2 a3 a4 => Encoding.pref a0 a1 a2 a3 a4
  | .pflush a0 => Encoding.pflush a0
  | .atom a0 a1 a2 a3 a4 a5 => Encoding.atom a0 a1 a2 a3 a4 a5
  | .atomf a0 a1 a2 a3 a4 a5 => Encoding.atomf a0 a1 a2 a3 a4 a5
  | .cas a0 a1 a2 a3 a4 a5 => Encoding.cas a0 a1 a2 a3 a4 a5
  | .cas64 a0 a1 a2 a3 a4 a5 => Encoding.cas64 a0 a1 a2 a3 a4 a5
  | .ldaq a0 a1 a2 a3 a4 a5 a6 => Encoding.ldaq a0 a1 a2 a3 a4 a5 a6
  | .strl a0 a1 a2 a3 a4 a5 a6 => Encoding.strl a0 a1 a2 a3 a4 a5 a6
  | .fence a0 a1 => Encoding.fence a0 a1
  | .atoms a0 a1 a2 a3 a4 a5 => Encoding.atoms a0 a1 a2 a3 a4 a5
  | .ctld a0 a1 a2 a3 => Encoding.ctld a0 a1 a2 a3
  | .ctinv a0 a1 => Encoding.ctinv a0 a1
  | .bixq a0 a1 a2 a3 => Encoding.bixq a0 a1 a2 a3
  | .kvapp a0 a1 a2 a3 => Encoding.kvapp a0 a1 a2 a3
  | .dech a0 a1 a2 a3 => Encoding.dech a0 a1 a2 a3
  | .dec a0 a1 a2 a3 => Encoding.dec a0 a1 a2 a3
  | .enc a0 a1 a2 a3 a4 => Encoding.enc a0 a1 a2 a3 a4
  | .encf a0 a1 a2 a3 => Encoding.encf a0 a1 a2 a3
  | .lift a0 a1 a2 => Encoding.lift a0 a1 a2
  | .lqry a0 a1 a2 => Encoding.lqry a0 a1 a2
  | .lcan a0 a1 a2 => Encoding.lcan a0 a1 a2
  | .ginit a0 a1 a2 a3 => Encoding.ginit a0 a1 a2 a3
  | .gexp a0 a1 a2 a3 => Encoding.gexp a0 a1 a2 a3
  | .garr a0 a1 a2 a3 => Encoding.garr a0 a1 a2 a3
  | .gwait a0 a1 a2 a3 => Encoding.gwait a0 a1 a2 a3
  | .gtry a0 a1 a2 a3 => Encoding.gtry a0 a1 a2 a3
  | .mma a0 a1 a2 a3 a4 a5 a6 => Encoding.mma a0 a1 a2 a3 a4 a5 a6
  | .mwld a0 a1 a2 a3 => Encoding.mwld a0 a1 a2 a3
  | .mswap a0 => Encoding.mswap a0
  | .mzero a0 a1 a2 => Encoding.mzero a0 a1 a2
  | .mrd a0 a1 a2 a3 => Encoding.mrd a0 a1 a2 a3
  | .mwr a0 a1 a2 a3 => Encoding.mwr a0 a1 a2 a3
  | .mrel a0 => Encoding.mrel a0
  | .ppt a0 a1 => Encoding.ppt a0 a1
  | .launch a0 a1 a2 => Encoding.launch a0 a1 a2
  | .tbar a0 a1 => Encoding.tbar a0 a1
  | .gbar a0 a1 => Encoding.gbar a0 a1
  | .evsig a0 a1 a2 a3 => Encoding.evsig a0 a1 a2 a3
  | .evwait a0 a1 a2 => Encoding.evwait a0 a1 a2
  | .coll a0 a1 a2 => Encoding.coll a0 a1 a2
  | .cwait a0 a1 a2 => Encoding.cwait a0 a1 a2
  | .grpf a0 a1 a2 => Encoding.grpf a0 a1 a2
  | .fstat a0 a1 a2 => Encoding.fstat a0 a1 a2
  | .trap a0 a1 => Encoding.trap a0 a1
  | .rte a0 => Encoding.rte a0
  | .ssrd a0 a1 a2 a3 => Encoding.ssrd a0 a1 a2 a3
  | .sswr a0 a1 a2 => Encoding.sswr a0 a1 a2
  | .bkpt a0 a1 => Encoding.bkpt a0 a1
  | .halt a0 a1 => Encoding.halt a0 a1
  | .cntrd a0 a1 a2 => Encoding.cntrd a0 a1 a2
  | .dlogStat a0 a1 a2 => Encoding.dlogStat a0 a1 a2
  | .dlogStart a0 a1 a2 => Encoding.dlogStart a0 a1 a2
  | .dlogStop a0 a1 a2 => Encoding.dlogStop a0 a1 a2
  | .dlogAck a0 a1 a2 => Encoding.dlogAck a0 a1 a2
  | .dlogCons a0 a1 a2 => Encoding.dlogCons a0 a1 a2
  | .frz a0 a1 a2 => Encoding.frz a0 a1 a2
  | .icacheFill a0 => Encoding.icacheFill a0
  | .loadLaneReturn a0 a1 => Encoding.loadLaneReturn a0 a1
  | .storeWctReturn a0 a1 => Encoding.storeWctReturn a0 a1
  | .tileAccessRetire a0 a1 => Encoding.tileAccessRetire a0 a1
  | .matrixOpRetire a0 a1 => Encoding.matrixOpRetire a0 a1
  | .decodeUnitRetire a0 a1 => Encoding.decodeUnitRetire a0 a1
  | .pageFaultPark a0 => Encoding.pageFaultPark a0
  | .trapEntry a0 => Encoding.trapEntry a0
  | .haltBroadcastArrive a0 => Encoding.haltBroadcastArrive a0
  | .mmaArrayStart a0 a1 => Encoding.mmaArrayStart a0 a1
  | .mwldBufferWrite a0 a1 => Encoding.mwldBufferWrite a0 a1
  | .pairSlave a0 a1 => Encoding.pairSlave a0 a1
  | .packSave a0 => Encoding.packSave a0
  | .packRetire a0 => Encoding.packRetire a0
  | .evwaitReread a0 => Encoding.evwaitReread a0
  | .cwaitReread a0 => Encoding.cwaitReread a0
  | .granuleClearDone a0 a1 => Encoding.granuleClearDone a0 a1
  | .teamPlace a0 => Encoding.teamPlace a0
  | .gangPlace a0 => Encoding.gangPlace a0
  | .evict a0 => Encoding.evict a0
  | .teamExit a0 => Encoding.teamExit a0
  | .gridRetire a0 => Encoding.gridRetire a0
  | .launchRecordRead a0 => Encoding.launchRecordRead a0
  | .waitConditionRead a0 => Encoding.waitConditionRead a0
  | .homeLoad a0 a1 a2 => Encoding.homeLoad a0 a1 a2
  | .homeWrite a0 a1 a2 => Encoding.homeWrite a0 a1 a2
  | .homeWritePerform a0 a1 => Encoding.homeWritePerform a0 a1
  | .homeAtomic a0 a1 a2 => Encoding.homeAtomic a0 a1 a2
  | .kvappAppend a0 a1 => Encoding.kvappAppend a0 a1
  | .liftCommandStart a0 a1 => Encoding.liftCommandStart a0 a1
  | .liftCopy a0 a1 => Encoding.liftCopy a0 a1
  | .liftDecodeCopy a0 a1 => Encoding.liftDecodeCopy a0 a1
  | .liftEncodeStore a0 a1 => Encoding.liftEncodeStore a0 a1
  | .liftAccumulatorLoad a0 a1 => Encoding.liftAccumulatorLoad a0 a1
  | .liftCommandComplete a0 a1 => Encoding.liftCommandComplete a0 a1
  | .freeze a0 => Encoding.freeze a0
  | .fullingComplete a0 => Encoding.fullingComplete a0
  | .frzCompletion a0 => Encoding.frzCompletion a0
  | .resume a0 => Encoding.resume a0
  | .rowActivationAlert a0 => Encoding.rowActivationAlert a0
  | .exit => Encoding.exit
  | .packPromote a0 => Encoding.packPromote a0
  | .pairAbort a0 a1 => Encoding.pairAbort a0 a1
  | .pptTimeout a0 => Encoding.pptTimeout a0
  | .sliceExpire a0 => Encoding.sliceExpire a0
  | .completionRecordResend a0 => Encoding.completionRecordResend a0
  | .tailDoorbell a0 a1 => Encoding.tailDoorbell a0 a1
  | .queueEnable a0 => Encoding.queueEnable a0
  | .queueDisable a0 => Encoding.queueDisable a0
  | .registerWrite a0 a1 => Encoding.registerWrite a0 a1
  | .queuePollTimer a0 => Encoding.queuePollTimer a0
  | .channelTranslate a0 a1 a2 => Encoding.channelTranslate a0 a1 a2
  | .tableWalk a0 a1 => Encoding.tableWalk a0 a1
  | .privateWriteback a0 a1 a2 => Encoding.privateWriteback a0 a1 a2
  | .eccRetry a0 a1 => Encoding.eccRetry a0 a1
  | .liftError a0 a1 a2 => Encoding.liftError a0 a1 a2
  | .liftSourcePark a0 a1 a2 => Encoding.liftSourcePark a0 a1 a2
  | .multicastHeldDelivery a0 a1 a2 => Encoding.multicastHeldDelivery a0 a1 a2
  | .collectiveWithdraw a0 => Encoding.collectiveWithdraw a0
  | .flitCrcRetry a0 => Encoding.flitCrcRetry a0
  | .linkLaneFail a0 => Encoding.linkLaneFail a0
  | .linkDown a0 => Encoding.linkDown a0
  | .vlPause a0 a1 a2 => Encoding.vlPause a0 a1 a2
  | .packetAccept a0 => Encoding.packetAccept a0
  | .packetRetransmit a0 => Encoding.packetRetransmit a0
  | .requestDeadline a0 => Encoding.requestDeadline a0
  | .routeTableInstall a0 => Encoding.routeTableInstall a0
  | .routeTableSwitchover a0 => Encoding.routeTableSwitchover a0
  | .routeTableRetire a0 => Encoding.routeTableRetire a0
  | .multicastBranchSend a0 a1 => Encoding.multicastBranchSend a0 a1
  | .switchWriteback a0 a1 a2 => Encoding.switchWriteback a0 a1 a2
  | .skewMeasure a0 a1 => Encoding.skewMeasure a0 a1
  | .collBarrier a0 a1 a2 => Encoding.collBarrier a0 a1 a2
  | .collBroadcast a0 a1 a2 a3 => Encoding.collBroadcast a0 a1 a2 a3
  | .collAllreduce a0 a1 a2 a3 => Encoding.collAllreduce a0 a1 a2 a3
  | .collReduceScatter a0 a1 a2 a3 => Encoding.collReduceScatter a0 a1 a2 a3
  | .collAllgather a0 a1 a2 a3 => Encoding.collAllgather a0 a1 a2 a3
  | .agreementReport a0 a1 a2 a3 a4 => Encoding.agreementReport a0 a1 a2 a3 a4
  | .collDeadline a0 a1 a2 => Encoding.collDeadline a0 a1 a2
  | .agreementFallback a0 a1 a2 a3 a4 => Encoding.agreementFallback a0 a1 a2 a3 a4
  | .collStatusWrite a0 a1 a2 => Encoding.collStatusWrite a0 a1 a2
  | .rdmaWrite a0 a1 a2 a3 => Encoding.rdmaWrite a0 a1 a2 a3
  | .rdmaRead a0 a1 a2 a3 => Encoding.rdmaRead a0 a1 a2 a3
  | .invalidRequestNak a0 => Encoding.invalidRequestNak a0
  | .fqResolve a0 a1 a2 => Encoding.fqResolve a0 a1 a2
  | .fqDecline a0 a1 a2 => Encoding.fqDecline a0 a1 a2
  | .fqInvalidate a0 a1 a2 a3 => Encoding.fqInvalidate a0 a1 a2 a3
  | .fqKeyInvalidate a0 a1 a2 a3 => Encoding.fqKeyInvalidate a0 a1 a2 a3
  | .fqScrub a0 a1 a2 => Encoding.fqScrub a0 a1 a2
  | .faultReportPost => Encoding.faultReportPost
  | .coldReset => Encoding.coldReset
  | .bootImageReceive a0 => Encoding.bootImageReceive a0
  | .hbmRecalibrate => Encoding.hbmRecalibrate
  | .resumePlace a0 => Encoding.resumePlace a0
  | .backoffEnd a0 => Encoding.backoffEnd a0
  | .powerArbiterGrant a0 a1 => Encoding.powerArbiterGrant a0 a1
  | .thermalThrottle a0 => Encoding.thermalThrottle a0
  | .thermalRelease a0 => Encoding.thermalRelease a0
  | .thermalTrip => Encoding.thermalTrip
  | .mgmtReadStatus => Encoding.mgmtReadStatus
  | .mgmtReadCap => Encoding.mgmtReadCap
  | .mgmtWriteCap a0 => Encoding.mgmtWriteCap a0
  | .mgmtReadRowThreshold => Encoding.mgmtReadRowThreshold
  | .mgmtWriteRowThreshold a0 => Encoding.mgmtWriteRowThreshold a0
  | .mgmtWarmReset => Encoding.mgmtWarmReset
  | .unassignedWord a0 => Encoding.unassignedWord a0
  | .completionRecordNak a0 => Encoding.completionRecordNak a0
  | .connectionFailure a0 => Encoding.connectionFailure a0
  | .modulePowerOff => Encoding.modulePowerOff

/-- Settles O53, constructor by constructor. -/
theorem encodingRoundTrip : Obligations.EncodingRoundTrip := decode_encode

end Sys2Proof.Proofs
end

section
/-! SUPPORT. The scalar words and the control words of spec/04 (R46-R50, R101-R117): arithmetic on 64-bit words, masks, status
registers, transfers, EXIT and HOLD. -/

namespace Sys2Proof.Proofs

open Sys2Proof.Machine Sys2Proof.Safety

/-! ## Arithmetic on 64-bit words (R102) -/

/-- Bits 127:64 of a product are those of the product of the sign-extended factors. -/
theorem mulHigh64_eq (x y : DWord) : mulHigh64 x y = (x.signExtend 128 * y.signExtend 128).extractLsb' 64 64 := by
  have hx := BitVec.toInt_lt (x := x); have hx' := BitVec.le_toInt (x := x)
  have hy := BitVec.toInt_lt (x := y); have hy' := BitVec.le_toInt (x := y)
  apply BitVec.eq_of_toNat_eq
  rw [mulHigh64, BitVec.extractLsb'_toNat, Nat.shiftRight_eq_div_pow, ← BitVec.ofInt_toInt (x := x.signExtend 128 * y.signExtend 128),
    BitVec.toInt_mul, BitVec.toInt_signExtend_of_le (by decide), BitVec.toInt_signExtend_of_le (by decide), BitVec.toNat_ofInt,
    BitVec.toNat_ofInt]
  generalize x.toInt * y.toInt = p
  rw [Int.bmod_def]
  omega

/-- The signed minimum, by the comparison of words. -/
theorem smin64_eq (x y : DWord) : smin64 x y = if x.slt y then x else y := by
  rw [smin64, BitVec.slt_eq_decide]
  rcases lt_trichotomy x.toInt y.toInt with h | h | h
  · simp [h, h.le]
  · simp [BitVec.eq_of_toInt_eq h]
  · simp [h, h.le]

/-- The signed maximum, by the comparison of words. -/
theorem smax64_eq (x y : DWord) : smax64 x y = if x.slt y then y else x := by
  rw [smax64, BitVec.slt_eq_decide]
  by_cases h : x.toInt < y.toInt <;> simp [h]

theorem shl64_eq (x y : DWord) : shl64 x y = BitVec.ofNat 64 (x.toNat * 2 ^ y.toNat) := by
  apply BitVec.eq_of_toNat_eq
  rw [shl64, BitVec.toNat_ofNat]
  split
  · rw [BitVec.toNat_shiftLeft, Nat.shiftLeft_eq]
  next h => exact (Nat.mod_eq_zero_of_dvd (Dvd.dvd.mul_left (Nat.pow_dvd_pow 2 (by omega)) _)).symm

theorem shr64_eq (x y : DWord) : shr64 x y = BitVec.ofNat 64 (x.toNat / 2 ^ y.toNat) := by
  apply BitVec.eq_of_toNat_eq
  rw [shr64, BitVec.toNat_ofNat, Nat.mod_eq_of_lt (lt_of_le_of_lt (Nat.div_le_self _ _) x.isLt)]
  split
  · rw [BitVec.toNat_ushiftRight, Nat.shiftRight_eq_div_pow]
  next h => exact (Nat.div_eq_of_lt (lt_of_lt_of_le x.isLt (Nat.pow_le_pow_right (by decide) (by omega)))).symm

/-- A negative number divided by a number at least as large. -/
theorem ediv_eq_neg_one {a b : Int} (ha : a < 0) (hb : -a ≤ b) : a / b = -1 := by
  apply le_antisymm
  · have := Int.ediv_neg_of_neg_of_pos ha (show 0 < b by omega)
    omega
  · rw [Int.le_ediv_iff_mul_le (by omega)]
    omega

/-- From 64 on, an arithmetic shift gives copies of the sign, as one by 63 does. -/
theorem sar64_eq (x y : DWord) : sar64 x y = BitVec.ofInt 64 (x.toInt / (2 ^ y.toNat : Nat)) := by
  have hx := BitVec.toInt_lt (x := x); have hx' := BitVec.le_toInt (x := x)
  have hdiv : x.toInt / (2 ^ min y.toNat 63 : Nat) = x.toInt / (2 ^ y.toNat : Nat) := by
    rcases Nat.le_total y.toNat 63 with h | h
    · rw [Nat.min_eq_left h]
    · rw [Nat.min_eq_right h]
      have hp : ((2 ^ 63 : Nat) : Int) ≤ (2 ^ y.toNat : Nat) := by exact_mod_cast Nat.pow_le_pow_right (by decide) h
      generalize ((2 ^ y.toNat : Nat) : Int) = q at hp ⊢
      rcases le_or_gt 0 x.toInt with h0 | h0
      · rw [Int.ediv_eq_zero_of_lt h0 (by omega), Int.ediv_eq_zero_of_lt h0 (by omega)]
      · rw [ediv_eq_neg_one h0 (by omega), ediv_eq_neg_one h0 (by omega)]
  rw [← hdiv, sar64, ← BitVec.ofInt_toInt (x := x.sshiftRight _), BitVec.toInt_sshiftRight, Int.shiftRight_eq_div_pow]

theorem dw_leadingZeros (x : DWord) :
    dw (leadingZeros 64 x.toNat) = BitVec.ofNat 64 (((List.range 64).find? fun k => x.getLsbD (63 - k)).getD 64) := by
  rw [dw, leadingZeros_eq]; rfl

theorem dw_popcount (x : DWord) : dw (popcount 64 x.toNat) = BitVec.ofNat 64 ((List.range 64).filter fun k => x.getLsbD k).length := by
  rw [dw, popcount_eq]; rfl

theorem dw_lowestSet (x : DWord) :
    dw (lowestSet 64 x.toNat) = BitVec.ofNat 64 (((List.range 64).find? fun k => x.getLsbD k).getD 64) := by
  rw [dw, lowestSet_eq]; rfl

/-! ## Words that name no vector register -/

/-- A word that reads and frees no vector register, whatever the type of its pack. -/
def NoVector (i : Instr) : Prop := ∀ t, (uses t i).vr = [] ∧ (uses t i).fr = []

/-- It leaves the sources of its pack as they are. -/
theorem consume_of_noVector {i : Instr} (hi : NoVector i) (p : Pack) : p.consume i = p := consume_none p i (hi _).1 (hi _).2

/-- A scalar word that names no vector register. -/
theorem writesScalar_of_noVector {i : Instr} {s : State} {d : BitVec 6} {f : Pack → DWord} {v : DWord} (hi : NoVector i) (h : Issues i s)
    (he : exec i s = scalarWord i d s f) (hv : f s.pk = v) : WritesScalar i d v s :=
  writesScalar h he (consume_of_noVector hi _) hv

/-- A scalar word of two sources that names no vector register. -/
theorem scalar2_of_noVector {i : Bool → BitVec 6 → BitVec 6 → BitVec 6 → Instr} {f g : DWord → DWord → DWord}
    (hg : ∀ x y, g x y = f x y) (hi : ∀ e d a b, NoVector (i e d a b))
    (he : ∀ e d a b s, exec (i e d a b) s = scalarWord (i e d a b) d s fun p => g (p.s a.toNat) (p.s b.toNat)) : Scalar2 i f := by
  intro e d a b s h
  exact writesScalar_of_noVector (hi _ _ _ _) h (he ..) (hg ..)

/-- A scalar word of one source that names no vector register. -/
theorem scalar1_of_noVector {i : Bool → BitVec 6 → BitVec 6 → Instr} {f g : DWord → DWord} (hg : ∀ x, g x = f x)
    (hi : ∀ e d a, NoVector (i e d a)) (he : ∀ e d a s, exec (i e d a) s = scalarWord (i e d a) d s fun p => g (p.s a.toNat)) :
    Scalar1 i f := by
  intro e d a s h
  exact writesScalar_of_noVector (hi _ _ _) h (he ..) (hg ..)

/-- A scalar word with an immediate that names no vector register. -/
theorem scalarImm_of_noVector {n : Nat} {i : Bool → BitVec 6 → BitVec 6 → BitVec n → Instr} {f g : DWord → BitVec n → DWord}
    (hg : ∀ x c, g x c = f x c) (hi : ∀ e d a c, NoVector (i e d a c))
    (he : ∀ e d a c s, exec (i e d a c) s = scalarWord (i e d a c) d s fun p => g (p.s a.toNat) c) : ScalarImm i f := by
  intro e d a c s h
  exact writesScalar_of_noVector (hi _ _ _ _) h (he ..) (hg ..)

/-- SSEL chooses by s[d]. -/
theorem ssel_writes (e : Bool) (d a b : BitVec 6) (s : State) (h : Issues (.ssel e d a b) s) :
    WritesScalar (.ssel e d a b) d (if s.pk.s d.toNat = 0 then s.pk.s b.toNat else s.pk.s a.toNat) s :=
  writesScalar_of_noVector (fun _ => ⟨rfl, rfl⟩) h rfl (ite_not ..)

/-- Settles O1, word by word. -/
theorem scalarArithmetic : Obligations.ScalarArithmetic :=
  ⟨scalar2_of_noVector (fun _ _ => rfl) (fun _ _ _ _ _ => ⟨rfl, rfl⟩) fun _ _ _ _ _ => rfl,
   scalar2_of_noVector (fun _ _ => rfl) (fun _ _ _ _ _ => ⟨rfl, rfl⟩) fun _ _ _ _ _ => rfl,
   scalar2_of_noVector (fun _ _ => rfl) (fun _ _ _ _ _ => ⟨rfl, rfl⟩) fun _ _ _ _ _ => rfl,
   scalar2_of_noVector mulHigh64_eq (fun _ _ _ _ _ => ⟨rfl, rfl⟩) fun _ _ _ _ _ => rfl,
   scalar2_of_noVector (fun _ _ => rfl) (fun _ _ _ _ _ => ⟨rfl, rfl⟩) fun _ _ _ _ _ => rfl,
   scalar2_of_noVector (fun _ _ => rfl) (fun _ _ _ _ _ => ⟨rfl, rfl⟩) fun _ _ _ _ _ => rfl,
   scalar2_of_noVector (fun _ _ => rfl) (fun _ _ _ _ _ => ⟨rfl, rfl⟩) fun _ _ _ _ _ => rfl,
   scalar2_of_noVector (fun _ _ => rfl) (fun _ _ _ _ _ => ⟨rfl, rfl⟩) fun _ _ _ _ _ => rfl,
   scalar2_of_noVector smin64_eq (fun _ _ _ _ _ => ⟨rfl, rfl⟩) fun _ _ _ _ _ => rfl,
   scalar2_of_noVector smax64_eq (fun _ _ _ _ _ => ⟨rfl, rfl⟩) fun _ _ _ _ _ => rfl,
   scalar1_of_noVector (fun _ => rfl) (fun _ _ _ _ => ⟨rfl, rfl⟩) fun _ _ _ _ => rfl,
   scalar1_of_noVector dw_leadingZeros (fun _ _ _ _ => ⟨rfl, rfl⟩) fun _ _ _ _ => rfl,
   scalar1_of_noVector dw_popcount (fun _ _ _ _ => ⟨rfl, rfl⟩) fun _ _ _ _ => rfl,
   ssel_writes,
   scalar2_of_noVector shl64_eq (fun _ _ _ _ _ => ⟨rfl, rfl⟩) fun _ _ _ _ _ => rfl,
   scalar2_of_noVector shr64_eq (fun _ _ _ _ _ => ⟨rfl, rfl⟩) fun _ _ _ _ _ => rfl,
   scalar2_of_noVector sar64_eq (fun _ _ _ _ _ => ⟨rfl, rfl⟩) fun _ _ _ _ _ => rfl⟩

/-! ## SCMP, the immediate forms, SLI and SHI (R101-R103) -/

/-- The comparison of SCMP, as the entry of a table of conditions (R56). -/
theorem scmp64_eq (c : BitVec 3) (x y : DWord) : scmp64 c x y = decide
    ([x == y, x != y, x.slt y, x.sle y, y.slt x, y.sle x, x.ult y, y.ule x][c.toNat]? = some true) := by
  have hc := c.isLt
  rw [scmp64]
  generalize c.toNat = n at hc
  interval_cases n <;> simp [BitVec.slt_eq_decide, BitVec.sle_eq_decide, BitVec.ult, BitVec.ule, beq_eq_decide, bne]

/-- Settles O2. -/
theorem scalarCompare : Obligations.ScalarCompare := by
  intro e d a b c s h
  exact writesScalar_of_noVector (fun _ => ⟨rfl, rfl⟩) h rfl (by simp only [scmp64_eq, decide_eq_true_eq])

/-- A count of six bits is below 64, so that a shift by it is never past the width. -/
theorem toNat_dw_six (c : BitVec 6) : (dw c.toNat).toNat = c.toNat := by
  have hc := c.isLt
  rw [dw, BitVec.toNat_ofNat]
  omega

theorem shl64_six (x : DWord) (c : BitVec 6) : shl64 x (dw c.toNat) = x <<< c.toNat := by
  rw [shl64, toNat_dw_six, if_pos c.isLt]

theorem shr64_six (x : DWord) (c : BitVec 6) : shr64 x (dw c.toNat) = x >>> c.toNat := by
  rw [shr64, toNat_dw_six, if_pos c.isLt]

theorem sar64_six (x : DWord) (c : BitVec 6) : sar64 x (dw c.toNat) = x.sshiftRight c.toNat := by
  have hc := c.isLt
  rw [sar64, toNat_dw_six, Nat.min_eq_left (by omega)]

/-- A register with one 16-bit quarter replaced. -/
theorem setQuarter_bit (x : DWord) (q : BitVec 2) (c : BitVec 16) (k : Nat) (hk : k < 64) :
    (setBitsOf x (16 * q.toNat + 15) (16 * q.toNat) c.toNat).getLsbD k =
      if 16 * q.toNat ≤ k ∧ k < 16 * q.toNat + 16 then c.getLsbD (k - 16 * q.toNat) else x.getLsbD k := by
  have hn : 16 * q.toNat + 15 + 1 - 16 * q.toNat = 16 := by omega
  rw [setBitsOf, hn, Nat.mod_eq_of_lt c.isLt]
  simp only [BitVec.getLsbD_or, BitVec.getLsbD_and, BitVec.getLsbD_not, BitVec.getLsbD_ofNat, hk, decide_true, Bool.true_and,
    Nat.testBit_mul_two_pow, Nat.testBit_two_pow_sub_one, BitVec.testBit_toNat]
  by_cases hlo : 16 * q.toNat ≤ k
  · by_cases hhi : k < 16 * q.toNat + 16
    · simp [hlo, hhi, show k - 16 * q.toNat < 16 by omega]
    · simp [hlo, hhi, show ¬ k - 16 * q.toNat < 16 by omega, BitVec.getLsbD_of_ge c (k - 16 * q.toNat) (by omega)]
  · simp [hlo]

/-- SHI replaces one quarter of s[d] (R103). -/
theorem shi_writes (e : Bool) (d : BitVec 6) (q : BitVec 2) (c : BitVec 16) (s : State) (h : Issues (.shi e d q c) s) :
    WritesScalar (.shi e d q c) d (setBitsOf (s.pk.s d.toNat) (16 * q.toNat + 15) (16 * q.toNat) c.toNat) s :=
  writesScalar_of_noVector (fun _ => ⟨rfl, rfl⟩) h rfl rfl

/-- Settles O3, word by word. -/
theorem scalarImmediate : Obligations.ScalarImmediate :=
  ⟨scalarImm_of_noVector (fun _ _ => rfl) (fun _ _ _ _ _ => ⟨rfl, rfl⟩) fun _ _ _ _ _ => rfl,
   scalarImm_of_noVector (fun _ _ => rfl) (fun _ _ _ _ _ => ⟨rfl, rfl⟩) fun _ _ _ _ _ => rfl,
   scalarImm_of_noVector (fun _ _ => rfl) (fun _ _ _ _ _ => ⟨rfl, rfl⟩) fun _ _ _ _ _ => rfl,
   scalarImm_of_noVector (fun _ _ => rfl) (fun _ _ _ _ _ => ⟨rfl, rfl⟩) fun _ _ _ _ _ => rfl,
   scalarImm_of_noVector (fun _ _ => rfl) (fun _ _ _ _ _ => ⟨rfl, rfl⟩) fun _ _ _ _ _ => rfl,
   scalarImm_of_noVector shl64_six (fun _ _ _ _ _ => ⟨rfl, rfl⟩) fun _ _ _ _ _ => rfl,
   scalarImm_of_noVector shr64_six (fun _ _ _ _ _ => ⟨rfl, rfl⟩) fun _ _ _ _ _ => rfl,
   scalarImm_of_noVector sar64_six (fun _ _ _ _ _ => ⟨rfl, rfl⟩) fun _ _ _ _ _ => rfl,
   fun _ _ _ _ h => writesScalar_of_noVector (fun _ => ⟨rfl, rfl⟩) h rfl rfl,
   fun _ _ _ _ _ h => ⟨_, shi_writes _ _ _ _ _ h, fun _ => setQuarter_bit _ _ _ _⟩⟩

/-! ## Masks (R104) -/

/-- A word that names no vector register, and writes s[d] and the execution mask. -/
theorem setsScalarAndMask_of {i : Instr} {s : State} {d : Nat} {v m : Pack → DWord} (hi : NoVector i) (h : Issues i s)
    (he : exec i s = .next (packWord i s fun p t => { t.setS d (v p) with em := m p })) :
    PackOnly i s (SetsScalarAndMask d (v s.pk) (m s.pk)) := by
  refine packWord_packOnly h he ?_ ?_
  · rw [consume_of_noVector hi]; exact ⟨rfl, rfl, rfl, rfl, rfl⟩
  · intro q pc rp st si pp
    subst q
    rw [consume_of_noVector hi]
    exact ⟨rfl, fun r => Tab.get_set ..⟩

/-- MSKS writes the execution mask. -/
theorem msks_sets (e : Bool) (a : BitVec 6) (s : State) (h : Issues (.msks e a) s) :
    PackOnly (.msks e a) s fun p q => q = { stepped p q with em := p.s a.toNat } := by
  refine packWord_packOnly (f := fun p t => { t with em := p.s a.toNat }) h rfl ?_ ?_
  · rw [consume_of_noVector fun _ => ⟨rfl, rfl⟩]; exact ⟨rfl, rfl, rfl, rfl, rfl⟩
  · intro q pc rp st si pp
    subst q
    rw [consume_of_noVector fun _ => ⟨rfl, rfl⟩]; rfl

/-- Settles O4, word by word. -/
theorem maskWords : Obligations.MaskWords :=
  ⟨fun _ _ a _ h => setsScalarAndMask_of (v := fun p => p.em) (m := fun p => p.em &&& p.p a.toNat) (fun _ => ⟨rfl, rfl⟩) h rfl,
   fun _ _ a _ h => setsScalarAndMask_of (v := fun p => p.em) (m := fun p => p.em &&& ~~~(p.p a.toNat)) (fun _ => ⟨rfl, rfl⟩) h rfl,
   msks_sets,
   fun _ _ _ h => writesScalar_of_noVector (fun _ => ⟨rfl, rfl⟩) h rfl rfl,
   fun _ _ _ _ h => writesScalar_of_noVector (fun _ => ⟨rfl, rfl⟩) h rfl (dw_popcount _),
   fun _ _ _ _ h => writesScalar_of_noVector (fun _ => ⟨rfl, rfl⟩) h rfl (dw_lowestSet _)⟩

/-! ## Status registers and counters, NOP and YIELD (R57, R105-R107, R385) -/

/-- A word completes from the state that its meaning answers. -/
theorem completesFrom_of {i : Instr} {s u : State} {body : State → State → Res} (h : Issues i s)
    (he : exec i s = .next (issueWord i s body)) (hb : body s (sourced i s) = .done u) : CompletesFrom i s u := by
  rw [CompletesFrom, he, issueWord_done h hb]

/-- A word that names no vector register leaves the state as it is when its sources are consumed. -/
theorem sourced_of_noVector {i : Instr} (hi : NoVector i) (s : State) : sourced i s = s := by
  rw [sourced, consume_of_noVector hi]

/-- SRD writes what its code names. -/
theorem srd_writes (e : Bool) (d a : BitVec 6) (s : State) (h : Issues (.srd e d a) s) :
    WritesScalar (.srd e d a) d (statusReg s a.toNat) s := by
  refine writesScalar_of_noVector (f := fun _ => statusReg s a.toNat) (fun _ => ⟨rfl, rfl⟩) h ?_ rfl
  show Host.Outcome.next _ = Host.Outcome.next (packWord ..)
  rw [packWord, issueWord_done h rfl, issueWord_done h rfl]

/-- CNTRD returns what reading its counter answers. -/
theorem cntrd_returns (e : Bool) (d a : BitVec 6) (s : State) (h : Issues (.cntrd e d a) s) (v : DWord) (u : State)
    (hv : s.counter ((s.pk.s a.toNat).toNat % 256) = (v, u)) (hu : u = { s with free := u.free }) :
    Returns (.cntrd e d a) s u d v := by
  refine completesFrom_of h rfl ?_
  rw [sourced_of_noVector fun _ => ⟨rfl, rfl⟩]
  simp only [hv]
  rw [hu]

/-- The counters of time and of cc read as free values (log 11). -/
theorem counter_free {s : State} {n : Nat} (h : n ≤ 5 ∨ n = 7 ∨ n = 8) :
    s.counter n = (Config.freeValue s.free, { s with free := s.free + 1 }) := by
  rw [State.counter, if_pos (by simpa [or_assoc] using h)]; rfl

theorem counter_core {s : State} {n : Nat} (h : n = 6 ∨ n = 9) : s.counter n = (Tab.get 0 (s.core s.tm.core).count n, s) := by
  obtain rfl | rfl := h <;> rfl

theorem counter_device {s : State} {n : Nat} (h : 10 ≤ n ∧ n ≤ 16) : s.counter n = (Tab.get 0 s.count n, s) := by
  rw [State.counter, if_neg (by simp; omega), if_neg (by omega), if_pos h.2]

theorem counter_above {s : State} {n : Nat} (h : 17 < n) : s.counter n = (0, s) := by
  rw [State.counter, if_neg (by simp; omega), if_neg (by omega), if_neg (by omega), if_neg (by omega)]

/-- NOP changes nothing beside the PC and the run. -/
theorem nop_packOnly (e : Bool) (s : State) (h : Issues (.nop e) s) : PackOnly (.nop e) s fun p q => q = stepped p q := by
  refine packWord_packOnly (f := fun _ t => t) h rfl ?_ ?_
  · rw [consume_of_noVector fun _ => ⟨rfl, rfl⟩]; exact ⟨rfl, rfl, rfl, rfl, rfl⟩
  · intro q pc rp st si pp
    subst q
    rw [consume_of_noVector fun _ => ⟨rfl, rfl⟩]; rfl

/-- YIELD, whether or not it ends the run. -/
theorem yield_exec (e : Bool) (s : State) (h : Issues (.yield e) s) : exec (.yield e) s = .next { s.countWord with
    pk := { s.pk with pc := s.pk.pc + 4, since := s.gtc, declined := none, atPpt := s.pk.pptKept,
                      runpos := if e then 0 else s.pk.runpos + 1,
                      status := if e && s.pk.status == .running then .ready else s.pk.status } } := by
  have hx : exec (.yield e) s = .next (issueWord (.yield e) s fun s t => .done { t with pk := { t.pk with since := s.gtc } }) := rfl
  rw [hx, issueWord_done h rfl, consume_of_noVector fun _ => ⟨rfl, rfl⟩]
  cases e
  · rfl
  · simp only [Bool.true_and, beq_iff_eq]; rfl

/-- Settles O6. -/
theorem statusWords : Obligations.StatusWords := by
  refine ⟨fun e d a s h ha => ⟨statusReg s a.toNat, ?_, srd_writes e d a s h⟩, fun e d a s h => ?_, nop_packOnly, yield_exec⟩
  · generalize a.toNat = n at ha
    rcases Nat.lt_or_eq_of_le (Nat.le_of_lt_succ ha) with hn | rfl
    · interval_cases n <;> rfl
    · cases hs : s.pk.staleSeen <;> simp [statusReg, Pack.stale, hs, dw]
  · exact ⟨fun hn => cntrd_returns e d a s h _ _ (counter_free hn) rfl, fun hn => cntrd_returns e d a s h _ _ (counter_core hn) rfl,
      fun hn => cntrd_returns e d a s h _ _ (counter_device hn) rfl,
      fun hn => cntrd_returns e d a s h _ _ (by rw [show _ % 256 = 17 from hn]; rfl) rfl,
      fun hn => cntrd_returns e d a s h _ _ (counter_above hn) rfl⟩

/-! ## Control transfers (R109, R115) -/

/-- The target of a branch, its offset counted in words (R115). -/
theorem branchTarget_eq {n : Nat} (pc : DWord) (o : BitVec n) : branchTarget pc o = pc + 4 * o.signExtend 64 := by
  rw [branchTarget, BitVec.shiftLeft_eq_mul_twoPow, BitVec.mul_comm]; rfl

/-- A branch, taken or not. -/
theorem transfers_of_branch {i : Instr} {n : Nat} {o : BitVec n} {s : State} {c : Pack → Bool} {pc : DWord} (hi : NoVector i)
    (h : Issues i s) (he : exec i s = branchWord i s o c)
    (hpc : (if c s.pk then s.pk.pc + 4 * o.signExtend 64 else s.pk.pc + 4) = pc) : Transfers i s pc s.pk.sregs := by
  refine transfers_of (f := fun s _ => if c s.pk then branchTarget s.pk.pc o else s.pk.next) h (consume_of_noVector hi _) he ?_
  rw [branchTarget_eq]; exact hpc

/-- CALL links in s63. -/
theorem call_transfers (o : BitVec 22) (s : State) (h : Issues (.call o) s) :
    Transfers (.call o) s (s.pk.pc + 4 * o.signExtend 64) (s.pk.setS 63 (s.pk.pc + 4)).sregs := by
  have hx : exec (.call o) s = .next (issueWord (.call o) s fun s t =>
    .jump { t with pk := t.pk.setS 63 s.pk.next } (branchTarget s.pk.pc o)) := rfl
  rw [Transfers, hx, issueWord_jump h rfl, consume_of_noVector fun _ => ⟨rfl, rfl⟩, branchTarget_eq]
  rfl

/-- Settles O7, word by word. -/
theorem controlTransfers : Obligations.ControlTransfers :=
  ⟨fun a _ h => transfers_of (f := fun s _ => s.pk.s a.toNat) h (consume_of_noVector (fun _ => ⟨rfl, rfl⟩) _) rfl rfl,
   fun a _ h => transfers_of (f := fun s _ => s.pk.s a.toNat) h (consume_of_noVector (fun _ => ⟨rfl, rfl⟩) _) rfl rfl,
   fun _ _ h => transfers_of_branch (c := fun _ => true) (fun _ => ⟨rfl, rfl⟩) h rfl rfl,
   call_transfers,
   fun _ _ h => transfers_of_branch (c := fun p => p.em == 0) (fun _ => ⟨rfl, rfl⟩) h rfl (by simp only [beq_iff_eq]),
   fun _ _ h => transfers_of_branch (c := fun p => p.em == allOnes) (fun _ => ⟨rfl, rfl⟩) h rfl (by simp only [beq_iff_eq]),
   fun r _ _ h => transfers_of_branch (c := fun p => p.s r.toNat == 0) (fun _ => ⟨rfl, rfl⟩) h rfl (by simp only [beq_iff_eq]),
   fun r _ _ h => transfers_of_branch (c := fun p => p.s r.toNat != 0) (fun _ => ⟨rfl, rfl⟩) h rfl (by
     simp only [bne_iff_ne, ite_not])⟩

/-! ## EXIT and HOLD (R48, R108, R113) -/

/-- A counter is under its threshold, or left out by 31 (R113). -/
theorem thresholdMet_iff (n : Nat) (f : BitVec 5) : thresholdMet n f = true ↔ f = 31 ∨ n ≤ f.toNat := by
  simp [thresholdMet]

/-- The condition of HOLD, counter by counter. -/
theorem holdMet_iff (p : Pack) (l s t m c : BitVec 5) : holdMet p l s t m c = true ↔
    (l = 31 ∨ p.counter .ld ≤ l.toNat) ∧ (s = 31 ∨ p.counter .st ≤ s.toNat) ∧ (t = 31 ∨ p.counter .tl ≤ t.toNat) ∧
      (m = 31 ∨ p.counter .mx ≤ m.toNat) ∧ (c = 31 ∨ p.counter .dc ≤ c.toNat) := by
  simp only [holdMet, Bool.and_eq_true, thresholdMet_iff, and_assoc]

/-- A blocking word with no record pending: it goes on where its condition is met. -/
theorem transfers_of_blockWord {i : Instr} {s : State} {met : Bool} {w : Wait} {body : State → State → Res} (hi : NoVector i)
    (h : Issues i s) (he : exec i s = .next (issueWord i s body)) (hb : body s s = blockWord s s met w)
    (hp : s.pk.hasPending = false) (hm : met = true) : Transfers i s (s.pk.pc + 4) s.pk.sregs := by
  have hx : body s { s with pk := s.pk.consume i } = .own (s.goto true s.pk.next) := by
    rw [consume_of_noVector hi, hb, blockWord, hp, hm]; rfl
  rw [Transfers, he, issueWord_own h hx]; rfl

/-- A blocking word with no record pending waits where its condition is not met. -/
theorem exec_of_blockWord_waits {i : Instr} {s : State} {met : Bool} {w : Wait} {body : State → State → Res} (hi : NoVector i)
    (h : Issues i s) (he : exec i s = .next (issueWord i s body)) (hb : body s s = blockWord s s met w)
    (hp : s.pk.hasPending = false) (hm : met = false) :
    exec i s = .next { s.countWord with pk := { s.pk with status := .waiting, wait := w } } := by
  have hx : body s { s with pk := s.pk.consume i } = .own (s.block w) := by
    rw [consume_of_noVector hi, hb, blockWord, hp, hm]; rfl
  rw [he, issueWord_own h hx]; rfl

/-- EXIT with no record pending. -/
theorem exit_exec (s : State) (h : Issues .exit s) (hp : s.pk.hasPending = false) : exec .exit s = .next { s.countWord with
      pk := { s.pk with status := .exiting, runpos := 0, atPpt := s.pk.pptKept }
      agenda := s.agenda ++ [.packRetire s.pk.id] } := by
  have hx : exec .exit s = .next (issueWord .exit s fun s t => if s.pk.hasPending then .own s.takePending
    else .own ({ t with pk := { t.pk with status := .exiting, runpos := 0, atPpt := t.pk.pptKept } }.push [.packRetire t.pk.id])) := rfl
  rw [hx, issueWord_own h (if_neg (by simp [hp])), consume_of_noVector fun _ => ⟨rfl, rfl⟩]
  rfl

/-- A word with a pending record takes its trap. -/
theorem exec_takePending {i : Instr} {s : State} {body : State → State → Res} (h : Issues i s)
    (he : exec i s = .next (issueWord i s body)) (hb : body s (sourced i s) = .own s.takePending) :
    exec i s = .next s.takePending.countWord := by
  rw [he, issueWord_own h hb]

/-- Settles O8. -/
theorem exitAndHold : Obligations.ExitAndHold := by
  refine ⟨exit_exec, fun e l st t m c s h hp => ⟨fun hm => ?_, fun hm => ?_⟩, ?_⟩
  · exact transfers_of_blockWord (fun _ => ⟨rfl, rfl⟩) h rfl rfl hp ((holdMet_iff ..).2 hm)
  · exact exec_of_blockWord_waits (fun _ => ⟨rfl, rfl⟩) h rfl rfl hp
      (Bool.eq_false_iff.2 fun hx => hm ((holdMet_iff ..).1 hx))
  · rintro i s (rfl | ⟨e, l, st, t, m, c, rfl⟩) h hp
    · exact exec_takePending h rfl (if_pos hp)
    · exact exec_takePending h rfl (if_pos hp)

end Sys2Proof.Proofs
end

section
/-! SUPPORT. The integer vector words of spec/05 (R118-R134): saturation, element-wise arithmetic and logic, the words that move
lanes, and the words on predicates. -/

namespace Sys2Proof.Proofs

open Sys2Proof.Machine Sys2Proof.Safety

/-! ## Saturation (R7, R79) -/

/-- The widths of the element types (R120). -/
theorem elemTy_w_cases (ty : Nat) : (elemTy ty).w = 8 ∨ (elemTy ty).w = 16 ∨ (elemTy ty).w = 32 ∨ (elemTy ty).w = 64 := by
  unfold elemTy
  split <;> simp

/-- A number in the range of an element type is the value of the pattern that it wraps to. -/
theorem val_wrapNat {t : Elem} {r : Int} (hw : t.w = 8 ∨ t.w = 16 ∨ t.w = 32 ∨ t.w = 64) (hlo : intMin t.w t.sg ≤ r)
    (hhi : r ≤ intMax t.w t.sg) : t.val (wrapNat r t.w) = r := by
  obtain ⟨w, n, sg, wide⟩ := t
  cases sg <;> simp only [Elem.val, signed, wrapNat, intMin, intMax, Bool.false_eq_true, if_true, if_false] at *
  · obtain rfl | rfl | rfl | rfl := hw <;> omega
  · obtain rfl | rfl | rfl | rfl := hw <;> split_ifs <;> omega

/-- The range of an element type is not empty. -/
theorem intMin_le_intMax (w : Nat) (sg : Bool) : intMin w sg ≤ intMax w sg := by
  have h1 := Nat.two_pow_pos (w - 1)
  have h2 := Nat.two_pow_pos w
  cases sg <;> simp only [intMin, intMax, Bool.false_eq_true, if_true, if_false] <;> omega

/-- Without SAT a result wraps, and raises nothing. -/
theorem saturated_false (t : Elem) (r : Int) : saturated t false r = (wrapNat r t.w, 0) := rfl

/-- Under SAT, a result in range is kept. -/
theorem saturated_in {t : Elem} {r : Int} (hlo : intMin t.w t.sg ≤ r) (hhi : r ≤ intMax t.w t.sg) :
    saturated t true r = (wrapNat r t.w, 0) := by
  simp [saturated, satInt, not_lt.2 hlo, not_lt.2 hhi]

/-- Under SAT, a result below the range becomes its least value. -/
theorem saturated_below {t : Elem} {r : Int} (h : r < intMin t.w t.sg) :
    saturated t true r = (wrapNat (intMin t.w t.sg) t.w, 0x40) := by
  simp [saturated, satInt, h, flagSAT]

/-- Under SAT, a result above the range becomes its greatest value. -/
theorem saturated_above {t : Elem} {r : Int} (h : intMax t.w t.sg < r) :
    saturated t true r = (wrapNat (intMax t.w t.sg) t.w, 0x40) := by
  have hr : ¬ r < intMin t.w t.sg := by have := intMin_le_intMax t.w t.sg; omega
  simp [saturated, satInt, h, hr, flagSAT]

/-- Settles O10. -/
theorem saturationClamps : Obligations.SaturationClamps := by
  intro ty r _
  have hw := elemTy_w_cases ty
  generalize elemTy ty = t at hw
  have hle := intMin_le_intMax t.w t.sg
  refine ⟨rfl, ?_, fun ⟨hlo, hhi⟩ => ?_, fun h => ?_, fun h => ?_⟩
  · rw [saturated_false, wrapNat, Int.toNat_of_nonneg (Int.emod_nonneg _ (by exact_mod_cast (Nat.two_pow_pos t.w).ne'))]
  · rw [saturated_in hlo hhi]; exact ⟨val_wrapNat hw hlo hhi, rfl⟩
  · rw [saturated_below h]; exact ⟨val_wrapNat hw le_rfl hle, rfl⟩
  · rw [saturated_above h]; exact ⟨val_wrapNat hw hle le_rfl, rfl⟩

/-! ## Element-wise arithmetic (R121, R122) -/

/-- Settles O9, word by word. -/
theorem integerArithmetic : Obligations.IntegerArithmetic := by
  refine ⟨?vadd, ?vsub, ?vmul, ?vmulh, ?vmad, ?vmin, ?vmax, ?vabs, ?vneg, ?vmov⟩
  case vadd => exact vector2_of (fun _ _ _ _ _ _ _ => rfl) fun _ _ _ _ _ _ _ => rfl
  case vsub => exact vector2_of (fun _ _ _ _ _ _ _ => rfl) fun _ _ _ _ _ _ _ => rfl
  case vmul => exact vector2_of (fun _ _ _ _ _ _ _ => rfl) fun _ _ _ _ _ _ _ => rfl
  case vmulh => exact vector2_of (fun _ _ _ _ _ _ _ => rfl) fun _ _ _ _ _ _ _ => rfl
  case vmad => exact vector2_of (fun _ _ _ _ _ _ _ => rfl) fun _ _ _ _ _ _ _ => rfl
  case vmin => exact vector2_of (fun _ _ _ _ _ _ _ => rfl) fun _ _ _ _ _ _ _ => rfl
  case vmax => exact vector2_of (fun _ _ _ _ _ _ _ => rfl) fun _ _ _ _ _ _ _ => rfl
  case vabs =>
    refine vector1_of (fun _ _ _ _ _ => rfl) fun ty sat x z _ => congrArg (saturated _ sat) ?_
    split <;> omega
  case vneg => exact vector1_of (fun _ _ _ _ _ => rfl) fun _ _ _ _ _ => rfl
  case vmov => exact vector1_of (fun _ _ _ _ _ => rfl) fun _ _ _ _ _ => rfl

/-! ## Logic, shifts and counts (R122-R125, R127) -/

/-- The carry of an addition is its quotient by the width (R123). -/
theorem carry_eq {w x y : Nat} (hx : x < 2 ^ w) (hy : y < 2 ^ w) : (if 2 ^ w ≤ x + y then 1 else 0) = (x + y) / 2 ^ w := by
  split
  next h => exact (Nat.div_eq_of_lt_le (by omega) (by omega)).symm
  next h => exact (Nat.div_eq_of_lt (by omega)).symm

/-- VBREV reverses the bits of each element (R125). -/
theorem vbrev_writes (e : Bool) (d a : BitVec 6) (x : Bool) (s : State) (h : Issues (.vbrev e d a x) s) :
    WritesElems (.vbrev e d a x) d (fun t l j => (reverseBits t.w (s.pk.elem t a.toNat l j), 0)) s :=
  writesWide (wide := fun p => pairTy p.ty) h rfl

/-- Settles O11, word by word. -/
theorem integerBits : Obligations.IntegerBits := by
  refine ⟨?vand, ?vor, ?vxor, ?vnot, ?vandn, ?vaddc, ?vsubb, ?vshl, ?vshr, ?vsar, ?vrot, ?vclz, ?vffs, ?vpopc, ?vbrev, ?vaddImm, ?vmulImm,
    ?vandImm, ?vorImm, ?vxorImm, ?vshlImm, ?vshrImm, ?vsarImm⟩
  case vand => exact vector2_of (fun _ _ _ _ _ _ _ => rfl) fun _ _ _ _ _ _ _ => rfl
  case vor => exact vector2_of (fun _ _ _ _ _ _ _ => rfl) fun _ _ _ _ _ _ _ => rfl
  case vxor => exact vector2_of (fun _ _ _ _ _ _ _ => rfl) fun _ _ _ _ _ _ _ => rfl
  case vnot => exact vector1_of (fun _ _ _ _ _ => rfl) fun _ _ _ _ hx => Prod.ext (xor_ones _ _ hx) rfl
  case vandn => exact vector2_of (fun _ _ _ _ _ _ _ => rfl) fun _ _ x _ _ _ hy => Prod.ext (congrArg (x &&& ·) (xor_ones _ _ hy)) rfl
  case vaddc => exact vector2_of (fun _ _ _ _ _ _ _ => rfl) fun _ _ _ _ _ hx hy => Prod.ext (carry_eq hx hy) rfl
  case vsubb => exact vector2_of (fun _ _ _ _ _ _ _ => rfl) fun _ _ _ _ _ _ _ => rfl
  case vshl => exact vector2_of (fun _ _ _ _ _ _ _ => rfl) fun _ _ _ _ _ _ _ => Prod.ext (shl_elem ..) rfl
  case vshr => exact vector2_of (fun _ _ _ _ _ _ _ => rfl) fun _ _ _ _ _ hx _ => Prod.ext (shr_elem _ _ _ hx) rfl
  case vsar => exact vector2_of (fun _ _ _ _ _ _ _ => rfl) fun _ _ _ _ _ _ _ => Prod.ext (sar_elem ..) rfl
  case vrot => exact vector2_of (fun _ _ _ _ _ _ _ => rfl) fun _ _ _ _ _ _ _ => rfl
  case vclz => exact vector1_of (fun _ _ _ _ _ => rfl) fun _ _ _ _ _ => Prod.ext (leadingZeros_eq ..) rfl
  case vffs => exact vector1_of (fun _ _ _ _ _ => rfl) fun _ _ _ _ _ => Prod.ext (lowestSet_eq ..) rfl
  case vpopc => exact vector1_of (fun _ _ _ _ _ => rfl) fun _ _ _ _ _ => Prod.ext (popcount_eq ..) rfl
  case vbrev =>
    exact fun e d a x s h => ⟨fun l j => reverseBits (elemTy s.pk.ty).w (s.pk.elem (elemTy s.pk.ty) a.toNat l j),
      vbrev_writes e d a x s h, fun l j k hk => reverseBits_bit _ _ k hk⟩
  case vaddImm => exact vectorImm_of (yy := fun c t => wrapNat c.toInt t.w) (fun _ _ _ _ _ => rfl) (fun _ _ _ _ _ => rfl) fun _ _ _ _ _ _ => rfl
  case vmulImm => exact vectorImm_of (yy := fun c t => wrapNat c.toInt t.w) (fun _ _ _ _ _ => rfl) (fun _ _ _ _ _ => rfl) fun _ _ _ _ _ _ => rfl
  case vandImm => exact vectorImm_of (yy := fun c t => wrapNat c.toInt t.w) (fun _ _ _ _ _ => rfl) (fun _ _ _ _ _ => rfl) fun _ _ _ _ _ _ => rfl
  case vorImm => exact vectorImm_of (yy := fun c t => wrapNat c.toInt t.w) (fun _ _ _ _ _ => rfl) (fun _ _ _ _ _ => rfl) fun _ _ _ _ _ _ => rfl
  case vxorImm => exact vectorImm_of (yy := fun c t => wrapNat c.toInt t.w) (fun _ _ _ _ _ => rfl) (fun _ _ _ _ _ => rfl) fun _ _ _ _ _ _ => rfl
  case vshlImm =>
    exact vectorImm_of (yy := fun c _ => c.toNat) (fun _ _ _ _ _ => rfl) (fun _ _ _ _ _ => rfl) fun _ _ _ _ _ _ => Prod.ext (shl_elem ..) rfl
  case vshrImm =>
    exact vectorImm_of (yy := fun c _ => c.toNat) (fun _ _ _ _ _ => rfl) (fun _ _ _ _ _ => rfl) fun _ _ _ _ _ hx => Prod.ext (shr_elem _ _ _ hx) rfl
  case vsarImm =>
    exact vectorImm_of (yy := fun c _ => c.toNat) (fun _ _ _ _ _ => rfl) (fun _ _ _ _ _ => rfl) fun _ _ _ _ _ _ => Prod.ext (sar_elem ..) rfl

/-! ## Lanes and bit fields (R126, R128, R131-R133) -/

/-- A word that raises no flag in any lane raises none. -/
theorem flagsOver_zero (m : DWord) : flagsOver m (fun _ => 0) = 0 := by
  have hz : ∀ ls : List Nat, ls.foldl (fun (acc : BitVec 8) _ => acc ||| 0) 0 = 0 := by
    intro ls
    induction ls with
    | nil => rfl
    | cons _ _ ih => exact ih
  exact hz _

/-- Raising no flag leaves a pack as it is. -/
theorem raiseFlags_zero (p : Pack) : p.raiseFlags 0 = p := by
  rw [Pack.raiseFlags, show p.fflags ||| 0 = p.fflags from BitVec.or_zero]

/-- VSEL writes the lanes of em, the guard choosing its source (R126). -/
theorem vsel_writes (e : Bool) (d a b : BitVec 6) (x y : Bool) (s : State) (h : Issues (.vsel e d a b x y) s) :
    WritesWide (.vsel e d a b x y) (pairTy s.pk.ty) d.toNat s.pk.em
      (fun l => (s.pk.laneVal (pairTy s.pk.ty) (if s.pk.guard.getLsbD l then a.toNat else b.toNat) l, 0)) s := by
  refine writesVector_of (g := fun p t => t.writeLanes (pairTy p.ty) p.em d.toNat fun l =>
    p.laneVal (pairTy p.ty) (if p.guard.getLsbD l then a.toNat else b.toNat) l) h rfl ?_
  obtain ⟨vr, lv, hq, hv, hl⟩ := writeLanes_spec (s.pk.consume (.vsel e d a b x y)) (pairTy s.pk.ty) s.pk.em d.toNat fun l =>
    s.pk.laneVal (pairTy s.pk.ty) (if s.pk.guard.getLsbD l then a.toNat else b.toNat) l
  refine ⟨vr, lv, ?_, hv, hl⟩
  rw [flagsOver_zero, hq]
  exact congrArg (fun fl => ({ s.pk.consume (.vsel e d a b x y) with vregs := vr, live := lv, fflags := fl } : Pack)) BitVec.or_zero.symm

/-- A word of two single registers, from its meaning. -/
theorem lanes2_of {i : Bool → BitVec 6 → BitVec 6 → BitVec 6 → Bool → Bool → Instr} {f : Pack → BitVec 6 → BitVec 6 → BitVec 6 → Nat → Flagged}
    {g : Pack → BitVec 6 → BitVec 6 → BitVec 6 → Nat → Flagged} (hg : ∀ p d a b l, g p d a b l = f p d a b l)
    (he : ∀ e d a b x y s, exec (i e d a b x y) s = vecWord (i e d a b x y) (fun _ => false) d.toNat s fun p l => g p d a b l) :
    Lanes2 i f := by
  intro e d a b x y s h
  have hw := writesWide (wide := fun _ => false) h (he e d a b x y s)
  rwa [show (fun l => g s.pk d a b l) = f s.pk d a b from funext fun _ => hg ..] at hw

/-- A field of a number in two's complement, as a 32-bit pattern. -/
theorem wrapNat_signed {f n : Nat} (hn : 0 < n) (hn32 : n ≤ 32) (hf : f < 2 ^ n) :
    wrapNat (signed f n) 32 = if f.testBit (n - 1) then f + (2 ^ 32 - 2 ^ n) else f := by
  obtain ⟨m, rfl⟩ : ∃ m, n = m + 1 := ⟨n - 1, by omega⟩
  have hp : 2 ^ (m + 1) ≤ 2 ^ 32 := Nat.pow_le_pow_right (by decide) hn32
  have hbit : f.testBit m = decide (2 ^ m ≤ f) := by
    have hq : f / 2 ^ m < 2 := Nat.div_lt_of_lt_mul (by rwa [pow_succ] at hf)
    rw [Nat.testBit_eq_decide_div_mod_eq, decide_eq_decide, ← Nat.one_le_div_iff (Nat.two_pow_pos m)]
    generalize f / 2 ^ m = q at hq ⊢
    omega
  rw [Nat.add_sub_cancel, wrapNat, signed, Nat.mod_eq_of_lt hf, hbit]
  rw [pow_succ] at hf hp ⊢
  generalize 2 ^ m = q at *
  by_cases h : q ≤ f
  · simp only [h, decide_true, if_true, show ¬ 2 * f < q * 2 by omega, if_false]
    omega
  · simp only [h, decide_false, Bool.false_eq_true, if_false, show 2 * f < q * 2 by omega, if_true]
    omega

/-- The position and length of a bit-field operand (R133). -/
theorem fieldPos_eq (y : Nat) : fieldPos y = y % 32 := rfl
theorem fieldLen_eq (y : Nat) : fieldLen y = min (y / 2 ^ 8 % 64) 32 :=
  congrArg (fun k => min (k % 64) 32) (Nat.shiftRight_eq_div_pow y 8)

/-- The field that VBFX gives (R133). -/
theorem bitFieldExtract_eq (sg : Bool) (x y : Nat) : bitFieldExtract sg x y =
    let len := min (y / 2 ^ 8 % 64) 32
    let f := x / 2 ^ (y % 32) % 2 ^ len
    if sg ∧ 0 < len ∧ f.testBit (len - 1) then f + (2 ^ 32 - 2 ^ len) else f := by
  simp only [bitFieldExtract, fieldPos_eq, fieldLen_eq, bitsAt, Nat.shiftRight_eq_div_pow]
  have hlen : min (y / 2 ^ 8 % 64) 32 ≤ 32 := Nat.min_le_right ..
  generalize min (y / 2 ^ 8 % 64) 32 = len at *
  by_cases h0 : len = 0
  · subst h0; simp [Nat.mod_one]
  · rw [if_neg h0]
    cases sg
    · simp
    · simp [wrapNat_signed (Nat.pos_of_ne_zero h0) hlen (Nat.mod_lt _ (Nat.two_pow_pos len)), Nat.pos_of_ne_zero h0]

/-- Each bit of what VBFI gives (R133). -/
theorem bitFieldInsert_testBit (x y d k : Nat) : (bitFieldInsert x y d).testBit k =
    if y % 32 ≤ k ∧ k < y % 32 + min (min (y / 2 ^ 8 % 64) 32) (32 - y % 32) then x.testBit (k - y % 32) else d.testBit k := by
  rw [bitFieldInsert, fieldPos_eq, fieldLen_eq]
  generalize min (min (y / 2 ^ 8 % 64) 32) (32 - y % 32) = m
  generalize y % 32 = pos
  have hx : x % 2 ^ m < 2 ^ m := Nat.mod_lt _ (Nat.two_pow_pos m)
  have hd : d % 2 ^ pos < 2 ^ pos := Nat.mod_lt _ (Nat.two_pow_pos pos)
  have hlow : 2 ^ pos * (x % 2 ^ m) + d % 2 ^ pos < 2 ^ (pos + m) := by
    rw [pow_add]
    calc 2 ^ pos * (x % 2 ^ m) + d % 2 ^ pos < 2 ^ pos * (x % 2 ^ m) + 2 ^ pos := by omega
      _ = 2 ^ pos * (x % 2 ^ m + 1) := by ring
      _ ≤ 2 ^ pos * 2 ^ m := Nat.mul_le_mul_left _ hx
  rw [show d % 2 ^ pos + x % 2 ^ m * 2 ^ pos + d / 2 ^ (pos + m) * 2 ^ (pos + m) =
    2 ^ (pos + m) * (d / 2 ^ (pos + m)) + (2 ^ pos * (x % 2 ^ m) + d % 2 ^ pos) by ring,
    Nat.testBit_two_pow_mul_add _ hlow, Nat.testBit_two_pow_mul_add _ hd]
  by_cases h1 : k < pos
  · simp [h1, show k < pos + m by omega, show ¬ pos ≤ k by omega]
  · by_cases h2 : k < pos + m
    · simp [h1, h2, show pos ≤ k by omega, show k - pos < m by omega]
    · simp [h2, Nat.testBit_div_two_pow, show k - (pos + m) + (pos + m) = k by omega]

/-- VBFI stays within 32 bits. -/
theorem bitFieldInsert_lt {x y d : Nat} (hd : d < 2 ^ 32) : bitFieldInsert x y d < 2 ^ 32 := by
  apply Nat.lt_pow_two_of_testBit
  intro k hk
  rw [bitFieldInsert_testBit, if_neg (by omega)]
  exact Nat.testBit_lt_two_pow (lt_of_lt_of_le hd (Nat.pow_le_pow_right (by decide) hk))

/-- The bits of VBFI in a lane, in the fields of its operand. -/
theorem bitFieldInsert_bit (x c d : Word) (k : Nat) (hk : k < 32) :
    (BitVec.ofNat 32 (bitFieldInsert x.toNat c.toNat d.toNat)).getLsbD k =
      if c.toNat % 32 ≤ k ∧ k < c.toNat % 32 + min (c.toNat / 2 ^ 8 % 64) 32 then x.getLsbD (k - c.toNat % 32) else d.getLsbD k := by
  rw [BitVec.getLsbD_ofNat, bitFieldInsert_testBit]
  simp only [hk, decide_true, Bool.true_and, BitVec.testBit_toNat]
  congr 1
  apply propext
  omega

/-- VBFI writes the field of each lane (R133). -/
theorem vbfi_writes (e : Bool) (d a b : BitVec 6) (x y : Bool) (s : State) (h : Issues (.vbfi e d a b x y) s) :
    WritesLanes (.vbfi e d a b x y) d.toNat s.pk.active (fun l => ((BitVec.ofNat 32
      (bitFieldInsert (lane (s.pk.v a.toNat) l).toNat (lane (s.pk.v b.toNat) l).toNat (lane (s.pk.v d.toNat) l).toNat)).toNat, 0)) s := by
  have hw := writesWide (wide := fun _ => false) (f := fun p l =>
    (bitFieldInsert (lane (p.v a.toNat) l).toNat (lane (p.v b.toNat) l).toNat (lane (p.v d.toNat) l).toNat, 0)) h rfl
  simp only [BitVec.toNat_ofNat, Nat.mod_eq_of_lt (bitFieldInsert_lt (BitVec.isLt _))]
  exact hw

/-- Settles O12, word by word. -/
theorem laneWords : Obligations.LaneWords := by
  refine ⟨vsel_writes, fun e d c s h => ?vli, fun e d s h => writesWide (wide := fun _ => false) h rfl,
    lanes2_of (fun _ _ _ _ _ => rfl) fun _ _ _ _ _ _ _ => rfl,
    fun e d a b x s h => writesWide (wide := fun _ => false) h rfl, fun e d a b x s h => writesWide (wide := fun _ => false) h rfl,
    fun e d a b x s h => readsLanes_of h rfl, ?vbfx, fun e d a b x y s h => ⟨_, vbfi_writes e d a b x y s h, ?vbfi⟩⟩
  case vli =>
    have hw := writesWide (wide := fun _ => false) (f := fun _ _ => (wrapNat c.toInt 32, 0)) h rfl
    rwa [show wrapNat c.toInt 32 = (c.signExtend 32).toNat from (BitVec.toNat_ofInt ..).symm] at hw
  case vbfx =>
    exact lanes2_of (g := fun p _ a b l => (bitFieldExtract (elemTy p.ty).sg (lane (p.v a.toNat) l).toNat (lane (p.v b.toNat) l).toNat, 0))
      (fun _ _ _ _ _ => Prod.ext (bitFieldExtract_eq ..) rfl) fun _ _ _ _ _ _ _ => rfl
  case vbfi => exact fun l k _ hk => bitFieldInsert_bit _ _ _ k hk

/-! ## Predicates (R129, R130) -/

/-- A predicate word without flags. -/
theorem writesPred_of_predWord {i : Instr} {d : BitVec 5} {s : State} {f : Pack → Nat → Bool} {c : Nat → Bool} (h : Issues i s)
    (he : exec i s = predWord i d s f) (hc : f s.pk = c) : WritesPred i d c (fun _ => 0) s := by
  subst hc
  refine writesPred_of h he ?_
  rw [flagsOver_zero, raiseFlags_zero]

/-- The conditions of VCMP, as the entries of a table (R56). -/
theorem condInt_eq {c : Nat} (hc : c < 6) (u v : Int) : condInt c u v =
    ([decide (u = v), decide (u ≠ v), decide (u < v), decide (u ≤ v), decide (v < u), decide (v ≤ u)][c]?).getD false := by
  interval_cases c <;> rfl

/-- The operations of PLOG, as the entries of a table (R130). -/
theorem plogOp_eq {o : Nat} (ho : o < 8) (u v : Bool) :
    plogOp o u v = ([u && v, u || v, u != v, u && !v, !u, u, true, false][o]?).getD false := by
  interval_cases o <;> rfl

/-- Settles O13. -/
theorem predicateWords : Obligations.PredicateWords := by
  refine ⟨fun e d a b x y c s h hc => writesPred_of_predWord h rfl ?_, fun e d a b o s h => writesPred_of_predWord h rfl ?_⟩
  · simp only [condInt_eq hc]
  · simp only [plogOp_eq o.isLt]

end Sys2Proof.Proofs
end

section
/-! SUPPORT. The floating-point, conversion and lattice words of spec/06, spec/07 and spec/08 (R135-R182). -/

namespace Sys2Proof.Proofs

open Sys2Proof.Machine Sys2Proof.Safety

/-! ## Words whose effect is on vector registers and elsewhere too -/

/-- The vector side of a pack, once its word has gone on to the next one. -/
theorem vectorEffect_stepped {i : Instr} {p q : Pack} {ds : List Nat} {m : DWord} {f : Nat → Nat → Word} {fl : BitVec 8}
    {pr sr : Tab DWord} (hq : VectorResult ds m f fl pr sr (p.consume i) q) (pc : DWord) (rp : Nat) (st : PStatus) (si : Nat)
    (dc : Option (Nat × Nat)) (pp : Bool) :
    let r : Pack := { q with pc := pc, runpos := rp, status := st, since := si, declined := dc, atPpt := pp }
    VectorEffect i ds m f fl p r ∧ r.preds = pr ∧ r.sregs = sr := by
  obtain ⟨vr, lv, rfl, hv, hl⟩ := hq
  obtain ⟨sc, sf, ss, cv, cl, hc, hcv, hcl, hst⟩ := consume_spec p i
  rw [hc] at hv hl ⊢
  refine ⟨⟨rfl, fun r l h => ?_, fun r h => ?_, hst, rfl⟩, rfl, rfl⟩
  · refine (hv r l h).trans ?_
    by_cases hd : (ds.contains r && m.getLsbD l) = true
    · simp only [hd, if_true]
    · simp only [hd]
      have he := hcv r
      by_cases hf : (freedBy p i).contains r = true
      · simp only [hf, if_true] at he ⊢
        exact (congrArg (lane · l) he).trans (lane_zero l)
      · simp only [hf] at he ⊢
        exact congrArg (lane · l) he
  · refine (hl r h).trans ?_
    rw [show ({ p with staleCount := sc, staleFirst := sf, staleSeen := ss, vregs := cv, live := cl } : Pack).isLive r = cl.getLsbD r from rfl,
      hcl r h]
    exact Bool.or_comm _ _

/-- A word that completes from a state u of its own, with the effect of a vector word on its pack. -/
theorem completes_of_vectorResult {i : Instr} {s u : State} {ds : List Nat} {m : DWord} {f : Nat → Nat → Word} {fl : BitVec 8}
    {pr sr : Tab DWord} {body : State → State → Res} (h : Issues i s) (he : exec i s = .next (issueWord i s body))
    (hb : body s (sourced i s) = .done u) (hgtc : u.gtc = s.gtc) (hu : VectorResult ds m f fl pr sr (s.pk.consume i) u.pk) :
    Completes i s fun t => t = { u.countWord with pk := t.pk } ∧ VectorEffect i ds m f fl s.pk t.pk ∧ t.pk.preds = pr ∧ t.pk.sregs = sr := by
  have hpk : u.pk.pc = s.pk.pc ∧ u.pk.runpos = s.pk.runpos ∧ u.pk.status = s.pk.status ∧ u.pk.since = s.pk.since ∧
      u.pk.atPpt = s.pk.atPpt := by
    obtain ⟨vr, lv, hq, -⟩ := hu
    obtain ⟨sc, sf, ss, cv, cl, hc, -⟩ := consume_spec s.pk i
    rw [hq, hc]; exact ⟨rfl, rfl, rfl, rfl, rfl⟩
  obtain ⟨h1, h2, h3, h4, h5⟩ := hpk
  refine ⟨u.countWord.finish (endsRun i), by rw [he, issueWord_done h hb], advanced_finish _ _ _ _ hgtc h1 h2 h3 h4, fun _ => ?_, ?_, ?_⟩
  · cases endsRun i <;> simp [State.finish, State.goto, Pack.endRun, State.countWord, State.bumpCore, State.onCore, Pack.pptKept, h2, h5]
  · cases endsRun i <;> rfl
  · cases endsRun i <;> exact vectorEffect_stepped hu ..

/-- Raising flags after writing lanes is the effect of a vector word. -/
theorem vectorResult_putLanes (c : Pack) (m : DWord) (d : Nat) (f : Nat → Flagged) :
    VectorResult (destOf false d) m (fun r l => BitVec.ofNat 32 ((f l).1 / 2 ^ (32 * (r - d)))) (flagsOver m fun l => (f l).2) c.preds c.sregs
      c (c.putLanes m d f) := by
  obtain ⟨vr, lv, hq, hv, hl⟩ := writeLanes_spec c false m d fun l => (f l).1
  exact ⟨vr, lv, by rw [Pack.putLanes, hq]; rfl, hv, hl⟩

/-- A single register of results has no second half. -/
theorem vectorEffect_single {i : Instr} {d : Nat} {m : DWord} {f : Nat → Flagged} {fl : BitVec 8} {p q : Pack}
    (h : VectorEffect i (destOf false d) m (fun r l => BitVec.ofNat 32 ((f l).1 / 2 ^ (32 * (r - d)))) fl p q) :
    VectorEffect i [d] m (fun _ l => BitVec.ofNat 32 (f l).1) fl p q := by
  obtain ⟨hframe, hv, hl, hst, hfl⟩ := h
  refine ⟨hframe, fun r l hlt => (hv r l hlt).trans ?_, hl, hst, hfl⟩
  by_cases hr : r = d
  · subst hr; simp [destOf]
  · simp [destOf, hr]

/-! ## Floating-point words (R135-R148) -/

/-- Changing the sign of an encoding (R140). -/
theorem fneg_eq (f : Fmt) {c : Nat} (hc : c < 2 ^ (f.magBits + 1)) :
    f.signed (!f.sign c) (f.mag c) = if c < 2 ^ f.magBits then c + 2 ^ f.magBits else c % 2 ^ f.magBits := by
  rw [Fmt.signed, Fmt.sign, Fmt.mag]
  by_cases h : c < 2 ^ f.magBits
  · rw [Nat.testBit_lt_two_pow h, Nat.mod_eq_of_lt h, Bool.not_false, if_pos rfl, if_pos h, Nat.add_comm]
  · rw [Nat.testBit_of_two_pow_le_and_two_pow_add_one_gt (by omega) hc, Bool.not_true, if_neg Bool.false_ne_true, if_neg h, Nat.zero_add]

/-- The signs of FFMA, by its code (R146). -/
theorem ffma_signs : ∀ o : BitVec 2, decide (2 ≤ o.toNat) = (o = 2 || o = 3 : Bool) ∧ (o.toNat % 2 == 1) = (o = 1 || o = 3 : Bool) := by
  decide

/-- A floating-point word of one source, its meaning the statement's own. -/
theorem float1_of_exec {i : Bool → BitVec 6 → BitVec 6 → Bool → Instr} {f : Fmt → Nat → Bool → Nat → Flagged}
    (he : ∀ e d a x s, exec (i e d a x) s = fpWord1 (i e d a x) d a s f) : Float1 i f := float1_of he fun _ _ _ _ _ => rfl

/-- FNEG changes the sign (R140). -/
theorem fneg_float1 : Float1 .fneg fun f _ _ c => (if c < 2 ^ f.magBits then c + 2 ^ f.magBits else c % 2 ^ f.magBits, 0) :=
  float1_of (g := fun f _ _ c => (f.signed (!f.sign c) (f.mag c), 0)) (fun _ _ _ _ _ => rfl) fun _ _ _ _ hc => Prod.ext (fneg_eq _ hc) rfl

/-- FFMA computes with the signs of its code (R146). -/
theorem ffma_writes (e : Bool) (d a b : BitVec 6) (x y : Bool) (o : BitVec 2) (s : State) (h : Issues (.ffma e d a b x y o) s) :
    WritesFloats (.ffma e d a b x y o) d
      (fun l j => fpFma (fpFmt s.pk.ty) s.pk.fpRm (fpFlush s.pk.ty) (o = 2 || o = 3) (o = 1 || o = 3)
        (s.pk.fpElem a.toNat l j) (s.pk.fpElem b.toNat l j) (s.pk.fpElem d.toNat l j)) s := by
  rw [← (ffma_signs o).1, ← (ffma_signs o).2]
  exact writesWide (wide := fun _ => false) h rfl

/-- A special function, from its meaning. -/
theorem special1_of {i : Bool → BitVec 6 → BitVec 6 → Bool → Instr} {g : Fmt → Bool → Nat → Nat → Flagged}
    (he : ∀ e d a x s, exec (i e d a x) s = specialWord (i e d a x) d a s g) : Special1 i g := by
  intro e d a x s h
  obtain ⟨t, hx, hadv, hppt, hfree, hv, hp, hs⟩ := completes_of_vectorResult h (he e d a x s) rfl rfl (vectorResult_putLanes
    (s.pk.consume (i e d a x)) s.pk.active d.toNat fun l => joinElems
      (fun j => g (fpFmt s.pk.ty) (fpFlush s.pk.ty) (Config.freeValue (s.free + 2 * l + j)).toNat (s.pk.fpElem a.toNat l j))
      ((fpFmt s.pk.ty).magBits + 1) 0 (fpCount s.pk.ty))
  exact ⟨t, hx, hadv, hppt, hfree, vectorEffect_single hv, hp.trans (consume_preds ..), hs.trans (consume_sregs ..)⟩

/-- Settles O14, word by word. -/
theorem floatWords : Obligations.FloatWords := by
  refine ⟨?fadd, ?fsub, ?fmul, ?fdiv, ?fmin, ?fmax, ?fabs, ?fneg, ?fclass, ?frint, ffma_writes, ?frcp, ?frsq, ?fsqrt, ?fexp2, ?flog2, ?fsin, ?fcos,
    ?ftanh⟩
  case fadd => exact float2_of fun _ _ _ _ _ _ _ => rfl
  case fsub => exact float2_of fun _ _ _ _ _ _ _ => rfl
  case fmul => exact float2_of fun _ _ _ _ _ _ _ => rfl
  case fdiv => exact float2_of fun _ _ _ _ _ _ _ => rfl
  case fmin => exact float2_of fun _ _ _ _ _ _ _ => rfl
  case fmax => exact float2_of fun _ _ _ _ _ _ _ => rfl
  case fabs => exact float1_of_exec fun _ _ _ _ _ => rfl
  case fneg => exact fneg_float1
  case fclass => exact float1_of_exec fun _ _ _ _ _ => rfl
  case frint => exact float1_of_exec fun _ _ _ _ _ => rfl
  case frcp => exact float1_of_exec fun _ _ _ _ _ => rfl
  case frsq => exact float1_of_exec fun _ _ _ _ _ => rfl
  case fsqrt => exact float1_of_exec fun _ _ _ _ _ => rfl
  case fexp2 => exact special1_of fun _ _ _ _ _ => rfl
  case flog2 => exact special1_of fun _ _ _ _ _ => rfl
  case fsin => exact special1_of fun _ _ _ _ _ => rfl
  case fcos => exact special1_of fun _ _ _ _ _ => rfl
  case ftanh => exact special1_of fun _ _ _ _ _ => rfl

/-- FFLAGS returns the flags as they were, and changes them (R148). -/
theorem fflags_packOnly (e : Bool) (d a b : BitVec 6) (s : State) (h : Issues (.fflags e d a b) s) :
    PackOnly (.fflags e d a b) s fun p q =>
      q = { stepped p q with
        sregs := q.sregs
        fflags := (p.fflags &&& ~~~((p.s b.toNat).setWidth 8)) ||| (p.s a.toNat).setWidth 8 } ∧
      ∀ r, q.s r = if r = d.toNat then p.fflags.setWidth 64 else p.s r := by
  refine packWord_packOnly (f := fun p t => { t.setS d.toNat (p.fflags.zeroExtend 64) with
      fflags := (p.fflags &&& ~~~((p.s b.toNat).truncate 8)) ||| (p.s a.toNat).truncate 8 }) h rfl ?_ ?_
  · rw [consume_of_noVector fun _ => ⟨rfl, rfl⟩]; exact ⟨rfl, rfl, rfl, rfl, rfl⟩
  · intro q pc rp st si pp
    subst q
    rw [consume_of_noVector fun _ => ⟨rfl, rfl⟩]
    exact ⟨rfl, fun r => Tab.get_set ..⟩

/-- Settles O15. -/
theorem floatCompareAndFlags : Obligations.FloatCompareAndFlags :=
  ⟨fun _ _ _ _ _ _ _ _ h => writesPred_of h rfl rfl, fflags_packOnly⟩

/-! ## Conversion (R154-R157) -/

/-- A word of two single registers, its meaning the statement's own. -/
theorem lanes2_of_exec {i : Bool → BitVec 6 → BitVec 6 → BitVec 6 → Bool → Bool → Instr} {f : Pack → BitVec 6 → BitVec 6 → BitVec 6 → Nat → Flagged}
    (he : ∀ e d a b x y s, exec (i e d a b x y) s = vecWord (i e d a b x y) (fun _ => false) d.toNat s fun p l => f p d a b l) :
    Lanes2 i f := lanes2_of (fun _ _ _ _ _ => rfl) he

/-- A word that packs four FP32 values to a format of 8 bits. -/
theorem writesLanes_of_pack4Word {i : Instr} {d : BitVec 6} {a b : BitVec 5} {f : Fmt} {s : State} (h : Issues i s)
    (he : exec i s = pack4Word i d a b f s) :
    WritesLanes i d.toNat s.pk.active (fun l => joinElems (fun j => fpConv fp32 f rmRNA (pack4In s.pk a b l j)) 8 0 4) s :=
  writesWide (wide := fun _ => false) (f := fun p l => joinElems (fun j => fpConv fp32 f rmRNA (pack4In p a b l j)) 8 0 4) h he

/-- A word that packs four FP32 values to one half of its lanes. -/
theorem writesLanes_of_pack4hWord {i : Instr} {d : BitVec 6} {a b : BitVec 5} {hi : Bool} {s : State} (h : Issues i s)
    (he : exec i s = pack4hWord i d a b hi s) :
    WritesLanes i d.toNat s.pk.active (fun l =>
      let old := (lane (s.pk.v d.toNat) l).toNat
      let r := joinElems (fun j => quantE2m1 (pack4In s.pk a b l j) (s.pk.x l).toNat) 4 0 4
      (if hi then old % 2 ^ 16 + r.1 * 2 ^ 16 else old / 2 ^ 16 * 2 ^ 16 + r.1, r.2)) s :=
  writesWide (wide := fun _ => false) (f := fun p l =>
    let old := (lane (p.v d.toNat) l).toNat
    let r := joinElems (fun j => quantE2m1 (pack4In p a b l j) (p.x l).toNat) 4 0 4
    (if hi then old % 2 ^ 16 + r.1 * 2 ^ 16 else old / 2 ^ 16 * 2 ^ 16 + r.1, r.2)) h he

/-- Settles O16, word by word. -/
theorem conversions : Obligations.Conversions := by
  refine ⟨fun e d a t x s h => ?cvt, fun e d a t x q s h => ?unpk, ?pack2Bf16, ?pack2F16, fun e d a b x y s h => ?pack4E4m3,
    fun e d a b x y s h => ?pack4E5m2, fun e d a b x y s h => ?pack4hLo, fun e d a b x y s h => ?pack4hHi⟩
  case cvt => exact writesWide (wide := fun _ => pairTy t.toNat) h rfl
  case unpk => exact writesWide (wide := fun _ => false) h rfl
  case pack2Bf16 => exact lanes2_of_exec fun _ _ _ _ _ _ _ => rfl
  case pack2F16 => exact lanes2_of_exec fun _ _ _ _ _ _ _ => rfl
  case pack4E4m3 => exact writesLanes_of_pack4Word h rfl
  case pack4E5m2 => exact writesLanes_of_pack4Word h rfl
  case pack4hLo => simpa only [Bool.false_eq_true, if_false] using writesLanes_of_pack4hWord (hi := false) h rfl
  case pack4hHi => simpa only [if_true] using writesLanes_of_pack4hWord (hi := true) h rfl

/-! ## Scales, X and codebooks (R151, R160-R163) -/

/-- QCB with its codebook set, or with no lane active (R162). -/
theorem exec_qcb_of_book {e : Bool} {d a : BitVec 6} {k : BitVec 2} {x : Bool} {s : State} (h : Issues (.qcb e d a k x) s)
    (hb : ¬ (s.tm.book k.toNat = [] ∧ s.pk.active ≠ 0)) :
    exec (.qcb e d a k x) s = vecWord (.qcb e d a k x) (fun _ => false) d.toNat s fun p l =>
      qcbLane (s.tm.book k.toNat) ((groupLanes p.active (l / 32)).map fun l => (lane (p.v a.toNat) l).toNat) (lane (p.v a.toNat) l).toNat := by
  have hc : ¬ ((s.tm.book k.toNat).isEmpty && s.pk.active != 0) = true := by simpa using hb
  show Host.Outcome.next _ = Host.Outcome.next _
  rw [issueWord_done h (if_neg hc), packWord, issueWord_done h rfl]

/-- QCB on an empty codebook, with a lane active (R162). -/
theorem traps_qcb_of_empty {e : Bool} {d a : BitVec 6} {k : BitVec 2} {x : Bool} {s : State} (h : Issues (.qcb e d a k x) s)
    (hb : s.tm.book k.toNat = [] ∧ s.pk.active ≠ 0) : Traps (.qcb e d a k x) s (codeTable 3 k.toNat 0xFF) := by
  have hc : ((s.tm.book k.toNat).isEmpty && s.pk.active != 0) = true := by simpa using hb
  exact congrArg Host.Outcome.next (issueWord_trap h (if_pos hc))

/-- Writing X of several lanes changes X of those lanes alone. -/
theorem foldl_setX (f : Nat → BitVec 8) (ls : List Nat) : ∀ p : Pack, ∃ xv, ls.foldl (fun q l => q.setX l (f l)) p = { p with xv := xv } ∧
    ∀ l, Tab.get 0x80 xv l = if l ∈ ls then f l else p.x l := by
  induction ls with
  | nil => exact fun p => ⟨p.xv, rfl, fun l => by simp [Pack.x]⟩
  | cons a ls ih =>
    intro p
    obtain ⟨xv, hx, hg⟩ := ih (p.setX a (f a))
    refine ⟨xv, by rw [List.foldl_cons, hx]; rfl, fun l => (hg l).trans ?_⟩
    rw [Pack.x, Pack.setX, Tab.get_set]
    by_cases hl : l ∈ ls
    · simp [hl]
    · by_cases ha : l = a
      · subst ha; simp
      · simp [hl, ha, Pack.x]

/-- The lanes of a mask. -/
theorem mem_lanesOf (m : DWord) (l : Nat) : l ∈ lanesOf m ↔ l < 64 ∧ m.getLsbD l = true := by
  simp [lanesOf]

/-- A pack keeps its X when its sources are consumed. -/
theorem consume_xv (p : Pack) (i : Instr) : (p.consume i).xv = p.xv := by
  obtain ⟨sc, sf, ss, cv, cl, hc, -⟩ := consume_spec p i
  rw [hc]

/-- A word that writes lanes of a register, and X of the active ones. -/
theorem writesLanesAndX_of {i : Instr} {s : State} {d : Nat} {f : Pack → Nat → Flagged} {g : Pack → Nat → BitVec 8} (h : Issues i s)
    (he : exec i s = .next (packWord i s fun p t =>
      (lanesOf p.active).foldl (fun q l => q.setX l (g p l)) (t.putLanes p.active d (f p)))) :
    WritesLanesAndX i d s.pk.active (f s.pk) (fun l => if s.pk.active.getLsbD l then g s.pk l else s.pk.x l) s := by
  have hc := vectorResult_putLanes (s.pk.consume i) s.pk.active d (f s.pk)
  obtain ⟨xv, hx, hg⟩ := foldl_setX (g s.pk) (lanesOf s.pk.active) ((s.pk.consume i).putLanes s.pk.active d (f s.pk))
  obtain ⟨vr, lv, hq, hv, hl⟩ := hc
  refine packWord_packOnly h he ?_ ?_
  · obtain ⟨sc, sf, ss, cv, cl, hcs, -⟩ := consume_spec s.pk i
    simp only [hx]
    rw [hq, hcs]
    exact ⟨rfl, rfl, rfl, rfl, rfl⟩
  · intro q pc rp st si pp
    obtain ⟨hv, hp, hs⟩ := vectorEffect_stepped ⟨vr, lv, hq, hv, hl⟩ pc rp st si none pp
    have hqx : q = { (s.pk.consume i).putLanes s.pk.active d (f s.pk) with xv := xv } := hx
    rw [hqx]
    refine ⟨?_, hp.trans (consume_preds ..), hs.trans (consume_sregs ..), fun l hl => ?_⟩
    · have hxv : s.pk.xv = ((s.pk.consume i).putLanes s.pk.active d (f s.pk)).xv := by rw [hq]; exact (consume_xv ..).symm
      rw [hxv]
      exact vectorEffect_single hv
    · refine (hg l).trans ?_
      have hx0 : ((s.pk.consume i).putLanes s.pk.active d (f s.pk)).x l = s.pk.x l := by rw [hq, Pack.x, Pack.x, ← consume_xv s.pk i]
      simp only [mem_lanesOf, hl, true_and, hx0]

/-- The entries that CBLD reads from v[a] (R163). -/
def cbldEntries (p : Pack) (a : BitVec 6) : List Nat := (List.range 16).map fun j => bitsAt (lane (p.v a.toNat) (j / 2)).toNat (16 * (j % 2)) 16

/-- Lane l of what XSET writes to v[d] (R161). -/
def xsetLane (a b : BitVec 6) (p : Pack) (l : Nat) : Flagged :=
  let xb := fpConv fp32 e4m3 rmRNA (lane (p.v b.toNat) l).toNat
  let c := quantE2m1 (lane (p.v a.toNat) l).toNat xb.1
  (xb.1 * 2 ^ 8 + c.1, xb.2 ||| c.2)

/-- X of lane l as XSET writes it (R161). -/
def xsetX (b : BitVec 6) (p : Pack) (l : Nat) : BitVec 8 := BitVec.ofNat 8 (fpConv fp32 e4m3 rmRNA (lane (p.v b.toNat) l).toNat).1

/-- CBLD with a well-formed codebook (R163). -/
theorem cbld_completes {e : Bool} {k : BitVec 2} {a : BitVec 6} {x : Bool} {s : State} (h : Issues (.cbld e k a x) s)
    (hb : badEntry 0 (cbldEntries s.pk a) = none) :
    Completes (.cbld e k a x) s fun t =>
      t = { s.countWord with
        tm := { s.tm with cb := Tab.set [] s.tm.cb k.toNat ((cbldEntries s.pk a).map (BitVec.ofNat 16)) }
        pk := t.pk } ∧
      VectorEffect (.cbld e k a x) [] 0 (fun _ _ => 0) 0 s.pk t.pk ∧ t.pk.preds = s.pk.preds ∧ t.pk.sregs = s.pk.sregs := by
  have hr : VectorResult [] 0 (fun _ _ => 0) 0 s.pk.preds s.pk.sregs (s.pk.consume (.cbld e k a x)) (s.pk.consume (.cbld e k a x)) := by
    refine ⟨(s.pk.consume (.cbld e k a x)).vregs, (s.pk.consume (.cbld e k a x)).live, ?_, fun _ _ _ => by simp [Pack.v],
      fun _ _ => by simp [Pack.isLive]⟩
    rw [show (s.pk.consume (.cbld e k a x)).fflags ||| (0 : BitVec 8) = (s.pk.consume (.cbld e k a x)).fflags from BitVec.or_zero,
      ← consume_preds s.pk (.cbld e k a x), ← consume_sregs s.pk (.cbld e k a x)]
  refine completes_of_vectorResult (u := { sourced (.cbld e k a x) s with
    tm := { s.tm with cb := Tab.set [] s.tm.cb k.toNat ((cbldEntries s.pk a).map (BitVec.ofNat 16)) } })
    h rfl ?_ rfl hr
  simp only [← cbldEntries.eq_def, hb]
  rfl

/-- CBLD with an entry that a codebook cannot hold (R163). -/
theorem traps_cbld {e : Bool} {k : BitVec 2} {a : BitVec 6} {x : Bool} {s : State} {j : Nat} (h : Issues (.cbld e k a x) s)
    (hb : badEntry 0 (cbldEntries s.pk a) = some j) :
    Traps (.cbld e k a x) s (codeTable 2 k.toNat j) :=
  congrArg Host.Outcome.next (issueWord_trap h (by simp only [← cbldEntries.eq_def, hb]))

/-- The entries of a codebook, by division. -/
theorem cbldEntries_eq (p : Pack) (a : BitVec 6) :
    cbldEntries p a = (List.range 16).map fun j => ((lane (p.v a.toNat) (j / 2)).toNat / 2 ^ (16 * (j % 2))) % 2 ^ 16 := by
  simp only [cbldEntries, bitsAt, Nat.shiftRight_eq_div_pow]

/-- BSCALE gives each group its scale (R160). -/
theorem bscale_writes (e : Bool) (d a t : BitVec 6) (x : Bool) (s : State) (h : Issues (.bscale e d a t x) s) :
    let val := fun l => (lane (s.pk.v a.toNat) l).toNat
    WritesLanes (.bscale e d a t x) d.toNat s.pk.active
      (fun l => (bscaleGroup t.toNat ((groupLanes s.pk.active (l / 32)).map val),
        if fp32.isInf (val l) || fp32.isSNaN (val l) then flagIV else 0)) s :=
  writesWide (wide := fun _ => false) (f := fun p l =>
    (bscaleGroup t.toNat ((groupLanes p.active (l / 32)).map fun l => (lane (p.v a.toNat) l).toNat),
      flagIf (fp32.isInf (lane (p.v a.toNat) l).toNat || fp32.isSNaN (lane (p.v a.toNat) l).toNat) flagIV)) h rfl

/-- QCB on a codebook that is set, or with no lane active (R162). -/
theorem qcb_writes {e : Bool} {d a : BitVec 6} {k : BitVec 2} {x : Bool} {s : State} (h : Issues (.qcb e d a k x) s)
    (hb : ¬ (s.tm.book k.toNat = [] ∧ s.pk.active ≠ 0)) : WritesLanes (.qcb e d a k x) d.toNat s.pk.active
      (fun l => qcbLane (s.tm.book k.toNat) ((groupLanes s.pk.active (l / 32)).map fun l => (lane (s.pk.v a.toNat) l).toNat)
        (lane (s.pk.v a.toNat) l).toNat) s :=
  writesWide (wide := fun _ => false) (f := fun p l =>
    qcbLane (s.tm.book k.toNat) ((groupLanes p.active (l / 32)).map fun l => (lane (p.v a.toNat) l).toNat) (lane (p.v a.toNat) l).toNat)
    h (exec_qcb_of_book h hb)

/-- XSET writes the codes of the active lanes, and X (R161). -/
theorem xset_writes (e : Bool) (d a b : BitVec 6) (x y : Bool) (s : State) (h : Issues (.xset e d a b x y) s) :
    let xb := fun l => fpConv fp32 e4m3 rmRNA (lane (s.pk.v b.toNat) l).toNat
    let c := fun l => quantE2m1 (lane (s.pk.v a.toNat) l).toNat (xb l).1
    WritesLanesAndX (.xset e d a b x y) d.toNat s.pk.active (fun l => ((xb l).1 * 2 ^ 8 + (c l).1, (xb l).2 ||| (c l).2))
      (fun l => if s.pk.active.getLsbD l then BitVec.ofNat 8 (xb l).1 else s.pk.x l) s :=
  writesLanesAndX_of (f := xsetLane a b) (g := xsetX b) h rfl

/-- Settles O17, word by word. -/
theorem scalesAndCodebooks : Obligations.ScalesAndCodebooks := by
  refine ⟨bscale_writes, fun e d a k x s h => ?qcb, xset_writes, fun e k a x s h => ?cbld⟩
  case qcb =>
    dsimp only
    split
    next hb => exact traps_qcb_of_empty h hb
    next hb => exact qcb_writes h hb
  case cbld =>
    dsimp only
    rw [← cbldEntries_eq]
    exact ⟨cbld_completes h, fun _ => traps_cbld h⟩

end Sys2Proof.Proofs
end

section
/-! SUPPORT. The lattice words of spec/08 (R173-R182): their trap on a reserved code, and what they write. -/

namespace Sys2Proof.Proofs

open Sys2Proof.Machine Sys2Proof.Safety

/-! ## Joined flags and masks -/

/-- Each bit of joined flags. -/
theorem foldl_or_bit {α : Type} {n : Nat} (g : α → BitVec n) (ls : List α) (k : Nat) : ∀ acc : BitVec n,
    (ls.foldl (fun acc a => acc ||| g a) acc).getLsbD k = (acc.getLsbD k || ls.any fun a => (g a).getLsbD k) := by
  induction ls with
  | nil => simp
  | cons a ls ih => intro acc; rw [List.foldl_cons, ih, BitVec.getLsbD_or, List.any_cons, Bool.or_assoc]

/-- Each bit of flags joined from none. -/
theorem foldl_or_zero_bit {α : Type} {n : Nat} (g : α → BitVec n) (ls : List α) (k : Nat) :
    (ls.foldl (fun acc a => acc ||| g a) 0).getLsbD k = ls.any fun a => (g a).getLsbD k := by
  rw [foldl_or_bit]; simp

/-- Joining flags from a start. -/
theorem foldl_or_eq {α : Type} {n : Nat} (g : α → BitVec n) (ls : List α) (acc : BitVec n) :
    ls.foldl (fun acc a => acc ||| g a) acc = acc ||| ls.foldl (fun acc a => acc ||| g a) 0 := by
  apply BitVec.eq_of_getLsbD_eq
  intro k _
  simp [foldl_or_bit]

/-- Flags joined lane by lane. -/
theorem flagsOver_or (m : DWord) (f g : Nat → BitVec 8) : flagsOver m (fun l => f l ||| g l) = flagsOver m f ||| flagsOver m g := by
  apply BitVec.eq_of_getLsbD_eq
  intro k _
  simp only [flagsOver, foldl_or_zero_bit, BitVec.getLsbD_or]
  rw [Bool.eq_iff_iff]
  simp only [List.any_eq_true, Bool.or_eq_true]
  constructor
  · rintro ⟨l, hl, h | h⟩
    · exact .inl ⟨l, hl, h⟩
    · exact .inr ⟨l, hl, h⟩
  · rintro (⟨l, hl, h⟩ | ⟨l, hl, h⟩)
    · exact ⟨l, hl, .inl h⟩
    · exact ⟨l, hl, .inr h⟩

/-- The mask of a list of lanes. -/
theorem maskOf_bit (ls : List Nat) (l : Nat) (hl : l < 64) : (maskOf ls).getLsbD l = decide (l ∈ ls) := by
  rw [maskOf, foldl_or_zero_bit, Bool.eq_iff_iff]
  simp only [List.any_eq_true, BitVec.getLsbD_ofNat, hl, decide_true, Bool.true_and,
    Nat.testBit_two_pow, decide_eq_true_eq, exists_eq_right]

/-- The lanes of a mask that meet a test, as a mask. -/
theorem maskOf_filter (m : DWord) (c : Nat → Bool) : maskOf ((lanesOf m).filter c) = ofMask fun l => m.getLsbD l && c l := by
  apply BitVec.eq_of_getLsbD_eq
  intro l hl
  rw [maskOf_bit _ _ hl, ofMask_bit _ _ hl, Bool.eq_iff_iff]
  simp [mem_lanesOf, hl]

/-! ## Several registers, one after the other -/

/-- Writing the lanes of one register, its values given for every register. -/
theorem vectorResult_putLanes_of {c : Pack} {m : DWord} {d : Nat} {g : Nat → Flagged} {f : Nat → Nat → Word}
    (hf : ∀ l, f d l = BitVec.ofNat 32 (g l).1) :
    VectorResult [d] m f (flagsOver m fun l => (g l).2) c.preds c.sregs c (c.putLanes m d g) := by
  obtain ⟨vr, lv, hq, hv, hl⟩ := vectorResult_putLanes c m d g
  refine ⟨vr, lv, hq, fun r l hlt => (hv r l hlt).trans ?_, hl⟩
  by_cases hr : r = d
  · subst hr; simp [destOf, hf]
  · simp [destOf, hr]

/-- The effects of two words on a pack, one after the other. -/
theorem vectorResult_trans {ds ds' : List Nat} {m : DWord} {f : Nat → Nat → Word} {fl fl' : BitVec 8} {c q q' : Pack}
    (h : VectorResult ds m f fl c.preds c.sregs c q) (h' : VectorResult ds' m f fl' q.preds q.sregs q q') :
    VectorResult (ds ++ ds') m f (fl ||| fl') c.preds c.sregs c q' := by
  obtain ⟨vr, lv, hq, hv, hl⟩ := h
  obtain ⟨vr', lv', hq', hv', hl'⟩ := h'
  have hqv : ∀ r, q.v r = Tab.get 0 vr r := by rw [hq]; exact fun _ => rfl
  have hql : ∀ r, q.isLive r = lv.getLsbD r := by rw [hq]; exact fun _ => rfl
  refine ⟨vr', lv', by rw [hq', hq, BitVec.or_assoc], fun r l hlt => ?_, fun r hr => ?_⟩
  · rw [hv' r l hlt, hqv, hv r l hlt]
    by_cases hd : r ∈ ds <;> by_cases hd' : r ∈ ds' <;> cases m.getLsbD l <;> simp [hd, hd']
  · rw [hl' r hr, hql, hl r hr]
    by_cases hd : r ∈ ds <;> by_cases hd' : r ∈ ds' <;> simp [hd, hd']

/-- Writing the lanes of registers b + i, i in turn. -/
theorem vectorResult_foldl_putLanes {m : DWord} {b : Nat} {g : Nat → Nat → Flagged} {f : Nat → Nat → Word}
    (hf : ∀ i l, f (b + i) l = BitVec.ofNat 32 (g i l).1) (is : List Nat) : ∀ c : Pack,
    VectorResult (is.map (b + ·)) m f (flagsOver m fun l => is.foldl (fun acc i => acc ||| (g i l).2) 0) c.preds c.sregs c
      (is.foldl (fun t i => t.putLanes m (b + i) (g i)) c) := by
  induction is with
  | nil =>
    intro c
    refine ⟨c.vregs, c.live, ?_, fun r l _ => by simp [Pack.v], fun r _ => by simp [Pack.isLive]⟩
    rw [List.foldl_nil, show (fun l => ([] : List Nat).foldl (fun acc i => acc ||| (g i l).2) 0) = fun _ => (0 : BitVec 8) from rfl, flagsOver_zero,
      show c.fflags ||| (0 : BitVec 8) = c.fflags from BitVec.or_zero]
  | cons i is ih =>
    intro c
    have h := vectorResult_trans (vectorResult_putLanes_of (c := c) (m := m) (hf i)) (ih (c.putLanes m (b + i) (g i)))
    rw [← flagsOver_or] at h
    simp only [List.foldl_cons, List.map_cons]
    rw [show (fun l => is.foldl (fun acc i => acc ||| (g i l).2) (0 ||| (g i l).2)) =
      fun l => (g i l).2 ||| is.foldl (fun acc i => acc ||| (g i l).2) 0 from
        funext fun l => by rw [foldl_or_eq, show 0 ||| (g i l).2 = (g i l).2 from BitVec.zero_or]]
    exact h

/-! ## The trap on a reserved code (R182) -/

/-- No lane that the word reads holds a reserved code. -/
theorem latFault_none {m : DWord} {code : Nat → Option Nat}
    (h : ∀ l c, l < 64 → m.getLsbD l → code l = some c → latReserved c = false) : latFault m code = none := by
  rw [latFault, List.findSome?_eq_none_iff]
  intro l hl
  obtain ⟨hl, hm⟩ := (mem_lanesOf m l).1 hl
  cases hc : code l with
  | none => rfl
  | some c => simp [h l c hl hm hc]

/-- The lanes of a mask below lane l, then l, then the rest. -/
theorem lanesOf_split {m : DWord} {l : Nat} (hl : l < 64) (hm : m.getLsbD l = true) :
    ∃ rest, lanesOf m = (List.range l).filter (fun l => m.getLsbD l) ++ l :: rest := by
  refine ⟨(((List.range (63 - l)).map (· + 1)).map (l + ·)).filter fun l => m.getLsbD l, ?_⟩
  have hr : List.range 64 = List.range l ++ l :: ((List.range (63 - l)).map (· + 1)).map (l + ·) := by
    rw [show List.range 64 = List.range (l + (63 - l + 1)) by congr 1; omega, List.range_add, List.range_succ_eq_map]; rfl
  rw [lanesOf, hr, List.filter_append, List.filter_cons_of_pos hm]

/-- The lowest lane that the word reads and whose code is reserved. -/
theorem latFault_some {m : DWord} {code : Nat → Option Nat} {l c : Nat} (hl : l < 64) (hm : m.getLsbD l) (hc : code l = some c)
    (hr : latReserved c = true) (hlow : ∀ k c', k < l → m.getLsbD k → code k = some c' → latReserved c' = false) :
    latFault m code = some { precise cLATTICE 1 with lane := l, detail := c } := by
  obtain ⟨rest, hsplit⟩ := lanesOf_split hl hm
  rw [latFault, List.findSome?_eq_some_iff]
  refine ⟨_, l, rest, hsplit, by simp [hc, hr], fun k hk => ?_⟩
  obtain ⟨hk, hmk⟩ := List.mem_filter.1 hk
  cases hck : code k with
  | none => rfl
  | some c' => simp [hlow k c' (List.mem_range.1 hk) hmk hck]

/-- A lattice word that meets no reserved code. -/
theorem exec_latWord_of_none {i : Instr} {s : State} {code : Pack → Nat → Option Nat} {f : Pack → Pack → Pack} (h : Issues i s)
    (he : exec i s = latWord i s code f) (hc : latFault s.pk.active (code s.pk) = none) : exec i s = .next (packWord i s f) := by
  rw [he, latWord, packWord, issueWord_done h (t := { sourced i s with pk := f s.pk (s.pk.consume i) }) (by simp only [hc]; rfl),
    issueWord_done h rfl]
  rfl

/-- A lattice word that meets a reserved code. -/
theorem traps_latWord {i : Instr} {s : State} {code : Pack → Nat → Option Nat} {f : Pack → Pack → Pack} {r : FaultRec} (h : Issues i s)
    (he : exec i s = latWord i s code f) (hc : latFault s.pk.active (code s.pk) = some r) : Traps i s r := by
  rw [Traps, he, latWord, issueWord_trap (f := r) h (by simp only [hc])]

/-- A word that writes the lanes of a mask of one register. -/
theorem writesLanes_of_putLanes {i : Instr} {s : State} {d : Nat} {m : Pack → DWord} {f : Pack → Nat → Flagged} (h : Issues i s)
    (he : exec i s = .next (packWord i s fun p t => t.putLanes (m p) d (f p))) : WritesLanes i d (m s.pk) (f s.pk) s :=
  writesVector_of h he (vectorResult_putLanes ..)

/-- A lattice word of two sources, from its meaning. -/
theorem lattice2_of {i : Bool → BitVec 6 → BitVec 6 → BitVec 6 → Bool → Bool → Instr}
    {code : Pack → BitVec 6 → BitVec 6 → BitVec 6 → Nat → Option Nat} {m : Pack → BitVec 6 → BitVec 6 → BitVec 6 → DWord}
    {f : Pack → BitVec 6 → BitVec 6 → BitVec 6 → Nat → Flagged}
    (he : ∀ e d a b x y s, exec (i e d a b x y) s = latWord (i e d a b x y) s (fun p => code p d a b) fun p t =>
      t.putLanes (m p d a b) d.toNat (f p d a b)) : Lattice2 i code m f := by
  intro e d a b x y s h
  refine ⟨fun hc => ?_, fun l c hl hm hc hr hlow => ?_⟩
  · exact writesLanes_of_putLanes (m := fun p => m p d a b) (f := fun p => f p d a b) h
      (exec_latWord_of_none h (he e d a b x y s) (latFault_none hc))
  · exact traps_latWord h (he e d a b x y s) (latFault_some hl hm hc hr hlow)

/-- Bits of a number, by division. -/
theorem bitsAt_eq (x lo n : Nat) : bitsAt x lo n = x / 2 ^ lo % 2 ^ n := by
  rw [bitsAt, Nat.shiftRight_eq_div_pow]

/-! ## The words (R173-R181) -/

/-- What DLAT does to its pack: the eight registers in turn (R177). -/
def dlatPut (d : BitVec 3) (a b : BitVec 6) (p t : Pack) : Pack :=
  (List.range 8).foldl (fun t i => t.putLanes p.active (8 * d.toNat + i) fun l =>
    latElem (p.codeAt a.toNat b.toNat l) (ctlE (p.vl b.toNat l)) (ctlPM (p.vl b.toNat l)) i) t

theorem exec_dlat (e : Bool) (d : BitVec 3) (a b : BitVec 6) (x y : Bool) (s : State) : exec (.dlat e d a b x y) s =
    latWord (.dlat e d a b x y) s (fun p l => some (p.codeAt a.toNat b.toNat l)) (dlatPut d a b) := rfl

/-- DLAT writes the eight coordinates of each code (R177). -/
theorem dlat_writes (e : Bool) (d : BitVec 3) (a b : BitVec 6) (x y : Bool) (s : State) (h : Issues (.dlat e d a b x y) s)
    (hc : ∀ l, l < 64 → s.pk.active.getLsbD l → latReserved (s.pk.codeAt a.toNat b.toNat l) = false) :
    let elem := fun l i => latElem (s.pk.codeAt a.toNat b.toNat l) (ctlE (s.pk.vl b.toNat l)) (ctlPM (s.pk.vl b.toNat l)) i
    WritesVector (.dlat e d a b x y) ((List.range 8).map (8 * d.toNat + ·)) s.pk.active
      (fun r l => BitVec.ofNat 32 (elem l (r - 8 * d.toNat)).1)
      (fun l => (List.range 8).foldl (fun acc i => acc ||| (elem l i).2) 0) s := by
  intro elem
  have he := exec_latWord_of_none h (exec_dlat e d a b x y s) (latFault_none fun l c hl hm hcode =>
    Option.some.inj hcode ▸ hc l hl hm)
  exact writesVector_of h he (vectorResult_foldl_putLanes (g := fun i l => elem l i)
    (fun i l => by rw [Nat.add_sub_cancel_left]) (List.range 8) (s.pk.consume (.dlat e d a b x y)))

/-- DLAT traps for the lowest active lane whose code is reserved (R182). -/
theorem traps_dlat (e : Bool) (d : BitVec 3) (a b : BitVec 6) (x y : Bool) (s : State) (l : Nat) (h : Issues (.dlat e d a b x y) s)
    (hl : l < 64) (hr : (s.pk.active.getLsbD l && latReserved (s.pk.codeAt a.toNat b.toNat l)) = true)
    (hlow : ∀ k, k < l → (s.pk.active.getLsbD k && latReserved (s.pk.codeAt a.toNat b.toNat k)) = false) :
    Traps (.dlat e d a b x y) s { precise cLATTICE 1 with lane := l, detail := s.pk.codeAt a.toNat b.toNat l } := by
  obtain ⟨hm, hr⟩ := Bool.and_eq_true_iff.1 hr
  refine traps_latWord h (exec_dlat e d a b x y s) (latFault_some hl hm rfl hr fun k c hk hmk hc => ?_)
  obtain rfl := Option.some.inj hc
  have := hlow k hk
  rwa [hmk, Bool.true_and] at this

/-- LPUT writes the lanes that it does not skip (R178). -/
theorem lput_lattice2 : Lattice2 .lput
    (fun p d _ b l => if (ctlPM (p.vl b.toNat l)).testBit (ctlK (p.vl b.toNat l)) then none else some (p.codeAt d.toNat b.toNat l))
    (fun p d _ b => ofMask fun l => p.active.getLsbD l && !lputSkips (p.vl d.toNat l) (p.vl b.toNat l))
    (fun p d a b l => lputLane (p.vl d.toNat l) (p.vl b.toNat l) (p.vl a.toNat l)) := by
  simp only [← maskOf_filter]
  exact lattice2_of fun _ _ _ _ _ _ _ => rfl

/-- The coordinates that LPACK takes from its sources (R181). -/
theorem lpack_lanes2 : Lanes2 .lpack fun p _ a b l =>
    lpackCode ((List.range 8).map fun i => signed (p.vl (if i < 4 then a.toNat else b.toNat) l / 2 ^ (8 * (i % 4)) % 2 ^ 8) 8) := by
  simp only [← bitsAt_eq]
  exact lanes2_of_exec fun _ _ _ _ _ _ _ => rfl

/-- The halves of a lane that LCHK tests (R180). -/
theorem lchkLane_eq (q c : Nat) : lchkLane q c =
    ((q == 1 || decide (c % 2 ^ 16 ≤ 0xDE30)) && (q == 0 || decide (c / 2 ^ 16 % 2 ^ 16 ≤ 0xDE30))) := by
  simp [lchkLane, halfOf, bitsAt_eq]

/-- Settles O18, word by word. -/
theorem latticeWords : Obligations.LatticeWords := by
  refine ⟨fun e d a b x y s h => ?qlat, dlat_writes, fun e d a b x y s l h => traps_dlat e d a b x y s l h, lput_lattice2,
    fun e d a b x y s h => ?lscale, ?lshell, ?lget, lpack_lanes2, fun e d a q x s h => ?lchk⟩
  case qlat =>
    exact writesLanes_of_putLanes (m := fun p => p.active) (f := fun p l =>
      let c := p.vl b.toNat l
      let r := latQuantise (p.block8 a l) (ctlE c) (ctlPM c)
      (withHalf (p.vl d.toNat l) (ctlH c) r.1, r.2)) h rfl
  case lscale =>
    exact writesLanes_of_putLanes (m := fun p => p.active) (f := fun p l => lscaleLane (p.block8 a l) (p.vl b.toNat l)) h rfl
  case lshell => exact lattice2_of fun _ _ _ _ _ _ _ => rfl
  case lget => exact lattice2_of fun _ _ _ _ _ _ _ => rfl
  case lchk =>
    simp only [← lchkLane_eq]
    exact writesPred_of_predWord (f := fun p l => lchkLane q.toNat (p.vl a.toNat l)) h rfl rfl

end Sys2Proof.Proofs
end

section
/-! SUPPORT. Tile memory (R186-R206): first fit, the words on tile handles, and the words that reach the bytes of a tile. -/

namespace Sys2Proof.Proofs

open Sys2Proof.Machine Sys2Proof.Safety

/-! ## First fit (R189) -/

/-- A run of len granules from k lies in a budget of b and meets no run in use. -/
def Fits (busy : List (Nat × Nat)) (b len k : Nat) : Prop := k + len ≤ b ∧ ∀ r, r ∈ busy → k + len ≤ r.1 ∨ r.1 + r.2 ≤ k

/-- What the search from k finds, of n places tried. -/
theorem firstFit_spec (busy : List (Nat × Nat)) (b len n : Nat) : ∀ k, match firstFit busy b len k n with
    | some j => Fits busy b len j ∧ ∀ i, k ≤ i → i < j → ¬ Fits busy b len i
    | none => ∀ i, k ≤ i → i < k + n → ¬ Fits busy b len i := by
  induction n with
  | zero => exact fun k i h1 h2 => absurd h2 (by omega)
  | succ n ih =>
    intro k
    rw [firstFit]
    by_cases hb : b < k + len
    · rw [if_pos hb]
      exact fun i h1 _ hf => by have := hf.1; omega
    · rw [if_neg hb]
      by_cases hr : busy.all fun r => decide (k + len ≤ r.1) || decide (r.1 + r.2 ≤ k)
      · rw [if_pos hr]
        exact ⟨⟨by omega, by simpa using hr⟩, fun i h1 h2 => absurd h2 (by omega)⟩
      · rw [if_neg hr]
        have hk : ¬ Fits busy b len k := fun hf => hr (by simpa using hf.2)
        have hi := ih (k + 1)
        cases hff : firstFit busy b len (k + 1) n with
        | some j =>
          rw [hff] at hi
          refine ⟨hi.1, fun i h1 h2 => ?_⟩
          rcases Nat.eq_or_lt_of_le h1 with rfl | h1
          · exact hk
          · exact hi.2 i h1 h2
        | none =>
          rw [hff] at hi
          intro i h1 h2
          rcases Nat.eq_or_lt_of_le h1 with rfl | h1
          · exact hk
          · exact hi i h1 (by omega)

/-- Settles O20: past the budget no run fits. -/
theorem firstFitIsLowest : Obligations.FirstFitIsLowest := by
  intro busy b len _
  have h := firstFit_spec busy b len (b + 1) 0
  dsimp only
  cases hff : firstFit busy b len 0 (b + 1) with
  | some k =>
    rw [hff] at h
    exact ⟨h.1, fun j hj => h.2 j (Nat.zero_le j) hj⟩
  | none =>
    rw [hff] at h
    intro k hk
    exact h k (Nat.zero_le k) (by have := hk.1; omega) hk

/-! ## TALLOC (R191-R196) -/

section
variable (x : Nat)

theorem descLV_eq : descLV x = x / 2 ^ 48 % 4 := bitsAt_eq ..
theorem descM_eq : descM x = x / 2 ^ 52 % 16 := bitsAt_eq ..
theorem descK_eq : descK x = x / 2 ^ 56 % 64 := bitsAt_eq ..
theorem descEb_eq : descEb x = 2 ^ (x / 2 ^ 32 % 4) := congrArg (2 ^ ·) (bitsAt_eq ..)
theorem descRows_eq : descRows x = x / 2 ^ 16 % 2 ^ 16 := bitsAt_eq ..
theorem descCols_eq : descCols x = x % 2 ^ 16 := by rw [descCols, bitsAt_eq, pow_zero, Nat.div_one]

end

/-- A malformed descriptor, field by field (R194). -/
theorem descMalformed_iff {x : Nat} (hx : x < 2 ^ 64) : descMalformed x = true ↔
    2 ≤ x / 2 ^ 62 ∨ x.testBit 62 ∨ x.testBit 51 ∨ x / 2 ^ 34 % 2 ^ 14 ≠ 0 ∨ 2 ≤ x / 2 ^ 48 % 4 ∨ x / 2 ^ 32 % 4 = 3 ∨
      (x.testBit 50 = false ∧ (x / 2 ^ 16 % 2 ^ 16 = 0 ∨ x % 2 ^ 16 = 0 ∨
        393216 < x / 2 ^ 16 % 2 ^ 16 * (x % 2 ^ 16) * 2 ^ (x / 2 ^ 32 % 4) ∨ x / 2 ^ 56 % 64 ≠ 0)) ∨
      (x.testBit 50 = true ∧ (x % 2 ^ 34 ≠ 0 ∨ x / 2 ^ 48 % 4 = 0)) ∨ (x / 2 ^ 48 % 4 = 0 ∧ x / 2 ^ 52 % 16 ≠ 0) := by
  have htop : x / 2 ^ 62 % 2 ^ 2 ≠ 0 ↔ 2 ≤ x / 2 ^ 62 ∨ x.testBit 62 = true := by
    rw [Nat.testBit_eq_decide_div_mod_eq, decide_eq_true_eq]; omega
  simp only [descMalformed, descB, descLV_eq, descM_eq, descK_eq, descEb_eq, descRows_eq, descCols_eq, bitsAt_eq, Nat.pow_zero, Nat.div_one,
    Bool.or_eq_true, Bool.and_eq_true, bne_iff_ne, beq_iff_eq, decide_eq_true_eq, Bool.not_eq_true', htop, or_assoc]
  exact Iff.rfl

/-- A descriptor that names no member of the team's gang (R194 status 5). -/
theorem noGang_iff (t : Team) (x : Nat) : (decide (descLV x = 1) && (t.gang == 0 || decide (t.gang ≤ descM x))) = true ↔
    x / 2 ^ 48 % 4 = 1 ∧ (t.gang = 0 ∨ t.gang ≤ x / 2 ^ 52 % 16) := by
  simp [descLV_eq, descM_eq]

/-- The member whose storage a descriptor names, where it holds a budget (R187, R195). -/
def allocTarget (s : State) (x : Nat) : Option Team :=
  (s.team? (s.tm.storeOf x)).filter fun m => m.status == .resident || m.status == .evicted

theorem allocTarget_eq_some_iff (s : State) (x : Nat) (m : Team) : allocTarget s x = some m ↔
    s.team? (if x / 2 ^ 48 % 4 = 0 ∨ x / 2 ^ 52 % 16 = s.tm.gangRank then s.tm.id else s.tm.member (x / 2 ^ 52 % 16)) = some m ∧
      (m.status = .resident ∨ m.status = .evicted) := by
  simp [allocTarget, Option.filter_eq_some_iff, Team.storeOf, descLV_eq, descM_eq]

/-- What TALLOC does once the checks 1, 4 and 5 have passed (R194). -/
theorem talloc_of_checks {s : State} {n x : Nat} (h1 : s.tm.handle n = none) (h4 : ¬ descMalformed x = true)
    (h5 : ¬ (decide (descLV x = 1) && (s.tm.gang == 0 || decide (s.tm.gang ≤ descM x))) = true) :
    s.talloc n x = match allocTarget s x with
      | none => (if descB x then 6 else if s.tableUse s.tm.core < 256 then 3 else 2, s)
      | some m =>
        if descB x then
          match m.handle (descK x) with
          | none => (6, s)
          | some k =>
            if !k.level0 m.id then (6, s)
            else if !s.tableRoom s.tm m then (2, s)
            else (0, s.onTeam s.tm.id fun t => { t with handles := Tab.set none t.handles n (some
              { desc := dw (x % 2 ^ 63 + 2 ^ 63 + bitsAt k.desc.toNat 0 34), store := m.id, sid := k.sid, rows := k.rows, cols := k.cols
                eb := k.eb }) })
        else if !s.tableRoom s.tm m then (2, s)
        else match firstFit m.busyRuns m.granules (granulesFor (descRows x * descCols x * descEb x)) 0 (m.granules + 1) with
          | none => (3, s)
          | some k => (0, (({ s with serial := s.serial + 1 } : State).onTeam m.id fun m => { m with allocs := m.allocs ++
              [{ sid := s.serial, start := k, len := granulesFor (descRows x * descCols x * descEb x), owner := s.tm.id }] }).onTeam
              s.tm.id fun t => { t with handles := Tab.set none t.handles n (some
                { desc := dw (x + 2 ^ 63), store := m.id, sid := s.serial, rows := descRows x, cols := descCols x, eb := descEb x }) }) := by
  rw [State.talloc]
  simp only [h1, Option.isSome_none, Bool.false_eq_true, if_false, h4, h5]
  rfl

/-- TALLOC answers a status of at most 6, and only with status 0 changes the machine (R194). -/
theorem talloc_status (s : State) (n x : Nat) : (s.talloc n x).1 ≤ 6 ∧ ((s.talloc n x).1 ≠ 0 → (s.talloc n x).2 = s) := by
  unfold State.talloc
  dsimp only
  repeat' split
  all_goals simp

/-- TALLOC returns its status (R194). -/
theorem talloc_returns (e : Bool) (v h c : BitVec 6) (s : State) (hi : Issues (.talloc e v h c) s) :
    let r := s.talloc h.toNat (s.pk.s c.toNat).toNat
    Returns (.talloc e v h c) s r.2 v (dw r.1) ∧ r.1 ≤ 6 ∧ (r.1 ≠ 0 → r.2 = s) := by
  refine ⟨completesFrom_of hi rfl ?_, talloc_status ..⟩
  rw [sourced_of_noVector fun _ => ⟨rfl, rfl⟩]

section
variable {s : State} {n x : Nat}

/-- Status 1: the handle is allocated. -/
theorem talloc_used (h : ¬ s.tm.handle n = none) : s.talloc n x = (1, s) := by
  simp only [State.talloc, Option.isSome_iff_ne_none.2 h, if_true]

/-- Status 4: the descriptor is malformed. -/
theorem talloc_malformed (h1 : s.tm.handle n = none) (h : descMalformed x = true) : s.talloc n x = (4, s) := by
  simp only [State.talloc, h1, Option.isSome_none, Bool.false_eq_true, if_false, h, if_true]

/-- Status 5: the descriptor names no member. -/
theorem talloc_noGang (h1 : s.tm.handle n = none) (h4 : ¬ descMalformed x = true)
    (h : (decide (descLV x = 1) && (s.tm.gang == 0 || decide (s.tm.gang ≤ descM x))) = true) : s.talloc n x = (5, s) := by
  rw [State.talloc]
  simp only [h1, Option.isSome_none, Bool.false_eq_true, if_false, h4]
  exact if_pos h

variable (h1 : s.tm.handle n = none) (h4 : ¬ descMalformed x = true)
  (h5 : ¬ (decide (descLV x = 1) && (s.tm.gang == 0 || decide (s.tm.gang ≤ descM x))) = true)
include h1 h4 h5

/-- Status 6: a binding with no target. -/
theorem talloc_noTarget (hb : descB x = true)
    (hn : ¬ ∃ m k, allocTarget s x = some m ∧ m.handle (descK x) = some k ∧ k.level0 m.id = true) : s.talloc n x = (6, s) := by
  rw [talloc_of_checks h1 h4 h5]
  cases hm : allocTarget s x with
  | none => simp only [hb, if_true]
  | some m =>
    simp only [hb, if_true]
    cases hk : m.handle (descK x) with
    | none => rfl
    | some k =>
      have hl : k.level0 m.id = false := Bool.eq_false_iff.2 fun h0 => hn ⟨m, k, hm, hk, h0⟩
      simp only [hl, Bool.not_false, if_true]

/-- Status 3 or 2: a new tile of a member that holds no budget. -/
theorem talloc_noStore (hb : descB x = false) (hn : allocTarget s x = none) :
    s.talloc n x = (if s.tableUse s.tm.core < 256 then 3 else 2, s) := by
  rw [talloc_of_checks h1 h4 h5, hn]
  simp only [hb, Bool.false_eq_true, if_false]

/-- A binding to a target. -/
theorem talloc_bind {m : Team} {k : Handle} (hb : descB x = true) (hm : allocTarget s x = some m) (hk : m.handle (descK x) = some k)
    (hl : k.level0 m.id = true) : s.talloc n x =
      if s.tableRoom s.tm m then
        (0, s.onTeam s.tm.id fun t => { t with handles := Tab.set none t.handles n (some
          { desc := dw (x % 2 ^ 63 + 2 ^ 63 + k.desc.toNat % 2 ^ 34), store := m.id, sid := k.sid, rows := k.rows, cols := k.cols
            eb := k.eb }) })
      else (2, s) := by
  rw [talloc_of_checks h1 h4 h5, hm]
  simp only [hb, if_true, hk, hl, Bool.not_true, Bool.false_eq_true, if_false, bitsAt_eq, Nat.pow_zero, Nat.div_one]
  cases s.tableRoom s.tm m <;> rfl

/-- Status 2: a new tile with the tile table full. -/
theorem talloc_noRoom {m : Team} (hb : descB x = false) (hm : allocTarget s x = some m) (hr : s.tableRoom s.tm m = false) :
    s.talloc n x = (2, s) := by
  rw [talloc_of_checks h1 h4 h5, hm]
  simp only [hb, Bool.false_eq_true, if_false, hr, Bool.not_false, if_true]

/-- A new tile, in the first free run or with status 3. -/
theorem talloc_new {m : Team} (hb : descB x = false) (hm : allocTarget s x = some m) (hr : s.tableRoom s.tm m = true) :
    match firstFit m.busyRuns m.granules (granulesFor (descRows x * descCols x * descEb x)) 0 (m.granules + 1) with
    | none => s.talloc n x = (3, s)
    | some k => s.talloc n x = (0, (({ s with serial := s.serial + 1 } : State).onTeam m.id fun m => { m with allocs := m.allocs ++
        [{ sid := s.serial, start := k, len := granulesFor (descRows x * descCols x * descEb x), owner := s.tm.id }] }).onTeam
        s.tm.id fun t => { t with handles := Tab.set none t.handles n (some
          { desc := dw (x + 2 ^ 63), store := m.id, sid := s.serial, rows := descRows x, cols := descCols x, eb := descEb x }) }) := by
  rw [talloc_of_checks h1 h4 h5, hm]
  simp only [hb, Bool.false_eq_true, if_false, hr, Bool.not_true]
  cases firstFit m.busyRuns m.granules (granulesFor (descRows x * descCols x * descEb x)) 0 (m.granules + 1) <;> rfl

end

/-- A target of a binding: a handle at level 0 of the member itself (R194 status 6). -/
theorem level0_iff (k : Handle) (t : TeamId) : k.level0 t = true ↔ k.store = t ∧ descB k.desc.toNat = false := by
  simp [Handle.level0]

/-! ## The other words on handles (R196, R197, R204) -/

/-- TFREE (R196). -/
theorem tfree_returns (e : Bool) (v h : BitVec 6) (s : State) (hi : Issues (.tfree e v h) s) :
    match s.tm.handle h.toNat with
    | none => Returns (.tfree e v h) s s v 1
    | some k =>
      if s.tileBusy s.tm h.toNat k then Returns (.tfree e v h) s s v 8
      else Returns (.tfree e v h) s (s.releaseHandle s.tm h.toNat) v 0 := by
  cases hk : s.tm.handle h.toNat with
  | none =>
    refine completesFrom_of hi rfl ?_
    rw [sourced_of_noVector fun _ => ⟨rfl, rfl⟩]
    simp only [hk]
  | some k =>
    dsimp only
    split
    next hb =>
      refine completesFrom_of hi rfl ?_
      rw [sourced_of_noVector fun _ => ⟨rfl, rfl⟩]
      simp only [hk, hb, if_true]
    next hb =>
      refine completesFrom_of hi rfl ?_
      rw [sourced_of_noVector fun _ => ⟨rfl, rfl⟩]
      simp only [hk, hb]
      rfl

/-- TINFO (R197). -/
theorem tinfo_returns (e : Bool) (v h : BitVec 6) (s : State) (hi : Issues (.tinfo e v h) s) :
    Returns (.tinfo e v h) s s v (match s.tm.handle h.toNat with
      | none => 0
      | some k => k.desc) := by
  refine completesFrom_of hi rfl ?_
  rw [sourced_of_noVector fun _ => ⟨rfl, rfl⟩] <;> rfl

/-- TWPTR of a tile (R204). -/
theorem twptr_returns (e : Bool) (v h : BitVec 6) (s : State) (k : Handle) (a : Alloc) (hi : Issues (.twptr e v h) s)
    (ht : s.tileOf s.tm h.toNat = .ok (k, a)) : Returns (.twptr e v h) s s v (dw a.wp) := by
  refine completesFrom_of hi rfl ?_
  rw [sourced_of_noVector fun _ => ⟨rfl, rfl⟩]
  simp only [ht]

/-- TWPTR of what names no tile (R204). -/
theorem twptr_refused (e : Bool) (v h : BitVec 6) (s : State) (r : Nat) (hi : Issues (.twptr e v h) s)
    (ht : s.tileOf s.tm h.toNat = .error r) :
    CompletesFrom (.twptr e v h) s { s with pk := s.pk.deferTileAll r h.toNat 0 } := by
  refine completesFrom_of hi rfl ?_
  rw [sourced_of_noVector fun _ => ⟨rfl, rfl⟩]
  simp only [ht]

/-- Settles O19: the fields of the descriptor are those that the checks of TALLOC look at. -/
theorem tileHandles : Obligations.TileHandles := by
  refine ⟨talloc_returns, fun s h c => ?_, tfree_returns, tinfo_returns, twptr_returns, twptr_refused⟩
  intro t x r cols rows size lv rank bound malformed noGang free sound live target len
  have hmal : descMalformed x = true ↔ malformed := descMalformed_iff c.isLt
  have hgang := noGang_iff t x
  have hlive : ∀ m, allocTarget s x = some m ↔ live m := allocTarget_eq_some_iff s x
  have hk : descK x = x / 2 ^ 56 % 64 := descK_eq x
  have hlen : granulesFor (descRows x * descCols x * descEb x) = len := by rw [descRows_eq, descCols_eq, descEb_eq]; rfl
  refine ⟨talloc_used, fun ⟨hf, hm⟩ => talloc_malformed hf (hmal.2 hm), fun ⟨hf, hm, hg⟩ => talloc_noGang hf (mt hmal.1 hm) (hgang.2 hg),
    fun ⟨⟨hf, hm, hg⟩, hb, hn⟩ => ?noTarget, fun ⟨⟨hf, hm, hg⟩, hb, hn⟩ => ?noStore, fun m k ⟨hf, hm, hg⟩ hb hl ⟨hk', ht⟩ => ?bind,
    fun m ⟨hf, hm, hg⟩ hb hl hr => ?noRoom, fun m ⟨hf, hm, hg⟩ hb hl hr => ?new⟩
  case noTarget =>
    refine talloc_noTarget hf (mt hmal.1 hm) (mt hgang.1 hg) hb ?_
    rintro ⟨m, k, hm, hk', hl⟩
    exact hn ⟨m, k, (hlive m).1 hm, hk ▸ hk', (level0_iff k m.id).1 hl⟩
  case noStore =>
    exact talloc_noStore hf (mt hmal.1 hm) (mt hgang.1 hg) hb
      (Option.eq_none_iff_forall_ne_some.2 fun m hm => hn ⟨m, (hlive m).1 hm⟩)
  case bind => exact talloc_bind hf (mt hmal.1 hm) (mt hgang.1 hg) hb ((hlive m).2 hl) (hk ▸ hk') ((level0_iff k m.id).2 ht)
  case noRoom => exact talloc_noRoom hf (mt hmal.1 hm) (mt hgang.1 hg) hb ((hlive m).2 hl) hr
  case new =>
    have hnew := talloc_new hf (mt hmal.1 hm) (mt hgang.1 hg) hb ((hlive m).2 hl) hr
    rw [hlen, descRows_eq, descCols_eq, descEb_eq] at hnew
    exact hnew

/-! ## The bytes of a tile (R198-R200) -/

/-- The accesses of the lanes whose coordinates lie in the shape. -/
theorem filterMap_offset (k : Handle) (cs : List (Nat × Nat)) :
    (cs.filterMap fun q => (k.offset q.2).map fun o => (q.1, o)) =
      (cs.filter fun q => (k.offset q.2).isSome).map fun q => (q.1, (k.offset q.2).getD 0) := by
  induction cs with
  | nil => rfl
  | cons q cs ih => cases h : k.offset q.2 <;> simp [h, ih]

/-- Writing the lanes whose coordinates lie in the shape, in order. -/
theorem foldl_tileWrite (k : Handle) (a : Alloc) (f : Nat → List Byte) (cs : List (Nat × Nat)) : ∀ u : State,
    cs.foldl (fun t q => match k.offset q.2 with
      | none => t
      | some o => t.tileWrite k a o (f q.1)) u =
      (cs.filter fun q => (k.offset q.2).isSome).foldl (fun t q => t.tileWrite k a ((k.offset q.2).getD 0) (f q.1)) u := by
  induction cs with
  | nil => exact fun _ => rfl
  | cons q cs ih => intro u; cases h : k.offset q.2 <;> simp [h, ih]

/-- With every coordinate in the shape, no lane is refused. -/
theorem coords_filter_isNone {k : Handle} {p : Pack} {c : Nat}
    (h : ∀ n, n < 64 → p.active.getLsbD n → (k.offset (p.vl c n)).isSome) :
    (p.coords c).filter (fun q => (k.offset q.2).isNone) = [] ∧
      (p.coords c).filter (fun q => (k.offset q.2).isSome) = p.coords c := by
  have hall : ∀ q ∈ p.coords c, (k.offset q.2).isSome = true := by
    rintro q hq
    obtain ⟨n, hn, rfl⟩ := List.mem_map.1 hq
    obtain ⟨hn, hm⟩ := (mem_lanesOf _ _).1 hn
    exact h n hn hm
  refine ⟨List.filter_eq_nil_iff.2 fun q hq => ?_, List.filter_eq_self.2 hall⟩
  have := hall q hq
  simp [Option.isSome_iff_ne_none] at this
  simp [this]

/-- A tile without poison has no poisoned byte. -/
theorem not_poisoned {a : Alloc} (h : a.poison = []) (o : Nat) : a.poisoned o = false := by
  simp [Alloc.poisoned, h]

section
variable {e : Bool} {v h c : BitVec 6} {l : Bool} {s : State} {k : Handle} {a : Alloc} {r : Nat}

/-- What TLD gets of a tile: the accesses whose lines are not poisoned. -/
theorem tld_starts (hi : Issues (.tld e v h c l) s) (ht : s.tileOf s.tm h.toNat = .ok (k, a))
    (hp : ∀ q ∈ s.pk.coords c.toNat, (k.offset q.2).isSome → a.poisoned ((k.offset q.2).getD 0) = false) :
    Starts (.tld e v h c l) s { sourced (.tld e v h c l) s with
        pk := (s.pk.consume (.tld e v h c l)).deferTile 2 h.toNat ((s.pk.coords c.toNat).filter fun q => (k.offset q.2).isNone) }
      { opOf (.tld e v h c l) s .tl with
        vdst := [v.toNat]
        got := ((s.pk.coords c.toNat).filter fun q => (k.offset q.2).isSome).map fun q =>
          (q.1, ofBytes (s.tileBytes k a ((k.offset q.2).getD 0) 4)) }
      [.tileAccessRetire s.pk.id s.serial] := by
  refine completesFrom_of hi rfl ?_
  have hin : ∀ q ∈ ((s.pk.coords c.toNat).filter fun q => (k.offset q.2).isSome).map fun q => (q.1, (k.offset q.2).getD 0),
      a.poisoned q.2 = false := by
    intro q hq
    obtain ⟨r, hr, rfl⟩ := List.mem_map.1 hq
    obtain ⟨hr, ho⟩ := List.mem_filter.1 hr
    exact hp r hr ho
  have hecc : ((((s.pk.coords c.toNat).filter fun q => (k.offset q.2).isSome).map fun q => (q.1, (k.offset q.2).getD 0)).filter
      fun q => a.poisoned q.2) = [] := List.filter_eq_nil_iff.2 fun q hq => by simp [hin q hq]
  have hgot : ((((s.pk.coords c.toNat).filter fun q => (k.offset q.2).isSome).map fun q => (q.1, (k.offset q.2).getD 0)).filter
      fun q => !a.poisoned q.2) = ((s.pk.coords c.toNat).filter fun q => (k.offset q.2).isSome).map fun q => (q.1, (k.offset q.2).getD 0) :=
    List.filter_eq_self.2 fun q hq => by simp [hin q hq]
  simp only [ht, filterMap_offset, hecc, hgot, List.map_map, List.map_nil]
  rfl

/-- TLD with every coordinate in the shape and on sound lines (R198). -/
theorem tld_starts_of_inside (hi : Issues (.tld e v h c l) s) (ht : s.tileOf s.tm h.toNat = .ok (k, a))
    (hin : ∀ n, n < 64 → s.pk.active.getLsbD n → ∃ o, k.offset (s.pk.vl c.toNat n) = some o ∧ a.poisoned o = false) :
    Starts (.tld e v h c l) s (sourced (.tld e v h c l) s)
      { opOf (.tld e v h c l) s .tl with
        vdst := [v.toNat]
        got := (lanesOf s.pk.active).map fun n =>
          (n, ofBytes (s.tileBytes k a ((k.offset (s.pk.vl c.toNat n)).getD 0) 4)) }
      [.tileAccessRetire s.pk.id s.serial] := by
  have hs := tld_starts hi ht (by
    intro q hq _
    obtain ⟨n, hn, rfl⟩ := List.mem_map.1 hq
    obtain ⟨hn, hm⟩ := (mem_lanesOf _ _).1 hn
    obtain ⟨o, ho, hp⟩ := hin n hn hm
    simp only [ho, Option.getD_some, hp])
  obtain ⟨hbad, hok⟩ := coords_filter_isNone (k := k) (p := s.pk) (c := c.toNat) fun n hn hm => by
    obtain ⟨o, ho, -⟩ := hin n hn hm
    rw [ho]; rfl
  rw [hbad, hok] at hs
  simp only [Pack.coords, List.map_map] at hs
  exact hs

/-- TLD of what names no storage (R198). -/
theorem tld_refused (hi : Issues (.tld e v h c l) s) (ht : s.tileOf s.tm h.toNat = .error r) :
    Starts (.tld e v h c l) s { sourced (.tld e v h c l) s with pk := (s.pk.consume (.tld e v h c l)).deferTile r h.toNat (s.pk.coords c.toNat) }
      { opOf (.tld e v h c l) s .tl with vdst := [v.toNat] } [.tileAccessRetire s.pk.id s.serial] := by
  refine completesFrom_of hi rfl ?_
  simp only [ht]
  rfl

/-- TST writes the lanes whose coordinates lie in the shape (R198). -/
theorem tst_starts (hi : Issues (.tst e v h c l) s) (ht : s.tileOf s.tm h.toNat = .ok (k, a)) :
    let u := (((s.pk.coords c.toNat).filter fun q => (k.offset q.2).isSome).foldl
      (fun (u : State) (q : Nat × Nat) => u.tileWrite k a ((k.offset q.2).getD 0) (toBytes (s.pk.vl v.toNat q.1) 4))
      { sourced (.tst e v h c l) s with
        pk := (s.pk.consume (.tst e v h c l)).deferTile 2 h.toNat ((s.pk.coords c.toNat).filter fun q => (k.offset q.2).isNone) }).testGates
    Starts (.tst e v h c l) s u { opOf (.tst e v h c l) s .tl with id := u.serial } [.tileAccessRetire s.pk.id u.serial] := by
  refine completesFrom_of hi rfl ?_
  simp only [ht]
  exact congrArg (fun u : State => Res.done (u.testGates.startOp
      (fun id => { id := id, ctr := .tl, word := .tst e v h c l, fpc := s.pk.pc, mask := s.pk.active })
      fun id => [.tileAccessRetire s.pk.id id]))
    (foldl_tileWrite k a (fun n => toBytes (s.pk.vl v.toNat n) 4) (s.pk.coords c.toNat) _)

/-- TST with every coordinate in the shape (R198). -/
theorem tst_starts_of_inside (hi : Issues (.tst e v h c l) s) (ht : s.tileOf s.tm h.toNat = .ok (k, a))
    (hin : ∀ n, n < 64 → s.pk.active.getLsbD n → (k.offset (s.pk.vl c.toNat n)).isSome) :
    let u := ((lanesOf s.pk.active).foldl
      (fun u n => u.tileWrite k a ((k.offset (s.pk.vl c.toNat n)).getD 0) (toBytes (s.pk.vl v.toNat n) 4))
      (sourced (.tst e v h c l) s)).testGates
    Starts (.tst e v h c l) s u { opOf (.tst e v h c l) s .tl with id := u.serial } [.tileAccessRetire s.pk.id u.serial] := by
  have hs := tst_starts hi ht
  obtain ⟨hbad, hok⟩ := coords_filter_isNone (k := k) (p := s.pk) (c := c.toNat) hin
  rw [hbad, hok, Pack.coords, List.foldl_map] at hs
  exact hs

/-- TST of what names no storage (R198). -/
theorem tst_refused (hi : Issues (.tst e v h c l) s) (ht : s.tileOf s.tm h.toNat = .error r) :
    Starts (.tst e v h c l) s { sourced (.tst e v h c l) s with pk := (s.pk.consume (.tst e v h c l)).deferTile r h.toNat (s.pk.coords c.toNat) }
      (opOf (.tst e v h c l) s .tl) [.tileAccessRetire s.pk.id s.serial] := by
  refine completesFrom_of hi rfl ?_
  simp only [ht]
  rfl

/-- TLDS (R199). -/
theorem tlds_starts {o : Nat} (hi : Issues (.tlds e v h c) s) (ht : s.tileOf s.tm h.toNat = .ok (k, a))
    (ho : k.offset ((s.pk.s c.toNat).toNat % 2 ^ 32) = some o) (hp : a.poisoned o = false) :
    Starts (.tlds e v h c) s s
      { opOf (.tlds e v h c) s .tl with sdst := [v.toNat], got := [(0, ofBytes (s.tileBytes k a o 4))] }
      [.tileAccessRetire s.pk.id s.serial] := by
  refine completesFrom_of hi rfl ?_
  rw [sourced_of_noVector fun _ => ⟨rfl, rfl⟩]
  simp only [ht, ho, hp]
  rfl

/-- TLDS of what names no storage (R199). -/
theorem tlds_refused (hi : Issues (.tlds e v h c) s) (ht : s.tileOf s.tm h.toNat = .error r) :
    Starts (.tlds e v h c) s { s with pk := s.pk.deferTileAll r h.toNat ((s.pk.s c.toNat).toNat % 2 ^ 32) }
      { opOf (.tlds e v h c) s .tl with sdst := [v.toNat] } [.tileAccessRetire s.pk.id s.serial] := by
  refine completesFrom_of hi rfl ?_
  rw [sourced_of_noVector fun _ => ⟨rfl, rfl⟩]
  simp only [ht]
  rfl

/-- TLDS of a coordinate outside the shape (R199). -/
theorem tlds_outside (hi : Issues (.tlds e v h c) s) (ht : s.tileOf s.tm h.toNat = .ok (k, a))
    (ho : k.offset ((s.pk.s c.toNat).toNat % 2 ^ 32) = none) :
    Starts (.tlds e v h c) s { s with pk := s.pk.deferTileAll 2 h.toNat ((s.pk.s c.toNat).toNat % 2 ^ 32) }
      { opOf (.tlds e v h c) s .tl with sdst := [v.toNat] } [.tileAccessRetire s.pk.id s.serial] := by
  refine completesFrom_of hi rfl ?_
  rw [sourced_of_noVector fun _ => ⟨rfl, rfl⟩]
  simp only [ht, ho]
  rfl

/-- TFILL (R200). -/
theorem tfill_starts (hi : Issues (.tfill e v h) s) (ht : s.tileOf s.tm h.toNat = .ok (k, a)) :
    let bytes := ((List.range (k.rows * k.cols)).map fun _ => toBytes (s.pk.s v.toNat).toNat k.eb).flatten
    let u := ((s.tileWrite k a 0 bytes).onAlloc k fun b =>
      { b with poison := b.poison.filter fun n => decide (k.bytes < 32 * n + 32) }).testGates
    Starts (.tfill e v h) s u { opOf (.tfill e v h) s .tl with id := u.serial } [.tileAccessRetire s.pk.id u.serial] := by
  refine completesFrom_of hi rfl ?_
  rw [sourced_of_noVector fun _ => ⟨rfl, rfl⟩]
  simp only [ht]
  rfl

/-- TFILL of what names no storage (R200). -/
theorem tfill_refused (hi : Issues (.tfill e v h) s) (ht : s.tileOf s.tm h.toNat = .error r) :
    Starts (.tfill e v h) s { s with pk := s.pk.deferTileAll r h.toNat 0 } (opOf (.tfill e v h) s .tl)
      [.tileAccessRetire s.pk.id s.serial] := by
  refine completesFrom_of hi rfl ?_
  rw [sourced_of_noVector fun _ => ⟨rfl, rfl⟩]
  simp only [ht]
  rfl

end

/-- Settles O21, word by word. -/
theorem tileAccess : Obligations.TileAccess :=
  ⟨fun _ _ _ _ _ _ _ _ => tld_starts_of_inside, fun _ _ _ _ _ _ _ _ => tst_starts_of_inside, fun _ _ _ _ _ _ _ _ => tlds_starts,
   fun _ _ _ _ _ _ => tfill_starts, fun _ _ _ _ _ _ _ => tld_refused,
   fun _ _ _ _ _ _ _ _ hi ht hp => tld_starts hi ht fun _ _ _ => not_poisoned hp _,
   fun _ _ _ _ _ _ => tlds_refused, fun _ _ _ _ _ _ _ => tlds_outside, fun _ _ _ _ _ _ _ => tst_refused,
   fun _ _ _ _ _ _ _ _ => tst_starts, fun _ _ _ _ _ => tfill_refused⟩

end Sys2Proof.Proofs
end

section
/-! SUPPORT. What the memory system does on behalf of a pack: it keeps memory canonical, and of the packs it changes at most the time
of the latest write that they know of. -/

namespace Sys2Proof.Proofs

open Sys2Proof.Machine Sys2Proof.Safety

/-! ## The relation -/

/-- A pack but for the time of the latest write that it knows of. -/
def plainPack (k : Pack) : Pack := { k with lwct := 0 }

/-- From s to t memory stays canonical, and of the packs only the times of the latest writes that they know of change, upwards. -/
structure Background (s t : State) : Prop where
  mem : MemoryWf s → MemoryWf t
  pk : plainPack t.pk = plainPack s.pk
  lwct : s.pk.lwct ≤ t.pk.lwct
  tm : t.tm = s.tm
  packs : t.packs.map plainPack = s.packs.map plainPack

namespace Background

theorem refl (s : State) : Background s s := ⟨id, rfl, le_refl _, rfl, rfl⟩

theorem trans {s t u : State} (h : Background s t) (k : Background t u) : Background s u :=
  ⟨fun w => k.mem (h.mem w), k.pk.trans h.pk, h.lwct.trans k.lwct, k.tm.trans h.tm, k.packs.trans h.packs⟩

/-- What changes neither packs nor the current team, and keeps memory canonical. -/
theorem of_wf {s t : State} (hm : MemoryWf s → MemoryWf t) (h1 : t.pk = s.pk) (h2 : t.packs = s.packs) (h3 : t.tm = s.tm) :
    Background s t :=
  ⟨hm, by rw [h1], by rw [h1], h3, by rw [h2]⟩

/-- What changes neither memory nor packs nor the current team. -/
theorem of_eq {s t : State} (h0 : t.hbm = s.hbm) (h1 : t.pk = s.pk) (h2 : t.packs = s.packs) (h3 : t.tm = s.tm) : Background s t :=
  of_wf (fun h => by unfold MemoryWf; rw [h0]; exact h) h1 h2 h3

/-- What follows a change of neither memory nor packs nor the current team. -/
theorem after_eq {s t u : State} (k : Background t u) (h0 : t.hbm = s.hbm) (h1 : t.pk = s.pk) (h2 : t.packs = s.packs)
    (h3 : t.tm = s.tm) : Background s u := (of_eq h0 h1 h2 h3).trans k

/-- Steps taken one by one along a list. -/
theorem foldl {α : Type} {f : State → α → State} (hf : ∀ u a, Background u (f u a)) (l : List α) : ∀ s, Background s (l.foldl f s) := by
  induction l with
  | nil => exact fun s => refl s
  | cons a l ih => exact fun s => (hf s a).trans (ih _)

theorem ite {s t u : State} {c : Prop} [Decidable c] (ht : Background s t) (hu : Background s u) : Background s (if c then t else u) := by
  split
  · exact ht
  · exact hu

end Background

/-! ## Time, rows and translation -/

theorem background_waitUntil (s : State) (n : Nat) : Background s (s.waitUntil n) := .of_eq rfl rfl rfl rfl

theorem background_push (s : State) (l : List Instr) : Background s (s.push l) := .of_eq rfl rfl rfl rfl

theorem background_onCtx (s : State) (c : Nat) (f : Ctx → Ctx) : Background s (s.onCtx c f) := .of_eq rfl rfl rfl rfl

theorem background_endBackoff (s : State) (b : Nat) : Background s (s.endBackoff b) := by
  unfold State.endBackoff
  split
  · exact .refl s
  · dsimp only
    split
    · exact .refl s
    · split
      · exact .of_eq rfl rfl rfl rfl
      · exact .of_eq rfl rfl rfl rfl

theorem background_endBackoffs (s : State) : Background s s.endBackoffs := .foldl (fun u _ => background_endBackoff u _) _ s

theorem background_awaitBank (s : State) (b : Nat) : Background s (s.awaitBank b) := by
  refine .foldl (fun u _ => ?_) _ s
  split
  · exact .refl u
  · exact (background_waitUntil u _).trans (background_endBackoff _ _)

theorem background_activate (s : State) (p : Nat) : Background s (s.activate p) := by
  refine (background_awaitBank s (Config.dramRow (p / 128)).1).trans ?_
  unfold State.activate
  dsimp only
  split
  · exact .of_eq rfl rfl rfl rfl
  · split
    · exact .of_eq rfl rfl rfl rfl
    · exact .of_eq rfl rfl rfl rfl

theorem background_walkRows (s : State) (c va : Nat) : Background s (s.walkRows c va) := .foldl background_activate _ s

theorem background_setPteBit (s : State) (p b : Nat) : Background s (s.setPteBit p b) := .of_wf (setPteBit_wf s p b) rfl rfl rfl

theorem background_tlbRoom (s : State) (d : Nat) : Background s (s.tlbRoom d) := by
  unfold State.tlbRoom
  split
  · exact .refl s
  · dsimp only
    split
    · exact .refl s
    · split
      · rename_i x u e; injection e with e1 e2; subst e2; exact .of_eq rfl rfl rfl rfl
      · rename_i u e; injection e with e1 e2; subst e2; exact .of_eq rfl rfl rfl rfl

theorem background_translate (s : State) (c va : Nat) : Background s (s.translate c va).2 := by
  unfold State.translate
  dsimp only
  split
  · split
    · exact .refl s
    · exact (background_setPteBit s _ 11).trans (.of_eq rfl rfl rfl rfl)
  · split
    · exact background_walkRows s c va
    · refine (background_walkRows s c va).trans (.trans ?_ (.trans (background_tlbRoom _ _) (.of_eq rfl rfl rfl rfl)))
      exact .ite (.refl _) (background_setPteBit _ _ _)

/-! ## The dirty log -/

theorem background_logDirty (s : State) (x : Xlate) : Background s (s.logDirty x) := by
  refine .of_wf (logDirty_wf s x) ?_ ?_ ?_ <;>
  · unfold State.logDirty
    dsimp only
    split
    · rfl
    · split <;> rfl

theorem background_setDirty (s : State) (x : Xlate) : Background s (s.setDirty x) := by
  unfold State.setDirty
  split
  · exact .refl s
  · exact (background_setPteBit s x.pte 12).trans (.after_eq (background_logDirty _ x) rfl rfl rfl rfl)

theorem background_dirtyPage (s : State) (c va : Nat) : Background s (s.dirtyPage c va) := by
  have ht := background_translate s c va
  unfold State.dirtyPage
  split <;> rename_i e <;> rw [e] at ht
  · exact ht.trans (background_setDirty _ _)
  · exact ht

theorem background_dirtyIfSame (s : State) (c va p : Nat) : Background s (s.dirtyIfSame c va p) := by
  unfold State.dirtyIfSame
  split
  · exact .refl s
  · exact background_setDirty s _

/-! ## Lines at their home -/

theorem background_findLine (s : State) (c l : Nat) : Background s (s.findLine c l).2 := by
  have ht := background_translate s c (128 * l)
  unfold State.findLine
  split
  · exact .refl s
  · split <;> rename_i e <;> rw [e] at ht
    · exact ht
    · split
      · exact ht
      · dsimp only
        split
        · exact ht.trans (background_activate _ _)
        · exact ht.trans (background_activate _ _)

/-- Letting the writes of a list be performed only lets time pass. -/
theorem background_waits {α : Type} (f : α → Nat) (l : List α) (s : State) : Background s (l.foldl (fun s w => s.waitUntil (f w)) s) :=
  .foldl (fun u _ => background_waitUntil u _) l s

theorem background_writeBack (s : State) (h : HomeLine) : Background s (s.writeBack h) := by
  have hw := background_waits (fun w : PendWrite => w.wct) h.pend s
  unfold State.writeBack
  generalize h.pend.foldl (fun (s : State) w => s.waitUntil w.wct) s = u at hw
  dsimp only
  generalize ((h.settle u.gtc).dirty && _) = b
  have ht : Background s (if b then (u.translate (h.settle u.gtc).ctx (128 * (h.settle u.gtc).line)).2 else u) :=
    hw.trans (.ite (background_translate u _ _) (.refl u))
  generalize (if b then (u.translate (h.settle u.gtc).ctx (128 * (h.settle u.gtc).line)).2 else u) = v at ht
  generalize (if b then v.refreshed (h.settle u.gtc) else h.settle u.gtc) = k
  split
  · refine ht.trans (.after_eq ((background_activate _ k.phys).trans (.of_wf (memWrite_wf _ _ _) rfl rfl rfl)) rfl rfl rfl rfl)
  · exact ht.trans (.of_eq rfl rfl rfl rfl)

theorem background_homeRoom (s : State) (c l : Nat) : Background s (s.homeRoom c l) := by
  unfold State.homeRoom
  split
  · exact .refl s
  · dsimp only
    split
    · exact .refl s
    · split
      · rename_i x u e; injection e with e1 e2; subst e2
        exact .after_eq (background_writeBack _ _) rfl rfl rfl rfl
      · rename_i u e; injection e with e1 e2; subst e2; exact .of_eq rfl rfl rfl rfl

theorem background_putHome (s : State) (h : HomeLine) : Background s (s.putHome h) :=
  (background_homeRoom s h.ctx h.line).trans (.of_eq rfl rfl rfl rfl)

theorem background_homeWrite (s : State) (h : HomeLine) (w : PendWrite) : Background s (s.homeWrite h w).2 := by
  unfold State.homeWrite
  dsimp only
  exact (Background.ite (background_dirtyPage s _ _) (.refl s)).trans ((background_putHome _ _).trans (.of_eq rfl rfl rfl rfl))

theorem background_homeStore (s : State) (h : HomeLine) (bs : List (Nat × Byte)) (lift : Bool) (who : Option PackId) :
    Background s (s.homeStore h bs lift who).2 := background_homeWrite s h _

theorem background_channelStore (s : State) (p : Nat) (bs : List (Nat × Byte)) : Background s (s.channelStore p bs) :=
  .of_wf (channelStore_wf s p bs) rfl rfl rfl

theorem background_channelLine (s : State) (p : Nat) (bs : List (Nat × Byte)) (b : Bool) : Background s (s.channelLine p bs b) :=
  (background_activate s p).trans ((background_channelStore _ p bs).trans (.ite (.of_eq rfl rfl rfl rfl) (.refl _)))

theorem background_channelWrite (s : State) (l : L1Line) (bs : List (Nat × Byte)) : Background s (s.channelWrite l bs).2 := by
  unfold State.channelWrite
  exact (background_waitUntil s _).trans ((background_channelLine _ _ _ _).trans (.of_eq rfl rfl rfl rfl))

/-! ## The L1 -/

theorem background_l1Put (s : State) (l : L1Line) : Background s (s.l1Put l) := .of_eq rfl rfl rfl rfl

theorem background_privWriteBack (s : State) (l : L1Line) : Background s (s.privWriteBack l).2 := by
  have hd : Background s ((s.dirtyIfSame l.ctx (128 * l.line) l.phys).l1Put { l with dirty := false }) :=
    (background_dirtyIfSame s _ _ _).trans (background_l1Put _ _)
  unfold State.privWriteBack
  dsimp only
  split
  · split
    · exact hd.trans (background_homeWrite _ _ _)
    · exact hd.trans (background_channelWrite _ _ _)
  · exact hd.trans (background_channelWrite _ _ _)

theorem plainPack_returnWct (k : Pack) (w : Nat) : plainPack (k.returnWct w) = plainPack k := rfl

/-- A change of the first element that meets a test shows in no image that the change keeps. -/
theorem map_replaceFirst {α β : Type} (q : α → Bool) (f : α → α) (g : α → β) (h : ∀ a, g (f a) = g a) (l : List α) :
    (replaceFirst q f l).map g = l.map g := by
  induction l with
  | nil => rfl
  | cons a l ih =>
    unfold replaceFirst
    split
    · simp only [List.map_cons, h]
    · simp only [List.map_cons, ih]

theorem background_onPack_returnWct (s : State) (p : PackId) (w : Nat) : Background s (s.onPack p fun k => k.returnWct w) := by
  unfold State.onPack
  split
  · exact ⟨id, rfl, Nat.le_max_left _ _, rfl, rfl⟩
  · exact ⟨id, rfl, le_refl _, rfl, map_replaceFirst _ _ _ (fun k => plainPack_returnWct k w) _⟩

theorem background_l1Evict (s : State) (l : L1Line) : Background s (s.l1Evict l) := by
  unfold State.l1Evict
  dsimp only
  split
  · refine (background_privWriteBack s l).trans ?_
    split
    · exact .after_eq (background_onPack_returnWct _ _ _) rfl rfl rfl rfl
    · exact .of_eq rfl rfl rfl rfl
  · exact .of_eq rfl rfl rfl rfl

theorem background_l1Room (s : State) (l : L1Line) : Background s (s.l1Room l) := by
  unfold State.l1Room
  split
  · exact .refl s
  · dsimp only
    split
    · exact .refl s
    · split
      · rename_i x u e; injection e with e1 e2; subst e2
        exact .after_eq (background_l1Evict _ _) rfl rfl rfl rfl
      · rename_i u e; injection e with e1 e2; subst e2; exact .of_eq rfl rfl rfl rfl

theorem background_l1Fill (s : State) (l : L1Line) : Background s (s.l1Fill l) := (background_l1Room s l).trans (background_l1Put _ l)

/-! ## Loads, stores and atomics of one line -/

theorem background_awaitOwn (s : State) (who : Option PackId) (c l : Nat) : Background s (s.awaitOwn who c l) := by
  unfold State.awaitOwn
  split
  · exact .ite (background_waitUntil s _) (.refl s)
  · exact background_waits _ _ s

theorem background_loadLine (s : State) (who : Option PackId) (core c l : Nat) : Background s (s.loadLine who core c l).2 := by
  have ha := background_awaitOwn s who c l
  have hf := background_findLine (s.awaitOwn who c l) c l
  unfold State.loadLine
  dsimp only
  split
  · exact ha
  · split <;> rename_i e <;> rw [e] at hf
    · exact ha.trans hf
    · exact ha.trans hf
    · exact ha.trans hf
    · refine (ha.trans hf).trans ?_
      split
      · exact background_putHome _ _
      · split
        · exact background_putHome _ _
        · split
          · exact (background_waits (fun w : PendWrite => w.wct) _ _).trans (background_putHome _ _)
          · exact (background_waits (fun w : PendWrite => w.wct) _ _).trans ((background_putHome _ _).trans (background_l1Fill _ _))

theorem background_storeLine (s : State) (c l : Nat) (bs : List (Nat × Byte)) (lift : Bool) (who : Option PackId) :
    Background s (s.storeLine c l bs lift who).2 := by
  have hf := background_findLine s c l
  unfold State.storeLine
  split <;> rename_i e <;> rw [e] at hf
  · exact hf
  · exact hf
  · split
    · exact hf
    · exact hf.trans ((background_setDirty _ _).trans ((background_channelStore _ _ _).trans (.of_eq rfl rfl rfl rfl)))
  · split
    · exact hf.trans (background_putHome _ _)
    · exact hf.trans (background_homeStore _ _ _ _ _)

theorem background_atomAt (s : State) (c l fn ty : Nat) (ls : List AtomLane) (who : Option PackId) :
    Background s (s.atomAt c l fn ty ls who).2 := by
  have hf := background_findLine s c l
  unfold State.atomAt
  split <;> rename_i e <;> rw [e] at hf
  · exact hf
  · exact hf
  · split
    · exact hf
    · split
      · exact hf
      · exact hf.trans ((background_setDirty _ _).trans ((background_channelStore _ _ _).trans (.of_eq rfl rfl rfl rfl)))
  · split
    · exact hf.trans (background_putHome _ _)
    · split
      · exact hf.trans (background_putHome _ _)
      · exact hf.trans (background_homeStore _ _ _ _ _)

/-! ## Requests to other devices -/

theorem background_inject (s : State) (p : Packet) : Background s (s.inject p) := by
  unfold State.inject
  exact .ite (.of_eq rfl rfl rfl rfl) (.of_eq rfl rfl rfl rfl)

theorem background_sendRequest (s : State) (core slot : Nat) (p : PackId) (op line : Nat) (x : Xlate) (b : PacketBody) :
    Background s (s.sendRequest core slot p op line x b) := by
  unfold State.sendRequest
  exact .ite (.refl s) (.after_eq (background_inject _ _) rfl rfl rfl rfl)

theorem background_sendLoad (s : State) (t : Team) (p : Pack) (op va : Nat) (x : Xlate) (lc : Nat) :
    Background s (s.sendLoad t p op va x lc) := background_sendRequest _ _ _ _ _ _ _ _

theorem background_prefetch (s : State) (t : Team) (p : Pack) (l1 : Bool) (line : Nat) : Background s (s.prefetch t p l1 line) := by
  have hf := background_findLine s t.ctx line
  unfold State.prefetch
  split <;> rename_i e
  · rw [e] at hf
    refine hf.trans (.ite (.refl _) (.ite (background_loadLine _ _ _ _ _) (background_putHome _ _)))
  · rw [e] at hf
    exact hf.trans (.ite (background_sendLoad _ _ _ _ _ _ _) (.refl _))
  · rw [e] at hf
    exact hf

end Sys2Proof.Proofs
end

section
/-! SUPPORT. Memory words, atomics and ordering (R207-R256): the checks on addresses, what a word captures, what a line of an atomic
computes, and the release conditions. -/

namespace Sys2Proof.Proofs

open Sys2Proof.Machine Sys2Proof.Safety

/-! ## Addresses (R219, R228) -/

theorem laneAddr_eq (p : Pack) (b o : Nat) : laneAddr p b o = fun l => ((p.s b).toNat : Int) + (lane (p.v o) l).toInt := by
  funext l
  unfold laneAddr Pack.vl signed
  rw [BitVec.toInt_eq_toNat_cond, Nat.mod_eq_of_lt (lane (p.v o) l).isLt]

theorem addrCheck_eq (a : Int) (n : Nat) :
    addrCheck a n = if 0 ≤ a ∧ a < 2 ^ 45 then (if (n : Int) ∣ a then none else some (cALIGN, 0)) else some (cPROT, 1) := by
  unfold addrCheck
  have hd : a % (n : Int) ≠ 0 ↔ ¬ (n : Int) ∣ a := not_congr (Int.dvd_iff_emod_eq_zero).symm
  by_cases h : 0 ≤ a ∧ a < 2 ^ 45
  · have h2 : (decide (a < 0) || decide (((2 ^ 45 : Nat) : Int) ≤ a)) = false := by
      simp only [Bool.or_eq_false_iff, decide_eq_false_iff_not]; push_cast; omega
    rw [if_pos h, h2, if_neg Bool.false_ne_true]
    by_cases hk : (n : Int) ∣ a
    · rw [if_pos hk, if_neg (by rw [hd]; exact not_not.2 hk)]
    · rw [if_neg hk, if_pos (hd.2 hk)]
  · have h2 : (decide (a < 0) || decide (((2 ^ 45 : Nat) : Int) ≤ a)) = true := by
      simp only [Bool.or_eq_true, decide_eq_true_eq]; push_cast; omega
    rw [if_neg h, h2, if_pos rfl]

theorem privCheck_eq (t : Team) (p : Pack) (l x n : Nat) :
    privCheck t p l x n =
      if (roleOf t p).plim < x + n then some (cSTACK, 0)
      else if t.parea + (t.id.team * 32 + packIndex t p) * 64 * t.pmax + (64 * (x / 4) + l) * 4 + x % 4 < 2 ^ 45 then
        (if n ∣ x then none else some (cALIGN, 0))
      else some (cPROT, 1) := by
  unfold privCheck privAddr privBase
  split
  · rfl
  · by_cases h : t.parea + (t.id.team * 32 + packIndex t p) * 64 * t.pmax + (64 * (x / 4) + l) * 4 + x % 4 < 2 ^ 45
    · rw [if_pos h, if_neg (not_le.2 h)]
      by_cases hk : n ∣ x
      · rw [if_pos hk, if_neg (not_not.2 (Nat.mod_eq_zero_of_dvd hk))]
      · rw [if_neg hk, if_pos fun hm => hk (Nat.dvd_of_mod_eq_zero hm)]
    · rw [if_neg h, if_pos (not_lt.1 h)]

/-! ## Words of each form -/

/-- A vector word on global addresses, from its meaning. -/
theorem startsMem_of_memWord {i : Instr} {s : State} {c : Counter} {b o : BitVec 6} {vals : Pack → Nat → Nat} {vdst : List Nat}
    {wait : State → Bool} {acq : Bool} (h : Issues i s) (hw : wait s = false) (he : exec i s = memWord i s c b o vals vdst wait acq) :
    StartsMem i s c (lanesOf s.pk.active) (fun l => ((s.pk.s b.toNat).toNat : Int) + (lane (s.pk.v o.toNat) l).toInt)
      (fun l => addrCheck (((s.pk.s b.toNat).toNat : Int) + (lane (s.pk.v o.toNat) l).toInt) (memSize s.pk.ty i))
      (vals s.pk) vdst [] acq := by
  refine startsMem_of h he ?_
  simp only [hw, Bool.false_eq_true, if_false, laneAddr_eq]

/-- A word on offsets in the launch's area, from its meaning. -/
theorem startsMem_of_privWord {i : Instr} {s : State} {c : Counter} {b o : BitVec 6} {vals : Pack → Nat → Nat} {vdst : List Nat}
    (h : Issues i s) (he : exec i s = privWord i s c b o vals vdst) :
    StartsMem i s c (lanesOf s.pk.active) (fun l => (((s.pk.s b.toNat).toNat + (lane (s.pk.v o.toNat) l).toNat : Nat) : Int))
      (fun l => privCheck s.tm s.pk l ((s.pk.s b.toNat).toNat + (lane (s.pk.v o.toNat) l).toNat) (memSize s.pk.ty i))
      (vals s.pk) vdst [] false :=
  startsMem_of h he rfl

/-- A scalar memory word, from its meaning. -/
theorem startsMem_of_scalarMem {i : Instr} {s : State} {c : Counter} {addr : Pack → Int} {val : Pack → Nat} {sdst : List Nat}
    (h : Issues i s) (he : exec i s = scalarMem i s c addr val sdst noWait) :
    StartsMem i s c [0] (fun _ => addr s.pk) (fun _ => addrCheck (addr s.pk) (memSize s.pk.ty i)) (fun _ => val s.pk) [] sdst false :=
  startsMem_of h he rfl

/-- The checks of an atomic: those of an address, and then the area of the launch itself. -/
theorem atomCheck_eq (t : Team) (a : Int) (n : Nat) :
    atomCheck t a n = match addrCheck a n with
      | some f => some f
      | none => if t.parea ≤ a.toNat ∧ a.toNat < t.parea + 2048 * t.pmax * t.total then some (cSPACE, 0) else none := by
  unfold atomCheck inPrivateArea
  cases addrCheck a n with
  | some f => rfl
  | none => simp

/-- An atomic word, from its meaning. -/
theorem startsMem_of_atomWord {i : Instr} {s : State} {c : Counter} {b o : BitVec 6} {vals : Pack → Nat → Nat} {vdst : Nat → List Nat}
    (h : Issues i s) (he : exec i s = atomWord i s c b o vals vdst) :
    StartsMem i s c (lanesOf s.pk.active) (fun l => ((s.pk.s b.toNat).toNat : Int) + (lane (s.pk.v o.toNat) l).toInt)
      (fun l => atomCheck s.tm (((s.pk.s b.toNat).toNat : Int) + (lane (s.pk.v o.toNat) l).toInt) (memSize s.pk.ty i))
      (vals s.pk) (vdst s.pk.ty) [] false := by
  refine startsMem_of h he ?_
  simp only [laneAddr_eq]

/-! ## What a load delivers (R228, R230) -/

theorem signed_eq_toInt (x w : Nat) : signed x w = (BitVec.ofNat w x).toInt := by
  unfold signed
  rw [BitVec.toInt_eq_toNat_cond, BitVec.toNat_ofNat]

theorem wrapNat_signed_eq_signExtend (raw k m : Nat) : wrapNat (signed raw k) m = ((BitVec.ofNat k raw).signExtend m).toNat := by
  rw [signed_eq_toInt, BitVec.signExtend, BitVec.toNat_ofInt]
  rfl

theorem loadSize_cases (w : Nat) (h : w < 6) : loadSize w = [1, 2, 4, 8, 1, 2][w]?.getD 0 := by
  interval_cases w <;> rfl

theorem loadSize_pos (w : Nat) : 0 < loadSize w := by unfold loadSize; split <;> decide

/-! ## Bytes of a line -/

theorem setLineByte_getLsbD (d : Line) (i : Nat) (b : Byte) (j : Nat) (hj : j < 1024) :
    (setLineByte d i b).getLsbD j = if j / 8 = i then b.getLsbD (j % 8) else d.getLsbD j := by
  have h255 : ∀ k, Nat.testBit 255 k = decide (k < 8) := fun k => Nat.testBit_two_pow_sub_one 8 k
  unfold setLineByte
  simp only [BitVec.getLsbD_or, BitVec.getLsbD_and, BitVec.getLsbD_not, BitVec.getLsbD_ofNat, hj, decide_true, Bool.true_and,
    Nat.testBit_mul_two_pow, h255]
  by_cases h : j / 8 = i
  · have h1 : 8 * i ≤ j ∧ j - 8 * i < 8 ∧ j - 8 * i = j % 8 := by omega
    obtain ⟨ha, hb, hc⟩ := h1
    rw [if_pos h, decide_eq_true ha, decide_eq_true hb, hc]
    simp only [Bool.and_self, Bool.not_true, Bool.and_false, Bool.true_and, Bool.false_or]
    exact BitVec.testBit_toNat b
  · rw [if_neg h]
    by_cases ha : 8 * i ≤ j
    · have hb : ¬ j - 8 * i < 8 := by omega
      have hz : b.toNat.testBit (j - 8 * i) = false := Nat.testBit_eq_false_of_lt (lt_of_lt_of_le b.isLt (Nat.pow_le_pow_right (by decide) (by omega)))
      simp [decide_eq_false hb, hz]
    · simp [decide_eq_false ha]

theorem lineByte_getLsbD (d : Line) (i k : Nat) : (lineByte d i).getLsbD k = (decide (k < 8) && d.getLsbD (8 * i + k)) :=
  BitVec.getLsbD_extractLsb' ..

/-- The n bytes of v, to be written from offset o on. -/
def bytesFrom (o v n : Nat) : List (Nat × Byte) := (List.range n).map fun i => (o + i, byteAt v i)

theorem toBytes_zipIdx (o v n : Nat) : ((toBytes v n).zipIdx.map fun e => (o + e.2, e.1)) = bytesFrom o v n := by
  apply List.ext_getElem
  · simp [toBytes, bytesFrom]
  · intro i h1 h2
    simp [toBytes, bytesFrom]

theorem setLineBytes_bytesFrom (d : Line) (o v n j : Nat) (hj : j < 1024) :
    (setLineBytes d (bytesFrom o v n)).getLsbD j = if 8 * o ≤ j ∧ j < 8 * (o + n) then v.testBit (j - 8 * o) else d.getLsbD j := by
  induction n with
  | zero => rw [if_neg (by omega)]; rfl
  | succ n ih =>
    unfold setLineBytes bytesFrom at ih ⊢
    rw [List.range_succ, List.map_append, List.foldl_append]
    simp only [List.map_cons, List.map_nil, List.foldl_cons, List.foldl_nil]
    rw [setLineByte_getLsbD _ _ _ _ hj, ih]
    by_cases h : j / 8 = o + n
    · have h1 : 8 * o ≤ j ∧ j < 8 * (o + (n + 1)) ∧ j % 8 < 8 ∧ 8 * n + j % 8 = j - 8 * o := by omega
      obtain ⟨ha, hb, hc, hd⟩ := h1
      rw [if_pos h, if_pos ⟨ha, hb⟩, byteAt, BitVec.getLsbD_ofNat, Nat.testBit_shiftRight, hd, decide_eq_true hc, Bool.true_and]
    · rw [if_neg h]
      by_cases hc : 8 * o ≤ j ∧ j < 8 * (o + n)
      · rw [if_pos hc, if_pos (by omega)]
      · rw [if_neg hc, if_neg (by omega)]

theorem lineNat_setLineBytes (d : Line) (o v n : Nat) (h : o + n ≤ 128) :
    lineNat (setLineBytes d (bytesFrom o v n)) o n = v % 2 ^ (8 * n) := by
  apply Nat.eq_of_testBit_eq
  intro i
  rw [lineNat, bitsAt, Nat.testBit_mod_two_pow, Nat.testBit_mod_two_pow, Nat.testBit_shiftRight, BitVec.testBit_toNat]
  by_cases hi : i < 8 * n
  · rw [setLineBytes_bytesFrom _ _ _ _ _ (by omega), if_pos (by omega), Nat.add_sub_cancel_left]
  · rw [decide_eq_false hi, Bool.false_and, Bool.false_and]

theorem lineByte_setLineBytes (d : Line) (o v n i : Nat) (hi : i < 128) (h : i < o ∨ o + n ≤ i) :
    lineByte (setLineBytes d (bytesFrom o v n)) i = lineByte d i := by
  apply BitVec.eq_of_getLsbD_eq
  intro k hk
  rw [lineByte_getLsbD, lineByte_getLsbD, setLineBytes_bytesFrom _ _ _ _ _ (by omega), if_neg (by omega)]

/-! ## An atomic at its line (R248) -/

/-- An entry whose key is below all others stands first. -/
theorem sortBy_cons_of_lt {α : Type} (key : α → Nat) (a : α) (l : List α) (h : ∀ b ∈ l, key a < key b) :
    sortBy key (a :: l) = a :: sortBy key l := by
  have hf : ∀ (l acc : List α), (∀ b ∈ l, key a < key b) →
      l.foldl (fun acc b => insertBy key b acc) (a :: acc) = a :: l.foldl (fun acc b => insertBy key b acc) acc := by
    intro l
    induction l with
    | nil => exact fun acc _ => rfl
    | cons b l ih =>
      intro acc hl
      have hb := hl b List.mem_cons_self
      rw [List.foldl_cons, List.foldl_cons, insertBy, if_neg (by omega)]
      exact ih _ fun c hc => hl c (List.mem_cons_of_mem _ hc)
  exact hf l [] h

/-- One lane of an atomic applied to a line, with what the lanes before it received. -/
def atomLane (fn ty : Nat) (acc : Line × List (Nat × Nat)) (q : AtomLane) : Line × List (Nat × Nat) :=
  let old := lineNat acc.1 q.2.1 (atomBytes fn ty)
  (setLineBytes acc.1 (bytesFrom q.2.1 (atomNew fn ty old q.2.2.1 q.2.2.2) (atomBytes fn ty)), acc.2 ++ [(q.1, old)])

theorem atomLine_eq (fn ty : Nat) (ls : List AtomLane) (d : Line) :
    atomLine fn ty ls d = (sortBy (fun q => q.1) ls).foldl (atomLane fn ty) (d, []) := by
  unfold atomLine
  congr 1
  funext acc q
  rw [atomLane]
  simp only [toBytes_zipIdx]

/-- What the lanes before received stands in front. -/
theorem foldl_atomLane (fn ty : Nat) (ls : List AtomLane) : ∀ (d : Line) (rs : List (Nat × Nat)),
    ls.foldl (atomLane fn ty) (d, rs) =
      ((ls.foldl (atomLane fn ty) (d, [])).1, rs ++ (ls.foldl (atomLane fn ty) (d, [])).2) := by
  induction ls with
  | nil => exact fun d rs => by rw [List.foldl_nil, List.foldl_nil, List.append_nil]
  | cons q ls ih =>
    intro d rs
    rw [List.foldl_cons, List.foldl_cons, atomLane, atomLane, ih, ih _ ([] ++ _)]
    simp

theorem atomLine_cons (fn ty : Nat) (q : AtomLane) (qs : List AtomLane) (d : Line) (h : ∀ r, r ∈ qs → q.1 < r.1) :
    let old := lineNat d q.2.1 (atomBytes fn ty)
    let d' := setLineBytes d (bytesFrom q.2.1 (atomNew fn ty old q.2.2.1 q.2.2.2) (atomBytes fn ty))
    atomLine fn ty (q :: qs) d = ((atomLine fn ty qs d').1, (q.1, old) :: (atomLine fn ty qs d').2) := by
  intro old d'
  rw [atomLine_eq, atomLine_eq, sortBy_cons_of_lt _ _ _ h, List.foldl_cons, atomLane, foldl_atomLane]
  rfl

/-! ## The table of atomics (R251, R252) -/

theorem slt_eq_signed (w a b : Nat) : (BitVec.ofNat w a).slt (BitVec.ofNat w b) = decide (signed a w < signed b w) := by
  rw [BitVec.slt, signed_eq_toInt, signed_eq_toInt]

/-- A result of a sign and a magnitude fits the format. -/
theorem signed_lt (f : Fmt) (b : Bool) (m : Nat) (h : m < 2 ^ f.magBits) : f.signed b m < 2 ^ (f.magBits + 1) := by
  unfold Fmt.signed
  rw [Nat.pow_succ]
  split <;> omega

/-- The magnitudes that overflow gives and the largest finite one fit the format, and so do its quiet NaNs. -/
def FitsFmt (f : Fmt) : Prop := f.maxF < 2 ^ f.magBits ∧ f.top < 2 ^ f.magBits ∧ f.cnan < 2 ^ f.magBits ∧ f.mant ≤ f.magBits

theorem ite_fst_lt {c : Prop} [Decidable c] {x y : Flagged} {n : Nat} (hx : x.1 < n) (hy : ¬ c → y.1 < n) :
    (if c then x else y).1 < n := by
  split
  · exact hx
  · exact hy ‹_›

theorem roundTo_lt (f : Fmt) (hf : FitsFmt f) (rm : Nat) (fl : Bool) (x : Machine.Num) : (roundTo f rm fl x).1 < 2 ^ (f.magBits + 1) := by
  obtain ⟨hmax, htop, _, _⟩ := hf
  have ho : ∀ b, overflowMag f rm b < 2 ^ f.magBits := by
    intro b
    unfold overflowMag
    repeat' split
    all_goals assumption
  unfold roundTo
  split
  · exact signed_lt f _ _ (Nat.two_pow_pos _)
  · unfold roundNum
    dsimp only
    exact ite_fst_lt (signed_lt f _ _ (Nat.two_pow_pos _)) fun _ =>
      ite_fst_lt (signed_lt f _ _ (ho _)) fun h => signed_lt f _ _ (lt_of_le_of_lt (not_lt.1 h) hmax)

theorem flushIn_lt (f : Fmt) (fl : Bool) (c : Nat) (h : c < 2 ^ (f.magBits + 1)) : f.flushIn fl c < 2 ^ (f.magBits + 1) := by
  unfold Fmt.flushIn
  split
  · exact signed_lt f _ _ (Nat.two_pow_pos _)
  · exact h

theorem quiet_lt (f : Fmt) (hf : FitsFmt f) (c : Nat) (h : c < 2 ^ (f.magBits + 1)) : f.quiet c < 2 ^ (f.magBits + 1) :=
  Nat.or_lt_two_pow h (Nat.pow_lt_pow_right (by decide) (by have := hf.2.2.2; omega))

theorem fpAdd_lt (f : Fmt) (hf : FitsFmt f) (rm : Nat) (fl sub : Bool) (a b : Nat) (ha : a < 2 ^ (f.magBits + 1))
    (hb : b < 2 ^ (f.magBits + 1)) : (fpAdd f rm fl sub a b).1 < 2 ^ (f.magBits + 1) := by
  have hpos := Nat.pow_succ (n := 2) (m := f.magBits)
  unfold fpAdd withNaN
  split
  · rename_i c hc
    have hm := List.mem_of_find?_eq_some hc
    have : c < 2 ^ (f.magBits + 1) := by
      rcases List.mem_cons.1 hm with h | h
      · rw [h]; exact ha
      · rw [List.mem_singleton.1 h]; exact hb
    exact quiet_lt f hf c this
  · dsimp only
    split
    · split
      · exact lt_of_lt_of_le hf.2.2.1 (Nat.pow_le_pow_right (by decide) (Nat.le_succ _))
      · exact flushIn_lt f fl a ha
    · split
      · exact signed_lt f _ _ hf.2.1
      · exact roundTo_lt f hf _ _ _

theorem fpMinMax_lt (f : Fmt) (hf : FitsFmt f) (fl big : Bool) (a b : Nat) (ha : a < 2 ^ (f.magBits + 1))
    (hb : b < 2 ^ (f.magBits + 1)) : (fpMinMax f fl big a b).1 < 2 ^ (f.magBits + 1) := by
  have hx := flushIn_lt f fl a ha
  have hy := flushIn_lt f fl b hb
  unfold fpMinMax
  dsimp only
  split
  · dsimp only
    split
    · exact lt_of_lt_of_le hf.2.2.1 (Nat.pow_le_pow_right (by decide) (Nat.le_succ _))
    · exact hy
  · split
    · exact hx
    · dsimp only
      split
      · exact hy
      · exact hx

theorem atomFmt_cases (ty : Nat) :
    (ty = 9 ∧ atomFmt ty = fp16 ∧ atomCount ty = 2) ∨ (ty = 10 ∧ atomFmt ty = bf16 ∧ atomCount ty = 2) ∨
      (ty ≠ 9 ∧ ty ≠ 10 ∧ atomFmt ty = fp32 ∧ atomCount ty = 1) := by
  by_cases h9 : ty = 9
  · subst h9; exact .inl ⟨rfl, rfl, rfl⟩
  · by_cases h10 : ty = 10
    · subst h10; exact .inr (.inl ⟨rfl, rfl, rfl⟩)
    · refine .inr (.inr ⟨h9, h10, ?_, ?_⟩)
      · rw [atomFmt, if_neg h9, if_neg h10]
      · simp [atomCount, h9, h10]

theorem fitsFmt_atomFmt (ty : Nat) : FitsFmt (atomFmt ty) ∧ (atomFmt ty).magBits + 1 = 32 / atomCount ty := by
  rcases atomFmt_cases ty with ⟨_, h, k⟩ | ⟨_, h, k⟩ | ⟨_, _, h, k⟩ <;> rw [h, k] <;> exact ⟨⟨by decide, by decide, by decide, by decide⟩, rfl⟩

theorem atomFloat_lt (fn ty a b : Nat) (ha : a < 2 ^ (32 / atomCount ty)) (hb : b < 2 ^ (32 / atomCount ty)) :
    atomFloat fn ty a b < 2 ^ (32 / atomCount ty) := by
  obtain ⟨hf, hw⟩ := fitsFmt_atomFmt ty
  rw [← hw] at ha hb ⊢
  unfold atomFloat
  dsimp only
  split
  · exact fpAdd_lt _ hf _ _ _ _ _ ha hb
  · exact fpMinMax_lt _ hf _ _ _ _ ha hb

/-- Element j of the joined elements, each of which fits. -/
theorem joinElems_div (f : Nat → Flagged) (w : Nat) (hf : ∀ i, (f i).1 < 2 ^ w) : ∀ n i j, j < n →
    (joinElems f w i n).1 / 2 ^ (w * j) % 2 ^ w = (f (i + j)).1 := by
  intro n
  induction n with
  | zero => exact fun i j h => absurd h (Nat.not_lt_zero j)
  | succ n ih =>
    intro i j h
    rw [joinElems]
    dsimp only
    cases j with
    | zero => rw [Nat.mul_zero, Nat.pow_zero, Nat.div_one, Nat.add_mul_mod_self_left, Nat.add_zero, Nat.mod_eq_of_lt (hf i)]
    | succ j =>
      rw [Nat.mul_succ, Nat.add_comm (w * j), Nat.pow_add, ← Nat.div_div_eq_div_mul, Nat.add_mul_div_left _ _ (Nat.two_pow_pos w),
        Nat.div_eq_of_lt (hf i), Nat.zero_add, ih _ _ (by omega), Nat.add_assoc, Nat.add_comm 1 j]

theorem atomNew_integer (ty old x n : Nat) :
    let w := if ty = 6 ∨ ty = 7 then 64 else 32
    let less := fun a b => if ty = 0 ∨ ty = 6 then (BitVec.ofNat w a).slt (BitVec.ofNat w b) else decide (a < b)
    let f := fun fn => atomNew fn ty old x n
    f 0 = (old + x) % 2 ^ w ∧ f 1 = old &&& x ∧ f 2 = old ||| x ∧ f 3 = old ^^^ x ∧ f 4 = (if less x old then x else old) ∧
    f 5 = (if less old x then x else old) ∧ f 6 = x ∧ f 7 = (if x ≤ old then 0 else (old + 1) % 2 ^ w) ∧
    (∀ fn, fn < 8 → 8 * atomBytes fn ty = w) := by
  intro w less f
  have hb : ∀ fn, fn < 8 → 8 * atomBytes fn ty = w := by
    intro fn h
    rw [atomBytes, if_neg (by omega), if_neg (by omega)]
    by_cases hp : ty = 6 ∨ ty = 7
    · rw [if_pos (by rcases hp with h | h <;> rw [h] <;> rfl)]
      exact (if_pos hp).symm
    · rw [if_neg (by simpa [pairTy] using hp)]
      exact (if_neg hp).symm
  have hl : ∀ fn, fn < 8 → ∀ a b, (if (ty == 0 || ty == 6) = true then
      decide (signed a (8 * atomBytes fn ty) < signed b (8 * atomBytes fn ty)) else decide (a < b)) = less a b := by
    intro fn h a b
    rw [hb fn h]
    by_cases hs : ty = 0 ∨ ty = 6
    · exact (if_pos (by simpa using hs)).trans ((slt_eq_signed w a b).symm.trans (if_pos hs).symm)
    · exact (if_neg (by simpa using hs)).trans (if_neg hs).symm
  refine ⟨?_, rfl, rfl, rfl, ?_, ?_, rfl, ?_, hb⟩
  · exact congrArg (fun k => (old + x) % 2 ^ k) (hb 0 (by decide))
  · exact congrArg (fun c : Bool => if c then x else old) (hl 4 (by decide) x old)
  · exact congrArg (fun c : Bool => if c then x else old) (hl 5 (by decide) old x)
  · exact congrArg (fun k => if x ≤ old then 0 else (old + 1) % 2 ^ k) (hb 7 (by decide))

theorem atomNew_float (ty old x n fn : Nat) (h1 : 8 ≤ fn) (h2 : fn ≤ 10) (j : Nat) (hj : j < atomCount ty) :
    atomNew fn ty old x n / 2 ^ (32 / atomCount ty * j) % 2 ^ (32 / atomCount ty) =
      atomFloat fn ty (bitsAt old (32 / atomCount ty * j) (32 / atomCount ty)) (bitsAt x (32 / atomCount ty * j) (32 / atomCount ty)) := by
  have hl : ∀ i, atomFloat fn ty (bitsAt old (32 / atomCount ty * i) (32 / atomCount ty))
      (bitsAt x (32 / atomCount ty * i) (32 / atomCount ty)) < 2 ^ (32 / atomCount ty) := fun i =>
    atomFloat_lt fn ty _ _ (Nat.mod_lt _ (Nat.two_pow_pos _)) (Nat.mod_lt _ (Nat.two_pow_pos _))
  have hn : atomNew fn ty old x n = (joinElems (fun i => (atomFloat fn ty (bitsAt old (32 / atomCount ty * i) (32 / atomCount ty))
      (bitsAt x (32 / atomCount ty * i) (32 / atomCount ty)), 0)) (32 / atomCount ty) 0 (atomCount ty)).1 := by
    obtain rfl | rfl | rfl : fn = 8 ∨ fn = 9 ∨ fn = 10 := by omega
    · rfl
    · rfl
    · rfl
  rw [hn, joinElems_div _ _ hl _ _ _ hj, Nat.zero_add]

theorem atomFloat_eq (fn ty a b : Nat) :
    atomFloat fn ty a b = (if fn = 8 then fpAdd (atomFmt ty) rmRNE (decide (ty = 9 ∨ ty = 10)) false a b
      else fpMinMax (atomFmt ty) (decide (ty = 9 ∨ ty = 10)) (fn == 10) a b).1 := by
  have hc : (atomCount ty == 2) = decide (ty = 9 ∨ ty = 10) := by
    rcases atomFmt_cases ty with ⟨h, _, k⟩ | ⟨h, _, k⟩ | ⟨h, h', _, k⟩ <;> rw [k] <;> simp [*]
  rw [atomFloat]
  simp only [hc]
  split <;> rfl

/-- ATOMF, element by element. -/
theorem atomNew_floatElems (ty old x n fn : Nat) (h1 : 8 ≤ fn) (h2 : fn ≤ 10) :
    let fmt := if ty = 9 then fp16 else if ty = 10 then bf16 else fp32
    let flush := ty = 9 ∨ ty = 10
    let ew := if flush then 16 else 32
    atomBytes fn ty = 4 ∧ ∀ j, j < 32 / ew →
      let a := old / 2 ^ (ew * j) % 2 ^ ew
      let b := x / 2 ^ (ew * j) % 2 ^ ew
      atomNew fn ty old x n / 2 ^ (ew * j) % 2 ^ ew =
        (if fn = 8 then fpAdd fmt rmRNE (decide flush) false a b else fpMinMax fmt (decide flush) (fn == 10) a b).1 := by
  intro fmt flush ew
  have hw : 32 / atomCount ty = ew ∧ 32 / ew = atomCount ty := by
    rcases atomFmt_cases ty with ⟨h, _, k⟩ | ⟨h, _, k⟩ | ⟨h, h', _, k⟩ <;> rw [k] <;> simp [ew, flush, *]
  refine ⟨by rw [atomBytes, if_neg (by omega), if_pos h1], fun j hj => ?_⟩
  have h := atomNew_float ty old x n fn h1 h2 j (hw.2 ▸ hj)
  rw [hw.1, atomFloat_eq, bitsAt_eq, bitsAt_eq] at h
  exact h

theorem atomNew_swap (ty old x n : Nat) : atomNew 16 ty old x n = (if old = x then n else old) ∧ atomBytes 16 ty = 4 ∧
    atomNew 17 ty old x n = (if old = x then n else old) ∧ atomBytes 17 ty = 8 := ⟨rfl, rfl, rfl, rfl⟩

theorem atomAt_home (s : State) (ctx line fn ty : Nat) (lanes : List AtomLane) (who : Option PackId) (h : HomeLine) (u : State)
    (hf : s.findLine ctx line = (.home h, u)) (hw : h.perm.w = true) (hp : h.poison = false) :
    s.atomAt ctx line fn ty lanes who =
      (.ok ((atomLine fn ty lanes h.latest).2, (u.homeStore h (atomWritten fn ty lanes (atomLine fn ty lanes h.latest).1) false who).1),
        (u.homeStore h (atomWritten fn ty lanes (atomLine fn ty lanes h.latest).1) false who).2) := by
  rw [State.atomAt, hf]
  simp only [hw, hp, Bool.not_true, Bool.false_eq_true, if_false]

/-! ## The words of memory -/

/-- PFLUSH starts the write-back of the dirty lines that are the pack's own, which leave its core's L1 as global lines. -/
theorem pflush_starts (e : Bool) (s : State) (h : Issues (.pflush e) s) :
    let ls := s.privDirty s.pk.id
    let o : Op := { opOf (.pflush e) s .st with ty := s.pk.ty, addrs := ls.map fun m => (m.line, 128 * m.line) }
    Starts (.pflush e) s { s with l1 := s.l1.filter fun k =>
        !(k.core == s.tm.core && k.ctx == s.tm.ctx && k.owner == none && ls.any fun m => m.line == k.line) } o
      (opEvents s.tm s.pk o) := by
  intro ls o
  refine completesFrom_of h rfl ?_
  have ha : ∀ k : L1Line, ((ls.map fun m => (m.line, 128 * m.line)).any fun q => q.2 / 128 == k.line) = ls.any fun m => m.line == k.line := by
    intro k
    rw [List.any_map]
    congr 1
    funext m
    exact congrArg (· == k.line) (Nat.mul_div_cancel_left m.line (by decide))
  have hs := startMem_eq s s (.pflush e) .st (ls.map fun l => (l.line, 128 * l.line)) [] [] [] [] false rfl
  simp only [ha] at hs
  rw [sourced_of_noVector fun _ => ⟨rfl, rfl⟩]
  exact congrArg Res.done hs

/-- PREF runs as background alone. -/
theorem pref_completes (e : Bool) (q : BitVec 1) (b o : BitVec 6) (l : Bool) (s : State) (h : Issues (.pref e q b o l) s) :
    ∃ u, CompletesFrom (.pref e q b o l) s u ∧ Background (sourced (.pref e q b o l) s) u :=
  ⟨_, completesFrom_of h rfl rfl, .foldl (fun u _ => background_prefetch u _ _ _ _) _ _⟩

/-- Settles O23, by cases on each bound in the order of the checks. -/
theorem addressChecks : Obligations.AddressChecks := by
  unfold Obligations.AddressChecks
  exact ⟨fun a n _ => addrCheck_eq a n, fun t p l x n _ => privCheck_eq t p l x n⟩

/-- A load delivers the bytes read, with the sign of the two signed widths. -/
theorem loadValue_eq (w : BitVec 3) (raw m : Nat) :
    (if 4 ≤ w.toNat then wrapNat (signed raw (8 * loadSize w.toNat)) m else raw) =
      if 4 ≤ w.toNat then ((BitVec.ofNat (8 * loadSize w.toNat) raw).signExtend m).toNat else raw := by
  rw [wrapNat_signed_eq_signExtend]

/-- Settles O22, through the three forms of memory word; PREF runs as background of its pack. -/
theorem memoryWords : Obligations.MemoryWords := by
  unfold Obligations.MemoryWords
  intro lanes addr off
  refine ⟨?_, ?_, ?_, ?_, ?_, ?_, ?_, ?_, ?_⟩
  · exact fun e v b o l w s h => startsMem_of_memWord (vals := fun _ _ => 0) h rfl rfl
  · exact fun e v b o l w s h => startsMem_of_memWord (vals := fun p l => p.laneVal (w.toNat == 3) v.toNat l) h rfl rfl
  · exact fun e v b o l w s h => startsMem_of_privWord (vals := fun _ _ => 0) h rfl
  · exact fun e v b o l w s h => startsMem_of_privWord (vals := fun p l => p.laneVal (w.toNat == 3) v.toNat l) h rfl
  · exact fun e v b n w s h => startsMem_of_scalarMem
      (addr := fun p => (p.s b.toNat).toNat + n.toNat * loadSize w.toNat) (val := fun _ => 0) h rfl
  · exact fun e v b n w s h => startsMem_of_scalarMem
      (addr := fun p => (p.s b.toNat).toNat + n.toNat * 2 ^ w.toNat) (val := fun p => (p.s v.toNat).toNat) h rfl
  · exact fun e s h => pflush_starts e s h
  · exact fun e v b o l w raw hw hr =>
      ⟨loadSize_cases _ hw, loadValue_eq w raw 32, loadValue_eq w raw 32, fun n => loadValue_eq w raw 64⟩
  · intro e q b o l s h
    obtain ⟨u, hc, hpk, hl, ht, hp⟩ : ∃ u, CompletesFrom (.pref e q b o l) s u ∧ _ ∧ _ ∧ _ ∧ _ :=
      (pref_completes e q b o l s h).imp fun u hu => ⟨hu.1, hu.2.pk, hu.2.lwct, hu.2.tm, hu.2.packs⟩
    have hk : (s.pk.consume (.pref e q b o l)).lwct = s.pk.lwct := by
      obtain ⟨sc, sf, ss, cv, cl, hcons, _⟩ := consume_spec s.pk (.pref e q b o l)
      rw [hcons]
    exact ⟨u, hc, hpk, le_of_eq_of_le hk.symm hl, ht, hp⟩

/-- Settles O24, through the form of an atomic word, the bytes of a line, and the table of functions. -/
theorem atomicWords : Obligations.AtomicWords := by
  unfold Obligations.AtomicWords
  intro lanes addr check size
  have hw : ∀ {i : Instr} {s : State} {c : Counter} {b o : BitVec 6} {vals : Pack → Nat → Nat} {vdst : Nat → List Nat},
      Issues i s → exec i s = atomWord i s c b o vals vdst →
      StartsMem i s c (lanes s) (addr s b o) (check s b o (memSize s.pk.ty i)) (vals s.pk) (vdst s.pk.ty) [] false := by
    intro i s c b o vals vdst h he
    have := startsMem_of_atomWord h he
    simp only [atomCheck_eq] at this
    exact this
  refine ⟨?_, ?_, ?_, ?_, ?_, ?_, ?_, ?_, ?_, ?_⟩
  · exact fun ty old x n _ _ => atomNew_integer ty old x n
  · exact fun ty old x n fn h1 h2 => atomNew_floatElems ty old x n fn h1 h2
  · exact atomNew_swap
  · exact fun fn ty q qs d h hn => ⟨_, lineNat_setLineBytes _ _ _ _ hn, fun i hi ho => lineByte_setLineBytes _ _ _ _ _ hi ho,
      atomLine_cons fn ty q qs d h⟩
  · exact fun s ctx line fn ty lanes who h u hf hw hp => atomAt_home s ctx line fn ty lanes who h u hf hw hp
  · exact fun e v b o l f s h => hw (vals := fun p k => p.laneVal (pairTy p.ty) v.toNat k) (vdst := fun ty => vdstOf (pairTy ty) v.toNat) h rfl
  · exact fun e v b o l f s h => hw (vals := fun p k => p.vl v.toNat k) (vdst := fun _ => [v.toNat]) h rfl
  · exact fun e v b o l f s h => hw (vals := fun p k => p.laneVal (pairTy p.ty) v.toNat k) (vdst := fun _ => []) h rfl
  · exact fun e v b o l f s h => hw (vals := fun p k => p.pair (2 * v.toNat) k) (vdst := fun _ => [2 * v.toNat]) h rfl
  · exact fun e v b o l f s h => hw (vals := fun p k => p.pair (4 * v.toNat) k + 2 ^ 64 * p.pair (4 * v.toNat + 2) k)
      (vdst := fun _ => [4 * v.toNat, 4 * v.toNat + 1]) h rfl

/-! ## Release conditions (R243) -/

/-- The release conditions of a scope hold. -/
def Released (c : Nat) (s : State) : Prop :=
  s.pk.counter .ld = 0 ∧ s.pk.counter .st = 0 ∧ s.pk.replay = [] ∧
    (c ≠ 0 → s.pk.counter .tl = 0 ∧ s.pk.counter .dc = 0 ∧ s.pk.lwct + (if c = 4 then s.eps else 0) ≤ s.gtc)

theorem releaseWaits_eq_false (c : Nat) (s : State) : releaseWaits c s = false ↔ Released c s := by
  unfold releaseWaits Released
  simp only [Bool.or_eq_false_iff, Bool.and_eq_false_iff, bne_eq_false_iff_eq, Bool.not_eq_false', List.isEmpty_iff,
    decide_eq_false_iff_not, not_lt, and_assoc]
  constructor
  · rintro ⟨h1, h2, h3, h4⟩
    exact ⟨h1, h2, h3, fun hc => h4.resolve_left hc⟩
  · rintro ⟨h1, h2, h3, h4⟩
    by_cases hc : c = 0
    · exact ⟨h1, h2, h3, .inl hc⟩
    · exact ⟨h1, h2, h3, .inr (h4 hc)⟩

theorem releaseWaits_of_released {c : Nat} {s : State} (h : Released c s) : releaseWaits c s = false := (releaseWaits_eq_false c s).2 h

theorem releaseWaits_of_not_released {c : Nat} {s : State} (h : ¬ Released c s) : releaseWaits c s = true := by
  rw [← Bool.not_eq_false, releaseWaits_eq_false]
  exact h

/-- A word whose release conditions do not hold stalls. -/
theorem exec_stall {i : Instr} {s : State} {body : State → State → Res} (h : Issues i s) (he : exec i s = .next (issueWord i s body))
    (hb : body s (sourced i s) = .stall) : exec i s = .next s.stall := by
  rw [he, issueWord_stall h hb]

/-- The scope of three bits, as a number. -/
theorem released_iff (c : BitVec 3) (s : State) :
    Released c.toNat s ↔ (s.pk.counter .ld = 0 ∧ s.pk.counter .st = 0 ∧ s.pk.replay = [] ∧
      (c ≠ 0 → s.pk.counter .tl = 0 ∧ s.pk.counter .dc = 0 ∧ s.pk.lwct + (if c = 4 then s.eps else 0) ≤ s.gtc)) := by
  have h0 : c.toNat = 0 ↔ c = 0 := BitVec.toNat_inj (y := 0#3)
  have h4 : c.toNat = 4 ↔ c = 4 := BitVec.toNat_inj (y := 4#3)
  unfold Released
  simp only [ne_eq, h0, h4]

/-- Settles O25: STRL and FENCE stall exactly while a release condition fails. -/
theorem orderingWords : Obligations.OrderingWords := by
  unfold Obligations.OrderingWords
  intro addr size released
  have hs : ∀ w : BitVec 1, (if w.toNat = 1 then 8 else 4) = size w ∧ (w.toNat == 1) = (w == 1) := by
    intro w
    obtain rfl | rfl : w = 0 ∨ w = 1 := by revert w; decide
    · exact ⟨rfl, rfl⟩
    · exact ⟨rfl, rfl⟩
  have hr : ∀ (s : State) c, released s c ↔ Released c.toNat s := fun s c => (released_iff c s).symm
  refine ⟨?_, ?_, ?_⟩
  · intro e v b o l w c s h
    have := startsMem_of_memWord (vals := fun _ _ => 0) (vdst := vdstOf (w.toNat == 1) v.toNat) h rfl (acq := true) rfl
    rw [show memSize s.pk.ty (.ldaq e v b o l w c) = size w from (hs w).1, (hs w).2] at this
    exact this
  · intro e v b o l w c s h
    simp only [hr]
    refine ⟨fun hc => ?_, fun hc => exec_stall h rfl (if_pos (releaseWaits_of_not_released hc))⟩
    have := startsMem_of_memWord (vals := fun p k => p.laneVal (w.toNat == 1) v.toNat k) h (releaseWaits_of_released hc) rfl
    rw [show memSize s.pk.ty (.strl e v b o l w c) = size w from (hs w).1, (hs w).2] at this
    exact this
  · intro e c s h
    simp only [hr]
    refine ⟨fun hc => completesFrom_of h rfl ?_, fun hc => exec_stall h rfl (if_pos (releaseWaits_of_not_released hc))⟩
    rw [sourced_of_noVector fun _ => ⟨rfl, rfl⟩]
    exact if_neg (by rw [releaseWaits_of_released hc]; exact Bool.false_ne_true)

end Sys2Proof.Proofs
end

section
/-! SUPPORT. The lift queue's words and the gates (R291, R304-R312). -/

namespace Sys2Proof.Proofs

open Sys2Proof.Machine Sys2Proof.Safety

/-! ## LIFT (R304) -/

/-- A word that stalls with something kept of what it read. -/
theorem exec_wait {i : Instr} {s u : State} {body : State → State → Res} (h : Issues i s) (he : exec i s = .next (issueWord i s body))
    (hb : body s (sourced i s) = .wait u) : exec i s = .next u := by
  rw [he]
  simp only [issueWord, h.1, h.2]
  exact congrArg Host.Outcome.next (by rw [show body s { s with pk := s.pk.consume i } = .wait u from hb]; rfl)

/-- The block blk is queued on its channel, and its ticket is in s[d]. -/
def liftQueued (s : State) (d : BitVec 6) (blk : BitVec 512) : State :=
  let ch := lcChan blk.toNat
  let q := s.tm.queue ch
  let u := ({ s with pk := { s.pk with lifting := none }.setS d.toNat (dw (ch * 2 ^ 32 + q.next)) } : State).onQueue s.tm.id ch fun q =>
    { q with next := if q.next = 2 ^ 32 - 1 then 1 else q.next + 1, cmds := q.cmds ++ [⟨q.next, blk⟩] }
  { u with agenda := u.agenda ++ if q.cmds = [] then [.liftCommandStart s.tm.id ch] else [] }

/-- A full queue keeps the block, which stalls. -/
theorem submit_full (s : State) (d : BitVec 6) (blk : BitVec 512) (h : 16 ≤ (s.tm.queue (lcChan blk.toNat)).cmds.length) :
    s.submit s d blk = .wait { s with pk := { s.pk with lifting := some blk } } := if_pos h

/-- A queue with room takes it. -/
theorem submit_room (s : State) (d : BitVec 6) (blk : BitVec 512) (h : (s.tm.queue (lcChan blk.toNat)).cmds.length < 16) :
    s.submit s d blk = .done (liftQueued s d blk) := by
  refine (if_neg (not_le.2 h)).trans (congrArg Res.done ?_)
  unfold liftQueued State.push
  dsimp only
  cases (s.tm.queue (lcChan blk.toNat)).cmds with
  | nil => rfl
  | cons c cs => simp

/-- LIFT of block blk, by the room of its queue. -/
theorem lift_submits {e : Bool} {d a : BitVec 6} {s : State} (h : Issues (.lift e d a) s) (blk : BitVec 512)
    {body : State → State → Res} (he : exec (.lift e d a) s = .next (issueWord (.lift e d a) s body))
    (hb : body s s = s.submit s d blk) :
    (16 ≤ (s.tm.queue (lcChan blk.toNat)).cmds.length →
      exec (.lift e d a) s = .next { s with pk := { s.pk with lifting := some blk } }) ∧
    ((s.tm.queue (lcChan blk.toNat)).cmds.length < 16 → CompletesFrom (.lift e d a) s (liftQueued s d blk)) := by
  have hs : body s (sourced (.lift e d a) s) = s.submit s d blk := by rw [sourced_of_noVector fun _ => ⟨rfl, rfl⟩]; exact hb
  exact ⟨fun hf => exec_wait h he (hs.trans (submit_full s d blk hf)),
    fun hr => completesFrom_of h he (hs.trans (submit_room s d blk hr))⟩

/-- What LIFT means while no block is kept. -/
def liftBody (d : BitVec 6) (x : Nat) (u t : State) : Res :=
  let h := x / 2 ^ 32 % 2 ^ 6
  let o := x % 2 ^ 32
  match u.tm.handle h with
  | none => .done { t with pk := t.pk.deferTileAll 1 h o }
  | some hd =>
    if o % 64 ≠ 0 ∨ hd.bytes < o + 64 then .done { t with pk := t.pk.deferTileAll 2 h o }
    else match u.storage hd with
      | none => .done { t with pk := t.pk.deferTileAll 3 h o }
      | some al =>
        if al.poisonedIn o 64 then .done { t with pk := t.pk.deferTileEccAll h }
        else
          let blk := BitVec.ofNat 512 (ofBytes (u.tileBytes hd al o 64))
          if (u.tm.queue (lcChan blk.toNat)).halted then .done { t with pk := t.pk.setS d.toNat (dw (2 ^ 63 + 1)) }
          else u.submit t d blk

theorem exec_lift (e : Bool) (d a : BitVec 6) (s : State) : exec (.lift e d a) s = .next (issueWord (.lift e d a) s fun u t =>
    match u.pk.lifting with
    | some blk => u.submit t d blk
    | none => liftBody d (u.pk.s a.toNat).toNat u t) := by
  have hx : ∀ x, bitsAt x 32 6 = x / 2 ^ 32 % 2 ^ 6 ∧ bitsAt x 0 32 = x % 2 ^ 32 := fun x => by
    constructor
    · exact bitsAt_eq x 32 6
    · rw [bitsAt_eq, Nat.pow_zero, Nat.div_one]
  show Host.Outcome.next (issueWord _ s _) = _
  congr 2
  funext u t
  simp only [(hx _).1, (hx _).2, liftBody, Bool.or_eq_true, decide_eq_true_eq] <;> rfl

/-! ## LQRY and LCAN (R305, R306) -/

theorem lqryValue_eq (q : LiftQueue) (k : Nat) (hk : k < 4) :
    [dw (q.halted.toNat * 2 ^ 63 + q.parked.toNat * 2 ^ 62 + q.err.code % 256 * 2 ^ 48 + q.err.rsn % 256 * 2 ^ 40 +
      q.cmds.length % 256 * 2 ^ 32 + q.done), dw q.err.addr, q.err.coord, dw (q.errSeq * 2 ^ 32 + q.err.bit % 2 ^ 32)][k]? =
      some (lqryValue q k) := by
  interval_cases k
  · cases h : q.halted <;> cases h' : q.parked <;> simp [lqryValue, h, h']
  · rfl
  · rfl
  · rfl

/-! ## Gates (R307, R308) -/

theorem gateWith_fields (g exp arr ph : Nat) (he : exp < 2 ^ 32) (ha : arr < 2 ^ 32) (hp : ph < 2) :
    gEXP (gateWith g exp arr ph) = exp ∧ gARR (gateWith g exp arr ph) = arr ∧ gPH (gateWith g exp arr ph) = ph ∧
      gEXP0 (gateWith g exp arr ph) = gEXP0 g ∧ gateWith g exp arr ph / 2 ^ 97 = g / 2 ^ 97 := by
  have h0 : gEXP0 g < 2 ^ 32 := Nat.mod_lt _ (by decide)
  unfold gEXP gARR gPH
  rw [show gEXP0 (gateWith g exp arr ph) = bitsAt (gateWith g exp arr ph) 64 32 from rfl]
  simp only [bitsAt_eq]
  unfold gateWith
  generalize gEXP0 g = e0 at *
  generalize g / 2 ^ 97 = r
  norm_num at *
  refine ⟨?_, ?_, ?_, ?_, ?_⟩ <;> omega

/-- Settles O27, by the sum that the event makes of its count. -/
theorem gateEvents : Obligations.GateEvents := by
  unfold Obligations.GateEvents
  intro g n isexp _ _ exp arr
  have hph : gPH g < 2 := Nat.mod_lt _ (by decide)
  have h0 : gEXP0 g < 2 ^ 32 := Nat.mod_lt _ (by decide)
  by_cases hc : 2 ^ 32 ≤ exp ∨ 2 ^ 32 ≤ arr
  · rw [show gateEvent g n isexp = none from if_pos (by simpa [exp, arr] using hc)]
    exact hc
  · have hl : exp < 2 ^ 32 ∧ arr < 2 ^ 32 := by omega
    by_cases hf : 1 ≤ exp ∧ exp ≤ arr
    · rw [show gateEvent g n isexp = some (gateWith g (gEXP0 g) (arr - exp) (1 - gPH g)) from
        (if_neg (by simpa [exp, arr] using hc)).trans (if_pos (by simpa [exp, arr] using hf))]
      obtain ⟨h1, h2, h3, h4, h5⟩ := gateWith_fields g (gEXP0 g) (arr - exp) (1 - gPH g) h0 (by omega) (by omega)
      exact ⟨hl.1, hl.2, h4, h5, by rw [if_pos hf]; exact ⟨h3, h1, h2⟩⟩
    · rw [show gateEvent g n isexp = some (gateWith g exp arr (gPH g)) from
        (if_neg (by simpa [exp, arr] using hc)).trans (if_neg (by simpa [exp, arr] using hf))]
      obtain ⟨h1, h2, h3, h4, h5⟩ := gateWith_fields g exp arr (gPH g) hl.1 hl.2 hph
      exact ⟨hl.1, hl.2, h4, h5, by rw [if_neg hf]; exact ⟨h3, h1, h2⟩⟩

/-- LIFT with no block kept completes with what liftBody leaves. -/
theorem lift_completes {e : Bool} {d a : BitVec 6} {s u : State} (h : Issues (.lift e d a) s) (hl : s.pk.lifting = none)
    (hb : liftBody d (s.pk.s a.toNat).toNat s s = .done u) : CompletesFrom (.lift e d a) s u := by
  refine completesFrom_of h (exec_lift e d a s) ?_
  rw [sourced_of_noVector fun _ => ⟨rfl, rfl⟩]
  simp only [hl]
  exact hb

/-- LCAN on a queue whose current block is wholly delivered. -/
theorem lcan_returns {e : Bool} {d a : BitVec 6} {s : State} (h : Issues (.lcan e d a) s)
    (hq : (s.tm.queue ((s.pk.s a.toNat).toNat % 8)).settled = true) :
    let ch := (s.pk.s a.toNat).toNat % 8
    Returns (.lcan e d a) s ((s.onTeam s.tm.id fun m => m.cancelLift ch).dropReads s.tm.id ch) d (dw (s.tm.queue ch).cmds.length) := by
  refine completesFrom_of h rfl ?_
  rw [sourced_of_noVector fun _ => ⟨rfl, rfl⟩]
  exact if_neg (by rw [hq]; exact Bool.false_ne_true)

/-- LCAN while a block is half delivered asks the queue to stop, and stalls. -/
theorem lcan_waits {e : Bool} {d a : BitVec 6} {s : State} (h : Issues (.lcan e d a) s)
    (hq : (s.tm.queue ((s.pk.s a.toNat).toNat % 8)).settled = false) :
    exec (.lcan e d a) s = .next (s.onQueue s.tm.id ((s.pk.s a.toNat).toNat % 8) fun q => { q with stop := true }) := by
  refine exec_wait h rfl ?_
  exact if_pos (by rw [hq]; rfl)

theorem settled_iff (q : LiftQueue) : q.settled = true ↔ q.held = [] ∧ q.rest = [] := by
  simp [LiftQueue.settled, and_comm]

/-- Settles O26: LIFT by the order of its checks, LQRY by its selector, LCAN by whether its queue is settled. -/
theorem liftWords : Obligations.LiftWords := by
  unfold Obligations.LiftWords
  intro queued submits
  refine ⟨?_, ?_, ?_, ?_⟩
  · intro e d a s h hl i x hh o refused
    refine ⟨fun h1 => lift_completes h hl ?_, fun k h1 h2 => lift_completes h hl ?_,
      fun k h1 h2 h3 h4 => lift_completes h hl ?_, ?_⟩
    · simp only [liftBody]
      rw [show s.tm.handle _ = none from h1]
    · simp only [liftBody]
      rw [show s.tm.handle _ = some k from h1]
      exact if_pos h2
    · simp only [liftBody]
      rw [show s.tm.handle _ = some k from h1]
      refine (if_neg (not_or.2 ⟨not_not.2 h2, not_lt.2 h3⟩)).trans ?_
      rw [h4]
    · intro k al h1 h2 h3 h4 h5 blk
      have hb : liftBody d x s s = if (s.tm.queue (lcChan blk.toNat)).halted then
          .done { s with pk := s.pk.setS d.toNat (dw (2 ^ 63 + 1)) } else s.submit s d blk := by
        simp only [liftBody]
        rw [show s.tm.handle _ = some k from h1]
        refine (if_neg (not_or.2 ⟨not_not.2 h2, not_lt.2 h3⟩)).trans ?_
        rw [h4]
        exact if_neg (by rw [h5]; exact Bool.false_ne_true)
      by_cases hq : (s.tm.queue (lcChan blk.toNat)).halted
      · rw [if_pos hq]
        exact lift_completes h hl (hb.trans (if_pos hq))
      · rw [if_neg hq]
        refine lift_submits h blk (exec_lift e d a s) ?_
        simp only [hl]
        exact hb.trans (if_neg hq)
  · intro e d a s blk h hl
    refine lift_submits h blk (exec_lift e d a s) ?_
    simp only [hl]
  · intro e d a s h x q status
    refine ⟨lqryValue q (x / 16 % 4), lqryValue_eq q _ (Nat.mod_lt _ (by decide)), completesFrom_of h rfl ?_⟩
    rw [sourced_of_noVector fun _ => ⟨rfl, rfl⟩]
    exact congrArg (fun k => Res.done { s with pk := s.pk.setS d.toNat (lqryValue q k) }) (bitsAt_eq x 4 2)
  · intro e d a s h ch q
    by_cases hq : q.held = [] ∧ q.rest = []
    · rw [if_pos hq]
      exact lcan_returns h ((settled_iff q).2 hq)
    · rw [if_neg hq]
      exact lcan_waits h (Bool.eq_false_iff.2 fun hs => hq ((settled_iff q).1 hs))

/-! ## The gate words (R309-R312) -/

/-- A gate word on a live gate that takes its event. -/
theorem gateWord_completes {i : Instr} (hi : NoVector i) {h c : BitVec 6} {s : State} {wait : State → Bool} {f : State → Nat → Option Nat}
    {k : Handle} {a : Alloc} {g r : Nat} (hs : Issues i s) (he : exec i s = gateWord i h c s wait f) (hw : wait s = false)
    (hg : s.liveGate s.tm h.toNat ((s.pk.s c.toNat).toNat % 2 ^ 32) = .ok (k, a, g)) (hf : f s g = some r) :
    CompletesFrom i s (s.tileWrite k a ((s.pk.s c.toNat).toNat % 2 ^ 32) (toBytes r 16)).testGates := by
  refine completesFrom_of hs he ?_
  rw [sourced_of_noVector hi]
  simp only [hw, Bool.false_eq_true, if_false, hg, hf]

theorem gateInit_eq (x : Nat) : gateInit x = 0x6A * 2 ^ 120 + x / 2 ^ 32 % 2 * 2 ^ 98 + x % 2 ^ 32 * 2 ^ 64 + x % 2 ^ 32 := by
  rw [gateInit, bitsAt_eq, bitsAt_eq, Nat.pow_zero, Nat.div_one, Nat.pow_one]

/-- What GWAIT means. -/
def gwaitBody (v h c : BitVec 6) (u t : State) : Res :=
  let off := (u.pk.s c.toNat).toNat % 2 ^ 32
  let ph := (u.pk.s v.toNat).toNat % 2
  if u.pk.hasPending then .own u.takePending
  else match u.liveGate u.tm h.toNat off with
    | .error r => .own ({ u with pk := u.pk.deferTileAll r h.toNat off } : State).takePending
    | .ok (_, _, g) =>
      if gERR g then .own ({ u with pk := u.pk.deferLift h.toNat off g } : State).takePending
      else blockWord u t (gPH g != ph) (.gate h.toNat off ph)

/-- GWAIT on a live gate without an error is a blocking word. -/
theorem gwait_live {v h c : BitVec 6} {s : State} {k : Handle} {a : Alloc} {g : Nat}
    (hg : s.liveGate s.tm h.toNat ((s.pk.s c.toNat).toNat % 2 ^ 32) = .ok (k, a, g)) (hr : gERR g = false)
    (hp : s.pk.hasPending = false) :
    gwaitBody v h c s s = blockWord s s (gPH g != (s.pk.s v.toNat).toNat % 2)
      (.gate h.toNat ((s.pk.s c.toNat).toNat % 2 ^ 32) ((s.pk.s v.toNat).toNat % 2)) := by
  simp only [gwaitBody, hp, hg, hr, Bool.false_eq_true, if_false]

/-- Settles O28, through the form of a gate word and that of a blocking word. -/
theorem gateWords : Obligations.GateWords := by
  unfold Obligations.GateWords
  intro off
  refine ⟨?_, ?_, ?_, ?_, ?_⟩
  · intro e v h c s k a g hs hg x new
    refine completesFrom_of hs rfl ?_
    rw [sourced_of_noVector fun _ => ⟨rfl, rfl⟩]
    simp only [off] at hg
    simp only [hg]
    exact congrArg (fun n => Res.done (s.tileWrite k a (off s c) (toBytes n 16)).testGates) (gateInit_eq x)
  · exact fun e v h c s k a g r hs hg hf => gateWord_completes
      (f := fun u g => gateEvent g ((u.pk.s v.toNat).toNat % 2 ^ 32) true) (fun _ => ⟨rfl, rfl⟩) hs rfl rfl hg hf
  · intro e v h c s k a g r hs hg n hf
    exact ⟨fun hw => gateWord_completes (f := fun u g => gateEvent g ((u.pk.s v.toNat).toNat % 2 ^ 32) false)
      (fun _ => ⟨rfl, rfl⟩) hs rfl hw hg hf, fun hw => exec_stall hs rfl (if_pos hw)⟩
  · intro e v h c s k a g hs hg
    refine completesFrom_of hs rfl ?_
    rw [sourced_of_noVector fun _ => ⟨rfl, rfl⟩]
    simp only [off] at hg
    simp only [hg]
    cases gERR g <;> rfl
  · intro e v h c s k a g hs hg hr hp ph
    have hb := gwait_live (v := v) hg hr hp
    exact ⟨fun hn => transfers_of_blockWord (fun _ => ⟨rfl, rfl⟩) hs rfl hb hp (bne_iff_ne.2 hn),
      fun hn => exec_of_blockWord_waits (fun _ => ⟨rfl, rfl⟩) hs rfl hb hp (by rw [hn]; exact bne_self_eq_false ph)⟩

end Sys2Proof.Proofs
end

section
/-! SUPPORT. The words on streams and compressed tensors (R272-R287). -/

namespace Sys2Proof.Proofs

open Sys2Proof.Machine Sys2Proof.Safety

/-! ## Reads of records (R230, R261) -/

/-- A record that is read goes to what the word does with it. -/
theorem readAs_of_reads {s t u : State} {va n align x : Nat} (h : Reads s t va n align x u) (k : State → Nat → Res) :
    readAs s t va n align k = k u x := by
  obtain ⟨h1, h2, h3⟩ := h
  unfold readAs
  rw [h1, h2, h3]
  rfl

/-- So does a layout record. -/
theorem readLayout_of_readsLayout {s u : State} {rec r : Nat} (h : ReadsLayout s rec r u) (aux : DWord) (k : State → Nat → Res) :
    readLayout s s rec aux k = k u r := by
  obtain ⟨h1, h2, h3⟩ := h
  unfold readLayout
  rw [if_neg (not_not.2 h1), readAs_of_reads h2, h3]
  rfl

/-- A word that raises a precise fault when it is carried out. -/
theorem traps_of_body {i : Instr} {s : State} {f : FaultRec} {body : State → State → Res} (h : Issues i s)
    (he : exec i s = .next (issueWord i s body)) (hb : body s (sourced i s) = .trap f) : Traps i s f := by
  rw [Traps, he, issueWord_trap h hb]

/-! ## Stream words (R273, R276) -/

/-- A stream word on a tile that is there, with a well-formed descriptor. -/
theorem streamWord_completes {i : Instr} {s u : State} {h : BitVec 6} {c : BitVec 5} {k : Handle} {a : Alloc}
    {f : State → State → SDesc → Handle → Alloc → DWord → Res} (hs : Issues i s) (he : exec i s = streamWord i h c s f)
    (ht : s.tileOf s.tm h.toNat = .ok (k, a))
    (hd : sdescBad (s.pk.s (2 * c.toNat)).toNat (s.pk.s (2 * c.toNat + 1)).toNat = false)
    (hf : ∀ aux, f s (sourced i s) (sdesc (s.pk.s (2 * c.toNat)).toNat (s.pk.s (2 * c.toNat + 1)).toNat) k a aux = .done u) :
    CompletesFrom i s u := by
  refine completesFrom_of hs he ?_
  simp only [ht, hd, Bool.false_eq_true, if_false]
  exact hf _

/-- A stream that parses, of lines that are not poisoned. -/
theorem parseStream_ok {u t : State} {h : BitVec 6} {d : SDesc} {hd : Handle} {a : Alloc} {upTo : Nat} {b : Block}
    (hp : parseBlock (d.expect u.tm upTo) (streamBytes u d hd a) = .ok b) (ha : a.poisonedIn d.off ((b.stop + 7) / 8) = false)
    (aux : DWord) (k : Block → Res) : parseStream u t h d hd a aux upTo k = k b := by
  unfold parseStream
  rw [hp]
  exact if_neg (by rw [ha]; exact Bool.false_ne_true)

/-! ## CTLD (R277) -/

/-- The words of the record at tile byte o. -/
def ctWord (s : State) (k : Handle) (a : Alloc) (o j : Nat) : Word := BitVec.ofNat 32 (ofBytes (s.tileBytes k a (o + 4 * j) 4))

/-- What CTLD means. -/
def ctldBody (n : BitVec 4) (h c : BitVec 6) (u t : State) : Res :=
  let o := (u.pk.s c.toNat).toNat % 2 ^ 32
  match u.tileOf u.tm h.toNat with
  | .error r => .done { t with pk := t.pk.deferTileAll r h.toNat o }
  | .ok (hd, a) =>
    let cnt := if ctCount (ctWord u hd a o 0) ≤ 64 then ctCount (ctWord u hd a o 0) else 0
    if o % 4 ≠ 0 || hd.bytes < o + 4 || hd.bytes < o + 4 * (cnt + 1) then .done { t with pk := t.pk.deferTileAll 2 h.toNat o }
    else if a.poisonedIn o (4 * (cnt + 1)) then .done { t with pk := t.pk.deferTileEccAll h.toNat }
    else
      match ctDefect ((List.range (cnt + 1)).map (ctWord u hd a o)) with
      | some d => .trap (codeTable 1 h.toNat d)
      | none => .done { t with tm := { t.tm with ct := Tab.set [] t.tm.ct n.toNat ((List.range (cnt + 1)).map (ctWord u hd a o)) } }

theorem exec_ctld (e : Bool) (n : BitVec 4) (h c : BitVec 6) (s : State) :
    exec (.ctld e n h c) s = .next (issueWord (.ctld e n h c) s (ctldBody n h c)) := rfl

/-- What CTLD does with a record that lies in its tile. -/
theorem ctldBody_eq {n : BitVec 4} {h c : BitVec 6} {s : State} {k : Handle} {a : Alloc} (ht : s.tileOf s.tm h.toNat = .ok (k, a)) :
    let o := (s.pk.s c.toNat).toNat % 2 ^ 32
    let cnt := ctCount (ctWord s k a o 0)
    let ws := (List.range (cnt + 1)).map (ctWord s k a o)
    o % 4 = 0 → cnt ≤ 64 → o + 4 * (cnt + 1) ≤ k.bytes → a.poisonedIn o (4 * (cnt + 1)) = false →
    ctldBody n h c s s = match ctDefect ws with
      | some d => .trap (codeTable 1 h.toNat d)
      | none => .done { s with tm := { s.tm with ct := Tab.set [] s.tm.ct n.toNat ws } } := by
  intro o cnt ws h1 h2 h3 h4
  have hc : (decide (o % 4 ≠ 0) || decide (k.bytes < o + 4) || decide (k.bytes < o + 4 * (cnt + 1))) = false := by
    simp only [Bool.or_eq_false_iff, decide_eq_false_iff_not]
    omega
  unfold ctldBody
  rw [ht]
  simp only [o, cnt] at h2 h4 hc
  simp only [h2, hc, h4, if_true, Bool.false_eq_true, if_false]
  rfl

/-! ## ENCF (R282) -/

/-- The byte at an offset of a block whose first bytes have just been written. -/
theorem byteOver_mapIdx (bs old : List Byte) (o : Nat) :
    byteOver (bs.mapIdx fun i b => (i, b)) old o = (bs[o]?).getD ((old[o]?).getD 0) := by
  have hf : (bs.mapIdx fun i b => (i, b)).find? (fun q => q.1 == o) = (bs[o]?).map fun b => (o, b) := by
    rw [List.mapIdx_eq_zipIdx_map]
    have hg : ∀ (l : List Byte) (n : Nat), n ≤ o → ((l.zipIdx n).map fun x => (x.2, x.1)).find? (fun q => q.1 == o) =
        (l[o - n]?).map fun b => (o, b) := by
      intro l
      induction l with
      | nil => exact fun n _ => rfl
      | cons b l ih =>
        intro n hn
        rw [List.zipIdx_cons, List.map_cons, List.find?_cons]
        by_cases h : n = o
        · subst h
          simp
        · simp only [beq_false_of_ne h]
          rw [ih (n + 1) (by omega), show o - n = (o - (n + 1)) + 1 by omega, List.getElem?_cons_succ]
    exact hg bs 0 (Nat.zero_le o)
  unfold byteOver
  rw [hf]
  cases bs[o]? <;> rfl

/-! ## The words, one by one -/

theorem ctld_runs {e : Bool} {n : BitVec 4} {h c : BitVec 6} {s : State} {k : Handle} {a : Alloc} (hs : Issues (.ctld e n h c) s)
    (ht : s.tileOf s.tm h.toNat = .ok (k, a)) :
    let o := (s.pk.s c.toNat).toNat % 2 ^ 32
    let cnt := ctCount (ctWord s k a o 0)
    let ws := (List.range (cnt + 1)).map (ctWord s k a o)
    o % 4 = 0 → cnt ≤ 64 → o + 4 * (cnt + 1) ≤ k.bytes → a.poisonedIn o (4 * (cnt + 1)) = false →
    (ctDefect ws = none → CompletesFrom (.ctld e n h c) s { s with tm := { s.tm with ct := Tab.set [] s.tm.ct n.toNat ws } }) ∧
    (∀ d, ctDefect ws = some d → Traps (.ctld e n h c) s (codeTable 1 h.toNat d)) := by
  intro o cnt ws h1 h2 h3 h4
  have hb := ctldBody_eq (n := n) ht h1 h2 h3 h4
  have hso : ctldBody n h c s (sourced (.ctld e n h c) s) = ctldBody n h c s s := by rw [sourced_of_noVector fun _ => ⟨rfl, rfl⟩]
  constructor
  · intro hd
    rw [hd] at hb
    exact completesFrom_of hs (exec_ctld e n h c s) (hso.trans hb)
  · intro d hd
    rw [hd] at hb
    exact traps_of_body hs (exec_ctld e n h c s) (hso.trans hb)

theorem ctinv_completes {e : Bool} {n : BitVec 4} {s : State} (hs : Issues (.ctinv e n) s) :
    CompletesFrom (.ctinv e n) s { s with tm := { s.tm with ct := Tab.set [] s.tm.ct n.toNat [] } } := by
  refine completesFrom_of hs rfl ?_
  rw [sourced_of_noVector fun _ => ⟨rfl, rfl⟩]

/-- What BIXQ means. -/
def bixqBody (v h c : BitVec 6) (u t : State) : Res :=
  let rec_ := (u.pk.s h.toNat).toNat
  let co := u.pk.s c.toNat
  readLayout u t rec_ co fun t r =>
    match blockOf r co.toNat with
    | none => .trap (streamFault cDECODE 9 rec_ co 0)
    | some b =>
      readAs u t (layBidx r + 8 * b) 8 8 fun t ent =>
        if entBad r ent then .trap (streamFault cDECODE 6 rec_ co 0)
        else .done { t with pk := t.pk.setS v.toNat (dw ent) }

theorem exec_bixq (e : Bool) (v h c : BitVec 6) (s : State) :
    exec (.bixq e v h c) s = .next (issueWord (.bixq e v h c) s (bixqBody v h c)) := rfl

theorem bixq_returns {e : Bool} {v h c : BitVec 6} {s t u : State} {r b x : Nat} (hs : Issues (.bixq e v h c) s)
    (hr : ReadsLayout s (s.pk.s h.toNat).toNat r t) (hb : blockOf r (s.pk.s c.toNat).toNat = some b)
    (hx : Reads s t (layBidx r + 8 * b) 8 8 x u) (he : entBad r x = false) : Returns (.bixq e v h c) s u v (dw x) := by
  refine completesFrom_of hs (exec_bixq e v h c s) ?_
  rw [sourced_of_noVector fun _ => ⟨rfl, rfl⟩]
  unfold bixqBody
  simp only [readLayout_of_readsLayout hr, hb, readAs_of_reads hx, he, Bool.false_eq_true, if_false]

theorem dech_starts {e : Bool} {v h : BitVec 6} {c : BitVec 5} {s : State} {k : Handle} {a : Alloc} {b : Block}
    (hs : Issues (.dech e v h c) s) (ht : s.tileOf s.tm h.toNat = .ok (k, a))
    (hd : sdescBad (s.pk.s (2 * c.toNat)).toNat (s.pk.s (2 * c.toNat + 1)).toNat = false) :
    let d := sdesc (s.pk.s (2 * c.toNat)).toNat (s.pk.s (2 * c.toNat + 1)).toNat
    parseBlock (d.expect s.tm 0) (streamBytes s d k a) = .ok b → a.poisonedIn d.off ((b.stop + 7) / 8) = false →
    Starts (.dech e v h c) s (sourced (.dech e v h c) s)
      { opOf (.dech e v h c) s .dc with
        vdst := [v.toNat], regs := [ofLanes fun l => BitVec.ofNat 32 (dechLane b (d.idx + l))], args := [0] }
      [.decodeUnitRetire s.pk.id s.serial] := by
  intro d hp ha
  refine streamWord_completes hs (Eq.refl (execDech e v h c s)) ht hd fun aux => ?_
  exact parseStream_ok hp ha aux _

theorem dec_starts {e : Bool} {v : BitVec 4} {h : BitVec 6} {c : BitVec 5} {s : State} {k : Handle} {a : Alloc} {b : Block}
    (hs : Issues (.dec e v h c) s) (ht : s.tileOf s.tm h.toNat = .ok (k, a))
    (hd : sdescBad (s.pk.s (2 * c.toNat)).toNat (s.pk.s (2 * c.toNat + 1)).toNat = false) :
    let d := sdesc (s.pk.s (2 * c.toNat)).toNat (s.pk.s (2 * c.toNat + 1)).toNat
    parseBlock (d.expect s.tm (if d.idx < d.total then min (d.idx + 256) d.total else 0)) (streamBytes s d k a) = .ok b →
    a.poisonedIn d.off ((b.stop + 7) / 8) = false →
    let elem := fun j l => decElem b (d.idx + 64 * j + l)
    Starts (.dec e v h c) s (sourced (.dec e v h c) s)
      { opOf (.dec e v h c) s .dc with
        vdst := (List.range 4).map (4 * v.toNat + ·)
        regs := (List.range 4).map fun j => ofLanes fun l => BitVec.ofNat 32 (elem j l).1
        args := [(flagsOver s.pk.active fun l => (List.range 4).foldl (fun f j => f ||| (elem j l).2) 0).toNat] }
      [.decodeUnitRetire s.pk.id s.serial] := by
  intro d hp ha elem
  refine streamWord_completes hs (Eq.refl (execDec e v h c s)) ht hd fun aux => ?_
  exact parseStream_ok hp ha aux _

theorem enc_starts {e : Bool} {v : BitVec 4} {h : BitVec 6} {c : BitVec 5} {l : Bool} {s : State} {k : Handle} {a : Alloc} {r : EncOut}
    (hs : Issues (.enc e v h c l) s) (ht : s.tileOf s.tm h.toNat = .ok (k, a))
    (hd : sdescBad (s.pk.s (2 * c.toNat)).toNat (s.pk.s (2 * c.toNat + 1)).toNat = false) :
    let d := sdesc (s.pk.s (2 * c.toNat)).toNat (s.pk.s (2 * c.toNat + 1)).toNat
    d.xp = false → encIdxOk d = true → (d.ct ≠ 15 → s.tm.slotTable d.ct ≠ []) → (d.fmt = 4 → s.tm.book d.cb ≠ []) →
    encode64 s.tm s.pk v.toNat d (streamBytes s d k a) = .ok r →
    let u := ({ s with pk := (s.pk.consume (.enc e v h c l)).raiseFlags r.flags } : State).putBytes k a d.off r.bytes
    Starts (.enc e v h c l) s u
      { opOf (.enc e v h c l) s .dc with
        id := u.serial, sdst := [2 * c.toNat + 1], got := [(0, (d.idx + r.n) % 2 ^ 16 * 2 ^ 32 + r.bit % 2 ^ 32)], args := [0] }
      [.decodeUnitRetire s.pk.id u.serial] := by
  intro d h1 h2 h3 h4 h5 u
  refine streamWord_completes hs (Eq.refl (execEnc e v h c l s)) ht hd fun aux => ?_
  have hc : (decide (d.ct ≠ 15) && (s.tm.slotTable d.ct).isEmpty || decide (d.fmt = 4) && (s.tm.book d.cb).isEmpty) = false := by
    simp only [Bool.or_eq_false_iff, Bool.and_eq_false_imp, decide_eq_true_eq, List.isEmpty_eq_false_iff]
    exact ⟨h3, h4⟩
  simp only [d] at h1 h2 h5 hc
  simp only [h1, h2, hc, h5, Bool.not_true, Bool.or_self, Bool.false_eq_true, if_false]
  rfl

theorem encf_starts {e : Bool} {v h : BitVec 6} {c : BitVec 5} {s : State} {k : Handle} {a : Alloc}
    (hs : Issues (.encf e v h c) s) (ht : s.tileOf s.tm h.toNat = .ok (k, a))
    (hd : sdescBad (s.pk.s (2 * c.toNat)).toNat (s.pk.s (2 * c.toNat + 1)).toNat = false) :
    let d := sdesc (s.pk.s (2 * c.toNat)).toNat (s.pk.s (2 * c.toNat + 1)).toNat
    let units := (d.bit + 255) / 256
    let old := streamBytes s d k a
    d.idx = d.total → 4 ≤ old.length → 32 * units ≤ old.length →
    let header := (toBytes (mkHeader { fmt := d.fmt, slot := d.ct, xp := d.xp }) 4).mapIdx fun i b => (i, b)
    let kept := ((toBytes (mkHeader { fmt := d.fmt, slot := d.ct, xp := d.xp }) 4)[d.bit / 8]?).getD ((old[d.bit / 8]?).getD 0)
    let first := BitVec.ofNat 8 (kept.toNat % 2 ^ (d.bit % 8))
    let pad := (List.range (32 * units - d.bit / 8)).map fun i => (d.bit / 8 + i, if i = 0 then first else 0)
    let u := (sourced (.encf e v h c) s).putBytes k a d.off (header ++ pad)
    Starts (.encf e v h c) s u
      { opOf (.encf e v h c) s .dc with id := u.serial, sdst := [v.toNat], got := [(0, units)], args := [0] }
      [.decodeUnitRetire s.pk.id u.serial] := by
  intro d units old h1 h2 h3 header kept first pad u
  refine streamWord_completes hs (Eq.refl (execEncf e v h c s)) ht hd fun aux => ?_
  have hl : ¬ old.length < max 4 (32 * units) := by omega
  have hk : byteOver header old (d.bit / 8) = kept := byteOver_mapIdx _ _ _
  simp only [header, old, d] at hk
  simp only [old, units, d] at hl
  rw [if_neg (not_not.2 h1), if_neg hl]
  simp only [hk]
  rfl

/-- What KVAPP means. -/
def kvappBody (e : Bool) (v h : BitVec 6) (c : BitVec 5) (u t : State) : Res :=
  let rec_ := (u.pk.s (2 * c.toNat)).toNat
  let y := (u.pk.s (2 * c.toNat + 1)).toNat
  let b := y / 2 ^ 32 % 2 ^ 32
  let len := y / 2 ^ 18 % 2 ^ 14
  let off := 32 * (y % 2 ^ 14)
  match u.tileOf u.tm h.toNat with
  | .error r => .done { t with pk := t.pk.deferTileAll r h.toNat off }
  | .ok (hd, a) =>
    if y / 2 ^ 14 % 2 ^ 4 != 0 || len == 0 then .trap (streamFault cDECODE 10 rec_ (dw b) 0)
    else readLayout u t rec_ (dw b) fun t r =>
      if layBlocks r ≤ b then .trap (streamFault cDECODE 9 rec_ (dw b) 0)
      else if hd.bytes < off + 32 * len then .done { t with pk := t.pk.deferTileAll 2 h.toNat off }
      else if a.poisonedIn off (32 * len) then .done { t with pk := t.pk.deferTileEccAll h.toNat }
      else
        let data := u.tileBytes hd a off (32 * len)
        match parseHeader (ofBytes (data.take 4)) with
        | none => .trap (streamFault cDECODE 1 rec_ (dw b) 0)
        | some k =>
          if k.fmt ≠ layFmt r then .trap (streamFault cDECODE 2 rec_ (dw b) 0)
          else
            let key := t.keyFor u.tm.ctx (layKEY r)
            if layENCR r && key.1.isNone then .trap { precise cKEY 0 with addr := dw rec_, detail := layKEY r }
            else
              let op := fun id : Nat =>
                ({ id := id, ctr := .dc, word := .kvapp e v h c, fpc := u.pk.pc, mask := u.pk.active, sdst := [v.toNat],
                   args := [rec_, r, b, len, ofBytes data] ++ if layENCR r then (key.1.map fun k => [k.1, k.2]).getD [] else [] } : Op)
              .done (key.2.startOp op fun id => [.kvappAppend u.pk.id id])

theorem exec_kvapp (e : Bool) (v h : BitVec 6) (c : BitVec 5) (s : State) :
    exec (.kvapp e v h c) s = .next (issueWord (.kvapp e v h c) s (kvappBody e v h c)) := by
  have hx : ∀ y, bitsAt y 32 32 = y / 2 ^ 32 % 2 ^ 32 ∧ bitsAt y 18 14 = y / 2 ^ 18 % 2 ^ 14 ∧ bitsAt y 0 14 = y % 2 ^ 14 ∧
      bitsAt y 14 4 = y / 2 ^ 14 % 2 ^ 4 := fun y =>
    ⟨bitsAt_eq y 32 32, bitsAt_eq y 18 14, by rw [bitsAt_eq, Nat.pow_zero, Nat.div_one], bitsAt_eq y 14 4⟩
  show Host.Outcome.next (issueWord _ s _) = _
  congr 2
  funext u t
  simp only [(hx _).1, (hx _).2.1, (hx _).2.2.1, (hx _).2.2.2]
  rfl

theorem kvapp_starts {e : Bool} {v h : BitVec 6} {c : BitVec 5} {s t : State} {k : Handle} {a : Alloc} {r : Nat} {q : SHead}
    (hs : Issues (.kvapp e v h c) s) (ht : s.tileOf s.tm h.toNat = .ok (k, a)) :
    let rec_ := (s.pk.s (2 * c.toNat)).toNat
    let y := (s.pk.s (2 * c.toNat + 1)).toNat
    let b := y / 2 ^ 32
    let len := y / 2 ^ 18 % 2 ^ 14
    let off := 32 * (y % 2 ^ 14)
    let data := s.tileBytes k a off (32 * len)
    let key := t.keyFor s.tm.ctx (layKEY r)
    y / 2 ^ 14 % 2 ^ 4 = 0 → len ≠ 0 → ReadsLayout s rec_ r t → b < layBlocks r → off + 32 * len ≤ k.bytes →
    a.poisonedIn off (32 * len) = false → parseHeader (ofBytes (data.take 4)) = some q → q.fmt = layFmt r →
    (layENCR r = true → key.1.isSome = true) →
    Starts (.kvapp e v h c) s key.2
      { opOf (.kvapp e v h c) s .dc with
        id := key.2.serial, sdst := [v.toNat]
        args := [rec_, r, b, len, ofBytes data] ++ if layENCR r then ((key.1.map fun k => [k.1, k.2]).getD []) else [] }
      [.kvappAppend s.pk.id key.2.serial] := by
  intro rec_ y b len off data key h1 h2 h3 h4 h5 h6 h7 h8 h9
  have hb : y / 2 ^ 32 % 2 ^ 32 = b := Nat.mod_eq_of_lt (by have := (s.pk.s (2 * c.toNat + 1)).isLt; omega)
  have hl : (y / 2 ^ 14 % 2 ^ 4 != 0 || len == 0) = false := by
    rw [h1, beq_false_of_ne h2]
    rfl
  have hk : (layENCR r && key.1.isNone) = false := by
    cases hr : layENCR r with
    | false => rfl
    | true => rw [Bool.true_and, Option.isNone_eq_false_iff]; exact h9 hr
  refine completesFrom_of hs (exec_kvapp e v h c s) ?_
  rw [sourced_of_noVector fun _ => ⟨rfl, rfl⟩]
  simp only [kvappBody]
  rw [ht]
  simp only [show (s.pk.s (2 * c.toNat + 1)).toNat / 2 ^ 32 % 2 ^ 32 = b from hb]
  refine (if_neg (by rw [show _ = false from hl]; exact Bool.false_ne_true)).trans ?_
  rw [readLayout_of_readsLayout h3]
  refine (if_neg (not_le.2 h4)).trans ((if_neg (not_lt.2 h5)).trans ((if_neg (by rw [h6]; exact Bool.false_ne_true)).trans ?_))
  rw [show parseHeader _ = some q from h7]
  exact (if_neg (not_not.2 h8)).trans (if_neg (by rw [hk]; exact Bool.false_ne_true))

/-- Settles O29, word by word. -/
theorem streamWords : Obligations.StreamWords := by
  unfold Obligations.StreamWords
  intro desc fine parsed
  refine ⟨?_, ?_, ?_, ?_, ?_, ?_, ?_, ?_⟩
  · exact fun e n h c s k a hs ht => ctld_runs hs ht
  · exact fun e n s hs => ctinv_completes hs
  · exact fun e v h c s r t b x u hs hr hb hx he => bixq_returns hs hr hb hx he
  · exact fun e v h c s k a b hs hf hp => dech_starts hs hf.1 hf.2 hp.1 hp.2
  · intro e v h c s k a b hs hf d hp
    exact dec_starts hs hf.1 hf.2 hp.1 hp.2
  · exact fun e v h c l s k a r hs hf => enc_starts hs hf.1 hf.2
  · exact fun e v h c s k a hs hf => encf_starts hs hf.1 hf.2
  · exact fun e v h c s k a r t q hs ht => kvapp_starts hs ht

end Sys2Proof.Proofs
end

section
/-! SUPPORT. The words of the matrix array (R315-R332). -/

namespace Sys2Proof.Proofs

open Sys2Proof.Machine Sys2Proof.Safety

/-! ## The form of a matrix word -/

/-- The state that a matrix word's meaning starts from: its sources are consumed, and no PPT point stands. -/
def offPpt (i : Instr) (s : State) : State := { sourced i s with pk := { s.pk.consume i with atPpt := false } }

/-- A matrix word that issues with the array of its core free. -/
theorem matrixWord_completes {i : Instr} {s u : State} {body : State → State → Res} (hs : Issues i s) (he : exec i s = matrixWord i s body)
    (ha : s.arrayBusy s.tm.core = false) (hb : body s (offPpt i s) = .done u) : CompletesFrom i s u := by
  refine completesFrom_of hs he ?_
  exact (if_neg (by rw [ha]; exact Bool.false_ne_true)).trans hb

/-- One that traps. -/
theorem matrixWord_traps {i : Instr} {s : State} {f : FaultRec} {body : State → State → Res} (hs : Issues i s)
    (he : exec i s = matrixWord i s body) (ha : s.arrayBusy s.tm.core = false) (hb : body s (offPpt i s) = .trap f) : Traps i s f := by
  refine traps_of_body hs he ?_
  exact (if_neg (by rw [ha]; exact Bool.false_ne_true)).trans hb

/-- The registers that are read are noted whether a PPT point stands or not. -/
theorem noteReads_atPpt (p : Pack) (b : Bool) (rs : List Nat) :
    ({ p with atPpt := b } : Pack).noteReads rs = { p.noteReads rs with atPpt := b } := by
  unfold Pack.noteReads
  rw [show (rs.filter fun r => !({ p with atPpt := b } : Pack).isLive r) = rs.filter fun r => !p.isLive r from rfl]
  split <;> rfl

/-- So are the lanes that name no element of a tile. -/
theorem deferAcc_atPpt (p : Pack) (b : Bool) (n : Nat) (cs : List (Nat × Nat)) :
    ({ p with atPpt := b } : Pack).deferAcc n cs = { p.deferAcc n cs with atPpt := b } := by
  unfold Pack.deferAcc
  split
  · rfl
  · unfold Pack.defer
    dsimp only
    split <;> rfl

/-! ## Tiles that are valid and not held (R330, R336) -/

/-- Tiles k to k + n − 1 are held by no accumulator-load, and are valid. -/
theorem withTiles_free {u : State} {k n : Nat} (go : Res) (h : u.tm.heldTiles &&& tileMask k n = 0 ∧ u.tm.firstBad k n = none) :
    withTiles u k n go = go := by
  unfold withTiles
  rw [if_neg (not_not.2 h.1), h.2]

theorem withTiles_bad {u : State} {k n b : Nat} (go : Res) (h : u.tm.heldTiles &&& tileMask k n = 0) (hb : u.tm.firstBad k n = some b) :
    withTiles u k n go = .trap (accInvalid b false) := by
  unfold withTiles
  rw [if_neg (not_not.2 h), hb]

theorem withLaneTile_free {u : State} {k : Nat} (go : Res)
    (h : u.tm.heldTiles &&& tileMask k 1 = 0 ∧ (u.pk.active = 0 ∨ u.tm.firstBad k 1 = none)) : withLaneTile u k go = go := by
  unfold withLaneTile
  by_cases ha : u.pk.active = 0
  · rw [if_pos (by rw [decide_eq_true ha, decide_eq_true h.1]; rfl)]
  · rw [if_neg (by rw [decide_eq_false ha]; exact Bool.false_ne_true)]
    exact withTiles_free go ⟨h.1, h.2.resolve_left ha⟩

theorem withLaneTile_bad {u : State} {k b : Nat} (go : Res) (ha : u.pk.active ≠ 0) (h : u.tm.heldTiles &&& tileMask k 1 = 0)
    (hb : u.tm.firstBad k 1 = some b) : withLaneTile u k go = .trap { precise cACC 0 with aux := dw b } := by
  unfold withLaneTile
  rw [if_neg (by rw [decide_eq_false ha]; exact Bool.false_ne_true)]
  exact withTiles_bad go h hb

/-! ## MMA (R318-R326) -/

/-- What an MMA whose checks have passed leaves. -/
theorem mmaIssue_eq (e : Bool) (n : BitVec 4) (g k : BitVec 1) (sc : BitVec 6) (p : BitVec 1) (f : BitVec 6) (s : State) :
    let i : Instr := .mma e n g k sc p f
    let a := 32 * g.toNat
    let hit := s.pk.latchTag == some a
    let regs := if hit then [] else mmaBlock f.toNat s.tm.active.fmt a (k == 1)
    let scales := mmaScales f.toNat s.tm.active.fmt sc.toNat
    let x := if hit then s.pk.latch else regs.map s.pk.v
    let o : Op := { opOf i s .mx with
      regs := scales.map s.pk.v ++ x, args := [0, scales.length], vals := (s.pk.badRows (regs ++ scales)).map fun r => (r, 0) }
    let q : Pack := { (s.pk.consume i).noteReads (regs ++ scales) with
      latchTag := if k = 1 then some a else none, latch := if k = 1 then x else [], atPpt := false }
    mmaIssue i s (offPpt i s) a (k == 1) f.toNat sc.toNat =
      .done { s with
        pk := { q with ops := q.ops ++ [o] }, serial := s.serial + 1
        agenda := s.agenda ++ [if p = 1 then .pairSlave s.pk.id s.serial else .mmaArrayStart s.pk.id s.serial] } := by
  intro i a hit regs scales x o q
  have hk : (k == 1) = decide (k = 1) := rfl
  have hp : isPair i = decide (p = 1) := rfl
  unfold mmaIssue offPpt sourced
  dsimp only
  rw [noteReads_atPpt]
  unfold State.startArray State.startOp
  simp only [i, hp, hk, decide_eq_true_eq]
  rfl

/-- What MMA means. -/
def mmaBody (e : Bool) (n : BitVec 4) (g k : BitVec 1) (sc : BitVec 6) (p : BitVec 1) (f : BitVec 6) (u t : State) : Res :=
  let i := Instr.mma e n g k sc p f
  let go := mmaIssue i u t (32 * g.toNat) (k == 1) f.toNat sc.toNat
  if !mmaCombo f.toNat u.tm.active.fmt then .trap (illegal (encode i) 9)
  else if p = 0 then withTiles u n.toNat 3 go
  else match u.pairOk u.tm n.toNat with
    | none => .trap (illegal (encode i) 9)
    | some m =>
      if u.arrayBusy (u.tm.core + 1) || m.heldTiles &&& tileMask n.toNat 3 ≠ 0 then .stall
      else withTiles u n.toNat 3 (match m.firstBad n.toNat 3 with
        | some b => .trap (accInvalid b true)
        | none => go)

theorem exec_mma (e : Bool) (n : BitVec 4) (g k : BitVec 1) (sc : BitVec 6) (p : BitVec 1) (f : BitVec 6) (s : State) :
    exec (.mma e n g k sc p f) s = matrixWord (.mma e n g k sc p f) s (mmaBody e n g k sc p f) := rfl

theorem mma_startsArray (e : Bool) (n : BitVec 4) (g k : BitVec 1) (sc : BitVec 6) (p : BitVec 1) (f : BitVec 6) (s : State) :
    Issues (.mma e n g k sc p f) s → mmaCombo f.toNat s.tm.active.fmt = true →
    s.tm.heldTiles &&& tileMask n.toNat 3 = 0 ∧ s.tm.firstBad n.toNat 3 = none →
    (p = 1 → ∃ m, s.pairOk s.tm n.toNat = some m ∧ s.arrayBusy (s.tm.core + 1) = false ∧
      m.heldTiles &&& tileMask n.toNat 3 = 0 ∧ m.firstBad n.toNat 3 = none) →
    let a := 32 * g.toNat
    let hit := s.pk.latchTag == some a
    let regs := if hit then [] else mmaBlock f.toNat s.tm.active.fmt a (k == 1)
    let scales := mmaScales f.toNat s.tm.active.fmt sc.toNat
    let x := if hit then s.pk.latch else regs.map s.pk.v
    StartsArray (.mma e n g k sc p f) s
      { s with pk := { (s.pk.consume (.mma e n g k sc p f)).noteReads (regs ++ scales) with
          latchTag := if k = 1 then some a else none, latch := if k = 1 then x else [] } }
      { opOf (.mma e n g k sc p f) s .mx with
        regs := scales.map s.pk.v ++ x, args := [scales.length], vals := (s.pk.badRows (regs ++ scales)).map fun r => (r, 0) }
      (if p = 1 then .pairSlave s.pk.id s.serial else .mmaArrayStart s.pk.id s.serial) := by
  intro hs hc hf hp a hit regs scales x hb
  refine matrixWord_completes hs (exec_mma e n g k sc p f s) hb ?_
  have hm := mmaIssue_eq e n g k sc p f s
  refine (if_neg (by rw [hc]; exact Bool.false_ne_true)).trans ?_
  obtain rfl | rfl : p = 0 ∨ p = 1 := (by decide : ∀ p : BitVec 1, p = 0 ∨ p = 1) p
  · refine (if_pos rfl).trans ((withTiles_free _ hf).trans hm)
  · obtain ⟨m, h1, h2, h3, h4⟩ := hp rfl
    refine (if_neg (by decide)).trans ?_
    simp only [h1]
    refine (if_neg (by rw [h2, decide_eq_false (not_not.2 h3)]; exact Bool.false_ne_true)).trans ((withTiles_free _ hf).trans ?_)
    rw [h4]
    exact hm

/-! ## MSWAP, MZERO, MRD, MWR, MREL, PPT (R328-R332) -/

/-- The event by which the array performs operation n of a pack. -/
def arrayEvent (i : Instr) (p : PackId) (n : Nat) : Instr :=
  match i with
  | .mwld .. => .mwldBufferWrite p n
  | _ => if isPair i then .pairSlave p n else .mmaArrayStart p n

theorem startArray_eq (t u : State) (i : Instr) (o : Op) :
    t.startArray u i o = { t with
      pk := { t.pk with ops := t.pk.ops ++ [{ o with id := t.serial, ctr := .mx, word := i, fpc := u.pk.pc, mask := u.pk.active }] }
      serial := t.serial + 1, agenda := t.agenda ++ [arrayEvent i u.pk.id t.serial] } := rfl

/-- A word that reads no vector register starts its operation. -/
theorem startsArray_of_noVector {i : Instr} (hi : NoVector i) {s : State} {body : State → State → Res} (hs : Issues i s)
    (he : exec i s = matrixWord i s body) (hb : ∀ t, body s t = .done (t.startArray s i arrayOp)) :
    StartsArray i s s (opOf i s .mx) (arrayEvent i s.pk.id s.serial) := by
  intro ha
  refine matrixWord_completes hs he ha ?_
  rw [hb, startArray_eq]
  unfold offPpt
  rw [sourced_of_noVector hi, consume_of_noVector hi]
  rfl

/-- A word on the active lanes of a tile starts its operation, and defers the lanes that lie outside. -/
theorem startsArray_of_lanes {i : Instr} {s : State} {o : Op} {k : Nat} {x : BitVec 6} {body : State → State → Res} (hs : Issues i s)
    (he : exec i s = matrixWord i s body)
    (hf : s.tm.heldTiles &&& tileMask k 1 = 0 ∧ (s.pk.active = 0 ∨ s.tm.firstBad k 1 = none))
    (hb : ∀ t, body s t = withLaneTile s k (.done (({ t with pk := t.pk.deferAcc k (s.pk.coords x.toNat) } : State).startArray s i
      { o with args := 0 :: o.args }))) :
    StartsArray i s { s with pk := (s.pk.consume i).deferAcc k (s.pk.coords x.toNat) }
      { o with id := s.serial, ctr := .mx, word := i, fpc := s.pk.pc, mask := s.pk.active } (arrayEvent i s.pk.id s.serial) := by
  intro ha
  refine matrixWord_completes hs he ha ?_
  rw [hb, withLaneTile_free _ hf, startArray_eq]
  rw [show (offPpt i s).pk.deferAcc k (s.pk.coords x.toNat) =
    { (s.pk.consume i).deferAcc k (s.pk.coords x.toNat) with atPpt := false } from deferAcc_atPpt _ _ _ _]
  rfl

/-- MREL drops the latch. -/
theorem mrel_completes {e : Bool} {s : State} (hs : Issues (.mrel e) s) :
    CompletesFrom (.mrel e) s { s with pk := { s.pk with latchTag := none, latch := [], atPpt := false } } := by
  refine completesFrom_of hs rfl ?_
  rw [sourced_of_noVector fun _ => ⟨rfl, rfl⟩]

/-- PPT drops it and makes a PPT point. -/
theorem ppt_leaves {e : Bool} {m : BitVec 16} {s : State} (hs : Issues (.ppt e m) s) :
    let n := s.finish (endsRun (.ppt e m))
    Leaves (.ppt e m) s { n with pk := { n.pk with latchTag := none, latch := [], liveSet := m, atPpt := true } } :=
  congrArg Host.Outcome.next (issueWord_own hs (by rw [consume_of_noVector fun _ => ⟨rfl, rfl⟩]))

/-! ## MWLD (R327) -/

/-- A layout record that is read while no PPT point stands. -/
theorem readLayout_offPpt {s w : State} {rec r : Nat} (h : ReadsLayout { s with pk := { s.pk with atPpt := false } } rec r w)
    (aux : DWord) (k : State → Nat → Res) : readLayout s { s with pk := { s.pk with atPpt := false } } rec aux k = k w r := by
  obtain ⟨h1, h2, h3⟩ := h
  have hr : Reads s { s with pk := { s.pk with atPpt := false } } rec 128 128 r w := h2
  unfold readLayout
  rw [if_neg (not_not.2 h1), readAs_of_reads hr, h3]
  rfl

/-- What MWLD means. -/
def mwldBody (e : Bool) (v h : BitVec 6) (c : BitVec 5) (u t : State) : Res :=
  let x := (u.pk.s v.toNat).toNat
  let rec_ := (u.pk.s (2 * c.toNat)).toNat
  let co := u.pk.s (2 * c.toNat + 1)
  let off := 32 * (x % 2 ^ 14)
  let fault := fun cause reason o => Res.trap (streamFault cause reason rec_ co o)
  match u.tileOf u.tm h.toNat with
  | .error r => .done { t with pk := t.pk.deferTileAll r h.toNat off }
  | .ok (hd, a) =>
    readLayout u t rec_ co fun t r =>
      let fmt := layFmt r
      let clr := x.testBit 48
      let book := u.tm.book (layCB r)
      let old := u.tm.shadow
      match blockOf r co.toNat with
      | none => fault cDECODE 9 0
      | some _ =>
        let rows := blockRows r co.toNat
        let cols := blockCols r co.toNat
        if !fmtWeight fmt then fault cDECODE 2 0
        else if placeBad x fmt rows cols then fault cDECODE 10 0
        else if old.fmt ≠ 0 && !clr && old.fmt ≠ fmt then fault cDECODE 2 0
        else if fmt = 4 && old.fmt ≠ 0 && !clr && book != old.book.map (·.toNat) then fault cDECODE 2 0
        else
          match parseBlock { fmt := fmt, rows := rows, cols := cols, upTo := rows * cols, ct := u.tm.slotTable, book := book }
              (u.tileBytes hd a off (hd.bytes - off)) with
          | .error (.bad k y o) => fault k y o
          | .error (.short _) => .done { t with pk := t.pk.deferTileAll 2 h.toNat off }
          | .ok b =>
            if a.poisonedIn off ((b.stop + 7) / 8) then .done { t with pk := t.pk.deferTileEccAll h.toNat }
            else
              .done (t.startArray u (.mwld e v h c)
                { arrayOp with
                  vals := b.entries (x / 2 ^ 32 % 2 ^ 9) (x / 2 ^ 16 % 2 ^ 9), got := b.cells (x / 2 ^ 32 % 2 ^ 9) (x / 2 ^ 16 % 2 ^ 9)
                  args := 0 :: clr.toNat :: fmt :: book })

theorem exec_mwld (e : Bool) (v h : BitVec 6) (c : BitVec 5) (s : State) :
    exec (.mwld e v h c) s = matrixWord (.mwld e v h c) s (mwldBody e v h c) := by
  have hx : ∀ y, bitsAt y 32 9 = y / 2 ^ 32 % 2 ^ 9 ∧ bitsAt y 16 9 = y / 2 ^ 16 % 2 ^ 9 ∧ bitsAt y 0 14 = y % 2 ^ 14 := fun y =>
    ⟨bitsAt_eq y 32 9, bitsAt_eq y 16 9, by rw [bitsAt_eq, Nat.pow_zero, Nat.div_one]⟩
  have hc : ∀ b : Bool, (if b = true then 1 else 0) = b.toNat := fun b => by cases b <;> rfl
  rw [show exec (.mwld e v h c) s = execMwld e v h c s from rfl]
  unfold execMwld
  dsimp only
  congr 1
  funext u t
  simp only [(hx _).1, (hx _).2.1, (hx _).2.2, hc]
  rfl

/-- The buffer that a load goes into takes its format and codebook: it is empty, or cleared, or latched alike. -/
theorem mwld_latch {old fmt : Nat} {clr : Bool} {book : List Nat} {ob : List Nat}
    (h : old = 0 ∨ clr = true ∨ old = fmt ∧ (fmt = 4 → book = ob)) :
    (decide (old ≠ 0) && !clr && decide (old ≠ fmt)) = false ∧ (decide (fmt = 4) && decide (old ≠ 0) && !clr && book != ob) = false := by
  rcases h with h | h | ⟨h, hb⟩
  · simp [h]
  · simp [h]
  · by_cases h4 : fmt = 4
    · simp [h, hb h4]
    · simp [h, h4]

theorem mwld_starts {e : Bool} {v h : BitVec 6} {c : BitVec 5} {s t : State} {k : Handle} {a : Alloc} {r : Nat} {b : Block} :
    let i : Instr := .mwld e v h c
    let x := (s.pk.s v.toNat).toNat
    let co := (s.pk.s (2 * c.toNat + 1)).toNat
    let off := 32 * (x % 2 ^ 14)
    let book := s.tm.book (layCB r)
    let clr := x.testBit 48
    let rows := blockRows r co
    let cols := blockCols r co
    Issues i s → s.arrayBusy s.tm.core = false → s.tileOf s.tm h.toNat = .ok (k, a) →
    ReadsLayout { s with pk := { s.pk with atPpt := false } } (s.pk.s (2 * c.toNat)).toNat r t → (blockOf r co).isSome = true →
    fmtWeight (layFmt r) = true → placeBad x (layFmt r) rows cols = false →
    (s.tm.shadow.fmt = 0 ∨ clr = true ∨
      s.tm.shadow.fmt = layFmt r ∧ (layFmt r = 4 → book = s.tm.shadow.book.map (·.toNat))) →
    parseBlock { fmt := layFmt r, rows := rows, cols := cols, upTo := rows * cols, ct := s.tm.slotTable, book := book }
      (s.tileBytes k a off (k.bytes - off)) = .ok b → a.poisonedIn off ((b.stop + 7) / 8) = false →
    Starts i s t
      { opOf i s .mx with
        id := t.serial, vals := b.entries (x / 2 ^ 32 % 2 ^ 9) (x / 2 ^ 16 % 2 ^ 9), got := b.cells (x / 2 ^ 32 % 2 ^ 9) (x / 2 ^ 16 % 2 ^ 9)
        args := 0 :: clr.toNat :: layFmt r :: book }
      [.mwldBufferWrite s.pk.id t.serial] := by
  intro i x co off book clr rows cols hs ha ht hr hb hw hp hl hblk hpo
  refine matrixWord_completes hs (exec_mwld e v h c s) ha ?_
  obtain ⟨b0, hb0⟩ := Option.isSome_iff_exists.1 hb
  obtain ⟨hl1, hl2⟩ := mwld_latch hl
  rw [show offPpt i s = { s with pk := { s.pk with atPpt := false } } by
    unfold offPpt
    rw [sourced_of_noVector fun _ => ⟨rfl, rfl⟩, consume_of_noVector fun _ => ⟨rfl, rfl⟩]]
  simp only [mwldBody]
  rw [ht]
  simp only
  rw [readLayout_offPpt hr, show blockOf r _ = some b0 from hb0]
  refine (if_neg (by rw [hw]; exact Bool.false_ne_true)).trans ((if_neg (by rw [show placeBad _ _ _ _ = false from hp]; exact Bool.false_ne_true)).trans
    ((if_neg (by rw [show _ = false from hl1]; exact Bool.false_ne_true)).trans
      ((if_neg (by rw [show _ = false from hl2]; exact Bool.false_ne_true)).trans ?_)))
  rw [show parseBlock _ _ = .ok b from hblk]
  refine (if_neg (by rw [show a.poisonedIn _ _ = false from hpo]; exact Bool.false_ne_true)).trans ?_
  rfl

/-- Settles O30, word by word. -/
theorem matrixWords : Obligations.MatrixWords := by
  unfold Obligations.MatrixWords
  intro free lanesFree
  refine ⟨mma_startsArray, ?_, ?_, ?_, ?_, ?_, ?_, ?_, ?_⟩
  · exact fun e v h c s k a r t b => mwld_starts
  · exact fun e s hs => startsArray_of_noVector (fun _ => ⟨rfl, rfl⟩) hs (Eq.refl (execMswap e s)) fun _ => rfl
  · exact fun e n x s hs hf => startsArray_of_noVector (fun _ => ⟨rfl, rfl⟩) hs (Eq.refl (execMzero e n x s)) fun _ => if_neg (not_not.2 hf)
  · intro e n d x s b _ ha hc hh hb
    exact ⟨fun hs => matrixWord_traps hs (Eq.refl (execMrd e n d x s)) ha (withLaneTile_bad _ hc hh hb),
      fun hs => matrixWord_traps hs (Eq.refl (execMwr e n d x s)) ha (withLaneTile_bad _ hc hh hb)⟩
  · exact fun e n d x s hs hf => startsArray_of_lanes (o := { arrayOp with vals := tileLanes s.pk x.toNat, vdst := [d.toNat], args := [] })
      hs (Eq.refl (execMrd e n d x s)) hf fun _ => rfl
  · exact fun e n v x s hs hf => startsArray_of_lanes (o := { arrayOp with vals := tileLanes s.pk x.toNat, got := _, args := [] })
      hs (Eq.refl (execMwr e n v x s)) hf fun _ => rfl
  · exact fun e s hs => mrel_completes hs
  · exact fun e m s hs => ppt_leaves hs

end Sys2Proof.Proofs
end

section
/-! SUPPORT. Launch, barriers and event words (R353-R356). -/

namespace Sys2Proof.Proofs

open Sys2Proof.Machine Sys2Proof.Safety

/-! ## LAUNCH (R353) -/

theorem dw_toNat_self (x : DWord) : dw x.toNat = x := BitVec.ofNat_toNat 64 x |>.trans (BitVec.setWidth_eq x)

/-- What LAUNCH means. -/
def launchBody (d a : BitVec 6) (u t : State) : Res :=
  let va := (u.pk.s a.toNat).toNat
  if u.tm.depth = 10 then .trap { precise cDEPTH 0 with addr := dw va, detail := 10 }
  else if u.pk.id.role ≠ 0 || u.pk.id.pir ≠ 0 then .done { t with pk := t.pk.setS d.toNat (dw (2 ^ 63 + 1)) }
  else if releaseWaits 3 u then .stall
  else readAs u t va 256 256 fun t r =>
    match t.checkRecord (preloadAgent u.pk.id) u.tm.core u.tm.ctx r with
    | (.wait, t) => .wait t
    | (.malformed n, t) => .done ({ t.dropFetched (preloadAgent u.pk.id) with pk := t.pk.setS d.toNat (dw (2 ^ 63 + n * 2 ^ 8 + 2)) } : State)
    | (.good slots, t) =>
      let t := t.dropFetched (preloadAgent u.pk.id)
      if 256 ≤ t.pendingChildren (u.rootQueue u.tm) then .done { t with pk := t.pk.setS d.toNat (dw (2 ^ 63 + 3)) }
      else
        let q := u.rootQueue u.tm
        .done (({ t with pk := t.pk.setS d.toNat 0 } : State).accept r q u.tm.ctx 0 (u.tm.depth + 1) (some u.tm.id.grid) u.pk.priv slots
          |>.watchGrid q r)

theorem exec_launch (e : Bool) (d a : BitVec 6) (s : State) :
    exec (.launch e d a) s = .next (issueWord (.launch e d a) s (launchBody d a)) := rfl

/-- LAUNCH completes with what its body leaves. -/
theorem launch_completes {e : Bool} {d a : BitVec 6} {s u : State} (hs : Issues (.launch e d a) s) (hb : launchBody d a s s = .done u) :
    CompletesFrom (.launch e d a) s u := by
  refine completesFrom_of hs (exec_launch e d a s) ?_
  rw [sourced_of_noVector fun _ => ⟨rfl, rfl⟩]
  exact hb

/-- LAUNCH at the greatest depth traps. -/
theorem launch_traps {e : Bool} {d a : BitVec 6} {s : State} (hs : Issues (.launch e d a) s) (hd : s.tm.depth = 10) :
    Traps (.launch e d a) s { precise cDEPTH 0 with addr := s.pk.s a.toNat, detail := 10 } := by
  refine traps_of_body hs (exec_launch e d a s) ?_
  refine (if_pos hd).trans ?_
  rw [dw_toNat_self]

/-- LAUNCH by another pack than the first of its team is refused. -/
theorem launch_refused {d a : BitVec 6} {s : State} (hd : s.tm.depth ≠ 10) (hp : s.pk.id.role ≠ 0 ∨ s.pk.id.pir ≠ 0) :
    launchBody d a s s = .done { s with pk := s.pk.setS d.toNat (dw (2 ^ 63 + 1)) } := by
  refine (if_neg hd).trans (if_pos ?_)
  simpa using hp

/-- LAUNCH that has read its record goes by what the record's check says. -/
theorem launch_read {d a : BitVec 6} {s t : State} {r : Nat} (hd : s.tm.depth ≠ 10) (h1 : s.pk.id.role = 0) (h2 : s.pk.id.pir = 0)
    (hw : releaseWaits 3 s = false) (hr : Reads s s (s.pk.s a.toNat).toNat 256 256 r t) :
    launchBody d a s s = match t.checkRecord (preloadAgent s.pk.id) s.tm.core s.tm.ctx r with
      | (.wait, t) => .wait t
      | (.malformed n, t) => .done ({ t.dropFetched (preloadAgent s.pk.id) with pk := t.pk.setS d.toNat (dw (2 ^ 63 + n * 2 ^ 8 + 2)) } : State)
      | (.good slots, t) =>
        let t := t.dropFetched (preloadAgent s.pk.id)
        if 256 ≤ t.pendingChildren (s.rootQueue s.tm) then .done { t with pk := t.pk.setS d.toNat (dw (2 ^ 63 + 3)) }
        else
          let q := s.rootQueue s.tm
          .done (({ t with pk := t.pk.setS d.toNat 0 } : State).accept r q s.tm.ctx 0 (s.tm.depth + 1) (some s.tm.id.grid) s.pk.priv slots
            |>.watchGrid q r) := by
  refine (if_neg hd).trans ((if_neg ?_).trans ((if_neg (by rw [hw]; exact Bool.false_ne_true)).trans ?_))
  · rw [h1, h2]
    decide
  · rw [readAs_of_reads hr]

/-! ## Barriers (R354) -/

/-- A barrier word whose release holds arrives, and waits. -/
theorem barrier_leaves {i : Instr} (hi : NoVector i) {gang : Bool} {b : Pack → Nat} {s : State} (hs : Issues i s)
    (he : exec i s = barrierWord i gang b s) (hp : s.pk.hasPending = false) (hw : releaseWaits (if gang then 2 else 1) s = false) :
    Leaves i s ((s.block (if gang then .gangBarrier (b s.pk) else .teamBarrier (b s.pk))).arrive s.tm gang (b s.pk)) := by
  rw [Leaves, he]
  refine congrArg Host.Outcome.next (issueWord_own hs ?_)
  rw [consume_of_noVector hi]
  simp only [hp, hw, Bool.false_eq_true, if_false]

/-- A pack that has passed a barrier. -/
theorem passBarrier_wait (now : Nat) (w : Wait) (k : Pack) (hw : k.wait = w) (hs : k.status = .waiting) :
    k.passBarrier now w = k.wake now := by
  rw [Pack.passBarrier, if_neg (not_not.2 hw), if_pos hs]

/-- It passes once only. -/
theorem passBarrier_wake (now : Nat) (w : Wait) (k : Pack) (hw : w ≠ .none) : (k.wake now).passBarrier now w = k.wake now :=
  if_pos (Ne.symm hw)

theorem passBarrier_id (now : Nat) (w : Wait) (k : Pack) : (k.passBarrier now w).id = k.id := by
  unfold Pack.passBarrier
  split
  · rfl
  · split
    · rfl
    · split <;> rfl

/-- Packs changed one by one: the current one, if it is listed, is changed as often as once. -/
theorem foldl_onPack_pk (f : Nat → Pack → Pack) (k : Pack) (hid : ∀ n q, (f n q).id = q.id) (hk : ∀ n, f n (f n k) = f n k)
    (ps : List Pack) : ∀ s : State, (s.pk = k ∨ s.pk = f s.gtc k) →
    let t := ps.foldl (fun s p => s.onPack p.id (f s.gtc)) s
    t.tm = s.tm ∧ t.hbm = s.hbm ∧ t.gtc = s.gtc ∧ ((∃ p ∈ ps, p.id = k.id) → t.pk = f s.gtc k) ∧ (s.pk = f s.gtc k → t.pk = f s.gtc k) := by
  induction ps with
  | nil => exact fun s _ => ⟨rfl, rfl, rfl, fun h => by simp at h, fun h => h⟩
  | cons p ps ih =>
    intro s hs
    have hidk : s.pk.id = k.id := by
      rcases hs with h | h
      · rw [h]
      · rw [h, hid]
    have hpk : (s.onPack p.id (f s.gtc)).pk = if k.id = p.id then f s.gtc k else s.pk := by
      unfold State.onPack
      rw [hidk]
      split
      · rcases hs with h | h
        · rw [h]
        · rw [h, hk]
      · rfl
    have hor : (s.onPack p.id (f s.gtc)).pk = k ∨ (s.onPack p.id (f s.gtc)).pk = f (s.onPack p.id (f s.gtc)).gtc k := by
      rw [hpk, State.onPack_gtc]
      split
      · exact .inr rfl
      · exact hs
    obtain ⟨h1, h2, h3, h4, h5⟩ := ih (s.onPack p.id (f s.gtc)) hor
    rw [State.onPack_gtc] at h3 h4 h5
    rw [State.onPack_tm] at h1
    rw [State.onPack_hbm] at h2
    rw [List.foldl_cons]
    refine ⟨h1, h2, h3, ?_, fun h => h5 (by rw [hpk, h, ite_self])⟩
    rintro ⟨q, hq, hqk⟩
    rcases List.mem_cons.1 hq with rfl | hq
    · exact h5 (by rw [hpk, if_pos hqk.symm])
    · exact h4 ⟨q, hq, hqk⟩

/-- A team whose arrivals at barrier b have been counted. -/
def arrived (m : Team) (b : Nat) : Team :=
  { m with tbar := (arrivals m.tbar m.tkept b).1, tkept := (arrivals m.tbar m.tkept b).2 }

theorem arrived_tbar (m : Team) (b : Nat) :
    Tab.get 0 (arrived m b).tbar b = if Tab.get 0 m.tkept b = 0 then Tab.get 0 m.tbar b + 1 else Tab.get 0 m.tbar b := by
  unfold arrived arrivals
  dsimp only
  split
  · rename_i h
    rw [if_pos h, Tab.get_set, if_pos rfl]
  · rename_i h
    rw [if_neg (by omega)]

/-- The state once the current pack waits at a team barrier and its arrival is counted. -/
def atBarrier (s : State) (b : Nat) : State := { s.block (.teamBarrier b) with tm := arrived s.tm b }

theorem arrive_eq (s : State) (b : Nat) : (s.block (.teamBarrier b)).arrive s.tm false b = (atBarrier s b).checkBarrier s.tm false b := by
  have h : ((s.block (.teamBarrier b)).onTeam s.tm.id fun m => arrived m b) = atBarrier s b := if_pos rfl
  exact congrArg (fun u : State => u.checkBarrier s.tm false b) h

/-- The members of the current pack's team, itself first. -/
theorem members_self (s : State) (t : Team) (ht : s.pk.id.teamId = t.id) (h1 : s.pk.status ≠ .retired) (h2 : s.pk.status ≠ .vacant) :
    s.members t false = s.pk :: (s.packs.filter fun p => p.id.teamId == t.id).filter fun p => p.status != .retired && p.status != .vacant := by
  unfold State.members State.packsOf State.allPacks
  simp [ht, h1, h2]

/-- A team barrier, checked: it opens when as many as its members have arrived. -/
theorem checkBarrier_team (s : State) (t : Team) (b n : Nat) (hn : ((s.team? t.id).map fun m => Tab.get 0 m.tbar b).getD 0 = n) :
    s.checkBarrier t false b = if n = 0 ∨ n < (s.members t false).length then s
      else (s.members t false).foldl (fun u p => u.onPack p.id (Pack.passBarrier u.gtc (.teamBarrier b)))
        (s.onTeam t.id fun m => { m with tbar := Tab.set 0 m.tbar b 0, tkept := Tab.set 0 m.tkept b 0 }) := by
  simp only [State.checkBarrier, Bool.false_eq_true, if_false, hn, Bool.or_eq_true, decide_eq_true_eq]

/-- The team of the current pack once its barrier b has opened. -/
def opened (m : Team) (b : Nat) : Team := { m with tbar := Tab.set 0 m.tbar b 0, tkept := Tab.set 0 m.tkept b 0 }

/-- The opening passes the current pack, and changes neither memory nor time. -/
theorem open_passes (s : State) (b : Nat) (ms : List Pack) (hm : ∃ p ∈ ms, p.id = s.pk.id) :
    let t := ms.foldl (fun u p => u.onPack p.id (Pack.passBarrier u.gtc (.teamBarrier b)))
      { atBarrier s b with tm := opened (arrived s.tm b) b }
    Tab.get 0 t.tm.tbar b = 0 ∧ t.pk.status = .ready ∧ t.pk.pc = s.pk.pc + 4 ∧ t.pk.since = s.gtc ∧ t.hbm = s.hbm := by
  have hwait : ∀ now, (atBarrier s b).pk.passBarrier now (.teamBarrier b) = (atBarrier s b).pk.wake now := fun now =>
    passBarrier_wait now (.teamBarrier b) (atBarrier s b).pk rfl rfl
  obtain ⟨h1, h2, h3, h4, _⟩ := foldl_onPack_pk (fun now => Pack.passBarrier now (.teamBarrier b)) (atBarrier s b).pk
    (fun now q => passBarrier_id now _ q)
    (fun now => by rw [hwait, passBarrier_wake now _ _ (by simp)]) ms
    { atBarrier s b with tm := opened (arrived s.tm b) b } (.inl rfl)
  have hk := h4 hm
  rw [hwait] at hk
  intro t
  refine ⟨?_, ?_, ?_, ?_, h2⟩
  · rw [show t.tm = opened (arrived s.tm b) b from h1]
    exact (Tab.get_set 0 (arrived s.tm b).tbar b b 0).trans (if_pos rfl)
  all_goals exact congrArg _ hk

/-- Settles O32: the last arrival opens the barrier, which passes the current pack; an earlier one leaves it waiting. -/
theorem barrierOpens : Obligations.BarrierOpens := by
  unfold Obligations.BarrierOpens
  intro e a s hs hrun hp hw hid b n
  have hex : exec (.tbar e a) s = .next ((atBarrier s b).checkBarrier s.tm false b).countWord := by
    rw [← arrive_eq]
    exact barrier_leaves (b := fun p => (p.s a.toNat).toNat % 4) (fun _ => ⟨rfl, rfl⟩) hs rfl hp hw
  have hm := members_self s s.tm hid.symm (by rw [hrun]; decide) (by rw [hrun]; decide)
  have hm' := members_self (atBarrier s b) s.tm hid.symm (fun h => by cases h) (fun h => by cases h)
  have hlen : ((atBarrier s b).members s.tm false).length = (s.members s.tm false).length := by
    rw [hm, hm']
    rfl
  have hteam : (atBarrier s b).team? s.tm.id = some (arrived s.tm b) := if_pos rfl
  have hc := checkBarrier_team (atBarrier s b) s.tm b n (by rw [hteam]; exact arrived_tbar s.tm b)
  rw [hlen] at hc
  refine ⟨fun h0 hle => ⟨_, hex, ?_⟩, fun hlt => ⟨_, hex, ?_⟩⟩
  · rw [if_neg (by omega), show (atBarrier s b).onTeam s.tm.id _ = _ from if_pos rfl] at hc
    rw [hc]
    exact open_passes s b _ ⟨(atBarrier s b).pk, by rw [hm']; exact List.mem_cons_self, rfl⟩
  · rw [hc, if_pos (.inr hlt)]
    exact ⟨arrived_tbar s.tm b, rfl, rfl, rfl⟩

/-! ## EVSIG and EVWAIT (R355, R356) -/

/-- EVSIG whose release holds is an atomic of one lane. -/
theorem evsig_starts {e : Bool} {d a b : BitVec 6} {s : State} (hs : Issues (.evsig e d a b) s) (hw : releaseWaits 4 s = false) :
    StartsMem (.evsig e d a b) s .ld [0] (fun _ => ((s.pk.s a.toNat).toNat : Int)) (fun _ => atomCheck s.tm (s.pk.s a.toNat).toNat 8)
      (fun _ => (s.pk.s b.toNat).toNat) [] [d.toNat] false :=
  startsMem_of hs rfl (if_neg (by rw [hw]; exact Bool.false_ne_true))

/-- A word that waits on memory, with no record pending and no fault declined, goes by what it reads. -/
theorem waitWord_leaves {i : Instr} (hi : NoVector i) {s u : State} {va : Pack → Nat} {w : Pack → Wait}
    {met : Pack → Nat → Option (Pack → Pack)} {bs : List Byte} {t : State} (hs : Issues i s) (he : exec i s = waitWord i s va w met)
    (hp : s.pk.hasPending = false) (hd : s.pk.declinedIn (va s.pk) 8 = none) (hr : s.readWait s.pk (va s.pk) = (.ok bs, t))
    (hu : (∃ f, met s.pk (ofBytes bs) = some f ∧ u = ({ t with pk := f t.pk } : State).goto true s.pk.next) ∨
      met s.pk (ofBytes bs) = none ∧ u = t.block (w s.pk)) : Leaves i s u := by
  rw [Leaves, he]
  refine congrArg Host.Outcome.next (issueWord_own hs ?_)
  rw [consume_of_noVector hi]
  rcases hu with ⟨f, hf, rfl⟩ | ⟨hf, rfl⟩
  · simp only [hp, hd, hr, hf, Bool.false_eq_true, if_false]
  · simp only [hp, hd, hr, hf, Bool.false_eq_true, if_false]

/-- One with a declined fault takes its trap. -/
theorem waitWord_declined {i : Instr} (hi : NoVector i) {s : State} {va : Pack → Nat} {w : Pack → Wait}
    {met : Pack → Nat → Option (Pack → Pack)} {x : Nat} (hs : Issues i s) (he : exec i s = waitWord i s va w met)
    (hp : s.pk.hasPending = false) (hd : s.pk.declinedIn (va s.pk) 8 = some x) :
    Leaves i s ({ s with pk := s.pk.deferAll s.pk.pc cPAGE 0 (dw x) allOnes 0 } : State).takePending := by
  rw [Leaves, he]
  refine congrArg Host.Outcome.next (issueWord_own hs ?_)
  rw [consume_of_noVector hi]
  simp only [hp, hd, Bool.false_eq_true, if_false]

/-- Settles O31, word by word. -/
theorem launchWords : Obligations.LaunchWords := by
  unfold Obligations.LaunchWords
  refine ⟨?_, ?_, ?_, ?_, ?_, ?_⟩
  · intro e d a s i va who hs
    refine ⟨fun hd => launch_traps hs hd, fun hd hp => launch_completes hs (launch_refused hd hp), ?_⟩
    intro r t u hd h1 h2 hw hr
    have hb := launch_read (d := d) hd h1 h2 hw hr
    refine ⟨fun n hc => launch_completes hs ?_, fun slots hc => ⟨fun hq => launch_completes hs ?_, fun hq => launch_completes hs ?_⟩⟩
    · rw [hb, show t.checkRecord _ _ _ _ = _ from hc]
      rfl
    · rw [hb, show t.checkRecord _ _ _ _ = _ from hc]
      exact if_pos hq
    · rw [hb, show t.checkRecord _ _ _ _ = _ from hc]
      exact if_neg (not_le.2 hq)
  · exact fun e a s hs hp hw => barrier_leaves (b := fun p => (p.s a.toNat).toNat % 4) (fun _ => ⟨rfl, rfl⟩) hs rfl hp hw
  · exact fun e a s hs hp hw => barrier_leaves (b := fun p => (p.s a.toNat).toNat % 2) (fun _ => ⟨rfl, rfl⟩) hs rfl hp hw
  · exact fun e d a b s hs hw => evsig_starts hs hw
  · intro e a b s bs t hs hp va v hd hr
    exact ⟨fun h => waitWord_leaves (fun _ => ⟨rfl, rfl⟩) hs (Eq.refl (execEvwait e a b s)) hp hd hr (.inl ⟨fun k => k, if_pos h, rfl⟩),
      fun h => waitWord_leaves (fun _ => ⟨rfl, rfl⟩) hs (Eq.refl (execEvwait e a b s)) hp hd hr (.inr ⟨if_neg (not_le.2 h), rfl⟩)⟩
  · exact fun e a b s x hs hp hd => waitWord_declined (fun _ => ⟨rfl, rfl⟩) hs (Eq.refl (execEvwait e a b s)) hp hd

end Sys2Proof.Proofs
end

section
/-! SUPPORT. The words of collectives and groups (R416, R428-R431). -/

namespace Sys2Proof.Proofs

open Sys2Proof.Machine Sys2Proof.Safety

/-! ## COLL (R428) -/

/-- What COLL means. -/
def collBody (d a : BitVec 6) (u t : State) : Res :=
  if releaseWaits 4 u then .stall
  else
    let va := (u.pk.s a.toNat).toNat
    readAs u t va 64 64 fun t x =>
      let ctx := u.tm.ctx
      let g := cdGroup x
      let k := t.group ctx g
      if cdBad x (if k.state = 2 then k.members.length else cdRoot x + 1) then .done (t.refuse u va 1 d.toNat 1)
      else if k.state ≠ 2 then .done (t.refuse u va 2 d.toNat 2)
      else if 16 ≤ k.colls.length then .stall
      else
        let seq := (k.count + 1) % 2 ^ 16
        let c : Coll := { seq := seq, desc := BitVec.ofNat 512 x, addr := va, issuer := u.pk.id, start := k.startOf seq t.gtc,
                          agree := t.earlyAgreement k seq }
        let t := t.onGroup ctx g fun k => { k with
          count := k.count + 1, colls := k.colls ++ [c], accepts := k.accepts.filter (fun a => a.1 != seq)
          early := k.early.filter fun e => e.1 != seq }
        let t := (t.writeWord64 ctx (va + 8) 0).2.collReport ctx g seq ((t.ownRank ctx g).getD 0) 256
        .done { t with pk := t.pk.setS d.toNat (dw seq) }

/-- A change of a group depends on that group alone. -/
theorem onGroup_congr {s : State} {c g : Nat} {f f' : Group → Group} (h : f (s.group c g) = f' (s.group c g)) :
    s.onGroup c g f = s.onGroup c g f' := by
  unfold State.onGroup
  rw [h]

theorem exec_coll (e : Bool) (d a : BitVec 6) (s : State) :
    exec (.coll e d a) s = .next (issueWord (.coll e d a) s (collBody d a)) := by
  rw [show exec (.coll e d a) s = execColl e d a s from rfl]
  unfold execColl
  congr 2

/-- COLL goes on with its descriptor once its release holds. -/
theorem collBody_read {d a : BitVec 6} {s t : State} {x : Nat} (hw : releaseWaits 4 s = false)
    (hr : Reads s s (s.pk.s a.toNat).toNat 64 64 x t) :
    let va := (s.pk.s a.toNat).toNat
    let k := t.group s.tm.ctx (cdGroup x)
    let seq := (k.count + 1) % 2 ^ 16
    let c : Coll := { seq := seq, desc := BitVec.ofNat 512 x, addr := va, issuer := s.pk.id, start := k.startOf seq t.gtc,
                      agree := t.earlyAgreement k seq }
    let w := t.onGroup s.tm.ctx (cdGroup x) fun k => { k with
      count := k.count + 1, colls := k.colls ++ [c], accepts := k.accepts.filter (fun a => a.1 != seq)
      early := k.early.filter fun e => e.1 != seq }
    let v := (w.writeWord64 s.tm.ctx (va + 8) 0).2.collReport s.tm.ctx (cdGroup x) seq ((w.ownRank s.tm.ctx (cdGroup x)).getD 0) 256
    collBody d a s s =
      if cdBad x (if k.state = 2 then k.members.length else cdRoot x + 1) then .done (t.refuse s va 1 d.toNat 1)
      else if k.state ≠ 2 then .done (t.refuse s va 2 d.toNat 2)
      else if 16 ≤ k.colls.length then .stall
      else .done { v with pk := v.pk.setS d.toNat (dw seq) } := by
  intro va k seq c w v
  unfold collBody
  rw [if_neg (by rw [hw]; exact Bool.false_ne_true)]
  simp only
  rw [readAs_of_reads hr]

/-- COLL completes with what its body leaves. -/
theorem coll_completes {e : Bool} {d a : BitVec 6} {s u : State} (hs : Issues (.coll e d a) s) (hb : collBody d a s s = .done u) :
    CompletesFrom (.coll e d a) s u := by
  refine completesFrom_of hs (exec_coll e d a s) ?_
  rw [sourced_of_noVector fun _ => ⟨rfl, rfl⟩]
  exact hb

/-- It stalls where its group has no room. -/
theorem coll_stalls {e : Bool} {d a : BitVec 6} {s : State} (hs : Issues (.coll e d a) s) (hb : collBody d a s s = .stall) :
    exec (.coll e d a) s = .next s := by
  refine exec_stall hs (exec_coll e d a s) ?_
  rw [sourced_of_noVector fun _ => ⟨rfl, rfl⟩]
  exact hb

/-! ## GRPF (R419, R430) -/

/-- What GRPF means. -/
def grpfBody (d a : BitVec 6) (u t : State) : Res :=
  if releaseWaits 4 u then .stall
  else
    let va := (u.pk.s a.toNat).toNat
    readAs u t va 64 64 fun t x =>
      if grpBad x then .done (t.refuse u va 1 d.toNat 1)
      else
        let n := x % 2 ^ 18
        let k := t.group u.tm.ctx (x / 2 ^ 32 % 2 ^ 6)
        let t := if k.reading && k.issuer == u.pk.id && k.addr == va then t else t.openGroup u va x d.toNat
        match t.homeRead u.pk.id u.tm.core u.tm.ctx [(((va + 64 : Nat) : Int), 4 * n)] with
        | (.wait, t) => .wait t
        | (.ok bs, t) =>
          .done ((t.dropFetched u.pk.id).formGroup u va x d.toNat (some ((List.range n).map fun i => ofBytes bs / 2 ^ (32 * i) % 2 ^ 32)))
        | (_, t) => .done ((t.dropFetched u.pk.id).formGroup u va x d.toNat none)

theorem exec_grpf (e : Bool) (d a : BitVec 6) (s : State) :
    exec (.grpf e d a) s = .next (issueWord (.grpf e d a) s (grpfBody d a)) := by
  have hx : ∀ x, bitsAt x 0 18 = x % 2 ^ 18 := fun x => by rw [bitsAt_eq, Nat.pow_zero, Nat.div_one]
  rw [show exec (.grpf e d a) s = execGrpf e d a s from rfl]
  unfold execGrpf
  congr 2
  funext u t
  simp only [hx, bitsAt_eq _ 32 6, bitsAt_eq _ (32 * _) 32, grpfBody] <;> rfl

/-- GRPF completes with what its body leaves. -/
theorem grpf_completes {e : Bool} {d a : BitVec 6} {s u : State} (hs : Issues (.grpf e d a) s) (hb : grpfBody d a s s = .done u) :
    CompletesFrom (.grpf e d a) s u := by
  refine completesFrom_of hs (exec_grpf e d a s) ?_
  rw [sourced_of_noVector fun _ => ⟨rfl, rfl⟩]
  exact hb

/-- A malformed record is refused. -/
theorem grpfBody_bad {d a : BitVec 6} {s t : State} {x : Nat} (hw : releaseWaits 4 s = false)
    (hr : Reads s s (s.pk.s a.toNat).toNat 64 64 x t) (hb : grpBad x = true) :
    grpfBody d a s s = .done (t.refuse s (s.pk.s a.toNat).toNat 1 d.toNat 1) := by
  unfold grpfBody
  rw [if_neg (by rw [hw]; exact Bool.false_ne_true)]
  simp only
  rw [readAs_of_reads hr, if_pos hb]

/-- A good one whose member words have been read goes on with them. -/
theorem grpfBody_good {d a : BitVec 6} {s t u : State} {x : Nat} {bs : List Byte} (hw : releaseWaits 4 s = false)
    (hr : Reads s s (s.pk.s a.toNat).toNat 64 64 x t) (hb : grpBad x = false) :
    let va := (s.pk.s a.toNat).toNat
    let n := x % 2 ^ 18
    let k := t.group s.tm.ctx (x / 2 ^ 32 % 2 ^ 6)
    (if k.reading && k.issuer == s.pk.id && k.addr == va then t else t.openGroup s va x d.toNat).homeRead s.pk.id s.tm.core s.tm.ctx
      [(((va + 64 : Nat) : Int), 4 * n)] = (.ok bs, u) →
    grpfBody d a s s =
      .done ((u.dropFetched s.pk.id).formGroup s va x d.toNat (some ((List.range n).map fun i => ofBytes bs / 2 ^ (32 * i) % 2 ^ 32))) := by
  intro va n k hh
  unfold grpfBody
  rw [if_neg (by rw [hw]; exact Bool.false_ne_true)]
  simp only
  rw [readAs_of_reads hr, if_neg (by rw [hb]; exact Bool.false_ne_true), hh]

/-- Leaving out repeats leaves each member once. -/
theorem nubNat_perm_dedup (l : List Nat) : (nubNat l).Perm l.dedup := by
  have hn : ∀ (l acc : List Nat), acc.Nodup → (l.foldl (fun acc a => if acc.contains a then acc else acc ++ [a]) acc).Nodup := by
    intro l
    induction l with
    | nil => exact fun acc h => h
    | cons a l ih =>
      intro acc h
      rw [List.foldl_cons]
      split
      · exact ih _ h
      · rename_i hc
        refine ih _ (List.nodup_append.2 ⟨h, List.nodup_singleton a, ?_⟩)
        intro b hb c hcm hbc
        rw [List.mem_singleton.1 hcm] at hbc
        exact hc (List.contains_iff_mem.2 (hbc ▸ hb))
  refine (List.perm_ext_iff_of_nodup (hn l [] List.nodup_nil) (List.nodup_dedup l)).2 fun a => ?_
  rw [List.mem_dedup, ← List.contains_iff_mem, ← List.contains_iff_mem (as := l)]
  exact Bool.eq_iff_iff.1 (nubNat_contains l a)

/-- It leaves a list as long as it was only where none repeats. -/
theorem nubNat_length (l : List Nat) : (nubNat l).length = l.length ↔ l.Nodup := by
  rw [(nubNat_perm_dedup l).length_eq]
  exact ⟨fun h => List.dedup_eq_self.1 ((List.dedup_sublist l).eq_of_length h), fun h => by rw [List.dedup_eq_self.2 h]⟩

/-- Member words that repeat, or that name no device, refuse the record; so do those without the issuing device. -/
theorem formGroup_refused (t u : State) (va x d : Nat) (ms : List Nat) (r : Nat)
    (h : (¬ ((∀ m, m ∈ ms → m < 2 ^ 17) ∧ ms.Nodup) ∧ r = 1) ∨
      (((∀ m, m ∈ ms → m < 2 ^ 17) ∧ ms.Nodup) ∧ t.device ∉ ms ∧ r = 2)) :
    t.formGroup u va x d (some ms) =
      let v := ({ t with pk := t.pk.setS d (dw (2 ^ 63 + r)) } : State).onGroup u.tm.ctx (x / 2 ^ 32 % 2 ^ 6) Group.emptied
      (v.writeWord64 u.tm.ctx (va + 8) (statusWord 3 r 0 noRank)).2.noteStatus u.pk.id 3 := by
  have hb : ((ms.any fun m => decide (2 ^ 17 ≤ m)) || decide ((nubNat ms).length ≠ ms.length)) = true ↔
      ¬ ((∀ m, m ∈ ms → m < 2 ^ 17) ∧ ms.Nodup) := by
    rw [Bool.or_eq_true, List.any_eq_true, decide_eq_true_eq, Ne, nubNat_length, not_and_or]
    simp only [decide_eq_true_eq, not_forall, not_lt, exists_prop]
  unfold State.formGroup
  simp only [bitsAt_eq x 32 6]
  rcases h with ⟨hn, rfl⟩ | ⟨hs, hd, rfl⟩
  · rw [if_pos (hb.2 hn)]
  · rw [if_neg fun hc => hb.1 hc hs, if_pos]
    rw [Bool.not_eq_true', ← Bool.not_eq_true, List.contains_iff_mem]
    exact hd

/-! ## FSTAT (R431) -/

/-- The bits of a register with a field cleared. -/
theorem setBitsOf_zero_getLsbD (x : DWord) (k : Nat) :
    (setBitsOf x 47 32 0).getLsbD k = (x.getLsbD k && !decide (32 ≤ k ∧ k < 48)) := by
  have hm : ∀ j, ((2 ^ 16 - 1) * 2 ^ 32 : Nat).testBit j = decide (32 ≤ j ∧ j < 48) := by
    intro j
    rw [Nat.testBit_mul_two_pow, Nat.testBit_two_pow_sub_one]
    by_cases h : 32 ≤ j
    · simp only [h, decide_true, Bool.true_and, true_and, decide_eq_decide]
      omega
    · simp [h]
  unfold setBitsOf
  rw [BitVec.getLsbD_or, BitVec.getLsbD_and, BitVec.getLsbD_not, BitVec.getLsbD_ofNat, BitVec.getLsbD_ofNat]
  rw [show (2 ^ (47 + 1 - 32) - 1) * 2 ^ 32 = (2 ^ 16 - 1) * 2 ^ 32 from rfl, hm, show 0 % 2 ^ (47 + 1 - 32) * 2 ^ 32 = 0 from rfl,
    Nat.zero_testBit, Bool.and_false, Bool.or_false]
  by_cases hk : k < 64
  · simp [hk]
  · simp [hk, BitVec.getLsbD_of_ge x k (not_lt.1 hk)]

/-- What FSTAT leaves of the fabric status. -/
theorem fstat_bits (x m : DWord) (k : Nat) :
    (if bitsOf m 47 32 = 0 then x &&& ~~~(m &&& 0x3F) else setBitsOf (x &&& ~~~(m &&& 0x3F)) 47 32 0).getLsbD k =
      if k < 6 then x.getLsbD k && !m.getLsbD k
      else if 32 ≤ k ∧ k < 48 ∧ m.extractLsb' 32 16 ≠ 0 then false
      else x.getLsbD k := by
  have h3 : ∀ j, (0x3F : DWord).getLsbD j = decide (j < 6) := by
    intro j
    rw [show (0x3F : DWord) = BitVec.ofNat 64 (2 ^ 6 - 1) from rfl, BitVec.getLsbD_ofNat, Nat.testBit_two_pow_sub_one, ← Bool.decide_and,
      decide_eq_decide]
    omega
  have hx : (x &&& ~~~(m &&& 0x3F)).getLsbD k = if k < 6 then x.getLsbD k && !m.getLsbD k else x.getLsbD k := by
    rw [BitVec.getLsbD_and, BitVec.getLsbD_not, BitVec.getLsbD_and, h3]
    by_cases hk : k < 64
    · by_cases h6 : k < 6
      · simp [hk, h6]
      · simp [hk, h6]
    · simp [BitVec.getLsbD_of_ge x k (not_lt.1 hk)]
  have hz : bitsOf m 47 32 = 0 ↔ m.extractLsb' 32 16 = 0 := by
    rw [← BitVec.toNat_inj, BitVec.extractLsb'_toNat]
    exact Iff.rfl
  by_cases hm : bitsOf m 47 32 = 0
  · rw [if_pos hm, hx]
    simp [hz.1 hm]
  · rw [if_neg hm, setBitsOf_zero_getLsbD, hx]
    have hne : m.extractLsb' 32 16 ≠ 0 := fun h => hm (hz.2 h)
    by_cases h6 : k < 6
    · rw [if_pos h6, if_pos h6, decide_eq_false (by omega), Bool.not_false, Bool.and_true]
    · rw [if_neg h6, if_neg h6]
      by_cases hr : 32 ≤ k ∧ k < 48
      · rw [if_pos ⟨hr.1, hr.2, hne⟩, decide_eq_true hr, Bool.not_true, Bool.and_false]
      · rw [if_neg fun h => hr ⟨h.1, h.2.1⟩, decide_eq_false hr, Bool.not_false, Bool.and_true]

/-- FSTAT changes of its pack s[d] and the fabric status. -/
theorem fstat_packOnly {e : Bool} {d a : BitVec 6} {s : State} (hs : Issues (.fstat e d a) s) :
    PackOnly (.fstat e d a) s fun p q =>
      q = { stepped p q with sregs := q.sregs, fstat := q.fstat } ∧ (∀ r, q.s r = if r = d.toNat then p.fstat else p.s r) ∧
      ∀ k, q.fstat.getLsbD k =
        if k < 6 then p.fstat.getLsbD k && !(p.s a.toNat).getLsbD k
        else if 32 ≤ k ∧ k < 48 ∧ (p.s a.toNat).extractLsb' 32 16 ≠ 0 then false
        else p.fstat.getLsbD k := by
  refine packWord_packOnly (f := fun p t => { t.setS d.toNat p.fstat with
    fstat := if bitsOf (p.s a.toNat) 47 32 = 0 then p.fstat &&& ~~~((p.s a.toNat) &&& 0x3F)
      else setBitsOf (p.fstat &&& ~~~((p.s a.toNat) &&& 0x3F)) 47 32 0 }) hs rfl ?_ ?_
  · rw [consume_of_noVector fun _ => ⟨rfl, rfl⟩]; exact ⟨rfl, rfl, rfl, rfl, rfl⟩
  · intro q pc rp st si pp
    subst q
    rw [consume_of_noVector fun _ => ⟨rfl, rfl⟩]
    exact ⟨rfl, fun r => Tab.get_set .., fun k => fstat_bits _ _ k⟩

/-- Settles O33, word by word. -/
theorem fabricWords : Obligations.FabricWords := by
  unfold Obligations.FabricWords
  refine ⟨?_, ?_, ?_, ?_⟩
  · intro e d a s x t i va k seq hs hw hr
    have hb := collBody_read (d := d) hw hr
    refine ⟨fun h1 h2 h3 => coll_completes hs ?_, fun h1 h2 h3 => coll_stalls hs ?_, fun h1 h2 => coll_completes hs ?_,
      fun h1 h2 => coll_completes hs ?_⟩
    · refine hb.trans ((if_neg ?_).trans ((if_neg (not_not.2 h1)).trans (if_neg (not_le.2 h3))))
      rw [if_pos h1, show cdBad x _ = false from h2]
      exact Bool.false_ne_true
    · refine hb.trans ((if_neg ?_).trans ((if_neg (not_not.2 h1)).trans (if_pos h3)))
      rw [if_pos h1, show cdBad x _ = false from h2]
      exact Bool.false_ne_true
    · exact hb.trans (if_pos (by rw [if_pos h1]; exact h2))
    · refine hb.trans ((if_neg ?_).trans (if_pos h1))
      rw [if_neg h1, h2]
      exact Bool.false_ne_true
  · intro e d a s bs t hs hp va v hd hr
    exact ⟨fun h => waitWord_leaves (fun _ => ⟨rfl, rfl⟩) hs (Eq.refl (execCwait e d a s)) hp hd hr
        (.inl ⟨fun k => (if v % 2 ^ 8 = 0 then k else k.setFstat 32).setS d.toNat (dw v), if_pos h, rfl⟩),
      fun h => waitWord_leaves (fun _ => ⟨rfl, rfl⟩) hs (Eq.refl (execCwait e d a s)) hp hd hr
        (.inr ⟨if_neg (by rw [show (ofBytes bs).testBit 63 = false from h]; exact Bool.false_ne_true), rfl⟩)⟩
  · intro e d a s x t bs u i va n g hs hw hr
    refine ⟨fun hb => grpf_completes hs (grpfBody_bad hw hr hb), fun hb => ?_⟩
    intro k opened hh w words sound
    have hg := grpfBody_good (d := d) hw hr hb hh
    refine ⟨fun _ _ => grpf_completes hs hg, fun r h => grpf_completes hs (hg.trans ?_)⟩
    exact congrArg Res.done (formGroup_refused w s va x d.toNat words r h)
  · exact fun e d a s hs => fstat_packOnly hs

end Sys2Proof.Proofs
end

section
/-! SUPPORT. Trap entry, the team halt in its place, and the record of a pending deferred fault (R358-R360, R364). -/

namespace Sys2Proof.Proofs

open Sys2Proof.Machine Sys2Proof.Safety

/-! ## Entry into the handler (R360) -/

/-- A scalar register after trap entry. -/
theorem s_enterTrap (p : Pack) (x : DWord) (k : Nat) :
    (p.enterTrap x).s k =
      if k = 63 then p.trapRecord.tpc else if k = 62 then p.trapRecord.aux else if k = 61 then p.trapRecord.addr
      else if k = 60 then p.trapRecord.causeWord else if k = 59 then p.trapRecord.fpc else p.s k := by
  have h : (p.enterTrap x).sregs = (((((p.setS 59 p.trapRecord.fpc).setS 60 p.trapRecord.causeWord).setS 61
      p.trapRecord.addr).setS 62 p.trapRecord.aux).setS 63 p.trapRecord.tpc).sregs := by rw [Pack.enterTrap]
  rw [Pack.s, h, ← Pack.s]
  simp only [Pack.s_setS]

/-- Trap entry leaves s0 to s58 as they were. -/
theorem s_enterTrap_of_lt (p : Pack) (x : DWord) {k : Nat} (h : k < 59) : (p.enterTrap x).s k = p.s k := by
  rw [s_enterTrap, if_neg (by omega), if_neg (by omega), if_neg (by omega), if_neg (by omega), if_neg (by omega)]

/-- Trap entry gives the record of the trap in s59 to s63. -/
theorem s_enterTrap_of_record (p : Pack) (x : DWord) :
    (p.enterTrap x).s 59 = p.trapRecord.fpc ∧ (p.enterTrap x).s 60 = p.trapRecord.causeWord ∧
      (p.enterTrap x).s 61 = p.trapRecord.addr ∧ (p.enterTrap x).s 62 = p.trapRecord.aux ∧
      (p.enterTrap x).s 63 = p.trapRecord.tpc := by
  simp [s_enterTrap]

/-- The record of a precise fault: its own fields, with the lanes, the count and the last cause of the pending record. -/
theorem trapRecord_of_due {p : Pack} (h : p.due.cause ≠ 0) : p.trapRecord =
    { p.due with dcause := p.pend.dcause, amask := p.pend.amask, count := p.pend.count, lanes := p.pend.lanes } := if_neg h

/-- No trap halts a team that has a trap entry, outside the handler, unless its cause is of kind halt. -/
theorem haltsTeam_eq_false {t : Team} {p : Pack} (hh : p.h = false) (ht : t.trap ≠ 0) (hc : p.trapRecord.cause ≠ cGANG) :
    haltsTeam t p = false := by
  rw [haltsTeam, hh, beq_false_of_ne ht, beq_false_of_ne hc]; rfl

/-- In a handler, or without a trap entry, every trap halts the team. -/
theorem haltsTeam_eq_true {t : Team} {p : Pack} (h : p.h = true ∨ t.trap = 0) : haltsTeam t p = true := by
  rcases h with h | h <;> simp [haltsTeam, h]

/-- A trap that does not halt its team enters the handler. -/
theorem deliver_enters {s : State} {p : Pack} (hp : s.pack? p.id = some p) (h : haltsTeam (s.teamOf p) p = false) :
    s.deliver p = s.onPack p.id fun _ => { p.enterTrap (s.teamOf p).trap with since := s.gtc } := by
  refine (if_neg (by rw [h]; exact Bool.false_ne_true)).trans ?_
  exact onPack_congr hp _ _ rfl

/-- The issuing pack is the pack of its name. -/
theorem pack_self (s : State) : s.pack? s.pk.id = some s.pk := if_pos rfl

/-- A change of the issuing pack is found in its place. -/
theorem onPack_self (s : State) (f : Pack → Pack) : s.onPack s.pk.id f = { s with pk := f s.pk } := if_pos rfl

/-- The team of the issuing pack is the one it issues for. -/
theorem teamOf_self {s : State} (h : s.tm.id = s.pk.id.teamId) : s.teamOf s.pk = s.tm := by
  simp [State.teamOf, State.team?, h]

/-- The issuing pack with fault f due at its word. -/
def Pack.dueHere (p : Pack) (f : FaultRec) : Pack :=
  { p with due := { f with fpc := p.pc, tpc := p.pc }, status := .trapping }

/-- With no operation outstanding a precise fault is delivered at once. -/
theorem raise_delivers {s : State} (f : FaultRec) (h : s.pk.ops = []) :
    s.raise f = State.deliver { s with pk := Pack.dueHere s.pk f } (Pack.dueHere s.pk f) :=
  if_pos (by simp [Pack.drained, h])

/-! ## The team halt in its place (R360, R364) -/

/-- The current team, halted: it keeps its first fault. -/
theorem haltTeam_tm_halt {s : State} {t : TeamId} (p : PackId) (f : FaultRec) (h : s.tm.id = t) :
    (s.haltTeam t (some p) f).tm.halt = s.tm.halt.orElse fun _ => some f := by
  simp [State.haltTeam, State.onTeam, h]

/-- A halt leaves the PC of the pack that raises it. -/
theorem haltTeam_self_pc (s : State) (t : TeamId) (f : FaultRec) : (s.haltTeam t (some s.pk.id) f).pk.pc = s.pk.pc := by
  simp [State.haltTeam, State.onPack]

/-! ## The pending record (R359) -/

/-- A table after entries of distinct keys have been written. -/
theorem get_foldl_set {α : Type} [DecidableEq α] (z : α) (k : Nat) : ∀ (es : List (Nat × α)) (t : Tab α), (es.map (·.1)).Nodup →
    Tab.get z (es.foldl (fun t e => Tab.set z t e.1 e.2) t) k =
      ((es.find? fun e => e.1 == k).map (·.2)).getD (Tab.get z t k)
  | [], _, _ => rfl
  | e :: es, t, h => by
    obtain ⟨hn, hes⟩ := List.nodup_cons.mp h
    rw [List.foldl_cons, get_foldl_set z k es _ hes, List.find?_cons, Tab.get_set]
    by_cases hk : e.1 = k
    · have hnone : (es.find? fun e => e.1 == k) = none := by
        rw [List.find?_eq_none]
        intro x hx hxk
        exact hn (List.mem_map.mpr ⟨x, hx, (beq_iff_eq.mp hxk).trans hk.symm⟩)
      simp [hk, hnone]
    · rw [if_neg fun h => hk h.symm, beq_false_of_ne hk]

/-- Among entries filtered by their keys, an entry of key k is found where k passes the filter. -/
theorem find_filter_key {α : Type} (c : Nat → Bool) (k : Nat) (es : List (Nat × α)) :
    ((es.filter fun e => c e.1).find? fun e => e.1 == k) = if c k then es.find? fun e => e.1 == k else none := by
  rw [List.find?_filter]
  split
  next hc =>
    congr 1
    funext e
    by_cases h : e.1 = k <;> simp [h, hc]
  next hc =>
    rw [List.find?_eq_none]
    intro e _ he
    obtain ⟨hce, hk⟩ := of_decide_eq_true he
    exact hc (beq_iff_eq.mp hk ▸ hce)

/-- A pending record keeps the address of a lane that it holds already, and takes those of the new lanes. -/
theorem defer_lanes_get (p : Pack) (fpc : DWord) (cause reason l : Nat) (a x : DWord) (d : Nat) {lanes : List (Nat × DWord)}
    (h : (lanes.map (·.1)).Nodup) (k : Nat) :
    Tab.get 0 (p.defer fpc cause reason l a x d lanes).pend.lanes k =
      if p.pend.amask.getLsbD k then Tab.get 0 p.pend.lanes k
      else ((lanes.find? fun e => e.1 == k).map (·.2)).getD (Tab.get 0 p.pend.lanes k) := by
  have ht : (p.defer fpc cause reason l a x d lanes).pend.lanes =
      (lanes.filter fun e => !p.pend.amask.getLsbD e.1).foldl (fun t e => Tab.set 0 t e.1 e.2) p.pend.lanes := by
    simp only [Pack.defer]
    split <;> rfl
  have hn : ((lanes.filter fun e => !p.pend.amask.getLsbD e.1).map (·.1)).Nodup :=
    List.Nodup.sublist (List.Sublist.map _ List.filter_sublist) h
  rw [ht, get_foldl_set 0 k _ _ hn, find_filter_key (fun k => !p.pend.amask.getLsbD k)]
  cases p.pend.amask.getLsbD k <;> rfl

/-- Settles O34: a trap that does not halt its team enters the handler, with the record in s59 to s63; one that does halts it; and a
deferred fault is recorded in the pending record. -/
theorem trapEntry : Obligations.TrapEntry := by
  refine ⟨?_, ?_, ?_, ?_⟩
  · intro s f hops hh htrap htm hcause hgang p r
    have hp := pack_self { s with pk := Pack.dueHere s.pk f }
    have ht := teamOf_self (s := { s with pk := Pack.dueHere s.pk f }) htm
    have hr : (Pack.dueHere s.pk f).trapRecord = r := trapRecord_of_due hcause
    have hd := deliver_enters hp (haltsTeam_eq_false hh (ht.symm ▸ htrap) (hr.symm ▸ hgang))
    refine ⟨{ (Pack.dueHere s.pk f).enterTrap s.tm.trap with since := s.gtc }, ?_, ?_,
      fun k => s_enterTrap_of_lt (Pack.dueHere s.pk f) s.tm.trap, ?_⟩
    · rw [raise_delivers f hops, hd, onPack_self, ht]
    · simp only [Pack.enterTrap, hr]
      rfl
    · have hs := s_enterTrap_of_record (Pack.dueHere s.pk f) s.tm.trap
      rw [hr] at hs
      exact hs
  · intro s f hops hh htm hcause t
    have ht := teamOf_self (s := { s with pk := Pack.dueHere s.pk f }) htm
    have hu : t = State.haltTeam { s with pk := Pack.dueHere s.pk f } s.tm.id (some s.pk.id) (Pack.dueHere s.pk f).trapRecord := by
      refine (raise_delivers f hops).trans ((if_pos ?_).trans ?_)
      · exact haltsTeam_eq_true (hh.imp id fun h => ht.symm ▸ h)
      · rw [ht]; rfl
    have hhalt : t.tm.halt = s.tm.halt.orElse fun _ => some (Pack.dueHere s.pk f).trapRecord := by
      rw [hu]; exact haltTeam_tm_halt s.pk.id _ rfl
    refine ⟨?_, fun g hg => by rw [hhalt, hg]; rfl, fun hg => ?_, ?_, ?_⟩
    · rw [hu]; exact haltTeam_self_status { s with pk := Pack.dueHere s.pk f } _ _
    · rw [hhalt, hg, trapRecord_of_due (p := Pack.dueHere s.pk f) hcause]; rfl
    · rw [hu]; exact haltTeam_hbm ..
    · rw [hu]; exact haltTeam_self_pc { s with pk := Pack.dueHere s.pk f } _ _
  · intro s p hp hh ht r hr
    exact ⟨_, deliver_enters hp (haltsTeam_eq_false hh ht hr), rfl, fun k => s_enterTrap_of_lt p (s.teamOf p).trap,
      s_enterTrap_of_record p (s.teamOf p).trap⟩
  · intro p fpc cause reason l a x d lanes hn q m
    refine ⟨?_, fun hc => ?_, fun hc => ?_, fun k _ => defer_lanes_get p fpc cause reason l a x d hn k⟩
    · simp only [q, Pack.defer]
      split <;> rfl
    · simp only [q, Pack.defer, if_pos hc, m]
    · simp only [q, Pack.defer, if_neg hc, m]

end Sys2Proof.Proofs
end

section
/-! SUPPORT. The privileged registers (R371-R376, R383), the dirty-log words and FRZ (R401-R405). -/

namespace Sys2Proof.Proofs

open Sys2Proof.Machine Sys2Proof.Safety Sys2Proof.Laws

/-! ## Fields kept in their places -/

/-- Bits l to h of a field kept in its place. -/
theorem keepBits_testBit (v : DWord) {h l : Nat} (hl : l ≤ h) (i : Nat) :
    (keepBits v h l).testBit i = (decide (l ≤ i ∧ i ≤ h) && v.getLsbD i) := by
  have hb : bitsOf v h l * 2 ^ l = (v.toNat / 2 ^ l % 2 ^ (h + 1 - l)) * 2 ^ l := by rw [bitsOf, bitsAt_eq]
  rw [keepBits, hb, Nat.testBit_mul_two_pow, Nat.testBit_mod_two_pow, Nat.testBit_div_two_pow, BitVec.getLsbD]
  by_cases hi : l ≤ i
  · have hlt : i - l < h + 1 - l ↔ l ≤ i ∧ i ≤ h := by omega
    simp [hi, hlt]
  · simp [hi]

theorem keepBits_lt (v : DWord) {h l : Nat} (hl : l ≤ h) : keepBits v h l < 2 ^ (h + 1) := by
  refine Nat.lt_pow_two_of_testBit _ fun i hi => ?_
  rw [keepBits_testBit v hl, decide_eq_false (by omega), Bool.false_and]

/-- Of disjoint fields, the sum is the fields together. -/
theorem keepBits_add_testBit (v : DWord) {h l k m : Nat} (hlm : m ≤ k) (hk : k < l) (hl : l ≤ h) (i : Nat) :
    (keepBits v h l + keepBits v k m).testBit i = (decide (l ≤ i ∧ i ≤ h ∨ m ≤ i ∧ i ≤ k) && v.getLsbD i) := by
  have hlt : keepBits v k m < 2 ^ l := Nat.lt_of_lt_of_le (keepBits_lt v hlm) (Nat.pow_le_pow_right (by decide) hk)
  have hor : keepBits v h l + keepBits v k m = keepBits v h l ||| keepBits v k m := by
    rw [keepBits, ← Nat.shiftLeft_eq, Nat.shiftLeft_add_eq_or_of_lt hlt]
  rw [hor, Nat.testBit_or, keepBits_testBit v hl, keepBits_testBit v hlm, ← Bool.and_or_distrib_right, ← Bool.decide_or]

/-- A number whose bits are those of v where mask holds. -/
theorem dw_eq_and_of_testBit (v mask : DWord) (x : Nat) (c : Nat → Bool) (hx : ∀ i, x.testBit i = (c i && v.getLsbD i))
    (hc : ∀ i, i < 64 → mask.getLsbD i = c i) : dw x = v &&& mask := by
  refine BitVec.eq_of_getLsbD_eq fun i hi => ?_
  rw [dw, BitVec.getLsbD_ofNat, BitVec.getLsbD_and, hx, hc i hi, decide_eq_true hi, Bool.true_and, Bool.and_comm]

theorem dw_bitsOf_low (v mask : DWord) (h : Nat) (hm : ∀ i, i < 64 → mask.getLsbD i = decide (i ≤ h)) :
    dw (bitsOf v h 0) = v &&& mask := by
  have hx : bitsOf v h 0 = keepBits v h 0 := (Nat.mul_one _).symm
  refine dw_eq_and_of_testBit v mask _ (fun i => decide (i ≤ h)) (fun i => ?_) hm
  rw [hx, keepBits_testBit v (Nat.zero_le h)]
  simp

/-- SYSSKEW after a write: EPS is written, and a 1 of the overrun clears it with the measurement (R373). -/
theorem skewWrite_eq (x v : DWord) :
    skewWrite x v = (v &&& 0xFFFF) ||| (if v.getLsbD 32 then 0 else x &&& 0x1FFFF0000) := by
  have hv : dw (bitsOf v 15 0) = v &&& 0xFFFF := dw_bitsOf_low v _ 15 (by decide)
  have hlt : bitsOf v 15 0 < 2 ^ 16 := by
    rw [bitsOf, bitsAt_eq]
    exact Nat.mod_lt _ (by decide)
  rw [skewWrite]
  split
  next => rw [Nat.zero_add, hv, show (0 : DWord) = 0#64 from rfl, BitVec.or_zero]
  next =>
    have hx : dw (keepBits x 32 16) = x &&& 0x1FFFF0000 :=
      dw_eq_and_of_testBit x _ _ (fun i => decide (16 ≤ i ∧ i ≤ 32)) (keepBits_testBit x (by decide)) (by decide)
    rw [← hv, ← hx, ← Nat.shiftLeft_eq, Nat.shiftLeft_add_eq_or_of_lt hlt, Nat.shiftLeft_eq, Nat.or_comm]
    exact BitVec.ofNat_or

/-! ## SSRD and SSWR (R383) -/

/-- SSRD writes the register that it names. -/
theorem ssrd_writes (e : Bool) (d a b : BitVec 6) (s : State) (h : Issues (.ssrd e d a b) s) :
    WritesScalar (.ssrd e d a b) d (privReg s a.toNat ((s.pk.s b.toNat).toNat % 128)) s := by
  refine writesScalar_of_noVector (f := fun _ => privReg s a.toNat ((s.pk.s b.toNat).toNat % 128)) (fun _ => ⟨rfl, rfl⟩) h ?_ rfl
  show Host.Outcome.next _ = Host.Outcome.next (packWord ..)
  rw [packWord, issueWord_done h rfl, issueWord_done h rfl]

/-- Word k of FAULTREC (R372). -/
theorem faultWord_eq (r : FaultRec) (k : Nat) :
    (if 64 ≤ k then Tab.get 0 r.lanes (k - 64)
      else ([r.causeWord, r.addr, r.aux, r.tpc, r.fpc, r.amask, dw r.count][k]?).getD 0) = r.word k := by
  match k with
  | 0 | 1 | 2 | 3 | 4 | 5 | 6 => rfl
  | k + 7 =>
    rw [FaultRec.word]
    split
    · rfl
    next hk => rw [List.getElem?_eq_none (by simp)]; rfl
    all_goals omega

/-- Each register stands in the list at its code. -/
theorem privReg_mem (s : State) (a : BitVec 6) (k : Nat) (ha : a.toNat < 8) :
    [dw s.tm.core, (if s.pk.h then s.pk.frec else s.pk.pend).word k, s.sysskew, s.leasecfg, s.tfab, s.keytab,
      (s.ctx s.tm.ctx).ptbase, (s.ctx s.tm.ctx).dlogbase][a.toNat]? = some (privReg s a.toNat k) := by
  generalize a.toNat = n at ha
  match n, ha with
  | 0, _ | 1, _ | 2, _ | 3, _ | 4, _ | 5, _ | 6, _ | 7, _ => rfl

/-- SSWR writes the register that it names. -/
theorem sswr_completes {e : Bool} {a b : BitVec 6} {s : State} (h : Issues (.sswr e a b) s) :
    CompletesFrom (.sswr e a b) s (s.writePriv a.toNat (s.pk.s b.toNat)) := by
  refine completesFrom_of h rfl ?_
  rw [sourced_of_noVector fun _ => ⟨rfl, rfl⟩]

/-- A code from 8 on is of no register. -/
theorem decode_ssrd_of_le (e : Bool) (d a b : BitVec 6) (h : 8 ≤ a.toNat) : decode (encode (.ssrd e d a b)) = .illegal 2 := by
  generalize hw : encode (.ssrd e d a b) = w
  have hfield : (fld w 25 6).toNat = 0x3C ∧ (fld w 0 7).toNat = 2 ∧ fld w 13 6 = a := by
    subst hw
    simp (disch := decide) only [encode, fld, fld_hi, fld_lo, fld_all, Nat.reduceSub]
    decide
  obtain ⟨hmajor, hop, ha⟩ := hfield
  rw [major3C w hmajor, decode3C, hop]
  exact if_pos (ha.symm ▸ h)

theorem decode_sswr_of_le (e : Bool) (a b : BitVec 6) (h : 8 ≤ a.toNat) : decode (encode (.sswr e a b)) = .illegal 2 := by
  generalize hw : encode (.sswr e a b) = w
  have hfield : (fld w 25 6).toNat = 0x3C ∧ (fld w 0 7).toNat = 3 ∧ fld w 13 6 = a := by
    subst hw
    simp (disch := decide) only [encode, fld, fld_hi, fld_lo, fld_all, Nat.reduceSub]
    decide
  obtain ⟨hmajor, hop, ha⟩ := hfield
  rw [major3C w hmajor, decode3C, hop]
  exact if_pos (ha.symm ▸ h)

/-- Settles O36: a read by the list of the registers, a write by the fields that it keeps. -/
theorem specialRegisters : Obligations.SpecialRegisters := by
  refine ⟨?_, ?_, fun e d a b h => ⟨decode_ssrd_of_le e d a b h, decode_sswr_of_le e a b h⟩⟩
  · intro e d a b s h ha r k fault c
    refine ⟨_, ?_, ssrd_writes e d a b s h⟩
    rw [← privReg_mem s a ((s.pk.s b.toNat).toNat % 128) ha]
    simp only [fault, faultWord_eq]
    rfl
  · intro e a b s h v
    have hc := sswr_completes h
    refine ⟨?_, ?_, ?_, ?_, ?_, ?_, ?_⟩
    · rintro (rfl | rfl) <;> exact hc
    · rintro rfl
      rw [← skewWrite_eq]
      exact hc
    · rintro rfl
      rw [← dw_bitsOf_low v 3 1 (by decide)]
      exact hc
    · rintro rfl
      rw [← dw_bitsOf_low v 0xFFFFFFFF 31 (by decide)]
      exact hc
    · rintro rfl
      rw [← dw_eq_and_of_testBit v 0xFFFF1FFFFFFFFF80 _ _ (keepBits_add_testBit v (h := 63) (l := 48) (k := 44) (m := 7)
        (by decide) (by decide) (by decide)) (by decide)]
      exact hc
    · rintro rfl
      rw [← dw_eq_and_of_testBit v 0x1FFFFFFFC000 _ _ (keepBits_testBit v (h := 44) (l := 14) (by decide)) (by decide)]
      exact hc
    · rintro rfl
      rw [← dw_eq_and_of_testBit v 0x1FFFFFFFF01F _ _ (keepBits_add_testBit v (h := 44) (l := 12) (k := 4) (m := 0)
        (by decide) (by decide) (by decide)) (by decide)]
      exact hc

/-! ## The dirty-log words (R401, R402) -/

/-- A DLOG word changes the log of the context that s[a] names, and returns its result. -/
theorem dlogWord_returns {i : Instr} {d a : BitVec 6} {s : State} {f : DWord → Ctx → Ctx × DWord} (hi : NoVector i) (h : Issues i s)
    (he : exec i s = dlogWord i d a s f) {r : Ctx × DWord} (hr : f (s.pk.s a.toNat) (s.ctx ((s.pk.s a.toNat).toNat % 2 ^ 16)) = r) :
    Returns i s (s.onCtx ((s.pk.s a.toNat).toNat % 2 ^ 16) fun _ => r.1) d r.2 := by
  refine completesFrom_of h he ?_
  rw [sourced_of_noVector hi]
  simp only [hr]
  rfl

/-- The state of a log as .stat gives it, as a sum. -/
theorem dlogStat_eq (c : Ctx) : c.dlogStat = dw (c.dlogEn.toNat * 2 ^ 63 + c.dlogOvf.toNat * 2 ^ 62 + c.dlogP.toNat) := by
  rw [Ctx.dlogStat]
  cases c.dlogEn <;> cases c.dlogOvf <;> rfl

theorem dlogSizeOk_iff (x : DWord) : dlogSizeOk x = true ↔ 12 ≤ x.toNat % 2 ^ 5 ∧ x.toNat % 2 ^ 5 ≤ 30 := by
  have hx : bitsOf x 4 0 = x.toNat % 2 ^ 5 := by rw [bitsOf, bitsAt_eq, pow_zero, Nat.div_one]
  rw [dlogSizeOk, hx, Bool.and_eq_true, decide_eq_true_eq, decide_eq_true_eq]

theorem takeRing_eq (c : Ctx) (x : DWord) :
    c.takeRing x = { c with dlogRing := x.toNat / 2 ^ 12 % 2 ^ 33 * 2 ^ 12, dlogSize := x.toNat % 2 ^ 5 } := by
  have hr : keepBits x 44 12 = x.toNat / 2 ^ 12 % 2 ^ 33 * 2 ^ 12 := by rw [keepBits, bitsOf, bitsAt_eq]
  have hz : bitsOf x 4 0 = x.toNat % 2 ^ 5 := by rw [bitsOf, bitsAt_eq, pow_zero, Nat.div_one]
  rw [Ctx.takeRing, hr, hz]

/-- What DLOG.start does to a log. -/
def dlogStarted (base : DWord) (c : Ctx) : Ctx × DWord :=
  if c.dlogEn then (c, dw (2 ^ 63 + 2))
  else if !dlogSizeOk base then (c, dw (2 ^ 63 + 1))
  else ({ c.takeRing base with dlogP := 0, dlogC := 0, dlogOvf := false, dlogEn := true }, 0)

theorem exec_dlogStart (e : Bool) (d a : BitVec 6) (s : State) : exec (.dlogStart e d a) s =
    dlogWord (.dlogStart e d a) d a s fun _ => dlogStarted (s.ctx s.tm.ctx).dlogbase := rfl

/-- What DLOG.ack does to a log. -/
def dlogAcked (n : BitVec 32) (c : Ctx) : Ctx × DWord :=
  if (n - c.dlogC).toNat ≤ (c.dlogP - c.dlogC).toNat then ({ c with dlogC := n }, 0) else (c, dw (2 ^ 63 + 3))

theorem exec_dlogAck (e : Bool) (d a : BitVec 6) (s : State) : exec (.dlogAck e d a) s =
    dlogWord (.dlogAck e d a) d a s fun x => dlogAcked (BitVec.ofNat 32 (x.toNat / 2 ^ 32)) := rfl

theorem ofNat_high_half (x : DWord) : BitVec.ofNat 32 (x.toNat / 2 ^ 32) = x.extractLsb' 32 32 := by
  rw [BitVec.extractLsb', Nat.shiftRight_eq_div_pow]

/-! ## FRZ (R403-R405) -/

/-- What FRZ means once its descriptor x is read. -/
def frzBody (u : State) (d : BitVec 6) (t : State) (x : Nat) : Res :=
  let ctx := x % 2 ^ 16
  if fdBad x then .done { t with pk := t.pk.setS d.toNat (dw (2 ^ 63 + 1)) }
  else if (t.ctx ctx).frz.isSome then .done { t with pk := t.pk.setS d.toNat (dw (2 ^ 63 + 2)) }
  else
    let w := frzWork u x d
    let t := (t.onCtx ctx fun c => { c with frz := some w }).push [if w.isResume then .resume ctx else .freeze ctx]
    if w.isSelf then
      .own { t with pk := { t.pk.setS d.toNat 1 with
        pc := u.pk.pc + 4, runpos := 0, atPpt := t.pk.pptKept, declined := none, status := .saving } }
    else .done { t with pk := t.pk.setS d.toNat 0 }

theorem exec_frz (e : Bool) (d a : BitVec 6) (s : State) : exec (.frz e d a) s = .next (issueWord (.frz e d a) s fun u t =>
    readAs u t (u.pk.s a.toNat).toNat 64 64 (frzBody u d)) := rfl

/-- Settles O37: a DLOG word by what it does to its log, FRZ by its checks in order. -/
theorem freezeWords : Obligations.FreezeWords := by
  unfold Obligations.FreezeWords
  intro ctx log stat
  have hn : ∀ e d a, NoVector (.dlogStat e d a) ∧ NoVector (.dlogStart e d a) ∧ NoVector (.dlogStop e d a) ∧
      NoVector (.dlogAck e d a) ∧ NoVector (.dlogCons e d a) ∧ NoVector (.frz e d a) := fun e d a =>
    ⟨fun _ => ⟨rfl, rfl⟩, fun _ => ⟨rfl, rfl⟩, fun _ => ⟨rfl, rfl⟩, fun _ => ⟨rfl, rfl⟩, fun _ => ⟨rfl, rfl⟩, fun _ => ⟨rfl, rfl⟩⟩
  refine ⟨?_, ?_, ?_, ?_, ?_, ?_⟩
  · intro e d a s h
    obtain ⟨hi, -⟩ := hn e d a
    have hr := dlogWord_returns (f := fun _ c => (c, c.dlogStat)) hi h rfl rfl
    rw [dlogStat_eq] at hr
    exact ⟨_, rfl, hr⟩
  · intro e d a s h base size
    obtain ⟨-, hi, -⟩ := hn e d a
    have hr := dlogWord_returns hi h (exec_dlogStart e d a s) rfl
    refine ⟨fun hen h12 h30 => ?_, fun hen => ?_, fun hen hsize => ?_⟩
    · have hf : dlogStarted base (log s a) =
          ({ log s a with
              dlogRing := base.toNat / 2 ^ 12 % 2 ^ 33 * 2 ^ 12, dlogSize := size, dlogP := 0, dlogC := 0, dlogOvf := false
              dlogEn := true }, 0) := by
        rw [dlogStarted, if_neg (by rw [hen]; exact Bool.false_ne_true), if_neg (by simpa using (dlogSizeOk_iff base).mpr ⟨h12, h30⟩),
          takeRing_eq]
      rw [show s.ctx _ = log s a from rfl, hf] at hr
      exact hr
    · rw [show s.ctx _ = log s a from rfl, show dlogStarted base (log s a) = _ from if_pos hen] at hr
      exact hr
    · have hf : dlogStarted base (log s a) = (log s a, dw (2 ^ 63 + 1)) := by
        have hbad : dlogSizeOk base = false := by
          rw [Bool.eq_false_iff, ne_eq, dlogSizeOk_iff]
          show ¬ (12 ≤ size ∧ size ≤ 30)
          omega
        rw [dlogStarted, if_neg (by rw [hen]; exact Bool.false_ne_true), if_pos (by rw [hbad]; rfl)]
      rw [show s.ctx _ = log s a from rfl, hf] at hr
      exact hr
  · intro e d a s h
    obtain ⟨-, -, hi, -⟩ := hn e d a
    have hr := dlogWord_returns (f := fun _ c => ({ c with dlogEn := false }, ({ c with dlogEn := false } : Ctx).dlogStat)) hi h rfl rfl
    rw [dlogStat_eq, show false.toNat * 2 ^ 63 = 0 from rfl, Nat.zero_add] at hr
    exact hr
  · intro e d a s h n c
    obtain ⟨-, -, -, hi, -⟩ := hn e d a
    have hr := dlogWord_returns hi h (exec_dlogAck e d a s) rfl
    rw [ofNat_high_half, show s.ctx _ = c from rfl] at hr
    refine ⟨fun hle => ?_, fun hlt => ?_⟩
    · rw [show dlogAcked _ c = _ from if_pos hle] at hr
      exact hr
    · rw [show dlogAcked _ c = _ from if_neg (Nat.not_le.mpr hlt)] at hr
      exact hr
  · intro e d a s h
    obtain ⟨-, -, -, -, hi, -⟩ := hn e d a
    have hv : dw (log s a).dlogC.toNat = (log s a).dlogC.setWidth 64 := BitVec.ofNat_toNat ..
    have hr := dlogWord_returns (f := fun _ c => (c, dw c.dlogC.toNat)) hi h rfl rfl
    rw [show s.ctx _ = log s a from rfl, hv] at hr
    exact hr
  · intro e d a s x t h hread c w u
    obtain ⟨-, -, -, -, -, hi⟩ := hn e d a
    have hb : ∀ r, frzBody s d t x = r → readAs s (sourced (.frz e d a) s) (s.pk.s a.toNat).toNat 64 64 (frzBody s d) = r := by
      intro r hr
      rw [sourced_of_noVector hi, readAs_of_reads hread, hr]
    refine ⟨fun hbad => ?_, fun hok hbusy => ?_, fun hok hfree hself => ?_, fun hok hfree hself => ?_⟩
    · exact completesFrom_of h (exec_frz e d a s) (hb _ (if_pos hbad))
    · exact completesFrom_of h (exec_frz e d a s) (hb _ ((if_neg (by rw [hok]; exact Bool.false_ne_true)).trans (if_pos hbusy)))
    · refine completesFrom_of h (exec_frz e d a s) (hb _ ?_)
      refine (if_neg (by rw [hok]; exact Bool.false_ne_true)).trans ((if_neg (by rw [hfree]; exact Bool.false_ne_true)).trans ?_)
      exact if_neg (by rw [show (frzWork s x d).isSelf = false from hself]; exact Bool.false_ne_true)
    · rw [Leaves, exec_frz]
      refine congrArg Host.Outcome.next (issueWord_own h (hb _ ?_))
      refine (if_neg (by rw [hok]; exact Bool.false_ne_true)).trans ((if_neg (by rw [hfree]; exact Bool.false_ne_true)).trans ?_)
      exact if_pos hself

end Sys2Proof.Proofs
end

section
/-! SUPPORT. Defective words (R40, R59), the step that issues a word and its fetch (R221), words written out, the state after a
reset, and a write of TAIL (R337). -/

namespace Sys2Proof.Proofs

open Sys2Proof.Machine Sys2Proof.Safety

/-! ## Defective words (R40, R59, R95) -/

/-- A word that an interlock holds leaves the machine as it is. -/
theorem happens_stall {i : Instr} {s : State} (hi : isWord i = true) (hc : checkWord s.tm s.pk i = none)
    (hm : mustStall s.pk i = true) : Happens i s s.stall := by
  obtain ⟨body, he⟩ := exec_eq_issueWord hi s
  rw [Happens, he, issueWord, hc]
  exact congrArg Host.Outcome.next (if_pos hm)

/-- What a word means that no encoding accepts. -/
theorem exec_unassignedWord (w : Word) (s : State) : exec (.unassignedWord w) s = execUnassignedWord w s := rfl

/-- The 25th word of a run is ILLEGAL, whatever it is. -/
theorem traps_unassigned_runover {w : Word} {s : State} (h : s.pk.runpos = 24) : Traps (.unassignedWord w) s (illegal w 1) :=
  if_pos h

theorem traps_unassigned_illegal {w : Word} {r : Nat} {s : State} (h : s.pk.runpos ≠ 24) (hd : decode w = .illegal r) :
    Traps (.unassignedWord w) s (illegal w r) := by
  rw [Traps, exec_unassignedWord, execUnassignedWord, if_neg h, hd]

theorem traps_unassigned_lastUse {w : Word} {i : Instr} {s : State} (h : s.pk.runpos ≠ 24) (hd : decode w = .lastUse i) :
    Traps (.unassignedWord w) s (illegal w (if namesOk (roleOf s.tm s.pk).vregs s.tm.accs s.pk.ty i then 7 else 6)) := by
  rw [Traps, exec_unassignedWord, execUnassignedWord, if_neg h, hd]

/-- Settles O39: the checks in their order, and the words that no encoding assigns. -/
theorem defectiveWords : Obligations.DefectiveWords := by
  refine ⟨fun i s f => traps_of_checkWord, fun i s => happens_stall, fun w s => traps_unassigned_runover,
    fun w r s => traps_unassigned_illegal, fun w i s => traps_unassigned_lastUse, fun t p i => ?_⟩
  have hdw : dw (encode i).toNat = (encode i).setWidth 64 := BitVec.ofNat_toNat ..
  refine ⟨fun h => if_pos h, fun h hb => ?_, fun h hb hn => ?_, fun h hb hn hr => ?_, fun h hb hn hr => ?_⟩
  · rw [checkWord, if_neg h, if_pos hb]
  · rw [checkWord, if_neg h, if_neg (by rw [hb]; exact Bool.false_ne_true), if_pos (by rw [hn]; rfl)]
  · rw [checkWord, if_neg h, if_neg (by rw [hb]; exact Bool.false_ne_true), if_neg (by rw [hn]; exact Bool.false_ne_true),
      if_pos (by rw [hr]; rfl)]
  · rw [checkWord, if_neg h, if_neg (by rw [hb]; exact Bool.false_ne_true), if_neg (by rw [hn]; exact Bool.false_ne_true),
      if_neg (by rw [hr]; exact Bool.false_ne_true), hdw]

/-! ## The step that issues a word (R35, R47-R50) -/

/-- A turn of the current pack, running and not to be parked, issues the word that it fetches. -/
theorem runTurn_of_word {t u : State} {w : Word} {i : Instr} (hp : t.pk.parkDue = false) (hf : t.fetch = (.word w, u))
    (hd : decode w = .ok i) (hs : eccScalar u.pk i = none) (he : eccLanes u.tm u.pk i = 0) :
    runTurn t = match exec i u with
      | .next n => .next (u.haltStop n)
      | r => r := by
  have hi : issueBits w u = exec i u := by
    rw [issueBits, hd]
    simp only [issue, hs, he, if_true]
  rw [runTurn, hp, hf]
  simp only [hi, Bool.false_and, Bool.false_eq_true, if_false] <;> rfl

/-- A step of the schedule's issue turn is a turn of the running pack, once what is due has been done. -/
theorem step_issue {s : State} {ts : List Turn} (h : s.turns = .issue :: ts) :
    step s = issueTurn ({ s with gtc := s.gtc + s.pace, turns := ts } : State).timers := by
  rw [step]
  dsimp only
  rw [h]

/-- Settles O56: the turn of a running pack, by what its word answers. -/
theorem stepRunsWord : Obligations.StepRunsWord := by
  intro s ts w i u hturns t hboot hrun hpark hfetch hdecode hscalar hlanes
  have hstep : step s = match exec i u with
      | .next n => .next (u.haltStop n)
      | r => r := by
    rw [step_issue hturns, ← runTurn_of_word hpark hfetch hdecode hscalar hlanes]
    exact if_pos (by rw [Bool.and_eq_true, decide_eq_true_eq, decide_eq_true_eq]; exact ⟨hboot, hrun⟩)
  refine ⟨fun n hn => ⟨by rw [hstep, hn], fun hh => ?_⟩, fun f hn => by rw [hstep, hn], fun f hn => by rw [hstep, hn]⟩
  exact if_pos (by rw [hh]; rfl)

/-! ## Fetch (R221) -/

/-- A line that is at its home needs no room there. -/
theorem homeRoom_of_mem {s : State} {h : HomeLine} (hm : h ∈ s.l2) : s.homeRoom h.ctx h.line = s := by
  have hin : (s.l2.filter fun k => Config.homeSlice k.line == Config.homeSlice h.line).any
      (fun k => k.ctx == h.ctx && k.line == h.line) = true :=
    List.any_eq_true.mpr ⟨h, List.mem_filter.mpr ⟨hm, beq_self_eq_true _⟩, by simp⟩
  rw [State.homeRoom]
  split
  · rfl
  · exact if_pos (by rw [hin, Bool.or_true])

/-- Four aligned bytes of a line, as a word. -/
theorem lineNat_word (d : Line) (o : Nat) : BitVec.ofNat 32 (lineNat d o 4) = d.extractLsb' (8 * o) 32 := by
  rw [lineNat, bitsAt, BitVec.extractLsb']
  exact BitVec.eq_of_toNat_eq (by simp)

/-- Settles O57: a fetch that finds its line at its home. -/
theorem fetchReadsHome : Obligations.FetchReadsHome := by
  intro s h hpc hal hfind hx hpoison hdecl
  have hkey := List.find?_some hfind
  simp only [Bool.and_eq_true, beq_iff_eq] at hkey
  obtain ⟨hctx, hline⟩ := hkey
  have hroom : s.homeRoom (h.settle s.gtc).ctx (h.settle s.gtc).line = s :=
    homeRoom_of_mem (h := h) (List.mem_of_find?_eq_some hfind)
  have hfl : s.fetchLine s.tm.ctx (s.pk.pc.toNat / 128) = (.data (h.settle s.gtc).data, s.putHome (h.settle s.gtc)) := by
    rw [State.fetchLine, State.findLine, hfind]
    simp only [hx, hpoison, Bool.not_true, Bool.false_eq_true, if_false]
  have hoff : s.pk.pc.toNat % 128 / 4 * 4 = s.pk.pc.toNat % 128 := by omega
  refine ⟨s.putHome (h.settle s.gtc), ?_, ?_, ?_⟩
  · rw [State.fetch, if_neg (Nat.not_le.mpr hpc), if_neg hdecl, hfl, hoff]
    simp only [lineNat_word]
  · rw [State.putHome, hroom]
  · rw [State.putHome, hroom]

/-! ## Words written out, and the state after a reset -/

/-- Settles O55: the decoder, run on each word. -/
theorem decodingWords : Obligations.DecodingWords := by
  unfold Obligations.DecodingWords
  decide

/-- Settles O60: the fields of the state after a reset. -/
theorem resetState : Obligations.ResetState :=
  ⟨rfl, rfl, rfl, rfl, rfl, rfl, rfl, rfl, rfl, rfl, rfl, rfl, fun _ => rfl, fun _ => rfl⟩

/-! ## Fields of a register -/

/-- The bits of a register with a field replaced. -/
theorem setBitsOf_getLsbD {n : Nat} (x : BitVec n) {h l : Nat} (v : Nat) (hl : l ≤ h) {k : Nat} (hk : k < n) :
    (setBitsOf x h l v).getLsbD k = if l ≤ k ∧ k ≤ h then v.testBit (k - l) else x.getLsbD k := by
  have hm : ((2 ^ (h + 1 - l) - 1) * 2 ^ l).testBit k = decide (l ≤ k ∧ k ≤ h) := by
    rw [Nat.testBit_mul_two_pow, Nat.testBit_two_pow_sub_one, ← Bool.decide_and, decide_eq_decide]
    omega
  have hv : (v % 2 ^ (h + 1 - l) * 2 ^ l).testBit k = (decide (l ≤ k ∧ k ≤ h) && v.testBit (k - l)) := by
    rw [Nat.testBit_mul_two_pow, Nat.testBit_mod_two_pow]
    by_cases hlk : l ≤ k
    · have hlt : k - l < h + 1 - l ↔ k ≤ h := by omega
      simp [hlk, hlt]
    · simp [hlk]
  rw [setBitsOf, BitVec.getLsbD_or, BitVec.getLsbD_and, BitVec.getLsbD_not, BitVec.getLsbD_ofNat, BitVec.getLsbD_ofNat, hm, hv]
  by_cases hin : l ≤ k ∧ k ≤ h <;> simp [hin, hk]

/-- A field of a register, by its bits. -/
theorem bitsOf_testBit {n : Nat} (x : BitVec n) (h l k : Nat) :
    (bitsOf x h l).testBit k = (decide (k < h + 1 - l) && x.getLsbD (k + l)) := by
  rw [bitsOf, bitsAt_eq, Nat.testBit_mod_two_pow, Nat.testBit_div_two_pow, BitVec.getLsbD]

/-- The field that was replaced. -/
theorem bitsOf_setBitsOf_same {n : Nat} (x : BitVec n) {h l : Nat} (v : Nat) (hl : l ≤ h) (hn : h < n) :
    bitsOf (setBitsOf x h l v) h l = v % 2 ^ (h + 1 - l) := by
  refine Nat.eq_of_testBit_eq fun k => ?_
  rw [bitsOf_testBit, Nat.testBit_mod_two_pow]
  by_cases hk : k < h + 1 - l
  · rw [setBitsOf_getLsbD x v hl (by omega), if_pos (by omega), Nat.add_sub_cancel]
  · simp [hk]

/-- Another field. -/
theorem bitsOf_setBitsOf_other {n : Nat} (x : BitVec n) {h l a b : Nat} (v : Nat) (hl : l ≤ h) (ha : a < n)
    (hd : a < l ∨ h < b) : bitsOf (setBitsOf x h l v) a b = bitsOf x a b := by
  refine Nat.eq_of_testBit_eq fun k => ?_
  rw [bitsOf_testBit, bitsOf_testBit]
  by_cases hk : k < a + 1 - b
  · rw [setBitsOf_getLsbD x v hl (by omega), if_neg (by omega)]
  · simp [hk]

/-! ## A write of TAIL (R337) -/

/-- Steps that each change the time alone. -/
theorem foldl_gtc {α : Type} {f : State → α → State} (hf : ∀ s a, ∃ g, f s a = { s with gtc := g }) (l : List α) :
    ∀ s, ∃ g, l.foldl f s = { s with gtc := g } := by
  induction l with
  | nil => exact fun s => ⟨s.gtc, rfl⟩
  | cons a l ih =>
    intro s
    obtain ⟨g, hg⟩ := hf s a
    obtain ⟨k, hk⟩ := ih (f s a)
    exact ⟨k, by rw [List.foldl_cons, hk, hg]⟩

/-- Waiting for the writes of the host changes the time alone. -/
theorem settleHost_gtc (s : State) : ∃ g, s.settleHost = { s with gtc := g } := by
  rw [State.settleHost]
  refine foldl_gtc (fun s h => ?_) s.l2 s
  exact foldl_gtc (fun s (w : PendWrite) => ⟨(s.waitUntil w.wct).gtc, rfl⟩) _ s

/-- A queue that was changed is the changed queue. -/
theorem queue_onHQueue (s : State) (q : Nat) (f : HQueue → HQueue) : (s.onHQueue q f).queue q = f (s.queue q) := by
  simp [State.queue, State.onHQueue, Tab.get_set]

/-- A write of TAIL that fits the ring changes the queue's TAIL, at some later time, and wakes the queue unit. -/
theorem writeTail_of_fits {s : State} {q tail : Nat}
    (h : (tail + 2 ^ 32 - (s.queue q).head) % 2 ^ 32 ≤ 2 ^ (s.queue q).logsz) :
    ∃ g, s.writeTail q tail =
      (({ s with gtc := g } : State).onHQueue q fun k => { k with desc := setBitsOf k.desc 159 128 tail }).push
        (if (s.queue q).en then [.launchRecordRead q] else []) := by
  obtain ⟨g, hg⟩ := settleHost_gtc s
  refine ⟨g, ?_⟩
  rw [State.writeTail, if_neg (Nat.not_lt.mpr h), hg]
  split
  · rfl
  · simp [State.push]

/-- Settles O45: TAIL is the one field that is replaced. -/
theorem queueWrites : Obligations.QueueWrites := by
  refine ⟨fun q tail s hq ht => ?_, fun q s hq i hi => ?_⟩
  · intro k n
    have he : exec (.tailDoorbell q (BitVec.ofNat 32 tail)) s = .next (s.writeTail q tail) := by
      show queueEvent q s (fun s => s.writeTail q (BitVec.ofNat 32 tail).toNat) = _
      rw [queueEvent, if_pos hq, BitVec.toNat_ofNat, Nat.mod_eq_of_lt ht]
    refine ⟨fun hn => he.trans (congrArg Host.Outcome.next (if_pos hn)), fun hn => ?_⟩
    obtain ⟨g, hg⟩ := writeTail_of_fits hn
    have hk : ∀ evs, ((({ s with gtc := g } : State).onHQueue q fun k => { k with desc := setBitsOf k.desc 159 128 tail }).push
        evs).queue q = { k with desc := setBitsOf k.desc 159 128 tail } := by
      intro evs
      exact queue_onHQueue { s with gtc := g } q fun k => { k with desc := setBitsOf k.desc 159 128 tail }
    refine ⟨_, he.trans (congrArg Host.Outcome.next hg), ?_, ?_, ?_, ?_, rfl, rfl⟩ <;> rw [hk]
    · exact (bitsOf_setBitsOf_same _ _ (by decide) (by decide)).trans (Nat.mod_eq_of_lt ht)
    · exact bitsOf_setBitsOf_other _ _ (by decide) (by decide) (.inr (by decide))
    · exact (setBitsOf_getLsbD _ _ (by decide) (by decide)).trans (if_neg (by decide))
    · exact bitsOf_setBitsOf_other _ _ (by decide) (by decide) (.inl (by decide))
  · have hne : ¬ q < 64 := Nat.not_lt.mpr hq
    rcases hi with rfl | rfl | rfl | rfl | rfl | rfl | ⟨tail, rfl⟩ <;> exact if_neg hne

end Sys2Proof.Proofs
end

section
/-! SUPPORT. The agreement on collectives and what a reduction gives (R421, R424). -/

namespace Sys2Proof.Proofs

open Sys2Proof.Machine Sys2Proof.Safety

/-! ## A decision stands (R424) -/

/-- Collective n of a formed group has verdict v. -/
def Decided (c g n : Nat) (v : Nat × Nat × Nat) (s : State) : Prop :=
  (s.group c g).state = 2 ∧ ∃ k, s.coll? c g n = some k ∧ k.agree.verdict = some v

namespace Decided

variable {c g n : Nat} {v : Nat × Nat × Nat} {s : State}

/-- What leaves the state of the group and its collectives leaves the decision. -/
theorem of_group (h : Decided c g n v s) {t : State} (hs : (t.group c g).state = (s.group c g).state)
    (hc : (t.group c g).colls = (s.group c g).colls) : Decided c g n v t := by
  obtain ⟨hstate, k, hk, hv⟩ := h
  exact ⟨hs.trans hstate, k, by rw [State.coll?, hc]; exact hk, hv⟩

/-- So does what leaves the number and the verdict of every collective. -/
theorem onColl (h : Decided c g n v s) {f : Coll → Coll} (hseq : ∀ k, (f k).seq = k.seq)
    (hv : ∀ k, k.agree.verdict = some v → (f k).agree.verdict = some v) : Decided c g n v (s.onColl c g n f) := by
  obtain ⟨hstate, k, hk, hkv⟩ := h
  refine ⟨?_, f k, State.coll_onColl s c g n f k hk hseq, hv k hkv⟩
  rw [State.onColl, State.group_onGroup_same]
  exact hstate

theorem engineSend (h : Decided c g n v s) (dst vl : Nat) (b : PacketBody) : Decided c g n v (s.engineSend dst vl b) := by
  have hg : (s.engineSend dst vl b).group c g = s.group c g := by
    rw [State.engineSend]
    rcases State.inject_cases _ _ with e | e <;> rw [e] <;> rfl
  exact h.of_group (by rw [hg]) (by rw [hg])

theorem sendReport (h : Decided c g n v s) (rank rsn : Nat) (form : List Nat) :
    Decided c g n v (s.sendReport c g n rank rsn form) := by
  refine List.foldlRecOn _ _ (motive := Decided c g n v) h fun t ht u _ => ?_
  split
  · exact ht
  · exact ht.engineSend _ _ _

/-- A unit's record of a report leaves the decision. -/
theorem unitRecord (h : Decided c g n v s) (rank : Nat) (rep : UnitReport) : Decided c g n v (s.unitRecord c g n rank rep) := by
  rw [State.unitRecord]
  split
  next => exact h.of_group (by rw [State.group_onGroup_same]) (by rw [State.group_onGroup_same])
  next =>
    rw [if_neg (by rw [h.1]; decide)]
    refine h.onColl (fun _ => rfl) fun k hk => ?_
    show (State.recordAt s _ k.agree rank rep).verdict = some v
    rw [State.recordAt]
    split
    · exact hk
    · exact (Agreement.record_keeps ..).2 v hk

theorem collGo (h : Decided c g n v s) : Decided c g n v (s.collGo c g) :=
  h.of_group (by rw [State.collGo, State.group_onGroup_same]) (by rw [State.collGo, State.group_onGroup_same])

theorem collReport (h : Decided c g n v s) (rank rsn : Nat) : Decided c g n v (s.collReport c g n rank rsn) := by
  have hs : ∀ (b : Bool), Decided c g n v (if b then s.onColl c g n fun k => { k with ended := true } else s) := by
    intro b
    split
    · exact h.onColl (fun _ => rfl) fun _ => id
    · exact h
  rw [State.collReport]
  dsimp only [List.foldl_cons, List.foldl_nil]
  refine collGo (unitRecord (unitRecord (sendReport ?_ rank rsn _) rank _) rank _)
  exact hs _

theorem collDecide (h : Decided c g n v s) (w : Nat × Nat × Nat) : Decided c g n v (s.collDecide c g n w) := by
  rw [State.collDecide, if_neg (by rw [h.1]; decide)]
  exact h.onColl (fun _ => rfl) fun k hk => by rw [Agreement.decide_verdict, hk]

theorem verdict_eq (h : Decided c g n v s) : (s.coll? c g n).map (·.agree.verdict) = some (some v) := by
  obtain ⟨-, k, hk, hv⟩ := h
  rw [hk, Option.map_some, hv]

end Decided

/-! ## What a unit decides (R424) -/

theorem mem_insertBy {α : Type} (key : α → Nat) (a x : α) : ∀ l, x ∈ insertBy key a l ↔ x = a ∨ x ∈ l
  | [] => by simp [insertBy]
  | b :: bs => by
    rw [insertBy]
    split
    · simp
    · rw [List.mem_cons, mem_insertBy key a x bs, List.mem_cons]
      exact or_left_comm

theorem pairwise_insertBy {α : Type} (key : α → Nat) (a : α) : ∀ l, l.Pairwise (fun x y => key x ≤ key y) →
    (insertBy key a l).Pairwise fun x y => key x ≤ key y
  | [], _ => by simp [insertBy]
  | b :: bs, h => by
    obtain ⟨hb, hbs⟩ := List.pairwise_cons.mp h
    rw [insertBy]
    split
    next hlt => exact .cons (fun x hx => by
      rcases List.mem_cons.mp hx with rfl | hx
      · exact hlt.le
      · exact hlt.le.trans (hb x hx)) h
    next hge => exact .cons (fun x hx => by
      rcases (mem_insertBy key a x bs).mp hx with rfl | hx
      · omega
      · exact hb x hx) (pairwise_insertBy key a bs hbs)

/-- Sorting keeps the members, and puts them in order. -/
theorem sortBy_spec {α : Type} (key : α → Nat) (l : List α) :
    (∀ x, x ∈ sortBy key l ↔ x ∈ l) ∧ (sortBy key l).Pairwise fun x y => key x ≤ key y := by
  have hf : ∀ (l acc : List α), acc.Pairwise (fun x y => key x ≤ key y) →
      (∀ x, x ∈ l.foldl (fun acc a => insertBy key a acc) acc ↔ x ∈ l ∨ x ∈ acc) ∧
        (l.foldl (fun acc a => insertBy key a acc) acc).Pairwise fun x y => key x ≤ key y := by
    intro l
    induction l with
    | nil => exact fun acc h => ⟨fun x => by simp, h⟩
    | cons a l ih =>
      intro acc h
      obtain ⟨hmem, hpair⟩ := ih _ (pairwise_insertBy key a acc h)
      refine ⟨fun x => ?_, hpair⟩
      rw [List.foldl_cons, hmem, mem_insertBy, List.mem_cons]
      tauto
  obtain ⟨hmem, hpair⟩ := hf l [] .nil
  exact ⟨fun x => (hmem x).trans (by simp), hpair⟩

/-- The failure of the lowest rank decides. -/
theorem verdictOf_failure {reports : List (Nat × Nat)} {n r x : Nat} (hm : (r, x) ∈ reports) (hx : x ≠ 0)
    (hlow : ∀ q y, (q, y) ∈ reports → y ≠ 0 → r < q ∨ (r = q ∧ x = y)) : verdictOf reports n = some (1, x, r) := by
  obtain ⟨hmem, hpair⟩ := sortBy_spec (·.1) (reports.filter fun r => r.2 != 0)
  have hin : (r, x) ∈ sortBy (·.1) (reports.filter fun r => r.2 != 0) :=
    (hmem _).mpr (List.mem_filter.mpr ⟨hm, bne_iff_ne.mpr hx⟩)
  rw [verdictOf]
  cases hs : sortBy (·.1) (reports.filter fun r => r.2 != 0) with
  | nil => rw [hs] at hin; cases hin
  | cons e es =>
    obtain ⟨q, y⟩ := e
    have he : (q, y) ∈ reports.filter fun r => r.2 != 0 := (hmem _).mp (hs ▸ List.mem_cons_self)
    obtain ⟨heq, hy⟩ := List.mem_filter.mp he
    have hle : q ≤ r := by
      rw [hs] at hin hpair
      rcases List.mem_cons.mp hin with h | h
      · exact (congrArg Prod.fst h).ge
      · exact (List.pairwise_cons.mp hpair).1 _ h
    rcases hlow q y heq (bne_iff_ne.mp hy) with h | ⟨rfl, rfl⟩
    · omega
    · rfl

/-- Of completions alone, those of all members decide. -/
theorem verdictOf_completion {reports : List (Nat × Nat)} {n : Nat} (h : ∀ r x, (r, x) ∈ reports → x = 0 ∧ r < n) (hn : 0 < n) :
    verdictOf reports n = if ∀ r, r < n → (r, 0) ∈ reports then some (0, 0, 0x3FFFF) else none := by
  have hnone : (reports.filter fun r => r.2 != 0) = [] := by
    rw [List.filter_eq_nil_iff]
    intro e he
    simp [(h e.1 e.2 he).1]
  have hsub : (reports.map (·.1)).toFinset ⊆ Finset.range n := by
    intro r hr
    obtain ⟨e, he, rfl⟩ := List.mem_map.mp (List.mem_toFinset.mp hr)
    exact Finset.mem_range.mpr (h e.1 e.2 he).2
  have hall : (nubNat (reports.map (·.1))).length = n ↔ ∀ r, r < n → (r, 0) ∈ reports := by
    rw [(nubNat_perm_dedup _).length_eq, ← List.card_toFinset]
    constructor
    · intro hc r hr
      have heq : (reports.map (·.1)).toFinset = Finset.range n :=
        Finset.eq_of_subset_of_card_le hsub (by rw [Finset.card_range, hc])
      have hr' : r ∈ (reports.map (·.1)).toFinset := heq ▸ Finset.mem_range.mpr hr
      obtain ⟨⟨q, y⟩, he, rfl⟩ := List.mem_map.mp (List.mem_toFinset.mp hr')
      have := (h q y he).1
      subst this
      exact he
    · intro hr
      have heq : (reports.map (·.1)).toFinset = Finset.range n :=
        hsub.antisymm fun r hm => List.mem_toFinset.mpr (List.mem_map.mpr ⟨(r, 0), hr r (Finset.mem_range.mp hm), rfl⟩)
      rw [heq, Finset.card_range]
  have hpos : decide (n ≠ 0) = true := decide_eq_true (by omega)
  rw [verdictOf, hnone]
  show (if (decide (_ = n) && decide (n ≠ 0)) = true then _ else _) = _
  rw [hpos, Bool.and_true]
  simp only [decide_eq_true_eq, hall]
  rfl

/-- What a unit whose reports are rs delivers of an agreement, for n members. -/
def Agreement.ruling (a : Agreement) (alone : Bool) (n u : Nat) (rs : List (Nat × Nat × Nat)) : Agreement :=
  match verdictOf ((rs.filter fun r => r.1 == u).map (·.2)) n with
  | none => { a with reports := rs }
  | some v => match a.ruled with
    | none => { a with reports := rs, ruled := some (u, v), verdict := if alone then some v else none }
    | some w => { a with reports := rs, verdict := if alone || w.1 != u then some w.2 else none }

/-- The form that a unit has heard first, kept. -/
def Agreement.heardForms (a : Agreement) (rep : UnitReport) : List (Nat × List Nat) :=
  if rep.form ≠ [] ∧ (a.forms.find? fun f => f.1 == rep.unit).map (·.2) = none then a.forms ++ [(rep.unit, rep.form)] else a.forms

/-- A report is taken with reason x where it is one, nothing is decided, and it adds to what its rank has reported. -/
theorem record_eq (a : Agreement) (alone : Bool) (n rank : Nat) (rep : UnitReport) {x : Nat}
    (hx : x = if rep.form ≠ [] ∧ ((a.forms.find? fun f => f.1 == rep.unit).map (·.2)).any (· != rep.form) = true then 4 else rep.rsn) :
    let skips := x = 256 ∨ a.verdict ≠ none ∨ ∃ y, (rep.unit, rank, y) ∈ a.reports ∧ (y ≠ 0 ∨ x = 0)
    let heard := { a with forms := Agreement.heardForms a rep }
    (skips → a.record alone n rank rep = heard) ∧
      (¬ skips → a.record alone n rank rep = Agreement.ruling heard alone n rep.unit (a.reports ++ [(rep.unit, rank, x)])) := by
  intro skips heard
  have hforms : (if (rep.form = [] || ((a.forms.find? fun f => f.1 == rep.unit).map (·.2)).isSome) = true then a
      else { a with forms := a.forms ++ [(rep.unit, rep.form)] }) = { a with forms := Agreement.heardForms a rep } := by
    rw [Agreement.heardForms]
    cases (a.forms.find? fun f => f.1 == rep.unit).map (·.2) <;> by_cases hf : rep.form = [] <;> simp [hf]
  have hskip : ((decide (x = 256) || a.verdict.isSome ||
      a.reports.any fun r => r.1 == rep.unit && r.2.1 == rank && (r.2.2 != 0 || x == 0)) = true) ↔
      (x = 256 ∨ a.verdict ≠ none ∨ ∃ y, (rep.unit, rank, y) ∈ a.reports ∧ (y ≠ 0 ∨ x = 0)) := by
    simp only [Bool.or_eq_true, decide_eq_true_eq, List.any_eq_true, Bool.and_eq_true, beq_iff_eq, bne_iff_ne, or_assoc,
      ← Option.isSome_iff_ne_none]
    refine or_congr Iff.rfl (or_congr Iff.rfl ⟨?_, ?_⟩)
    · rintro ⟨⟨u, q, y⟩, hm, ⟨rfl, rfl⟩, hy⟩
      exact ⟨y, hm, hy⟩
    · rintro ⟨y, hm, hy⟩
      exact ⟨_, hm, ⟨rfl, rfl⟩, hy⟩
  have hr : (if (rep.form ≠ [] && ((a.forms.find? fun f => f.1 == rep.unit).map (·.2)).any (· != rep.form)) = true
      then 4 else rep.rsn) = x := by
    rw [hx]
    simp
  rw [Agreement.record]
  simp only [hforms, hr]
  refine ⟨fun hs => if_pos (hskip.mpr hs), fun hs => (if_neg fun h => hs (hskip.mp h)).trans ?_⟩
  rw [Agreement.ruling] <;> rfl

theorem ruling_forms (a : Agreement) (alone : Bool) (n u : Nat) (rs : List (Nat × Nat × Nat)) :
    (Agreement.ruling a alone n u rs).forms = a.forms := by
  rw [Agreement.ruling]
  split
  · rfl
  · split <;> rfl

/-- A report that a unit takes, and what it decides with it. -/
theorem record_spec (a : Agreement) (alone : Bool) (n rank : Nat) (rep : UnitReport) :
    let u := rep.unit
    let heard := (a.forms.find? fun f => f.1 == u).map (·.2)
    let x := if rep.form ≠ [] ∧ heard.any (· != rep.form) = true then 4 else rep.rsn
    let b := a.record alone n rank rep
    let rs := a.reports ++ [(u, rank, x)]
    let mine := (rs.filter fun r => r.1 == u).map (·.2)
    b.forms = (if rep.form ≠ [] ∧ heard = none then a.forms ++ [(u, rep.form)] else a.forms) ∧
    (x = 256 ∨ a.verdict ≠ none ∨ (∃ y, (u, rank, y) ∈ a.reports ∧ (y ≠ 0 ∨ x = 0)) → b = { a with forms := b.forms }) ∧
    (x ≠ 256 → a.verdict = none → (∀ y, (u, rank, y) ∈ a.reports → y = 0 ∧ x ≠ 0) → b.reports = rs ∧
      (verdictOf mine n = none → b.ruled = a.ruled ∧ b.verdict = none) ∧
      (∀ v, verdictOf mine n = some v →
        (a.ruled = none → b.ruled = some (u, v) ∧ b.verdict = if alone then some v else none) ∧
        (∀ w, a.ruled = some w → b.ruled = some w ∧ b.verdict = if alone ∨ w.1 ≠ u then some w.2 else none))) := by
  intro u heard x b rs mine
  obtain ⟨hskips, htakes⟩ := record_eq a alone n rank rep (x := x) rfl
  have hforms : b.forms = Agreement.heardForms a rep := by
    by_cases hs : x = 256 ∨ a.verdict ≠ none ∨ ∃ y, (u, rank, y) ∈ a.reports ∧ (y ≠ 0 ∨ x = 0)
    · rw [show b = _ from hskips hs]
    · rw [show b = _ from htakes hs, ruling_forms]
  refine ⟨hforms, fun hs => ?_, fun hx hv hrs => ?_⟩
  · rw [hforms]
    exact hskips hs
  · have hnot : ¬ (x = 256 ∨ a.verdict ≠ none ∨ ∃ y, (u, rank, y) ∈ a.reports ∧ (y ≠ 0 ∨ x = 0)) := by
      rintro (h | h | ⟨y, hm, h⟩)
      · exact hx h
      · exact h hv
      · obtain ⟨hy, hx0⟩ := hrs y hm
        exact h.elim (fun h => h hy) hx0
    have hrul : b = Agreement.ruling { a with forms := Agreement.heardForms a rep } alone n u rs := htakes hnot
    rw [hrul, Agreement.ruling]
    refine ⟨?_, fun hnone => ?_, fun v hsome => ⟨fun hr => ?_, fun w hr => ?_⟩⟩
    · split
      · rfl
      · split <;> rfl
    · rw [show verdictOf _ n = none from hnone]
      exact ⟨rfl, hv⟩
    · rw [show verdictOf _ n = some v from hsome]
      simp only [hr, true_and]
    · rw [show verdictOf _ n = some v from hsome]
      simp only [hr, Bool.or_eq_true, bne_iff_ne, true_and]

/-! ## Reductions (R421) -/

/-- A sum of floats with a NaN is the canonical NaN. -/
theorem reduceElem_nan {ty : Nat} {xs : List Nat} (ht : ty < 3) (h : ∃ x, x ∈ xs ∧ (cdFmt ty).isNaN x = true) :
    reduceElem ty 0 xs = (cdFmt ty).cnan := by
  have hn : xs.any (cdFmt ty).isNaN = true := List.any_eq_true.mpr h
  cases xs with
  | nil => cases hn
  | cons y ys =>
    refine (if_pos ht).trans ((if_pos rfl).trans ?_)
    rw [sumFloat, hn]
    rfl

/-- A sum of integers wraps. -/
theorem reduceElem_sum {ty : Nat} (xs : List Nat) (ht : 3 ≤ ty) : reduceElem ty 0 xs = xs.sum % 2 ^ 32 := by
  cases xs with
  | nil => rfl
  | cons y ys =>
    refine (if_neg (by omega)).trans ((if_pos rfl).trans ?_)
    rw [← List.sum_eq_foldl]

/-- Keeping the smaller, one by one, gives a number that is at most each. -/
theorem foldl_min_le (ys : List Nat) : ∀ y x, x ∈ y :: ys → ys.foldl (fun a x => if x < a then x else a) y ≤ x := by
  induction ys with
  | nil => intro y x hx; rw [List.mem_singleton.mp hx]; exact le_refl _
  | cons z zs ih =>
    intro y x hx
    have hz := ih (if z < y then z else y)
    rcases List.mem_cons.mp hx with rfl | hx
    · refine (hz _ List.mem_cons_self).trans ?_
      split <;> omega
    · rcases List.mem_cons.mp hx with rfl | hx
      · refine (hz _ List.mem_cons_self).trans ?_
        split <;> omega
      · exact hz x (List.mem_cons_of_mem _ hx)

/-- Keeping the greater, one by one, gives a number that is at least each. -/
theorem le_foldl_max (ys : List Nat) : ∀ y x, x ∈ y :: ys → x ≤ ys.foldl (fun a x => if a < x then x else a) y := by
  induction ys with
  | nil => intro y x hx; rw [List.mem_singleton.mp hx]; exact le_refl _
  | cons z zs ih =>
    intro y x hx
    have hz := ih (if y < z then z else y)
    rcases List.mem_cons.mp hx with rfl | hx
    · refine le_trans ?_ (hz _ List.mem_cons_self)
      split <;> omega
    · rcases List.mem_cons.mp hx with rfl | hx
      · refine le_trans ?_ (hz _ List.mem_cons_self)
        split <;> omega
      · exact hz x (List.mem_cons_of_mem _ hx)

/-- The minimum and the maximum of unsigned elements. -/
theorem reduceElem_unsigned (y : Nat) (ys : List Nat) :
    reduceElem 4 1 (y :: ys) = ys.foldl (fun a x => if x < a then x else a) y ∧
      reduceElem 4 2 (y :: ys) = ys.foldl (fun a x => if a < x then x else a) y := by
  constructor <;> simp [reduceElem]

/-- Settles O50: a decision by what each step leaves of it, a unit's decision by its reports, a reduction by its operation. -/
theorem collectiveResults : Obligations.CollectiveResults := by
  refine ⟨?_, fun reports n => ⟨fun r x => verdictOf_failure, verdictOf_completion⟩, record_spec,
    fun ty xs ht _ h => reduceElem_nan ht h, fun ty xs => reduceElem_sum xs, ?_⟩
  · intro s c g n k v hk hstate hv
    have h : Decided c g n v s := ⟨hstate, k, hk, hv⟩
    exact ⟨fun rank rsn => (h.collReport rank rsn).verdict_eq, fun w => (h.collDecide w).verdict_eq⟩
  · intro xs x hx
    cases xs with
    | nil => cases hx
    | cons y ys =>
      obtain ⟨hmin, hmax⟩ := reduceElem_unsigned y ys
      rw [hmin, hmax]
      exact ⟨foldl_min_le ys y x hx, le_foldl_max ys y x hx⟩

end Sys2Proof.Proofs
end

section
/-! SUPPORT. The steps of a collective (R420-R426). -/

namespace Sys2Proof.Proofs

open Sys2Proof.Machine Sys2Proof.Safety

/-! ## The engine's part (R420-R423) -/

/-- The contributions that the engine has: those of the event, and what the other ranks have pushed. -/
def collInputs (s : State) (c g n d r : Nat) (xs : List (List Nat)) : List (List Nat) :=
  let N := (s.group c g).members.length
  (List.range N).map fun q => match xs[q]? with
    | some (y :: ys) => y :: ys
    | _ => if contributes d q then pushed (s.group c g).inbox n d N q r else []

/-- A collective in hand whose operation is the one named. -/
theorem runColl_eq {s : State} {c g n op r : Nat} {xs : List (List Nat)} {k : Coll} (hk : s.coll? c g n = some k)
    (hr : s.ownRank c g = some r) (hs : (s.group c g).state = 2) (hop : cdOp k.desc.toNat = op)
    (hh : (s.group c g).inHand.map (·.seq) = some k.seq) :
    s.runColl c g n op xs =
      let d := k.desc.toNat
      let N := (s.group c g).members.length
      let all := collInputs s c g n d r xs
      if contributes d r then
        match s.ownElems c (cdSrc d) (cdReads d N) (cdSize d) with
        | (.ok ys, u) =>
          if Machine.arrived d N r all then (u.pushData c g n d r ys).collFinish c g n r d N (all.set r ys) else u.pushData c g n d r ys
        | (.error a, u) => u.collFault c g n 4 a
      else if Machine.arrived d N r all then s.collFinish c g n r d N all
      else s := by
  rw [State.runColl]
  simp only [hk, hr, hs, hop, hh, ne_eq, not_true_eq_false, decide_false, Bool.or_self, Bool.false_eq_true, if_false] <;> rfl

/-- The engine writes DST whole, and reports completion. -/
theorem collFinish_of_write {s u : State} {c g n r d N w : Nat} {all : List (List Nat)} {bs : List Byte}
    (hb : bs = ((collResult d N r all).map fun x => toBytes x (cdSize d)).flatten) (hl : cdDst d + bs.length ≤ 2 ^ 45)
    (hw : s.ownWrite c (cdDst d) bs (List.range (if bs = [] then 0 else (cdDst d % 128 + bs.length + 127) / 128)) 0 = (none, w, u)) :
    s.collFinish c g n r d N all = (u.onColl c g n fun k => { k with wct := max k.wct w }).collReport c g n r 0 := by
  rw [State.collFinish, ← hb]
  simp only [if_neg (Nat.not_lt.mpr hl), List.isEmpty_iff, hw]

/-- An element of lists of one length, joined. -/
theorem getElem_flatten_of_length {α : Type} {n : Nat} : ∀ {xss : List (List α)} {q k : Nat} {xs : List α},
    (∀ ys, ys ∈ xss → ys.length = n) → xss[q]? = some xs → k < n → xss.flatten[q * n + k]? = xs[k]?
  | [], _, _, _, _, hq, _ => by cases hq
  | ys :: yss, 0, k, xs, hlen, hq, hk => by
    obtain rfl : ys = xs := by simpa using hq
    rw [List.flatten_cons, Nat.zero_mul, Nat.zero_add, List.getElem?_append_left (by rw [hlen ys List.mem_cons_self]; exact hk)]
  | ys :: yss, q + 1, k, xs, hlen, hq, hk => by
    have hy := hlen ys List.mem_cons_self
    have ih := getElem_flatten_of_length (q := q) (fun zs hz => hlen zs (List.mem_cons_of_mem _ hz)) (by simpa using hq) hk
    have hi : (q + 1) * n + k - n = q * n + k := by rw [Nat.succ_mul]; omega
    rw [List.flatten_cons, List.getElem?_append_right (by rw [hy, Nat.succ_mul]; omega), hy, hi, ih]

/-- What a collective gives, element by element (R420). -/
theorem collResult_spec (d N r : Nat) (all : List (List Nat)) (k : Nat) (hk : k < cdCount d) :
    let at_ := fun q j => (((all[q]?).getD [])[j]?).getD 0
    (cdOp d = 1 → collResult d N r all = (all[cdRoot d]?).getD []) ∧
    (cdOp d = 2 → (collResult d N r all)[k]? = some (reduceElem (cdType d) (cdRed d) ((List.range N).map fun q => at_ q k))) ∧
    (cdOp d = 3 → (collResult d N r all)[k]? =
      some (reduceElem (cdType d) (cdRed d) ((List.range N).map fun q => at_ q (r * cdCount d + k)))) ∧
    (cdOp d = 4 → all.length = N → (∀ xs, xs ∈ all → xs.length = cdCount d) → ∀ q xs, all[q]? = some xs →
      (collResult d N r all)[q * cdCount d + k]? = xs[k]?) ∧
    (cdOp d = 0 → collResult d N r all = []) := by
  intro at_
  refine ⟨fun h => ?_, fun h => ?_, fun h => ?_, fun h hN hlen q xs hq => ?_, fun h => ?_⟩
  · simp only [collResult, h]
  · simp only [collResult, h, List.getElem?_map, List.getElem?_range hk, Option.map_some, at_]
  · simp only [collResult, h, List.getElem?_map, List.getElem?_range hk, Option.map_some, at_]
  · have hall : ((List.range N).map fun q => (all[q]?).getD []) = all := by
      subst hN
      refine List.ext_getElem (by simp) fun i h1 h2 => ?_
      simp [List.getElem?_eq_getElem h2]
    simp only [collResult, h, hall]
    exact getElem_flatten_of_length hlen hq hk
  · simp only [collResult, h]

/-! ## Reports, deadlines and the status word (R422, R424-R426) -/

/-- The report of a member enters the agreement where its rank is one and its unit is in reach. -/
theorem recordAt_eq (s : State) (k : Group) (a : Agreement) (rank : Nat) (rep : UnitReport) :
    s.recordAt k a rank rep =
      if k.members.length ≤ rank ∨ (if rep.unit = 0 then k.units.1 else k.units.2) ∈ s.cutOff then a
      else a.record (decide (k.units.1 ∈ s.cutOff ∨ k.units.2 ∈ s.cutOff)) k.members.length rank rep := by
  have hone : s.oneUnit k = decide (k.units.1 ∈ s.cutOff ∨ k.units.2 ∈ s.cutOff) := by
    rw [State.oneUnit, Bool.eq_iff_iff]
    simp
  rw [State.recordAt, hone, Group.unit]
  simp only [Bool.or_eq_true, decide_eq_true_eq, List.contains_iff_mem]

/-- A number below 2^k over one of its multiples, taken apart. -/
theorem statusWord_fields {code rsn seq lost : Nat} (hc : code < 2 ^ 8) (hr : rsn < 2 ^ 8) (hs : seq < 2 ^ 16) (hl : lost < 2 ^ 18) :
    let w : DWord := BitVec.ofNat 64 (statusWord code rsn seq lost)
    w.extractLsb' 0 8 = BitVec.ofNat 8 code ∧ w.extractLsb' 8 8 = BitVec.ofNat 8 rsn ∧ w.extractLsb' 16 16 = BitVec.ofNat 16 seq ∧
    w.extractLsb' 32 18 = BitVec.ofNat 18 lost ∧ w.extractLsb' 50 13 = 0 ∧ w.getLsbD 63 = true := by
  have hw : (BitVec.ofNat 64 (statusWord code rsn seq lost)).toNat =
      2 ^ 63 + lost * 2 ^ 32 + seq * 2 ^ 16 + rsn * 2 ^ 8 + code := by
    rw [BitVec.toNat_ofNat, statusWord]
    omega
  have hext : ∀ {k m x : Nat}, (2 ^ 63 + lost * 2 ^ 32 + seq * 2 ^ 16 + rsn * 2 ^ 8 + code) / 2 ^ k % 2 ^ m = x % 2 ^ m →
      (BitVec.ofNat 64 (statusWord code rsn seq lost)).extractLsb' k m = BitVec.ofNat m x := by
    intro k m x h
    apply BitVec.eq_of_toNat_eq
    rw [BitVec.extractLsb'_toNat, hw, Nat.shiftRight_eq_div_pow, BitVec.toNat_ofNat, h]
  refine ⟨hext ?_, hext ?_, hext ?_, hext ?_, hext (x := 0) ?_, ?_⟩
  · omega
  · omega
  · omega
  · omega
  · omega
  · rw [BitVec.getLsbD, hw, Nat.testBit_eq_decide_div_mod_eq]
    exact decide_eq_true (by omega)

/-- A collective is found under its number. -/
theorem seq_of_coll {s : State} {c g n : Nat} {k : Coll} (h : s.coll? c g n = some k) : k.seq = n % 2 ^ 16 := by
  rw [State.coll?] at h
  exact beq_iff_eq.mp (List.find?_some h :)

/-- Once its entry is taken out, no collective of that number is found. -/
theorem coll_none_of_removed {s : State} {c g n : Nat} {f : Group → Group} {m : Nat} (hm : m = n % 2 ^ 16)
    (hf : ∀ q, (f q).colls = q.colls.filter fun e => e.seq != m) : (s.onGroup c g f).coll? c g n = none := by
  rw [State.coll?, State.group_onGroup_same, hf, List.find?_eq_none]
  intro e he
  have hne : e.seq ≠ n % 2 ^ 16 := hm ▸ bne_iff_ne.mp (List.mem_filter.mp he).2
  exact fun h => hne (beq_iff_eq.mp h)

/-- Settles O49, step by step. -/
theorem collectiveEvents : Obligations.CollectiveEvents := by
  refine ⟨fun c g n s => rfl, fun c g n xs s => ⟨rfl, rfl, rfl, rfl⟩, ?_, ?_, collResult_spec, ?_, ?_, ?_,
    fun code rsn seq lost => statusWord_fields, ?_⟩
  · intro s c g n op xs k r hk hr d ms N all hs hop hh
    have hrun := runColl_eq (xs := xs) hk hr hs hop hh
    have hall : collInputs s c g n d r xs = all := by
      rw [collInputs] <;> rfl
    clear_value all
    subst hall
    have hno : ∀ {b : Bool}, b = false → ¬ b = true := fun h => by rw [h]; exact Bool.false_ne_true
    refine ⟨fun hc ha => ?_, fun hc ha => ?_, fun ys u hc hu => ?_, fun a u hc hu => ?_⟩
    · exact hrun.trans ((if_neg (hno hc)).trans (if_pos ha))
    · exact hrun.trans ((if_neg (hno hc)).trans (if_neg (hno ha)))
    · rw [hrun]
      refine ⟨fun ha => (if_pos hc).trans ?_, fun ha => (if_pos hc).trans ?_⟩ <;> rw [hu]
      · exact if_pos ha
      · exact if_neg (hno ha)
    · rw [hrun]
      exact (if_pos hc).trans (by rw [hu])
  · intro s c g n r d N all w u bs lines hl hw
    exact collFinish_of_write rfl hl hw
  · intro c g n rank rep s k j i
    refine ⟨fun ha => ?_, fun ha hs => ?_, fun ha hs => ?_, fun a => recordAt_eq s k a rank rep⟩
    · exact congrArg Host.Outcome.next (if_pos ha)
    · exact congrArg Host.Outcome.next ((if_neg (by rw [ha]; exact Bool.false_ne_true)).trans (if_neg (by rw [hs]; decide)))
    · exact congrArg Host.Outcome.next ((if_neg (by rw [ha]; exact Bool.false_ne_true)).trans (if_pos hs))
  · intro c g n s k hs hk
    have hstate : (s.group c g).state ≠ 1 := by rw [hs]; decide
    have hstart : s.startedAt c g n = some k.start := by rw [State.startedAt, if_neg hstate, hk]; rfl
    refine ⟨fun hlone => ?_, fun hlone => ?_, fun hv => ?_, ?_⟩
    · show Host.Outcome.next _ = _
      rw [hstart]
      simp only [hlone, Option.isSome_none, Bool.false_eq_true, if_false, State.collDecide]
      rw [if_neg (by exact hstate)]
      rfl
    · show Host.Outcome.next _ = _
      rw [hstart]
      simp only [if_pos (Option.isSome_iff_ne_none.mpr hlone)]
    · show Host.Outcome.next _ = _
      rw [if_neg hstate, hk]
      simp only [State.writeStatus, hv]
    · intro v hv word u
      refine ⟨?_, coll_none_of_removed (s := s.waitUntil k.wct) (seq_of_coll hk) fun _ => rfl⟩
      show Host.Outcome.next _ = _
      rw [if_neg hstate, hk]
      simp only [State.writeStatus, hv]
      rfl
  · intro c g n s k hk hs
    subst hk
    have hstart : s.startedAt c g n = some (s.group c g).start := by rw [State.startedAt, if_pos hs]
    refine ⟨fun hlone => ?_, fun hlone => ?_, fun hv => ?_, ?_⟩
    · show Host.Outcome.next _ = _
      rw [hstart]
      simp only [hlone, Option.isSome_none, Bool.false_eq_true, if_false, State.collDecide]
      rw [if_pos (by exact hs)]
      rfl
    · show Host.Outcome.next _ = _
      rw [hstart]
      simp only [if_pos (Option.isSome_iff_ne_none.mpr hlone)]
    · show Host.Outcome.next _ = _
      rw [if_pos hs]
      simp only [State.writeFormation, hv]
    · intro v hv word u
      show Host.Outcome.next _ = _
      rw [if_pos hs]
      simp only [State.writeFormation, hv]
      rfl
  · intro c g n peers s k start u adopts
    have hstart : ((s.startedAt c g n).getD 0) = start := by
      rw [State.startedAt]
      simp only [start]
      split <;> rfl
    have hu : s.waitUntil (s.askAt ((s.group c g).lone.getD s.gtc) ((s.startedAt c g n).getD 0)) = u := by
      rw [hstart]
      rfl
    have hadopts : ∀ v, u.collDecide c g n v = adopts v := fun v => rfl
    have hbits : ∀ (w : DWord), (bitsOf w 7 0, bitsOf w 15 8, bitsOf w 49 32) =
        (w.toNat % 2 ^ 8, w.toNat / 2 ^ 8 % 2 ^ 8, w.toNat / 2 ^ 32 % 2 ^ 18) := by
      intro w
      simp only [bitsOf, bitsAt_eq, pow_zero, Nat.div_one]
    refine ⟨fun w => ?_, fun hp => ?_, fun hp => ?_⟩
    · show Host.Outcome.next _ = _
      rw [hu, ← hbits, ← hadopts]
    · show Host.Outcome.next _ = _
      rw [hu, ← hadopts]
      exact congrArg Host.Outcome.next (congrArg (u.collDecide c g n) (if_neg hp))
    · show Host.Outcome.next _ = _
      rw [hu, ← hadopts]
      exact congrArg Host.Outcome.next (congrArg (u.collDecide c g n) (if_pos hp))

end Sys2Proof.Proofs
end

section
/-! SUPPORT. The two invariants of the machine: memory is canonical (R17), and a freed register reads zero (R52). Each is taken under a
hypothesis of its own, so that one lemma per operation serves both. -/

namespace Sys2Proof.Proofs

open Sys2Proof.Machine Sys2Proof.Safety

set_option Elab.async false

/-! ## Packs in which a freed register reads zero -/

theorem freed_of_eq {p q : Pack} (h : FreedReadZero p) (hv : q.vregs = p.vregs) (hl : q.live = p.live) : FreedReadZero q := by
  intro r hr hlive
  rw [Pack.v, hv]
  exact h r hr (by rw [Pack.isLive, ← hl]; exact hlive)

theorem freed_setV {p : Pack} (h : FreedReadZero p) (d : Nat) (x : Lanes) : FreedReadZero (p.setV d x) := by
  intro r hr hlive
  simp only [Pack.isLive, Pack.setV, BitVec.getLsbD_or, dw_bit d r hr, Bool.or_eq_false_iff, decide_eq_false_iff_not] at hlive
  obtain ⟨hlive, hne⟩ := hlive
  rw [v_setV, if_neg fun e => hne e.symm]
  exact h r hr hlive

theorem freed_freeV {p : Pack} (h : FreedReadZero p) (d : Nat) : FreedReadZero (p.freeV d) := by
  intro r hr hlive
  have hv : (p.freeV d).v r = if r = d then 0 else p.v r := by
    rw [Pack.v, Pack.v, Pack.freeV, zero_get]
  rw [hv]
  split
  · rfl
  next hne =>
    have hl : (p.freeV d).isLive r = p.isLive r := by
      rw [Pack.isLive, Pack.freeV, BitVec.getLsbD_and, BitVec.getLsbD_not, dw_bit d r hr, decide_eq_true hr,
        decide_eq_false fun e : d = r => hne e.symm, Bool.not_false, Bool.and_self, Bool.and_true]
      rfl
    exact h r hr (hl ▸ hlive)

theorem freed_foldl {α : Type} {f : Pack → α → Pack} (hf : ∀ q x, FreedReadZero q → FreedReadZero (f q x)) (l : List α) :
    ∀ {p}, FreedReadZero p → FreedReadZero (l.foldl f p) := by
  induction l with
  | nil => exact id
  | cons x l ih => exact fun h => ih (hf _ x h)

theorem freed_freeAll {p : Pack} (h : FreedReadZero p) (rs : List Nat) : FreedReadZero (p.freeAll rs) :=
  freed_foldl (fun _ r hq => freed_freeV hq r) rs h

theorem freed_noteReads {p : Pack} (h : FreedReadZero p) (rs : List Nat) : FreedReadZero (p.noteReads rs) := by
  rw [Pack.noteReads]
  split
  · exact h
  · exact freed_of_eq h rfl rfl

theorem freed_consume {p : Pack} (h : FreedReadZero p) (i : Instr) : FreedReadZero (p.consume i) :=
  freed_freeAll (freed_noteReads h _) _

theorem freed_writeV {p : Pack} (h : FreedReadZero p) (m : DWord) (d : Nat) (x : Lanes) : FreedReadZero (p.writeV m d x) := by
  rw [Pack.writeV]
  split
  · exact h
  · exact freed_setV h _ _

theorem freed_writeLanes {p : Pack} (h : FreedReadZero p) (w : Bool) (m : DWord) (d : Nat) (f : Nat → Nat) :
    FreedReadZero (p.writeLanes w m d f) := by
  rw [Pack.writeLanes]
  have hu := freed_writeV h m d (ofLanes fun l => BitVec.ofNat 32 (f l))
  split
  · exact freed_writeV hu _ _ _
  · exact hu

theorem freed_landOp {p : Pack} (h : FreedReadZero p) (o : Op) : FreedReadZero (p.landOp o) := by
  rw [Pack.landOp]
  split
  · exact h
  · exact freed_writeV h _ _ _
  · exact freed_writeV (freed_writeV h _ _ _) _ _ _

theorem freed_landS {p : Pack} (h : FreedReadZero p) (o : Op) : FreedReadZero (p.landS o) := by
  rw [Pack.landS]
  split
  · exact freed_of_eq h rfl rfl
  · exact h

/-- A deferred fault leaves the registers. -/
theorem freed_defer {p : Pack} (h : FreedReadZero p) (fpc : DWord) (c r l : Nat) (a x : DWord) (d : Nat) (ls : List (Nat × DWord)) :
    FreedReadZero (p.defer fpc c r l a x d ls) := by
  rw [Pack.defer]
  split <;> exact freed_of_eq h rfl rfl

theorem freed_deferAll {p : Pack} (h : FreedReadZero p) (fpc : DWord) (c r : Nat) (a x : DWord) (d : Nat) :
    FreedReadZero (p.deferAll fpc c r a x d) := freed_defer h _ _ _ _ _ _ _ _

theorem freed_deferLanes {p : Pack} (h : FreedReadZero p) (fpc : DWord) (fs : List (Nat × Nat × Nat × Nat)) :
    FreedReadZero (p.deferLanes fpc fs) := by
  rw [Pack.deferLanes]
  refine freed_foldl (fun q k hq => ?_) _ h
  dsimp only
  split
  · exact hq
  · exact freed_defer hq _ _ _ _ _ _ _ _

theorem freed_deferTile {p : Pack} (h : FreedReadZero p) (r n : Nat) (ls : List (Nat × Nat)) : FreedReadZero (p.deferTile r n ls) := by
  unfold Pack.deferTile
  split
  · exact h
  · exact freed_defer h _ _ _ _ _ _ _ _

theorem freed_deferTileEcc {p : Pack} (h : FreedReadZero p) (n : Nat) (ls : List Nat) : FreedReadZero (p.deferTileEcc n ls) := by
  unfold Pack.deferTileEcc
  split
  · exact h
  · exact freed_defer h _ _ _ _ _ _ _ _

theorem freed_deferTileAll {p : Pack} (h : FreedReadZero p) (r n c : Nat) : FreedReadZero (p.deferTileAll r n c) := freed_deferAll h _ _ _ _ _ _

theorem freed_deferTileEccAll {p : Pack} (h : FreedReadZero p) (n : Nat) : FreedReadZero (p.deferTileEccAll n) := freed_deferAll h _ _ _ _ _ _

theorem freed_deferLift {p : Pack} (h : FreedReadZero p) (n o g : Nat) : FreedReadZero (p.deferLift n o g) := freed_deferAll h _ _ _ _ _ _

theorem freed_deferAcc {p : Pack} (h : FreedReadZero p) (n : Nat) (cs : List (Nat × Nat)) : FreedReadZero (p.deferAcc n cs) := by
  rw [Pack.deferAcc]
  split
  · exact h
  · exact freed_defer h _ _ _ _ _ _ _ _

theorem freed_deferEcc {p : Pack} (h : FreedReadZero p) (fpc : DWord) (r : Nat) (m : DWord) : FreedReadZero (p.deferEcc fpc r m) := by
  rw [Pack.deferEcc]
  split
  · exact h
  · exact freed_defer h _ _ _ _ _ _ _ _

theorem freed_wakeHold {p : Pack} (h : FreedReadZero p) (now : Nat) : FreedReadZero (p.wakeHold now) := by
  rw [Pack.wakeHold]
  split
  · split
    · exact freed_of_eq h rfl rfl
    · exact h
  · exact h

/-- A pack that has just been made holds nothing. -/
theorem freed_default : FreedReadZero {} := fun _ _ _ => rfl

/-! ## The state -/

/-- Under a, memory is canonical; under b, a freed register reads zero in every pack. -/
structure Tidy (a b : Prop) (s : State) : Prop where
  mem : a → MemoryWf s
  pk : b → FreedReadZero s.pk
  packs : b → ∀ p ∈ s.packs, FreedReadZero p

section
variable {a b : Prop} {s : State}

/-- A state as tidy as a tidy one. -/
theorem Tidy.of_eq (h : Tidy a b s) {t : State} (h0 : t.hbm = s.hbm := by rfl) (h1 : t.pk = s.pk := by rfl)
    (h2 : t.packs = s.packs := by rfl) : Tidy a b t :=
  ⟨fun ha => by rw [MemoryWf, h0]; exact h.mem ha, fun hb => by rw [h1]; exact h.pk hb, fun hb => by rw [h2]; exact h.packs hb⟩

/-- What a member of a pair is, its equation gives. -/
theorem Tidy.of_snd {α : Type} {r : α × State} {x : α} {t : State} (h : Tidy a b r.2) (e : r = (x, t)) : Tidy a b t := by
  rw [e] at h
  exact h

/-- Another memory that is canonical. -/
theorem Tidy.of_hbm (h : Tidy a b s) {t : State} (h0 : MemoryWf s → MemoryWf t) (h1 : t.pk = s.pk) (h2 : t.packs = s.packs) : Tidy a b t :=
  ⟨fun ha => h0 (h.mem ha), fun hb => by rw [h1]; exact h.pk hb, fun hb => by rw [h2]; exact h.packs hb⟩

/-- Another issuing pack in which freed registers read zero. -/
theorem Tidy.of_pk (h : Tidy a b s) {t : State} (h0 : t.hbm = s.hbm) (h1 : FreedReadZero s.pk → FreedReadZero t.pk)
    (h2 : t.packs = s.packs) : Tidy a b t :=
  ⟨fun ha => by rw [MemoryWf, h0]; exact h.mem ha, fun hb => h1 (h.pk hb), fun hb => by rw [h2]; exact h.packs hb⟩

theorem Tidy.setPk (h : Tidy a b s) {q : Pack} (hq : FreedReadZero s.pk → FreedReadZero q) : Tidy a b { s with pk := q } :=
  h.of_pk rfl hq rfl

/-- What the memory system does in the background. -/
theorem Tidy.background (h : Tidy a b s) {t : State} (k : Background s t) : Tidy a b t := by
  have hplain : ∀ {p q : Pack}, plainPack p = plainPack q → FreedReadZero q → FreedReadZero p := fun {p q} e hq =>
    freed_of_eq hq (congrArg (·.vregs) e : (plainPack p).vregs = _) (congrArg (·.live) e : (plainPack p).live = _)
  refine ⟨fun ha => k.mem (h.mem ha), fun hb => hplain k.pk (h.pk hb), fun hb p hp => ?_⟩
  have hp' : plainPack p ∈ s.packs.map plainPack := k.packs ▸ List.mem_map_of_mem hp
  obtain ⟨q, hq, e⟩ := List.mem_map.mp hp'
  exact hplain e.symm (h.packs hb q hq)

theorem Tidy.foldl (h : Tidy a b s) {α : Type} {f : State → α → State} (hf : ∀ u x, Tidy a b u → Tidy a b (f u x)) (l : List α) :
    Tidy a b (l.foldl f s) := by
  induction l generalizing s with
  | nil => exact h
  | cons x l ih => exact ih (hf _ x h)

theorem Tidy.pack (h : Tidy a b s) {p : PackId} {k : Pack} (hk : s.pack? p = some k) (hb : b) : FreedReadZero k := by
  rw [State.pack?] at hk
  split at hk
  · cases hk
    exact h.pk hb
  · exact h.packs hb k (List.mem_of_find?_eq_some hk)

/-- A member of a list with its first match changed. -/
theorem mem_replaceFirst {α : Type} {q : α → Bool} {f : α → α} {x : α} : ∀ {l : List α}, x ∈ replaceFirst q f l → x ∈ l ∨ ∃ y ∈ l, x = f y
  | [], h => .inl h
  | y :: l, h => by
    rw [replaceFirst] at h
    split at h
    · rcases List.mem_cons.mp h with rfl | h
      · exact .inr ⟨y, List.mem_cons_self, rfl⟩
      · exact .inl (List.mem_cons_of_mem _ h)
    · rcases List.mem_cons.mp h with rfl | h
      · exact .inl List.mem_cons_self
      · rcases mem_replaceFirst h with h | ⟨z, hz, e⟩
        · exact .inl (List.mem_cons_of_mem _ h)
        · exact .inr ⟨z, List.mem_cons_of_mem _ hz, e⟩

/-- A pack changed, that is as it should be if it was. -/
theorem Tidy.onPack (h : Tidy a b s) (p : PackId) {f : Pack → Pack} (hf : ∀ k, FreedReadZero k → FreedReadZero (f k)) :
    Tidy a b (s.onPack p f) := by
  rw [State.onPack]
  split
  · exact h.of_pk rfl (hf _) rfl
  · refine ⟨h.mem, h.pk, fun hb q hq => ?_⟩
    rcases mem_replaceFirst hq with hq | ⟨k, hk, rfl⟩
    · exact h.packs hb q hq
    · exact hf _ (h.packs hb k hk)

/-- A pack changed in what are no vector registers. -/
theorem Tidy.onPack_of_eq (h : Tidy a b s) (p : PackId) {f : Pack → Pack} (hv : ∀ k, (f k).vregs = k.vregs := by intro _; rfl)
    (hl : ∀ k, (f k).live = k.live := by intro _; rfl) : Tidy a b (s.onPack p f) := h.onPack p fun k hk => freed_of_eq hk (hv k) (hl k)

theorem Tidy.onPacks (h : Tidy a b s) {f : Pack → Pack} (hf : ∀ k, FreedReadZero k → FreedReadZero (f k)) : Tidy a b (s.onPacks f) := by
  refine ⟨h.mem, fun hb => hf _ (h.pk hb), fun hb q hq => ?_⟩
  obtain ⟨k, hk, rfl⟩ := List.mem_map.mp hq
  exact hf _ (h.packs hb k hk)

theorem Tidy.onTeam (h : Tidy a b s) (t : TeamId) (f : Team → Team) : Tidy a b (s.onTeam t f) := h.of_eq (by simp) (by simp) (by simp)
theorem Tidy.onGrid (h : Tidy a b s) (g : Nat) (f : Grid → Grid) : Tidy a b (s.onGrid g f) := h.of_eq
theorem Tidy.onCtx (h : Tidy a b s) (c : Nat) (f : Ctx → Ctx) : Tidy a b (s.onCtx c f) := h.of_eq
theorem Tidy.onCore (h : Tidy a b s) (c : Nat) (f : CoreSt → CoreSt) : Tidy a b (s.onCore c f) := h.of_eq
theorem Tidy.bumpCore (h : Tidy a b s) (c n : Nat) : Tidy a b (s.bumpCore c n) := h.of_eq
theorem Tidy.bump (h : Tidy a b s) (n : Nat) : Tidy a b (s.bump n) := h.of_eq
theorem Tidy.push (h : Tidy a b s) (l : List Instr) : Tidy a b (s.push l) := h.of_eq
theorem Tidy.emit (h : Tidy a b s) (o : Out) : Tidy a b (s.emit o) := h.of_eq
theorem Tidy.waitUntil (h : Tidy a b s) (t : Nat) : Tidy a b (s.waitUntil t) := h.of_eq
theorem Tidy.takeFree (h : Tidy a b s) : Tidy a b s.takeFree.2 := h.of_eq

/-- A choice by a condition. -/
theorem Tidy.ite {c : Prop} [Decidable c] {t u : State} (ht : Tidy a b t) (hu : Tidy a b u) : Tidy a b (if c then t else u) := by
  split
  · exact ht
  · exact hu

/-! ## Reports, traps and halts -/

theorem Tidy.post (h : Tidy a b s) (r : Report) : Tidy a b (s.post r) := by
  refine h.of_hbm (post_wf s r) ?_ ?_ <;>
  · rw [State.post]
    dsimp only
    split
    · rfl
    · split <;> rfl

theorem Tidy.postFault (h : Tidy a b s) (r : Report) (who : Asker) : Tidy a b (s.postFault r who) :=
  (h.post { r with kind := 1, seq := s.nextReport }).of_eq

theorem Tidy.haltTeam (h : Tidy a b s) (t : TeamId) (p : Option PackId) (r : FaultRec) : Tidy a b (s.haltTeam t p r) := by
  unfold State.haltTeam
  cases p with
  | none => exact Tidy.push (Tidy.onGrid (Tidy.of_eq (h.onTeam t _)) _ _) _
  | some p =>
    refine Tidy.push (Tidy.onGrid (Tidy.of_eq (Tidy.onTeam ?_ t _)) _ _) _
    exact h.onPack_of_eq p

theorem Tidy.deliver (h : Tidy a b s) (p : Pack) : Tidy a b (s.deliver p) := by
  rw [State.deliver]
  dsimp only
  split
  · exact h.haltTeam _ _ _
  · exact h.onPack_of_eq p.id

theorem Tidy.trapDue (h : Tidy a b s) (f : FaultRec) : Tidy a b (s.trapDue f) := by
  have hs := h.setPk (q := { s.pk with due := f, status := .trapping }) fun hk => freed_of_eq hk rfl rfl
  rw [State.trapDue]
  dsimp only
  split
  · exact hs.deliver _
  · exact hs.push _

theorem Tidy.raise (h : Tidy a b s) (f : FaultRec) : Tidy a b (s.raise f) := h.trapDue _
theorem Tidy.takePending (h : Tidy a b s) : Tidy a b s.takePending := h.trapDue _

/-! ## The end of a word -/

theorem Tidy.goto (h : Tidy a b s) (e : Bool) (pc : DWord) : Tidy a b (s.goto e pc) := by
  refine h.of_pk rfl (fun hk => ?_) rfl
  rw [State.goto]
  dsimp only
  split <;> exact freed_of_eq hk rfl rfl

theorem Tidy.finish (h : Tidy a b s) (e : Bool) : Tidy a b (s.finish e) := h.goto e _
theorem Tidy.block (h : Tidy a b s) (w : Wait) : Tidy a b (s.block w) := h.setPk fun hk => freed_of_eq hk rfl rfl
theorem Tidy.countWord (h : Tidy a b s) : Tidy a b s.countWord := h.of_eq

/-- What a word answers is tidy. -/
def TidyRes (a b : Prop) : Res → Prop
  | .done t | .jump t _ | .own t | .wait t | .held t => Tidy a b t
  | .stall | .trap _ => True

/-- What an instruction answers is tidy. -/
def TidyNext (a b : Prop) : Result → Prop
  | .next t => Tidy a b t
  | _ => True

/-- The state with the sources of a word consumed. -/
theorem Tidy.sourced (h : Tidy a b s) (i : Instr) : Tidy a b { s with pk := s.pk.consume i } := h.setPk fun hk => freed_consume hk i

/-- The issue of a word whose meaning is tidy. -/
theorem Tidy.issueWord (h : Tidy a b s) (i : Instr) {body : State → State → Res}
    (hb : ∀ t, Tidy a b t → TidyRes a b (body s t)) : TidyNext a b (.next (issueWord i s body)) := by
  have hbody := hb _ (h.sourced i)
  show Tidy a b (Machine.issueWord i s body)
  rw [Machine.issueWord]
  split
  · exact h.raise _
  · split
    · exact h
    · generalize body s { s with pk := s.pk.consume i } = r at hbody
      cases r with
      | done t => exact Tidy.finish (Tidy.countWord hbody) _
      | jump t pc => exact Tidy.goto (Tidy.countWord hbody) _ _
      | own t => exact Tidy.countWord hbody
      | stall => exact h
      | wait t => exact hbody
      | held t => exact hbody
      | trap f => exact h.raise f

/-- The issue of a word that acts on its pack alone. -/
theorem Tidy.packWord (h : Tidy a b s) (i : Instr) {f : Pack → Pack → Pack} (hf : ∀ p q, FreedReadZero q → FreedReadZero (f p q)) :
    TidyNext a b (.next (packWord i s f)) := h.issueWord i fun _ ht => ht.setPk (hf _ _)

/-! ## Operations of the wait counters -/

theorem Tidy.startOp (h : Tidy a b s) (mk : Nat → Op) (ev : Nat → List Instr) : Tidy a b (s.startOp mk ev) :=
  h.of_pk rfl (fun hk => freed_of_eq hk rfl rfl) rfl

theorem Tidy.onOp (h : Tidy a b s) (p : PackId) (n : Nat) (f : Op → Op) : Tidy a b (s.onOp p n f) :=
  h.onPack_of_eq p

/-- An operation ends, whose result leaves freed registers zero. -/
theorem Tidy.endOp (h : Tidy a b s) (p : PackId) (n : Nat) {f : Op → Pack → Pack} (hf : ∀ o k, FreedReadZero k → FreedReadZero (f o k)) :
    Tidy a b (s.endOp p n f) := by
  refine h.onPack p fun k hk => ?_
  split
  · exact hk
  next o _ =>
    have hq := freed_of_eq (q := { f o k with ops := k.ops.filter fun q => q.id != n }) (hf o k hk) rfl rfl
    split
    · exact hq
    · exact freed_wakeHold hq _

theorem Tidy.afterOp (h : Tidy a b s) (p : PackId) : Tidy a b (s.afterOp p) := by
  rw [State.afterOp]
  split
  · exact h
  · repeat' split
    all_goals first | exact h | exact h.push _

theorem Tidy.exitCheck (h : Tidy a b s) (t : TeamId) : Tidy a b (s.exitCheck t) := .ite (h.push _) h
theorem Tidy.saveCheck (h : Tidy a b s) (t : TeamId) : Tidy a b (s.saveCheck t) := h.push _

end

end Sys2Proof.Proofs
end

section
/-! SUPPORT. Memory, tiles and fetch keep memory canonical and freed registers zero. -/

namespace Sys2Proof.Proofs

open Sys2Proof.Machine Sys2Proof.Safety

set_option Elab.async false

section
variable {a b : Prop} {s : State}

/-! ## Lines, requests and records -/

theorem Tidy.translate (h : Tidy a b s) (c va : Nat) : Tidy a b (s.translate c va).2 := h.background (background_translate s c va)
theorem Tidy.activate (h : Tidy a b s) (p : Nat) : Tidy a b (s.activate p) := h.background (background_activate s p)
theorem Tidy.endBackoff (h : Tidy a b s) (n : Nat) : Tidy a b (s.endBackoff n) := h.background (background_endBackoff s n)
theorem Tidy.endBackoffs (h : Tidy a b s) : Tidy a b s.endBackoffs := h.background (background_endBackoffs s)
theorem Tidy.setDirty (h : Tidy a b s) (x : Xlate) : Tidy a b (s.setDirty x) := h.background (background_setDirty s x)
theorem Tidy.findLine (h : Tidy a b s) (c l : Nat) : Tidy a b (s.findLine c l).2 := h.background (background_findLine s c l)
theorem Tidy.writeBack (h : Tidy a b s) (x : HomeLine) : Tidy a b (s.writeBack x) := h.background (background_writeBack s x)
theorem Tidy.putHome (h : Tidy a b s) (x : HomeLine) : Tidy a b (s.putHome x) := h.background (background_putHome s x)
theorem Tidy.channelStore (h : Tidy a b s) (p : Nat) (bs : List (Nat × Byte)) : Tidy a b (s.channelStore p bs) :=
  h.background (background_channelStore s p bs)
theorem Tidy.privWriteBack (h : Tidy a b s) (l : L1Line) : Tidy a b (s.privWriteBack l).2 := h.background (background_privWriteBack s l)
theorem Tidy.l1Evict (h : Tidy a b s) (l : L1Line) : Tidy a b (s.l1Evict l) := h.background (background_l1Evict s l)
theorem Tidy.l1Fill (h : Tidy a b s) (l : L1Line) : Tidy a b (s.l1Fill l) := h.background (background_l1Fill s l)
theorem Tidy.loadLine (h : Tidy a b s) (who : Option PackId) (core c l : Nat) : Tidy a b (s.loadLine who core c l).2 :=
  h.background (background_loadLine s who core c l)
theorem Tidy.storeLine (h : Tidy a b s) (c l : Nat) (bs : List (Nat × Byte)) (lift : Bool) (who : Option PackId) :
    Tidy a b (s.storeLine c l bs lift who).2 := h.background (background_storeLine s c l bs lift who)
theorem Tidy.atomAt (h : Tidy a b s) (c l fn ty : Nat) (ls : List AtomLane) (who : Option PackId) :
    Tidy a b (s.atomAt c l fn ty ls who).2 := h.background (background_atomAt s c l fn ty ls who)
theorem Tidy.inject (h : Tidy a b s) (p : Packet) : Tidy a b (s.inject p) := h.background (background_inject s p)
theorem Tidy.sendRequest (h : Tidy a b s) (core slot : Nat) (p : PackId) (op line : Nat) (x : Xlate) (y : PacketBody) :
    Tidy a b (s.sendRequest core slot p op line x y) := h.background (background_sendRequest s core slot p op line x y)
theorem Tidy.sendLoad (h : Tidy a b s) (t : Team) (p : Pack) (op va : Nat) (x : Xlate) (lc : Nat) :
    Tidy a b (s.sendLoad t p op va x lc) := h.background (background_sendLoad s t p op va x lc)
theorem Tidy.prefetch (h : Tidy a b s) (t : Team) (p : Pack) (l1 : Bool) (line : Nat) : Tidy a b (s.prefetch t p l1 line) :=
  h.background (background_prefetch s t p l1 line)
theorem Tidy.dirtyIfSame (h : Tidy a b s) (c va p : Nat) : Tidy a b (s.dirtyIfSame c va p) := h.background (background_dirtyIfSame s c va p)

/-- The lines of a record are read. -/
theorem Tidy.readLines (who : PackId) (core c : Nat) : ∀ (n line : Nat) {s : State}, Tidy a b s →
    Tidy a b (readLines s who core c line n).2.2.1
  | 0, _, _, h => h
  | n + 1, line, s, h => by
    unfold Machine.readLines
    split
    · split
      · exact h
      · exact Tidy.readLines who core c n (line + 1) h
    · have hl := h.loadLine (some who) core c line
      split
      next d u e => exact Tidy.readLines who core c n (line + 1) (hl.of_snd e)
      all_goals next e => exact hl.of_snd e

theorem Tidy.readVirt (h : Tidy a b s) (who : PackId) (core c va n al : Nat) : Tidy a b (s.readVirt who core c va n al).2.1 := by
  have hr := Tidy.readLines who core c ((va % 128 + n + 127) / 128) (va / 128) h
  unfold State.readVirt
  dsimp only
  split
  · exact h
  · split
    · exact h
    · split
      · exact hr.of_eq
      · exact hr.of_eq
      · exact hr
      · exact hr

theorem Tidy.dropPack (h : Tidy a b s) (p : PackId) : Tidy a b (s.dropFetched p) := h.of_eq

/-! ## Fetch and run boundaries (R94, R97, R220, R221) -/

theorem Tidy.fetchLine (h : Tidy a b s) (c l : Nat) : Tidy a b (s.fetchLine c l).2 := by
  have hl := h.findLine c l
  unfold State.fetchLine
  split
  next e => exact hl.of_snd e
  next e => exact hl.of_snd e
  next e => exact hl.of_snd e
  next e => exact (hl.of_snd e).putHome _

theorem Tidy.fetch (h : Tidy a b s) : Tidy a b s.fetch.2 := by
  have hl := h.fetchLine s.tm.ctx (s.pk.pc.toNat / 128)
  unfold State.fetch
  dsimp only
  split
  · exact h
  · split
    · exact h
    · split
      all_goals next e => exact hl.of_snd e

theorem Tidy.parkAtWord (h : Tidy a b s) (acc va : Nat) (m : DWord) : Tidy a b (s.parkAtWord acc va m) :=
  (h.postFault _ _).setPk fun hk => freed_of_eq hk rfl rfl

theorem Tidy.fetchMiss (h : Tidy a b s) : Tidy a b s.fetchMiss := .ite (h.raise _) (h.parkAtWord _ _ _)
theorem Tidy.runOver (h : Tidy a b s) : Tidy a b s.runOver := h.takeFree.raise _

theorem Tidy.switchTeam (h : Tidy a b s) (t : TeamId) : Tidy a b (s.switchTeam t) := by
  unfold State.switchTeam
  split
  · exact h
  · split
    · exact h
    · exact h.of_eq

theorem Tidy.switchTo (h : Tidy a b s) (p : PackId) : Tidy a b (s.switchTo p) := by
  unfold State.switchTo
  split
  · exact h
  · split
    · exact h
    next k hk =>
      have hrest : ∀ x ∈ s.packs.filter fun q => q.id != p, FreedReadZero x ∨ ¬ b := fun x hx => by
        by_cases hb : b
        · exact .inl (h.packs hb x (List.mem_of_mem_filter hx))
        · exact .inr hb
      refine Tidy.switchTeam (s := { s with
        pk := k
        packs := if s.pk.status == PStatus.vacant then s.packs.filter (fun q => q.id != p) else s.packs.filter (fun q => q.id != p) ++ [s.pk] })
        ⟨h.mem, fun hb => h.packs hb k (List.mem_of_find?_eq_some hk), fun hb q hq => ?_⟩ _
      dsimp only at hq
      split at hq
      · exact (hrest q hq).resolve_right (not_not.mpr hb)
      · rcases List.mem_append.mp hq with hq | hq
        · exact (hrest q hq).resolve_right (not_not.mpr hb)
        · rw [List.mem_singleton.mp hq]
          exact h.pk hb

theorem Tidy.stopSaves (h : Tidy a b s) : Tidy a b s.stopSaves := by
  refine Tidy.push (Tidy.onPacks h fun k hk => ?_) _
  split
  · exact freed_of_eq hk rfl rfl
  · exact hk

theorem Tidy.askLines (h : Tidy a b s) : Tidy a b s.askLines := by
  refine Tidy.push (Tidy.onPacks h fun k hk => ?_) _
  split
  · exact freed_of_eq hk rfl rfl
  · exact hk

theorem Tidy.arbitrate (h : Tidy a b s) (k : Nat) : Tidy a b (s.arbitrate k) := by
  unfold State.arbitrate
  split
  · exact h
  · exact (h.switchTo _).setPk fun hk => freed_of_eq hk rfl rfl

theorem freed_promoteDue {k : Pack} (h : FreedReadZero k) (s : State) : FreedReadZero (s.promoteDue k) := by
  unfold State.promoteDue
  split
  · exact h
  · split
    · exact freed_of_eq h rfl rfl
    · exact h

theorem Tidy.parkNow (h : Tidy a b s) : Tidy a b s.parkNow :=
  .ite (h.setPk fun hk => freed_of_eq hk rfl rfl) (h.setPk fun hk => freed_of_eq hk rfl rfl)

theorem Tidy.haltStop (h : Tidy a b s) (old : State) : Tidy a b (old.haltStop s) := by
  unfold State.haltStop
  split
  · exact h
  · dsimp only
    generalize hq : (if Tab.get 0 (s.core old.tm.core).count 6 = Tab.get 0 (old.core old.tm.core).count 6 then s.pk
      else { s.pk with skid := s.pk.skid + 1 }) = q
    have hp : FreedReadZero s.pk → FreedReadZero q := fun hk => by
      rw [← hq]
      split
      · exact hk
      · exact freed_of_eq hk rfl rfl
    split
    · exact h.setPk hp
    · refine Tidy.push (Tidy.setPk h (q := { q with status := .halted, wait := .none, due := {}, haltDue := false }) fun hk => ?_) _
      exact freed_of_eq (hp hk) rfl rfl

/-! ## Tiles and gates (R189-R201, R307-R312) -/

theorem Tidy.tileWrite (h : Tidy a b s) (x : Handle) (y : Alloc) (o : Nat) (bs : List Byte) : Tidy a b (s.tileWrite x y o bs) := h.onTeam _ _
theorem Tidy.onAlloc (h : Tidy a b s) (x : Handle) (f : Alloc → Alloc) : Tidy a b (s.onAlloc x f) := h.onTeam _ _

theorem Tidy.trapWaiting (h : Tidy a b s) (p : PackId) {f : Pack → Pack} (hf : ∀ k, FreedReadZero k → FreedReadZero (f k)) :
    Tidy a b (s.trapWaiting p f) := by
  refine Tidy.push (h.onPack p fun k hk => ?_) _
  exact freed_of_eq (hf k hk) rfl rfl

/-- What a gate makes of a pack is a deferred fault. -/
theorem freed_testGate {t : Team} {n off ph : Nat} {f : Pack → Pack} (e : s.testGate t n off ph = .trap f) {k : Pack}
    (h : FreedReadZero k) : FreedReadZero (f k) := by
  unfold State.testGate at e
  split at e
  · cases e
    exact freed_deferTileAll h _ _ _
  · split at e
    · cases e
      exact freed_deferLift h _ _ _
    · split at e <;> cases e

theorem Tidy.testGates (h : Tidy a b s) : Tidy a b s.testGates := by
  refine h.foldl (fun u k hu => ?_) _
  split
  · split
    · exact hu
    · exact hu.onPack_of_eq _
    next f e => exact hu.trapWaiting _ fun _ => freed_testGate e
  · exact hu

theorem Tidy.talloc (h : Tidy a b s) (n x : Nat) : Tidy a b (s.talloc n x).2 := by
  unfold State.talloc
  dsimp only
  repeat' split
  all_goals first
    | exact h
    | exact h.onTeam _ _
    | exact Tidy.onTeam (Tidy.onTeam (Tidy.of_eq h) _ _) _ _

theorem Tidy.releaseStorage (h : Tidy a b s) (x : Handle) : Tidy a b (s.releaseStorage x) := by
  unfold State.releaseStorage
  split
  · refine Tidy.testGates ?_
    split
    · exact (h.onTeam _ _).onTeam _ _
    · exact ((h.onTeam _ _).onTeam _ _).push _
  · exact h

theorem Tidy.releaseHandle (h : Tidy a b s) (t : Team) (n : Nat) : Tidy a b (s.releaseHandle t n) := by
  unfold State.releaseHandle
  split
  · exact h
  · exact (Tidy.ite h (h.releaseStorage _)).onTeam _ _

/-! ## Lanes of memory operations (R207-R234) -/

theorem Tidy.releaseLines (h : Tidy a b s) (p : Pack) (ls : List Nat) : Tidy a b (s.releaseLines p ls) := h.push _

theorem freed_laneFaults {k : Pack} (h : FreedReadZero k) (o : Op) (c r : Nat) (ls : List (Nat × Nat)) :
    FreedReadZero (k.laneFaults o c r ls) := by
  unfold Pack.laneFaults
  split
  · exact h
  · split
    · exact freed_deferAll h _ _ _ _ _ _
    · exact freed_deferLanes h _ _

theorem freed_landFaults {k : Pack} (h : FreedReadZero k) (o : Op) : FreedReadZero (k.landFaults o) := by
  unfold Pack.landFaults
  split
  · exact h
  · split
    · exact freed_deferAll h _ _ _ _ _ _
    · exact freed_deferLanes h _ _

theorem freed_landMem (o : Op) {k : Pack} (h : FreedReadZero k) : FreedReadZero (Pack.landMem o k) := by
  have hw := freed_of_eq (q := (Pack.landFaults o ((k.landOp o).landS o)).returnWct o.wct)
    (freed_landFaults (freed_landS (freed_landOp h o) o) o) rfl rfl
  unfold Pack.landMem Pack.acquired
  split
  · exact freed_of_eq hw rfl rfl
  · exact hw

theorem Tidy.checkDone (h : Tidy a b s) (p : PackId) (n : Nat) : Tidy a b (s.checkDone p n) := by
  unfold State.checkDone
  split
  · exact h
  · exact .ite (h.push _) h

theorem Tidy.faultLanes (h : Tidy a b s) (p : PackId) (o : Op) (c r : Nat) (ls : List (Nat × Nat)) :
    Tidy a b (s.faultLanes p o c r ls) := h.onOp _ _ _

theorem Tidy.sentAway (h : Tidy a b s) (p : PackId) (n : Nat) (ls : List (Nat × Nat)) : Tidy a b (s.sentAway p n ls) := h.onOp _ _ _

theorem Tidy.flushOut (h : Tidy a b s) : Tidy a b s.flushOut := by
  unfold State.flushOut
  refine Tidy.foldl (Tidy.of_eq h) (fun u p hu => ?_) _
  exact .ite hu (hu.inject p)

theorem Tidy.privRef (h : Tidy a b s) (t : Team) (p : PackId) (line : Nat) (wr : Bool) : Tidy a b (s.privRef t p line wr).2 := by
  have hl := h.findLine t.ctx line
  unfold State.privRef
  split
  · exact h
  · split
    next e => exact hl.of_snd e
    next e => exact hl.of_snd e
    next e => exact hl.of_snd e
    next x u e =>
      have hu := hl.of_snd e
      dsimp only
      generalize (!(if wr then x.perm.w else x.perm.r)) = refused
      split
      · exact hu.putHome _
      · split
        · exact hu.putHome _
        · refine Tidy.l1Fill (Tidy.putHome (hu.foldl (fun v w hv => ?_) _) _) _
          exact hv.waitUntil _

theorem Tidy.flushPrivate (h : Tidy a b s) (p : PackId) : Tidy a b (s.flushPrivate p) := by
  refine h.foldl (fun u l hu => ?_) _
  exact Tidy.onPack_of_eq (hu.privWriteBack l) p

theorem Tidy.landLoad (h : Tidy a b s) (p : PackId) (o : Op) (ls : List (Nat × Nat)) (d : Line) : Tidy a b (s.landLoad p o ls d) :=
  h.onOp _ _ _

theorem Tidy.notePart (h : Tidy a b s) (t : Team) (p : Pack) (o : Op) (l x y z : Nat) : Tidy a b (s.notePart t p o l x y z) := h.onOp _ _ _

theorem Tidy.privRefs (t : Team) (p : PackId) (wr : Bool) : ∀ (cs : List (Nat × Nat × Nat)) {s : State}, Tidy a b s →
    Tidy a b (s.privRefs t p wr cs).2
  | [], _, h => h
  | c :: cs, _, h => Tidy.privRefs t p wr cs (h.privRef t p (c.2.1 / 128) wr)

theorem Tidy.privLane (h : Tidy a b s) (t : Team) (p : PackId) (wr : Bool) (ps : List (Nat × Nat × Nat)) :
    Tidy a b (s.privLane t p wr ps).2.2 := Tidy.privRefs t p wr ps h

theorem Tidy.faultPages (h : Tidy a b s) (t : Team) (p : Pack) (o : Op) (ls : List (Nat × Nat)) : Tidy a b (s.faultPages t p o ls) := by
  unfold State.faultPages
  dsimp only
  split
  · exact h
  · refine Tidy.push (Tidy.releaseLines (Tidy.onPack_of_eq (Tidy.onOp (h.postFault _ _) _ _ _) _) _ _) _

theorem Tidy.privRead (h : Tidy a b s) (t : Team) (p : Pack) (o : Op) (q : Nat × Nat) (c : Nat × Nat × Nat × PrivRef) :
    Tidy a b (s.privRead t p o q c) := by
  unfold State.privRead
  split
  · exact h.notePart _ _ _ _ _ _ _
  · exact h.notePart _ _ _ _ _ _ _
  · exact .ite h ((h.sendLoad _ _ _ _ _ _).sentAway _ _ _)
  · exact h

theorem Tidy.privLoad (h : Tidy a b s) (t : Team) (p : Pack) (o : Op) (q : Nat × Nat) : Tidy a b (s.privLoad t p o q) := by
  have hl := h.privLane t p.id false (pieces t p o q.1 q.2)
  unfold State.privLoad
  dsimp only
  split
  · exact h
  · split
    · exact hl.faultLanes _ _ _ _ _
    · exact hl.faultPages _ _ _ _
    · exact hl.foldl (fun u c hu => hu.privRead t p o q c) _

theorem Tidy.lineDone (h : Tidy a b s) (t : Team) (p : Pack) (o : Op) (ls : List (Nat × Nat)) : Tidy a b (s.lineDone t p o ls) :=
  (h.checkDone _ _).releaseLines _ _

theorem tidy_homeLoad (h : Tidy a b s) (p : PackId) (n line : Nat) : TidyNext a b (exec (.homeLoad p n line) s) := by
  show Tidy a b (match s.lineOp p n line with
    | none => s
    | some (t, k, o) => _)
  split
  · exact h
  next t k o _ =>
    dsimp only
    split
    · exact Tidy.lineDone (h.foldl (fun u q hu => hu.privLoad t k o q) _) _ _ _ _
    · have hl := h.loadLine (some p) t.core t.ctx line
      split
      next e => exact ((hl.of_snd e).landLoad _ _ _ _).lineDone _ _ _ _
      next e => exact ((hl.of_snd e).faultLanes _ _ _ _ _).lineDone _ _ _ _
      next e => exact ((hl.of_snd e).faultPages _ _ _ _).lineDone _ _ _ _
      next e => exact (((hl.of_snd e).waitUntil _).sendLoad _ _ _ _ _ _).sentAway _ _ _

theorem Tidy.landStore (h : Tidy a b s) (p : PackId) (o : Op) (ls : List (Nat × Nat)) (w : Nat) : Tidy a b (s.landStore p o ls w) :=
  h.onOp _ _ _

theorem Tidy.privWrite (h : Tidy a b s) (t : Team) (p : Pack) (o : Op) (q : Nat × Nat) (c : Nat × Nat × Nat × PrivRef) :
    Tidy a b (s.privWrite t p o q c) := by
  unfold State.privWrite
  dsimp only
  split
  · exact (h.l1Fill _).notePart _ _ _ _ _ _ _
  · exact ((h.setDirty _).channelStore _ _).notePart _ _ _ _ _ _ _
  · exact .ite h (((h.setDirty _).sendRequest _ _ _ _ _ _ _).sentAway _ _ _)
  · exact h

theorem Tidy.privStoreCheck (h : Tidy a b s) (t : Team) (p : Pack) (o : Op) (q : Nat × Nat) : Tidy a b (s.privStoreCheck t p o q) := by
  have hl := h.privLane t p.id true (pieces t p o q.1 q.2)
  unfold State.privStoreCheck
  dsimp only
  split
  · exact h
  · split
    · exact hl.faultLanes _ _ _ _ _
    · exact hl.faultPages _ _ _ _
    · exact hl

theorem Tidy.privStore (h : Tidy a b s) (t : Team) (p : Pack) (o : Op) (q : Nat × Nat) : Tidy a b (s.privStore t p o q) :=
  Tidy.foldl (h.privLane t p.id true (pieces t p o q.1 q.2)) (fun _ c hu => hu.privWrite t p o q c) _

theorem Tidy.privStores (h : Tidy a b s) (t : Team) (p : Pack) (o : Op) (line : Nat) : Tidy a b (s.privStores t p o line) := by
  have hc := h.foldl (fun u q hu => hu.privStoreCheck t p o q) (lineLanes t p o line)
  unfold State.privStores
  dsimp only
  split
  · exact hc
  · exact hc.foldl (fun u q hu => hu.privStore t p _ q) _

theorem Tidy.flushLine (h : Tidy a b s) (p : PackId) (o : Op) (line : Nat) : Tidy a b (s.flushLine p o line) := by
  unfold State.flushLine
  split
  · exact h.landStore _ _ _ _
  · exact (h.privWriteBack _).landStore _ _ _ _

theorem tidy_homeWrite (h : Tidy a b s) (p : PackId) (n line : Nat) : TidyNext a b (exec (.homeWrite p n line) s) := by
  show Tidy a b (match s.lineOp p n line with
    | none => s
    | some (t, k, o) => _)
  split
  · exact h
  next t k o _ =>
    dsimp only
    split
    · exact (h.flushLine _ _ _).lineDone _ _ _ _
    · split
      · exact (h.privStores _ _ _ _).lineDone _ _ _ _
      · have hl := h.storeLine t.ctx line (storeBytes o (lineLanes t k o line)) false (some p)
        split
        next e => exact ((hl.of_snd e).landStore _ _ _ _).lineDone _ _ _ _
        next e => exact ((hl.of_snd e).faultLanes _ _ _ _ _).lineDone _ _ _ _
        next e => exact (((hl.of_snd e).setDirty _).sendRequest _ _ _ _ _ _ _).sentAway _ _ _
        next e => exact ((hl.of_snd e).faultPages _ _ _ _).lineDone _ _ _ _

theorem Tidy.wakeWatchers (h : Tidy a b s) (c l : Nat) : Tidy a b (s.wakeWatchers c l) := h.push _

theorem tidy_homeWritePerform (h : Tidy a b s) (c l : Nat) : TidyNext a b (exec (.homeWritePerform c l) s) := by
  refine Tidy.wakeWatchers ?_ c l
  split
  · exact h
  · split
    · exact h
    · exact (h.waitUntil _).putHome _

theorem tidy_loadLaneReturn (h : Tidy a b s) (p : PackId) (n : Nat) : TidyNext a b (exec (.loadLaneReturn p n) s) := by
  show Tidy a b (match (s.pack? p).bind fun k => k.op? n with
    | none => s
    | some o => _)
  split
  · exact h
  · exact .ite h (((h.waitUntil _).endOp p n fun o _ => freed_landMem o).afterOp p)

theorem tidy_storeWctReturn (h : Tidy a b s) (p : PackId) (n : Nat) : TidyNext a b (exec (.storeWctReturn p n) s) := by
  show Tidy a b (match (s.pack? p).bind fun k => k.op? n with
    | none => s
    | some o => _)
  split
  · exact h
  · exact .ite h ((h.endOp p n fun o _ => freed_landMem o).afterOp p)

theorem tidy_tileAccessRetire (h : Tidy a b s) (p : PackId) (n : Nat) : TidyNext a b (exec (.tileAccessRetire p n) s) :=
  (h.endOp p n (f := fun o k => (k.landOp o).landS o) fun o _ hk => freed_landS (freed_landOp hk o) o).afterOp p

theorem tidy_granuleClearDone (h : Tidy a b s) (c n : Nat) : TidyNext a b (exec (.granuleClearDone c n) s) := by
  show Tidy a b (match s.allTeams.find? _ with
    | none => s
    | some t => _)
  split
  · exact h
  · exact h.onTeam _ _

theorem tidy_privateWriteback (h : Tidy a b s) (core c line : Nat) : TidyNext a b (exec (.privateWriteback core c line) s) := by
  show Tidy a b (match s.l1.find? _ with
    | none => s
    | some l => s.l1Evict l)
  split
  · exact h
  · exact h.l1Evict _

theorem tidy_channelTranslate (h : Tidy a b s) (c va : Nat) (w : Bool) : TidyNext a b (exec (.channelTranslate c va w) s) := by
  have ht := h.translate c va
  show Tidy a b (match s.translate c va with
    | (some x, s) => if w && x.perm.w then s.setDirty x else s
    | (none, s) => s)
  split
  next e => exact .ite ((ht.of_snd e).setDirty _) (ht.of_snd e)
  next e => exact ht.of_snd e

theorem tidy_tableWalk (h : Tidy a b s) (c va : Nat) : TidyNext a b (exec (.tableWalk c va) s) := h.translate c va

theorem tidy_pageFaultPark (h : Tidy a b s) (p : PackId) : TidyNext a b (exec (.pageFaultPark p) s) := by
  refine h.onPack p fun k hk => ?_
  split
  · exact hk
  · exact freed_of_eq hk rfl rfl

/-- A memory operation starts. -/
theorem Tidy.startMem (h : Tidy a b s) (u : State) (i : Instr) (c : Counter) (ok : List (Nat × Nat)) (bad : List (Nat × Nat × Nat × Nat))
    (vals : List (Nat × Nat)) (vd sd : List Nat) (acq : Bool) : Tidy a b (s.startMem u i c ok bad vals vd sd acq) := by
  have hbad : FreedReadZero s.pk → FreedReadZero (match bad with
      | [] => s.pk
      | (_, c, r, x) :: _ =>
        if isOneLane i then s.pk.deferAll u.pk.pc c r (dw x) allOnes 0 else s.pk.deferLanes u.pk.pc bad) := fun hk => by
    split
    · exact hk
    · split
      · exact freed_deferAll hk _ _ _ _ _ _
      · exact freed_deferLanes hk _ _
  have hs := h.setPk hbad
  unfold State.startMem
  refine Tidy.startOp (Tidy.setPk (Tidy.ite (Tidy.foldl hs (fun v l hv => ?_) _) hs) fun hk => ?_) _ _
  · exact hv.of_eq
  · exact freed_of_eq hk rfl rfl

end

end Sys2Proof.Proofs
end

section
/-! SUPPORT. The words of memory, the atomics and the streams keep memory canonical and freed registers zero. -/

namespace Sys2Proof.Proofs

open Sys2Proof.Machine Sys2Proof.Safety

set_option Elab.async false

section
variable {a b : Prop} {s : State}

/-- A fold that carries a value beside the state. -/
theorem Tidy.foldlPair {α β : Type} {f : β × State → α → β × State} (hf : ∀ r x, Tidy a b r.2 → Tidy a b (f r x).2) (l : List α) :
    ∀ {r : β × State}, Tidy a b r.2 → Tidy a b (l.foldl f r).2 := by
  induction l with
  | nil => exact id
  | cons x l ih => exact fun h => ih (hf _ x h)

/-- A choice of pairs by a condition. -/
theorem Tidy.ite_snd {α : Type} {c : Prop} [Decidable c] {x y : α × State} (hx : Tidy a b x.2) (hy : Tidy a b y.2) :
    Tidy a b (if c then x else y).2 := by
  split
  · exact hx
  · exact hy

/-- A choice of answers by a condition. -/
theorem TidyRes.ite {c : Prop} [Decidable c] {x y : Res} (hx : TidyRes a b x) (hy : TidyRes a b y) : TidyRes a b (if c then x else y) := by
  split
  · exact hx
  · exact hy

/-! ## Memory words (R228-R232, R250-R256) -/

theorem Tidy.memWord (h : Tidy a b s) (i : Instr) (c : Counter) (x y : BitVec 6) (vals : Pack → Nat → Nat) (vd : List Nat)
    (w : State → Bool) (acq : Bool) : TidyNext a b (memWord i s c x y vals vd w acq) := by
  refine h.issueWord i fun t ht => ?_
  dsimp only
  split
  · trivial
  · exact ht.startMem _ _ _ _ _ _ _ _ _

theorem Tidy.privWord (h : Tidy a b s) (i : Instr) (c : Counter) (x y : BitVec 6) (vals : Pack → Nat → Nat) (vd : List Nat) :
    TidyNext a b (privWord i s c x y vals vd) := h.issueWord i fun _ ht => ht.startMem _ _ _ _ _ _ _ _ _

theorem Tidy.scalarMem (h : Tidy a b s) (i : Instr) (c : Counter) (addr : Pack → Int) (val : Pack → Nat) (sd : List Nat)
    (w : State → Bool) : TidyNext a b (scalarMem i s c addr val sd w) := by
  refine h.issueWord i fun t ht => ?_
  dsimp only
  split
  · trivial
  · exact ht.startMem _ _ _ _ _ _ _ _ _

theorem Tidy.atomWord (h : Tidy a b s) (i : Instr) (c : Counter) (x y : BitVec 6) (vals : Pack → Nat → Nat) (vd : Nat → List Nat) :
    TidyNext a b (atomWord i s c x y vals vd) := h.issueWord i fun _ ht => ht.startMem _ _ _ _ _ _ _ _ _

theorem tidy_pref (h : Tidy a b s) (e : Bool) (q : BitVec 1) (x y : BitVec 6) (l : Bool) : TidyNext a b (exec (.pref e q x y l) s) := by
  refine h.issueWord _ fun t ht => ?_
  exact ht.foldl (fun u n hu => hu.prefetch _ _ _ _) _

theorem tidy_pflush (h : Tidy a b s) (e : Bool) : TidyNext a b (exec (.pflush e) s) :=
  h.issueWord _ fun _ ht => ht.startMem _ _ _ _ _ _ _ _ _

theorem tidy_fence (h : Tidy a b s) (e : Bool) (c : BitVec 3) : TidyNext a b (exec (.fence e c) s) := by
  refine h.issueWord _ fun t ht => ?_
  split
  · trivial
  · exact ht

theorem Tidy.landAtom (h : Tidy a b s) (p : PackId) (o : Op) (olds : List (Nat × Nat)) (w : Nat) : Tidy a b (s.landAtom p o olds w) :=
  h.onOp _ _ _

theorem tidy_homeAtomic (h : Tidy a b s) (p : PackId) (n line : Nat) : TidyNext a b (exec (.homeAtomic p n line) s) := by
  show Tidy a b (match s.lineOp p n line with
    | none => s
    | some (t, k, o) => _)
  split
  · exact h
  next t k o _ =>
    have hl := h.atomAt t.ctx line (atomOf o).1 (atomOf o).2 (atomLanes o (lineLanes t k o line)) (some p)
    dsimp only
    split
    next e => exact ((hl.of_snd e).landAtom _ _ _ _).lineDone _ _ _ _
    next e => exact ((hl.of_snd e).faultLanes _ _ _ _ _).lineDone _ _ _ _
    next e => exact (((hl.of_snd e).setDirty _).sendRequest _ _ _ _ _ _ _).sentAway _ _ _
    next e => exact ((hl.of_snd e).faultPages _ _ _ _).lineDone _ _ _ _

/-! ## Records and streams (R272-R282) -/

/-- A word that reads bytes and goes on. -/
theorem Tidy.readAs {u t : State} (h : Tidy a b t) (va n al : Nat) {k : State → Nat → Res} (hk : ∀ t v, Tidy a b t → TidyRes a b (k t v)) :
    TidyRes a b (readAs u t va n al k) := by
  have hr := h.readVirt u.pk.id u.tm.core u.tm.ctx va n al
  have hfst : ∀ {x : Read} {y : State} {z : Option (Xlate × Nat)}, t.readVirt u.pk.id u.tm.core u.tm.ctx va n al = (x, y, z) → Tidy a b y :=
    fun e => by
      rw [e] at hr
      exact hr
  unfold Machine.readAs
  split
  · trivial
  · split
    · exact h.setPk fun hp => freed_deferAll hp _ _ _ _ _ _
    · split
      next e => exact hk _ _ (hfst e)
      next e => exact (hfst e).setPk fun hp => freed_deferAll hp _ _ _ _ _ _
      next e => exact (hfst e).parkAtWord _ _ _
      next e => exact ((hfst e).waitUntil _).sendLoad _ _ _ _ _ _
      · trivial

theorem Tidy.readLayout {u t : State} (h : Tidy a b t) (r : Nat) (x : DWord) {k : State → Nat → Res}
    (hk : ∀ t v, Tidy a b t → TidyRes a b (k t v)) : TidyRes a b (readLayout u t r x k) := by
  unfold Machine.readLayout
  split
  · trivial
  · refine h.readAs _ _ _ fun t v ht => ?_
    split
    · trivial
    · exact hk t v ht

theorem tidy_ctld (h : Tidy a b s) (e : Bool) (n : BitVec 4) (x y : BitVec 6) : TidyNext a b (exec (.ctld e n x y) s) := by
  refine h.issueWord _ fun t ht => ?_
  dsimp only
  split
  · exact ht.setPk fun hp => freed_deferTileAll hp _ _ _
  · refine TidyRes.ite (ht.setPk fun hp => freed_deferTileAll hp _ _ _) (TidyRes.ite (ht.setPk fun hp => freed_deferTileEccAll hp _) ?_)
    generalize List.map _ (List.range _) = ws
    split
    · trivial
    · exact ht.of_eq

theorem tidy_ctinv (h : Tidy a b s) (e : Bool) (n : BitVec 4) : TidyNext a b (exec (.ctinv e n) s) := h.issueWord _ fun _ ht => ht.of_eq

theorem tidy_bixq (h : Tidy a b s) (e : Bool) (v x y : BitVec 6) : TidyNext a b (exec (.bixq e v x y) s) := by
  refine h.issueWord _ fun t ht => ht.readLayout _ _ fun t r ht => ?_
  split
  · trivial
  · refine ht.readAs _ _ _ fun t v ht => ?_
    split
    · trivial
    · exact ht.setPk fun hp => freed_of_eq hp rfl rfl

theorem Tidy.streamWord (h : Tidy a b s) (i : Instr) (x : BitVec 6) (y : BitVec 5) {f : State → State → SDesc → Handle → Alloc → DWord → Res}
    (hf : ∀ t d hd al aux, Tidy a b t → TidyRes a b (f s t d hd al aux)) : TidyNext a b (streamWord i x y s f) := by
  refine h.issueWord i fun t ht => ?_
  dsimp only
  split
  · exact ht.setPk fun hp => freed_deferTileAll hp _ _ _
  · split
    · trivial
    · exact hf _ _ _ _ _ ht

theorem Tidy.parseStream {u t : State} (h : Tidy a b t) (x : BitVec 6) (d : SDesc) (hd : Handle) (al : Alloc) (aux : DWord) (n : Nat)
    {k : Block → Res} (hk : ∀ q, TidyRes a b (k q)) : TidyRes a b (parseStream u t x d hd al aux n k) := by
  unfold Machine.parseStream
  split
  · trivial
  · exact h.setPk fun hp => freed_deferTileAll hp _ _ _
  · split
    · exact h.setPk fun hp => freed_deferTileEccAll hp _
    · exact hk _

theorem Tidy.startUnit (h : Tidy a b s) (u : State) (i : Instr) (vd : List Nat) (rs : List Lanes) (sd : List Nat) (got : List (Nat × Nat))
    (f : BitVec 8) : Tidy a b (s.startUnit u i vd rs sd got f) := h.startOp _ _

theorem tidy_dech (h : Tidy a b s) (e : Bool) (v x : BitVec 6) (y : BitVec 5) : TidyNext a b (exec (.dech e v x y) s) := by
  show TidyNext a b (execDech e v x y s)
  unfold execDech
  refine h.streamWord _ _ _ fun t d hd al aux ht => ?_
  exact ht.parseStream _ _ _ _ _ _ fun _ => ht.startUnit _ _ _ _ _ _ _

theorem tidy_dec (h : Tidy a b s) (e : Bool) (v : BitVec 4) (x : BitVec 6) (y : BitVec 5) : TidyNext a b (exec (.dec e v x y) s) := by
  show TidyNext a b (execDec e v x y s)
  unfold execDec
  refine h.streamWord _ _ _ fun t d hd al aux ht => ?_
  exact ht.parseStream _ _ _ _ _ _ fun _ => ht.startUnit _ _ _ _ _ _ _

theorem Tidy.putBytes (h : Tidy a b s) (hd : Handle) (al : Alloc) (n : Nat) (bs : List (Nat × Byte)) : Tidy a b (s.putBytes hd al n bs) :=
  (h.foldl (fun _ _ hu => hu.tileWrite _ _ _ _) _).testGates

theorem freed_raiseFlags {p : Pack} (h : FreedReadZero p) (f : BitVec 8) : FreedReadZero (p.raiseFlags f) := freed_of_eq h rfl rfl

theorem tidy_enc (h : Tidy a b s) (e : Bool) (v : BitVec 4) (x : BitVec 6) (y : BitVec 5) (l : Bool) :
    TidyNext a b (exec (.enc e v x y l) s) := by
  show TidyNext a b (execEnc e v x y l s)
  unfold execEnc
  refine h.streamWord _ _ _ fun t d hd al aux ht => ?_
  split
  · trivial
  · split
    · trivial
    · split
      · trivial
      · exact ht.setPk fun hp => freed_deferTileAll hp _ _ _
      · exact Tidy.startUnit (Tidy.putBytes (ht.setPk fun hp => freed_raiseFlags hp _) _ _ _ _) _ _ _ _ _ _ _

theorem tidy_encf (h : Tidy a b s) (e : Bool) (v x : BitVec 6) (y : BitVec 5) : TidyNext a b (exec (.encf e v x y) s) := by
  show TidyNext a b (execEncf e v x y s)
  unfold execEncf
  refine h.streamWord _ _ _ fun t d hd al aux ht => ?_
  dsimp only
  split
  · trivial
  · split
    · exact ht.setPk fun hp => freed_deferTileAll hp _ _ _
    · exact (ht.putBytes _ _ _ _).startUnit _ _ _ _ _ _ _

theorem tidy_decodeUnitRetire (h : Tidy a b s) (p : PackId) (n : Nat) : TidyNext a b (exec (.decodeUnitRetire p n) s) := by
  show Tidy a b (match (s.pack? p).bind fun k => k.op? n with
    | none => s
    | some o => _)
  split
  · exact h
  next o _ =>
    split
    · exact h
    · split
      · exact h
      · refine (h.endOp p n fun o k hk => ?_).afterOp p
        refine freed_raiseFlags (freed_landS (freed_foldl (fun q y hq => ?_) _ hk) _) _
        exact freed_writeV hq _ _ _

/-! ## Keys and appends (R284-R287, R375) -/

theorem Tidy.keyEntry (h : Tidy a b s) (k : Nat) : Tidy a b (s.keyEntry k).2 := by
  unfold State.keyEntry
  split
  · exact h
  · exact h.of_eq

theorem Tidy.keyFor (h : Tidy a b s) (c k : Nat) : Tidy a b (s.keyFor c k).2 := by
  unfold State.keyFor
  split
  · exact h
  · exact h.keyEntry k

theorem Tidy.pageRefuses (h : Tidy a b s) (c va : Nat) : Tidy a b (s.pageRefuses c va).2 := by
  have ht := h.translate c va
  unfold State.pageRefuses
  split
  · exact h
  · split
    next e => exact ht.of_snd e
    next e => exact ht.of_snd e

theorem Tidy.firstRefusal (c : Nat) : ∀ (vs : List Nat) {s : State}, Tidy a b s → Tidy a b (s.firstRefusal c vs).2
  | [], _, h => h
  | va :: vs, s, h => by
    have hp := h.pageRefuses c va
    unfold State.firstRefusal
    split
    next e => exact hp.of_snd e
    next e => exact Tidy.firstRefusal c vs (hp.of_snd e)

theorem Tidy.latestLine (h : Tidy a b s) (c l : Nat) : Tidy a b (s.latestLine c l).2 := by
  have hl := h.findLine c l
  unfold State.latestLine
  split
  next e => exact (hl.of_snd e).putHome _
  next e => exact hl.of_snd e
  next e => exact hl.of_snd e

theorem Tidy.latestBytes (h : Tidy a b s) (c va n : Nat) : Tidy a b (s.latestBytes c va n).2 := by
  refine Tidy.foldlPair (r := (([] : List Byte), s)) (fun r i hr => ?_) _ h
  exact hr.latestLine _ _

theorem Tidy.writeVirt (h : Tidy a b s) (c va : Nat) (bs : List Byte) (lift : Bool) : Tidy a b (s.writeVirt c va bs lift).2 := by
  refine Tidy.foldlPair (r := (0, s)) (fun r i hr => ?_) _ h
  have hw := hr.storeLine c (va / 128 + i)
    ((List.range (min 128 (va % 128 + bs.length - 128 * i) - if i = 0 then va % 128 else 0)).map fun k =>
      ((if i = 0 then va % 128 else 0) + k, (bs[128 * i + (if i = 0 then va % 128 else 0) + k - va % 128]?).getD 0)) lift none
  dsimp only
  split
  next e => exact hw.of_snd e
  next e => exact hw.of_snd e

theorem Tidy.findFrame (h : Tidy a b s) (q : Append) (n : Nat) : Tidy a b (s.findFrame q n).2.2 := by
  have hf : ∀ (l : List Nat) (f : Option Nat × Bool × State → Nat → Option Nat × Bool × State),
      (∀ r x, Tidy a b r.2.2 → Tidy a b (f r x).2.2) → ∀ r, Tidy a b r.2.2 → Tidy a b (l.foldl f r).2.2 := by
    intro l f hf
    induction l with
    | nil => exact fun _ => id
    | cons x l ih => exact fun r hr => ih _ (hf r x hr)
  refine hf _ _ (fun r i hr => ?_) (none, false, s) h
  dsimp only
  have h1 := hr.latestBytes q.ctx (layDDBase q.rec_ + 16 * i) 16
  split
  · exact hr
  · split
    · exact h1
    · split <;> exact h1.latestBytes _ _ _

theorem Tidy.freeFrame (h : Tidy a b s) (q : Append) : Tidy a b (s.freeFrame q).2 := by
  refine Tidy.foldlPair (r := (none, s)) (fun r i hr => ?_) _ h
  dsimp only
  split
  · exact hr
  · exact hr.latestBytes _ _ _

theorem Tidy.writeEntry (h : Tidy a b s) (q : Append) (e w : Nat) : Tidy a b (s.writeEntry q e w).2 := (h.waitUntil w).writeVirt _ _ _ _

theorem Tidy.appendFrame (h : Tidy a b s) (q : Append) (off st : Nat) (enc : List Byte) : Tidy a b (s.appendFrame q off st enc).2 :=
  ((h.writeVirt _ _ _ _).writeVirt _ _ _ _).writeEntry _ _ _

/-- The rest of an append that shares frames. -/
theorem Tidy.append (h : Tidy a b s) (q : Append) (key : Option (Nat × Nat)) : Tidy a b (s.append q key).2 := by
  have h0 := Tidy.firstRefusal q.ctx [layAptr q.rec_, layBidx q.rec_ + 8 * q.b] h
  unfold State.append
  split
  next e => exact h0.of_snd e
  next u e =>
    have hu := ((h0.of_snd e).latestLine q.ctx (layAptr q.rec_ / 128)).latestLine q.ctx ((layBidx q.rec_ + 8 * q.b) / 128)
    dsimp only
    refine Tidy.ite_snd hu (Tidy.ite_snd hu (Tidy.ite_snd hu ?_))
    generalize pageStarts _ _ = ps
    have hf := Tidy.firstRefusal q.ctx ps hu
    split
    next e => exact hf.of_snd e
    next v e =>
      have hv := hf.of_snd e
      refine Tidy.ite_snd (hv.appendFrame _ _ _ _) ?_
      have hr := hv.findFrame q (Config.dedupHash q.data).toNat
      split
      next w e =>
        rw [e] at hr
        exact ((hr.latestBytes _ _ _).writeVirt _ _ _ _).writeEntry _ _ _
      next c w e =>
        rw [e] at hr
        have hw : Tidy a b (if c = true then w.bump 10 else w) := .ite (hr.bump 10) hr
        have hp := fun off => hw.appendFrame q off 3 q.data
        split
        next f e =>
          have hff := (Tidy.of_snd (hp _) e).freeFrame q
          split
          next e' => exact ((hff.of_snd e').writeVirt _ _ _ _).waitUntil _
          next e' => exact hff.of_snd e'
        · exact hp _

theorem tidy_kvapp (h : Tidy a b s) (e : Bool) (v x : BitVec 6) (y : BitVec 5) : TidyNext a b (exec (.kvapp e v x y) s) := by
  refine h.issueWord _ fun t ht => ?_
  dsimp only
  split
  · exact ht.setPk fun hp => freed_deferTileAll hp _ _ _
  · refine TidyRes.ite trivial (ht.readLayout _ _ fun t r ht => ?_)
    refine TidyRes.ite trivial (TidyRes.ite (ht.setPk fun hp => freed_deferTileAll hp _ _ _)
      (TidyRes.ite (ht.setPk fun hp => freed_deferTileEccAll hp _) ?_))
    split
    · trivial
    · refine TidyRes.ite trivial (TidyRes.ite trivial ?_)
      exact Tidy.startOp (ht.keyFor _ _) _ _

theorem tidy_kvappAppend (h : Tidy a b s) (p : PackId) (n : Nat) : TidyNext a b (exec (.kvappAppend p n) s) := by
  have hfin : ∀ {u : State}, Tidy a b u → ∀ m : Nat,
      Tidy a b (((u.onOp p n fun o => { o with got := [(0, m)] }).endOp p n fun o k => k.landS o).afterOp p) := fun hu m =>
    ((hu.onOp _ _ _).endOp p n fun o k hk => freed_landS hk o).afterOp p
  show Tidy a b (match s.pack? p with
    | none => s
    | some k => _)
  split
  · exact h
  next k _ =>
    split
    · exact h
    next o _ =>
      split
      next r bn len x keys _ _ =>
        have hq := h.append { ctx := (s.teamOf k).ctx, rec_ := r, b := bn, len := len, data := toBytes x (32 * len) }
        dsimp only
        split
        · exact hfin (Tidy.waitUntil (hq _) _) _
        · exact hfin (Tidy.post (hq _) _) _
        · exact hfin (hq _) _
        · exact (Tidy.endOp (Tidy.onPack (hq _) p fun k hk => freed_deferAll hk _ _ _ _ _ _) p n fun _ _ hk => hk).afterOp p
      · exact h

end

end Sys2Proof.Proofs
end

section
/-! SUPPORT. The lift engine and the gate words keep memory canonical and freed registers zero. -/

namespace Sys2Proof.Proofs

open Sys2Proof.Machine Sys2Proof.Safety

set_option Elab.async false

section
variable {a b : Prop} {s : State}

/-! ## Queues and turns (R290-R302) -/

theorem Tidy.onQueue (h : Tidy a b s) (t : TeamId) (ch : Nat) (f : LiftQueue → LiftQueue) : Tidy a b (s.onQueue t ch f) := h.onTeam _ _

theorem Tidy.onGate (h : Tidy a b s) (m : Team) (c : Nat) (f : Nat → Nat) : Tidy a b (s.onGate m c f) := by
  unfold State.onGate
  split
  · exact h.tileWrite _ _ _ _
  · exact h

theorem Tidy.channelGo (h : Tidy a b s) (core ch : Nat) : Tidy a b (s.channelGo core ch) := by
  unfold State.channelGo
  split
  · exact h
  · split
    · exact h
    · exact .ite h (h.push _)

theorem Tidy.dropReads (h : Tidy a b s) (t : TeamId) (ch : Nat) : Tidy a b (s.dropReads t ch) := h.of_eq

theorem Tidy.liftFail (h : Tidy a b s) (t : TeamId) (ch : Nat) (e : LiftErr) : Tidy a b (s.liftFail t ch e) := by
  unfold State.liftFail
  split
  · exact h
  · split
    · exact h
    · refine Tidy.exitCheck (Tidy.testGates (Tidy.channelGo (Tidy.onQueue (Tidy.dropReads (Tidy.onTeam ?_ _ _) _ _) _ _ _) _ _)) _
      refine h.foldl (fun u k hu => ?_) _
      split
      · exact hu
      · exact hu.onGate _ _ _

theorem Tidy.liftPark (h : Tidy a b s) (t : Team) (ch va acc : Nat) : Tidy a b (s.liftPark t ch va acc) :=
  ((h.postFault _ _).onQueue _ _ _).channelGo _ _

theorem Tidy.liftGo (h : Tidy a b s) (t : TeamId) (ch : Nat) : Tidy a b (s.liftGo t ch) := by
  unfold State.liftGo
  split
  · exact h
  · exact Tidy.channelGo (.ite h (.ite (h.push _) (.ite (h.push _) h))) _ _

theorem Tidy.liftResolve (h : Tidy a b s) (t : TeamId) (ch seq : Nat) : Tidy a b (s.liftResolve t ch seq) :=
  .ite ((h.onQueue _ _ _).liftGo _ _) h

theorem Tidy.liftDecline (h : Tidy a b s) (t : TeamId) (ch seq va : Nat) : Tidy a b (s.liftDecline t ch seq va) := by
  unfold State.liftDecline
  split
  · exact h
  · exact .ite h (h.liftFail _ _ _)

/-! ## Source reads (R300) -/

theorem Tidy.channelLoad (h : Tidy a b s) (c l : Nat) : Tidy a b (s.channelLoad c l).2 := by
  have hl := h.findLine c l
  unfold State.channelLoad
  split
  next e => exact hl.of_snd e
  next e => exact hl.of_snd e
  next e => exact hl.of_snd e
  next e =>
    have hu := hl.of_snd e
    refine Tidy.ite_snd (hu.putHome _) (Tidy.ite_snd (hu.putHome _) ?_)
    exact Tidy.putHome (hu.foldl (fun v w hv => hv.waitUntil _) _) _

theorem Tidy.homeBytes (who : PackId) (core c : Nat) : ∀ (k va n : Nat) {s : State}, Tidy a b s →
    Tidy a b (s.homeBytes who core c va n k).2
  | 0, _, _, _, h => h
  | k + 1, va, n, s, h => by
    have hgo : ∀ (u : State) (d : Line), Tidy a b u → Tidy a b (match (u.homeBytes who core c (va + min n (128 - va % 128))
          (n - min n (128 - va % 128)) k).1 with
        | .ok bs => (LiftRead.ok ((List.range (min n (128 - va % 128))).map (fun i => lineByte d (va % 128 + i)) ++ bs),
            (u.homeBytes who core c (va + min n (128 - va % 128)) (n - min n (128 - va % 128)) k).2)
        | x => (x, (u.homeBytes who core c (va + min n (128 - va % 128)) (n - min n (128 - va % 128)) k).2)).2 := fun u d hu => by
      split <;> exact Tidy.homeBytes who core c k _ _ hu
    unfold State.homeBytes
    refine Tidy.ite_snd h ?_
    dsimp only
    split
    · split
      · exact h
      · exact hgo _ _ h
    · have hl := h.channelLoad c (va / 128)
      split
      next e => exact hgo _ _ (hl.of_snd e)
      next e => exact hl.of_snd e
      next e => exact hl.of_snd e
      next e => exact (hl.of_snd e).sendRequest _ _ _ _ _ _ _

theorem Tidy.homeRead (who : PackId) (core c : Nat) : ∀ (l : List (Int × Nat)) {s : State}, Tidy a b s →
    Tidy a b (s.homeRead who core c l).2
  | [], _, h => h
  | (va, n) :: l, s, h => by
    have hl := Tidy.homeBytes who core c (n / 128 + 2) va.toNat n h
    unfold State.homeRead
    refine Tidy.ite_snd h ?_
    split
    next e =>
      have hr := Tidy.homeRead who core c l (hl.of_snd e)
      split
      next e => exact hr.of_snd e
      · exact hr
    · exact hl

theorem Tidy.channelRead (h : Tidy a b s) (t : Team) (ch : Nat) (l : List (Int × Nat)) : Tidy a b (s.channelRead t ch l).2 :=
  Tidy.homeRead _ _ _ l h

/-! ## Starting a command (R296) -/

theorem Tidy.wakeLoads (h : Tidy a b s) (t : TeamId) : Tidy a b (s.wakeLoads t) := by
  unfold State.wakeLoads
  split
  · exact h
  · exact h.foldl (fun u ch hu => .ite hu (hu.liftGo _ _)) _

theorem Tidy.liftStart (h : Tidy a b s) (t : Team) (ch r : Nat) : Tidy a b (s.liftStart t ch r) := (h.onQueue _ _ _).liftGo _ _
theorem Tidy.liftRefuse (h : Tidy a b s) (t : Team) (ch r x : Nat) : Tidy a b (s.liftRefuse t ch r x) := h.liftFail _ _ _

theorem tidy_liftCommandStart (h : Tidy a b s) (t : TeamId) (ch : Nat) : TidyNext a b (exec (.liftCommandStart t ch) s) := by
  show Tidy a b (match s.team? t with
    | none => s
    | some m => _)
  split
  · exact h
  next m _ =>
    dsimp only
    split
    · exact h
    next k _ _ =>
      have hr := h.channelRead m ch [((lcSrc k.blk.toNat : Int), 128)]
      refine .ite h (.ite h ?_)
      split
      · refine .ite (h.liftRefuse _ _ _ _) (.ite (h.liftRefuse _ _ _ _) ?_)
        split
        next e => exact (hr.of_snd e).liftRefuse _ _ _ _
        next e => exact (hr.of_snd e).liftPark _ _ _ _
        next e => exact hr.of_snd e
        next e => exact (hr.of_snd e).liftRefuse _ _ _ _
      · refine .ite (h.liftStart _ _ _) ?_
        split
        next e => exact (hr.of_snd e).liftFail _ _ _
        next e => exact (hr.of_snd e).liftPark _ _ _ _
        next e => exact hr.of_snd e
        next e =>
          have hu := hr.of_snd e
          refine .ite (hu.liftRefuse _ _ _ _) ?_
          split
          · exact hu.liftRefuse _ _ _ _
          · exact hu.liftStart _ _ _

/-! ## Delivery (R297-R299, R308) -/

theorem Tidy.countGates (c k : Nat) (ns : List Nat) : ∀ (ms : List Team) {s u : State}, Tidy a b s → s.countGates c k ns ms = some u →
    Tidy a b u
  | [], _, _, h, e => by
    cases e
    exact h
  | m :: ms, s, u, h, e => by
    unfold State.countGates at e
    split at e
    · cases e
    · split at e
      · cases e
      · exact Tidy.countGates c k ns ms (h.tileWrite _ _ _ _).testGates e

theorem Tidy.countEach (c k : Nat) (ns : List Nat) : ∀ (ms : List Team) {s : State}, Tidy a b s → Tidy a b (s.countEach c k ns ms).2
  | [], _, h => h
  | m :: ms, s, h => by
    unfold State.countEach
    split
    next e => exact Tidy.countEach c k ns ms (Tidy.countGates c k ns [m] h e)
    · exact Tidy.countEach c k ns ms h

theorem Tidy.liftFlaw (h : Tidy a b s) (t : TeamId) (ch : Nat) (e : LiftErr) : Tidy a b (s.liftFlaw t ch e) := h.onQueue _ _ _

theorem Tidy.deliverTo (h : Tidy a b s) (m : Team) (c o : Nat) (bs : List Byte) : Tidy a b (s.deliverTo m c o bs) := by
  unfold State.deliverTo
  split
  · exact h
  · split
    · exact h
    · exact (h.tileWrite _ _ _ _).onAlloc _ _

theorem Tidy.blockEnd (h : Tidy a b s) (t : TeamId) (ch : Nat) : Tidy a b (s.blockEnd t ch) := by
  unfold State.blockEnd
  split
  · exact h
  · refine .ite h ?_
    refine .ite (Tidy.exitCheck (Tidy.onTeam ?_ _ _) _) ?_ <;>
    · split
      · exact h.liftFail _ _ _
      · exact h

theorem Tidy.blockDone (h : Tidy a b s) (t : TeamId) (ch n : Nat) (l : Bool) : Tidy a b (s.blockDone t ch n l) := by
  unfold State.blockDone
  split
  · exact h
  · exact (((((((h.dropReads _ _).onQueue _ _ _).blockEnd _ _).onCore _ _).liftGo _ _).saveCheck _)).testGates

theorem Tidy.resetPtr (h : Tidy a b s) (c : Nat) (ms : List Team) : Tidy a b (s.resetPtr c ms) := by
  refine h.foldl (fun u m hu => ?_) _
  split
  · exact hu
  · exact hu.onAlloc _ _

theorem Tidy.deliverBlock (h : Tidy a b s) (t : Team) (ch c : Nat) (bs : List Byte) (w l : Bool) : Tidy a b (s.deliverBlock t ch c bs w l) := by
  have hr : Tidy a b (if (t.queue ch).sent = 0 && lcOp c != 3 then s.resetPtr c (s.named t c) else s) := .ite (h.resetPtr _ _) h
  exact .ite (h.liftFail _ _ _) (.ite (hr.blockDone _ _ _ _) ((hr.onQueue _ _ _).liftGo _ _))

theorem Tidy.stepBlock (h : Tidy a b s) (t : Team) (ch c : Nat) : Tidy a b (s.stepBlock t ch c) := by
  have h1 := Tidy.countEach c 0 [(stepBytes c (t.queue ch).rest).length] ((s.named t c).filter fun m => m.status == .resident) h
  unfold State.stepBlock
  dsimp only
  have hfold : ∀ {u : State} (l : List Team) (f : State → Team → State), Tidy a b u → (∀ u m, Tidy a b u → Tidy a b (f u m)) →
      Tidy a b (l.foldl f u) := fun l f hu hf => hu.foldl hf l
  have h2 := Tidy.ite (c := (s.countEach c 0 [(stepBytes c (t.queue ch).rest).length] ((s.named t c).filter fun m => m.status == .resident)).1 = true)
    h1 (h1.liftFlaw t.id ch (gateFlaw (t.queue ch).coord))
  have h3 : ∀ {u : State}, Tidy a b u → Tidy a b (if lcOp c = 3 then u.onTeam t.id fun m => m.putAcc c (t.queue ch).sent (stepBytes c (t.queue ch).rest)
      else ((s.named t c).filter fun m => m.status == .resident).foldl
        (fun s m => s.deliverTo m c (lcDoff c + (t.queue ch).sent) (stepBytes c (t.queue ch).rest)) u) := fun hu =>
    .ite (hu.onTeam _ _) (hu.foldl (fun _ _ hv => hv.deliverTo _ _ _ _) _)
  refine .ite (Tidy.blockDone ?_ _ _ _ _) (Tidy.testGates (Tidy.liftGo (Tidy.onQueue ?_ _ _ _) _ _)) <;>
  exact (h3 h2).foldl (fun _ _ hv => hv.onQueue _ _ _) _

theorem Tidy.heldStep (h : Tidy a b s) (t : Team) (ch c n : Nat) (x : Held) (m : Team) : Tidy a b (s.heldStep t ch c n x m) := by
  have h1 := Tidy.countEach c 0 (countSteps (lcOp c == 1) (x.bytes.take n).length) [m] h
  unfold State.heldStep
  refine Tidy.testGates (Tidy.liftGo (Tidy.blockEnd (Tidy.onQueue (Tidy.deliverTo ?_ _ _ _ _) _ _ _) _ _) _ _)
  exact .ite h1 (h1.liftFlaw _ _ _)

theorem Tidy.settleHeld (h : Tidy a b s) (t : Team) (ch : Nat) : Tidy a b (s.settleHeld t ch) := by
  unfold State.settleHeld
  split
  · exact h
  · refine h.foldl (fun u x hu => ?_) _
    split
    · exact hu.heldStep _ _ _ _ _ _
    · exact hu

theorem Tidy.unitServed (h : Tidy a b s) (core : Nat) (u : Bool) (ch : Nat) : Tidy a b (s.unitServed core u ch) := h.onCore _ _

theorem Tidy.beginBlock (h : Tidy a b s) (core ch c : Nat) (me : Instr) {t : State} (ht : Tidy a b t) :
    Tidy a b (s.beginBlock core ch c me t) := by
  unfold State.beginBlock
  split
  · exact ht
  · split
    · exact ht
    · exact .ite (ht.unitServed _ _ _) ((Tidy.ite h (h.push _)).push _)

theorem Tidy.liftBlock (h : Tidy a b s) (t : TeamId) (ch op : Nat) {f : Team → Nat → State} (hf : ∀ m c, Tidy a b (f m c)) :
    Tidy a b (s.liftBlock t ch op f) := by
  unfold State.liftBlock
  split
  · exact h
  · dsimp only
    split
    · exact h
    · refine .ite h (.ite (h.stepBlock _ _ _) ?_)
      split
      · exact h.heldStep _ _ _ _ _ _
      · exact .ite (h.beginBlock _ _ _ _ (hf _ _)) h

theorem Tidy.plainBlock (h : Tidy a b s) (t : Team) (ch c : Nat) : Tidy a b (s.plainBlock t ch c) := by
  have hr := h.channelRead t ch (runSegments c (t.queue ch).sent (min (lcPlainBytes c) ((t.queue ch).sent + 4096)))
  unfold State.plainBlock
  dsimp only
  split
  next e => exact (hr.of_snd e).deliverBlock _ _ _ _ _ _
  next e => exact (hr.of_snd e).liftFail _ _ _
  next e => exact (hr.of_snd e).liftPark _ _ _ _
  next e => exact hr.of_snd e

theorem Tidy.readBlock (h : Tidy a b s) (t : Team) (ch c : Nat) {k : State → Nat → List Byte → State}
    (hk : ∀ u e bs, Tidy a b u → Tidy a b (k u e bs)) : Tidy a b (s.readBlock t ch c k) := by
  unfold State.readBlock
  dsimp only
  split
  · exact h.liftFail _ _ _
  next n _ =>
    have hr := h.channelRead t ch [((layBidx (t.queue ch).rec_ + 8 * n : Nat), 8)]
    split
    next e => exact (hr.of_snd e).liftFail _ _ _
    next e => exact (hr.of_snd e).liftPark _ _ _ _
    next e => exact hr.of_snd e
    next eb u e =>
      have hu := hr.of_snd e
      refine .ite (hu.liftFail _ _ _) (.ite (hk _ _ _ hu) ?_)
      have hq := hu.keyFor t.ctx (layKEY (t.queue ch).rec_)
      refine .ite (hq.liftFail _ _ _) ?_
      have hb := hq.channelRead t ch [((layData (t.queue ch).rec_ + 32 * entOff (ofBytes eb) : Nat), 32 * entLen (ofBytes eb))]
      split
      next e => exact (hb.of_snd e).liftFail _ _ _
      next e => exact (hb.of_snd e).liftPark _ _ _ _
      next e => exact hb.of_snd e
      next e => exact hk _ _ _ (hb.of_snd e)

theorem tidy_liftCopy (h : Tidy a b s) (t : TeamId) (ch : Nat) : TidyNext a b (exec (.liftCopy t ch) s) := by
  refine h.liftBlock t ch 0 fun m c => ?_
  refine .ite (h.plainBlock _ _ _) (h.readBlock _ _ _ fun u e bs hu => ?_)
  exact .ite (hu.liftFail _ _ _) (hu.deliverBlock _ _ _ _ _ _)

theorem Tidy.decodeBlock (h : Tidy a b s) (m : Team) (ch c : Nat) : Tidy a b (s.decodeBlock m ch c) := by
  refine h.readBlock _ _ _ fun u e bs hu => ?_
  dsimp only
  split
  · exact hu.liftFail _ _ _
  · exact hu.liftFail _ _ _
  · exact hu.deliverBlock _ _ _ _ _ _

theorem tidy_liftDecodeCopy (h : Tidy a b s) (t : TeamId) (ch : Nat) : TidyNext a b (exec (.liftDecodeCopy t ch) s) :=
  h.liftBlock t ch 1 fun _ _ => h.decodeBlock _ _ _

theorem tidy_liftAccumulatorLoad (h : Tidy a b s) (t : TeamId) (ch : Nat) : TidyNext a b (exec (.liftAccumulatorLoad t ch) s) :=
  h.liftBlock t ch 3 fun _ _ => .ite (h.decodeBlock _ _ _) (h.plainBlock _ _ _)

/-! ## Encode-store, completion and errors (R295, R298-R302) -/

theorem Tidy.storeBlock (h : Tidy a b s) (m : Team) (ch c : Nat) (bs : List Byte) : Tidy a b (s.storeBlock m ch c bs) := by
  unfold State.storeBlock
  dsimp only
  split
  · exact h.liftFail _ _ _
  · have hq := h.keyFor m.ctx (layKEY (m.queue ch).rec_)
    refine .ite (hq.liftFail _ _ _) (.ite (h.liftFail _ _ _) ?_)
    have happ := fun x k => hq.append x k
    split
    next e =>
      have hu := Tidy.of_snd (happ _ _) e
      split
      · exact (hu.waitUntil _).liftFail _ _ _
      next e => exact (Tidy.countGates _ _ _ _ (hu.waitUntil _) e).blockDone _ _ _ _
    next e => exact (Tidy.of_snd (happ _ _) e).liftFail _ _ _
    next e => exact .ite ((Tidy.of_snd (happ _ _) e).liftPark _ _ _ _) ((Tidy.of_snd (happ _ _) e).liftFail _ _ _)
    next e => exact (Tidy.of_snd (happ _ _) e).liftFail _ _ _

theorem tidy_liftEncodeStore (h : Tidy a b s) (t : TeamId) (ch : Nat) : TidyNext a b (exec (.liftEncodeStore t ch) s) := by
  refine h.liftBlock t ch 2 fun m c => ?_
  dsimp only
  split
  · exact h.liftFail _ _ _
  · split
    · exact h.liftFail _ _ _
    · refine .ite (h.liftFail _ _ _) (.ite (h.liftFail _ _ _) ?_)
      split
      · exact h.liftFail _ _ _
      · exact h.liftFail _ _ _
      · exact h.storeBlock _ _ _ _

theorem tidy_liftCommandComplete (h : Tidy a b s) (t : TeamId) (ch : Nat) : TidyNext a b (exec (.liftCommandComplete t ch) s) := by
  show Tidy a b (match s.team? t with
    | none => s
    | some m => _)
  split
  · exact h
  · dsimp only
    split
    · refine .ite h ?_
      split
      · exact (h.waitUntil _).liftFail _ _ _
      next e =>
        have hu := Tidy.countGates _ _ _ _ (h.waitUntil _) e
        exact ((((hu.onTeam _ _).onQueue _ _ _).liftGo _ _).testGates).exitCheck _
    · exact h

theorem tidy_liftError (h : Tidy a b s) (t : TeamId) (ch : Nat) (x : LiftErr) : TidyNext a b (exec (.liftError t ch x) s) := by
  show Tidy a b (match s.team? t with
    | none => s
    | some m => _)
  split
  · exact h
  · exact .ite h (.ite (h.liftFail _ _ _) (h.liftFlaw _ _ _))

theorem tidy_liftSourcePark (h : Tidy a b s) (t : TeamId) (ch va : Nat) : TidyNext a b (exec (.liftSourcePark t ch va) s) := by
  show Tidy a b (match s.team? t with
    | none => s
    | some m => _)
  split
  · exact h
  · exact .ite (h.liftPark _ _ _ _) h

theorem tidy_multicastHeldDelivery (h : Tidy a b s) (t : TeamId) (ch r : Nat) :
    TidyNext a b (exec (.multicastHeldDelivery t ch r) s) := by
  show Tidy a b (match s.team? t with
    | none => s
    | some m => _)
  split
  · exact h
  · dsimp only
    split
    · exact .ite h (h.heldStep _ _ _ _ _ _)
    · exact h

/-! ## LIFT, LQRY, LCAN and the gate words (R304-R312) -/

/-- A scalar register written. -/
theorem freed_setS {p : Pack} (h : FreedReadZero p) (d : Nat) (x : DWord) : FreedReadZero (p.setS d x) := freed_of_eq h rfl rfl

theorem Tidy.submit {u t : State} (hu : Tidy a b u) (ht : Tidy a b t) (d : BitVec 6) (x : BitVec 512) : TidyRes a b (u.submit t d x) := by
  rw [State.submit]
  extract_lets ch q t1
  refine TidyRes.ite (hu.setPk fun hk => freed_of_eq hk rfl rfl) ?_
  have h1 : Tidy a b t1 := ht.setPk fun hk => freed_setS (p := { t.pk with lifting := none }) (freed_of_eq hk rfl rfl) _ _
  exact Tidy.ite (Tidy.push (h1.onQueue _ _ _) _) (h1.onQueue _ _ _)

theorem tidy_lift (h : Tidy a b s) (e : Bool) (d x : BitVec 6) : TidyNext a b (exec (.lift e d x) s) := by
  refine h.issueWord _ fun t ht => ?_
  have hfault : ∀ r n o, TidyRes a b (.done { t with pk := t.pk.deferTileAll r n o }) := fun _ _ _ =>
    ht.setPk fun hk => freed_deferTileAll hk _ _ _
  dsimp only
  split
  · exact h.submit ht _ _
  · split
    · exact hfault _ _ _
    · refine TidyRes.ite (hfault _ _ _) ?_
      split
      · exact hfault _ _ _
      · refine TidyRes.ite (ht.setPk fun hk => freed_deferTileEccAll hk _) (TidyRes.ite (ht.setPk fun hk => freed_setS hk _ _) ?_)
        exact h.submit ht _ _

theorem tidy_lqry (h : Tidy a b s) (e : Bool) (d x : BitVec 6) : TidyNext a b (exec (.lqry e d x) s) :=
  h.issueWord _ fun _ ht => ht.setPk fun hk => freed_of_eq hk rfl rfl

theorem tidy_lcan (h : Tidy a b s) (e : Bool) (d x : BitVec 6) : TidyNext a b (exec (.lcan e d x) s) := by
  refine h.issueWord _ fun t ht => ?_
  refine TidyRes.ite (h.onQueue _ _ _) ?_
  exact Tidy.setPk ((ht.onTeam _ _).dropReads _ _) fun hk => freed_of_eq hk rfl rfl

theorem Tidy.gateWord (h : Tidy a b s) (i : Instr) (x y : BitVec 6) (w : State → Bool) (f : State → Nat → Option Nat) :
    TidyNext a b (gateWord i x y s w f) := by
  refine h.issueWord i fun t ht => TidyRes.ite trivial ?_
  dsimp only
  split
  · exact ht.setPk fun hk => freed_deferTileAll hk _ _ _
  · split
    · exact ht.setPk fun hk => freed_deferTileAll hk _ _ _
    · exact (ht.tileWrite _ _ _ _).testGates

theorem tidy_ginit (h : Tidy a b s) (e : Bool) (v x y : BitVec 6) : TidyNext a b (exec (.ginit e v x y) s) := by
  refine h.issueWord _ fun t ht => ?_
  dsimp only
  split
  · exact ht.setPk fun hk => freed_deferTileAll hk _ _ _
  · exact (ht.tileWrite _ _ _ _).testGates

theorem tidy_gtry (h : Tidy a b s) (e : Bool) (v x y : BitVec 6) : TidyNext a b (exec (.gtry e v x y) s) := by
  refine h.issueWord _ fun t ht => ?_
  dsimp only
  split
  · exact ht.setPk fun hk => freed_deferTileAll hk _ _ _
  · exact ht.setPk fun hk => freed_setS hk _ _

/-- A blocking word. -/
theorem TidyRes.blockWord {u t : State} (hu : Tidy a b u) (ht : Tidy a b t) (c : Bool) (w : Wait) : TidyRes a b (blockWord u t c w) := by
  unfold Machine.blockWord
  split
  · exact hu.takePending
  · split
    · exact ht.goto _ _
    · exact ht.block _

theorem tidy_gwait (h : Tidy a b s) (e : Bool) (v x y : BitVec 6) : TidyNext a b (exec (.gwait e v x y) s) := by
  refine h.issueWord _ fun t ht => TidyRes.ite h.takePending ?_
  split
  · exact Tidy.takePending (h.setPk fun hk => freed_deferTileAll hk _ _ _)
  · refine TidyRes.ite (Tidy.takePending (h.setPk fun hk => freed_deferLift hk _ _ _)) ?_
    exact TidyRes.blockWord h ht _ _

end

end Sys2Proof.Proofs
end

section
/-! SUPPORT. The words and events of the matrix array keep memory canonical and freed registers zero. -/

namespace Sys2Proof.Proofs

open Sys2Proof.Machine Sys2Proof.Safety

set_option Elab.async false

section
variable {a b : Prop} {s : State}

/-! ## The words (R315-R332) -/

theorem Tidy.claimArray (h : Tidy a b s) (t : Team) : Tidy a b (s.claimArray t) := by
  unfold State.claimArray
  exact Tidy.onCore (.ite (h.bumpCore _ _) h) _ _

theorem Tidy.matrixWord (h : Tidy a b s) (i : Instr) {f : State → State → Res} (hf : ∀ t, Tidy a b t → TidyRes a b (f s t)) :
    TidyNext a b (matrixWord i s f) := by
  refine h.issueWord i fun t ht => TidyRes.ite trivial (hf _ ?_)
  exact ht.setPk fun hk => freed_of_eq hk rfl rfl

theorem Tidy.startArray (h : Tidy a b s) (u : State) (i : Instr) (o : Op) : Tidy a b (s.startArray u i o) := h.startOp _ _

theorem TidyRes.withTiles {r : Res} (h : TidyRes a b r) (u : State) (k n : Nat) : TidyRes a b (withTiles u k n r) := by
  refine TidyRes.ite trivial ?_
  split
  · trivial
  · exact h

theorem TidyRes.withLaneTile {r : Res} (h : TidyRes a b r) (u : State) (k : Nat) : TidyRes a b (withLaneTile u k r) :=
  TidyRes.ite h (h.withTiles u k 1)

theorem TidyRes.mmaIssue {t : State} (h : Tidy a b t) (i : Instr) (u : State) (x : Nat) (k : Bool) (fn sc : Nat) :
    TidyRes a b (mmaIssue i u t x k fn sc) := by
  refine Tidy.startArray ?_ u i _
  exact h.setPk fun hk => freed_of_eq (freed_noteReads hk _) rfl rfl

theorem tidy_mma (h : Tidy a b s) (e : Bool) (n : BitVec 4) (g k : BitVec 1) (sc : BitVec 6) (p : BitVec 1) (f : BitVec 6) :
    TidyNext a b (exec (.mma e n g k sc p f) s) := by
  show TidyNext a b (execMma e n g k sc p f s)
  unfold execMma
  refine h.matrixWord _ fun t ht => ?_
  have hgo := fun i => TidyRes.mmaIssue ht i s (32 * g.toNat) (k == 1) f.toNat sc.toNat
  refine TidyRes.ite trivial (TidyRes.ite ((hgo _).withTiles _ _ _) ?_)
  split
  · trivial
  · refine TidyRes.ite trivial (TidyRes.withTiles ?_ _ _ _)
    split
    · trivial
    · exact hgo _

theorem tidy_mswap (h : Tidy a b s) (e : Bool) : TidyNext a b (exec (.mswap e) s) := by
  show TidyNext a b (execMswap e s)
  unfold execMswap
  exact h.matrixWord _ fun _ ht => ht.startArray _ _ _

theorem tidy_mzero (h : Tidy a b s) (e : Bool) (n x : BitVec 4) : TidyNext a b (exec (.mzero e n x) s) := by
  show TidyNext a b (execMzero e n x s)
  unfold execMzero
  exact h.matrixWord _ fun _ ht => TidyRes.ite trivial (ht.startArray _ _ _)

theorem tidy_mrd (h : Tidy a b s) (e : Bool) (n : BitVec 4) (d x : BitVec 6) : TidyNext a b (exec (.mrd e n d x) s) := by
  show TidyNext a b (execMrd e n d x s)
  unfold execMrd
  refine h.matrixWord _ fun t ht => TidyRes.withLaneTile ?_ _ _
  exact Tidy.startArray (ht.setPk fun hk => freed_deferAcc hk _ _) _ _ _

theorem tidy_mwr (h : Tidy a b s) (e : Bool) (n : BitVec 4) (v x : BitVec 6) : TidyNext a b (exec (.mwr e n v x) s) := by
  show TidyNext a b (execMwr e n v x s)
  unfold execMwr
  refine h.matrixWord _ fun t ht => TidyRes.withLaneTile ?_ _ _
  exact Tidy.startArray (ht.setPk fun hk => freed_deferAcc hk _ _) _ _ _

theorem tidy_mrel (h : Tidy a b s) (e : Bool) : TidyNext a b (exec (.mrel e) s) := h.packWord _ fun _ _ hq => freed_of_eq hq rfl rfl

theorem tidy_ppt (h : Tidy a b s) (e : Bool) (m : BitVec 16) : TidyNext a b (exec (.ppt e m) s) := by
  refine h.issueWord _ fun t ht => ?_
  exact Tidy.setPk (ht.finish _) fun hk => freed_of_eq hk rfl rfl

theorem tidy_mwld (h : Tidy a b s) (e : Bool) (v x : BitVec 6) (y : BitVec 5) : TidyNext a b (exec (.mwld e v x y) s) := by
  show TidyNext a b (execMwld e v x y s)
  unfold execMwld
  refine h.matrixWord _ fun t ht => ?_
  dsimp only
  split
  · exact ht.setPk fun hk => freed_deferTileAll hk _ _ _
  · refine ht.readLayout _ _ fun t r ht => ?_
    split
    · trivial
    · refine TidyRes.ite trivial (TidyRes.ite trivial (TidyRes.ite trivial (TidyRes.ite trivial ?_)))
      split
      · trivial
      · exact ht.setPk fun hk => freed_deferTileAll hk _ _ _
      · refine TidyRes.ite (ht.setPk fun hk => freed_deferTileEccAll hk _) ?_
        exact ht.startArray _ _ _

/-! ## Events of the array (R322-R336) -/

theorem Tidy.performed (h : Tidy a b s) (p : PackId) (n : Nat) (t : TeamId) (f : BitVec 8) (got : List (Nat × Nat)) :
    Tidy a b (s.performed p n t f got) := ((h.onOp _ _ _).push _).wakeLoads _

theorem tidy_mmaArrayStart (h : Tidy a b s) (p : PackId) (n : Nat) : TidyNext a b (exec (.mmaArrayStart p n) s) := by
  show Tidy a b (match s.arrayOp? p n with
    | none => s
    | some (m, o) => _)
  split
  · exact h
  next m o _ =>
    have hc := h.claimArray m
    dsimp only
    split
    · refine .ite ((hc.onTeam _ _).performed _ _ _ _ _) (.ite hc ?_)
      split
      · exact hc
      next r _ => exact ((((hc.claimArray r).onTeam _ _).onTeam _ _).performed _ _ _ _ _).wakeLoads _
    · exact (hc.onTeam _ _).performed _ _ _ _ _
    · exact (hc.onTeam _ _).performed _ _ _ _ _
    · exact hc.performed _ _ _ _ _
    · exact (hc.onTeam _ _).performed _ _ _ _ _
    · exact hc

theorem tidy_mwldBufferWrite (h : Tidy a b s) (p : PackId) (n : Nat) : TidyNext a b (exec (.mwldBufferWrite p n) s) := by
  show Tidy a b (match s.arrayOp? p n with
    | none => s
    | some (m, o) => _)
  split
  · exact h
  · split
    · exact ((h.claimArray _).onTeam _ _).performed _ _ _ _ _
    · exact h

theorem tidy_pairSlave (h : Tidy a b s) (p : PackId) (n : Nat) : TidyNext a b (exec (.pairSlave p n) s) := by
  show Tidy a b (match s.arrayOp? p n with
    | none => s
    | some (m, o) => _)
  split
  · exact h
  · exact .ite h (((h.onOp _ _ _).onCore _ _).push _)

theorem Tidy.unslave (h : Tidy a b s) (p : PackId) (n : Nat) : Tidy a b (s.unslave p n) := by
  unfold State.unslave
  split
  · exact h
  · exact h.onCore _ _

theorem Tidy.releasePartner (h : Tidy a b s) (t : TeamId) : Tidy a b (s.releasePartner t) := by
  unfold State.releasePartner
  split
  · exact h
  · exact (h.saveCheck _).exitCheck _

theorem tidy_matrixOpRetire (h : Tidy a b s) (p : PackId) (n : Nat) : TidyNext a b (exec (.matrixOpRetire p n) s) := by
  show Tidy a b (match (s.pack? p).bind fun k => k.op? n with
    | none => s
    | some o => _)
  split
  · exact h
  · have hu := ((h.unslave p n).endOp p n (f := fun o k => (k.landOp o).raiseFlags (BitVec.ofNat 8 ((o.args[1]?).getD 0)))
      fun o k hk => freed_raiseFlags (freed_landOp hk o) _).afterOp p
    exact .ite h (.ite (hu.releasePartner _) hu)

theorem Tidy.gangAbort (h : Tidy a b s) (t : Team) : Tidy a b (s.gangAbort t) := by
  refine h.foldl (fun u m hu => ?_) _
  split
  · exact hu
  · exact .ite hu (hu.haltTeam _ _ _)

theorem tidy_pairAbort (h : Tidy a b s) (p : PackId) (n : Nat) : TidyNext a b (exec (.pairAbort p n) s) := by
  show Tidy a b (match (s.pack? p).bind fun k => (k.op? n).map fun o => (s.teamOf k, o) with
    | none => s
    | some (m, o) => _)
  split
  · exact h
  · split
    · refine Tidy.releasePartner (Tidy.afterOp (Tidy.gangAbort (Tidy.endOp (Tidy.unslave ?_ _ _) _ _ fun _ _ hk => hk) _) _) _
      split
      · exact h.onTeam _ _
      · exact (h.onTeam _ _).onTeam _ _
    · exact h

theorem tidy_pptTimeout (h : Tidy a b s) (p : PackId) : TidyNext a b (exec (.pptTimeout p) s) := by
  show Tidy a b (match s.pack? p with
    | none => s
    | some k => _)
  split
  · exact h
  · exact .ite (h.waitUntil _) h

end

end Sys2Proof.Proofs
end

section
/-! SUPPORT. Launch and scheduling keep memory canonical and freed registers zero. -/

namespace Sys2Proof.Proofs

open Sys2Proof.Machine Sys2Proof.Safety

set_option Elab.async false

section
variable {a b : Prop} {s : State}

/-- A state whose packs are among those of a tidy one. -/
theorem Tidy.of_packs (h : Tidy a b s) {t : State} (h0 : t.hbm = s.hbm) (h1 : t.pk = s.pk) (h2 : ∀ p ∈ t.packs, p ∈ s.packs) : Tidy a b t :=
  ⟨fun ha => by rw [MemoryWf, h0]; exact h.mem ha, fun hb => by rw [h1]; exact h.pk hb, fun hb p hp => h.packs hb p (h2 p hp)⟩

/-! ## Queues and records (R337-R345, R351) -/

theorem Tidy.onHQueue (h : Tidy a b s) (q : Nat) (f : HQueue → HQueue) : Tidy a b (s.onHQueue q f) := h.of_eq

theorem TidyNext.queueEvent (q : Nat) {f : State → State} (hf : Tidy a b (f s)) : TidyNext a b (queueEvent q s f) := by
  unfold Machine.queueEvent
  split
  · exact hf
  · trivial

theorem Tidy.dropFetched (h : Tidy a b s) (p : PackId) : Tidy a b (s.dropFetched p) := h.of_eq

theorem Tidy.preloadSlots (who : PackId) (core c : Nat) : ∀ (ks : List Nat) (x : Nat) {s : State}, Tidy a b s →
    Tidy a b (s.preloadSlots who core c x ks).2
  | [], _, _, h => h
  | k :: ks, x, s, h => by
    have hr := Tidy.homeRead who core c [((x : Int), 4)] h
    unfold State.preloadSlots
    split
    next e => exact hr.of_snd e
    next e => exact hr.of_snd e
    next e =>
      have hu := fun l => Tidy.homeRead who core c l (hr.of_snd e)
      dsimp only
      split
      next e => exact Tidy.of_snd (hu _) e
      next e => exact Tidy.of_snd (hu _) e
      next e =>
        have hv := Tidy.of_snd (hu _) e
        refine Tidy.ite_snd hv ?_
        have hw := fun x => Tidy.preloadSlots who core c ks x hv
        split
        next e => exact Tidy.of_snd (hw _) e
        · exact hw _
      next e => exact Tidy.of_snd (hu _) e
    next e => exact hr.of_snd e

theorem Tidy.readPreload (h : Tidy a b s) (who : PackId) (core c x : Nat) : Tidy a b (s.readPreload who core c x).2 := by
  have hr := Tidy.homeRead who core c [((x : Int), 4)] h
  unfold State.readPreload
  refine Tidy.ite_snd h ?_
  split
  next e => exact hr.of_snd e
  next e => exact hr.of_snd e
  next e => exact Tidy.ite_snd (hr.of_snd e) (Tidy.preloadSlots _ _ _ _ _ (hr.of_snd e))
  next e => exact hr.of_snd e

theorem Tidy.fillPreload (h : Tidy a b s) (g : Grid) : Tidy a b (s.fillPreload g) := by
  have hr := h.readPreload (gridAgent g.idx) 0 g.ctx (grCtpre g.record.toNat)
  unfold State.fillPreload
  split
  next e => exact hr.of_snd e
  next e => exact ((hr.of_snd e).postFault _ _).onGrid _ _
  next e => exact (hr.of_snd e).onGrid _ _
  next e => exact (hr.of_snd e).onGrid _ _

theorem Tidy.checkRecord (h : Tidy a b s) (who : PackId) (core c r : Nat) : Tidy a b (s.checkRecord who core c r).2 := by
  have hr := h.readPreload who core c (grCtpre r)
  unfold State.checkRecord
  split
  · exact h
  · refine Tidy.ite_snd h ?_
    split
    all_goals next e => exact hr.of_snd e

theorem Tidy.writeRecord (h : Tidy a b s) (q i : Nat) (r : BitVec 256) : Tidy a b (s.writeRecord q i r) := by
  unfold State.writeRecord
  exact .ite h (.ite (h.emit _) h.of_eq)

theorem Tidy.flushRecords (q : Nat) : ∀ (n : Nat) {s : State}, Tidy a b s → Tidy a b (s.flushRecords q n)
  | 0, _, h => h
  | n + 1, s, h => by
    unfold State.flushRecords
    dsimp only
    split
    · exact h
    · split
      · exact h
      · exact .ite h (Tidy.flushRecords q n ((h.writeRecord _ _ _).onHQueue _ _))

theorem Tidy.flushQueue (h : Tidy a b s) (q : Nat) : Tidy a b (s.flushQueue q) := Tidy.flushRecords q _ h
theorem Tidy.recordReady (h : Tidy a b s) (q i : Nat) (r : BitVec 256) : Tidy a b (s.recordReady q i r) := (h.onHQueue _ _).flushQueue q

theorem Tidy.kick (h : Tidy a b s) : Tidy a b s.kick := by
  unfold State.kick
  split
  · exact h
  · exact h.push _

/-! ## Placing (R346, R347, R349) -/

/-- A pack of a fresh team holds nothing. -/
theorem freed_newPacks (g : Grid) (t : TeamId) (rs : List Role) (n : Nat) {p : Pack} (h : p ∈ newPacks g t rs n) : FreedReadZero p := by
  rw [newPacks] at h
  obtain ⟨l, hl, hp⟩ := List.mem_flatten.mp h
  obtain ⟨i, hi, rfl⟩ := List.mem_mapIdx.mp hl
  obtain ⟨k, _, rfl⟩ := List.mem_map.mp hp
  exact freed_of_eq freed_default rfl rfl

theorem Tidy.placeNew (h : Tidy a b s) (g : Grid) (n : Nat) (part : Nat × Nat × Demand) : Tidy a b (s.placeNew g n part) :=
  ⟨h.mem, h.pk, fun hb p hp => (List.mem_append.mp hp).elim (h.packs hb p) fun hn => freed_newPacks _ _ _ _ hn⟩

theorem freed_dropReplay {p : Pack} (h : FreedReadZero p) (o : Op) (c r : Nat) : FreedReadZero (p.dropReplay o c r) := by
  unfold Pack.dropReplay
  refine freed_laneFaults ?_ _ _ _ _
  exact freed_of_eq h rfl rfl

theorem Tidy.fetchReplay (h : Tidy a b s) (p : PackId) (o : Op) : Tidy a b (s.fetchReplay p o) := by
  have hdrop : ∀ {u : State}, Tidy a b u → ∀ c r, Tidy a b (u.onPack p fun k => k.dropReplay o c r) := fun hu c r =>
    hu.onPack p fun k hk => freed_dropReplay hk o c r
  unfold State.fetchReplay
  split
  · exact h
  next k _ =>
    refine .ite h ?_
    have hr : Tidy a b (if 2 ^ 45 ≤ o.fpc.toNat then (Access.fault cPROT 1, s) else if k.declined = some (3, o.fpc.toNat) then (Access.pageFault, s)
          else s.fetchLine (s.teamOf k).ctx (o.fpc.toNat / 128)).2 :=
      Tidy.ite_snd h (Tidy.ite_snd h (h.fetchLine _ _))
    dsimp only
    split
    next e =>
      have hu := hr.of_snd e
      split
      · exact .ite (hu.onPack_of_eq _) (hdrop hu _ _)
      · exact hdrop hu _ _
    next e => exact hdrop (hr.of_snd e) _ _
    next e =>
      have hu := hr.of_snd e
      refine .ite (hdrop hu _ _) ?_
      exact (hu.postFault _ _).onPack_of_eq p

theorem Tidy.replayGo (h : Tidy a b s) (p : PackId) : Tidy a b (s.replayGo p) := by
  unfold State.replayGo
  split
  · exact h
  next k _ =>
    refine .ite h ?_
    have hu : Tidy a b (k.replayOps.foldl (fun s o => s.fetchReplay p o) s) := h.foldl (fun _ _ hv => hv.fetchReplay _ _) _
    dsimp only
    split
    · exact hu
    · refine .ite hu (Tidy.push ?_ _)
      exact hu.onPack_of_eq p

theorem Tidy.restorePack (h : Tidy a b s) (p : PackId) : Tidy a b (s.restorePack p) := (h.onPack_of_eq p).replayGo p

theorem Tidy.restoreTeam (h : Tidy a b s) (m : Team) (part : Nat × Nat × Demand) : Tidy a b (s.restoreTeam m part) := by
  unfold State.restoreTeam
  refine Tidy.foldl (Tidy.of_eq (h.onTeam _ _)) (fun u p hu => hu.restorePack _) _

theorem Tidy.liftsGo (h : Tidy a b s) (t : TeamId) : Tidy a b (s.liftsGo t) := h.foldl (fun _ _ hu => hu.liftGo _ _) _

theorem Tidy.admitted (h : Tidy a b s) (g : Grid) : Tidy a b (s.admitted g) := by
  unfold State.admitted
  dsimp only
  have hu : Tidy a b (if g.admitted = true then s else
      ({ s with serial := s.serial + 1 } : State).onGrid g.idx fun k => { k with admitted := true, entry := s.serial }) := .ite h h.of_eq
  exact .ite ((hu.onHQueue _ _).push _) hu

theorem Tidy.countSlice (h : Tidy a b s) (q : Nat) : Tidy a b (s.countSlice q) := by
  unfold State.countSlice
  exact h.onHQueue _ _

theorem Tidy.place (h : Tidy a b s) (q : Nat) (p : Plan) : Tidy a b (s.place q p) := by
  unfold State.place
  refine Tidy.kick ?_
  have hu : Tidy a b { s.countSlice q with lastQueue := q, incoming := s.incoming.filter fun i => i.unit != p.unit } := (h.countSlice q).of_eq
  split
  · exact hu.foldl (fun _ _ hv => hv.restorePack _) _
  · exact Tidy.foldl (hu.foldl (fun _ _ hv => hv.restoreTeam _ _) _) (fun _ _ hv => hv.liftsGo _) _
  · split
    · exact hu
    · exact ((hu.foldl (fun _ _ hv => hv.placeNew _ _ _) _).onGrid _ _).admitted _

theorem tidy_teamPlace (h : Tidy a b s) (g : Nat) : TidyNext a b (exec (.teamPlace g) s) := by
  show Tidy a b (match s.chosen g fun p => p.victims.isEmpty && s.unitGang p.unit == 0 with
    | none => s
    | some c => s.place c.1 c.2)
  split
  · exact h
  · exact h.place _ _

theorem tidy_gangPlace (h : Tidy a b s) (g : Nat) : TidyNext a b (exec (.gangPlace g) s) := by
  show Tidy a b (match s.chosen g fun p => p.victims.isEmpty && s.unitGang p.unit != 0 with
    | none => s
    | some c => s.place c.1 c.2)
  split
  · exact h
  · exact h.place _ _

/-! ## Eviction and saving (R348, R96, R332, R333) -/

theorem Tidy.askSave (h : Tidy a b s) (ps : List PackId) : Tidy a b (s.askSave ps) := by
  refine Tidy.push (h.foldl (fun u p hu => ?_) _) _
  refine hu.onPack p fun k hk => ?_
  split
  · exact freed_of_eq hk rfl rfl
  · exact hk

theorem tidy_evict (h : Tidy a b s) (g : Nat) : TidyNext a b (exec (.evict g) s) := by
  show Tidy a b (match s.chosen g fun p => !p.victims.isEmpty with
    | none => s
    | some c => _)
  split
  · exact h
  · exact Tidy.kick (Tidy.askSave h.of_eq _)

theorem Tidy.evictTeam (h : Tidy a b s) (t : Team) : Tidy a b (s.evictTeam t) :=
  ((h.onTeam _ _).onCore _ _).foldl (fun _ _ hu => hu.channelGo _ _) _

theorem Tidy.saveTeam (h : Tidy a b s) (t : Team) : Tidy a b (s.saveTeam t) := .ite (h.foldl (fun _ _ hu => hu.evictTeam _) _) h

theorem Tidy.dropPrivate (h : Tidy a b s) (p : PackId) : Tidy a b (s.dropPrivate p) := h.of_eq

theorem Tidy.countFor (h : Tidy a b s) (g : Nat) : Tidy a b (s.countFor g) := by
  unfold State.countFor
  split
  · exact h
  · exact h.countSlice _

theorem tidy_packSave (h : Tidy a b s) (p : PackId) : TidyNext a b (exec (.packSave p) s) := by
  show Tidy a b (match s.pack? p with
    | none => s
    | some k => _)
  split
  · exact h
  · refine .ite (h.saveTeam _).kick (.ite h ?_)
    refine Tidy.kick (Tidy.saveTeam ?_ _)
    exact Tidy.onPack_of_eq (((h.flushPrivate _).dropPrivate _).countFor _) p

/-! ## Barriers (R354) -/

theorem freed_passBarrier {k : Pack} (h : FreedReadZero k) (n : Nat) (w : Wait) : FreedReadZero (Pack.passBarrier n w k) := by
  unfold Pack.passBarrier
  split
  · exact h
  · split
    · exact freed_of_eq h rfl rfl
    · split
      · exact freed_of_eq h rfl rfl
      · exact h

theorem Tidy.checkBarrier (h : Tidy a b s) (t : Team) (g : Bool) (n : Nat) : Tidy a b (s.checkBarrier t g n) := by
  unfold State.checkBarrier
  refine .ite h (Tidy.foldl (h.onTeam _ _) (fun u p hu => ?_) _)
  exact hu.onPack _ fun k hk => freed_passBarrier hk _ _

theorem Tidy.checkBarriers (h : Tidy a b s) (t : Team) : Tidy a b (s.checkBarriers t) :=
  Tidy.foldl (h.foldl (fun _ _ hu => hu.checkBarrier _ _ _) _) (fun _ _ hu => hu.checkBarrier _ _ _) _

theorem Tidy.arrive (h : Tidy a b s) (t : Team) (g : Bool) (n : Nat) : Tidy a b (s.arrive t g n) := (h.onTeam _ _).checkBarrier _ _ _

/-! ## Retirement and exit (R108, R350, R351, R364) -/

theorem Tidy.retirePack (h : Tidy a b s) (p : PackId) : Tidy a b (s.retirePack p) := by
  have hu : Tidy a b ((s.flushPrivate p).dropPrivate p) := (h.flushPrivate p).dropPrivate p
  unfold State.retirePack
  dsimp only
  split
  · exact hu
  next k _ =>
    refine Tidy.kick (Tidy.exitCheck (Tidy.saveTeam (Tidy.checkBarriers (Tidy.onPack ((hu.onCtx _ _).onTeam _ _) p fun k _ => ?_) _) _) _)
    exact freed_of_eq freed_default rfl rfl

theorem tidy_packRetire (h : Tidy a b s) (p : PackId) : TidyNext a b (exec (.packRetire p) s) := by
  show Tidy a b (match s.pack? p with
    | none => s
    | some k => _)
  split
  · exact h
  · exact .ite h (.ite (h.retirePack _) (.ite ((h.post _).retirePack _) h))

theorem Tidy.purgePacks (h : Tidy a b s) (t : TeamId) : Tidy a b (s.purgePacks t) := by
  have hu : Tidy a b { s with packs := s.packs.filter fun p => p.id.teamId != t } :=
    h.of_packs rfl rfl fun p hp => List.mem_of_mem_filter hp
  exact .ite (hu.setPk fun _ => freed_default) hu

theorem Tidy.purgeTeams (h : Tidy a b s) : Tidy a b s.purgeTeams := h.of_eq

theorem Tidy.closeSlice (h : Tidy a b s) (g : Nat) : Tidy a b (s.closeSlice g) := by
  unfold State.closeSlice
  split
  · exact h
  · exact .ite (h.onHQueue _ _) h

theorem Tidy.setIncoming (h : Tidy a b s) (l : List Incoming) : Tidy a b { s with incoming := l } := h.of_eq

theorem Tidy.exitDone (h : Tidy a b s) (t : TeamId) : Tidy a b (s.exitDone t) := by
  unfold State.exitDone
  refine Tidy.kick (Tidy.push (Tidy.purgeTeams ?_) _)
  exact Tidy.setIncoming (((h.onTeam _ _).purgePacks t).onGrid _ _) _

theorem Tidy.gridWrote (h : Tidy a b s) (g w : Nat) : Tidy a b (s.gridWrote g w) := h.onGrid _ _
theorem Tidy.incremented (h : Tidy a b s) (t : TeamId) (w : Nat) : Tidy a b (s.incremented t w) := (h.gridWrote _ _).exitDone t
theorem Tidy.exitDropped (h : Tidy a b s) (m : Team) (c r : Nat) : Tidy a b (s.exitDropped m c r) := (h.post _).exitDone _

theorem Tidy.increment (h : Tidy a b s) (m : Team) : Tidy a b (s.increment m) := by
  unfold State.increment
  dsimp only
  refine .ite (h.exitDone _) ?_
  split
  · exact h.exitDropped _ _ _
  · have ha := fun l ls => h.atomAt m.ctx l 0 7 ls none
    split
    next e => exact (Tidy.of_snd (ha _ _) e).incremented _ _
    next e => exact (Tidy.of_snd (ha _ _) e).exitDropped _ _ _
    next e => exact ((Tidy.of_snd (ha _ _) e).setDirty _).sendRequest _ _ _ _ _ _ _
    next e => exact ((Tidy.of_snd (ha _ _) e).postFault _ _).onTeam _ _

theorem Tidy.releaseTeam (h : Tidy a b s) (m : Team) : Tidy a b (s.releaseTeam m) := by
  have hu : Tidy a b ((m.handles.map (·.1)).foldl (fun s n => s.releaseHandle m n) s) := h.foldl (fun _ _ hv => hv.releaseHandle _ _) _
  unfold State.releaseTeam
  dsimp only
  split
  · exact hu
  · exact Tidy.testGates (Tidy.onCore (Tidy.push (hu.onTeam _ _) _) _ _)

theorem Tidy.passArrivals (h : Tidy a b s) (m : Team) : Tidy a b (s.passArrivals m) := by
  unfold State.passArrivals
  exact .ite h (.ite (h.onTeam _ _) ((h.onTeam _ _).onTeam _ _))

theorem tidy_teamExit (h : Tidy a b s) (t : TeamId) : TidyNext a b (exec (.teamExit t) s) := by
  show Tidy a b (match s.team? t with
    | none => s
    | some m => _)
  split
  · exact h
  next m _ =>
    have hu : Tidy a b (if m.halt.isSome then s.onTeam t Team.cancelLifts else s) := .ite (h.onTeam _ _) h
    refine .ite hu ?_
    exact Tidy.increment (Tidy.passArrivals (Tidy.closeSlice (Tidy.onTeam (Tidy.releaseTeam (Tidy.countFor (hu.waitUntil _) _) _) _ _) _) _) _

theorem tidy_gridRetire (h : Tidy a b s) (g : Nat) : TidyNext a b (exec (.gridRetire g) s) := by
  show Tidy a b (match s.grid? g with
    | none => s
    | some k => _)
  split
  · exact h
  next k _ =>
    have hu : Tidy a b { s with grids := s.grids.filter fun c => c.idx != g } := h.of_eq
    refine .ite h ?_
    dsimp only
    split
    · exact ((hu.gridWrote _ _).push _).kick
    · exact .ite h.of_eq ((hu.waitUntil _).recordReady _ _ _).kick

/-! ## The queue unit and time slices (R338-R342) -/

theorem Tidy.accept (h : Tidy a b s) (r q c i d : Nat) (p : Option Nat) (v : Bool) (sl : Tab (List Word)) : Tidy a b (s.accept r q c i d p v sl) :=
  h.of_eq

theorem Tidy.watchGrid (h : Tidy a b s) (q r : Nat) : Tidy a b (s.watchGrid q r) := .ite h.kick (h.push _)

theorem tidy_launchRecordRead (h : Tidy a b s) (q : Nat) : TidyNext a b (exec (.launchRecordRead q) s) := by
  show TidyNext a b (execLaunchRecordRead q s)
  unfold execLaunchRecordRead
  refine TidyNext.queueEvent q ?_
  refine .ite h ?_
  have hr := fun x => Tidy.homeRead (queueAgent 0 q 0) 0 (s.queue q).ctx x h
  split
  next bs u e =>
    have hc := (Tidy.of_snd (hr _) e).checkRecord (queueAgent 0 q 0) 0 (s.queue q).ctx (ofBytes bs)
    dsimp only
    split
    next e => exact hc.of_snd e
    next e => exact ((((hc.of_snd e).dropFetched _).onHQueue _ _).recordReady _ _ _).push _
    next e => exact ((((hc.of_snd e).dropFetched _).onHQueue _ _).accept _ _ _ _ _ _ _ _).watchGrid _ _
  next e => exact Tidy.of_snd (hr _) e
  next e => exact (Tidy.of_snd (hr _) e).dropFetched _

theorem Tidy.testGrid (h : Tidy a b s) (g : Grid) : Tidy a b (s.testGrid g) := by
  have hr := fun x => Tidy.homeRead (queueAgent g.idx g.queue 1) 0 g.ctx x h
  unfold State.testGrid
  dsimp only
  split
  next e => exact .ite (((Tidy.of_snd (hr _) e).dropFetched _).onGrid _ _) ((Tidy.of_snd (hr _) e).dropFetched _)
  next e => exact Tidy.of_snd (hr _) e
  next e => exact (Tidy.of_snd (hr _) e).dropFetched _

theorem tidy_waitConditionRead (h : Tidy a b s) (q : Nat) : TidyNext a b (exec (.waitConditionRead q) s) := by
  show TidyNext a b (execWaitConditionRead q s)
  unfold execWaitConditionRead
  exact TidyNext.queueEvent q (Tidy.kick (h.foldl (fun _ _ hu => hu.testGrid _) _))

theorem Tidy.disableQueue (h : Tidy a b s) (q : Nat) : Tidy a b (s.disableQueue q) := by
  unfold State.disableQueue
  refine Tidy.onHQueue ?_ _ _
  split
  · exact h
  · exact Tidy.onHQueue (Tidy.of_eq h) _ _

theorem Tidy.expireSlice (h : Tidy a b s) (q : Nat) : Tidy a b (s.expireSlice q) := by
  have hu := h.onHQueue q fun k => { k with slice := 0, since := s.gtc }
  unfold State.expireSlice
  refine .ite (Tidy.askSave ?_ _) hu
  exact hu.of_eq

theorem tidy_sliceExpire (h : Tidy a b s) (q : Nat) : TidyNext a b (exec (.sliceExpire q) s) := by
  show TidyNext a b (execSliceExpire q s)
  unfold execSliceExpire
  exact TidyNext.queueEvent q (.ite ((h.countSlice q).expireSlice q).kick (h.countSlice q))

/-! ## The words of barriers, events and LAUNCH (R353-R356) -/

theorem Tidy.barrierWord (h : Tidy a b s) (i : Instr) (g : Bool) (n : Pack → Nat) : TidyNext a b (barrierWord i g n s) := by
  refine h.issueWord i fun t ht => TidyRes.ite h.takePending (TidyRes.ite trivial ?_)
  exact (ht.block _).arrive _ _ _

theorem tidy_evsig (h : Tidy a b s) (e : Bool) (d x y : BitVec 6) : TidyNext a b (exec (.evsig e d x y) s) := by
  refine h.issueWord _ fun t ht => TidyRes.ite trivial ?_
  exact ht.startMem _ _ _ _ _ _ _ _ _

theorem Tidy.readWait (h : Tidy a b s) (p : Pack) (va : Nat) : Tidy a b (s.readWait p va).2 := by
  have hr := fun x => Tidy.homeRead p.id (s.teamOf p).core (s.teamOf p).ctx x h
  unfold State.readWait
  dsimp only
  split
  · exact h
  · split
    next e => exact Tidy.of_snd (hr _) e
    next e => exact Tidy.of_snd (hr _) e
    next e => exact (Tidy.of_snd (hr _) e).dropFetched _

theorem Tidy.waitWord (h : Tidy a b s) (i : Instr) (va : Pack → Nat) (w : Pack → Wait) {met : Pack → Nat → Option (Pack → Pack)}
    (hm : ∀ p n f, met p n = some f → ∀ k, FreedReadZero k → FreedReadZero (f k)) : TidyNext a b (waitWord i s va w met) := by
  refine h.issueWord i fun t ht => TidyRes.ite h.takePending ?_
  split
  · exact Tidy.takePending (ht.setPk fun hk => freed_deferAll hk _ _ _ _ _ _)
  · have hr := ht.readWait t.pk (va s.pk)
    split
    next e =>
      have hu := hr.of_snd e
      split
      next f e => exact Tidy.goto (hu.setPk fun hk => hm _ _ f e _ hk) _ _
      · exact hu.block _
    next e => exact Tidy.takePending ((hr.of_snd e).setPk fun hk => freed_deferAll hk _ _ _ _ _ _)
    next e => exact (hr.of_snd e).parkAtWord _ _ _
    next e => exact (hr.of_snd e).block _

theorem tidy_evwait (h : Tidy a b s) (e : Bool) (x y : BitVec 6) : TidyNext a b (exec (.evwait e x y) s) := by
  refine h.waitWord (.evwait e x y) (fun p => (p.s x.toNat).toNat) (fun p => .event (p.s x.toNat).toNat (p.s y.toNat).toNat)
    (met := fun p v => if (p.s y.toNat).toNat ≤ v then some fun k => k else none) fun p n f hf k hk => ?_
  split at hf <;> cases hf
  exact hk

theorem Tidy.parkWaiting (h : Tidy a b s) (p : Pack) (va : Nat) : Tidy a b (s.parkWaiting p va) := (h.postFault _ _).onPack_of_eq _

theorem Tidy.rereadWord (h : Tidy a b s) (p : Pack) (va : Nat) {met : Nat → Option (Pack → Pack)}
    (hm : ∀ n f, met n = some f → ∀ k, FreedReadZero k → FreedReadZero (f k)) : Tidy a b (s.rereadWord p va met) := by
  have hr := h.readWait p va
  unfold State.rereadWord
  split
  next e =>
    have hu := hr.of_snd e
    split
    next f e => exact hu.onPack _ fun k hk => freed_of_eq (hm _ f e k hk) rfl rfl
    · exact hu
  next e => exact (hr.of_snd e).trapWaiting _ fun k hk => freed_deferAll hk _ _ _ _ _ _
  next e => exact (hr.of_snd e).parkWaiting _ _
  next e => exact hr.of_snd e

theorem tidy_evwaitReread (h : Tidy a b s) (p : PackId) : TidyNext a b (exec (.evwaitReread p) s) := by
  show Tidy a b (match s.pack? p with
    | none => s
    | some k => _)
  split
  · exact h
  · split
    · refine h.rereadWord _ _ fun n f hf k hk => ?_
      split at hf <;> cases hf
      exact hk
    · exact h

theorem tidy_launch (h : Tidy a b s) (e : Bool) (d x : BitVec 6) : TidyNext a b (exec (.launch e d x) s) := by
  refine h.issueWord _ fun t ht => ?_
  refine TidyRes.ite trivial (TidyRes.ite (ht.setPk fun hk => freed_setS hk _ _) (TidyRes.ite trivial (ht.readAs _ _ _ fun t r ht => ?_)))
  have hc := ht.checkRecord (preloadAgent s.pk.id) s.tm.core s.tm.ctx r
  split
  next e => exact hc.of_snd e
  next e => exact Tidy.setPk ((hc.of_snd e).dropFetched _) fun hk => freed_setS hk _ _
  next e =>
    have hu := (hc.of_snd e).dropFetched (preloadAgent s.pk.id)
    refine TidyRes.ite (hu.setPk fun hk => freed_setS hk _ _) ?_
    exact Tidy.watchGrid (Tidy.accept (hu.setPk fun hk => freed_setS hk _ _) _ _ _ _ _ _ _ _) _ _

end

end Sys2Proof.Proofs
end

section
/-! SUPPORT. Traps, halts and storage errors keep memory canonical and freed registers zero. -/

namespace Sys2Proof.Proofs

open Sys2Proof.Machine Sys2Proof.Safety

set_option Elab.async false

section
variable {a b : Prop} {s : State}

/-! ## The words of major 0x3C (R381-R385) -/

theorem tidy_trap (h : Tidy a b s) (e : Bool) (n : BitVec 6) : TidyNext a b (exec (.trap e n) s) := h.issueWord _ fun _ _ => h.trapDue _
theorem tidy_bkpt (h : Tidy a b s) (e : Bool) (n : BitVec 6) : TidyNext a b (exec (.bkpt e n) s) := h.issueWord _ fun _ _ => trivial

theorem tidy_rte (h : Tidy a b s) (x : BitVec 6) : TidyNext a b (exec (.rte x) s) := by
  refine h.issueWord _ fun t ht => TidyRes.ite trivial (TidyRes.ite trivial ?_)
  exact ht.setPk fun hk => freed_of_eq hk rfl rfl

theorem tidy_ssrd (h : Tidy a b s) (e : Bool) (d x y : BitVec 6) : TidyNext a b (exec (.ssrd e d x y) s) :=
  h.issueWord _ fun _ ht => ht.setPk fun hk => freed_setS hk _ _

theorem Tidy.writePriv (h : Tidy a b s) (n : Nat) (v : DWord) : Tidy a b (s.writePriv n v) := by
  unfold State.writePriv
  split
  all_goals first | exact h | exact h.onCtx _ _ | exact h.of_eq

theorem tidy_sswr (h : Tidy a b s) (e : Bool) (x y : BitVec 6) : TidyNext a b (exec (.sswr e x y) s) :=
  h.issueWord _ fun _ ht => ht.writePriv _ _

theorem tidy_cntrd (h : Tidy a b s) (e : Bool) (d x : BitVec 6) : TidyNext a b (exec (.cntrd e d x) s) := by
  refine h.issueWord _ fun t ht => ?_
  exact ht.of_pk rfl (fun hk => freed_setS hk _ _) rfl

theorem Tidy.cancelGrids (h : Tidy a b s) (gs : List Nat) : Tidy a b (s.cancelGrids gs) := h.of_eq

theorem tidy_halt (h : Tidy a b s) (e : Bool) (x : BitVec 6) : TidyNext a b (exec (.halt e x) s) := by
  refine h.issueWord _ fun t ht => ?_
  refine Tidy.cancelGrids (Tidy.foldl (ht.haltTeam _ _ _) (fun u m hu => ?_) _) _
  exact .ite hu (hu.haltTeam _ _ _)

/-! ## Trap entry and halts (R116, R360, R364) -/

theorem tidy_trapEntry (h : Tidy a b s) (p : PackId) : TidyNext a b (exec (.trapEntry p) s) := by
  show Tidy a b (match s.pack? p with
    | none => s
    | some k => _)
  split
  · exact h
  · exact .ite (h.deliver _) h

theorem tidy_haltBroadcastArrive (h : Tidy a b s) (p : PackId) : TidyNext a b (exec (.haltBroadcastArrive p) s) := by
  show Tidy a b (match s.pack? p with
    | none => s
    | some k => _)
  split
  · exact h
  · split
    · exact h
    · exact h
    · exact h
    · refine h.onPack p fun k hk => ?_
      split
      · exact hk
      · exact freed_of_eq hk rfl rfl
    · exact Tidy.push (h.onPack_of_eq p) _

theorem Tidy.icacheRoom (h : Tidy a b s) (core : Nat) (e : Nat × Nat) : Tidy a b (s.icacheRoom core e) := by
  unfold State.icacheRoom
  refine .ite h ?_
  have hf : Tidy a b (s.pickFree (s.core core).icache).2 := h.takeFree
  split
  next e => exact (hf.of_snd e).onCore _ _
  next e => exact hf.of_snd e

theorem tidy_icacheFill (h : Tidy a b s) (p : PackId) : TidyNext a b (exec (.icacheFill p) s) := by
  show Tidy a b (match s.pack? p with
    | none => s
    | some k => _)
  split
  · exact h
  · refine Tidy.onPack ((h.icacheRoom _ _).onCore _ _) p fun k hk => ?_
    split
    · exact freed_of_eq hk rfl rfl
    · exact hk

theorem tidy_packPromote (h : Tidy a b s) (p : PackId) : TidyNext a b (exec (.packPromote p) s) := by
  show Tidy a b (match (s.pack? p).bind s.promotesAt with
    | none => s
    | some t => _)
  split
  · exact h
  · exact (h.waitUntil _).onPack_of_eq p

/-! ## Storage errors (R368, R369) -/

theorem Tidy.poisonNotice (h : Tidy a b s) (c x : Nat) : Tidy a b (s.poisonNotice c x) := h.takeFree.post _

theorem Tidy.poisonLine (h : Tidy a b s) (pa : Nat) : Tidy a b (s.poisonLine pa) := by
  have hu : Tidy a b { s with
      poison := if s.poison.contains pa then s.poison else pa :: s.poison
      l2 := replaceAll (fun h => h.phys == pa) (fun h => { h with poison := true }) s.l2
      l1 := replaceAll (fun l => l.phys == pa) (fun l => { l with poison := true }) s.l1 } := h.of_eq
  unfold State.poisonLine
  dsimp only
  split
  · exact hu.poisonNotice _ _
  · exact hu.poisonNotice _ _

theorem Tidy.arrayError (h : Tidy a b s) (p : PackId) (n : Nat) : Tidy a b (s.arrayError p n) := by
  have hp : TidyNext a b (execPairAbort p n s) := tidy_pairAbort h p n
  unfold State.arrayError
  split
  · exact h
  · split
    · split
      next e =>
        rw [e] at hp
        exact hp
      · exact h
    · refine Tidy.wakeLoads (Tidy.afterOp (Tidy.endOp (Tidy.onPack (h.onTeam _ _) p fun k hk => ?_) p n fun _ _ hk => hk) _) _
      exact freed_deferAll hk _ _ _ _ _ _

theorem Tidy.l1Error (h : Tidy a b s) (core c line : Nat) : Tidy a b (s.l1Error core c line) := by
  unfold State.l1Error
  split
  · exact h
  · exact .ite (((h.bump _).l1Evict _).poisonNotice _ _) ((h.bump _).l1Evict _)

theorem Tidy.poisonSite (h : Tidy a b s) (site : EccSite) : Tidy a b (s.poisonSite site) := by
  unfold State.poisonSite
  split
  · exact h.poisonLine _
  · split
    · exact h
    · exact (h.onAlloc _ _).poisonNotice _ _
  · exact h.onPack_of_eq _
  · exact h.onPack_of_eq _
  · exact h.l1Error _ _ _
  · exact h.arrayError _ _

theorem tidy_eccRetry (h : Tidy a b s) (site : EccSite) (out : EccOutcome) : TidyNext a b (exec (.eccRetry site out) s) := by
  cases out with
  | corrected => exact h.bump 11
  | transient => exact h.bump 12
  | uncorrectable =>
    cases site with
    | l1 c x n => exact h.l1Error c x n
    | memory n => exact (h.bump 13).poisonSite _
    | tile t n u => exact (h.bump 13).poisonSite _
    | vreg p r m => exact (h.bump 13).poisonSite _
    | sreg p r => exact (h.bump 13).poisonSite _
    | array p n => exact (h.bump 13).poisonSite _

theorem Tidy.eccEnter (h : Tidy a b s) (i : Instr) : Tidy a b (s.eccEnter i) := by
  unfold State.eccEnter
  dsimp only
  split
  · refine h.setPk fun hk => ?_
    exact freed_of_eq (freed_deferEcc hk _ _ _) rfl rfl
  · exact h

theorem Tidy.eccLeave {n : State} (h : Tidy a b s) (hn : Tidy a b n) : Tidy a b (s.eccLeave n) := by
  have hq : ∀ q : Pack, q.vregs = n.pk.vregs → q.live = n.pk.live → Tidy a b { n with pk := q } := fun q hv hl =>
    hn.setPk fun hk => freed_of_eq hk hv hl
  refine .ite hn (.ite ?_ (.ite (hq _ rfl rfl) (.ite (hq _ rfl rfl) (hq _ rfl rfl))))
  exact ⟨hn.mem, h.pk, hn.packs⟩

theorem Tidy.scalarEcc (h : Tidy a b s) (i : Instr) (r : Nat) : Tidy a b (scalarEcc i r s) := by
  refine h.issueWord i fun t ht => TidyRes.ite (ht.setPk fun hk => ?_) (TidyRes.ite h.takePending (Tidy.takePending (h.setPk fun hk => ?_))) <;>
  exact freed_of_eq (freed_deferAll hk _ _ _ _ _ _) rfl rfl

theorem Tidy.scalarLaneEcc (h : Tidy a b s) (i : Instr) : Tidy a b (scalarLaneEcc i s) := by
  refine h.issueWord i fun t ht => ht.setPk fun hk => ?_
  exact freed_of_eq (freed_deferEcc hk _ _ _) rfl rfl

theorem tidy_skewMeasure (h : Tidy a b s) (p k : Nat) : TidyNext a b (exec (.skewMeasure p k) s) :=
  .ite (Tidy.post h.of_eq _) h.of_eq

end

end Sys2Proof.Proofs
end

section
/-! SUPPORT. The fabric and the fault queue keep memory canonical and freed registers zero. -/

namespace Sys2Proof.Proofs

open Sys2Proof.Machine Sys2Proof.Safety

set_option Elab.async false

section
variable {a b : Prop} {s : State}

/-! ## Groups and serving (R410-R425) -/

theorem tidy_fstat (h : Tidy a b s) (e : Bool) (d x : BitVec 6) : TidyNext a b (exec (.fstat e d x) s) :=
  h.packWord _ fun _ _ hq => freed_of_eq hq rfl rfl

theorem Tidy.onGroup (h : Tidy a b s) (c g : Nat) (f : Group → Group) : Tidy a b (s.onGroup c g f) := h.onCtx _ _
theorem Tidy.onAllGroups (h : Tidy a b s) (f : Group → Group) : Tidy a b (s.onAllGroups f) := h.of_eq
theorem Tidy.onColl (h : Tidy a b s) (c g n : Nat) (f : Coll → Coll) : Tidy a b (s.onColl c g n f) := h.onGroup _ _ _
theorem Tidy.engineSend (h : Tidy a b s) (d v : Nat) (x : PacketBody) : Tidy a b (s.engineSend d v x) := Tidy.inject h.of_eq _
theorem Tidy.acked (h : Tidy a b s) (x n : Nat) : Tidy a b (s.acked x n) := h.of_eq
theorem Tidy.collGo (h : Tidy a b s) (c g : Nat) : Tidy a b (s.collGo c g) := h.onGroup _ _ _

theorem Tidy.answerAsk (h : Tidy a b s) (c g k x : Nat) : Tidy a b (s.answerAsk c g k x) := .ite (h.engineSend _ _ _) (h.onGroup _ _ _)

theorem Tidy.noteDecided (h : Tidy a b s) (c g k w : Nat) : Tidy a b (s.noteDecided c g k w) :=
  Tidy.foldl (h.onGroup _ _ _) (fun _ _ hu => hu.engineSend _ _ _) _

theorem Tidy.remoteLoad (h : Tidy a b s) (c l lc : Nat) : Tidy a b (s.remoteLoad c l lc).2 := by
  have hl := h.findLine c l
  unfold State.remoteLoad
  split
  next e => exact hl.of_snd e
  next e => exact hl.of_snd e
  next e => exact hl.of_snd e
  next x u e =>
    have hu := hl.of_snd e
    have hw : Tidy a b ((x.pend.filter (·.lift)).foldl (fun s w => s.waitUntil w.wct) u) := hu.foldl (fun v w hv => hv.waitUntil _) _
    exact Tidy.ite_snd (hu.putHome _) (Tidy.ite_snd (hu.putHome _) (Tidy.ite_snd (hw.putHome _) (hw.putHome _)))

theorem Tidy.reply (h : Tidy a b s) (p : Packet) (x : PacketBody) : Tidy a b (s.reply p x) := Tidy.inject h.of_eq _

theorem Tidy.replyError (h : Tidy a b s) (p : Packet) (c va acc : Nat) (x : Access) : Tidy a b (s.replyError p c va acc x) := by
  unfold State.replyError
  split
  · exact h.reply _ _
  · exact h.reply _ _
  · exact h.postFault _ _

theorem Tidy.serve (h : Tidy a b s) (p : Packet) (old : Bool) : Tidy a b (s.serve p old) := by
  unfold State.serve
  dsimp only
  refine .ite h ?_
  have hopen : ∀ c {k : State}, Tidy a b k → Tidy a b (if (s.ctx c).ptbase = 0 then s.reply p (.error true false false)
      else if !old && (s.ctx c).closed then s.reply p (.error false true false) else k) := fun c k hk =>
    .ite (h.reply _ _) (.ite (h.reply _ _) hk)
  split
  next c va lc _ =>
    refine hopen c ?_
    have hl := h.remoteLoad c (va / 128) lc
    split
    next e => exact (hl.of_snd e).reply _ _
    next e => exact (hl.of_snd e).replyError _ _ _ _ _
  next c va bs _ =>
    refine hopen c ?_
    have hl := h.storeLine c (va / 128) bs false none
    split
    next e => exact (hl.of_snd e).reply _ _
    next e => exact (hl.of_snd e).replyError _ _ _ _ _
  next c va fn ty ls early _ =>
    refine hopen c ?_
    have hl := h.atomAt c (va / 128) fn ty ls none
    split
    next e => exact .ite ((hl.of_snd e).reply _ _) (((hl.of_snd e).waitUntil _).reply _ _)
    next e => exact (hl.of_snd e).replyError _ _ _ _ _
  · exact ((h.onGroup _ _ _).collGo _ _).reply _ _
  · exact (h.answerAsk _ _ _ _).reply _ _
  · exact h

theorem Tidy.handOver : ∀ (n : Nat) {s : State}, Tidy a b s → Tidy a b (s.handOver n)
  | 0, _, h => h
  | n + 1, s, h => by
    unfold State.handOver
    split
    · exact h
    next p _ =>
      have hu : Tidy a b { s with accepted := s.accepted.map fun a => if a.held = some p then { a with held := none } else a } := h.of_eq
      exact Tidy.handOver n (hu.serve p true)

theorem Tidy.serveAll (h : Tidy a b s) (p : Packet) (old : Bool) : Tidy a b (s.serveAll p old) := Tidy.handOver _ (h.serve p old)

/-! ## Ends of the device's own requests (R413, R415) -/

theorem Tidy.fetchedLine (h : Tidy a b s) (r : Request) (c : Nat) (e : ReqEnd) : Tidy a b (s.fetchedLine r c e) := h.of_eq

theorem Tidy.remoteFill (h : Tidy a b s) (t : Team) (l : Nat) (p : Perm) (e : ReqEnd) : Tidy a b (s.remoteFill t l p e) := by
  unfold State.remoteFill
  split
  · exact .ite h (h.l1Fill _)
  · exact h

theorem Tidy.setFstat (h : Tidy a b s) (p : PackId) (n : Nat) : Tidy a b (s.onPack p fun k => k.setFstat n) := h.onPack_of_eq p

theorem Tidy.endZero (h : Tidy a b s) (p : PackId) (o : Op) (ls : List (Nat × Nat)) (c n : Nat) : Tidy a b (s.endZero p o ls c n) :=
  Tidy.setFstat (h.onOp _ _ _) _ _

theorem freed_storeFailed {p : Pack} (h : FreedReadZero p) : FreedReadZero p.storeFailed := freed_of_eq h rfl rfl
theorem freed_setFstat {p : Pack} (h : FreedReadZero p) (n : Nat) : FreedReadZero (p.setFstat n) := freed_of_eq h rfl rfl

theorem Tidy.endOpRequest (h : Tidy a b s) (t : Team) (k : Pack) (o : Op) (r : Request) (e : ReqEnd) :
    Tidy a b (s.endOpRequest t k o r e) := by
  have hparts : ∀ v : Nat × Nat × Nat → Nat, Tidy a b ((servedLanes t k o r.line).foldl (fun (s : State) (q : Nat × Nat) =>
      ((pieces t k o q.1 q.2).filter fun c => c.2.1 / 128 == r.line).foldl (fun (s : State) c => s.notePart t k o q.1 q.2 c.1 (v c)) s) s) :=
    fun v => h.foldl (fun _ _ hu => hu.foldl (fun _ _ hv => hv.notePart _ _ _ _ _ _ _) _) _
  unfold State.endOpRequest
  refine Tidy.lineDone ?_ _ _ _ _
  dsimp only
  split
  · exact .ite (hparts _) ((h.landLoad _ _ _ _).remoteFill _ _ _ _)
  · exact .ite ((hparts _).gridWrote _ _) (h.landStore _ _ _ _)
  · exact h.landAtom _ _ _ _
  · exact h.faultLanes _ _ _ _ _
  · exact h.endZero _ _ _ _ _
  · refine .ite (Tidy.onPack (h.onOp _ _ _) _ fun k hk => ?_) (h.endZero _ _ _ _ _)
    exact freed_setFstat (freed_storeFailed hk) _

theorem Tidy.endStatusStore (h : Tidy a b s) (p : PackId) (e : ReqEnd) : Tidy a b (s.endStatusStore p e) := by
  refine h.onPack p fun k hk => ?_
  split
  · exact freed_of_eq hk rfl rfl
  · exact freed_setFstat (freed_storeFailed hk) _
  · exact freed_storeFailed hk

theorem Tidy.endRequest (h : Tidy a b s) (r : Request) (e : ReqEnd) : Tidy a b (s.endRequest r e) := by
  have hu : Tidy a b { s with requests := s.requests.filter fun q => q.seq != r.seq } := h.of_eq
  unfold State.endRequest
  dsimp only
  refine .ite ((hu.fetchedLine _ _ _).liftGo _ _) (.ite ?_ (.ite ?_ (.ite ?_ (.ite (hu.fetchedLine _ _ _) (.ite ?_ (.ite ?_ ?_))))))
  · split
    · exact hu
    · exact ((hu.fetchedLine _ _ _).fillPreload _).kick
  · split
    · exact (hu.fetchedLine _ _ _).push _
    · exact hu
  · split
    · exact hu
    · split
      · exact hu.incremented _ _
      · exact hu.exitDropped _ _ _
  · exact .ite hu ((hu.onCtx _ _).push _)
  · exact (hu.fetchedLine _ _ _).push _
  · split
    · exact hu
    · refine .ite (hu.remoteFill _ _ _ _) (.ite (Tidy.push (Tidy.setFstat (hu.fetchedLine _ _ _) _ _) _) (.ite (hu.endStatusStore _ _) ?_))
      split
      · exact hu
      · exact hu.endOpRequest _ _ _ _ _

theorem Tidy.acceptPacket (h : Tidy a b s) (p : Packet) : Tidy a b (s.acceptPacket p) := by
  have hu : Tidy a b { s with accepted := s.accepted.filter fun a => decide (s.gtc ≤ a.until_) } := h.of_eq
  unfold State.acceptPacket
  split
  · split
    · exact h
    · exact .ite h (h.endRequest _ _)
  · dsimp only
    split
    · split
      · exact hu.inject _
      · exact hu
    · exact .ite hu.of_eq (Tidy.serveAll hu.of_eq _ _)

theorem Tidy.setUnacked (h : Tidy a b s) (l : List Unacked) : Tidy a b { s with unacked := l } := h.of_eq
theorem Tidy.setRequests (h : Tidy a b s) (l : List Request) : Tidy a b { s with requests := l } := h.of_eq

theorem tidy_packetRetransmit (h : Tidy a b s) (n : Nat) : TidyNext a b (exec (.packetRetransmit n) s) := by
  show Tidy a b (s.retransmit n)
  unfold State.retransmit
  split
  · exact .ite (h.waitUntil _) (Tidy.inject (Tidy.setRequests (h.waitUntil _) _) _)
  · split
    · exact h
    · exact .ite (h.waitUntil _) (Tidy.foldl (Tidy.setUnacked (h.waitUntil _) _) (fun _ _ hu => hu.inject _) _)

theorem Tidy.expire (h : Tidy a b s) (r : Request) : Tidy a b (s.expire r) := (h.waitUntil _).endRequest _ _

theorem tidy_requestDeadline (h : Tidy a b s) (n : Nat) : TidyNext a b (exec (.requestDeadline n) s) := by
  show Tidy a b (match s.requests.find? fun r => r.seq == n with
    | none => s
    | some r => s.expire r)
  split
  · exact h
  · exact h.expire _

/-! ## Links and routing (R407-R411, R417) -/

theorem Tidy.onLink (h : Tidy a b s) (n : Nat) (f : Link → Link) : Tidy a b (s.onLink n f) := .ite h.of_eq h

theorem tidy_flitCrcRetry (h : Tidy a b s) (n : Nat) : TidyNext a b (exec (.flitCrcRetry n) s) := .ite ((h.onLink _ _).bump _) h
theorem tidy_linkLaneFail (h : Tidy a b s) (n : Nat) : TidyNext a b (exec (.linkLaneFail n) s) := h.onLink _ _
theorem tidy_vlPause (h : Tidy a b s) (n v : Nat) (p : Bool) : TidyNext a b (exec (.vlPause n v p) s) := (h.onLink _ _).flushOut
theorem tidy_routeTableInstall (h : Tidy a b s) (n : Nat) : TidyNext a b (exec (.routeTableInstall n) s) := h.of_eq
theorem tidy_routeTableSwitchover (h : Tidy a b s) (n : Nat) : TidyNext a b (exec (.routeTableSwitchover n) s) := .ite h.of_eq h

theorem Tidy.setRouting (h : Tidy a b s) (x : Routing) : Tidy a b { s with routing := x } := h.of_eq

theorem tidy_routeTableRetire (h : Tidy a b s) (n : Nat) : TidyNext a b (exec (.routeTableRetire n) s) := by
  show Tidy a b (match s.routing.old with
    | none => s
    | some o => _)
  split
  · exact h
  · exact .ite h (Tidy.setRouting (h.waitUntil _) _)

theorem Tidy.clearBranch (h : Tidy a b s) (c n : Nat) : Tidy a b (s.clearBranch c n) := h.of_eq

theorem tidy_multicastBranchSend (h : Tidy a b s) (c n : Nat) : TidyNext a b (exec (.multicastBranchSend c n) s) := by
  show Tidy a b (match s.copies.find? fun q => q.id == c with
    | none => s
    | some q => _)
  split
  · exact h
  · exact .ite ((h.clearBranch _ _).emit _) h

theorem tidy_switchWriteback (h : Tidy a b s) (c va : Nat) (d : List Byte) : TidyNext a b (exec (.switchWriteback c va d) s) :=
  h.writeVirt _ _ _ _

/-! ## Collectives (R418-R426) -/

theorem Tidy.writeWordAs (h : Tidy a b s) (p : PackId) (n c va v : Nat) : Tidy a b (s.writeWordAs p n c va v).2 := by
  have hl := fun bs => h.storeLine c (va / 128) bs false none
  unfold State.writeWordAs
  dsimp only
  split
  next e => exact Tidy.of_snd (hl _) e
  next e => exact ((Tidy.of_snd (hl _) e).setDirty _).sendRequest _ _ _ _ _ _ _
  next e => exact Tidy.of_snd (hl _) e

theorem Tidy.writeWord64 (h : Tidy a b s) (c va v : Nat) : Tidy a b (s.writeWord64 c va v).2 := h.writeWordAs _ _ _ _ _

theorem Tidy.unitRecord (h : Tidy a b s) (c g n r : Nat) (x : UnitReport) : Tidy a b (s.unitRecord c g n r x) :=
  .ite (h.onGroup _ _ _) (.ite (h.onGroup _ _ _) (h.onColl _ _ _ _))

theorem Tidy.sendReport (h : Tidy a b s) (c g n r x : Nat) (f : List Nat) : Tidy a b (s.sendReport c g n r x f) :=
  h.foldl (fun _ _ hu => .ite hu (hu.engineSend _ _ _)) _

theorem Tidy.collReport (h : Tidy a b s) (c g n r x : Nat) : Tidy a b (s.collReport c g n r x) := by
  unfold State.collReport
  refine Tidy.collGo (Tidy.foldl (Tidy.sendReport ?_ _ _ _ _ _ _) (fun _ _ hu => hu.unitRecord _ _ _ _ _) _) _ _
  exact .ite (h.onColl _ _ _ _) h

theorem Tidy.collDecide (h : Tidy a b s) (c g n : Nat) (v : Nat × Nat × Nat) : Tidy a b (s.collDecide c g n v) :=
  .ite (h.onGroup _ _ _) (h.onColl _ _ _ _)

theorem tidy_packetAccept (h : Tidy a b s) (p : Packet) : TidyNext a b (exec (.packetAccept p) s) := by
  show TidyNext a b (execPacketAccept p s)
  unfold execPacketAccept
  show Tidy a b _
  split
  · exact h.acked _ _
  · exact (Tidy.ite h (h.collDecide _ _ _ _)).reply _ _
  · exact h.acceptPacket _

theorem Tidy.unitDown (h : Tidy a b s) (u : Nat) : Tidy a b (s.unitDown u) := by
  unfold State.unitDown
  exact Tidy.onAllGroups h.of_eq _

theorem tidy_linkDown (h : Tidy a b s) (n : Nat) : TidyNext a b (exec (.linkDown n) s) := by
  show TidyNext a b (execLinkDown n s)
  unfold execLinkDown
  refine Tidy.ite (h.onLink _ _) (Tidy.ite (h.unitDown _) ?_)
  refine h.foldl (fun u c hu => ?_) _
  exact Tidy.foldl (hu.clearBranch _ _) (fun _ _ hv => hv.collReport _ _ _ _ _) _

theorem Tidy.ownLines (c va : Nat) : ∀ (ls : List Nat) {s : State}, Tidy a b s → Tidy a b (s.ownLines c va ls).2
  | [], _, h => h
  | l :: ls, s, h => by
    have hl := h.channelLoad c l
    unfold State.ownLines
    split
    next e =>
      have hr := Tidy.ownLines c va ls (hl.of_snd e)
      split
      next e => exact hr.of_snd e
      · exact hr
    next e => exact hl.of_snd e

theorem Tidy.ownElems (h : Tidy a b s) (c va n z : Nat) : Tidy a b (s.ownElems c va n z).2 := by
  have hl := fun l => Tidy.ownLines c va l h
  unfold State.ownElems
  refine Tidy.ite_snd h ?_
  split
  next e => exact Tidy.of_snd (hl _) e
  next e => exact Tidy.of_snd (hl _) e

theorem Tidy.ownWrite (c va : Nat) (bs : List Byte) : ∀ (is : List Nat) (w : Nat) {s : State}, Tidy a b s →
    Tidy a b (s.ownWrite c va bs is w).2.2
  | [], _, _, h => h
  | i :: is, w, s, h => by
    have hl := fun p => h.storeLine c (va / 128 + i) p false none
    unfold State.ownWrite
    dsimp only
    split
    next e => exact Tidy.ownWrite c va bs is _ (Tidy.of_snd (hl _) e)
    next e => exact Tidy.of_snd (hl _) e

theorem Tidy.collFault (h : Tidy a b s) (c g n acc : Nat) (x : Access × Nat) : Tidy a b (s.collFault c g n acc x) := by
  unfold State.collFault
  split
  · exact .ite h (h.postFault _ _)
  · exact h.collReport _ _ _ _ _

theorem Tidy.collFinish (h : Tidy a b s) (c g n r d m : Nat) (all : List (List Nat)) : Tidy a b (s.collFinish c g n r d m all) := by
  unfold State.collFinish
  refine .ite (h.collReport _ _ _ _ _) ?_
  have hw := fun bs l => Tidy.ownWrite c (cdDst d) bs l 0 h
  dsimp only
  split
  · exact (Tidy.onColl (hw _ _) _ _ _ _).collReport _ _ _ _ _
  · exact (Tidy.onColl (hw _ _) _ _ _ _).collFault _ _ _ _ _

theorem Tidy.multicastOut (h : Tidy a b s) (c g n : Nat) (x : PacketBody) : Tidy a b (s.multicastOut c g n x) := .ite h h.of_eq

theorem Tidy.pushData (h : Tidy a b s) (c g n d r : Nat) (xs : List Nat) : Tidy a b (s.pushData c g n d r xs) := by
  unfold State.pushData
  refine .ite h (.ite (Tidy.foldl (h.onColl _ _ _ _) (fun _ _ hu => hu.multicastOut _ _ _ _) _)
    (Tidy.foldl (h.onColl _ _ _ _) (fun _ _ hu => .ite hu (hu.foldl (fun _ _ hv => hv.engineSend _ _ _) _)) _))

theorem Tidy.runColl (h : Tidy a b s) (c g n x : Nat) (y : List (List Nat)) : Tidy a b (s.runColl c g n x y) := by
  unfold State.runColl
  dsimp only
  split
  next k r _ _ =>
    refine .ite h (.ite ?_ (.ite (h.collFinish _ _ _ _ _ _ _) h))
    have he := h.ownElems c (cdSrc k.desc.toNat) (cdReads k.desc.toNat (s.group c g).members.length) (cdSize k.desc.toNat)
    split
    next e =>
      have hu := fun d r xs => (he.of_snd e).pushData c g n d r xs
      exact .ite ((hu _ _ _).collFinish _ _ _ _ _ _ _) (hu _ _ _)
    next e => exact (he.of_snd e).collFault _ _ _ _ _
  · exact h

theorem tidy_collBarrier (h : Tidy a b s) (c g n : Nat) : TidyNext a b (exec (.collBarrier c g n) s) := h.runColl _ _ _ _ _
theorem tidy_collBroadcast (h : Tidy a b s) (c g n : Nat) (x : List (List Nat)) : TidyNext a b (exec (.collBroadcast c g n x) s) :=
  h.runColl _ _ _ _ _
theorem tidy_collAllreduce (h : Tidy a b s) (c g n : Nat) (x : List (List Nat)) : TidyNext a b (exec (.collAllreduce c g n x) s) :=
  h.runColl _ _ _ _ _
theorem tidy_collReduceScatter (h : Tidy a b s) (c g n : Nat) (x : List (List Nat)) : TidyNext a b (exec (.collReduceScatter c g n x) s) :=
  h.runColl _ _ _ _ _
theorem tidy_collAllgather (h : Tidy a b s) (c g n : Nat) (x : List (List Nat)) : TidyNext a b (exec (.collAllgather c g n x) s) :=
  h.runColl _ _ _ _ _
theorem tidy_agreementReport (h : Tidy a b s) (c g n r : Nat) (x : UnitReport) : TidyNext a b (exec (.agreementReport c g n r x) s) :=
  h.unitRecord _ _ _ _ _

theorem tidy_collDeadline (h : Tidy a b s) (c g n : Nat) : TidyNext a b (exec (.collDeadline c g n) s) := by
  show Tidy a b (match s.startedAt c g n with
    | none => s
    | some t => _)
  split
  · exact h
  · exact .ite h ((h.waitUntil _).collDecide _ _ _ _)

theorem Tidy.unheard (h : Tidy a b s) (c g n k : Nat) : Tidy a b (s.unheard c g n k) := h.collDecide _ _ _ _

theorem tidy_agreementFallback (h : Tidy a b s) (c g n k : Nat) (x : Option DWord) : TidyNext a b (exec (.agreementFallback c g n k x) s) := by
  cases x with
  | none => exact (h.waitUntil _).unheard _ _ _ _
  | some w => exact (h.waitUntil _).collDecide _ _ _ _

theorem Tidy.fallBack (h : Tidy a b s) (c g n k t start : Nat) (asked : Bool) {mark : State → State} (hm : Tidy a b (mark s)) :
    Tidy a b (s.fallBack c g n k t start asked mark) :=
  .ite h (.ite (h.unheard _ _ _ _) (.ite (hm.foldl (fun _ _ hu => hu.engineSend _ _ _) _) (.ite h (h.unheard _ _ _ _))))

theorem Tidy.noteStatus (h : Tidy a b s) (p : PackId) (n : Nat) : Tidy a b (s.noteStatus p n) := .ite h (h.setFstat _ _)

theorem Tidy.writeStatus (h : Tidy a b s) (c g : Nat) (x : Coll) : Tidy a b (s.writeStatus c g x) := by
  unfold State.writeStatus
  split
  · exact h
  · exact (((((h.waitUntil _).onGroup _ _ _).noteDecided _ _ _ _).writeWord64 _ _ _).noteStatus _ _).collGo _ _

theorem Tidy.writeFormation (h : Tidy a b s) (c g : Nat) : Tidy a b (s.writeFormation c g) := by
  unfold State.writeFormation
  dsimp only
  split
  · exact h
  · exact (((h.onGroup _ _ _).noteDecided _ _ _ _).writeWord64 _ _ _).noteStatus _ _

theorem Tidy.writeDue (h : Tidy a b s) (c g : Nat) : Tidy a b (s.writeDue c g) :=
  .ite (h.writeFormation _ _) (h.foldl (fun _ _ hu => hu.writeStatus _ _ _) _)

theorem tidy_collStatusWrite (h : Tidy a b s) (c g n : Nat) : TidyNext a b (exec (.collStatusWrite c g n) s) := by
  show TidyNext a b (execCollStatusWrite c g n s)
  unfold execCollStatusWrite
  refine Tidy.ite (h.writeFormation _ _) ?_
  split
  · exact h
  · exact h.writeStatus _ _ _

theorem Tidy.abortGroup (h : Tidy a b s) (c g r : Nat) : Tidy a b (s.abortGroup c g r) := by
  have hend : ∀ {u : State} (n : Nat), Tidy a b u → Tidy a b (match u.ownRank c g with
      | none => u.collDecide c g n (1, r, noRank)
      | some q => (u.collReport c g n q r).collDecide c g n (1, r, q)) := fun n hu => by
    split
    · exact hu.collDecide _ _ _ _
    · exact (hu.collReport _ _ _ _ _).collDecide _ _ _ _
  unfold State.abortGroup
  refine Tidy.writeDue (.ite (hend _ h) (h.foldl (fun u x hu => ?_) _)) _ _
  exact hend _ hu

theorem Tidy.withdraw (h : Tidy a b s) (c : Nat) : Tidy a b (s.withdraw c) := h.foldl (fun _ _ hu => hu.abortGroup _ _ _) _

theorem tidy_collectiveWithdraw (h : Tidy a b s) (c : Nat) : TidyNext a b (exec (.collectiveWithdraw c) s) := by
  show Tidy a b (match (s.ctx c).frz with
    | none => s
    | some f => _)
  split
  · exact h
  · exact .ite h (((h.waitUntil _).withdraw _).push _)

/-! ## The words of major 0x38 (R428-R430) -/

theorem Tidy.refuse (h : Tidy a b s) (u : State) (va r d n : Nat) : Tidy a b (s.refuse u va r d n) := by
  refine Tidy.setPk (h.writeWordAs _ _ _ _ _) fun hk => freed_setS ?_ _ _
  exact freed_of_eq hk rfl rfl

theorem tidy_coll (h : Tidy a b s) (e : Bool) (d x : BitVec 6) : TidyNext a b (exec (.coll e d x) s) := by
  refine h.issueWord _ fun t ht => TidyRes.ite trivial (ht.readAs _ _ _ fun t r ht => ?_)
  refine TidyRes.ite (ht.refuse _ _ _ _ _) (TidyRes.ite (ht.refuse _ _ _ _ _) (TidyRes.ite trivial ?_))
  exact Tidy.setPk (((ht.onGroup _ _ _).writeWord64 _ _ _).collReport _ _ _ _ _) fun hk => freed_setS hk _ _

/-- What CWAIT makes of its pack. -/
theorem freed_cwait {d v : Nat} {f : Pack → Pack}
    (e : (if v.testBit 63 then some fun k : Pack => (if v % 256 = 0 then k else k.setFstat 32).setS d (dw v) else none) = some f)
    {k : Pack} (h : FreedReadZero k) : FreedReadZero (f k) := by
  split at e <;> cases e
  refine freed_setS ?_ _ _
  split
  · exact h
  · exact freed_setFstat h _

theorem tidy_cwait (h : Tidy a b s) (e : Bool) (d x : BitVec 6) : TidyNext a b (exec (.cwait e d x) s) := by
  show TidyNext a b (execCwait e d x s)
  unfold execCwait
  exact h.waitWord _ _ _ fun _ _ _ hf _ hk => freed_cwait hf hk

theorem tidy_cwaitReread (h : Tidy a b s) (p : PackId) : TidyNext a b (exec (.cwaitReread p) s) := by
  show Tidy a b (match s.pack? p with
    | none => s
    | some k => _)
  split
  · exact h
  · split
    · exact h.rereadWord _ _ fun _ _ hf _ hk => freed_cwait hf hk
    · exact h

theorem Tidy.dissolve (h : Tidy a b s) (c g : Nat) : Tidy a b (s.dissolve c g) := (h.abortGroup _ _ _).onGroup _ _ _

theorem Tidy.formGroup (h : Tidy a b s) (u : State) (va x d : Nat) (ws : Option (List Nat)) : Tidy a b (s.formGroup u va x d ws) := by
  have hend : ∀ {t : State} (r : Nat), Tidy a b t → Tidy a b ((((t.onGroup u.tm.ctx (bitsAt x 32 6) Group.emptied).writeWord64 u.tm.ctx (va + 8)
      (statusWord 3 r 0 noRank)).2).noteStatus u.pk.id 3) := fun r ht => ((ht.onGroup _ _ _).writeWord64 _ _ _).noteStatus _ _
  have href : ∀ r, Tidy a b { s with pk := s.pk.setS d (dw (2 ^ 63 + r)) } := fun r => h.setPk fun hk => freed_setS hk _ _
  unfold State.formGroup
  dsimp only
  split
  · exact hend _ h
  · refine .ite (hend _ (href _)) (.ite (hend _ (href _)) ?_)
    exact ((h.onGroup _ _ _).collReport _ _ _ _ _).collReport _ _ _ _ _

theorem Tidy.openGroup (h : Tidy a b s) (u : State) (va x d : Nat) : Tidy a b (s.openGroup u va x d) := by
  unfold State.openGroup
  refine Tidy.setPk (Tidy.onGroup (Tidy.writeWord64 (.ite h (h.dissolve _ _)) _ _ _) _ _ _) fun hk => ?_
  exact freed_setS hk _ _

theorem tidy_grpf (h : Tidy a b s) (e : Bool) (d x : BitVec 6) : TidyNext a b (exec (.grpf e d x) s) := by
  refine h.issueWord _ fun t ht => TidyRes.ite trivial (ht.readAs _ _ _ fun t r ht => TidyRes.ite (ht.refuse _ _ _ _ _) ?_)
  extract_lets n k u
  have hu : Tidy a b u := .ite ht (ht.openGroup _ _ _ _)
  have hr := fun l => Tidy.homeRead s.pk.id s.tm.core s.tm.ctx l hu
  split
  next e => exact Tidy.of_snd (hr _) e
  next e => exact (Tidy.dropFetched (Tidy.of_snd (hr _) e) _).formGroup _ _ _ _ _
  next e => exact (Tidy.dropFetched (Tidy.of_snd (hr _) e) _).formGroup _ _ _ _ _

end

end Sys2Proof.Proofs
end

section
/-! SUPPORT. The fault queue, the freeze and the resume keep memory canonical and freed registers zero. -/

namespace Sys2Proof.Proofs

open Sys2Proof.Machine Sys2Proof.Safety

set_option Elab.async false

section
variable {a b : Prop} {s : State}

/-! ## The fault queue (R377-R379) -/

theorem Tidy.writeReport (h : Tidy a b s) (r : Report) : Tidy a b (s.writeReport r) := h.of_hbm (writeReport_wf s r) rfl rfl

theorem Tidy.postWaiting : ∀ (n : Nat) {s : State}, Tidy a b s → Tidy a b (s.postWaiting n)
  | 0, _, h => h
  | n + 1, s, h => by
    unfold State.postWaiting
    split
    · exact h.push _
    next r rs _ =>
      have hu : Tidy a b { s with waiting := rs } := h.of_eq
      exact .ite (Tidy.postWaiting n (hu.writeReport r)) h

theorem tidy_faultReportPost (h : Tidy a b s) : TidyNext a b (exec .faultReportPost s) := Tidy.postWaiting _ h

theorem Tidy.closeReport (h : Tidy a b s) (n : Nat) : Tidy a b (s.closeReport n) := h.of_eq

theorem freed_unpark {p : Pack} (h : FreedReadZero p) (n : Nat) : FreedReadZero (p.unpark n) := by
  unfold Pack.unpark
  split
  · exact freed_of_eq h rfl rfl
  · exact h

theorem Tidy.answered (h : Tidy a b s) (p : PackId) : Tidy a b (s.answered p) := by
  unfold State.answered
  split
  · exact h
  · refine .ite h (Tidy.afterOp (Tidy.onPack (h.replayGo p) p fun k hk => ?_) p)
    exact freed_unpark hk _

theorem Tidy.resolve (h : Tidy a b s) (r : Report) (who : Asker) : Tidy a b (s.resolve r who) := by
  have hu := h.closeReport r.seq
  unfold State.resolve
  dsimp only
  split
  · refine Tidy.answered (hu.onPack _ fun k hk => ?_) _
    split
    · exact freed_of_eq hk rfl rfl
    · exact hk
  · exact hu.liftResolve _ _ _
  · split
    · exact hu
    · exact (hu.onTeam _ _).increment _
  · exact hu.serveAll _ _
  · split
    · exact hu
    · exact ((hu.onGrid _ _).fillPreload _).kick
  · exact hu.collGo _ _
  · exact hu

theorem freed_acquired {p : Pack} (h : FreedReadZero p) (n : Nat) : FreedReadZero (p.acquired n) := by
  unfold Pack.acquired
  split
  · exact freed_of_eq h rfl rfl
  · exact h

theorem Tidy.declineReplay (h : Tidy a b s) (p : PackId) (r : Replay) : Tidy a b (s.declineReplay p r) := by
  refine h.onPack p fun k hk => ?_
  have hu := freed_laneFaults (k := { k with replay := k.replay.filter fun q => q.report != r.report || q.op.id != r.op.id })
    (freed_of_eq hk rfl rfl) r.op cPAGE 0 r.op.addrs
  dsimp only
  split
  · exact hu
  · exact freed_acquired hu _

theorem Tidy.decline (h : Tidy a b s) (r : Report) (who : Asker) : Tidy a b (s.decline r who) := by
  have hu := h.closeReport r.seq
  unfold State.decline
  dsimp only
  split
  · refine Tidy.answered (Tidy.onPack (hu.foldl (fun _ _ hv => hv.declineReplay _ _) _) _ fun k hk => ?_) _
    split
    · exact freed_of_eq hk rfl rfl
    · exact hk
  · exact hu.liftDecline _ _ _ _
  · split
    · exact hu
    · exact hu.exitDropped _ _ _
  · exact hu.collReport _ _ _ _ _
  · exact (hu.onGrid _ _).kick
  · exact hu
  · exact hu

theorem Tidy.setL1 (h : Tidy a b s) (l : List L1Line) : Tidy a b { s with l1 := l } := h.of_eq
theorem Tidy.setTlb (h : Tidy a b s) (l : List Xlate) : Tidy a b { s with tlb := l } := h.of_eq

theorem Tidy.invalidate (h : Tidy a b s) (c va n : Nat) : Tidy a b (s.invalidate c va n) := by
  unfold State.invalidate
  refine Tidy.setTlb (Tidy.foldl (Tidy.foldl (Tidy.setL1 (h.foldl (fun _ _ hu => hu.l1Evict _) _) _)
    (fun _ _ hu => hu.writeBack _) _) (fun _ _ hu => hu.onCore _ _) _) _

theorem Tidy.scrub (h : Tidy a b s) (pa : Nat) : Tidy a b (s.scrub pa) := by
  refine h.of_hbm (scrub_wf s pa) ?_ ?_ <;>
  · unfold State.scrub
    split <;> rfl

theorem Tidy.command (h : Tidy a b s) {k c x y : Nat} {t : State} (e : s.command k c x y = some t) : Tidy a b t := by
  unfold State.command at e
  split at e
  · obtain ⟨o, _, rfl⟩ := Option.map_eq_some_iff.mp e
    exact h.resolve _ _
  · obtain ⟨o, _, rfl⟩ := Option.map_eq_some_iff.mp e
    exact h.decline _ _
  · split at e <;> cases e
    exact h.invalidate _ _ _
  · cases e
    exact h.of_eq
  · split at e <;> cases e
    exact h.scrub _
  · cases e

theorem Tidy.runCommand (h : Tidy a b s) (k c t x y : Nat) (r : Bool) : Tidy a b (s.runCommand k c t x y r) := by
  unfold State.runCommand
  split
  next e =>
    split at e
    · cases e
    · exact (h.command e).post _
  · exact h.post _

theorem tidy_fqResolve (h : Tidy a b s) (c : Nat) (t : Word) (n : Nat) : TidyNext a b (exec (.fqResolve c t n) s) := h.runCommand _ _ _ _ _ _
theorem tidy_fqDecline (h : Tidy a b s) (c : Nat) (t : Word) (n : Nat) : TidyNext a b (exec (.fqDecline c t n) s) := h.runCommand _ _ _ _ _ _
theorem tidy_fqInvalidate (h : Tidy a b s) (c : Nat) (t : Word) (x n : Nat) : TidyNext a b (exec (.fqInvalidate c t x n) s) :=
  h.runCommand _ _ _ _ _ _
theorem tidy_fqKeyInvalidate (h : Tidy a b s) (c : Nat) (t : Word) (x n : Nat) : TidyNext a b (exec (.fqKeyInvalidate c t x n) s) :=
  h.runCommand _ _ _ _ _ _
theorem tidy_fqScrub (h : Tidy a b s) (c : Nat) (t : Word) (x : Nat) : TidyNext a b (exec (.fqScrub c t x) s) := h.runCommand _ _ _ _ _ _

theorem Tidy.setFq (h : Tidy a b s) (x : BitVec 512) : Tidy a b { s with fq := x } := h.of_eq

theorem Tidy.runRing : ∀ (n : Nat) {s : State}, Tidy a b s → Tidy a b (s.runRing n)
  | 0, _, h => h
  | n + 1, s, h => by
    unfold State.runRing
    exact .ite h (Tidy.runRing n (Tidy.setFq (h.runCommand _ _ _ _ _ _) _))

/-! ## The dirty log and FRZ (R401-R405) -/

theorem Tidy.dlogWord (h : Tidy a b s) (i : Instr) (d x : BitVec 6) (f : DWord → Ctx → Ctx × DWord) : TidyNext a b (dlogWord i d x s f) := by
  refine h.issueWord i fun t ht => ?_
  exact Tidy.onCtx (ht.setPk fun hk => freed_setS hk _ _) _ _

theorem tidy_frz (h : Tidy a b s) (e : Bool) (d x : BitVec 6) : TidyNext a b (exec (.frz e d x) s) := by
  refine h.issueWord _ fun t ht => ht.readAs _ _ _ fun t r ht => ?_
  refine TidyRes.ite (ht.setPk fun hk => freed_setS hk _ _) (TidyRes.ite (ht.setPk fun hk => freed_setS hk _ _) ?_)
  refine TidyRes.ite (Tidy.setPk ((ht.onCtx _ _).push _) fun hk => ?_) (Tidy.setPk ((ht.onCtx _ _).push _) fun hk => freed_setS hk _ _)
  exact freed_of_eq hk rfl rfl

/-! ## The freeze sequence (R387-R405) -/

theorem Tidy.onFrz (h : Tidy a b s) (c : Nat) (f : FrzWork → FrzWork) : Tidy a b (s.onFrz c f) := h.onCtx _ _

theorem tidy_freeze (h : Tidy a b s) (c : Nat) : TidyNext a b (exec (.freeze c) s) := by
  show Tidy a b (match (s.ctx c).frz with
    | none => s
    | some f => _)
  split
  · exact h
  · refine .ite h ?_
    exact Tidy.push (Tidy.askSave (Tidy.onFrz (Tidy.setIncoming (h.foldl (fun _ _ hu => hu.disableQueue _) _) _) _ _) _) _

theorem Tidy.setOpen (h : Tidy a b s) (l : List (Report × Asker)) : Tidy a b { s with open_ := l } := h.of_eq

theorem Tidy.beginFulling (h : Tidy a b s) (c : Nat) : Tidy a b (s.beginFulling c) := by
  unfold State.beginFulling
  exact Tidy.setRequests (Tidy.setOpen ((h.onCtx _ _).onFrz _ _) _) _

theorem Tidy.feltWrite (who : PackId) (c va : Nat) (bs : List Byte) : ∀ (is : List Nat) (w : Nat) {s : State}, Tidy a b s →
    Tidy a b (s.feltWrite who c va bs is w).2.2
  | [], _, _, h => h
  | i :: is, w, s, h => by
    have hl := fun p => h.storeLine c (va / 128 + i) p false none
    unfold State.feltWrite
    dsimp only
    split
    next e => exact Tidy.feltWrite who c va bs is _ (Tidy.of_snd (hl _) e)
    next e => exact Tidy.feltWrite who c va bs is _ (((Tidy.of_snd (hl _) e).setDirty _).sendRequest _ _ _ _ _ _ _)
    next e => exact Tidy.of_snd (hl _) e

theorem Tidy.endFrz (h : Tidy a b s) (c v : Nat) : Tidy a b (s.endFrz c v) := (h.onFrz _ _).push _

theorem Tidy.unparkAll (h : Tidy a b s) (c : Nat) : Tidy a b (s.unparkAll c) := by
  refine h.foldl (fun u t hu => Tidy.onTeam (hu.foldl (fun v p hv => ?_) _) _ _) _
  exact hv.onPack_of_eq p

theorem Tidy.thaw (h : Tidy a b s) (c : Nat) (f : FrzWork) (v : Nat) : Tidy a b (s.thaw c f v) := by
  unfold State.thaw
  have hq : Tidy a b (f.queues.foldl (fun (s : State) (q : Nat × Bool) =>
      if q.2 then (s.onHQueue q.1 fun k => { k with desc := setBitsOf k.desc 100 100 1, since := s.gtc }).push [.launchRecordRead q.1] else s)
      ((s.unparkAll c).onCtx c fun c => { c with closed := false })) :=
    Tidy.foldl ((h.unparkAll _).onCtx _ _) (fun _ _ hu => .ite ((hu.onHQueue _ _).push _) hu) _
  exact Tidy.endFrz (.ite (hq.onPack _ fun k hk => freed_setS hk _ _) hq) _ _

theorem Tidy.releaseContext (h : Tidy a b s) (c : Nat) : Tidy a b (s.releaseContext c) := by
  unfold State.releaseContext
  refine Tidy.foldl (Tidy.onCtx ?_ _ _) (fun _ _ hu => hu.flushQueue _) _
  have hu : Tidy a b ((s.grids.filter fun g => g.ctx == c && g.parent.isNone).foldl (fun (s : State) g =>
    s.onHQueue g.queue fun k => { k with order := k.order.filter (· != g.index) }) s) := h.foldl (fun _ _ hu => hu.onHQueue _ _) _
  refine ⟨hu.mem, fun hb => ?_, fun hb p hp => hu.packs hb p (List.mem_of_mem_filter hp)⟩
  dsimp only
  split
  · exact freed_default
  · exact hu.pk hb

theorem Tidy.settleContext (h : Tidy a b s) (c : Nat) : Tidy a b (s.settleContext c) :=
  h.foldl (fun _ _ hu => hu.foldl (fun _ _ hv => hv.waitUntil _) _) _

theorem Tidy.writeFelt (h : Tidy a b s) (c : Nat) : Tidy a b (s.writeFelt c) := by
  unfold State.writeFelt
  extract_lets s1 s2 s3
  have hu : Tidy a b s3 := Tidy.onFrz (Tidy.foldl ((h.settleContext _).waitUntil _)
    (fun _ _ hu => hu.foldl (fun _ _ hv => hv.settleHeld _ _) _) _) _ _
  split
  · exact hu
  next f _ =>
    refine .ite (hu.thaw _ _ _) (.ite (hu.thaw _ _ _) ?_)
    have hw := fun bs l => Tidy.feltWrite (feltWriter c) f.ictx f.felt bs l 0 hu
    split
    next ok w v e =>
      have hv : Tidy a b v := by
        have hk := hw (s3.feltImage c f) (List.range (((s3.feltImage c f).length + f.felt % 128 + 127) / 128))
        rw [e] at hk
        exact hk
      exact .ite ((hv.onFrz _ _).push _) ((hv.onFrz _ _).thaw _ _ _)

theorem tidy_fullingComplete (h : Tidy a b s) (c : Nat) : TidyNext a b (exec (.fullingComplete c) s) := by
  show Tidy a b (match (s.ctx c).frz with
    | none => s
    | some f => _)
  split
  · exact h
  · exact .ite h (.ite ((h.beginFulling _).push _) (.ite (.ite ((h.withdraw _).push _) (h.writeFelt _))
      (.ite (h.thaw _ _ _) ((h.releaseContext _).endFrz _ _))))

theorem tidy_frzCompletion (h : Tidy a b s) (c : Nat) : TidyNext a b (exec (.frzCompletion c) s) := by
  show Tidy a b (match (s.ctx c).frz with
    | none => s
    | some f => _)
  split
  · exact h
  · exact .ite h ((((h.waitUntil _).writeWord64 _ _ _).onCtx _ _).kick)

/-! ## The records of a felt (R394, R396) -/

/-- A table filled from the registers that are live reads zero elsewhere. -/
theorem get_fill_of_dead (m : DWord) (f : Nat → Lanes) {r : Nat} (hr : m.getLsbD r = false) (l : List Nat) :
    ∀ {t : Tab Lanes}, Tab.get 0 t r = 0 → Tab.get 0 (l.foldl (fun t r => if m.getLsbD r then Tab.set 0 t r (f r) else t) t) r = 0 := by
  induction l with
  | nil => exact id
  | cons q l ih =>
    refine fun {t} ht => ih ?_
    dsimp only
    split
    next hq =>
      rw [Tab.get_set, if_neg, ht]
      rintro rfl
      rw [hr] at hq
      cases hq
    · exact ht

/-- A pack that is read back holds zero in what it has freed. -/
theorem freed_readPack {g : Grid} {t : Team} {id : Nat} {bs cs : List Byte} {p : Pack} (e : readPack s g t id bs = some (p, cs)) :
    FreedReadZero p := by
  unfold readPack at e
  obtain ⟨⟨f, b1⟩, _, e⟩ := Option.bind_eq_some_iff.mp e
  obtain ⟨⟨vs, b2⟩, _, e⟩ := Option.bind_eq_some_iff.mp e
  obtain ⟨⟨ls, b3⟩, _, e⟩ := Option.bind_eq_some_iff.mp e
  obtain ⟨⟨xs, b4⟩, _, e⟩ := Option.bind_eq_some_iff.mp e
  obtain ⟨_, _, e⟩ := Option.bind_eq_some_iff.mp e
  cases e
  exact fun r _ hl => get_fill_of_dead _ _ hl _ rfl

theorem freed_readPacks {g : Grid} {t : Team} {id : Nat} : ∀ (n : Nat) {bs cs : List Byte} {ps : List Pack},
    readPacks s g t id n bs = some (ps, cs) → ∀ p ∈ ps, FreedReadZero p
  | 0, _, _, _, e => by
    cases e
    exact fun p hp => nomatch hp
  | n + 1, bs, cs, ps, e => by
    unfold readPacks at e
    split at e
    · cases e
    next q b1 hq =>
      split at e
      · cases e
      next qs b2 hqs =>
        cases e
        intro p hp
        rcases List.mem_cons.mp hp with rfl | hp
        · exact freed_readPack hq
        · exact freed_readPacks n hqs p hp

theorem freed_readTeam {gs : List Grid} {id : Nat} {bs cs : List Byte} {f : FeltTeam} (e : readTeam s gs id bs = some (f, cs)) :
    ∀ p ∈ f.packs, FreedReadZero p := by
  unfold readTeam at e
  obtain ⟨⟨i, b1⟩, _, e⟩ := Option.bind_eq_some_iff.mp e
  obtain ⟨⟨t, n⟩, _, e⟩ := Option.bind_eq_some_iff.mp e
  obtain ⟨g, _, e⟩ := Option.bind_eq_some_iff.mp e
  obtain ⟨⟨c, b2⟩, _, e⟩ := Option.bind_eq_some_iff.mp e
  obtain ⟨t1, _, e⟩ := Option.bind_eq_some_iff.mp e
  obtain ⟨⟨ts, b3⟩, _, e⟩ := Option.bind_eq_some_iff.mp e
  obtain ⟨⟨t2, b4⟩, _, e⟩ := Option.bind_eq_some_iff.mp e
  obtain ⟨⟨t3, saved, b5⟩, _, e⟩ := Option.bind_eq_some_iff.mp e
  obtain ⟨⟨x, b6⟩, _, e⟩ := Option.bind_eq_some_iff.mp e
  obtain ⟨⟨y, b7⟩, _, e⟩ := Option.bind_eq_some_iff.mp e
  obtain ⟨⟨ps, b8⟩, hps, e⟩ := Option.bind_eq_some_iff.mp e
  obtain ⟨_, _, e⟩ := Option.bind_eq_some_iff.mp e
  cases e
  exact freed_readPacks n hps

/-- What holds of each record read holds of all. -/
theorem forall_of_readMany {α : Type} {q : α → Prop} {f : Nat → List Byte → Option (α × List Byte)}
    (hf : ∀ k bs x cs, f k bs = some (x, cs) → q x) : ∀ (n : Nat) {k : Nat} {bs cs : List Byte} {xs : List α},
    readMany f k n bs = some (xs, cs) → ∀ x ∈ xs, q x
  | 0, _, _, _, _, e => by
    cases e
    exact fun x hx => nomatch hx
  | n + 1, k, bs, cs, xs, e => by
    unfold readMany at e
    split at e
    · cases e
    next y b1 hy =>
      split at e
      · cases e
      next ys b2 hys =>
        cases e
        intro x hx
        rcases List.mem_cons.mp hx with rfl | hx
        · exact hf _ _ _ _ hy
        · exact forall_of_readMany hf n hys x hx

theorem freed_readBody {c : Nat} {hd body : List Byte} {f : Felt} (e : readBody s c hd body = some f) : ∀ p ∈ f.packs, FreedReadZero p := by
  unfold readBody at e
  obtain ⟨_, _, e⟩ := Option.bind_eq_some_iff.mp e
  obtain ⟨⟨qs, b1⟩, _, e⟩ := Option.bind_eq_some_iff.mp e
  obtain ⟨⟨gs, b2⟩, _, e⟩ := Option.bind_eq_some_iff.mp e
  obtain ⟨⟨fs, b3⟩, hfs, e⟩ := Option.bind_eq_some_iff.mp e
  obtain ⟨ts, _, e⟩ := Option.bind_eq_some_iff.mp e
  obtain ⟨_, _, e⟩ := Option.bind_eq_some_iff.mp e
  cases e
  intro p hp
  obtain ⟨l, hl, hp⟩ := List.mem_flatten.mp hp
  obtain ⟨x, hx, rfl⟩ := List.mem_map.mp hl
  exact forall_of_readMany (q := fun x : FeltTeam => ∀ p ∈ x.packs, FreedReadZero p) (fun _ _ _ _ he => freed_readTeam he) _ hfs x hx p hp

/-! ## The resume (R396-R398) -/

theorem Tidy.readPreloads (h : Tidy a b s) (c : Nat) : Tidy a b (s.readPreloads c) := h.foldl (fun _ _ hu => hu.fillPreload _) _

theorem Tidy.resumeQueue (h : Tidy a b s) (gs : List Grid) (q : FeltQueue) : Tidy a b (s.resumeQueue gs q) :=
  .ite ((h.onHQueue _ _).push _) (h.onHQueue _ _)

theorem Tidy.adopt (h : Tidy a b s) (c : Nat) (w : FrzWork) {f : Felt} (hf : ∀ p ∈ f.packs, FreedReadZero p) : Tidy a b (s.adopt c w f) := by
  unfold State.adopt
  refine Tidy.push (Tidy.onFrz (Tidy.onCtx ?_ _ _) _ _) _
  have hu : Tidy a b (f.queues.foldl (fun s q => s.resumeQueue f.grids q) s) := h.foldl (fun _ _ hu => hu.resumeQueue _ _) _
  exact ⟨hu.mem, hu.pk, fun hb p hp => (List.mem_append.mp hp).elim (hu.packs hb p) (hf p)⟩

theorem Tidy.feltRead (h : Tidy a b s) (c : Nat) (w : FrzWork) (n : Nat) {k : State → List Byte → State}
    (hk : ∀ u bs, Tidy a b u → Tidy a b (k u bs)) : Tidy a b (s.feltRead c w n k) := by
  have hr := Tidy.homeRead (feltReader c) 0 w.ictx [((w.felt : Int), n)] h
  unfold State.feltRead
  split
  next e => exact hk _ _ (hr.of_snd e)
  next e => exact hr.of_snd e
  next e => exact ((hr.of_snd e).dropFetched _).endFrz _ _

theorem Tidy.placeAll : ∀ (n : Nat) {s : State}, Tidy a b s → Tidy a b (s.placeAll n)
  | 0, _, h => h
  | n + 1, s, h => by
    unfold State.placeAll
    split
    · exact h
    · exact .ite (Tidy.placeAll n (h.place _ _)) h

theorem Tidy.placeResumed (h : Tidy a b s) (c : Nat) (w : FrzWork) : Tidy a b (s.placeResumed c w) :=
  ((Tidy.placeAll _ (h.waitUntil _)).kick).endFrz _ _

theorem tidy_resume (h : Tidy a b s) (c : Nat) : TidyNext a b (exec (.resume c) s) := by
  have hstop : ∀ {u : State}, Tidy a b u → ∀ v, Tidy a b ((u.dropFetched (feltReader c)).endFrz c v) := fun hu v =>
    (hu.dropFetched _).endFrz _ _
  show Tidy a b (match (s.ctx c).frz with
    | none => s
    | some w => _)
  split
  · exact h
  · refine .ite h (.ite (h.placeResumed _ _) (.ite h (h.feltRead _ _ _ fun u hd hu => ?_)))
    refine .ite (hstop hu _) (hu.feltRead _ _ _ fun u bs hu => ?_)
    refine .ite (hstop hu _) (.ite (hstop hu _) ?_)
    split
    · exact hstop hu _
    next e => exact .ite (hstop hu _) (((hu.dropFetched _).adopt _ _ (freed_readBody e)).readPreloads _)

theorem tidy_resumePlace (h : Tidy a b s) (c : Nat) : TidyNext a b (exec (.resumePlace c) s) := by
  show Tidy a b (match (s.ctx c).frz with
    | none => s
    | some w => _)
  split
  · exact h
  · exact .ite (h.placeResumed _ _) h

end

end Sys2Proof.Proofs
end

section
/-! SUPPORT. The host side, resets and timers keep memory canonical and freed registers zero. -/

namespace Sys2Proof.Proofs

open Sys2Proof.Machine Sys2Proof.Safety

set_option Elab.async false

section
variable {a b : Prop} {s : State}

/-! ## The control region (R337, R340, R377, R434-R436) -/

theorem Tidy.settleHost (h : Tidy a b s) : Tidy a b s.settleHost := h.foldl (fun _ _ hu => hu.foldl (fun _ _ hv => hv.waitUntil _) _) _

theorem Tidy.writeTail (h : Tidy a b s) (q n : Nat) : Tidy a b (s.writeTail q n) := by
  unfold State.writeTail
  exact .ite h (.ite ((h.settleHost.onHQueue _ _).push _) (h.settleHost.onHQueue _ _))

theorem Tidy.enableQueue (h : Tidy a b s) (q : Nat) : Tidy a b (s.enableQueue q) := .ite h ((h.onHQueue _ _).push _)

theorem Tidy.writeDesc (h : Tidy a b s) (q : Nat) (x : BitVec 512) (t e : Bool) : Tidy a b (s.writeDesc q x t e) := by
  unfold State.writeDesc
  extract_lets k s1 s2
  have h1 : Tidy a b s1 := .ite h ((h.countSlice q).onHQueue _ _)
  have h2 : Tidy a b s2 := .ite (h1.writeTail _ _) h1
  exact .ite h2 (.ite (h2.enableQueue _) (.ite (h2.disableQueue _).kick h2))

theorem Tidy.writeLocator (h : Tidy a b s) (x : BitVec 512) : Tidy a b (s.writeLocator x) := by
  unfold State.writeLocator
  have hu := fun n => Tidy.postWaiting n (h.setFq (withFields s.fq x [(255, 224), (159, 128), (119, 64), (47, 0)]))
  exact .ite (hu _) (Tidy.runRing _ (hu _).settleHost)

theorem Tidy.setHeld (h : Tidy a b s) (l : List CompRec) : Tidy a b { s with heldRecs := l } := h.of_eq
theorem Tidy.setConns (h : Tidy a b s) (l : Tab (BitVec 256)) : Tidy a b { s with conns := l } := h.of_eq

theorem Tidy.resend (h : Tidy a b s) (c : Nat) : Tidy a b (s.resend c) := by
  unfold State.resend
  refine .ite h (Tidy.push (Tidy.foldl (Tidy.foldl (h.setHeld _) (fun _ _ hu => hu.emit _) _) (fun _ _ hu => ?_) _) _)
  exact .ite (hu.flushQueue _) hu

theorem Tidy.writeConn (h : Tidy a b s) (c : Nat) (x : BitVec 256) (l : Bool) : Tidy a b (s.writeConn c x l) := by
  unfold State.writeConn
  exact .ite (Tidy.resend h.of_eq _) (h.setConns _)

theorem Tidy.controlWrite (h : Tidy a b s) (o : Nat) (d : List Byte) : Tidy a b (s.controlWrite o d) := by
  unfold State.controlWrite
  extract_lets n s1 s2
  have h1 : Tidy a b s1 := h.foldl (fun _ _ hu => .ite (hu.writeConn _ _ _) hu) _
  have h2 : Tidy a b s2 := h1.foldl (fun _ _ hu => .ite (hu.writeDesc _ _ _ _) hu) _
  exact .ite (h2.writeLocator _) h2

theorem tidy_tailDoorbell (h : Tidy a b s) (q : Nat) (t : Word) : TidyNext a b (exec (.tailDoorbell q t) s) := by
  show TidyNext a b (execTailDoorbell q t s)
  unfold execTailDoorbell
  exact TidyNext.queueEvent q (h.writeTail _ _)

theorem tidy_queueEnable (h : Tidy a b s) (q : Nat) : TidyNext a b (exec (.queueEnable q) s) := by
  show TidyNext a b (execQueueEnable q s)
  unfold execQueueEnable
  exact TidyNext.queueEvent q (h.enableQueue _)

theorem tidy_queueDisable (h : Tidy a b s) (q : Nat) : TidyNext a b (exec (.queueDisable q) s) := by
  show TidyNext a b (execQueueDisable q s)
  unfold execQueueDisable
  exact TidyNext.queueEvent q (.ite (h.disableQueue _).kick h)

theorem tidy_registerWrite (h : Tidy a b s) (o : Nat) (d : List Byte) : TidyNext a b (exec (.registerWrite o d) s) := h.controlWrite o d

theorem tidy_queuePollTimer (h : Tidy a b s) (q : Nat) : TidyNext a b (exec (.queuePollTimer q) s) := by
  show TidyNext a b (execQueuePollTimer q s)
  unfold execQueuePollTimer
  exact TidyNext.queueEvent q (h.push _)

theorem tidy_completionRecordResend (h : Tidy a b s) (c : Nat) : TidyNext a b (exec (.completionRecordResend c) s) := h.resend c

theorem Tidy.spillRecord (h : Tidy a b s) (c : Nat) : Tidy a b (s.spillRecord c) := by
  unfold State.spillRecord
  dsimp only
  split
  · exact h
  · exact .ite h ((h.setHeld _).onHQueue _ _)

theorem tidy_completionRecordNak (h : Tidy a b s) (r : RecordRef) : TidyNext a b (exec (.completionRecordNak r) s) := by
  show Tidy a b (match sentRecord r.conn r.back (s.out.drop s.past) with
    | none => s
    | some q => _)
  split
  · exact h
  · exact .ite h ((h.setHeld _).spillRecord _)

theorem tidy_connectionFailure (h : Tidy a b s) (c : Nat) : TidyNext a b (exec (.connectionFailure c) s) := .ite h h.of_eq

/-! ## Host accesses (R432, R433, R485) -/

theorem Tidy.hostMay (h : Tidy a b s) (c l : Nat) (w : Bool) : Tidy a b (s.hostMay c l w).2 := by
  have hl := h.findLine c l
  unfold State.hostMay
  split
  next e => exact hl.of_snd e
  next e => exact hl.of_snd e
  next e => exact hl.of_snd e

theorem Tidy.hostMayAll (c : Nat) (w : Bool) : ∀ (ls : List Nat) {s : State}, Tidy a b s → Tidy a b (s.hostMayAll c w ls).2
  | [], _, h => h
  | l :: ls, s, h => by
    have hl := h.hostMay c l w
    unfold State.hostMayAll
    split
    next e => exact Tidy.hostMayAll c w ls (hl.of_snd e)
    · exact hl

theorem Tidy.physWrite (h : Tidy a b s) (x : Nat) (d : List Byte) : Tidy a b (s.physWrite x d) := by
  refine h.foldl (fun u l hu => ?_) _
  exact (hu.activate _).channelStore _ _

theorem Tidy.virtWrite (h : Tidy a b s) (c va : Nat) (d : List Byte) : Tidy a b (s.virtWrite c va d) := by
  refine h.foldl (fun u l hu => ?_) _
  exact hu.storeLine _ _ _ _ _

theorem tidy_rdmaWrite (h : Tidy a b s) (c : Nat) (k : Word) (x : Nat) (d : List Byte) : TidyNext a b (exec (.rdmaWrite c k x d) s) := by
  show TidyNext a b (execRdmaWrite c k x d s)
  unfold execRdmaWrite
  refine Tidy.ite ((h.controlWrite _ _).emit _) (.ite (.ite ((h.physWrite _ _).emit _) (h.emit _)) ?_)
  split
  · exact h.emit _
  next ctx _ =>
    refine .ite (h.emit _) ?_
    have hm := Tidy.hostMayAll ctx true (lineSpan x d.length) h
    split
    next e => exact ((hm.of_snd e).virtWrite _ _ _).emit _
    next e => exact (hm.of_snd e).emit _

theorem Tidy.virtRead (c va n : Nat) : ∀ (ls : List Nat) {s : State}, Tidy a b s → Tidy a b (s.virtRead c va n ls).2
  | [], _, h => h
  | l :: ls, s, h => by
    have hl := h.channelLoad c l
    unfold State.virtRead
    split
    next e =>
      have hr := Tidy.virtRead c va n ls (hl.of_snd e)
      dsimp only
      split
      next e => exact hr.of_snd e
      · exact hr
    next e => exact hl.of_snd e

theorem tidy_rdmaRead (h : Tidy a b s) (c : Nat) (k : Word) (x n : Nat) : TidyNext a b (exec (.rdmaRead c k x n) s) := by
  show TidyNext a b (execRdmaRead c k x n s)
  unfold execRdmaRead
  refine Tidy.ite (h.emit _) (.ite (.ite (Tidy.emit (h.foldl (fun _ _ hu => hu.activate _) _) _) (h.emit _)) ?_)
  split
  · exact h.emit _
  next ctx _ =>
    refine .ite (h.emit _) ?_
    have hm := Tidy.virtRead ctx x n (lineSpan x n) h
    split
    next e => exact (hm.of_snd e).emit _
    next e => exact (hm.of_snd e).emit _

theorem tidy_invalidRequestNak (h : Tidy a b s) (c : Nat) : TidyNext a b (exec (.invalidRequestNak c) s) := h.emit _

/-! ## Boot and reset (R437-R439) -/

/-- After a reset memory is empty, and there are no packs. -/
theorem tidy_afterReset (s : State) : Tidy a b s.afterReset := ⟨fun _ => rfl, fun _ => freed_default, fun _ _ hp => nomatch hp⟩

theorem Tidy.train (h : Tidy a b s) : Tidy a b s.train := h.of_eq
theorem Tidy.retrain (h : Tidy a b s) : Tidy a b s.retrain := .ite h.of_eq h.train

theorem tidy_coldReset (s : State) : TidyNext a b (exec .coldReset s) := tidy_afterReset s

theorem tidy_mgmtWarmReset (h : Tidy a b s) : TidyNext a b (exec .mgmtWarmReset s) := by
  show TidyNext a b (execMgmtWarmReset s)
  unfold execMgmtWarmReset
  refine Tidy.ite h (Tidy.retrain ?_)
  exact ⟨h.mem, fun _ => freed_default, fun _ _ hp => nomatch hp⟩

theorem tidy_modulePowerOff (s : State) : TidyNext a b (exec .modulePowerOff s) := (tidy_afterReset s).of_eq

theorem tidy_bootImageReceive (h : Tidy a b s) (i : List Byte) : TidyNext a b (exec (.bootImageReceive i) s) := by
  show TidyNext a b (execBootImageReceive i s)
  unfold execBootImageReceive
  exact Tidy.ite h (.ite h (.ite h.of_eq (.ite (Tidy.train h.of_eq) h.of_eq)))

/-! ## Rows, power and management (R440-R443) -/

theorem tidy_rowActivationAlert (h : Tidy a b s) (n : Nat) : TidyNext a b (exec (.rowActivationAlert n) s) := by
  show TidyNext a b (execRowActivationAlert n s)
  unfold execRowActivationAlert
  extract_lets u
  have hu : Tidy a b u := Tidy.endBackoffs h.of_eq
  exact Tidy.ite hu.of_eq hu.of_eq

theorem tidy_backoffEnd (h : Tidy a b s) (n : Nat) : TidyNext a b (exec (.backoffEnd n) s) := by
  show Tidy a b (match s.backoff.find? fun b => b.1 == n with
    | none => s
    | some b => _)
  split
  · exact h
  · exact (h.waitUntil _).endBackoff _

theorem Tidy.setClock (h : Tidy a b s) (c k : Nat) (x : Bool) : Tidy a b (s.setClock c k x) := h.onCore _ _

theorem tidy_powerArbiterGrant (h : Tidy a b s) (x d : List Nat) : TidyNext a b (exec (.powerArbiterGrant x d) s) := by
  show TidyNext a b (execPowerArbiterGrant x d s)
  unfold execPowerArbiterGrant
  extract_lets r n u
  have hu : Tidy a b u := h.of_eq
  refine hu.foldl (fun v k hv => ?_) _
  exact .ite (Tidy.setClock hv.of_eq _ _ _) hv

theorem tidy_thermalThrottle (h : Tidy a b s) (c : Nat) : TidyNext a b (exec (.thermalThrottle c) s) := h.setClock _ _ _
theorem tidy_thermalRelease (h : Tidy a b s) (c : Nat) : TidyNext a b (exec (.thermalRelease c) s) := h.setClock _ _ _
theorem tidy_thermalTrip (h : Tidy a b s) : TidyNext a b (exec .thermalTrip s) := h.of_eq

theorem Tidy.bootStatus (h : Tidy a b s) : Tidy a b s.bootStatus.2 := by
  unfold State.bootStatus
  split
  · exact h
  · exact h.takeFree

theorem Tidy.takeFrees (h : Tidy a b s) (n : Nat) : Tidy a b (s.takeFrees n).2 := h.of_eq

theorem tidy_mgmtReadStatus (h : Tidy a b s) : TidyNext a b (exec .mgmtReadStatus s) := ((h.bootStatus.takeFrees _).takeFree).emit _
theorem tidy_mgmtReadCap (h : Tidy a b s) : TidyNext a b (exec .mgmtReadCap s) := h.emit _
theorem tidy_mgmtWriteCap (h : Tidy a b s) (n : Nat) : TidyNext a b (exec (.mgmtWriteCap n) s) := .ite h h.of_eq
theorem tidy_mgmtReadRowThreshold (h : Tidy a b s) : TidyNext a b (exec .mgmtReadRowThreshold s) := h.emit _
theorem tidy_mgmtWriteRowThreshold (h : Tidy a b s) (n : Nat) : TidyNext a b (exec (.mgmtWriteRowThreshold n) s) := .ite h.of_eq h

/-! ## Timers -/

theorem Tidy.expireRequests (h : Tidy a b s) : Tidy a b s.expireRequests := h.foldl (fun _ _ hu => hu.expire _) _

theorem Tidy.expireSlices (h : Tidy a b s) : Tidy a b s.expireSlices := by
  refine h.foldl (fun u e hu => ?_) _
  exact .ite ((hu.countSlice _).expireSlice _).kick (hu.countSlice _)

theorem Tidy.endCollectives (h : Tidy a b s) (c g : Nat) : Tidy a b (s.endCollectives c g) := by
  unfold State.endCollectives
  extract_lets s1 k wait s2
  have h1 : Tidy a b s1 := by
    show Tidy a b (match (if (s.group c g).go then (s.group c g).inHand else none) with
      | none => s
      | some x => _)
    split
    · exact h
    · exact (h.onGroup _ _ _).runColl _ _ _ _ _
  have hwait : ∀ {u : State} n key start asked {mark : State → State}, Tidy a b u → Tidy a b (mark u) →
      Tidy a b (wait u n key start asked mark) := fun {u} n key start asked mark hu hm => by
    show Tidy a b (match k.lone with
      | some t => u.fallBack c g n key t start asked mark
      | none => _)
    split
    · exact hu.fallBack _ _ _ _ _ _ _ hm
    · exact .ite (hu.collDecide _ _ _ _) hu
  have h2 : Tidy a b s2 := by
    refine .ite (.ite h1 (hwait _ _ _ _ h1 (h1.onGroup _ _ _))) (h1.foldl (fun u x hu => ?_) _)
    exact hwait _ _ _ _ hu (hu.onColl _ _ _ _)
  exact h2.writeDue _ _

theorem Tidy.collTimers (h : Tidy a b s) : Tidy a b s.collTimers := h.foldl (fun _ _ hu => hu.endCollectives _ _) _

theorem Tidy.setReports (h : Tidy a b s) (l : List (Nat × Nat × Nat)) : Tidy a b { s with reports := l } := h.of_eq
theorem Tidy.writesDue (h : Tidy a b s) : Tidy a b s.writesDue := (h.setReports _).push _

theorem Tidy.resends (h : Tidy a b s) : Tidy a b s.resends := by
  unfold State.resends
  exact Tidy.setUnacked (h.foldl (fun _ n hu => tidy_packetRetransmit hu n) _) _

theorem Tidy.setPolled (h : Tidy a b s) (n : Nat) : Tidy a b { s with polled := n } := h.of_eq

theorem Tidy.timers (h : Tidy a b s) : Tidy a b s.timers := by
  unfold State.timers
  extract_lets s1 s2 poll evs
  have h1 : Tidy a b s1 := ((Tidy.handOver _ h).expireRequests.expireSlices.writesDue.stopSaves).askLines
  have h2 : Tidy a b s2 := ((Tidy.onPacks h1 fun k hk => freed_promoteDue hk _).collTimers.endBackoffs).resends
  exact (h2.setPolled _).push _

end

end Sys2Proof.Proofs
end

section
/-! SUPPORT. Every word, and every step, keeps the two invariants of the machine; settles O58 and O59. -/

namespace Sys2Proof.Proofs

open Sys2Proof.Machine Sys2Proof.Safety

set_option Elab.async false

section
variable {a b : Prop} {s : State}

/-! ## The kinds of words -/

theorem Tidy.scalarWord (h : Tidy a b s) (i : Instr) (d : BitVec 6) (f : Pack → DWord) : TidyNext a b (scalarWord i d s f) :=
  h.packWord i fun _ _ hq => freed_setS hq _ _

theorem Tidy.branchWord {n : Nat} (h : Tidy a b s) (i : Instr) (o : BitVec n) (c : Pack → Bool) : TidyNext a b (branchWord i s o c) :=
  h.issueWord i fun _ ht => ht

theorem Tidy.vecWord (h : Tidy a b s) (i : Instr) (w : Pack → Bool) (d : Nat) (f : Pack → Nat → Flagged) : TidyNext a b (vecWord i w d s f) :=
  h.packWord i fun _ _ hq => freed_raiseFlags (freed_writeLanes hq _ _ _ _) _

theorem Tidy.predWord (h : Tidy a b s) (i : Instr) (d : BitVec 5) (f : Pack → Nat → Bool) : TidyNext a b (predWord i d s f) :=
  h.packWord i fun _ _ hq => freed_of_eq hq rfl rfl

theorem Tidy.specialWord (h : Tidy a b s) (i : Instr) (d x : BitVec 6) (g : Fmt → Bool → Nat → Nat → Flagged) :
    TidyNext a b (specialWord i d x s g) := by
  refine h.issueWord i fun t ht => ?_
  exact ht.of_pk rfl (fun hk => freed_raiseFlags (freed_writeLanes hk _ _ _ _) _) rfl

theorem freed_putLanes {p : Pack} (h : FreedReadZero p) (m : DWord) (d : Nat) (f : Nat → Flagged) : FreedReadZero (p.putLanes m d f) :=
  freed_raiseFlags (freed_writeLanes h _ _ _ _) _

theorem Tidy.latWord (h : Tidy a b s) (i : Instr) (code : Pack → Nat → Option Nat) {f : Pack → Pack → Pack}
    (hf : ∀ p q, FreedReadZero q → FreedReadZero (f p q)) : TidyNext a b (latWord i s code f) := by
  refine h.issueWord i fun t ht => ?_
  split
  · trivial
  · exact ht.setPk (hf _ _)

theorem Tidy.tileScalar (h : Tidy a b s) (i : Instr) (d : BitVec 6) {f : State → State → DWord × State}
    (hf : ∀ t, Tidy a b t → Tidy a b (f s t).2) : TidyNext a b (tileScalar i d s f) :=
  h.issueWord i fun t ht => (hf t ht).setPk fun hk => freed_setS hk _ _

/-! ## Words with a meaning of their own -/

theorem tidy_modes (h : Tidy a b s) (e : Bool) (x : BitVec 6) : TidyNext a b (exec (.modes e x) s) := by
  refine h.issueWord _ fun t ht => TidyRes.ite ?_ trivial
  exact ht.setPk fun hk => freed_of_eq hk rfl rfl

theorem tidy_srd (h : Tidy a b s) (e : Bool) (d x : BitVec 6) : TidyNext a b (exec (.srd e d x) s) :=
  h.issueWord _ fun _ ht => ht.setPk fun hk => freed_setS hk _ _

theorem tidy_yield (h : Tidy a b s) (e : Bool) : TidyNext a b (exec (.yield e) s) :=
  h.issueWord _ fun _ ht => ht.setPk fun hk => freed_of_eq hk rfl rfl

theorem tidy_exit (h : Tidy a b s) : TidyNext a b (exec .exit s) := by
  refine h.issueWord _ fun t ht => TidyRes.ite h.takePending ?_
  refine Tidy.push (ht.setPk fun hk => ?_) _
  exact freed_of_eq hk rfl rfl

theorem tidy_ret (h : Tidy a b s) (x : BitVec 6) : TidyNext a b (exec (.ret x) s) := h.issueWord _ fun _ ht => ht
theorem tidy_jmp (h : Tidy a b s) (x : BitVec 6) : TidyNext a b (exec (.jmp x) s) := h.issueWord _ fun _ ht => ht

theorem tidy_call (h : Tidy a b s) (o : BitVec 22) : TidyNext a b (exec (.call o) s) :=
  h.issueWord _ fun _ ht => ht.setPk fun hk => freed_setS hk _ _

theorem tidy_hold (h : Tidy a b s) (e : Bool) (l x t m c : BitVec 5) : TidyNext a b (exec (.hold e l x t m c) s) :=
  h.issueWord _ fun _ ht => TidyRes.blockWord h ht _ _

theorem tidy_xset (h : Tidy a b s) (e : Bool) (d x y : BitVec 6) (l m : Bool) : TidyNext a b (exec (.xset e d x y l m) s) := by
  refine h.packWord _ fun p q hq => ?_
  refine freed_foldl (f := fun q l => q.setX l _) (fun q l hu => freed_of_eq hu rfl rfl) _ ?_
  exact freed_raiseFlags (freed_writeLanes hq _ _ _ _) _

theorem tidy_qcb (h : Tidy a b s) (e : Bool) (d x : BitVec 6) (k : BitVec 2) (l : Bool) : TidyNext a b (exec (.qcb e d x k l) s) := by
  refine h.issueWord _ fun t ht => TidyRes.ite trivial ?_
  exact ht.setPk fun hk => freed_raiseFlags (freed_writeLanes hk _ _ _ _) _

theorem tidy_cbld (h : Tidy a b s) (e : Bool) (k : BitVec 2) (x : BitVec 6) (l : Bool) : TidyNext a b (exec (.cbld e k x l) s) := by
  refine h.issueWord _ fun t ht => ?_
  dsimp only
  split
  · trivial
  · exact ht.of_eq

theorem tidy_dlat (h : Tidy a b s) (e : Bool) (d : BitVec 3) (x y : BitVec 6) (l m : Bool) : TidyNext a b (exec (.dlat e d x y l m) s) := by
  show TidyNext a b (execDlat e d x y l m s)
  unfold execDlat
  refine h.latWord _ _ fun p q hq => freed_foldl (fun _ _ hu => ?_) _ hq
  exact freed_putLanes hu _ _ _

/-! ## Tiles -/

theorem tidy_talloc (h : Tidy a b s) (e : Bool) (v x y : BitVec 6) : TidyNext a b (exec (.talloc e v x y) s) :=
  h.tileScalar _ _ fun _ ht => ht.talloc _ _

theorem tidy_tfree (h : Tidy a b s) (e : Bool) (v x : BitVec 6) : TidyNext a b (exec (.tfree e v x) s) := by
  refine h.tileScalar _ _ fun t ht => ?_
  split
  · exact ht
  · split
    · exact ht
    · exact ht.releaseHandle _ _

theorem tidy_tinfo (h : Tidy a b s) (e : Bool) (v x : BitVec 6) : TidyNext a b (exec (.tinfo e v x) s) :=
  h.tileScalar _ _ fun _ ht => ht

theorem tidy_twptr (h : Tidy a b s) (e : Bool) (v x : BitVec 6) : TidyNext a b (exec (.twptr e v x) s) := by
  refine h.issueWord _ fun t ht => ?_
  split
  · exact ht.setPk fun hk => freed_deferTileAll hk _ _ _
  · exact ht.setPk fun hk => freed_setS hk _ _

theorem tidy_tld (h : Tidy a b s) (e : Bool) (v x c : BitVec 6) (l : Bool) : TidyNext a b (exec (.tld e v x c l) s) := by
  refine h.issueWord _ fun t ht => ?_
  dsimp only
  split
  · exact Tidy.startOp (ht.setPk fun hk => freed_deferTile hk _ _ _) _ _
  · exact Tidy.startOp (ht.setPk fun hk => freed_deferTileEcc (freed_deferTile hk _ _ _) _ _) _ _

theorem tidy_tst (h : Tidy a b s) (e : Bool) (v x c : BitVec 6) (l : Bool) : TidyNext a b (exec (.tst e v x c l) s) := by
  refine h.issueWord _ fun t ht => ?_
  dsimp only
  split
  · exact Tidy.startOp (ht.setPk fun hk => freed_deferTile hk _ _ _) _ _
  · refine Tidy.startOp (Tidy.testGates (Tidy.foldl (ht.setPk fun hk => freed_deferTile hk _ _ _) (fun u q hu => ?_) _)) _ _
    split
    · exact hu
    · exact hu.tileWrite _ _ _ _

theorem tidy_tlds (h : Tidy a b s) (e : Bool) (v x c : BitVec 6) : TidyNext a b (exec (.tlds e v x c) s) := by
  refine h.issueWord _ fun t ht => ?_
  dsimp only
  split
  · exact Tidy.startOp (ht.setPk fun hk => freed_deferTileAll hk _ _ _) _ _
  · split
    · exact Tidy.startOp (ht.setPk fun hk => freed_deferTileAll hk _ _ _) _ _
    · exact TidyRes.ite (Tidy.startOp (ht.setPk fun hk => freed_deferAll hk _ _ _ _ _ _) _ _) (ht.startOp _ _)

theorem tidy_tfill (h : Tidy a b s) (e : Bool) (v x : BitVec 6) : TidyNext a b (exec (.tfill e v x) s) := by
  refine h.issueWord _ fun t ht => ?_
  dsimp only
  split
  · exact Tidy.startOp (ht.setPk fun hk => freed_deferTileAll hk _ _ _) _ _
  · exact Tidy.startOp ((ht.tileWrite _ _ _ _).onAlloc _ _).testGates _ _

theorem tidy_unassignedWord (h : Tidy a b s) (w : Word) : TidyNext a b (exec (.unassignedWord w) s) := by
  show TidyNext a b (execUnassignedWord w s)
  unfold execUnassignedWord
  split
  · exact h.raise _
  · split
    · exact h
    · exact h.raise _
    · exact h.raise _

/-! ## Every instruction -/

theorem tidy_exec (h : Tidy a b s) (i : Instr) : TidyNext a b (exec i s) := by
  cases i with
  | sadd | ssub | smul | smulh | sand | sor | sxor | sandn | sshl | sshr | ssar | smin | smax | sclz | spopc | ssel | smov | scmp |
    saddImm | smulImm | sandImm | sorImm | sxorImm | sshlImm | sshrImm | ssarImm | sli | shi |
    mskg | mskpop | mskff | modeg | vget => exact h.scalarWord ..
  | mskp | mskn | msks | mode | fcmp | fflags => exact h.packWord _ fun _ _ hq => freed_of_eq hq rfl rfl
  | nop => exact h.packWord _ fun _ _ hq => hq
  | bra | bemz | bemf | bz | bnz => exact h.issueWord _ fun _ ht => ht
  | vadd | vaddc | vsub | vsubb | vmul | vmulh | vmad | vmin | vmax | vabs | vneg | vand | vor | vxor | vnot | vandn | vshl | vshr | vsar
    | vrot | vclz | vffs | vpopc | vbrev | vmov | vaddImm | vmulImm | vandImm | vorImm | vxorImm | vshlImm | vshrImm | vsarImm | vli | vlane
    | vshf | vstep | vbcast | vbfx | vbfi | fadd | fsub | fmul | fmin | fmax | fabs | fneg | fclass | frint | fdiv | frcp | frsq | fsqrt |
    ffma | cvt | unpk | pack2Bf16 | pack2F16 | pack4E4m3 | pack4E5m2 | pack4hLo | pack4hHi | bscale => exact h.vecWord ..
  | vsel => exact h.packWord _ fun _ _ hq => freed_writeLanes hq _ _ _ _
  | vcmp | plog | lchk => exact h.predWord ..
  | fexp2 e d x l => exact h.specialWord (.fexp2 e d x l) d x fpExp2
  | flog2 e d x l => exact h.specialWord (.flog2 e d x l) d x fpLog2
  | fsin e d x l => exact h.specialWord (.fsin e d x l) d x fun f fl => fpSinCos f fl false
  | fcos e d x l => exact h.specialWord (.fcos e d x l) d x fun f fl => fpSinCos f fl true
  | ftanh e d x l => exact h.specialWord (.ftanh e d x l) d x fpTanh
  | qlat | lscale | lpack => exact h.packWord _ fun _ _ hq => freed_putLanes hq _ _ _
  | lput e d x y l m => exact (h.latWord _ _ fun _ _ hq => freed_putLanes hq _ _ _ : TidyNext a b (execLput e d x y l m s))
  | lshell e d x y l m => exact (h.latWord _ _ fun _ _ hq => freed_putLanes hq _ _ _ : TidyNext a b (execLshell e d x y l m s))
  | lget e d x y l m => exact (h.latWord _ _ fun _ _ hq => freed_putLanes hq _ _ _ : TidyNext a b (execLget e d x y l m s))
  | ld e v y o l w => exact (h.memWord .. : TidyNext a b (execLd e v y o l w s))
  | st e v y o l w => exact (h.memWord .. : TidyNext a b (execSt e v y o l w s))
  | ldaq e v y o l w r => exact (h.memWord .. : TidyNext a b (execLdaq e v y o l w r s))
  | strl e v y o l w r => exact (h.memWord .. : TidyNext a b (execStrl e v y o l w r s))
  | ldp e v y o l w => exact (h.privWord .. : TidyNext a b (execLdp e v y o l w s))
  | stp e v y o l w => exact (h.privWord .. : TidyNext a b (execStp e v y o l w s))
  | lds e v y n w => exact (h.scalarMem .. : TidyNext a b (execLds e v y n w s))
  | sts e v y n w => exact (h.scalarMem .. : TidyNext a b (execSts e v y n w s))
  | atom e v y o l f => exact (h.atomWord .. : TidyNext a b (execAtom e v y o l f s))
  | atomf e v y o l f => exact (h.atomWord .. : TidyNext a b (execAtomf e v y o l f s))
  | cas e v y o l r => exact (h.atomWord .. : TidyNext a b (execCas e v y o l r s))
  | cas64 e v y o l r => exact (h.atomWord .. : TidyNext a b (execCas64 e v y o l r s))
  | atoms e v y o l f => exact (h.atomWord .. : TidyNext a b (execAtoms e v y o l f s))
  | gexp e v k c => exact (h.gateWord .. : TidyNext a b (execGexp e v k c s))
  | garr e v k c => exact (h.gateWord .. : TidyNext a b (execGarr e v k c s))
  | tbar e x => exact (h.barrierWord .. : TidyNext a b (execTbar e x s))
  | gbar e x => exact (h.barrierWord .. : TidyNext a b (execGbar e x s))
  | dlogStat e d x => exact (h.dlogWord .. : TidyNext a b (execDlogStat e d x s))
  | dlogStart e d x => exact (h.dlogWord .. : TidyNext a b (execDlogStart e d x s))
  | dlogStop e d x => exact (h.dlogWord .. : TidyNext a b (execDlogStop e d x s))
  | dlogAck e d x => exact (h.dlogWord .. : TidyNext a b (execDlogAck e d x s))
  | dlogCons e d x => exact (h.dlogWord .. : TidyNext a b (execDlogCons e d x s))
  | hbmRecalibrate => exact h
  | modes => exact tidy_modes h ..
  | srd => exact tidy_srd h ..
  | yield => exact tidy_yield h ..
  | ret => exact tidy_ret h ..
  | jmp => exact tidy_jmp h ..
  | hold => exact tidy_hold h ..
  | call => exact tidy_call h ..
  | qcb => exact tidy_qcb h ..
  | xset => exact tidy_xset h ..
  | cbld => exact tidy_cbld h ..
  | dlat => exact tidy_dlat h ..
  | tld => exact tidy_tld h ..
  | tst => exact tidy_tst h ..
  | tlds => exact tidy_tlds h ..
  | talloc => exact tidy_talloc h ..
  | tfree => exact tidy_tfree h ..
  | tinfo => exact tidy_tinfo h ..
  | tfill => exact tidy_tfill h ..
  | twptr => exact tidy_twptr h ..
  | pref => exact tidy_pref h ..
  | pflush => exact tidy_pflush h ..
  | fence => exact tidy_fence h ..
  | ctld => exact tidy_ctld h ..
  | ctinv => exact tidy_ctinv h ..
  | bixq => exact tidy_bixq h ..
  | kvapp => exact tidy_kvapp h ..
  | dech => exact tidy_dech h ..
  | dec => exact tidy_dec h ..
  | enc => exact tidy_enc h ..
  | encf => exact tidy_encf h ..
  | lift => exact tidy_lift h ..
  | lqry => exact tidy_lqry h ..
  | lcan => exact tidy_lcan h ..
  | ginit => exact tidy_ginit h ..
  | gwait => exact tidy_gwait h ..
  | gtry => exact tidy_gtry h ..
  | mma => exact tidy_mma h ..
  | mwld => exact tidy_mwld h ..
  | mswap => exact tidy_mswap h ..
  | mzero => exact tidy_mzero h ..
  | mrd => exact tidy_mrd h ..
  | mwr => exact tidy_mwr h ..
  | mrel => exact tidy_mrel h ..
  | ppt => exact tidy_ppt h ..
  | launch => exact tidy_launch h ..
  | evsig => exact tidy_evsig h ..
  | evwait => exact tidy_evwait h ..
  | coll => exact tidy_coll h ..
  | cwait => exact tidy_cwait h ..
  | grpf => exact tidy_grpf h ..
  | fstat => exact tidy_fstat h ..
  | trap => exact tidy_trap h ..
  | rte => exact tidy_rte h ..
  | ssrd => exact tidy_ssrd h ..
  | sswr => exact tidy_sswr h ..
  | bkpt => exact tidy_bkpt h ..
  | halt => exact tidy_halt h ..
  | cntrd => exact tidy_cntrd h ..
  | frz => exact tidy_frz h ..
  | icacheFill => exact tidy_icacheFill h ..
  | loadLaneReturn => exact tidy_loadLaneReturn h ..
  | storeWctReturn => exact tidy_storeWctReturn h ..
  | tileAccessRetire => exact tidy_tileAccessRetire h ..
  | matrixOpRetire => exact tidy_matrixOpRetire h ..
  | decodeUnitRetire => exact tidy_decodeUnitRetire h ..
  | pageFaultPark => exact tidy_pageFaultPark h ..
  | trapEntry => exact tidy_trapEntry h ..
  | haltBroadcastArrive => exact tidy_haltBroadcastArrive h ..
  | mmaArrayStart => exact tidy_mmaArrayStart h ..
  | mwldBufferWrite => exact tidy_mwldBufferWrite h ..
  | pairSlave => exact tidy_pairSlave h ..
  | packSave => exact tidy_packSave h ..
  | packRetire => exact tidy_packRetire h ..
  | evwaitReread => exact tidy_evwaitReread h ..
  | cwaitReread => exact tidy_cwaitReread h ..
  | granuleClearDone => exact tidy_granuleClearDone h ..
  | teamPlace => exact tidy_teamPlace h ..
  | gangPlace => exact tidy_gangPlace h ..
  | evict => exact tidy_evict h ..
  | teamExit => exact tidy_teamExit h ..
  | gridRetire => exact tidy_gridRetire h ..
  | launchRecordRead => exact tidy_launchRecordRead h ..
  | waitConditionRead => exact tidy_waitConditionRead h ..
  | homeLoad => exact tidy_homeLoad h ..
  | homeWrite => exact tidy_homeWrite h ..
  | homeWritePerform => exact tidy_homeWritePerform h ..
  | homeAtomic => exact tidy_homeAtomic h ..
  | kvappAppend => exact tidy_kvappAppend h ..
  | liftCommandStart => exact tidy_liftCommandStart h ..
  | liftCopy => exact tidy_liftCopy h ..
  | liftDecodeCopy => exact tidy_liftDecodeCopy h ..
  | liftEncodeStore => exact tidy_liftEncodeStore h ..
  | liftAccumulatorLoad => exact tidy_liftAccumulatorLoad h ..
  | liftCommandComplete => exact tidy_liftCommandComplete h ..
  | freeze => exact tidy_freeze h ..
  | fullingComplete => exact tidy_fullingComplete h ..
  | frzCompletion => exact tidy_frzCompletion h ..
  | resume => exact tidy_resume h ..
  | rowActivationAlert => exact tidy_rowActivationAlert h ..
  | exit => exact tidy_exit h ..
  | packPromote => exact tidy_packPromote h ..
  | pairAbort => exact tidy_pairAbort h ..
  | pptTimeout => exact tidy_pptTimeout h ..
  | sliceExpire => exact tidy_sliceExpire h ..
  | completionRecordResend => exact tidy_completionRecordResend h ..
  | tailDoorbell => exact tidy_tailDoorbell h ..
  | queueEnable => exact tidy_queueEnable h ..
  | queueDisable => exact tidy_queueDisable h ..
  | registerWrite => exact tidy_registerWrite h ..
  | queuePollTimer => exact tidy_queuePollTimer h ..
  | channelTranslate => exact tidy_channelTranslate h ..
  | tableWalk => exact tidy_tableWalk h ..
  | privateWriteback => exact tidy_privateWriteback h ..
  | eccRetry => exact tidy_eccRetry h ..
  | liftError => exact tidy_liftError h ..
  | liftSourcePark => exact tidy_liftSourcePark h ..
  | multicastHeldDelivery => exact tidy_multicastHeldDelivery h ..
  | collectiveWithdraw => exact tidy_collectiveWithdraw h ..
  | flitCrcRetry => exact tidy_flitCrcRetry h ..
  | linkLaneFail => exact tidy_linkLaneFail h ..
  | linkDown => exact tidy_linkDown h ..
  | vlPause => exact tidy_vlPause h ..
  | packetAccept => exact tidy_packetAccept h ..
  | packetRetransmit => exact tidy_packetRetransmit h ..
  | requestDeadline => exact tidy_requestDeadline h ..
  | routeTableInstall => exact tidy_routeTableInstall h ..
  | routeTableSwitchover => exact tidy_routeTableSwitchover h ..
  | routeTableRetire => exact tidy_routeTableRetire h ..
  | multicastBranchSend => exact tidy_multicastBranchSend h ..
  | switchWriteback => exact tidy_switchWriteback h ..
  | skewMeasure => exact tidy_skewMeasure h ..
  | collBarrier => exact tidy_collBarrier h ..
  | collBroadcast => exact tidy_collBroadcast h ..
  | collAllreduce => exact tidy_collAllreduce h ..
  | collReduceScatter => exact tidy_collReduceScatter h ..
  | collAllgather => exact tidy_collAllgather h ..
  | agreementReport => exact tidy_agreementReport h ..
  | collDeadline => exact tidy_collDeadline h ..
  | agreementFallback => exact tidy_agreementFallback h ..
  | collStatusWrite => exact tidy_collStatusWrite h ..
  | rdmaWrite => exact tidy_rdmaWrite h ..
  | rdmaRead => exact tidy_rdmaRead h ..
  | invalidRequestNak => exact tidy_invalidRequestNak h ..
  | fqResolve => exact tidy_fqResolve h ..
  | fqDecline => exact tidy_fqDecline h ..
  | fqInvalidate => exact tidy_fqInvalidate h ..
  | fqKeyInvalidate => exact tidy_fqKeyInvalidate h ..
  | fqScrub => exact tidy_fqScrub h ..
  | faultReportPost => exact tidy_faultReportPost h ..
  | coldReset => exact tidy_coldReset s
  | bootImageReceive => exact tidy_bootImageReceive h ..
  | resumePlace => exact tidy_resumePlace h ..
  | backoffEnd => exact tidy_backoffEnd h ..
  | powerArbiterGrant => exact tidy_powerArbiterGrant h ..
  | thermalThrottle => exact tidy_thermalThrottle h ..
  | thermalRelease => exact tidy_thermalRelease h ..
  | thermalTrip => exact tidy_thermalTrip h ..
  | mgmtReadStatus => exact tidy_mgmtReadStatus h ..
  | mgmtReadCap => exact tidy_mgmtReadCap h ..
  | mgmtWriteCap => exact tidy_mgmtWriteCap h ..
  | mgmtReadRowThreshold => exact tidy_mgmtReadRowThreshold h ..
  | mgmtWriteRowThreshold => exact tidy_mgmtWriteRowThreshold h ..
  | mgmtWarmReset => exact tidy_mgmtWarmReset h ..
  | unassignedWord => exact tidy_unassignedWord h ..
  | completionRecordNak => exact tidy_completionRecordNak h ..
  | connectionFailure => exact tidy_connectionFailure h ..
  | modulePowerOff => exact tidy_modulePowerOff s

/-! ## The step -/

/-- A word that lanes in error leave: it ends as the word does, or with those lanes restored. -/
theorem tidy_issue (h : Tidy a b s) (i : Instr) : TidyNext a b (issue i s) := by
  have hx := tidy_exec h i
  unfold issue
  split
  · exact h.scalarEcc _ _
  · split
    · exact hx
    · split
      · exact h.scalarLaneEcc _
      · exact h.scalarLaneEcc _
      · generalize exec i s = r at hx
        cases r with
        | next n =>
          dsimp only
          split
          · exact hx
          · have hy := tidy_exec (h.eccEnter i) i
            generalize exec i (s.eccEnter i) = q at hy
            cases q with
            | next m => exact h.eccLeave hy
            | _ => trivial
        | _ => trivial

theorem tidy_issueBits (h : Tidy a b s) (w : Word) : TidyNext a b (issueBits w s) := by
  unfold issueBits
  split
  · exact tidy_issue h _
  · exact tidy_unassignedWord h w
  · exact tidy_unassignedWord h w

theorem tidy_runTurn (h : Tidy a b s) : TidyNext a b (runTurn s) := by
  have hf := h.fetch
  unfold runTurn
  dsimp only
  split
  · exact h.parkNow.haltStop _
  · split
    next w t e =>
      have ht := hf.of_snd e
      have hi := tidy_issueBits ht w
      generalize issueBits w t = r at hi
      cases r with
      | next n => exact Tidy.haltStop hi _
      | _ => trivial
    next c r t e =>
      have ht := hf.of_snd e
      exact Tidy.haltStop (.ite ht.runOver (ht.raise _)) _
    next t e =>
      have ht := hf.of_snd e
      exact Tidy.haltStop (.ite ht.runOver ht.fetchMiss) _

theorem tidy_slotTurn (h : Tidy a b s) (k : Nat) : TidyNext a b (slotTurn k s) := by
  unfold slotTurn
  split
  · exact h
  · split
    · exact tidy_runTurn (h.switchTo _)
    · exact h.arbitrate _

theorem tidy_issueTurn (h : Tidy a b s) : TidyNext a b (issueTurn s) := by
  unfold issueTurn
  split
  · exact tidy_runTurn h
  · exact tidy_slotTurn h _

theorem tidy_eventTurn (h : Tidy a b s) (k : Nat) : TidyNext a b (eventTurn k s) := by
  unfold eventTurn
  split
  · exact h
  · exact tidy_exec h.of_eq _

theorem tidy_step (h : Tidy a b s) : TidyNext a b (step s) := by
  unfold step
  extract_lets t
  have ht : Tidy a b t := h.of_eq
  clear_value t
  split
  · refine tidy_issueTurn ?_
    refine Tidy.timers ?_
    exact ht.of_eq
  · refine tidy_slotTurn ?_ _
    refine Tidy.timers ?_
    exact ht.of_eq
  · refine tidy_eventTurn ?_ _
    exact ht.of_eq
  · split
    · refine tidy_slotTurn ?_ _
      exact ht.timers
    · exact tidy_eventTurn ht _

theorem tidy_of_step (h : Tidy a b s) {t : State} (e : step s = .next t) : Tidy a b t := by
  have ht := tidy_step h
  rw [e] at ht
  exact ht

end

/-! ## Memory -/

/-- What is read after the bytes bs are written from y. -/
theorem memByte_memWrite (bs : List Byte) (x : Nat) : ∀ (m : List Host.Cell) (y : Nat),
    memByte (memWrite m y bs) x = if y ≤ x ∧ x < y + bs.length then (bs[x - y]?).getD 0 else memByte m x := by
  induction bs with
  | nil =>
    intro m y
    rw [if_neg (by simp only [List.length_nil]; omega)]
    rfl
  | cons c bs ih =>
    intro m y
    rw [memWrite, ih, memByte, memByte, Tab.get_set]
    by_cases hx : x = y
    · subst hx
      simp
    · rw [if_neg hx]
      by_cases hin : y ≤ x ∧ x < y + (c :: bs).length
      · obtain ⟨hle, hlt⟩ := hin
        rw [List.length_cons] at hlt
        obtain ⟨k, rfl⟩ : ∃ k, x = y + 1 + k := ⟨x - (y + 1), by omega⟩
        rw [if_pos (by omega), if_pos (by rw [List.length_cons]; omega), Nat.add_sub_cancel_left,
          show y + 1 + k - y = k + 1 by omega, List.getElem?_cons_succ]
      · rw [if_neg hin, if_neg (by rw [List.length_cons] at hin; omega)]

/-- Settles O58: every operation of the machine writes memory through operations that keep its form. -/
theorem memoryStaysCanonical : Obligations.MemoryStaysCanonical := by
  unfold Obligations.MemoryStaysCanonical
  intro s t hs e
  have h : Tidy True False s := ⟨fun _ => hs, False.elim, False.elim⟩
  exact (tidy_of_step h e).mem trivial

/-- Settles O59: by induction on the bytes written, and, for the registers, by the invariant that every step keeps. -/
theorem readAfterWrite : Obligations.ReadAfterWrite := by
  unfold Obligations.ReadAfterWrite
  refine ⟨fun m x bs y _ => memByte_memWrite bs y m x, fun s t hs e => ?_, fun p hp => ?_⟩
  · have h : Tidy False True s := ⟨False.elim, fun _ => hs _ List.mem_cons_self, fun _ p hp => hs p (List.mem_cons_of_mem _ hp)⟩
    have ht := tidy_of_step h e
    intro p hp
    rcases List.mem_cons.mp hp with rfl | hp
    · exact ht.pk trivial
    · exact ht.packs trivial p hp
  · rw [List.mem_singleton.mp hp]
    exact freed_default

end Sys2Proof.Proofs
end

section
/-! SUPPORT. The events of packs; settles O38. -/

namespace Sys2Proof.Proofs

open Sys2Proof.Machine Sys2Proof.Safety

set_option Elab.async false

section
variable {s : State} {p : PackId} {k : Pack}

/-! ## Lines of an instruction cache -/

/-- Making room changes the caches of the cores, and uses up a free value. -/
theorem icacheRoom_eq (s : State) (c : Nat) (e : Nat × Nat) : ∃ cs n, s.icacheRoom c e = { s with cores := cs, free := n } := by
  unfold State.icacheRoom State.pickFree
  dsimp only
  split
  · exact ⟨s.cores, s.free, rfl⟩
  · generalize (s.core c).icache[s.takeFree.1.toNat % (s.core c).icache.length]? = r
    cases r with
    | none => exact ⟨s.cores, s.free + 1, rfl⟩
    | some x => exact ⟨_, s.free + 1, rfl⟩

/-- The line e in the cache of a core. -/
def cacheLine (e : Nat × Nat) (c : CoreSt) : CoreSt := if c.icache.contains e then c else { c with icache := c.icache ++ [e] }

theorem cacheLine_contains (e : Nat × Nat) (c : CoreSt) : (cacheLine e c).icache.contains e = true := by
  unfold cacheLine
  split
  next h => exact h
  · simp

/-- A pack whose line has come. -/
def readied (now : Nat) (k : Pack) : Pack := if k.status = .fetching then { k with status := .ready, since := now } else k

theorem readied_id (now : Nat) (k : Pack) : (readied now k).id = k.id := by
  unfold readied
  split <;> rfl

theorem exec_icacheFill (h : s.pack? p = some k) :
    let e := ((s.teamOf k).ctx, k.pc.toNat / 128)
    let u := s.icacheRoom (s.teamOf k).core e
    exec (.icacheFill p) s = .next ((u.onCore (s.teamOf k).core (cacheLine e)).onPack p (readied u.gtc)) := by
  show execIcacheFill p s = _
  rw [execIcacheFill, h]
  rfl

theorem icacheFill_readies (h : s.pack? p = some k) (hs : k.status = .fetching) : ∃ t, Happens (.icacheFill p) s t ∧
    (t.pack? p).map (fun q => (q.status, q.since)) = some (.ready, s.gtc) ∧
    (t.core (s.teamOf k).core).icache.contains ((s.teamOf k).ctx, k.pc.toNat / 128) = true := by
  obtain ⟨cs, n, hu⟩ := icacheRoom_eq s (s.teamOf k).core ((s.teamOf k).ctx, k.pc.toNat / 128)
  refine ⟨_, exec_icacheFill h, ?_, ?_⟩
  · rw [pack_onPack _ p k _ (by rw [hu]; exact h) (readied_id _), Option.map_some, readied, if_pos hs, hu]
  · rw [State.core, State.onPack_cores, State.onCore, Tab.get_set, if_pos rfl]
    exact cacheLine_contains _ _

/-! ## Promotion, parking and traps -/

theorem packPromote_happens (h : s.pack? p = some k) :
    (∀ t, s.promotesAt k = some t → Happens (.packPromote p) s ((s.waitUntil t).onPack p fun k => { k with promoted := some t })) ∧
    (s.promotesAt k = none → Happens (.packPromote p) s s) := by
  have he : exec (.packPromote p) s = execPackPromote p s := rfl
  rw [execPackPromote, h, Option.bind_some] at he
  constructor
  · intro t ht
    rw [ht] at he
    exact he
  · intro hn
    rw [hn] at he
    exact he

/-- When a ready pack is promoted, under a clock that has not changed. -/
theorem promotesAt_spec (s : State) (k : Pack) : let x := s.core (s.teamOf k).core
    (k.status ≠ .ready ∨ s.lineCached (s.teamOf k) k = false ∨ k.promoted ≠ none → s.promotesAt k = none) ∧
    (k.status = .ready → s.lineCached (s.teamOf k) k = true → k.promoted = none → x.clocks = [] → 0 < x.clock →
      s.promotesAt k = some (k.since + (8 * 4096 + x.clock - 1) / x.clock)) := by
  intro x
  unfold State.promotesAt
  dsimp only
  constructor
  · intro h
    refine if_neg fun hc => ?_
    rw [Bool.and_eq_true, Bool.and_eq_true, decide_eq_true_iff, Option.isNone_iff_eq_none] at hc
    obtain ⟨⟨h1, h2⟩, h3⟩ := hc
    rcases h with h | h | h
    · exact h h1
    · exact absurd (h2.symm.trans h) (by decide)
    · exact h h3
  · intro h1 h2 h3 h4 h5
    rw [if_pos (by rw [h1, h2, h3]; rfl), h4, tickAfter, if_neg (by decide), if_neg (Nat.ne_of_gt h5)]

theorem pageFaultPark_happens (p : PackId) (s : State) :
    Happens (.pageFaultPark p) s (s.onPack p fun k => if k.replay = [] then k else { k with parkDue := true }) := by
  show execPageFaultPark p s = _
  rw [execPageFaultPark]
  simp only [List.isEmpty_iff]

theorem trapEntry_delivers (h : s.pack? p = some k) (hs : k.status = .trapping) (ho : k.ops = []) :
    Happens (.trapEntry p) s (s.deliver k) := by
  show execTrapEntry p s = _
  rw [execTrapEntry, h]
  dsimp only
  rw [if_pos (by rw [hs, Pack.drained, ho]; rfl)]

/-! ## A halt that arrives -/

theorem haltBroadcast_running (h : s.pack? p = some k) (hs : k.status = .running) :
    Happens (.haltBroadcastArrive p) s (s.onPack p fun k => if k.haltDue then k else { k with haltDue := true, skid := 0 }) := by
  show execHaltBroadcastArrive p s = _
  rw [execHaltBroadcastArrive, h]
  dsimp only
  rw [hs]

theorem haltBroadcast_standing (h : s.pack? p = some k) (hs : [PStatus.vacant, .retired, .halted, .running].contains k.status = false) :
    Happens (.haltBroadcastArrive p) s
      ((s.onPack p fun k => { k with status := .halted, wait := .none, due := {} }).push [.packRetire p]) := by
  show execHaltBroadcastArrive p s = _
  rw [execHaltBroadcastArrive, h]
  dsimp only
  generalize k.status = st at hs
  cases st
  case vacant => exact absurd hs (by decide)
  case retired => exact absurd hs (by decide)
  case halted => exact absurd hs (by decide)
  case running => exact absurd hs (by decide)
  all_goals rfl

/-! ## A pack that is saved, and one that retires -/

theorem packSave_saves (h : s.pack? p = some k) (hs : k.status = .saving) (ho : k.ops = []) (hw : s.pairWrites (s.teamOf k) = false) :
    let u := ((s.flushPrivate p).dropPrivate p).countFor p.grid
    Happens (.packSave p) s
      ((u.onPack p fun k => { k with status := .saved, saveDue := false, parkDue := false, promoted := none }).saveTeam
        (s.teamOf k)).kick := by
  intro u
  show execPackSave p s = _
  rw [execPackSave, h]
  dsimp only
  rw [if_neg (by rw [hs]; decide), hs, hw, Pack.drained, ho]
  rfl

theorem packSave_saved (h : s.pack? p = some k) (hs : k.status = .saved) :
    Happens (.packSave p) s (s.saveTeam (s.teamOf k)).kick := by
  show execPackSave p s = _
  rw [execPackSave, h]
  exact congrArg Host.Outcome.next (if_pos hs)

theorem packRetire_exiting (h : s.pack? p = some k) (ho : k.ops = []) (hr : k.replay = []) (hs : k.status = .exiting) :
    Happens (.packRetire p) s (s.retirePack p) := by
  show execPackRetire p s = _
  rw [execPackRetire, h]
  dsimp only
  rw [hs, Pack.drained, ho, hr]
  rfl

theorem packRetire_halted (h : s.pack? p = some k) (ho : k.ops = []) (hr : k.replay = []) (hs : k.status = .halted)
    (hroom : s.reportRoom = true) (hw : s.waiting = []) :
    Happens (.packRetire p) s ((s.post (haltReport (s.teamOf k) k)).retirePack p) := by
  show execPackRetire p s = _
  rw [execPackRetire, h]
  dsimp only
  rw [hs, Pack.drained, ho, hr, hroom, hw]
  rfl

/-! ## Words of memory that packs wait on -/

/-- A waiting pack whose word could be read goes on where its condition is met. -/
theorem rereadWord_ok {va : Nat} {bs : List Byte} {t : State} (met : Nat → Option (Pack → Pack)) (h : s.readWait k va = (.ok bs, t)) :
    s.rereadWord k va met = match met (ofBytes bs) with
      | some f => t.onPack k.id fun k => (f k).wake t.gtc
      | none => t := by
  rw [State.rereadWord, h] <;> rfl

theorem evwaitReread_happens {va v : Nat} {bs : List Byte} {t : State} (h : s.pack? p = some k) (hs : k.status = .waiting)
    (hw : k.wait = .event va v) (hr : s.readWait k va = (.ok bs, t)) :
    (v ≤ ofBytes bs → Happens (.evwaitReread p) s (t.onPack k.id fun k => k.wake t.gtc)) ∧
    (ofBytes bs < v → Happens (.evwaitReread p) s t) := by
  have he : exec (.evwaitReread p) s = .next (s.rereadWord k va fun x => if v ≤ x then some fun k => k else none) := by
    show execEvwaitReread p s = _
    rw [execEvwaitReread, h]
    dsimp only
    rw [hs, hw]
  rw [rereadWord_ok _ hr] at he
  constructor
  · intro hle
    rw [if_pos hle] at he
    exact he
  · intro hlt
    rw [if_neg (Nat.not_le.mpr hlt)] at he
    exact he

theorem cwaitReread_happens {va d : Nat} {bs : List Byte} {t : State} (h : s.pack? p = some k) (hs : k.status = .waiting)
    (hw : k.wait = .status va d) (hr : s.readWait k va = (.ok bs, t)) :
    let v := ofBytes bs
    (v.testBit 63 = true → Happens (.cwaitReread p) s
      (t.onPack k.id fun k => ((if v % 2 ^ 8 = 0 then k else k.setFstat 32).setS d (dw v)).wake t.gtc)) ∧
    (v.testBit 63 = false → Happens (.cwaitReread p) s t) := by
  intro v
  have he : exec (.cwaitReread p) s = .next (s.rereadWord k va fun v =>
      if v.testBit 63 then some fun k => (if v % 256 = 0 then k else k.setFstat 32).setS d (dw v) else none) := by
    show execCwaitReread p s = _
    rw [execCwaitReread, h]
    dsimp only
    rw [hs, hw]
  rw [rereadWord_ok _ hr] at he
  constructor
  · intro hb
    rw [if_pos hb] at he
    exact he
  · intro hb
    rw [if_neg (by rw [hb]; exact Bool.false_ne_true)] at he
    exact he

theorem pptTimeout_happens (h : s.pack? p = some k) (hs : k.saveDue = true) : Happens (.pptTimeout p) s (s.waitUntil (k.asked + 50000)) := by
  show execPptTimeout p s = _
  rw [execPptTimeout, h]
  exact congrArg Host.Outcome.next (if_pos hs)

end

/-- Settles O38: each event looks its pack up, and acts on what that pack is. -/
theorem packEvents : Obligations.PackEvents := by
  unfold Obligations.PackEvents
  exact ⟨fun _ _ _ => icacheFill_readies, fun _ _ _ => packPromote_happens, promotesAt_spec, pageFaultPark_happens,
    fun _ _ _ => trapEntry_delivers, fun _ _ _ => haltBroadcast_running, fun _ _ _ => haltBroadcast_standing,
    fun _ _ _ => packSave_saves, fun _ _ _ => packSave_saved,
    fun _ _ _ h ho hr => ⟨packRetire_exiting h ho hr, packRetire_halted h ho hr⟩,
    fun _ _ _ _ _ _ _ => evwaitReread_happens, fun _ _ _ _ _ _ _ => cwaitReread_happens, fun _ _ _ => pptTimeout_happens⟩

end Sys2Proof.Proofs
end

section
/-! SUPPORT. Operations of the wait counters that end; settles O41. -/

namespace Sys2Proof.Proofs

open Sys2Proof.Machine Sys2Proof.Safety

set_option Elab.async false

/-! ## What a completed memory operation leaves of its pack -/

theorem landFaults_eq (o : Op) (p : Pack) : ∃ r, Pack.landFaults o p = { p with pend := r } := by
  unfold Pack.landFaults
  split
  · exact ⟨p.pend, rfl⟩
  · split
    · exact ⟨_, defer_pend p _ _ _ _ _ _ _ _ p rfl⟩
    · exact ⟨_, deferLanes_pend p p rfl _ _⟩

/-- Beside its results, a completed memory operation changes the pending record, LWCT and the acquire of its pack. -/
theorem landMem_eq (o : Op) (p : Pack) : ∃ r w a, Pack.landMem o p = { (p.landOp o).landS o with pend := r, lwct := w, acquire := a } := by
  obtain ⟨r, hr⟩ := landFaults_eq o ((p.landOp o).landS o)
  show ∃ _ _ _, ((Pack.landFaults o ((p.landOp o).landS o)).returnWct o.wct).acquired o.id = _
  rw [hr, Pack.acquired]
  split <;> exact ⟨_, _, _, rfl⟩

theorem landMem_v (o : Op) (p : Pack) (r : Nat) : (Pack.landMem o p).v r = ((p.landOp o).landS o).v r := by
  obtain ⟨f, w, a, h⟩ := landMem_eq o p
  rw [h]
  rfl

theorem landMem_s (o : Op) (p : Pack) (r : Nat) : (Pack.landMem o p).s r = ((p.landOp o).landS o).s r := by
  obtain ⟨f, w, a, h⟩ := landMem_eq o p
  rw [h]
  rfl

/-! ## Results in registers -/

theorem lane_writeV (p : Pack) (m : DWord) (d r l : Nat) (x : Lanes) (hl : l < 64) :
    lane ((p.writeV m d x).v r) l = if r = d ∧ m.getLsbD l then lane x l else lane (p.v r) l := by
  obtain ⟨vr, lv, h, hv, -⟩ := writeV_spec p m d x
  rw [h]
  exact hv r l hl

/-- A lane of a register that a list of lane values lands in. -/
theorem lane_landed (p : Pack) (got : List (Nat × Nat)) (d r l k : Nat) (hl : l < 64) :
    lane ((p.landV (maskOf (got.map (·.1))) d (lanesFrom got k)).v r) l =
      match got.find? fun g => g.1 == l with
      | some g => if r = d then BitVec.ofNat 32 (g.2 / 2 ^ k) else lane (p.v r) l
      | none => lane (p.v r) l := by
  rw [Pack.landV, lane_writeV _ _ _ _ _ _ hl, maskOf_bit _ _ hl, lanesFrom, lane_ofLanes _ _ hl]
  cases hg : got.find? fun g => g.1 == l with
  | none =>
    have hn : l ∉ got.map (·.1) := fun hm => by
      obtain ⟨g, hgm, rfl⟩ := List.mem_map.mp hm
      exact List.find?_eq_none.mp hg g hgm (beq_self_eq_true _)
    rw [if_neg fun hc => hn (of_decide_eq_true hc.2)]
  | some g =>
    have hm : l ∈ got.map (·.1) := List.mem_map.mpr ⟨g, List.mem_of_find?_eq_some hg, by simpa using List.find?_some hg⟩
    simp only [hm, decide_true, and_true, Nat.shiftRight_eq_div_pow]

theorem landS_none (p : Pack) {o : Op} (h : o.sdst = []) : p.landS o = p := by
  rw [Pack.landS, h]

theorem landOp_none (p : Pack) {o : Op} (h : o.vdst = []) : p.landOp o = p := by
  rw [Pack.landOp, h]

/-- The lanes that a load writes. -/
theorem landMem_lane (k : Pack) (o : Op) (wide : Bool) (d r l : Nat) (hv : o.vdst = destOf wide d) (hs : o.sdst = []) (hl : l < 64) :
    lane ((Pack.landMem o k).v r) l =
      match o.got.find? fun g => g.1 == l with
      | some g => if (destOf wide d).contains r then BitVec.ofNat 32 (g.2 / 2 ^ (32 * (r - d))) else lane (k.v r) l
      | none => lane (k.v r) l := by
  rw [landMem_v, landS_none _ hs, Pack.landOp, hv]
  cases wide with
  | false =>
    show lane ((k.landV _ d (lanesFrom o.got 0)).v r) l = _
    rw [lane_landed _ _ _ _ _ _ hl]
    cases o.got.find? fun g => g.1 == l with
    | none => rfl
    | some g =>
      by_cases hr : r = d
      · subst hr
        simp [destOf]
      · simp [destOf, hr]
  | true =>
    show lane (((k.landV _ d (lanesFrom o.got 0)).landV _ (d + 1) (lanesFrom o.got 32)).v r) l = _
    rw [lane_landed _ _ _ _ _ _ hl, lane_landed _ _ _ _ _ _ hl]
    cases o.got.find? fun g => g.1 == l with
    | none => rfl
    | some g =>
      by_cases hr : r = d + 1
      · subst hr
        simp [destOf]
      · by_cases hd : r = d
        · subst hd
          simp [destOf]
        · simp [destOf, hr, hd]

/-- The register that a scalar load writes. -/
theorem landMem_scalar (k : Pack) (o : Op) (d r : Nat) (hv : o.vdst = []) (hs : o.sdst = [d]) :
    (Pack.landMem o k).s r =
      match o.got with
      | [] => k.s r
      | g :: _ => if r = d then dw g.2 else k.s r := by
  rw [landMem_s, landOp_none _ hv, Pack.landS, hs]
  cases o.got with
  | nil => rfl
  | cons g gs => exact Tab.get_set ..

/-! ## Operations of a pack -/

theorem op_replace {k : Pack} {n : Nat} {q : Op} (f : Op → Op) (h : k.op? n = some q) (hf : ∀ q, (f q).id = q.id) :
    ({ k with ops := replaceFirst (fun o => o.id == n) f k.ops } : Pack).op? n = some (f q) :=
  find_replaceFirst _ f (fun a ha => by rw [hf]; exact ha) _ _ h

/-- An operation changed by f is found changed. -/
theorem onOp_op {s : State} {p : PackId} {n : Nat} {k : Pack} {q : Op} (f : Op → Op) (hk : s.pack? p = some k) (hq : k.op? n = some q)
    (hf : ∀ q, (f q).id = q.id) : ((s.onOp p n f).pack? p).bind (fun k => k.op? n) = some (f q) := by
  rw [State.onOp, pack_onPack s p k (fun k => { k with ops := replaceFirst (fun o => o.id == n) f k.ops }) hk fun _ => rfl]
  exact op_replace f hq hf

/-- How an event that ends an operation retires it. -/
theorem retires_of {i : Instr} {s u : State} {p : PackId} {n : Nat} {k : Pack} {o : Op} (f : Op → Pack → Pack) (h : HasOp s p n k o)
    (hu : u.pack? p = some k) (he : exec i s = .next ((u.endOp p n f).afterOp p)) : Retires i s u p n k (f o k) := by
  rw [endOp_eq h hu f] at he
  exact he

section
variable {s : State} {p : PackId} {n : Nat} {k : Pack} {o : Op}

theorem op_of_hasOp (h : HasOp s p n k o) : ((s.pack? p).bind fun k => k.op? n) = some o := by
  rw [h.1]
  exact h.2

theorem loadLaneReturn_retires (h : HasOp s p n k o) (ha : o.addrs = []) (hc : o.ctr = .ld) :
    Retires (.loadLaneReturn p n) s (s.waitUntil o.wct) p n k (Pack.landMem o k) := by
  refine retires_of Pack.landMem h h.1 ?_
  show execLoadLaneReturn p n s = _
  rw [execLoadLaneReturn, op_of_hasOp h]
  dsimp only
  rw [ha, hc]
  rfl

theorem storeWctReturn_retires (h : HasOp s p n k o) (ha : o.addrs = []) (hc : o.ctr = .st) :
    Retires (.storeWctReturn p n) s s p n k (Pack.landMem o k) := by
  refine retires_of Pack.landMem h h.1 ?_
  show execStoreWctReturn p n s = _
  rw [execStoreWctReturn, op_of_hasOp h]
  dsimp only
  rw [ha, hc]
  rfl

theorem tileAccessRetire_retires (h : HasOp s p n k o) : Retires (.tileAccessRetire p n) s s p n k ((k.landOp o).landS o) :=
  retires_of (fun o k => (k.landOp o).landS o) h h.1 rfl

theorem unslave_eq (s : State) (p : PackId) (n : Nat) : ∃ cs, s.unslave p n = { s with cores := cs } := by
  unfold State.unslave
  split
  · exact ⟨s.cores, rfl⟩
  · exact ⟨_, rfl⟩

theorem matrixOpRetire_retires (h : HasOp s p n k o) (hc : o.ctr = .mx) (ha : o.atArray = false) (hp : isPair o.word = false) :
    Retires (.matrixOpRetire p n) s (s.unslave p n) p n k ((k.landOp o).raiseFlags (BitVec.ofNat 8 ((o.args[1]?).getD 0))) := by
  have hu : (s.unslave p n).pack? p = some k := by
    obtain ⟨cs, e⟩ := unslave_eq s p n
    rw [e]
    exact h.1
  refine retires_of (fun o k => (k.landOp o).raiseFlags (BitVec.ofNat 8 ((o.args[1]?).getD 0))) h hu ?_
  show execMatrixOpRetire p n s = _
  rw [execMatrixOpRetire, op_of_hasOp h]
  dsimp only
  rw [hc, ha, hp]
  rfl

/-- The pack with the result of a decode or an encode. -/
def unitResult (o : Op) (k : Pack) : Pack :=
  (((o.vdst.zip o.regs).foldl (fun k q => k.landV o.mask q.1 q.2) k).landS o).raiseFlags (BitVec.ofNat 8 ((o.args[0]?).getD 0))

theorem decodeUnitRetire_retires (h : HasOp s p n k o) (hc : o.ctr = .dc) (hw : ∀ e v h c, o.word ≠ .kvapp e v h c)
    (hr : o.regs ≠ [] ∨ o.sdst ≠ []) :
    Retires (.decodeUnitRetire p n) s s p n k
      ((((o.vdst.zip o.regs).foldl (fun k q => k.landV o.mask q.1 q.2) k).landS o).raiseFlags
        (BitVec.ofNat 8 ((o.args[0]?).getD 0))) := by
  refine retires_of unitResult h h.1 ?_
  have hne : ¬ ((o.ctr != .dc || o.regs.isEmpty && o.sdst.isEmpty) = true) := by
    rw [hc, Bool.or_eq_true, Bool.and_eq_true, List.isEmpty_iff, List.isEmpty_iff]
    rintro (h | ⟨h1, h2⟩)
    · exact absurd h (by decide)
    · exact hr.elim (· h1) (· h2)
  show execDecodeUnitRetire p n s = _
  rw [execDecodeUnitRetire, op_of_hasOp h]
  dsimp only
  rw [if_neg hne]
  split
  next e => exact absurd e (hw _ _ _ _)
  · rfl

theorem kvappAppend_happens {e : Bool} {v x : BitVec 6} {c : BitVec 5} {rec_ r b len y en w : Nat} {keys : List Nat} {pair : Option (Nat × Nat)} {u : State}
    (h : HasOp s p n k o) (hw : o.word = .kvapp e v x c) (ha : o.args = rec_ :: r :: b :: len :: y :: keys)
    (hk : keys = (pair.map fun q => [q.1, q.2]).getD []) :
    let t := s.teamOf k
    s.append { ctx := t.ctx, rec_ := r, b := b, len := len, data := toBytes y (32 * len) } pair = (.entry en w, u) →
    Happens (.kvappAppend p n) s
      ((((u.waitUntil w).onOp p n fun o => { o with got := [(0, en)] }).endOp p n fun o k => k.landS o).afterOp p) := by
  intro t hu
  show execKvappAppend p n s = _
  rw [execKvappAppend, h.1]
  dsimp only
  rw [h.2]
  dsimp only
  rw [hw, ha, hk]
  dsimp only
  cases pair <;>
  · simp only [Option.map_none, Option.map_some, Option.getD_none, Option.getD_some]
    rw [hu]

end

/-- Settles O41: an event finds its operation, whose result lands, and whose counter falls. -/
theorem retireEvents : Obligations.RetireEvents := by
  unfold Obligations.RetireEvents
  exact ⟨fun s p o lanes d k q hk hq => onOp_op _ hk hq fun _ => rfl, landMem_lane, landMem_scalar, fun _ _ _ _ _ => loadLaneReturn_retires,
    fun _ _ _ _ _ => storeWctReturn_retires, fun _ _ _ _ _ => tileAccessRetire_retires, fun _ _ _ _ _ => matrixOpRetire_retires,
    fun _ _ _ _ _ => decodeUnitRetire_retires, fun _ _ _ _ _ _ _ _ _ _ _ _ _ _ _ _ _ _ _ => kvappAppend_happens⟩

end Sys2Proof.Proofs
end

section
/-! SUPPORT. The operations of the matrix array; settles O42. -/

namespace Sys2Proof.Proofs

open Sys2Proof.Machine Sys2Proof.Safety

set_option Elab.async false

section
variable {s : State} {p : PackId} {n : Nat} {m : Team} {o : Op}

theorem mma_happens {e : Bool} {k : BitVec 4} {g l : BitVec 1} {sc f : BitVec 6} (h : s.arrayOp? p n = some (m, o))
    (hw : o.word = .mma e k g l sc 0 f) :
    let c := (o.args[1]?).getD 0
    let run := fun (t : Team) => t.mma k.toNat f.toNat (o.regs.drop c) (o.regs.take c) (o.vals.map (·.1))
    Happens (.mmaArrayStart p n) s
      (((s.claimArray m).onTeam m.id fun t => (run t).1).performed p n m.id (run m).2 []) := by
  intro c run
  show execMmaArrayStart p n s = _
  rw [execMmaArrayStart, h]
  dsimp only
  rw [hw]
  exact congrArg Host.Outcome.next (if_pos rfl)

theorem mma_pair_happens {e : Bool} {k : BitVec 4} {g l : BitVec 1} {sc f : BitVec 6} {r : Team} (h : s.arrayOp? p n = some (m, o))
    (hw : o.word = .mma e k g l sc 1 f) (ha : (o.args[0]?).getD 0 = 2) (hr : (s.claimArray m).partner m = some r) :
    let c := (o.args[1]?).getD 0
    let run := fun (t : Team) => t.mma k.toNat f.toNat (o.regs.drop c) (o.regs.take c) (o.vals.map (·.1))
    Happens (.mmaArrayStart p n) s
      ((((((s.claimArray m).claimArray r).onTeam m.id fun t => (run t).1).onTeam r.id fun t => (run t).1).performed p n m.id
        ((run m).2 ||| (run r).2) []).wakeLoads r.id) := by
  intro c run
  show execMmaArrayStart p n s = _
  rw [execMmaArrayStart, h]
  dsimp only
  rw [hw]
  dsimp only
  rw [if_neg (by decide), ha, if_neg (fun hn => hn rfl), hr]

theorem mwr_happens {e : Bool} {k : BitVec 4} {v x : BitVec 6} (h : s.arrayOp? p n = some (m, o)) (hw : o.word = .mwr e k v x) :
    Happens (.mmaArrayStart p n) s
      (((s.claimArray m).onTeam m.id fun t => t.setTile k.toNat ((o.vals.zip o.got).foldl (fun x q =>
        Tab.set 0 x q.1.2 (BitVec.ofNat 32 q.2.2)) (t.tile k.toNat))).performed p n m.id 0 []) := by
  show execMmaArrayStart p n s = _
  rw [execMmaArrayStart, h]
  dsimp only
  rw [hw]

theorem mswap_happens {e : Bool} (h : s.arrayOp? p n = some (m, o)) (hw : o.word = .mswap e) :
    Happens (.mmaArrayStart p n) s
      (((s.claimArray m).onTeam m.id fun t => { t with active := t.shadow, shadow := t.active }).performed p n m.id 0 []) := by
  show execMmaArrayStart p n s = _
  rw [execMmaArrayStart, h]
  dsimp only
  rw [hw]

theorem mzero_happens {e : Bool} {k x : BitVec 4} (h : s.arrayOp? p n = some (m, o)) (hw : o.word = .mzero e k x) :
    Happens (.mmaArrayStart p n) s
      (((s.claimArray m).onTeam m.id fun t =>
        { (List.range (x.toNat + 1)).foldl (fun t i => t.setTile (k.toNat + i) []) t with
          accBad := t.accBad &&& ~~~(tileMask k.toNat (x.toNat + 1)) }).performed p n m.id 0 []) := by
  show execMmaArrayStart p n s = _
  rw [execMmaArrayStart, h]
  dsimp only
  rw [hw]

theorem mrd_happens {e : Bool} {k : BitVec 4} {d x : BitVec 6} (h : s.arrayOp? p n = some (m, o)) (hw : o.word = .mrd e k d x) :
    Happens (.mmaArrayStart p n) s
      ((s.claimArray m).performed p n m.id 0 (o.vals.map fun q => (q.1, (Tab.get 0 (m.tile k.toNat) q.2).toNat))) := by
  show execMmaArrayStart p n s = _
  rw [execMmaArrayStart, h]
  dsimp only
  rw [hw]

theorem mwld_happens {e : Bool} {v x : BitVec 6} {c : BitVec 5} {clr fmt : Nat} {book : List Nat} (h : s.arrayOp? p n = some (m, o))
    (hw : o.word = .mwld e v x c) (ha : o.args = 0 :: clr :: fmt :: book) :
    Happens (.mwldBufferWrite p n) s
      (((s.claimArray m).onTeam m.id fun t =>
        { t with shadow := (t.shadow.prepare (clr == 1) fmt (book.map (BitVec.ofNat 16))).load o.vals o.got }).performed p n m.id 0
          []) := by
  show execMwldBufferWrite p n s = _
  rw [execMwldBufferWrite, h]
  dsimp only
  rw [hw, ha]

theorem pairSlave_happens (h : s.arrayOp? p n = some (m, o)) (hp : isPair o.word = true) (ha : (o.args[0]?).getD 0 = 0) :
    Happens (.pairSlave p n) s
      (((s.onOp p n fun o => { o with args := 2 :: o.args.drop 1 }).onCore (m.core + 1) fun k =>
        { k with slaved := some (p, n) }).push [.mmaArrayStart p n]) := by
  show execPairSlave p n s = _
  rw [execPairSlave, h]
  dsimp only
  rw [hp, ha]
  rfl

/-- A pair that is aborted leaves the tiles of both teams invalid. -/
theorem pairAbort_happens {k : Pack} {e : Bool} {a : BitVec 4} {g l : BitVec 1} {sc f : BitVec 6} (h : HasOp s p n k o)
    (hw : o.word = .mma e a g l sc 1 f) :
    let m := s.teamOf k
    let bad := fun (t : Team) => { t with accBad := t.accBad ||| tileMask a.toNat 3 }
    let u := s.onTeam m.id bad
    let w := match u.partner m with
      | none => u
      | some r => u.onTeam r.id bad
    Happens (.pairAbort p n) s (((((w.unslave p n).endOp p n fun _ k => k).gangAbort m).afterOp p).releasePartner m.id) := by
  intro m bad u w
  show execPairAbort p n s = _
  rw [execPairAbort, h.1, Option.bind_some, h.2]
  dsimp only [Option.map_some]
  rw [hw]
  rfl

end

/-- Settles O42: each clause is what the array makes of the word of the operation. -/
theorem matrixEvents : Obligations.MatrixEvents := by
  unfold Obligations.MatrixEvents
  exact ⟨fun _ _ _ _ _ _ _ _ _ _ _ => mma_happens, fun _ _ _ _ _ _ _ _ _ _ _ _ => mma_pair_happens, fun _ _ _ _ _ _ _ _ _ => mwr_happens,
    fun _ _ _ _ _ _ => mswap_happens, fun _ _ _ _ _ _ _ _ => mzero_happens, fun _ _ _ _ _ _ _ _ _ => mrd_happens,
    fun _ _ _ _ _ _ _ _ _ _ _ _ => mwld_happens, fun _ _ _ _ _ => pairSlave_happens, fun _ _ _ _ _ _ _ _ _ _ _ => pairAbort_happens⟩

end Sys2Proof.Proofs
end

section
/-! SUPPORT. The events of memory; settles O43. -/

namespace Sys2Proof.Proofs

open Sys2Proof.Machine Sys2Proof.Safety

set_option Elab.async false

/-! ## Lists with one element put in place -/

theorem find_upsert {α : Type} (q : α → Bool) (x : α) (l : List α) (hx : q x = true) : (upsert q x l).find? q = some x := by
  unfold upsert
  split
  next h =>
    obtain ⟨y, hy⟩ := Option.isSome_iff_exists.mp (by rw [List.find?_isSome]; simpa using h : (l.find? q).isSome = true)
    exact find_replaceFirst q (fun _ => x) (fun _ _ => hx) l y hy
  next h =>
    have hn : l.find? q = none := List.find?_eq_none.mpr fun y hy hq => h (List.any_eq_true.mpr ⟨y, hy, hq⟩)
    rw [List.find?_append, hn, Option.none_or, List.find?_singleton, if_pos hx]

theorem mem_upsert {α : Type} (q : α → Bool) (x : α) (l : List α) (hx : q x = true) : x ∈ upsert q x l :=
  List.mem_of_find?_eq_some (find_upsert q x l hx)

/-! ## Numbers in memory -/

theorem toBytes_succ (x n : Nat) : toBytes x (n + 1) = byteAt x 0 :: toBytes (x / 256) n := by
  rw [toBytes, List.range_succ_eq_map, List.map_cons, List.map_map, toBytes]
  congr 1
  refine List.map_congr_left fun i _ => ?_
  rw [Function.comp_apply, byteAt, byteAt, Nat.shiftRight_eq_div_pow, Nat.shiftRight_eq_div_pow, Nat.div_div_eq_div_mul,
    show 8 * (i + 1) = 8 + 8 * i by omega, Nat.pow_add]

theorem ofBytes_toBytes (n : Nat) : ∀ x, ofBytes (toBytes x n) = x % 256 ^ n := by
  induction n with
  | zero => exact fun x => (Nat.mod_one x).symm
  | succ n ih =>
    intro x
    rw [toBytes_succ, ofBytes, ih, byteAt, BitVec.toNat_ofNat, Nat.mul_zero, Nat.shiftRight_zero, Nat.pow_succ' (n := n),
      Nat.mod_mul]

/-- The bytes just written from y are read back. -/
theorem memBytes_memWrite (m : List Host.Cell) (y : Nat) (bs : List Byte) : memBytes (memWrite m y bs) y bs.length = bs := by
  unfold memBytes
  refine List.ext_getElem (by simp) fun i h1 h2 => ?_
  rw [List.getElem_map, List.getElem_range, memByte_memWrite, if_pos ⟨by omega, by omega⟩, Nat.add_sub_cancel_left,
    List.getElem?_eq_getElem h2, Option.getD_some]

/-- A number just written is read back, as far as it fits. -/
theorem memNat_memWrite (m : List Host.Cell) (y x n : Nat) : memNat (memWrite m y (toBytes x n)) y n = x % 256 ^ n := by
  have h := memBytes_memWrite m y (toBytes x n)
  rw [show (toBytes x n).length = n by simp [toBytes]] at h
  rw [memNat, h, ofBytes_toBytes]

/-! ## Lanes of a word at their line -/

section
variable {s : State} {p : PackId} {n l : Nat} {t : Team} {k : Pack} {o : Op}

theorem homeLoad_happens {d : Line} {u : State} (h : s.lineOp p n l = some (t, k, o)) :
    let lanes := lineLanes t k o l
    (isPrivateWord o.word = false → s.loadLine (some p) t.core t.ctx l = (.data d, u) →
      Happens (.homeLoad p n l) s ((u.landLoad p o lanes d).lineDone t k o lanes)) ∧
    (isPrivateWord o.word = true →
      Happens (.homeLoad p n l) s ((lanes.foldl (fun s q => s.privLoad t k o q) s).lineDone t k o lanes)) := by
  intro lanes
  have he : exec (.homeLoad p n l) s = execHomeLoad p n l s := rfl
  rw [execHomeLoad, h] at he
  dsimp only at he
  constructor
  · intro hp hl
    rw [if_neg (by rw [hp]; exact Bool.false_ne_true), hl] at he
    exact he
  · intro hp
    rw [if_pos hp] at he
    exact he

theorem homeWrite_happens {w : Nat} {u : State} (h : s.lineOp p n l = some (t, k, o)) (hw : ∀ e, o.word ≠ .pflush e) :
    let lanes := lineLanes t k o l
    (isPrivateWord o.word = false → s.storeLine t.ctx l (storeBytes o lanes) false (some p) = (.ok w, u) →
      Happens (.homeWrite p n l) s ((u.landStore p o lanes w).lineDone t k o lanes)) ∧
    (isPrivateWord o.word = true → Happens (.homeWrite p n l) s ((s.privStores t k o l).lineDone t k o lanes)) := by
  intro lanes
  have he : exec (.homeWrite p n l) s = execHomeWrite p n l s := rfl
  rw [execHomeWrite, h] at he
  dsimp only at he
  split at he
  next e => exact absurd e (hw _)
  · constructor
    · intro hp hl
      rw [if_neg (by rw [hp]; exact Bool.false_ne_true), hl] at he
      exact he
    · intro hp
      rw [if_pos hp] at he
      exact he

theorem homeWrite_flush {e : Bool} (h : s.lineOp p n l = some (t, k, o)) (hw : o.word = .pflush e) :
    Happens (.homeWrite p n l) s ((s.flushLine p o l).lineDone t k o (lineLanes t k o l)) := by
  show execHomeWrite p n l s = _
  rw [execHomeWrite, h]
  dsimp only
  rw [hw]

theorem homeAtomic_happens {r : List (Nat × Nat) × Nat} {u : State} (h : s.lineOp p n l = some (t, k, o)) :
    let lanes := lineLanes t k o l
    s.atomAt t.ctx l (atomOf o).1 (atomOf o).2 (atomLanes o lanes) (some p) = (.ok r, u) →
    Happens (.homeAtomic p n l) s ((u.landAtom p o r.1 r.2).lineDone t k o lanes) := by
  intro lanes hr
  show execHomeAtomic p n l s = _
  rw [execHomeAtomic, h]
  dsimp only
  rw [hr]

end

/-! ## Lines at their home and in the L1 -/

section
variable {s : State} {c l : Nat}

theorem homeWritePerform_happens {h : HomeLine} {w : PendWrite} {ws : List PendWrite}
    (hf : s.l2.find? (fun h => h.ctx == c && h.line == l) = some h) (hp : h.pend = w :: ws) :
    Happens (.homeWritePerform c l) s (((s.waitUntil w.wct).putHome (h.settle (max s.gtc w.wct))).wakeWatchers c l) := by
  show execHomeWritePerform c l s = _
  rw [execHomeWritePerform, hf]
  dsimp only
  rw [hp]
  rfl

theorem channelTranslate_happens {va : Nat} {wr : Bool} {x : Xlate} {u : State} (h : s.translate c va = (some x, u)) :
    Happens (.channelTranslate c va wr) s (if wr && x.perm.w then u.setDirty x else u) := by
  show execChannelTranslate c va wr s = _
  rw [execChannelTranslate, h]

theorem privateWriteback_happens {core : Nat} {x : L1Line} {p : PackId}
    (h : s.l1.find? (fun x => x.core == core && x.ctx == c && x.line == l && x.owner.isSome && x.dirty) = some x) (ho : x.owner = some p) :
    let r := s.privWriteBack x
    Happens (.privateWriteback core c l) s
      ({ r.2 with l1 := r.2.l1.filter fun k => !(k.core == core && k.ctx == c && k.line == l && k.owner == some p) }.onPack p fun k =>
        k.returnWct r.1) := by
  intro r
  have hx := List.find?_some h
  simp only [Bool.and_eq_true, beq_iff_eq] at hx
  obtain ⟨⟨⟨⟨rfl, rfl⟩, rfl⟩, hs⟩, hd⟩ := hx
  show execPrivateWriteback _ _ _ s = _
  rw [execPrivateWriteback, h]
  dsimp only
  rw [State.l1Evict, if_pos (by rw [hs, hd]; rfl), ho]

theorem eccRetry_happens (site : EccSite) (s : State) :
    Happens (.eccRetry site .corrected) s (s.bump 11) ∧ Happens (.eccRetry site .transient) s (s.bump 12) ∧
    ((∀ c x n, site ≠ .l1 c x n) → Happens (.eccRetry site .uncorrectable) s ((s.bump 13).poisonSite site)) := by
  refine ⟨rfl, rfl, fun hn => ?_⟩
  cases site
  case l1 c x n => exact absurd rfl (hn c x n)
  all_goals rfl

theorem eccRetry_l1 {core n : Nat} {x : L1Line} (h : s.l1.find? (fun l => l.core == core && l.ctx == c && l.line == n) = some x) :
    Happens (.eccRetry (.l1 core c n) .uncorrectable) s
      (if x.owner.isSome && x.dirty then ((s.bump 13).l1Evict { x with poison := true }).poisonNotice c (128 * n)
       else (s.bump 12).l1Evict x) := by
  show Host.Outcome.next (s.l1Error core c n) = _
  rw [State.l1Error, h]

end

/-- The line that stands at its home once it has been put there. -/
theorem putHome_find (s : State) (h : HomeLine) : (s.putHome h).l2.find? (fun k => k.ctx == h.ctx && k.line == h.line) = some h :=
  find_upsert _ h _ (by simp)

/-- A line with one write more, whose WCT is given. -/
def written (h : HomeLine) (w : PendWrite) (wct : Nat) : HomeLine :=
  { h with dcopy := true, lastWct := wct, pend := h.pend ++ [{ w with wct := wct }] }

theorem homeWrite_eq (s : State) (h : HomeLine) (w : PendWrite) :
    let u := if h.dcopy then s else s.dirtyPage h.ctx (128 * h.line)
    let wct := max u.gtc (max h.leaseEnd h.lastWct)
    s.homeWrite h w = (wct, (u.putHome (written (if h.dcopy then h else u.refreshed h) w wct)).noteWrite wct h.ctx h.line) := by
  intro u wct
  have hx : ∃ x, u.refreshed h = { h with data := x } := by
    unfold State.refreshed
    split <;> exact ⟨_, rfl⟩
  obtain ⟨x, hx⟩ := hx
  cases hd : h.dcopy with
  | true =>
    have hu : u = s := if_pos hd
    simp only [State.homeWrite, hd, wct, hu, Bool.not_true, Bool.false_eq_true, if_false, if_true]
    rfl
  | false =>
    have hu : u = s.dirtyPage h.ctx (128 * h.line) := if_neg (by rw [hd]; exact Bool.false_ne_true)
    simp only [State.homeWrite, hd, wct, Bool.not_false, Bool.false_eq_true, if_false, if_true, ← hu, hx]
    rfl

/-- What a write does to its line: its WCT, and its place in coherence order. -/
theorem homeWrite_spec (s : State) (h : HomeLine) (w : PendWrite) :
    let r := s.homeWrite h w
    let u := if h.dcopy then s else s.dirtyPage h.ctx (128 * h.line)
    r.1 = max u.gtc (max h.leaseEnd h.lastWct) ∧
    ∃ k, r.2.l2.find? (fun k => k.ctx == h.ctx && k.line == h.line) = some k ∧ k.lastWct = r.1 ∧ k.leaseEnd = h.leaseEnd ∧
      k.data = (if h.dcopy then h else u.refreshed h).data ∧ k.pend = h.pend ++ [{ w with wct := r.1 }] := by
  intro r u
  have hr : r = _ := homeWrite_eq s h w
  obtain ⟨x, hx⟩ : ∃ x, (if h.dcopy then h else u.refreshed h) = { h with data := x } := by
    unfold State.refreshed
    split
    · exact ⟨h.data, rfl⟩
    · split <;> exact ⟨_, rfl⟩
  change r = (max u.gtc (max h.leaseEnd h.lastWct),
    (u.putHome (written (if h.dcopy then h else u.refreshed h) w (max u.gtc (max h.leaseEnd h.lastWct)))).noteWrite _ h.ctx h.line) at hr
  rw [hx] at hr ⊢
  rw [hr]
  exact ⟨rfl, _, putHome_find u (written { h with data := x } w (max u.gtc (max h.leaseEnd h.lastWct))), rfl, rfl, rfl, rfl⟩

theorem leaseTicks_eq (n : Nat) (h : n < 4) : leaseTicks n = [0, 128, 1024, 8192][n]?.getD 0 := by
  interval_cases n <;> rfl

theorem leaseCap_lt (s : State) : s.leaseCap < 4 := by
  rw [State.leaseCap, bitsOf]
  exact Nat.mod_lt _ (by decide)

/-- The line that a load leaves in its core's L1. -/
def leasedLine (core c l : Nat) (k : HomeLine) (e : Nat) : L1Line :=
  { core := core, ctx := c, line := l, data := k.data, perm := k.perm, leaseEnd := e, phys := k.phys }

/-- A load that misses the L1 and finds its line at home takes a lease there. -/
theorem loadLine_lease (s : State) (who : Option PackId) (core c l : Nat) (h : HomeLine) (u : State)
    (hm : (s.awaitOwn who c l).l1Hit core c l = none) (hf : (s.awaitOwn who c l).findLine c l = (.home h, u)) (hr : h.perm.r = true)
    (hp : h.poison = false) (hw : ∀ w, w ∈ h.pend → w.lift = false) (h1 : u.l1.length < 8192) (h2 : u.l2.length < 57344) :
    let d := [0, 128, 1024, 8192][min h.perm.lc u.leaseCap]?.getD 0
    let k := h.settle u.gtc
    let lease := match k.pend with
      | [] => u.gtc + d
      | w :: _ => min (u.gtc + d) w.wct
    let r := s.loadLine who core c l
    r.1 = .data k.data ∧
    (d ≠ 0 → (∃ x, r.2.l2.find? (fun x => x.ctx == h.ctx && x.line == h.line) = some x ∧ x.leaseEnd = max h.leaseEnd lease) ∧
      ∃ x, x ∈ r.2.l1 ∧ x.core = core ∧ x.ctx = c ∧ x.line = l ∧ x.data = k.data ∧ x.leaseEnd = lease) := by
  intro d k lease r
  have hd : leaseTicks (min h.perm.lc u.leaseCap) = d := leaseTicks_eq _ (lt_of_le_of_lt (min_le_right _ _) (leaseCap_lt u))
  have hlease : u.leaseFor k = lease := by
    show (match k.pend with
      | [] => u.gtc + leaseTicks (min h.perm.lc u.leaseCap)
      | w :: _ => min (u.gtc + leaseTicks (min h.perm.lc u.leaseCap)) w.wct) = lease
    rw [hd]
  have hnone : h.pend.filter (·.lift) = [] := List.filter_eq_nil_iff.mpr fun w hm => by rw [hw w hm]; exact Bool.false_ne_true
  have hroom : ∀ x : HomeLine, u.putHome x = { u with l2 := upsert (fun k => k.ctx == x.ctx && k.line == x.line) x u.l2 } := fun x => by
    rw [State.putHome, State.homeRoom, if_pos (show u.l2.length < sliceLines from h2)]
  have hload : r = s.loadLine who core c l := rfl
  rw [State.loadLine, hm] at hload
  dsimp only at hload
  rw [hf] at hload
  dsimp only at hload
  rw [if_neg (by rw [hr]; exact Bool.false_ne_true), if_neg (by rw [hp]; exact Bool.false_ne_true), hnone] at hload
  change r = if min h.perm.lc u.leaseCap = 0 then (.data k.data, u.putHome k) else
    (.data k.data, (u.putHome { k with leaseEnd := max k.leaseEnd (u.leaseFor k) }).l1Fill (leasedLine core c l k (u.leaseFor k))) at hload
  rw [hlease] at hload
  by_cases h0 : min h.perm.lc u.leaseCap = 0
  · rw [if_pos h0] at hload
    rw [hload]
    refine ⟨rfl, fun hne => absurd ?_ hne⟩
    rw [← hd, h0]
    rfl
  · rw [if_neg h0, State.l1Fill, State.l1Room, if_pos (by rw [hroom]; exact h1)] at hload
    rw [hload]
    exact ⟨rfl, fun _ => ⟨⟨_, putHome_find u { k with leaseEnd := max k.leaseEnd lease }, rfl⟩,
      _, mem_upsert _ _ _ (by simp), rfl, rfl, rfl, rfl, rfl⟩⟩

/-! ## The dirty log -/

/-- The state with D set in a page's entry, before the log takes the page. -/
def withD (s : State) (x : Xlate) : State :=
  { s.setPteBit x.pte 12 with
    tlb := replaceAll (fun t => t.ctx == x.ctx && t.base == x.base) (fun t => { t with dirty := true }) (s.setPteBit x.pte 12).tlb }

theorem setDirty_eq {s : State} {x : Xlate} (h : x.dirty = false) : s.setDirty x = (withD s x).logDirty x := by
  rw [State.setDirty, if_neg (by rw [h]; exact Bool.false_ne_true)]
  rfl

theorem withD_ctx (s : State) (x : Xlate) (c : Nat) : (withD s x).ctx c = s.ctx c := rfl

theorem withD_bit (s : State) (x : Xlate) : (memNat (withD s x).hbm x.pte 8).testBit 12 = true := by
  show (memNat (memWrite s.hbm x.pte (toBytes (s.tableEntry x.pte ||| 2 ^ 12) 8)) x.pte 8).testBit 12 = true
  rw [memNat_memWrite, show (256 : Nat) ^ 8 = 2 ^ 64 by norm_num, Nat.testBit_mod_two_pow, Nat.testBit_or, Nat.testBit_two_pow_self,
    Bool.or_true]
  rfl

theorem ctx_onCtx_same (s : State) (c : Nat) (f : Ctx → Ctx) : (s.onCtx c f).ctx c = f (s.ctx c) := by
  rw [State.ctx, State.onCtx, Tab.get_set, if_pos rfl]

/-- What the log takes of a page whose D is set, and when it overflows. -/
theorem setDirty_spec (s : State) (x : Xlate) (hx : x.dirty = false) :
    let c := s.ctx x.ctx
    let n := 2 ^ c.dlogSize / 8
    let u := s.setDirty x
    let size := if x.size = 2 ^ 25 then 2 else if x.size = 2 ^ 21 then 1 else 0
    (c.dlogEn = false ∨ c.dlogOvf = true → u.ctx x.ctx = c ∧ (memNat u.hbm x.pte 8).testBit 12 = true) ∧
    (c.dlogEn = true → c.dlogOvf = false → (c.dlogP - c.dlogC).toNat = n → u.ctx x.ctx = { c with dlogOvf := true }) ∧
    (c.dlogEn = true → c.dlogOvf = false → (c.dlogP - c.dlogC).toNat ≠ n → u.ctx x.ctx = { c with dlogP := c.dlogP + 1 } ∧
      memNat u.hbm (c.dlogRing + 8 * (c.dlogP.toNat % n)) 8 = x.base / 2 ^ 16 % 2 ^ 29 * 2 ^ 16 + size * 4 + 1) := by
  intro c n u size
  have hu : u = (withD s x).logDirty x := setDirty_eq hx
  rw [State.logDirty, withD_ctx] at hu
  refine ⟨fun h => ?_, fun he ho hn => ?_, fun he ho hn => ?_⟩
  · rw [if_pos (by rcases h with h | h <;> rw [h] <;> simp)] at hu
    rw [hu]
    exact ⟨rfl, withD_bit s x⟩
  · rw [if_neg (by rw [he, ho]; decide), if_pos (show ((s.ctx x.ctx).dlogP - (s.ctx x.ctx).dlogC).toNat = (s.ctx x.ctx).dlogEntries from hn)] at hu
    rw [hu, ctx_onCtx_same]
    rfl
  · rw [if_neg (by rw [he, ho]; decide), if_neg (show ¬ ((s.ctx x.ctx).dlogP - (s.ctx x.ctx).dlogC).toNat = (s.ctx x.ctx).dlogEntries from hn)] at hu
    rw [hu]
    refine ⟨ctx_onCtx_same _ _ _, ?_⟩
    have hs : size ≤ 2 := by
      show (if x.size = 2 ^ 25 then 2 else if x.size = 2 ^ 21 then 1 else 0) ≤ 2
      split
      · exact le_rfl
      · split <;> decide
    refine (memNat_memWrite (withD s x).hbm (c.dlogRing + 8 * (c.dlogP.toNat % n)) (bitsAt x.base 16 29 * 2 ^ 16 + size * 4 + 1) 8).trans ?_
    have hb : x.base / 2 ^ 16 % 2 ^ 29 < 2 ^ 29 := Nat.mod_lt _ (by decide)
    rw [bitsAt_eq, Nat.mod_eq_of_lt (by omega)]

/-- Settles O43: the lanes at their line, the WCT of a write, the lease of a load, the dirty log, and the storage errors, each from the
lemma about the operation that the event calls. -/
theorem memoryEvents : Obligations.MemoryEvents := by
  unfold Obligations.MemoryEvents
  refine ⟨fun _ _ _ _ _ _ _ _ _ => homeLoad_happens, fun _ _ _ _ _ _ _ _ _ => homeWrite_happens, fun _ _ _ _ _ _ _ _ => homeWrite_flush,
    fun _ _ _ _ _ _ _ _ _ => homeAtomic_happens, fun _ _ _ _ _ _ => homeWritePerform_happens,
    fun _ _ _ _ _ _ => channelTranslate_happens, fun _ _ _ => rfl, fun _ _ _ _ _ _ => privateWriteback_happens, eccRetry_happens,
    fun _ _ _ _ _ => eccRetry_l1, homeWrite_spec, loadLine_lease, setDirty_spec, fun core a s t h => ?_⟩
  show execGranuleClearDone core a s = _
  rw [execGranuleClearDone, h]
  rfl

end Sys2Proof.Proofs
end

section
/-! SUPPORT. The launch unit and the queue unit; settles O44. -/

namespace Sys2Proof.Proofs

open Sys2Proof.Machine Sys2Proof.Safety

set_option Elab.async false

section
variable {s : State}

/-! ## Placing -/

/-- The choice of the launch unit, where it is the work that an event names. -/
theorem chosen_of {g q : Nat} {p : Plan} {kind : Plan → Bool} (hc : s.choice = some (q, p)) (hg : p.unit.team.grid = g) (hk : kind p = true) :
    s.chosen g kind = some (q, p) := by
  rw [State.chosen, hc]
  exact if_pos (by rw [hk, hg, beq_self_eq_true]; rfl)

theorem teamPlace_happens {g q : Nat} {p : Plan} (hc : s.choice = some (q, p)) (hg : p.unit.team.grid = g) (hv : p.victims = [])
    (hu : s.unitGang p.unit = 0) : Happens (.teamPlace g) s (s.place q p) := by
  show execTeamPlace g s = _
  rw [execTeamPlace, chosen_of hc hg (by rw [hv, hu]; rfl)]

theorem gangPlace_happens {g q : Nat} {p : Plan} (hc : s.choice = some (q, p)) (hg : p.unit.team.grid = g) (hv : p.victims = [])
    (hu : s.unitGang p.unit ≠ 0) : Happens (.gangPlace g) s (s.place q p) := by
  show execGangPlace g s = _
  rw [execGangPlace, chosen_of hc hg (by rw [hv, bne_iff_ne.mpr hu]; rfl)]

theorem evict_happens {g q : Nat} {p : Plan} (hc : s.choice = some (q, p)) (hg : p.unit.team.grid = g) (hv : p.victims ≠ []) :
    let kept := s.incoming.filter fun i => i.unit != p.unit
    Happens (.evict g) s
      ((({ s with incoming := kept ++ [{ unit := p.unit, parts := p.parts }] } : State).askSave (victimPacks p.victims)).kick) := by
  intro kept
  show execEvict g s = _
  rw [execEvict, chosen_of hc hg (by simpa using hv)]

/-! ## Teams that exit, and grids that retire -/

theorem cancelLifts_status (t : Team) : t.cancelLifts.status = t.status :=
  List.foldlRecOn (List.range 8) Team.cancelLift (motive := fun u : Team => u.status = t.status) rfl fun _ hu _ _ => hu

/-- A team of which nothing is left to do exits. -/
theorem teamExit_happens {t : TeamId} {k : Team} (h : s.team? t = some k) (hs : k.status = .resident ∨ k.status = .evicted)
    (hne : s.packsOf t ≠ []) (hr : ∀ k, k ∈ s.packsOf t → k.status = .retired) :
    let m := if k.halt.isSome then k.cancelLifts else k
    let u := if k.halt.isSome then s.onTeam t Team.cancelLifts else s
    (∀ c, c < 8 → (m.queue c).halted = true ∨ (m.queue c).cmds = []) → u.pairWrites m = false →
    Happens (.teamExit t) s
      (((((((u.waitUntil m.lwct).countFor t.grid).releaseTeam m).onTeam t fun m => { m with status := .leaving }).closeSlice
        t.grid).passArrivals m).increment m) := by
  intro m u hq hw
  have hm : m.status = k.status := by
    show (if k.halt.isSome then k.cancelLifts else k).status = k.status
    split
    · exact cancelLifts_status k
    · rfl
  show execTeamExit t s = _
  rw [execTeamExit, h]
  refine congrArg Host.Outcome.next (if_neg fun hc => ?_)
  simp only [Bool.or_eq_true, Bool.and_eq_true, bne_iff_ne, List.isEmpty_iff, List.any_eq_true, Bool.not_eq_true'] at hc
  rcases hc with (((⟨h1, h2⟩ | hc) | ⟨p, hp, hc⟩) | ⟨c, hcm, h1, h2⟩) | hc
  · rw [hm] at h1 h2
    exact hs.elim h1 h2
  · exact hne hc
  · exact hc (hr p hp)
  · rcases hq c (List.mem_range.mp hcm) with hh | hh
    · exact absurd (hh.symm.trans h1) (by decide)
    · rw [hh] at h2
      exact absurd h2 (by decide)
  · exact absurd (hc.symm.trans hw) (by decide)

/-- What keeps a grid from retiring is not there. -/
theorem grid_done {g : Nat} {k : Grid} (hr : k.retired = false) (hc : k.cancelled = true ∨ grTeams k.record.toNat ≤ k.texit)
    (hn : k.nextT ≤ k.texit) (hg : ∀ c, c ∈ s.grids → c.parent ≠ some g) :
    ¬ ((k.retired || (!k.cancelled && decide (k.texit < grTeams k.record.toNat)) || decide (k.texit < k.nextT)
      || s.grids.any (fun c => c.parent == some g)) = true) := by
  simp only [Bool.or_eq_true, Bool.and_eq_true, decide_eq_true_iff, List.any_eq_true, Bool.not_eq_true', beq_iff_eq]
  rintro (((h | ⟨h1, h2⟩) | h) | ⟨c, hm, h⟩)
  · exact absurd (h.symm.trans hr) (by decide)
  · rcases hc with hc | hc
    · exact absurd (hc.symm.trans h1) (by decide)
    · omega
  · omega
  · exact hg c hm h

theorem gridRetire_child {g p : Nat} {k : Grid} (h : s.grid? g = some k) (hp : k.parent = some p) (hr : k.retired = false)
    (hc : k.cancelled = true ∨ grTeams k.record.toNat ≤ k.texit) (hn : k.nextT ≤ k.texit) (hg : ∀ c, c ∈ s.grids → c.parent ≠ some g) :
    Happens (.gridRetire g) s
      (((({ s with grids := s.grids.filter fun c => c.idx != g } : State).gridWrote p k.wct).push [.gridRetire p]).kick) := by
  show execGridRetire g s = _
  rw [execGridRetire, h]
  dsimp only
  rw [if_neg (grid_done hr hc hn hg), hp]

theorem gridRetire_root {g : Nat} {k : Grid} (h : s.grid? g = some k) (hp : k.parent = none) (hr : k.retired = false)
    (hc : k.cancelled = true ∨ grTeams k.record.toNat ≤ k.texit) (hn : k.nextT ≤ k.texit) (hg : ∀ c, c ∈ s.grids → c.parent ≠ some g)
    (hf : s.recordsFull k.queue = false) :
    let f := k.fail.getD (0, 0)
    Happens (.gridRetire g) s
      (((({ s with grids := s.grids.filter fun c => c.idx != g } : State).waitUntil k.wct).recordReady k.queue k.index
        (compRecord (max s.gtc k.wct) f.1 f.2 k.texit 0 (if k.fail.isSome || k.cancelled then 1 else 0) k.index)).kick) := by
  intro f
  show execGridRetire g s = _
  rw [execGridRetire, h]
  dsimp only
  rw [if_neg (grid_done hr hc hn hg), hp]
  exact congrArg Host.Outcome.next (if_neg fun e => absurd (hf.symm.trans e) (by decide))

/-! ## Queues -/

/-- An event of one of the host's queues. -/
theorem queueEvent_of {q : Nat} (h : q < 64) (f : State → State) : queueEvent q s f = .next (f s) := if_pos h

theorem launchRecordRead_happens {q : Nat} {slots : Tab (List Word)} {bs : List Byte} {t u : State} (hq : q < 64) :
    let k := s.queue q
    let a : Nat := k.ring + 256 * (k.head % 2 ^ k.logsz)
    let who := queueAgent 0 q 0
    s.boot = .running → k.en = true → k.head ≠ k.tail → k.wait = none → a % 256 = 0 →
    s.homeRead who 0 k.ctx [((a : Int), 256)] = (.ok bs, t) → t.checkRecord who 0 k.ctx (ofBytes bs) = (.good slots, u) →
    let w := (u.dropFetched who).onHQueue q fun k => { k with
      desc := setBitsOf k.desc 223 192 (k.head + 1), order := k.order ++ [k.head], wait := some u.serial }
    Happens (.launchRecordRead q) s
      ((w.accept (ofBytes bs) q k.ctx k.head 1 none k.prv slots).watchGrid q (ofBytes bs)) := by
  intro k a who hb he hh hw ha hr hc w
  have hcond : ¬ (s.boot ≠ .running || !k.en || k.head = k.tail || k.wait.isSome || a % 256 ≠ 0) = true := by
    simp [hb, he, hh, hw, ha]
  show execLaunchRecordRead q s = _
  rw [execLaunchRecordRead, queueEvent_of hq]
  refine congrArg Host.Outcome.next ((if_neg hcond).trans ?_)
  rw [hr]
  dsimp only
  rw [hc]

theorem waitConditionRead_happens {q : Nat} (hq : q < 64) :
    Happens (.waitConditionRead q) s ((s.grids.filter fun g => g.queue == q && g.waits).foldl State.testGrid s).kick := by
  show execWaitConditionRead q s = _
  rw [execWaitConditionRead, queueEvent_of hq]

theorem queuePollTimer_happens {q : Nat} (hq : q < 64) : Happens (.queuePollTimer q) s (s.push (s.pollEvents q)) := by
  show execQueuePollTimer q s = _
  rw [execQueuePollTimer, queueEvent_of hq]

theorem tailDoorbell_happens {q : Nat} (hq : q < 64) (tail : Word) : Happens (.tailDoorbell q tail) s (s.writeTail q tail.toNat) := by
  show execTailDoorbell q tail s = _
  rw [execTailDoorbell, queueEvent_of hq]

theorem queueDisable_happens {q : Nat} (hq : q < 64) (he : (s.queue q).en = true) : Happens (.queueDisable q) s (s.disableQueue q).kick := by
  show execQueueDisable q s = _
  rw [execQueueDisable, queueEvent_of hq, if_pos he]

theorem queueEnable_happens {q : Nat} (hq : q < 64) (he : (s.queue q).en = false) (hr : s.ringFits (s.queue q) = true) :
    Happens (.queueEnable q) s
      ((s.onHQueue q fun k => { k with desc := setBitsOf k.desc 100 100 1, since := s.gtc }).push [.launchRecordRead q]) := by
  show execQueueEnable q s = _
  rw [execQueueEnable, queueEvent_of hq]
  exact congrArg Host.Outcome.next (if_neg (by rw [he, hr]; decide))

theorem sliceExpire_happens {q : Nat} (hq : q < 64) : let u := s.countSlice q
    (u.queue q).sliceOut = true → u.queuePlaced q ≠ [] → (u.ctx (u.queue q).ctx).frz = none →
    Happens (.sliceExpire q) s (u.expireSlice q).kick := by
  intro u ho hp hf
  show execSliceExpire q s = _
  rw [execSliceExpire, queueEvent_of hq]
  refine congrArg Host.Outcome.next (if_pos ?_)
  rw [Bool.and_eq_true, Bool.and_eq_true, Option.isNone_iff_eq_none, Bool.not_eq_true', List.isEmpty_eq_false_iff]
  exact ⟨⟨ho, hp⟩, hf⟩

end

/-- Settles O44: the choice of the launch unit, the ends of teams and grids, and the events of a queue there is. -/
theorem launchEvents : Obligations.LaunchEvents := by
  unfold Obligations.LaunchEvents
  refine ⟨fun _ _ _ _ hc hg hv => ⟨teamPlace_happens hc hg hv, gangPlace_happens hc hg hv⟩, fun _ _ _ _ => evict_happens,
    fun _ _ _ => teamExit_happens, fun _ _ _ _ => gridRetire_child, fun _ _ _ => gridRetire_root,
    fun _ _ _ _ _ _ => launchRecordRead_happens, fun q s hq => ?_⟩
  exact ⟨waitConditionRead_happens hq, queuePollTimer_happens hq, tailDoorbell_happens hq, queueDisable_happens hq, queueEnable_happens hq,
    sliceExpire_happens hq⟩

end Sys2Proof.Proofs
end

section
/-! SUPPORT. The steps of a lift command; settles O46. -/

namespace Sys2Proof.Proofs

open Sys2Proof.Machine Sys2Proof.Safety

set_option Elab.async false

section
variable {s : State} {t : TeamId} {ch : Nat} {m : Team}

theorem id_of_team (h : s.team? t = some m) : m.id = t := by
  rw [State.team?] at h
  split at h
  next e =>
    cases h
    exact e
  · simpa using List.find?_some h

/-! ## A command starts -/

/-- The channel checks command c at the head of its queue, and starts it. -/
def startCommand (t : TeamId) (ch : Nat) (m : Team) (c : Nat) (s : State) : State :=
  match s.lcReason m c none with
  | some n =>
    if n ≤ 3 || !lcRec c then s.liftRefuse m ch n 0
    else if n = 4 || lcOp c = 0 || lcSrc c % 128 ≠ 0 then s.liftRefuse m ch n (lcSrc c)
    else match s.channelRead m ch [((lcSrc c : Int), 128)] with
      | (.ok bs, s) => s.liftRefuse m ch (if layBad (lcSrc c) (ofBytes bs) then n else (s.lcReason m c (some (ofBytes bs))).getD n) (lcSrc c)
      | (.page va, s) => s.liftPark m ch va 4
      | (.wait, s) => s
      | (.err .., s) => s.liftRefuse m ch n (lcSrc c)
  | none =>
    if !lcRec c then s.liftStart m ch 0
    else match s.channelRead m ch [((lcSrc c : Int), 128)] with
      | (.err x y va, s) => s.liftFail t ch { code := x, rsn := y, addr := va, coord := 0, bit := 0 }
      | (.page va, s) => s.liftPark m ch va 4
      | (.wait, s) => s
      | (.ok bs, s) =>
        if layBad (lcSrc c) (ofBytes bs) then s.liftRefuse m ch 7 (lcSrc c)
        else match s.lcReason m c (some (ofBytes bs)) with
          | some n => s.liftRefuse m ch n (lcSrc c)
          | none => s.liftStart m ch (ofBytes bs)

/-- The queue whose head may start. -/
theorem exec_liftCommandStart {k : LiftCmd} {ks : List LiftCmd} (h : s.team? t = some m) (hc : (m.queue ch).cmds = k :: ks)
    (hh : (m.queue ch).halted = false) (hp : (m.queue ch).parked = false) (ha : (m.queue ch).active = false) (hs : m.status = .resident)
    (hm : m.halt = none) (ht : s.arrayTiles m &&& lcAccTiles k.blk.toNat m.accs = 0) :
    exec (.liftCommandStart t ch) s = .next (startCommand t ch m k.blk.toNat s) := by
  show execLiftCommandStart t ch s = _
  rw [execLiftCommandStart, h]
  dsimp only
  rw [hc]
  dsimp only
  rw [if_neg (by simp [hh, hp, ha, hs, hm]), if_neg (fun e => e ht)]
  generalize k.blk.toNat = c
  unfold startCommand
  cases s.lcReason m c none with
  | none =>
    refine congrArg Host.Outcome.next (ite_congr rfl (fun _ => rfl) fun _ => ?_)
    rcases s.channelRead m ch [((lcSrc c : Int), 128)] with ⟨r, u⟩
    cases r with
    | ok bs =>
      refine ite_congr rfl (fun _ => rfl) fun _ => ?_
      cases u.lcReason m c (some (ofBytes bs)) <;> rfl
    | page va => rfl
    | wait => rfl
    | err x y va => rfl
  | some n =>
    refine congrArg Host.Outcome.next (ite_congr rfl (fun _ => rfl) fun _ => ite_congr rfl (fun _ => rfl) fun _ => ?_)
    rcases s.channelRead m ch [((lcSrc c : Int), 128)] with ⟨r, u⟩
    cases r with
    | ok bs => rfl
    | page va => rfl
    | wait => rfl
    | err x y va => rfl

theorem startCommand_plain {c : Nat} (hr : s.lcReason m c none = none) (hc : lcRec c = false) :
    startCommand t ch m c s = s.liftStart m ch 0 := by
  rw [startCommand, hr]
  exact if_pos (by rw [hc]; rfl)

theorem startCommand_record {c : Nat} {bs : List Byte} {u : State} (hr : s.lcReason m c none = none) (hc : lcRec c = true)
    (hb : s.channelRead m ch [((lcSrc c : Int), 128)] = (.ok bs, u)) (hl : layBad (lcSrc c) (ofBytes bs) = false)
    (hn : u.lcReason m c (some (ofBytes bs)) = none) : startCommand t ch m c s = u.liftStart m ch (ofBytes bs) := by
  rw [startCommand, hr]
  dsimp only
  rw [if_neg (by rw [hc]; decide), hb]
  dsimp only
  rw [if_neg (by rw [hl]; decide), hn]

theorem startCommand_refused {c n : Nat} (hr : s.lcReason m c none = some n) (hn : n ≤ 3) :
    startCommand t ch m c s = s.liftRefuse m ch n 0 := by
  rw [startCommand, hr]
  exact if_pos (by rw [decide_eq_true hn]; rfl)

/-! ## A block starts -/

/-- It is the turn of queue ch of team t to read the next block of its active command c, of operation op, and the unit that the block
passes through is to serve the channel. -/
def Turn (s : State) (t : TeamId) (ch op : Nat) (m : Team) (c : Nat) : Prop :=
  s.team? t = some m ∧ (m.queue ch).cmds[0]?.map (·.blk.toNat) = some c ∧
    (m.queue ch).active = true ∧ lcOp c = op ∧ m.status = .resident ∧ (m.queue ch).rest = [] ∧ s.heldHere m (m.queue ch) = none ∧
    s.mayBegin m ch = true ∧ (s.channelTurn m.core ch).map (·.id) = some t ∧
    ∀ u, lcUnit c = some u → (s.unitTurn m.core u).map (·.1) = some ch

/-- The head of a queue by its number. -/
theorem head_of_map {l : List LiftCmd} {c : Nat} (h : l[0]?.map (·.blk.toNat) = some c) : ∃ k ks, l = k :: ks ∧ k.blk.toNat = c := by
  cases l with
  | nil => exact nomatch h
  | cons k ks => exact ⟨k, ks, rfl, Option.some.inj h⟩

/-- A queue whose turn it is begins its block, at once where the block passes through no unit. -/
theorem liftBlock_of_turn {op c : Nat} (h : Turn s t ch op m c) (begin_ : Team → Nat → State) :
    s.liftBlock t ch op begin_ = match lcUnit c with
      | none => begin_ m c
      | some u => (begin_ m c).unitServed m.core u ch := by
  obtain ⟨hm, hc, ha, ho, hs, hr, hh, hb, ht, hu⟩ := h
  obtain ⟨k, ks, hk, rfl⟩ := head_of_map hc
  rw [State.liftBlock, hm]
  dsimp only
  rw [hk]
  dsimp only
  rw [if_neg (by rw [ha, ho, hs]; simp), if_neg (by rw [hr]; decide), hh]
  dsimp only
  rw [if_pos (by rw [hb, ht]; simp), State.beginBlock]
  cases hl : lcUnit k.blk.toNat with
  | none => rfl
  | some u =>
    obtain ⟨⟨c, e⟩, hw, hc⟩ := Option.map_eq_some_iff.mp (hu u hl)
    dsimp only
    rw [hw]
    exact if_pos hc

theorem lcUnit_copy {c : Nat} (h : lcOp c = 0) : lcUnit c = none := by
  simp only [lcUnit, h]

theorem lcUnit_decode {c : Nat} (h : lcOp c = 1) : lcUnit c = some false := by
  simp only [lcUnit, h]

theorem lcUnit_encode {c : Nat} (h : lcOp c = 2) : lcUnit c = some true := by
  simp only [lcUnit, h]

theorem lcUnit_load {c : Nat} (h : lcOp c = 3) : lcUnit c = if lcRec c then some false else none := by
  simp only [lcUnit, h]

theorem op_of_turn {op c : Nat} (h : Turn s t ch op m c) : lcOp c = op := by
  obtain ⟨-, -, -, ho, -⟩ := h
  exact ho

theorem team_of_turn {op c : Nat} (h : Turn s t ch op m c) : m.id = t := id_of_team h.1

theorem liftCopy_plain {c : Nat} {bs : List Byte} {u : State} (h : Turn s t ch 0 m c) (hc : lcRec c = false) :
    let q := m.queue ch
    let hi := min (lcPlainBytes c) (q.sent + 4096)
    s.channelRead m ch (runSegments c q.sent hi) = (.ok bs, u) →
    Happens (.liftCopy t ch) s (u.deliverBlock m ch c bs false (decide (lcPlainBytes c ≤ hi))) := by
  intro q hi hr
  show execLiftCopy t ch s = _
  rw [execLiftCopy, liftBlock_of_turn h, lcUnit_copy (op_of_turn h)]
  rw [if_pos (by rw [hc]; rfl), State.plainBlock]
  dsimp only
  rw [hr]

theorem liftCopy_record {c : Nat} (h : Turn s t ch 0 m c) (hc : lcRec c = true) :
    Happens (.liftCopy t ch) s (s.readBlock m ch c fun s _ bs =>
      let q := m.queue ch
      if (s.named m c).any fun k => (k.handle (lcDH c)).any fun h => decide (h.bytes < lcDoff c + q.sent + bs.length) then
        s.liftFail t ch { code := 0x0C, rsn := 4, addr := lcSrc c, coord := q.coord, bit := 0 }
      else s.deliverBlock m ch c bs false (lastItem c q.item)) := by
  show execLiftCopy t ch s = _
  rw [execLiftCopy, liftBlock_of_turn h, lcUnit_copy (op_of_turn h)]
  exact congrArg Host.Outcome.next (if_neg (by rw [hc]; decide))

theorem liftDecodeCopy_happens {c : Nat} (h : Turn s t ch 1 m c) :
    Happens (.liftDecodeCopy t ch) s ((s.decodeBlock m ch c).unitServed m.core false ch) := by
  show execLiftDecodeCopy t ch s = _
  rw [execLiftDecodeCopy, liftBlock_of_turn h, lcUnit_decode (op_of_turn h)]

theorem liftAccumulatorLoad_happens {c : Nat} (h : Turn s t ch 3 m c) :
    Happens (.liftAccumulatorLoad t ch) s
      (if lcRec c then (s.decodeBlock m ch c).unitServed m.core false ch else s.plainBlock m ch c) := by
  show execLiftAccumulatorLoad t ch s = _
  rw [execLiftAccumulatorLoad, liftBlock_of_turn h, lcUnit_load (op_of_turn h)]
  cases lcRec c <;> rfl

theorem liftEncodeStore_happens {c : Nat} {h : Handle} {a : Alloc} {bs : List Byte} (ht : Turn s t ch 2 m c)
    (hh : m.handle (lcDH c) = some h) (ha : s.storage h = some a) :
    let q := m.queue ch
    let r := q.rec_
    let co := itemCoord c q.item
    let sp := sourceSpan q c
    let cols := blockCols r co
    (∀ i, i < blockRows r co → a.poisonedIn (sp.1 + 4 * (i * 2 ^ layLC r)) (4 * cols) = false) →
    (layCT r ≠ 15 → Tab.get [] q.table (layCT r) ≠ []) → (layFmt r = 4 → q.book ≠ []) →
    encodeBlock (layFmt r) (layCT r) (fun n => Tab.get [] q.table n) (q.book.map (·.toNat)) (blockRows r co) cols
      (fun k => ofBytes (s.tileBytes h a (sp.1 + 4 * (k / cols * 2 ^ layLC r + k % cols)) 4)) = .ok bs →
    Happens (.liftEncodeStore t ch) s ((s.storeBlock m ch c bs).unitServed m.core true ch) := by
  intro q r co sp cols hp hct hbk he
  have hrow : ¬ (List.range (blockRows r co)).any (fun i => a.poisonedIn (sp.1 + 4 * (i * 2 ^ layLC r)) (4 * blockCols r co)) = true := fun hc => by
    obtain ⟨i, hi, hx⟩ := List.any_eq_true.mp hc
    exact absurd ((hp i (List.mem_range.mp hi)).symm.trans hx) (by decide)
  have htab : ¬ (layCT r ≠ 15 && (Tab.get [] q.table (layCT r)).isEmpty || layFmt r = 4 && q.book.isEmpty) = true := by
    rw [Bool.or_eq_true, Bool.and_eq_true, Bool.and_eq_true, decide_eq_true_iff, decide_eq_true_iff, List.isEmpty_iff, List.isEmpty_iff]
    rintro (⟨h1, h2⟩ | ⟨h1, h2⟩)
    · exact hct h1 h2
    · exact hbk h1 h2
  show execLiftEncodeStore t ch s = _
  rw [execLiftEncodeStore, liftBlock_of_turn ht, lcUnit_encode (op_of_turn ht)]
  dsimp only
  rw [hh]
  dsimp only
  rw [ha]
  dsimp only
  rw [if_neg hrow, if_neg htab, he]

/-! ## Gates that count -/

/-- Gates that all can count count in turn, each on its own. -/
theorem countEach_of_countGates (c kind : Nat) (ns : List Nat) : ∀ (ms : List Team) {s u : State}, s.countGates c kind ns ms = some u →
    s.countEach c kind ns ms = (true, u)
  | [], s, u, h => by
    cases h
    rfl
  | m :: ms, s, u, h => by
    rw [State.countGates] at h
    rw [State.countEach, State.countGates]
    cases hl : s.liveGate m (lcGH c) (lcGoff c) with
    | error e =>
      rw [hl] at h
      exact nomatch h
    | ok p =>
      obtain ⟨x, a, g⟩ := p
      rw [hl] at h
      dsimp only at h ⊢
      cases hc : gateCount kind ns g with
      | none =>
        rw [hc] at h
        exact nomatch h
      | some g' =>
        rw [hc] at h
        exact countEach_of_countGates c kind ns ms h

theorem deliverBlock_starts {c : Nat} {bs : List Byte} {whole last : Bool} {u : State}
    (h : s.countGates c 0 (countSteps whole bs.length) (s.named m c) = some u) (hb : bs ≠ []) :
    s.deliverBlock m ch c bs whole last =
      ((if (m.queue ch).sent = 0 ∧ lcOp c ≠ 3 then s.resetPtr c (s.named m c) else s).onQueue m.id ch fun q =>
        { q with rest := bs, last := last }).liftGo m.id ch := by
  rw [State.deliverBlock]
  dsimp only
  rw [h, if_neg (by simp), if_neg (by simpa using hb)]
  by_cases hc : (m.queue ch).sent = 0 ∧ lcOp c ≠ 3
  · rw [if_pos hc, if_pos (by simpa using hc)]
  · rw [if_neg hc, if_neg (by simpa using hc)]

/-! ## A block goes on -/

/-- A block event of a queue that is delivering a block takes its next step. -/
theorem liftBlock_steps {k : LiftCmd} {ks : List LiftCmd} (h : s.team? t = some m) (hc : (m.queue ch).cmds = k :: ks)
    (ha : (m.queue ch).active = true) (hs : m.status = .resident) (hr : (m.queue ch).rest ≠ []) (begin_ : Team → Nat → State) :
    s.liftBlock t ch (lcOp k.blk.toNat) begin_ = s.stepBlock m ch k.blk.toNat := by
  rw [State.liftBlock, h]
  dsimp only
  rw [hc]
  dsimp only
  rw [if_neg (by rw [ha, hs]; simp), if_pos (by simpa using hr)]

theorem block_event_steps {k : LiftCmd} {ks : List LiftCmd} {ev : Instr} (h : s.team? t = some m) (hc : (m.queue ch).cmds = k :: ks)
    (ha : (m.queue ch).active = true) (hs : m.status = .resident) (hr : (m.queue ch).rest ≠ [])
    (he : (lcOp k.blk.toNat = 0 ∧ ev = Instr.liftCopy t ch) ∨ (lcOp k.blk.toNat = 1 ∧ ev = .liftDecodeCopy t ch) ∨
      (lcOp k.blk.toNat = 3 ∧ ev = .liftAccumulatorLoad t ch)) : Happens ev s (s.stepBlock m ch k.blk.toNat) := by
  have hb := liftBlock_steps h hc ha hs hr
  rcases he with ⟨ho, rfl⟩ | ⟨ho, rfl⟩ | ⟨ho, rfl⟩ <;>
  · rw [ho] at hb
    exact congrArg Host.Outcome.next (hb _)

/-- The next step of a block whose members are all placed, and whose gates all count it. -/
theorem stepBlock_placed {c : Nat} {u : State} (h : s.team? t = some m) :
    let q := m.queue ch
    let bs := if lcOp c = 1 then q.rest else q.rest.take 32
    (∀ n, n ∈ s.named m c → n.status = .resident) → s.countGates c 0 [bs.length] (s.named m c) = some u →
    let w := if lcOp c = 3 then u.onTeam t fun m => m.putAcc c q.sent bs
      else (s.named m c).foldl (fun u n => u.deliverTo n c (lcDoff c + q.sent) bs) u
    s.stepBlock m ch c =
      if bs.length = q.rest.length then w.blockDone t ch bs.length q.last
      else ((w.onQueue t ch fun q => { q with rest := q.rest.drop bs.length, sent := q.sent + bs.length }).liftGo t ch).testGates := by
  intro q bs hn hg w
  obtain rfl := id_of_team h
  have hhere : (s.named m c).filter (fun m => m.status == .resident) = s.named m c :=
    List.filter_eq_self.mpr fun n hm => beq_iff_eq.mpr (hn n hm)
  have haway : (s.named m c).filter (fun m => m.status == .evicted) = [] :=
    List.filter_eq_nil_iff.mpr fun n hm => by rw [hn n hm]; decide
  have hcount : s.countEach c 0 [(stepBytes c q.rest).length] (s.named m c) = (true, u) := countEach_of_countGates _ _ _ _ hg
  rw [State.stepBlock]
  rw [hhere, haway, hcount]
  rfl

/-! ## The end of a command -/

theorem liftCommandComplete_happens {k : LiftCmd} {ks : List LiftCmd} {d : Nat} {u : State} (h : s.team? t = some m)
    (hc : (m.queue ch).cmds = k :: ks) (hd : (m.queue ch).drain = some d) :
    let q := m.queue ch
    let c := k.blk.toNat
    q.active = true → q.halted = false → q.parked = false → q.held = [] → q.stop = false →
    let w := s.waitUntil d
    w.countGates c 1 [1] (w.named m c) = some u →
    Happens (.liftCommandComplete t ch) s
      ((((u.onTeam t fun m => { m with accBad := m.accBad &&& ~~~(lcAccTiles c m.accs) }).onQueue t ch fun q =>
        { q with cmds := ks, active := false, done := k.seq, item := 0, sent := 0, rec_ := 0, table := [], book := [],
                 drain := none }).liftGo t ch).testGates.exitCheck t) := by
  intro q c ha hh hp hl hs w hg
  show execLiftCommandComplete t ch s = _
  rw [execLiftCommandComplete, h]
  dsimp only
  rw [hc, hd]
  refine congrArg Host.Outcome.next ((if_neg ?_).trans ?_)
  · show ¬ (!q.active || q.halted || q.parked || !q.held.isEmpty || q.stop) = true
    rw [ha, hh, hp, hl, hs]
    decide
  · rw [hg]

theorem liftError_happens {err : LiftErr} (h : s.team? t = some m) (ha : (m.queue ch).active = true) :
    ((m.queue ch).rest = [] ∧ (m.queue ch).held = [] → Happens (.liftError t ch err) s (s.liftFail t ch err)) ∧
    ((m.queue ch).rest ≠ [] ∨ (m.queue ch).held ≠ [] → Happens (.liftError t ch err) s
      (s.onQueue t ch fun q => { q with failing := if q.failing = none then some err else q.failing })) := by
  have he : exec (.liftError t ch err) s = .next (if (m.queue ch).settled then s.liftFail t ch err else s.liftFlaw t ch err) := by
    show execLiftError t ch err s = _
    rw [execLiftError, h]
    exact congrArg Host.Outcome.next (if_neg (by rw [ha]; decide))
  constructor
  · rintro ⟨hr, hl⟩
    rw [if_pos (by rw [LiftQueue.settled, hr, hl]; rfl)] at he
    exact he
  · intro hne
    rw [if_neg] at he
    · refine he.trans (congrArg Host.Outcome.next ?_)
      rw [State.liftFlaw]
      congr 1
      funext q
      cases q.failing <;> rfl
    · rw [LiftQueue.settled, Bool.and_eq_true, List.isEmpty_iff, List.isEmpty_iff]
      rintro ⟨hr, hl⟩
      exact hne.elim (· hr) (· hl)

theorem blockEnd_settled (h : s.team? t = some m) (hr : (m.queue ch).rest = []) (hl : (m.queue ch).held = []) (hm : m.halt = none) :
    s.blockEnd t ch = match (m.queue ch).failing with
      | some e => s.liftFail t ch e
      | none => s := by
  rw [State.blockEnd, h]
  dsimp only
  rw [if_neg (by rw [LiftQueue.settled, hr, hl]; decide), hm, if_neg (by rw [Option.isSome_none, Bool.and_false]; decide)]
    <;> cases (m.queue ch).failing <;> rfl

theorem liftSourcePark_happens {va : Nat} (h : s.team? t = some m) (ha : (m.queue ch).active = true) (hp : (m.queue ch).parked = false)
    (hh : (m.queue ch).halted = false) (hr : (m.queue ch).rest = []) : Happens (.liftSourcePark t ch va) s (s.liftPark m ch va 4) := by
  show execLiftSourcePark t ch va s = _
  rw [execLiftSourcePark, h]
  exact congrArg Host.Outcome.next (if_pos (by rw [ha, hp, hh, hr]; rfl))

/-! ## Bytes held for a member -/

/-- The bytes of a step are the first ones of what is left. -/
theorem take_stepBytes (c : Nat) (bs : List Byte) : bs.take (stepBytes c bs).length = stepBytes c bs := by
  unfold stepBytes
  split
  · exact List.take_length
  · rw [List.length_take]
    rcases Nat.le_total 32 bs.length with hle | hle
    · rw [Nat.min_eq_left hle]
    · rw [Nat.min_eq_right hle, List.take_length, List.take_of_length_le hle]

theorem multicastHeldDelivery_happens {rank : Nat} {k : LiftCmd} {ks : List LiftCmd} {h : Held} {r : Team} {u : State} (ht : s.team? t = some m)
    (hc : (m.queue ch).cmds = k :: ks) (hh : (m.queue ch).held.find? (fun h => h.rank == rank) = some h)
    (hr : s.team? (m.member rank) = some r) (hs : r.status = .resident) :
    let c := k.blk.toNat
    let bs := if lcOp c = 1 then h.bytes else h.bytes.take 32
    let left := h.bytes.drop bs.length
    s.countGates c 0 (countSteps (lcOp c == 1) bs.length) [r] = some u →
    Happens (.multicastHeldDelivery t ch rank) s
      (((((u.deliverTo r c h.off bs).onQueue t ch fun q =>
        { q with held := (q.held.filter fun k => k.rank != h.rank) ++
            if left.isEmpty then [] else [{ h with off := h.off + bs.length, bytes := left }] }).blockEnd t ch).liftGo t ch).testGates) := by
  intro c bs left hg
  obtain rfl := id_of_team ht
  have hcount : s.countEach c 0 (countSteps (lcOp c == 1) (stepBytes c h.bytes).length) [r] = (true, u) := countEach_of_countGates _ _ _ _ hg
  show execMulticastHeldDelivery m.id ch rank s = _
  rw [execMulticastHeldDelivery, ht]
  dsimp only
  rw [hc, hh, hr]
  dsimp only
  rw [if_neg (by rw [hs]; decide), State.heldStep, take_stepBytes]
  rw [hcount]
  rfl

end

/-- Settles O46: a command that starts, a block that begins and its steps, and the ends, each from the lemma about the queue's turn or
about the step. -/
theorem liftEvents : Obligations.LiftEvents := by
  unfold Obligations.LiftEvents
  intro turn
  exact ⟨fun t ch s m k ks h hc => fun hh hp ha hs hm ht hr =>
      ⟨fun hl => (exec_liftCommandStart h hc hh hp ha hs hm ht).trans (congrArg Host.Outcome.next (startCommand_plain hr hl)),
        fun bs u hl hb hy hn => (exec_liftCommandStart h hc hh hp ha hs hm ht).trans
          (congrArg Host.Outcome.next (startCommand_record hr hl hb hy hn))⟩,
    fun t ch s m k ks n h hc => fun hh hp ha hs hm ht hr hn =>
      (exec_liftCommandStart h hc hh hp ha hs hm ht).trans (congrArg Host.Outcome.next (startCommand_refused hr hn)),
    fun _ _ _ _ _ _ _ => liftCopy_plain, fun _ _ _ _ _ => liftCopy_record, fun _ _ _ _ _ => liftDecodeCopy_happens,
    fun _ _ _ _ _ => liftAccumulatorLoad_happens, fun _ _ _ _ _ _ _ _ => liftEncodeStore_happens, fun _ _ _ _ _ _ _ _ => deliverBlock_starts,
    fun _ _ _ _ _ _ _ _ h hc => fun ha hs hr he hn hg =>
      (block_event_steps h hc ha hs hr he).trans (congrArg Host.Outcome.next (stepBlock_placed h hn hg)),
    fun _ _ _ _ _ _ _ _ => liftCommandComplete_happens, fun _ _ _ _ _ => liftError_happens, fun _ _ _ _ => blockEnd_settled,
    fun _ _ _ _ _ => liftSourcePark_happens, fun _ _ _ _ _ _ _ _ _ _ => multicastHeldDelivery_happens⟩

end Sys2Proof.Proofs
end

section
/-! SUPPORT. The steps of a freeze and of a resume; settles O47. -/

namespace Sys2Proof.Proofs

open Sys2Proof.Machine Sys2Proof.Safety

set_option Elab.async false

section
variable {s : State} {c : Nat} {f : FrzWork}

/-! ## The steps of a freeze -/

theorem exec_fullingComplete (h : (s.ctx c).frz = some f) (hr : f.isResume = false) (ht : s.frzReady c f = true) :
    exec (.fullingComplete c) s = .next (
      if f.phase = 1 then (s.beginFulling c).push [.fullingComplete c]
      else if f.phase = 2 then (if s.collsOpen c then (s.withdraw c).push [.fullingComplete c] else s.writeFelt c)
      else if f.failed then s.thaw c f 0x102
      else (s.releaseContext c).endFrz c 1) := by
  show execFullingComplete c s = _
  rw [execFullingComplete, h]
  exact congrArg Host.Outcome.next (if_neg (by rw [hr, ht]; decide))

theorem freeze_happens (h : (s.ctx c).frz = some f) (hr : f.isResume = false) (hp : f.phase = 0) :
    let closed := (s.queuesIn c).foldl State.disableQueue s
    let u : State := { closed with incoming := closed.incoming.filter fun i => (closed.grid? i.unit.team.grid).any fun g => g.ctx != c }
    let w := u.onFrz c fun f => { f with phase := 1, queues := (s.queuesIn c).map fun q => (q, (s.queue q).en) }
    Happens (.freeze c) s
      ((w.askSave (((w.teamsIn c).map fun t => (w.packsOf t.id).map (·.id)).flatten)).push [.fullingComplete c]) := by
  show execFreeze c s = _
  rw [execFreeze, h]
  exact congrArg Host.Outcome.next (if_neg (by rw [hr, hp]; decide))

theorem fulling_begins (h : (s.ctx c).frz = some f) (hr : f.isResume = false) (ht : s.frzReady c f = true) (hp : f.phase = 1) :
    Happens (.fullingComplete c) s ((s.beginFulling c).push [.fullingComplete c]) :=
  (exec_fullingComplete h hr ht).trans (congrArg Host.Outcome.next (if_pos hp))

/-- Phase 2: the collectives still open are withdrawn, or the felt is written. -/
theorem fulling_ends (h : (s.ctx c).frz = some f) (hr : f.isResume = false) (ht : s.frzReady c f = true) (hp : f.phase = 2) :
    Happens (.fullingComplete c) s (if s.collsOpen c then (s.withdraw c).push [.fullingComplete c] else s.writeFelt c) :=
  (exec_fullingComplete h hr ht).trans (congrArg Host.Outcome.next ((if_neg (by rw [hp]; decide)).trans (if_pos hp)))

/-- Phase 3: the context thaws where a write of the felt failed, and else its state is released. -/
theorem felt_written (h : (s.ctx c).frz = some f) (hr : f.isResume = false) (ht : s.frzReady c f = true) (hp : f.phase = 3) :
    Happens (.fullingComplete c) s (if f.failed then s.thaw c f 0x102 else (s.releaseContext c).endFrz c 1) :=
  (exec_fullingComplete h hr ht).trans
    (congrArg Host.Outcome.next ((if_neg (by rw [hp]; decide)).trans (if_neg (by rw [hp]; decide))))

theorem frzCompletion_happens (h : (s.ctx c).frz = some f) (hp : f.phase = 4)
    (hw : s.requests.any (fun r => r.pack == feltWriter c) = false) :
    Happens (.frzCompletion c) s
      ((((s.waitUntil (f.wct + s.eps)).writeWord64 f.ictx f.evt f.value).2.onCtx c fun k => { k with frz := none }).kick) := by
  show execFrzCompletion c s = _
  rw [execFrzCompletion, h]
  exact congrArg Host.Outcome.next (if_neg (by rw [hp, hw]; simp))

theorem collectiveWithdraw_happens (h : (s.ctx c).frz = some f) (hr : f.isResume = false) (hp : f.phase = 2) :
    Happens (.collectiveWithdraw c) s (((s.waitUntil (f.since + s.tfabTicks)).withdraw c).push [.fullingComplete c]) := by
  show execCollectiveWithdraw c s = _
  rw [execCollectiveWithdraw, h]
  exact congrArg Host.Outcome.next (if_neg (by rw [hp, hr]; decide))

/-! ## The steps of a resume -/

theorem resume_places (h : (s.ctx c).frz = some f) (hr : f.isResume = true) (hp : f.phase = 1) :
    Happens (.resume c) s (s.placeResumed c f) ∧ Happens (.resumePlace c) s (s.placeResumed c f) := by
  constructor
  · show execResume c s = _
    rw [execResume, h]
    exact congrArg Host.Outcome.next ((if_neg (by rw [hr]; decide)).trans (if_pos hp))
  · show execResumePlace c s = _
    rw [execResumePlace, h]
    exact congrArg Host.Outcome.next (if_pos (by rw [hr, hp]; decide))

/-- A read of the felt that brings its bytes goes on with them. -/
theorem feltRead_ok {n : Nat} {k : State → List Byte → State} {bs : List Byte} {t : State}
    (h : s.homeRead (feltReader c) 0 f.ictx [((f.felt : Int), n)] = (.ok bs, t)) : s.feltRead c f n k = k t bs := by
  rw [State.feltRead, h]

/-- A felt whose header, image and body pass the checks of R396 is adopted. -/
theorem resume_adopts {h bs : List Byte} {t u : State} {felt : Felt} (hf : (s.ctx c).frz = some f) (hr : f.isResume = true)
    (hp : f.phase = 0) (hh : s.homeRead (feltReader c) 0 f.ictx [((f.felt : Int), 128)] = (.ok h, t))
    (hm : numAt h 0 8 / 2 ^ 48 % 2 ^ 16 = 0xF317) (hv : numAt h 0 8 / 2 ^ 40 % 2 ^ 8 ≤ 1) (hw : numAt h 0 8 / 2 ^ 32 % 2 ^ 8 = 64)
    (hb : t.homeRead (feltReader c) 0 f.ictx [((f.felt : Int), numAt h 8 8)] = (.ok bs, u)) (hl : 128 ≤ bs.length)
    (hc : crc32 (bs.take 48 ++ ((bs.drop 48).take 4).map (fun _ => 0) ++ bs.drop 52) = numAt h 48 4)
    (hd : readBody u c h (bs.drop 128) = some felt) (hn : u.feltBusy c felt.queues = false) :
    Happens (.resume c) s (((u.dropFetched (feltReader c)).adopt c f felt).readPreloads c) := by
  have hgood : ¬ (bitsAt (numAt h 0 8) 48 16 ≠ 0xF317 || decide (1 < bitsAt (numAt h 0 8) 40 8) || bitsAt (numAt h 0 8) 32 8 ≠ 64) := by
    simp only [bitsAt_eq, hm, hw]
    simpa using hv
  show execResume c s = _
  rw [execResume, hf]
  dsimp only
  rw [if_neg (by rw [hr]; decide), if_neg (by rw [hp]; decide), if_neg (fun e => e hp), feltRead_ok hh, if_neg hgood, feltRead_ok hb,
    if_neg (fun e => e hc), if_neg (Nat.not_lt.mpr hl), hd]
  exact congrArg Host.Outcome.next (if_neg (by rw [hn]; exact Bool.false_ne_true))

end

/-- Settles O47: the phases of a freeze in turn, and those of a resume. -/
theorem freezeEvents : Obligations.FreezeEvents := by
  unfold Obligations.FreezeEvents
  exact ⟨fun _ _ _ => freeze_happens,
    fun c s f h hr ht => ⟨fulling_begins h hr ht,
      fun hp hc => by simpa [hc] using fulling_ends h hr ht hp, fun hp hc => by simpa [hc] using fulling_ends h hr ht hp,
      fun hp hd => by simpa [hd] using felt_written h hr ht hp, fun hp hd => by simpa [hd] using felt_written h hr ht hp⟩,
    fun _ _ _ => frzCompletion_happens, fun _ _ _ => resume_places, fun _ _ _ _ _ _ _ _ => resume_adopts,
    fun _ _ _ => collectiveWithdraw_happens⟩

end Sys2Proof.Proofs
end

section
/-! SUPPORT. Links, routes, packets, requests and the skew monitor; settles O48. -/

namespace Sys2Proof.Proofs

open Sys2Proof.Machine Sys2Proof.Safety

set_option Elab.async false

section
variable {s : State}

/-! ## Links (R407-R409, R417, R424) -/

theorem onLink_of_lt {n : Nat} (h : n < 24) (f : Link → Link) :
    s.onLink n f = { s with links := Tab.set {} s.links n (f (s.link n)) } :=
  if_pos h

theorem link_onLink {n : Nat} (h : n < 24) (f : Link → Link) : (s.onLink n f).link n = f (s.link n) := by
  rw [onLink_of_lt h, State.link, Tab.get_set, if_pos rfl]

theorem link_events {n : Nat} (h : n < 24) :
    Happens (.flitCrcRetry n) s ((s.onLink n fun l => { l with resent := l.resent + 1 }).bump 15) ∧
      Happens (.linkLaneFail n) s (s.onLink n fun l => { l with lanes := l.lanes / 2 }) ∧
      Happens (.linkDown n) s (s.onLink n fun l => { l with lanes := 0 }) ∧ ((s.onLink n fun l => { l with lanes := 0 }).link n).lanes = 0 :=
  ⟨congrArg Host.Outcome.next (if_pos h), rfl, congrArg Host.Outcome.next (if_pos (by omega)), by rw [link_onLink h]⟩

/-- A branch of the switches goes down: the one copy that waits for it is not sent there, and its members are lost. -/
theorem branch_down {b : Nat} {c : McCopy} (hb : b < 2 ^ 17) (h : (s.copies.filter fun c => c.pending.contains b) = [c]) :
    let ms := (s.group c.ctx c.group).members
    let lost := (List.range ms.length).filter fun q => Config.branchOf ((ms[q]?).getD 0) == b
    Happens (.linkDown (2 ^ 17 + b)) s (lost.foldl (fun s q => s.collReport c.ctx c.group c.seq q 1) (s.clearBranch c.id b)) := by
  have hk : 2 ^ 17 + b - 2 ^ 17 = b := by omega
  show execLinkDown (2 ^ 17 + b) s = _
  rw [execLinkDown, if_neg (by omega), if_neg (by omega), hk, h]
  rfl

theorem unit_down (k : Nat) :
    Happens (.linkDown (2 ^ 18 + k)) s (s.unitDown k) ∧ (s.unitDown k).cutOff = k :: s.cutOff.filter (· != k) := by
  have hk : 2 ^ 18 + k - 2 ^ 18 = k := by omega
  refine ⟨?_, rfl⟩
  show execLinkDown (2 ^ 18 + k) s = _
  rw [execLinkDown, if_neg (by omega), if_pos (by omega), hk]

/-- A lane of a link paused or released. -/
def setPaused (vl : Nat) (b : Bool) (l : Link) : Link :=
  { l with paused := if b then insertBy (fun x => x) vl (l.paused.filter (· != vl)) else l.paused.filter (· != vl) }

theorem mem_setPaused (vl : Nat) (b : Bool) (l : Link) (x : Nat) :
    x ∈ (setPaused vl b l).paused ↔ if x = vl then b = true else x ∈ l.paused := by
  cases b with
  | true =>
    show x ∈ insertBy (fun x => x) vl (l.paused.filter (· != vl)) ↔ _
    rw [mem_insertBy, List.mem_filter]
    by_cases h : x = vl <;> simp [h]
  | false =>
    show x ∈ l.paused.filter (· != vl) ↔ _
    rw [List.mem_filter]
    by_cases h : x = vl <;> simp [h]

theorem vlPause_happens {n : Nat} (vl : Nat) (b : Bool) (h : n < 24) :
    ∃ u : State, Happens (.vlPause n vl b) s u.flushOut ∧
      (∀ x, x ∈ (u.link n).paused ↔ if x = vl then b = true else x ∈ (s.link n).paused) ∧
      u = { s with links := u.links } ∧ (u.link n).lanes = (s.link n).lanes := by
  refine ⟨s.onLink n (setPaused vl b), rfl, fun x => ?_, ?_, ?_⟩
  · rw [link_onLink h]
    exact mem_setPaused vl b _ x
  · rw [onLink_of_lt h]
  · rw [link_onLink h]
    rfl

/-! ## Injection and routing (R409, R411) -/

theorem inject_of {p : Packet} : (s.canInject p = true → s.inject p = s.emit (.packet p)) ∧
    (s.canInject p = false → s.inject p = { s with outbound := s.outbound ++ [p] }) :=
  ⟨fun h => if_pos h, fun h => if_neg (by rw [h]; exact Bool.false_ne_true)⟩

theorem routeTableRetire_happens {n at_ : Nat} (h : s.routing.old = some (n, at_)) :
    Happens (.routeTableRetire n) s
      { s with gtc := max s.gtc (at_ + s.tfabTicks), routing := { s.routing with old := none, retired := s.routing.retired ++ [n] } } := by
  show execRouteTableRetire n s = _
  rw [execRouteTableRetire, h]
  exact congrArg Host.Outcome.next (if_neg fun e => e rfl)

/-! ## Copies of multicast packets (R417) -/

/-- What a list holds of which the elements with p become g of them, and are dropped when nothing is left of those. -/
theorem mem_filterMap_thin {α β : Type} {p : α → Prop} [DecidablePred p] (g : α → α) (rest : α → List β) {l : List α} {k : α} :
    (k ∈ l.filterMap fun a => if ¬ p a then some a else if (rest (g a)).isEmpty then none else some (g a)) ↔
      (k ∈ l ∧ ¬ p k) ∨ ∃ a, a ∈ l ∧ p a ∧ k = g a ∧ rest k ≠ [] := by
  rw [List.mem_filterMap]
  constructor
  · rintro ⟨a, ha, hk⟩
    by_cases hp : p a
    · rw [if_neg (not_not_intro hp)] at hk
      split at hk
      · exact nomatch hk
      next he =>
        cases hk
        exact .inr ⟨a, ha, hp, rfl, fun e => he (List.isEmpty_iff.mpr e)⟩
    · rw [if_pos hp] at hk
      cases hk
      exact .inl ⟨ha, hp⟩
  · rintro (⟨hk, hp⟩ | ⟨a, ha, hp, rfl, hr⟩)
    · exact ⟨k, hk, if_pos hp⟩
    · exact ⟨a, ha, (if_neg (not_not_intro hp)).trans (if_neg fun e => hr (List.isEmpty_iff.mp e))⟩

theorem mem_clearBranch (n b : Nat) (k : McCopy) :
    k ∈ (s.clearBranch n b).copies ↔ (k ∈ s.copies ∧ k.id ≠ n) ∨
      ∃ o, o ∈ s.copies ∧ o.id = n ∧ k = { o with pending := o.pending.filter (· != b) } ∧ k.pending ≠ [] :=
  mem_filterMap_thin (p := fun c : McCopy => c.id = n) (fun c => { c with pending := c.pending.filter (· != b) }) McCopy.pending

theorem multicastBranchSend_happens {n b : Nat} {c : McCopy} (h : s.copies.find? (fun c => c.id == n) = some c)
    (hb : c.pending.contains b = true) :
    (c.injected = true → Happens (.multicastBranchSend n b) s ((s.clearBranch n b).emit (.multicast c.pkt b))) ∧
      (c.injected = false → Happens (.multicastBranchSend n b) s s) := by
  have he : exec (.multicastBranchSend n b) s = execMulticastBranchSend n b s := rfl
  rw [execMulticastBranchSend, h] at he
  exact ⟨fun hi => he.trans (congrArg Host.Outcome.next (if_pos (by rw [hi, hb]; rfl))),
    fun hi => he.trans (congrArg Host.Outcome.next (if_neg (by rw [hi]; exact Bool.false_ne_true)))⟩

/-! ## Packets sent again, and requests at their deadline (R410, R415) -/

theorem request_again {n : Nat} {r : Request} (h : s.requests.find? (fun r => r.seq == n) = some r) :
    let u := s.waitUntil (r.sent + s.tfabTicks / 8)
    (u.gtc < r.deadline → Happens (.packetRetransmit n) s
      (({ u with requests := u.requests.map fun q => if q.seq = n then { q with sent := u.gtc } else q } : State).inject
        { r.pkt with select := u.routing.select })) ∧
    (r.deadline ≤ u.gtc → Happens (.packetRetransmit n) s u) ∧
    Happens (.requestDeadline n) s ((s.waitUntil r.deadline).endRequest r .late) := by
  intro u
  have he : exec (.packetRetransmit n) s = .next (s.retransmit n) := rfl
  rw [State.retransmit, h] at he
  refine ⟨fun hd => he.trans (congrArg Host.Outcome.next (if_neg (Nat.not_le.mpr hd))),
    fun hd => he.trans (congrArg Host.Outcome.next (if_pos hd)), ?_⟩
  show execRequestDeadline n s = _
  rw [execRequestDeadline, h]
  rfl

/-- An injection changes no route. -/
theorem routing_inject (s : State) (p : Packet) : (s.inject p).routing = s.routing := by
  unfold State.inject
  split <;> rfl

/-- A packet is sent to each of its destinations with the routes of the start. -/
theorem foldl_inject (p : Packet) {r : Routing} : ∀ (ds : List Nat) (v : State), v.routing = r →
    ds.foldl (fun s d => s.inject { p with dst := d, select := s.routing.select }) v =
      ds.foldl (fun s d => s.inject { p with dst := d, select := r.select }) v
  | [], _, _ => rfl
  | d :: ds, v, h => by
    rw [List.foldl_cons, List.foldl_cons, h]
    exact foldl_inject p ds _ ((routing_inject v _).trans h)

theorem unacked_again {n : Nat} {x : Unacked} (hr : s.requests.find? (fun r => r.seq == n) = none)
    (h : s.unacked.find? (fun x => x.pkt.seq == n) = some x) :
    let u := s.waitUntil (x.sent + s.tfabTicks / 8)
    (u.gtc < x.pkt.deadline → Happens (.packetRetransmit n) s
      (x.due.foldl (fun s d => s.inject { x.pkt with dst := d, select := u.routing.select })
        { u with unacked := u.unacked.map fun q => if q.pkt.seq = n then { q with sent := u.gtc } else q })) ∧
    (x.pkt.deadline ≤ u.gtc → Happens (.packetRetransmit n) s u) := by
  intro u
  have he : exec (.packetRetransmit n) s = .next (s.retransmit n) := rfl
  rw [State.retransmit, hr] at he
  dsimp only at he
  rw [h] at he
  dsimp only at he
  exact ⟨fun hd => he.trans (congrArg Host.Outcome.next ((if_neg (Nat.not_le.mpr hd)).trans (foldl_inject x.pkt x.due _ rfl))),
    fun hd => he.trans (congrArg Host.Outcome.next (if_pos hd))⟩

/-! ## Packets accepted (R410, R412, R415) -/

theorem exec_packetAccept {p : Packet} (ha : p.body ≠ .ack) (hd : ∀ c g n w, p.body ≠ .decision c g n w) :
    exec (.packetAccept p) s = .next (s.acceptPacket p) := by
  show execPacketAccept p s = _
  rw [execPacketAccept]
  split
  · exact absurd ‹_› ha
  · exact absurd ‹_› (hd _ _ _ _)
  · rfl

theorem response_accept {p : Packet} {e : ReqEnd} {r : Request} (h : respEnd p.body = some e)
    (hr : s.requests.find? (fun r => r.seq == p.seq && r.pkt.dst == p.src) = some r) :
    (s.gtc ≤ r.deadline → Happens (.packetAccept p) s (s.endRequest r e)) ∧
      (r.deadline < s.gtc → Happens (.packetAccept p) s s) := by
  have he := exec_packetAccept (s := s) (p := p) (by intro e; rw [e] at h; exact nomatch h)
    (by intro _ _ _ _ e; rw [e] at h; exact nomatch h)
  rw [State.acceptPacket, h] at he
  dsimp only at he
  rw [hr] at he
  exact ⟨fun hd => he.trans (congrArg Host.Outcome.next (if_neg (Nat.not_lt.mpr hd))),
    fun hd => he.trans (congrArg Host.Outcome.next (if_pos hd))⟩

theorem request_accept {p : Packet} (h : respEnd p.body = none) (ha : p.body ≠ .ack) (hd : ∀ c g n w, p.body ≠ .decision c g n w) :
    let u : State := { s with accepted := s.accepted.filter fun a => decide (s.gtc ≤ a.until_) }
    let known := u.accepted.find? fun a => a.src == p.src && a.vl == p.vl && a.seq == p.seq
    let now : Accepted :=
      { src := p.src, vl := p.vl, seq := p.seq, until_ := p.deadline, reply := none, slot := p.slot, line := bodyLine p.body, held := none }
    (known = none → u.behind p = false → Happens (.packetAccept p) s
      (({ u with accepted := u.accepted ++ [now] } : State).serveAll p false)) ∧
    (known = none → u.behind p = true → u.closedFor p.body = false → Happens (.packetAccept p) s
      { u with accepted := u.accepted ++ [{ now with held := some p }] }) ∧
    (∀ a r, known = some a → a.reply = some r → Happens (.packetAccept p) s (u.inject r)) := by
  intro u known now
  have he := exec_packetAccept (s := s) ha hd
  rw [State.acceptPacket, h] at he
  refine ⟨fun hk hb => ?_, fun hk hb hc => ?_, fun a r hk hr => ?_⟩
  · dsimp only at he
    rw [show List.find? _ _ = none from hk] at he
    dsimp only at he
    rw [show (State.behind _ p) = false from hb] at he
    exact he
  · dsimp only at he
    rw [show List.find? _ _ = none from hk] at he
    dsimp only at he
    rw [show (State.behind _ p) = true from hb, show (State.closedFor _ p.body) = false from hc] at he
    exact he
  · dsimp only at he
    rw [show List.find? _ _ = some a from hk] at he
    dsimp only at he
    rw [hr] at he
    exact he

theorem decision_accept {p : Packet} {c g n : Nat} {w : DWord} (h : p.body = .decision c g n w)
    (hs : (s.group c g).state ≠ 1 ∨ n % 2 ^ 16 = 0) :
    Happens (.packetAccept p) s
      ((s.collDecide c g n (w.toNat % 2 ^ 8, w.toNat / 2 ^ 8 % 2 ^ 8, w.toNat / 2 ^ 32 % 2 ^ 18)).reply p .ack) := by
  have hn : ¬ (((s.group c g).state = 1 && n % 2 ^ 16 != 0) = true) := by
    rw [Bool.and_eq_true, decide_eq_true_eq, bne_iff_ne]
    rintro ⟨hone, hne⟩
    exact hs.elim (fun h => h hone) hne
  show execPacketAccept p s = _
  rw [execPacketAccept, h]
  dsimp only
  rw [if_neg hn, bitsOf, bitsOf, bitsOf, bitsAt_eq, bitsAt_eq, bitsAt_eq, Nat.pow_zero, Nat.div_one]

theorem mem_acked (src n : Nat) (x : Unacked) :
    x ∈ (s.acked src n).unacked ↔ (x ∈ s.unacked ∧ x.pkt.seq ≠ n) ∨
      ∃ y, y ∈ s.unacked ∧ y.pkt.seq = n ∧ x = { y with due := y.due.filter (· != src) } ∧ x.due ≠ [] :=
  mem_filterMap_thin (p := fun u : Unacked => u.pkt.seq = n) (fun u => { u with due := u.due.filter (· != src) }) Unacked.due

theorem ack_accept {p : Packet} (h : p.body = .ack) : Happens (.packetAccept p) s (s.acked p.src p.seq) := by
  show execPacketAccept p s = _
  rw [execPacketAccept, h]

/-! ## The skew monitor (R373) -/

theorem skewMeasure_happens (peer skew : Nat) :
    let eps := s.sysskew.toNat % 2 ^ 16
    let meas := max (s.sysskew.toNat / 2 ^ 16 % 2 ^ 16) (min 0xFFFF skew)
    let past := eps < skew ∨ s.sysskew.getLsbD 32 = true
    let u : State := { s with sysskew := dw ((if past then 2 ^ 32 else 0) + meas * 2 ^ 16 + eps) }
    (skew ≤ eps → Happens (.skewMeasure peer skew) s u) ∧
    (eps < skew → Happens (.skewMeasure peer skew) s (u.post { seq := 0, kind := 4, d5 := meas, d6 := peer })) := by
  intro eps meas past u
  have heps : s.eps = eps := by
    rw [State.eps, bitsOf, bitsAt_eq, Nat.pow_zero, Nat.div_one]
  have hmeas : max (bitsOf s.sysskew 31 16) (min 0xFFFF skew) = meas := by
    rw [bitsOf, bitsAt_eq]
  have hpast : (if decide (s.eps < skew) || s.sysskew.getLsbD 32 then 2 ^ 32 else 0) = if past then 2 ^ 32 else 0 := by
    simp [past, heps]
  have he : exec (.skewMeasure peer skew) s = execSkewMeasure peer skew s := rfl
  rw [execSkewMeasure] at he
  rw [hmeas, hpast, heps] at he
  exact ⟨fun h => he.trans (congrArg Host.Outcome.next (if_neg (by simpa using h))),
    fun h => he.trans (congrArg Host.Outcome.next (if_pos (by simpa using h)))⟩

end

/-- Settles O48: the links, the routes, the copies, the packets and the skew in turn. -/
theorem fabricEvents : Obligations.FabricEvents := by
  unfold Obligations.FabricEvents
  exact ⟨fun _ _ => link_events, fun _ _ _ => branch_down, fun k _ => unit_down k, fun _ vl b _ => vlPause_happens vl b,
    fun _ _ => inject_of, fun _ _ => rfl, fun _ _ h => congrArg Host.Outcome.next (if_pos h), fun _ _ _ => routeTableRetire_happens,
    fun n b _ _ h hb => ⟨(multicastBranchSend_happens h hb).1, (multicastBranchSend_happens h hb).2, mem_clearBranch n b⟩,
    fun _ _ _ _ => rfl, fun _ _ _ => request_again, fun _ _ _ => unacked_again, fun _ _ _ _ => response_accept,
    fun _ _ => request_accept, fun _ _ _ _ _ _ => decision_accept, fun p _ h => ⟨ack_accept h, mem_acked p.src p.seq⟩,
    fun peer skew _ => skewMeasure_happens peer skew⟩

end Sys2Proof.Proofs
end

section
/-! SUPPORT. Accesses of the host, completion records, and the commands of the fault queue; settles O51. -/

namespace Sys2Proof.Proofs

open Sys2Proof.Machine Sys2Proof.Safety

set_option Elab.async false

section
variable {s : State}

/-! ## What a host write to physical memory writes (R485) -/

/-- A fold each step of which either sets what is read to v or leaves it. -/
theorem foldl_sets {α β σ : Type} (read : σ → α) (v : α) (hits : β → Bool) (f : σ → β → σ)
    (h : ∀ t b, read (f t b) = if hits b then v else read t) :
    ∀ (l : List β) t, read (l.foldl f t) = if l.any hits then v else read t
  | [], _ => rfl
  | b :: l, t => by
    rw [List.foldl_cons, foldl_sets read v hits f h l, h, List.any_cons]
    cases hits b <;> cases l.any hits <;> rfl

/-- The bytes that a host write to physical memory gives a line. -/
def physBytes (a : Nat) (bs : List Byte) (l : Nat) : List (Nat × Byte) :=
  (List.range (min (a + bs.length) (128 * l + 128) - max a (128 * l))).map fun k =>
    (max a (128 * l) + k - 128 * l, (bs[max a (128 * l) + k - a]?).getD 0)

/-- Byte x is one of line l and of the n bytes from a. -/
def inLine (a n x l : Nat) : Bool := decide (max a (128 * l) ≤ x) && decide (x < min (a + n) (128 * l + 128))

/-- An entry of the line's bytes gives its address the byte of the data there. -/
theorem channelStore_physBytes (a : Nat) (bs : List Byte) (l x : Nat) (t : State) :
    memByte (t.channelStore (128 * l) (physBytes a bs l)).hbm x = if inLine a bs.length x l then (bs[x - a]?).getD 0 else memByte t.hbm x := by
  have hset : ∀ (m : List Host.Cell) (k : Nat),
      memByte (Tab.set 0 m (128 * l + (max a (128 * l) + k - 128 * l)) ((bs[max a (128 * l) + k - a]?).getD 0)) x =
        if decide (x = max a (128 * l) + k) then (bs[x - a]?).getD 0 else memByte m x := by
    intro m k
    rw [memByte, Tab.get_set, show 128 * l + (max a (128 * l) + k - 128 * l) = max a (128 * l) + k by omega]
    by_cases hx : x = max a (128 * l) + k
    · rw [if_pos hx, if_pos (decide_eq_true hx), hx]
    · rw [if_neg hx, if_neg (by simpa using hx)]
      rfl
  have hany : ((List.range (min (a + bs.length) (128 * l + 128) - max a (128 * l))).any fun k => decide (x = max a (128 * l) + k)) =
      inLine a bs.length x l := by
    rw [Bool.eq_iff_iff, List.any_eq_true, inLine, Bool.and_eq_true, decide_eq_true_eq, decide_eq_true_eq]
    constructor
    · rintro ⟨k, hk, hx⟩
      rw [List.mem_range] at hk
      rw [decide_eq_true_eq] at hx
      omega
    · rintro ⟨hlo, hhi⟩
      exact ⟨x - max a (128 * l), List.mem_range.mpr (by omega), decide_eq_true (by omega)⟩
  show memByte ((physBytes a bs l).foldl (fun m e => Tab.set 0 m (128 * l + e.1) e.2) t.hbm) x = _
  rw [physBytes, List.foldl_map, foldl_sets (fun m => memByte m x) _ _ _ hset, hany]

theorem any_inLine (a n x : Nat) : (lineSpan a n).any (inLine a n x) = decide (a ≤ x ∧ x < a + n) := by
  rw [Bool.eq_iff_iff, List.any_eq_true, decide_eq_true_eq, lineSpan]
  constructor
  · rintro ⟨l, -, hl⟩
    rw [inLine, Bool.and_eq_true, decide_eq_true_eq, decide_eq_true_eq] at hl
    omega
  · rintro ⟨hlo, hhi⟩
    refine ⟨x / 128, List.mem_map.mpr ⟨x / 128 - a / 128, List.mem_range.mpr ?_, by omega⟩, ?_⟩
    · rw [if_neg (by omega)]
      omega
    · rw [inLine, Bool.and_eq_true, decide_eq_true_eq, decide_eq_true_eq]
      omega

/-- Every byte of a host write is read back, and every other stays. -/
theorem memByte_physWrite (s : State) (a : Nat) (bs : List Byte) (x : Nat) :
    memByte (s.physWrite a bs).hbm x = if a ≤ x ∧ x < a + bs.length then (bs[x - a]?).getD 0 else memByte s.hbm x := by
  have hstep : ∀ (t : State) l, memByte ((t.activate (128 * l)).channelStore (128 * l) (physBytes a bs l)).hbm x =
      if inLine a bs.length x l then (bs[x - a]?).getD 0 else memByte t.hbm x := by
    intro t l
    rw [channelStore_physBytes, activate_hbm]
  show memByte ((lineSpan a bs.length).foldl (fun t l => (t.activate (128 * l)).channelStore (128 * l) (physBytes a bs l)) s).hbm x = _
  rw [foldl_sets (fun t : State => memByte t.hbm x) _ _ _ hstep, any_inLine]
  simp only [decide_eq_true_eq]

/-! ## Accesses of the host (R432, R433, R485) -/

theorem physMay_refuses {conn a n : Nat} (h : conn ≠ 0 ∨ s.capacity < a + n) : s.physMay conn a n = false := by
  rw [State.physMay, Bool.and_eq_false_iff]
  exact h.imp beq_eq_false_iff_ne.mpr fun h => decide_eq_false (Nat.not_le.mpr h)

theorem physMay_grants {a n : Nat} (h : a + n ≤ s.capacity) : s.physMay 0 a n = true := by
  rw [State.physMay, decide_eq_true h]
  rfl

theorem rdmaWrite_control (conn a : Nat) (bs : List Byte) :
    Happens (.rdmaWrite conn 0xFFFF0001 a bs) s ((s.controlWrite a bs).emit (.ack conn)) :=
  congrArg Host.Outcome.next (if_pos rfl)

theorem rdmaWrite_phys (conn a : Nat) (bs : List Byte) :
    Happens (.rdmaWrite conn 0xFFFF0002 a bs) s
      (if s.physMay conn a bs.length then (s.physWrite a bs).emit (.ack conn) else s.emit (.nakAccess conn)) :=
  congrArg Host.Outcome.next ((if_neg (by decide)).trans (if_pos rfl))

/-- A write to pages of a context, every line of which is asked. -/
theorem rdmaWrite_page {conn a c : Nat} {key : Word} {bs : List Byte} (h1 : key ≠ 0xFFFF0001) (h2 : key ≠ 0xFFFF0002)
    (hk : keyContext key.toNat = some c) (ha : a + bs.length ≤ 2 ^ 45) {b : Bool} {u : State}
    (hm : s.hostMayAll c true (lineSpan a bs.length) = (b, u)) :
    Happens (.rdmaWrite conn key a bs) s (if b then (u.virtWrite c a bs).emit (.ack conn) else u.emit (.nakAccess conn)) := by
  show execRdmaWrite conn key a bs s = _
  rw [execRdmaWrite, if_neg h1, if_neg h2, hk]
  dsimp only
  rw [if_neg (Nat.not_lt.mpr ha), hm]
  cases b <;> rfl

theorem rdmaRead_control (conn a n : Nat) :
    Happens (.rdmaRead conn 0xFFFF0001 a n) s (s.emit (.readReply conn ((List.range n).map fun i => s.controlByte (a + i)))) :=
  congrArg Host.Outcome.next (if_pos rfl)

theorem rdmaRead_phys (conn a n : Nat) :
    Happens (.rdmaRead conn 0xFFFF0002 a n) s
      (if s.physMay conn a n then
        ((lineSpan a n).foldl (fun s l => s.activate (128 * l)) s).emit (.readReply conn (memBytes s.hbm a n))
      else s.emit (.nakAccess conn)) :=
  congrArg Host.Outcome.next ((if_neg (by decide)).trans (if_pos rfl))

theorem rdmaRead_page {conn a n c : Nat} {key : Word} (h1 : key ≠ 0xFFFF0001) (h2 : key ≠ 0xFFFF0002)
    (hk : keyContext key.toNat = some c) (ha : a + n ≤ 2 ^ 45) {r : Option (List Byte)} {u : State}
    (hm : s.virtRead c a n (lineSpan a n) = (r, u)) :
    Happens (.rdmaRead conn key a n) s (u.emit (r.elim (.nakAccess conn) (.readReply conn))) := by
  show execRdmaRead conn key a n s = _
  rw [execRdmaRead, if_neg h1, if_neg h2, hk]
  dsimp only
  rw [if_neg (Nat.not_lt.mpr ha), hm]
  cases r <;> rfl

theorem endBackoff_poison (s : State) (b : Nat) : (s.endBackoff b).poison = s.poison := by
  unfold State.endBackoff
  split
  · rfl
  · split
    · rfl
    · dsimp only
      split <;> rfl

theorem awaitBank_poison (s : State) (b : Nat) : (s.awaitBank b).poison = s.poison := by
  unfold State.awaitBank
  refine List.foldlRecOn (motive := fun t : State => t.poison = s.poison) _ _ rfl fun t ht _ _ => ?_
  split
  · exact ht
  · exact (endBackoff_poison _ b).trans ht

theorem activate_poison (s : State) (p : Nat) : (s.activate p).poison = s.poison := by
  unfold State.activate
  simp only [State.push, awaitBank_poison, apply_ite State.poison, ite_self]

/-- Rows that are opened change neither memory nor poison. -/
theorem foldl_activate (ls : List Nat) : ∀ t : State,
    (ls.foldl (fun (s : State) l => s.activate (128 * l)) t).hbm = t.hbm ∧
      (ls.foldl (fun (s : State) l => s.activate (128 * l)) t).poison = t.poison := by
  induction ls with
  | nil => exact fun t => ⟨rfl, rfl⟩
  | cons l ls ih =>
    intro t
    obtain ⟨hm, hp⟩ := ih (t.activate (128 * l))
    exact ⟨hm.trans (activate_hbm t _), hp.trans (activate_poison t _)⟩

theorem rdmaRead_phys_granted {a n : Nat} (h : a + n ≤ s.capacity) : ∃ u : State, u.hbm = s.hbm ∧ u.poison = s.poison ∧
    Happens (.rdmaRead 0 0xFFFF0002 a n) s (u.emit (.readReply 0 (memBytes s.hbm a n))) := by
  have he : Happens (.rdmaRead 0 0xFFFF0002 a n) s _ := rdmaRead_phys 0 a n
  rw [physMay_grants h] at he
  obtain ⟨hm, hp⟩ := foldl_activate (lineSpan a n) s
  exact ⟨_, hm, hp, he⟩

/-! ## Completion records that are held (R436) -/

theorem conn_of_sentRecord {c k : Nat} {out : List Out} {r : CompRec} (h : sentRecord c k out = some r) : r.conn = c := by
  obtain ⟨o, -, ho⟩ := List.mem_filterMap.mp (List.mem_of_getElem? h)
  split at ho
  · split at ho
    · next hc =>
      cases ho
      exact hc
    · exact nomatch ho
  · exact nomatch ho

/-- A record held is one record more of its connection. -/
theorem length_filter_holdRecord {c : Nat} {r : CompRec} (h : r.conn = c) : ∀ hs : List CompRec,
    ((holdRecord r hs).filter fun r => r.conn == c).length = (hs.filter fun r => r.conn == c).length + 1
  | [] => by
    rw [holdRecord, List.filter_cons_of_pos (p := fun r : CompRec => r.conn == c) (beq_iff_eq.mpr h)]
    rfl
  | k :: hs => by
    rw [holdRecord]
    split
    · rw [List.filter_cons_of_pos (p := fun r : CompRec => r.conn == c) (beq_iff_eq.mpr h), List.length_cons]
    · rw [List.filter_cons, List.filter_cons]
      split
      · rw [List.length_cons, List.length_cons, length_filter_holdRecord h hs]
      · exact length_filter_holdRecord h hs

theorem spillRecord_of_le {c : Nat} (h : (s.heldRecs.filter fun r => r.conn == c).length ≤ 64) : s.spillRecord c = s := by
  unfold State.spillRecord
  extract_lets mine
  split
  · rfl
  · exact if_pos h

/-- With one more than 64 held of a connection, one is not held any longer. -/
theorem spillRecord_held {c : Nat} (h : (s.heldRecs.filter fun r => r.conn == c).length ≤ 65) :
    ((s.spillRecord c).heldRecs.filter fun r => r.conn == c).length ≤ 64 := by
  unfold State.spillRecord
  extract_lets mine
  split
  next he =>
    have hnil : mine = [] := List.getLast?_eq_none_iff.mp he
    show mine.length ≤ 64
    rw [hnil]
    exact Nat.zero_le 64
  next r he =>
    have hr : r ∈ mine := List.mem_of_getLast? he
    split
    · assumption
    · show ((s.heldRecs.filter (· != r)).filter fun r => r.conn == c).length ≤ 64
      rw [List.filter_filter, show (fun a : CompRec => a.conn == c && a != r) = fun a => a != r && a.conn == c from
        funext fun a => Bool.and_comm _ _, ← List.filter_filter]
      have hlt : (mine.filter (· != r)).length < mine.length := List.length_filter_lt_length_iff_exists.mpr ⟨r, hr, by simp⟩
      have hle : mine.length ≤ 65 := h
      exact Nat.le_of_lt_succ (Nat.lt_of_lt_of_le hlt hle)

theorem exec_completionRecordNak {c k : Nat} {r : CompRec} (h : sentRecord c k (s.out.drop s.past) = some r) :
    exec (.completionRecordNak { conn := c, back := k }) s =
      .next (if s.heldRecs.contains r then s else ({ s with heldRecs := holdRecord r s.heldRecs } : State).spillRecord c) := by
  show execCompletionRecordNak { conn := c, back := k } s = _
  rw [execCompletionRecordNak, h]

theorem completionRecordNak_holds {c k : Nat} {r : CompRec} (h : sentRecord c k (s.out.drop s.past) = some r)
    (hn : s.heldRecs.contains r = false) (hl : (s.heldRecs.filter fun r => r.conn == c).length < 64) :
    Happens (.completionRecordNak { conn := c, back := k }) s { s with heldRecs := holdRecord r s.heldRecs } := by
  have hle : ((holdRecord r s.heldRecs).filter fun r => r.conn == c).length ≤ 64 := by
    rw [length_filter_holdRecord (conn_of_sentRecord h)]
    exact hl
  exact (exec_completionRecordNak h).trans
    (congrArg Host.Outcome.next ((if_neg (by rw [hn]; exact Bool.false_ne_true)).trans (spillRecord_of_le hle)))

/-- No more than 64 records of a connection are held. -/
theorem completionRecordNak_bound {c k : Nat} {t : State} (h : Happens (.completionRecordNak { conn := c, back := k }) s t)
    (hl : (s.heldRecs.filter fun r => r.conn == c).length ≤ 64) : (t.heldRecs.filter fun r => r.conn == c).length ≤ 64 := by
  cases hr : sentRecord c k (s.out.drop s.past) with
  | none =>
    have he : exec (.completionRecordNak { conn := c, back := k }) s = .next s := by
      show execCompletionRecordNak { conn := c, back := k } s = _
      rw [execCompletionRecordNak, hr]
    cases Host.Outcome.next.inj (he.symm.trans h)
    exact hl
  | some r =>
    have he := Host.Outcome.next.inj ((exec_completionRecordNak hr).symm.trans h)
    split at he
    · cases he
      exact hl
    · subst he
      refine spillRecord_held ?_
      show ((holdRecord r s.heldRecs).filter fun r => r.conn == c).length ≤ 65
      rw [length_filter_holdRecord (conn_of_sentRecord hr)]
      exact Nat.succ_le_succ hl

/-! ## Commands of the fault queue (R217, R369, R375, R379) -/

/-- A command that is well formed is executed and reported; one that is not is reported as malformed. -/
theorem runCommand_eq (kind c tag a b : Nat) : s.runCommand kind c tag a b false =
    ((s.command kind c a b).getD s).post
      { seq := 0, kind := 7, ctx := c, d5 := tag, d6 := if (s.command kind c a b).isSome then 0 else 1 } := by
  rw [State.runCommand, if_neg Bool.false_ne_true]
  cases s.command kind c a b <;> rfl

theorem command_done {kind c tag a b : Nat} {u : State} (h : s.command kind c a b = some u) :
    s.runCommand kind c tag a b false = u.post { seq := 0, kind := 7, ctx := c, d5 := tag, d6 := 0 } := by
  rw [runCommand_eq, h]
  rfl

theorem command_malformed {kind c tag a b : Nat} (h : s.command kind c a b = none) :
    s.runCommand kind c tag a b false = s.post { seq := 0, kind := 7, ctx := c, d5 := tag, d6 := 1 } := by
  rw [runCommand_eq, h]
  rfl

theorem invalidate_done {c : Nat} {tag : Word} {a n : Nat} (ha : 2 ^ 16 ∣ a) (hn : 2 ^ 16 ∣ n) :
    Happens (.fqInvalidate c tag a n) s ((s.invalidate c a n).post { seq := 0, kind := 7, ctx := c, d5 := tag.toNat, d6 := 0 }) :=
  congrArg Host.Outcome.next (command_done (if_pos (by
    rw [Bool.and_eq_true, decide_eq_true_eq, decide_eq_true_eq]
    exact ⟨Nat.mod_eq_zero_of_dvd ha, Nat.mod_eq_zero_of_dvd hn⟩)))

theorem invalidate_malformed {c : Nat} {tag : Word} {a n : Nat} (h : ¬ 2 ^ 16 ∣ a ∨ ¬ 2 ^ 16 ∣ n) :
    Happens (.fqInvalidate c tag a n) s (s.post { seq := 0, kind := 7, ctx := c, d5 := tag.toNat, d6 := 1 }) :=
  congrArg Host.Outcome.next (command_malformed (if_neg (by
    rw [Bool.and_eq_true, decide_eq_true_eq, decide_eq_true_eq]
    rintro ⟨ha, hn⟩
    exact h.elim (fun h => h (Nat.dvd_of_mod_eq_zero ha)) fun h => h (Nat.dvd_of_mod_eq_zero hn))))

theorem scrub_done {c : Nat} {tag : Word} {a : Nat} (h : 2 ^ 7 ∣ a) :
    Happens (.fqScrub c tag a) s ((s.scrub a).post { seq := 0, kind := 7, ctx := c, d5 := tag.toNat, d6 := 0 }) :=
  congrArg Host.Outcome.next (command_done (if_pos (Nat.mod_eq_zero_of_dvd h)))

theorem scrub_malformed {c : Nat} {tag : Word} {a : Nat} (h : ¬ 2 ^ 7 ∣ a) :
    Happens (.fqScrub c tag a) s (s.post { seq := 0, kind := 7, ctx := c, d5 := tag.toNat, d6 := 1 }) :=
  congrArg Host.Outcome.next (command_malformed (if_neg fun e => h (Nat.dvd_of_mod_eq_zero e)))

theorem answers_done {c n : Nat} {tag : Word} {r : Report} {who : Asker} (h : s.openReport c n = some (r, who)) :
    Happens (.fqResolve c tag n) s ((s.resolve r who).post { seq := 0, kind := 7, ctx := c, d5 := tag.toNat, d6 := 0 }) ∧
      Happens (.fqDecline c tag n) s ((s.decline r who).post { seq := 0, kind := 7, ctx := c, d5 := tag.toNat, d6 := 0 }) :=
  ⟨congrArg Host.Outcome.next (command_done (congrArg (Option.map fun o : Report × Asker => s.resolve o.1 o.2) h)),
    congrArg Host.Outcome.next (command_done (congrArg (Option.map fun o : Report × Asker => s.decline o.1 o.2) h))⟩

end

/-- Settles O51: accesses by their key, records by what a connection holds, and commands by whether they are well formed. -/
theorem hostEvents : Obligations.HostEvents := by
  unfold Obligations.HostEvents
  refine ⟨fun _ _ _ => rfl, fun conn a bs s => ⟨rdmaWrite_control conn a bs, fun hc => ⟨?_, fun _ => memByte_physWrite s a bs⟩, fun hc => ?_⟩,
    fun conn key a bs s c u h1 h2 hk ha => ⟨fun hm => by simpa using rdmaWrite_page h1 h2 hk ha hm,
      fun hm => by simpa using rdmaWrite_page h1 h2 hk ha hm⟩,
    fun conn a n s => ⟨rdmaRead_control conn a n, rdmaRead_phys_granted, fun hc => ?_⟩,
    fun conn key a n s c u h1 h2 hk ha => ⟨fun bs hm => rdmaRead_page h1 h2 hk ha hm, fun hm => rdmaRead_page h1 h2 hk ha hm⟩,
    fun conn s => ⟨rfl, rfl, fun h => congrArg Host.Outcome.next (if_neg (by rw [h]; exact Bool.false_ne_true))⟩,
    fun _ _ _ _ => completionRecordNak_holds, fun _ _ _ _ => completionRecordNak_bound, fun _ => rfl,
    fun _ _ _ _ _ _ => answers_done,
    fun c tag a n s => ⟨invalidate_done, invalidate_malformed, rfl, scrub_done, scrub_malformed⟩⟩
  · have he : Happens (.rdmaWrite 0 0xFFFF0002 a bs) s _ := rdmaWrite_phys 0 a bs
    rw [physMay_grants hc] at he
    exact he
  · have he : Happens (.rdmaWrite conn 0xFFFF0002 a bs) s _ := rdmaWrite_phys conn a bs
    rw [physMay_refuses hc] at he
    exact he
  · have he : Happens (.rdmaRead conn 0xFFFF0002 a n) s _ := rdmaRead_phys conn a n
    rw [physMay_refuses hc] at he
    exact he

end Sys2Proof.Proofs
end

section
/-! SUPPORT. Reset, boot, row activation, clocks and the management bus; settles O52. -/

namespace Sys2Proof.Proofs

open Sys2Proof.Machine Sys2Proof.Safety

set_option Elab.async false

section
variable {s : State}

/-! ## Resets, training and boot (R437-R439, R443) -/

theorem get_of_not_mem {α : Type} (z : α) {c : Nat} : ∀ {l : Tab α}, c ∉ l.map (·.1) → Tab.get z l c = z
  | [], _ => rfl
  | (j, v) :: l, h => by
    rw [List.map_cons, List.mem_cons, not_or] at h
    exact (if_neg (Ne.symm h.1)).trans (get_of_not_mem z h.2)

/-- A table whose values are replaced, key by key, by f of them. -/
theorem get_foldl_remap {α β : Type} [DecidableEq β] (z : α) (w : β) (f : α → β) (c : Nat) : ∀ (l : Tab α), (l.map (·.1)).Nodup → ∀ t : Tab β,
    Tab.get w (l.foldl (fun t e => Tab.set w t e.1 (f e.2)) t) c = if c ∈ l.map (·.1) then f (Tab.get z l c) else Tab.get w t c
  | [], _, _ => rfl
  | (j, v) :: l, h, t => by
    rw [List.map_cons, List.nodup_cons] at h
    rw [List.foldl_cons, get_foldl_remap z w f c l h.2, Tab.get_set, List.map_cons]
    by_cases hj : c = j
    · subst hj
      simp only [h.1, Tab.get, List.mem_cons, true_or, if_true, if_false]
    · simp only [hj, Tab.get, List.mem_cons, false_or, if_false, Ne.symm hj]

theorem flashGood_of {ts : List Training} (h : s.flash = some (ts, trainCrc ts))
    (hk : (ts.map fun k => (k.site, k.serial)) = s.sites.map fun k => (k, Tab.get 0 s.serials k)) : s.flashGood = true := by
  rw [State.flashGood, h]
  show (_ == _ && _ == _) = true
  rw [hk, BEq.rfl, BEq.rfl]
  rfl

/-- The results of a training are those of the stacks that are there. -/
theorem flashGood_train (s : State) : s.train.flashGood = true := by
  refine flashGood_of rfl ?_
  show ((s.sites.zipIdx.map _).map _) = s.sites.map _
  rw [List.map_map]
  conv_rhs => rw [← List.zipIdx_map_fst 0 s.sites, List.map_map]
  rfl

/-- Restoring results, or training, touches nothing else. -/
theorem retrain_eq (s : State) : s.retrain = { s with training := s.retrain.training, flash := s.retrain.flash, free := s.retrain.free } := by
  unfold State.retrain
  split <;> rfl

theorem retrain_of_good (h : s.flashGood = true) : s.retrain = { s with training := (s.flash.map (·.1)).getD [] } :=
  if_pos h

/-- The state that a warm reset leaves before the stacks are trained. -/
def warmState (s : State) : State :=
  { s.afterReset with
    hbm := s.hbm
    count := s.count
    cores := s.cores.foldl (fun t e => Tab.set {} t e.1 { count := e.2.count }) []
    ctxs := s.ctxs.foldl (fun t e => Tab.set {} t e.1 { stale := e.2.stale }) [] }

theorem warmReset_happens (h : s.boot ≠ .off) : Happens .mgmtWarmReset s (warmState s).retrain :=
  congrArg Host.Outcome.next (if_neg h)

/-- The counters of the cores. -/
theorem count_warmState (h : (s.cores.map (·.1)).Nodup) (c : Nat) : ((warmState s).core c).count = (s.core c).count := by
  show (Tab.get {} (s.cores.foldl (fun t e => Tab.set {} t e.1 ({ count := e.2.count } : CoreSt)) []) c).count = _
  rw [get_foldl_remap (({} : CoreSt)) ({} : CoreSt) (fun k => ({ count := k.count } : CoreSt)) c s.cores h []]
  split
  · rfl
  next hc =>
    rw [State.core, get_of_not_mem {} hc]
    rfl

theorem warmReset_keeps (h : s.boot ≠ .off) : ∃ t, Happens .mgmtWarmReset s t ∧ t.hbm = s.hbm ∧ t.count = s.count ∧ t.packs = [] ∧
    t.teams = [] ∧ t.boot = .waiting ∧ t.l2 = [] ∧ t.tlb = [] ∧
    ((s.cores.map (·.1)).Nodup → ∀ c n, Tab.get 0 (t.core c).count n = Tab.get 0 (s.core c).count n) ∧
    (∀ ts, s.flash = some (ts, trainCrc ts) → (ts.map fun k => (k.site, k.serial)) = (s.sites.map fun k => (k, Tab.get 0 s.serials k)) →
      t.training = ts ∧ t.flash = s.flash) := by
  refine ⟨(warmState s).retrain, warmReset_happens h, ?_⟩
  refine ⟨by rw [retrain_eq]; rfl, by rw [retrain_eq]; rfl, by rw [retrain_eq]; rfl, by rw [retrain_eq]; rfl, by rw [retrain_eq]; rfl,
    by rw [retrain_eq]; rfl, by rw [retrain_eq]; rfl, fun hn c n => ?_, fun ts hf hk => ?_⟩
  · have hc : (warmState s).retrain.core c = (warmState s).core c := by
      rw [retrain_eq]
      rfl
    rw [hc, count_warmState hn]
  · have hg : (warmState s).flashGood = true := flashGood_of (s := warmState s) hf hk
    rw [retrain_of_good hg]
    refine ⟨?_, rfl⟩
    show (s.flash.map (·.1)).getD [] = ts
    rw [hf]
    rfl

/-- What an accepted image makes of the machine before the stacks are trained. -/
def booted (s : State) : State :=
  { s.takeFree.2 with
    boot := .running
    conns := Tab.set 0 s.conns 0
      (setBitsOf (setBitsOf (setBitsOf (s.conn 0) 127 104 s.takeFree.1.toNat) 65 65 (s.takeFree.1.toNat / 2 ^ 24)) 64 64 1) }

theorem conn_booted (s : State) : ((booted s).conn 0).getLsbD 64 = true := by
  show (Tab.get 0 (Tab.set 0 s.conns 0 _) 0).getLsbD 64 = true
  rw [Tab.get_set, if_pos rfl, setBitsOf_getLsbD _ 1 (Nat.le_refl 64) (by decide)]
  rfl

theorem exec_bootImage {image : List Byte} (hb : s.boot = .waiting ∨ s.boot = .refused) (hl : image.length ≤ 2 ^ 26) :
    exec (.bootImageReceive image) s = .next (
      if !Config.imageAccepted image then { s with boot := .refused }
      else if (booted s).training.isEmpty then (booted s).train else booted s) := by
  refine congrArg Host.Outcome.next ((if_neg ?_).trans (if_neg (Nat.not_lt.mpr hl)))
  rcases hb with hb | hb <;> simp [hb]

theorem bootImage_happens {image : List Byte} (hb : s.boot = .waiting ∨ s.boot = .refused) (hl : image.length ≤ 2 ^ 26) :
    (Config.imageAccepted image = false → Happens (.bootImageReceive image) s { s with boot := .refused }) ∧
    (Config.imageAccepted image = true → ∃ t, Happens (.bootImageReceive image) s t ∧ t.boot = .running ∧ (t.conn 0).getLsbD 64 = true ∧
      t.hbm = s.hbm ∧ (s.training ≠ [] → t.training = s.training ∧ t.flash = s.flash) ∧
      (s.training = [] → t.flash = some (t.training, trainCrc t.training) ∧ t.flashGood = true)) := by
  have he := exec_bootImage hb hl
  refine ⟨fun ha => ?_, fun ha => ?_⟩
  · rw [ha] at he
    exact he
  · rw [ha] at he
    by_cases ht : s.training = []
    · exact ⟨(booted s).train, he.trans (congrArg Host.Outcome.next (if_pos (List.isEmpty_iff.mpr ht))), rfl, conn_booted s, rfl,
        fun h => absurd ht h, fun _ => ⟨rfl, flashGood_train _⟩⟩
    · exact ⟨booted s, he.trans (congrArg Host.Outcome.next (if_neg fun e => ht (List.isEmpty_iff.mp e))), rfl, conn_booted s, rfl,
        fun _ => ⟨rfl, rfl⟩, fun h => absurd h ht⟩

/-! ## The management bus (R442, R443) -/

/-- The boot status takes a free value but after a refused image. -/
theorem bootStatus_eq (s : State) : ∃ v n, s.bootStatus = (v, { s with free := n }) ∧ (s.boot = .refused → v = 2) := by
  unfold State.bootStatus
  split
  · exact ⟨2, s.free, rfl, fun _ => rfl⟩
  next hb => exact ⟨s.takeFree.1.toNat % 256, s.free + 1, rfl, fun h => absurd h hb⟩

/-- The temperatures that a reading of the status gives, from free value n on: one of each core that works. -/
def statusTemps (s : State) (n : Nat) : List Nat :=
  (List.range ((List.range 72).filter s.working).length).map fun k => (Config.freeValue (n + k)).toNat

/-- What a reading of the status gives, from boot status v and free value n on. -/
def statusRead (s : State) (v n : Nat) : Out :=
  .status v (((List.range 72).filter s.working).map fun c => (s.core c).clock) (List.replicate 16 16) (statusTemps s n)
    (Config.freeValue (n + ((List.range 72).filter s.working).length)).toNat

theorem exec_mgmtReadStatus {v n : Nat} (h : s.bootStatus = (v, { s with free := n })) : exec .mgmtReadStatus s =
    .next (({ s with free := n + ((List.range 72).filter s.working).length + 1 } : State).emit (statusRead s v n)) := by
  show execMgmtReadStatus s = _
  rw [execMgmtReadStatus, h]
  rfl

theorem mgmtReadStatus_happens (s : State) : ∃ t clocks temps power v, Happens .mgmtReadStatus s t ∧
    t.out = s.out ++ [.status v clocks (List.replicate 16 16) temps power] ∧
    (s.boot = .refused → v = 2) ∧ clocks = (((List.range 72).filter s.working).map fun c => (s.core c).clock) ∧
    temps.length = clocks.length ∧ t = { s with out := t.out, free := t.free } := by
  obtain ⟨v, n, hb, hv⟩ := bootStatus_eq s
  refine ⟨_, ((List.range 72).filter s.working).map fun c => (s.core c).clock, statusTemps s n, _, v, exec_mgmtReadStatus hb, rfl, hv, rfl,
    ?_, rfl⟩
  rw [statusTemps, List.length_map, List.length_range, List.length_map]

theorem tdp_eq (s : State) : s.tdp = match s.part with
    | .a64 => 2800
    | .a48 => 2200 := by
  rw [State.tdp]
  cases s.part <;> rfl

theorem writeCap_happens (w : Nat) (s : State) : (w < 800 → Happens (.mgmtWriteCap w) s s) ∧
    (800 ≤ w → Happens (.mgmtWriteCap w) s { s with cap := min w (match s.part with
      | .a64 => 2800
      | .a48 => 2200) }) := by
  refine ⟨fun h => congrArg Host.Outcome.next (if_pos h), fun h => ?_⟩
  show execMgmtWriteCap w s = _
  rw [execMgmtWriteCap, if_neg (Nat.not_lt.mpr h), tdp_eq]

theorem writeRowThreshold_happens (n : Nat) (s : State) :
    (256 ≤ n ∧ n ≤ 65535 → Happens (.mgmtWriteRowThreshold n) s { s with rowThreshold := n }) ∧
      (n < 256 ∨ 65535 < n → Happens (.mgmtWriteRowThreshold n) s s) :=
  ⟨fun h => congrArg Host.Outcome.next (if_pos (by simpa using h)),
    fun h => congrArg Host.Outcome.next (if_neg (by
      rw [Bool.and_eq_true, decide_eq_true_eq, decide_eq_true_eq]
      omega))⟩

/-! ## Row activation (R440) -/

theorem endBackoff_gtc (s : State) (b : Nat) : (s.endBackoff b).gtc = s.gtc := by
  unfold State.endBackoff
  split
  · rfl
  · split
    · rfl
    · dsimp only
      split <;> rfl

theorem endBackoffs_gtc (s : State) : s.endBackoffs.gtc = s.gtc :=
  List.foldlRecOn (motive := fun t : State => t.gtc = s.gtc) _ _ rfl fun t ht e _ => (endBackoff_gtc t e.1).trans ht

theorem resetRows_count {b : Nat} {r : Nat × Nat} (hb : r.1 = b) (h : s.rowThreshold ≤ s.rowCount r) : (s.resetRows b).rowCount r = 0 := by
  refine List.length_eq_zero_iff.mpr (List.filter_eq_nil_iff.mpr fun a ha hr => ?_)
  have hkeep := (List.mem_filter.mp ha).2
  rw [eq_of_beq hr, hb, BEq.rfl, decide_eq_true h] at hkeep
  exact Bool.false_ne_true hkeep

/-- What an alert makes of the machine before its back-off begins. -/
def alerted (s : State) (b : Nat) : State := ((s.resetRows b).emit (.rowAlert b)).endBackoffs

theorem gtc_alerted (s : State) (b : Nat) : (alerted s b).gtc = s.gtc := endBackoffs_gtc _

theorem alert_happens (b : Nat) (s : State) :
    ((((alerted s b).backoff.all fun x => x.1 != b) = true → Happens (.rowActivationAlert b) s
      ({ alerted s b with backoff := (alerted s b).backoff ++ [(b, s.gtc + 350)] }.bump 14)) ∧
    (((alerted s b).backoff.any fun x => x.1 == b) = true →
      ∃ t, Happens (.rowActivationAlert b) s t ∧ t = { alerted s b with again := t.again } ∧ b ∈ t.again)) := by
  have he : exec (.rowActivationAlert b) s = .next (
      if (alerted s b).backoff.any fun x => x.1 == b then
        { alerted s b with again := insertBy (fun x => x) b ((alerted s b).again.filter (· != b)) }
      else (alerted s b).beginBackoff b (alerted s b).gtc) := rfl
  refine ⟨fun h => ?_, fun h => ⟨_, he.trans (congrArg Host.Outcome.next (if_pos h)), rfl, (mem_insertBy _ b b _).mpr (.inl rfl)⟩⟩
  rw [gtc_alerted] at he
  refine he.trans (congrArg Host.Outcome.next (if_neg ?_))
  rw [List.any_eq_true]
  rintro ⟨x, hx, hb⟩
  exact bne_iff_ne.mp (List.all_eq_true.mp h x hx) (eq_of_beq hb)

theorem endBackoff_of_later (h : ∀ x, x ∈ s.backoff → s.gtc < x.2) (b : Nat) : s.endBackoff b = s := by
  rw [State.endBackoff]
  cases hx : s.backoff.find? fun x => x.1 == b with
  | none => rfl
  | some x => exact if_pos (h x (List.mem_of_find?_eq_some hx))

theorem endBackoffs_of_later (h : ∀ x, x ∈ s.backoff → s.gtc < x.2) : s.endBackoffs = s :=
  List.foldlRecOn (motive := fun t : State => t = s) _ _ rfl fun t ht e _ => by
    rw [ht]
    exact endBackoff_of_later h e.1

theorem backoffEnd_happens {b : Nat} {x : Nat × Nat} (h : s.backoff.find? (fun x => x.1 == b) = some x) :
    Happens (.backoffEnd b) s ((s.waitUntil x.2).endBackoff b) := by
  show execBackoffEnd b s = _
  rw [execBackoffEnd, h]

theorem endBackoff_ended {b : Nat} {x : Nat × Nat} (h : s.backoff.find? (fun x => x.1 == b) = some x) (ht : x.2 ≤ s.gtc) :
    let u : State := { s with backoff := s.backoff.filter fun y => y.1 != b }
    (s.again.contains b = false → s.endBackoff b = u) ∧
      (s.again.contains b = true → s.endBackoff b =
        { u with again := s.again.filter (· != b), backoff := u.backoff ++ [(b, x.2 + 350)] }.bump 14) := by
  intro u
  have he : s.endBackoff b =
      if s.again.contains b then ({ u with again := u.again.filter (· != b) } : State).beginBackoff b x.2 else u := by
    rw [State.endBackoff, h]
    exact if_neg (Nat.not_lt.mpr ht)
  exact ⟨fun ha => he.trans (if_neg (by rw [ha]; exact Bool.false_ne_true)), fun ha => he.trans (if_pos ha)⟩

/-! ## Clocks (R441, R442) -/

theorem clockFor_bounds (g : Nat) : 8 ≤ clockFor g ∧ clockFor g ≤ 32 ∧ (8 < clockFor g → Config.islandCurrent (clockFor g) ≤ g) ∧
    ∀ k, clockFor g < k → k ≤ 32 → g < Config.islandCurrent k := by
  rw [clockFor, List.find?_map]
  cases h : (List.range 25).find? ((fun k => decide (Config.islandCurrent k ≤ g)) ∘ fun k => 32 - k) with
  | none =>
    rw [List.find?_range_eq_none] at h
    refine ⟨Nat.le_refl 8, by decide, fun h => absurd h (Nat.lt_irrefl 8), fun k hk hle => ?_⟩
    have hk : 8 < k := hk
    have hno := h (32 - k) (by omega)
    rw [Bool.not_eq_true', Function.comp_apply, decide_eq_false_iff_not, show 32 - (32 - k) = k by omega] at hno
    exact Nat.lt_of_not_le hno
  | some i =>
    rw [List.find?_range_eq_some] at h
    obtain ⟨hi, hm, hbefore⟩ := h
    rw [List.mem_range] at hm
    rw [Function.comp_apply, decide_eq_true_eq] at hi
    rw [Option.map_some, Option.getD_some]
    refine ⟨by omega, by omega, fun _ => hi, fun k hk hle => ?_⟩
    have hno := hbefore (32 - k) (by omega)
    rw [Bool.not_eq_true', Function.comp_apply, decide_eq_false_iff_not, show 32 - (32 - k) = k by omega] at hno
    exact Nat.lt_of_not_le hno

theorem core_onCore (c : Nat) (f : CoreSt → CoreSt) (k : Nat) : (s.onCore c f).core k = if k = c then f (s.core c) else s.core k :=
  Tab.get_set _ _ _ _ _

theorem core_setClock (c k : Nat) (h : Bool) : ((s.setClock c k h).core c).clock = k ∧ ((s.setClock c k h).core c).hot = h := by
  rw [State.setClock, core_onCore, if_pos rfl]
  exact ⟨rfl, rfl⟩

/-! ## Grants (R441, R442) -/

/-- The entries of other numbers leave what is read at c. -/
theorem foldl_zipIdx_skip {α β σ : Type} {read : σ → β} {f : σ → α × Nat → σ} {c : Nat}
    (hskip : ∀ t e, e.2 ≠ c → read (f t e) = read t) : ∀ (l : List α) (n : Nat), c < n → ∀ t, read ((l.zipIdx n).foldl f t) = read t
  | [], _, _, _ => rfl
  | a :: l, n, h, t => by
    rw [List.zipIdx_cons, List.foldl_cons, foldl_zipIdx_skip hskip l (n + 1) (by omega)]
    exact hskip t (a, n) (by omega)

/-- The entry numbered c sets what is read at c, where all keep the invariant. -/
theorem foldl_zipIdx_sets {α β σ : Type} {read : σ → β} {f : σ → α × Nat → σ} {c : Nat} {inv : σ → Prop} {d : α} {v : β}
    (hinv : ∀ t e, inv t → inv (f t e)) (hskip : ∀ t e, e.2 ≠ c → read (f t e) = read t) (hset : ∀ t, inv t → read (f t (d, c)) = v) :
    ∀ (l : List α) (n : Nat) (t : σ), inv t → n ≤ c → l[c - n]? = some d → read ((l.zipIdx n).foldl f t) = v
  | [], _, _, _, _, h => nomatch h
  | a :: l, n, t, ht, hn, h => by
    rw [List.zipIdx_cons, List.foldl_cons]
    by_cases hc : c = n
    · subst hc
      rw [Nat.sub_self, List.getElem?_cons_zero] at h
      cases h
      rw [foldl_zipIdx_skip hskip l (c + 1) (Nat.lt_succ_self c)]
      exact hset t ht
    · obtain ⟨k, rfl⟩ : ∃ k, c = n + 1 + k := ⟨c - (n + 1), by omega⟩
      rw [show n + 1 + k - n = k + 1 by omega, List.getElem?_cons_succ] at h
      refine foldl_zipIdx_sets hinv hskip hset l (n + 1) _ (hinv t _ ht) (by omega) ?_
      rw [Nat.add_sub_cancel_left]
      exact h

/-- The grants of the islands of the base dies. -/
def baseGrants (bases : List Nat) (s : State) : State :=
  { s with grants := (bases.take 16).zipIdx.foldl (fun g b => Tab.set 0 g (72 + b.2) b.1) s.grants }

/-- The grant of one core island, of what the bases leave of the cap, by its demand. -/
def grantCore (rest total : Nat) (s : State) (d : Nat × Nat) : State :=
  if s.working d.2 then
    ({ s with grants := Tab.set 0 s.grants d.2 (rest * d.1 / max 1 total) } : State).setClock d.2
      (if (s.core d.2).hot then 8 else clockFor (rest * d.1 / max 1 total)) (s.core d.2).hot
  else s

/-- What the arbiter makes of the machine. -/
def granted (bases demand : List Nat) (s : State) : State :=
  demand.zipIdx.foldl (grantCore (s.cap - (bases.take 16).sum) demand.sum) (baseGrants bases s)

theorem powerArbiterGrant_happens (bases demand : List Nat) (s : State) :
    Happens (.powerArbiterGrant bases demand) s (granted bases demand s) := by
  show execPowerArbiterGrant bases demand s = _
  rw [granted, List.sum_eq_foldl, List.sum_eq_foldl]
  rfl

theorem grant_baseGrants {bases : List Nat} {k w : Nat} (hk : k < 16) (h : bases[k]? = some w) :
    Tab.get 0 (baseGrants bases s).grants (72 + k) = w := by
  refine foldl_zipIdx_sets (read := fun g => Tab.get 0 g (72 + k)) (inv := fun _ => True) (d := w) (fun _ _ _ => trivial) (fun t e he => ?_)
    (fun t _ => ?_) _ 0 _ trivial (Nat.zero_le k) ?_
  · rw [Tab.get_set, if_neg (by omega)]
  · rw [Tab.get_set, if_pos rfl]
  · rw [Nat.sub_zero, List.getElem?_take_of_lt hk]
    exact h

section
variable (rest total : Nat) (t : State) (e : Nat × Nat)

theorem grantCore_eq : grantCore rest total t e =
    { t with cores := (grantCore rest total t e).cores, grants := (grantCore rest total t e).grants } := by
  unfold grantCore
  split <;> rfl

theorem working_grantCore (c : Nat) : (grantCore rest total t e).working c = t.working c := by
  rw [grantCore_eq]
  rfl

theorem hot_grantCore (c : Nat) : ((grantCore rest total t e).core c).hot = (t.core c).hot := by
  unfold grantCore
  split
  · rw [State.setClock, core_onCore]
    split
    next hc => rw [hc]
    · rfl
  · rfl

/-- Another core's grant and clock stay. -/
theorem grantCore_other {c : Nat} (h : e.2 ≠ c) : Tab.get 0 (grantCore rest total t e).grants c = Tab.get 0 t.grants c ∧
    (grantCore rest total t e).core c = t.core c := by
  unfold grantCore
  split
  · refine ⟨?_, ?_⟩
    · show Tab.get 0 (Tab.set 0 t.grants e.2 _) c = _
      rw [Tab.get_set, if_neg (Ne.symm h)]
    · rw [State.setClock, core_onCore, if_neg (Ne.symm h)]
      rfl
  · exact ⟨rfl, rfl⟩

/-- The grant and the clock of a core that works. -/
theorem grantCore_same (h : t.working e.2 = true) :
    (Tab.get 0 (grantCore rest total t e).grants e.2, ((grantCore rest total t e).core e.2).clock) =
      (rest * e.1 / max 1 total, if (t.core e.2).hot then 8 else clockFor (rest * e.1 / max 1 total)) := by
  rw [grantCore, if_pos h]
  refine Prod.ext ?_ (core_setClock e.2 _ _).1
  show Tab.get 0 (Tab.set 0 t.grants e.2 _) e.2 = _
  rw [Tab.get_set, if_pos rfl]

/-- A core's grant is none of a base island's. -/
theorem grantCore_base (k : Nat) : Tab.get 0 (grantCore rest total t e).grants (72 + k) = Tab.get 0 t.grants (72 + k) := by
  by_cases hw : t.working e.2 = true
  · have hlt : e.2 < 72 := of_decide_eq_true (Bool.and_eq_true_iff.mp hw).1
    exact (grantCore_other rest total t e (by omega)).1
  · rw [grantCore, if_neg hw]

end

theorem granted_eq (bases demand : List Nat) (s : State) :
    granted bases demand s = { s with cores := (granted bases demand s).cores, grants := (granted bases demand s).grants } := by
  refine List.foldlRecOn (motive := fun t : State => t = { s with cores := t.cores, grants := t.grants }) _ _ rfl fun t ht e _ => ?_
  rw [grantCore_eq]
  rw [ht]

theorem granted_base {bases demand : List Nat} {k w : Nat} (hk : k < 16) (h : bases[k]? = some w) :
    Tab.get 0 (granted bases demand s).grants (72 + k) = w :=
  List.foldlRecOn (motive := fun t : State => Tab.get 0 t.grants (72 + k) = w) _ _ (grant_baseGrants hk h) fun t ht e _ =>
    (grantCore_base _ _ t e k).trans ht

theorem granted_core {bases demand : List Nat} {c d : Nat} (h : demand[c]? = some d) (hw : s.working c = true) :
    Tab.get 0 (granted bases demand s).grants c = (s.cap - (bases.take 16).sum) * d / max 1 demand.sum ∧
      ((granted bases demand s).core c).clock = if (s.core c).hot then 8 else clockFor (Tab.get 0 (granted bases demand s).grants c) := by
  have hread := foldl_zipIdx_sets (read := fun t : State => (Tab.get 0 t.grants c, (t.core c).clock))
    (f := grantCore (s.cap - (bases.take 16).sum) demand.sum) (c := c) (d := d)
    (inv := fun t => t.working c = true ∧ (t.core c).hot = (s.core c).hot)
    (fun t e ht => ⟨(working_grantCore _ _ t e c).trans ht.1, (hot_grantCore _ _ t e c).trans ht.2⟩)
    (fun t e he => Prod.ext (grantCore_other _ _ t e he).1 (congrArg CoreSt.clock (grantCore_other _ _ t e he).2))
    (fun t ht => (grantCore_same _ _ t (d, c) ht.1).trans (by rw [ht.2])) demand 0 (baseGrants bases s) ⟨hw, rfl⟩ (Nat.zero_le c) h
  have hg : Tab.get 0 (granted bases demand s).grants c = _ := congrArg Prod.fst hread
  exact ⟨hg, by rw [hg]; exact congrArg Prod.snd hread⟩

end

/-- Settles O52: resets and boot by what they keep, the back-offs by whether they have ended, the grants island by island. -/
theorem powerEvents : Obligations.PowerEvents := by
  unfold Obligations.PowerEvents
  exact ⟨fun _ => ⟨rfl, rfl, rfl, rfl, rfl, rfl⟩, fun _ => ⟨rfl, rfl, rfl, rfl, rfl⟩, fun _ h => congrArg Host.Outcome.next (if_pos h),
    fun _ => warmReset_keeps, mgmtReadStatus_happens, writeCap_happens, writeRowThreshold_happens, fun _ _ => bootImage_happens,
    fun b s => ⟨(alert_happens b s).1, (alert_happens b s).2, fun _ => resetRows_count⟩,
    fun b _ h => ⟨endBackoffs_of_later h, endBackoff_of_later h b⟩,
    fun _ _ _ h => ⟨backoffEnd_happens h, endBackoff_ended h⟩,
    fun bases demand s => ⟨_, powerArbiterGrant_happens bases demand s, granted_eq bases demand s, fun _ _ => granted_base,
      fun _ _ => granted_core⟩,
    clockFor_bounds, fun c _ => ⟨rfl, rfl, core_setClock c⟩⟩

end Sys2Proof.Proofs
end
